-- ==== Sys2Proof/Word.lean ====
section
/-! DEFINITION. The word type and its plainest arithmetic: 32-bit register words, bytes, and the rounding
and limiting functions of the manual's pseudocode (R135, R176). -/

namespace Sys2Proof

/-- A BAR0 register or table word (R12). -/
abbrev Word := BitVec 32

/-- A byte of host memory, of a frame or of the NV store. -/
abbrev Byte := BitVec 8

/-- Division rounding half away from zero by a positive divisor (R135: `round_half_away`). -/
def rha (a : Int) (b : Nat) : Int :=
  if 0 ≤ a then (2 * a + b) / (2 * b) else -((2 * (-a) + b) / (2 * b))

/-- Division by any non-zero integer, rounding half away from zero. -/
def rhaI (a b : Int) : Int := if 0 ≤ b then rha a b.natAbs else rha (-a) b.natAbs

/-- `sat(v, w)`: the w-bit two's complement limit (R176). -/
def sat (v : Int) (w : Nat) : Int :=
  if v < -(2 ^ (w - 1) : Int) then -(2 ^ (w - 1) : Int)
  else if v > (2 ^ (w - 1) : Int) - 1 then (2 ^ (w - 1) : Int) - 1 else v

/-- `clamp(x, -m, m)`. -/
def clampSym (x m : Int) : Int := if x < -m then -m else if x > m then m else x

/-- `wrap32(x)` (R135's pseudocode conventions): the signed 32-bit value congruent to x. -/
def wrap32 (x : Int) : Int := (x + 2 ^ 31) % 2 ^ 32 - 2 ^ 31

/-- `wrap24(x)`. -/
def wrap24 (x : Int) : Int := (x + 2 ^ 23) % 2 ^ 24 - 2 ^ 23

/-- The signed value of an unsigned w-bit field. -/
def sext (x w : Nat) : Int := if x < 2 ^ (w - 1) then (x : Int) else (x : Int) - 2 ^ w

/-- The w-bit two's complement encoding of an integer. -/
def uenc (x : Int) (w : Nat) : Nat := (x % 2 ^ w).toNat

/-- Ceiling division of naturals. -/
def cdiv (a b : Nat) : Nat := (a + b - 1) / b

/-- The little-endian bytes of a natural, n of them. -/
def leBytes : Nat → Nat → List Byte
  | 0, _ => []
  | n + 1, v => BitVec.ofNat 8 v :: leBytes n (v / 256)

/-- The natural a little-endian byte list holds. -/
def leVal : List Byte → Nat
  | [] => 0
  | b :: bs => b.toNat + 256 * leVal bs

end Sys2Proof
end

