-- ==== Sys2Proof/Syntax.lean ====
section
/-! DEFINITION. The commands the block takes: one constructor of `Instr` for each row of opcode_table.json, with
the row's operands. `t` is the elapsed time, in ns, at which the command takes place. What the device measures or
reads by DMA comes as an operand. -/

namespace Sys2Proof

/-- The masters of R549. A JTAG read made in the boundary-scan debug access mode leaves RC fields unchanged (R17). -/
inductive Master where
  | polder
  | app
  | host
  | spi
  | jtag (boundaryScan : Bool)
deriving DecidableEq, Repr

/-- One BAR access: when, and by which master. -/
structure Bus where
  t : Nat
  m : Master
deriving DecidableEq, Repr

/-- The common part of a command descriptor (R322). Rings 0 to 15 are the host's, 16 to 19 the four internal rings
of R330. `reserved` says that a reserved byte or flag of the descriptor is not 0. -/
structure Hdr where
  t        : Nat
  ring     : Nat
  reqId    : BitVec 32
  cookie   : BitVec 64
  fence    : Bool
  irq      : Bool
  reserved : Bool
deriving DecidableEq, Repr

/-- The three kinds of ring (R317). -/
inductive RingKind where
  | cmd
  | cpl
  | str
deriving DecidableEq, Repr

/-- The kinds of state that an image's Berm map places: the pipeline's (R172), the acoustic chain's (R202), the Raman
accumulators (R230), the detector's and tracker's (R256), and the output staging area (R297). -/
inductive MapKind where
  | phase
  | chain
  | raman
  | detector
  | staging
deriving DecidableEq, Repr

/-- One item of an image's Berm map (R556): its memory, fibre engine, kind of state, base and size. -/
structure MapItem where
  berm : Bool
  fe   : Nat
  kind : MapKind
  base : Nat
  size : Nat
deriving DecidableEq, Repr

/-- A schedule image as LOAD_SCHEDULE reads it from host memory. `general` is the 64-byte general part (R283) and
`parts` the 96-byte parts (R284) of the contract record. The section layout, the microcode and the slot table have no
byte layout in the manual: `sectionsOk` says the header's lengths and offsets are right, `work` holds W and COMMIT_NS
as recomputed from the microcode for each part, `bankFe` the fibre engine each claimed bank is given to, `slots` the
claimed slots as channel, slot and owning fibre engine, and `signatureOk` the Polder's verification. -/
structure ImageRead where
  sectionsOk  : Bool
  general     : List Byte
  parts       : List (List Byte)
  work        : List (Nat × Nat)
  bankFe      : List (Nat × Nat)
  items       : List MapItem
  slots       : List (Nat × Nat × Nat)
  signatureOk : Bool
deriving DecidableEq, Repr

/-- A key token as read (R484): its first 32 bytes and whether its signature verifies. -/
structure TokenRead where
  bytes       : List Byte
  signatureOk : Bool
deriving DecidableEq, Repr

/-- A stream buffer descriptor as the host wrote it (R336). -/
structure BufDesc where
  addr : Nat
  len  : Nat
deriving DecidableEq, Repr

/-- What the foreground calibration measured for one channel (R114, R115): the sixteen CALF words, the residual
offset in 1/64 LSB, the interleave spur in 0.01 dBc and the largest skew in fs. -/
structure ChanMeas where
  words : List Word
  resid : Int
  spur  : Int
deriving DecidableEq, Repr

/-- The measurements of one ACQ_CALIBRATE: per channel (0 to 15 coherent, 16 to 23 intensity), per receiver pair the
factors A and B, the die temperature is PMC.DIE_TEMP, and whether the NV copy succeeded. -/
structure AcqMeas where
  chans : List (Nat × ChanMeas)
  pairs : List (Nat × Int × Int)
  nvOk  : Bool
deriving DecidableEq, Repr

/-- What a command's accesses of Berm and DRAM meet: an error while data is read (R449, R450, R455), or a write of the
schedule to a line of Berm (R449). -/
inductive MemErr where
  | bermSingle (bank line : Nat)
  | bermDouble (bank line : Nat)
  | dramSingle (ch : Nat)
  | dramDouble (ch : Nat)
  | linkEcc (ch : Nat)
  | lineWritten (bank line : Nat)
deriving DecidableEq, Repr

/-- The raw converter codes of one range sample: XI, XQ, YI, YQ (R96). -/
structure Raw4 where
  xi : Int
  xq : Int
  yi : Int
  yq : Int
deriving DecidableEq, Repr

/-- One filter output of the monitor converter: x with 8 fraction bits, and whether the modulator overloaded (R367). -/
structure FiltOut where
  x   : Int
  ovl : Bool
deriving DecidableEq, Repr

/-- The two measurements of one PGA setting in a calibration of the monitor converter (R380): the sum of x over 32
outputs with the inputs shorted, and over 64 outputs of the reference. -/
structure PgaMeas where
  g       : Nat
  ofsSum  : Int
  gainSum : Int
deriving DecidableEq, Repr

/-- What starts a regular pass besides software (R373). -/
inductive PmcTrig where
  | grid
  | continuous
  | hw (src : Nat)
deriving DecidableEq, Repr

/-- What a boot step found (R500, R506 to R508): whether the digest of the fast-boot region agrees; of each slot, whether its
image verifies and its SECURITY_VERSION; an uncorrectable NV read, and how many words were corrected; whether DRAM
initialisation succeeded. `records` are the
RWP register writes of step 7, `restores` the register writes of step 9, `images` the stored schedule images, `target` the
mode of the boot record. -/
structure BootInfo where
  digestOk : Bool
  slotAOk  : Bool
  slotBOk  : Bool
  versionA : Nat
  versionB : Nat
  nvUe     : Bool
  nvCe     : Nat
  dramOk   : Bool
  records  : List (Nat × Word)
  restores : List (Nat × Word)
  images   : List ImageRead
  target   : Nat
deriving DecidableEq, Repr

/-- A main rail that dips (R522): its group, PWR_ENk, and whether it is VDD_CORE. -/
structure RailDip where
  group : Fin 4
  core  : Bool
deriving DecidableEq, Repr

/-- The end of an SSI frame (R272): SSI_DAT half a clock period after the last bit, and after how many ns from there it is
high again. -/
structure SsiEnd where
  datLow : Bool
  high   : Nat
deriving DecidableEq, Repr

/-- The commands, in the order of opcode_table.json. -/
inductive Instr where
  -- descriptors of the command rings (R328)
  | nop (h : Hdr) (opcode : Nat)
  | arm (h : Hdr) (fe : Nat)
  | disarm (h : Hdr) (fe : Nat)
  | acqCalibrate (h : Hdr) (mask : Nat) (nv saveOnly : Bool)
  | pmcCalibrate (h : Hdr) (mask : Nat) (nv saveOnly : Bool)
  | loadSchedule (h : Hdr) (addr len : Nat) (img : Option ImageRead)
  | unloadSchedule (h : Hdr) (slot : Nat)
  | commit (h : Hdr) (addr len : Nat) (list : Option (List Byte))
  | commitCancel (h : Hdr) (target : BitVec 32)
  | setMode (h : Hdr) (mode : Nat) (tokenAddr : Nat) (token : Option TokenRead)
  | setLatency (h : Hdr) (ns : BitVec 64)
  | recover (h : Hdr) (mask : Nat)
  | faultInject (h : Hdr) (src kind durNs : Nat)
  | nvWrite (h : Hdr) (addr off len : Nat) (data : Option (List Byte))
  | nvRead (h : Hdr) (addr off len : Nat) (dmaOk : Bool) (corrected : Nat) (badWord : Option Nat)
  | readReattachLog (h : Hdr) (addr len : Nat)
  | spillDrain (h : Hdr)
  | detach (h : Hdr)
  | streamFlush (h : Hdr) (mask : BitVec 32)
  -- register actions
  | warmReset (b : Bus) (v : Word)
  | alignArm (b : Bus) (v : Word)
  | alignAbort (b : Bus) (v : Word)
  | qinLoad (b : Bus) (i : Fin 2) (v : Word)
  | clearIds (b : Bus) (k : Fin 16) (v : Word)
  | pmcSeqStart (b : Bus) (v : Word)
  | pmcSeqStop (b : Bus) (v : Word)
  | pmcInjStart (b : Bus) (j : Fin 4) (v : Word)
  | pmcCalStart (b : Bus) (v : Word)
  | weirLatchClear (b : Bus) (v : Word)
  | memInit (b : Bus) (v : Word)
  | memTestStart (b : Bus) (v : Word)
  | histDump (b : Bus) (v : Word)
  | epochLoWrite (b : Bus) (v : Word)
  | epochHiWrite (b : Bus) (v : Word)
  | snapshotRead (b : Bus) (off : Nat)
  | readClear (b : Bus) (off bytes : Nat)
  | qinPosRead (b : Bus) (i : Fin 2)
  | msFifoRead (b : Bus)
  | syncInDisable (b : Bus) (v : Word)
  | trackIdWrite (b : Bus) (m : Fin 4) (v : Word)
  | cmpValueWrite (b : Bus) (c : Fin 8) (v : Word)
  | weirConfigWrite (b : Bus) (m : Fin 16) (thr : Bool) (v : Word)
  | pmcDisable (b : Bus) (v : Word)
  | ringEnable (b : Bus) (kind : RingKind) (k : Nat) (v : Word)
  | ringDisable (b : Bus) (kind : RingKind) (k : Nat) (v : Word)
  | ringStopped (t : Nat) (kind : RingKind) (k : Nat)
  | cmdDoorbell (b : Bus) (k : Fin 16) (v : Word)
  | cplDoorbell (b : Bus) (k : Fin 16) (v : Word)
  | strDoorbell (b : Bus) (m : Fin 32) (v : Word) (descs : List BufDesc)
  | registerWrite (b : Bus) (off bytes : Nat) (v : BitVec 64)
  | spiTransaction (t : Nat) (cmd : BitVec 8) (addr : BitVec 16) (data : List Word) (reads : Nat)
  -- time base
  | refclkLoss (t : Nat)
  | refclkReturn (t : Nat)
  | pllLock (t : Nat)
  | timPllFail (t : Nat)
  | holdExpired (t : Nat)
  | ppsInEdge (t : Nat) (falling : Bool)
  | ppsLoss (t : Nat)
  | syncInEdge (t : Nat) (falling : Bool)
  | syncLoss (t : Nat)
  | syncOutPulse (t : Nat)
  | launchInEdge (t : Nat)
  | launchLate (t : Nat) (n : Fin 4)
  -- launch engine
  | launch (t : Nat) (n : Fin 4)
  | segmentEnd (t : Nat) (n : Fin 4)
  | gateWindowOpen (t : Nat) (n g : Fin 4)
  | gateWindowClose (t : Nat) (n g : Fin 4)
  | envExceed (t : Nat) (n : Fin 4)
  | dutyWindowEnd (t : Nat) (n : Fin 4)
  | armSelftestDone (t : Nat) (n : Fin 4) (pass : Bool)
  | armedEntry (t : Nat) (n : Fin 4)
  | disarmTakeEffect (t : Nat) (n : Fin 4)
  | safeNFall (t : Nat)
  | safeNRise (t : Nat)
  -- acquisition array
  | acqCalPhaseEnd (t : Nat) (coherent : Bool)
  | acqCalDone (t : Nat) (r : AcqMeas)
  | bgCalBlockEnd (t : Nat) (c : Fin 16) (raw : List Int)
  | iqBlindBlockEnd (t : Nat) (p : Fin 8) (sumII sumQQ sumIQ : Int)
  | darkBlockEnd (t : Nat) (i : Fin 8) (raw : List Int)
  | acqChFail (t : Nat) (ch : Fin 24) (since : Nat)
  -- signal path
  | shotProcessed (t : Nat) (n : Fin 4) (raw : List Raw4) (errs : List MemErr)
  | acfOutput (t : Nat) (n : Fin 4)
  | ramanShotAccumulate (t : Nat) (n : Fin 4) (stokes anti : List Int)
  | accumulationEnd (t : Nat) (n : Fin 4)
  | dtsEndComputation (t : Nat) (n : Fin 4)
  | energyIntervalEnd (t : Nat) (n : Fin 4)
  -- track interface
  | encoderEdge (t : Nat) (i : Fin 2) (qa qb : Bool)
  | cmpPulseEnd (t : Nat) (pin : Fin 12)
  | indexPulse (t : Nat) (i : Fin 2) (level : Bool)
  | encoderStall (t : Nat) (i : Fin 2)
  | countHistoryRecord (t : Nat) (i : Fin 2)
  | msEdge (t : Nat) (m : Fin 8) (falling : Bool) (stamp : Nat)
  | ssiFrameStart (t : Nat) (p : Fin 2) (datLow : Bool)
  | ssiFrameEnd (t : Nat) (p : Fin 2) (bits : BitVec 32) (end_ : SsiEnd)
  | encTargetUpdate (t : Nat) (m : Fin 4)
  | encStep (t : Nat) (m : Fin 4)
  -- schedule, commit groups, host interface
  | frameWorkDone (t : Nat) (n : Fin 4)
  | divert (t : Nat) (n : Fin 4)
  | commitLock (t : Nat) (g : Fin 8)
  | commitApply (t : Nat) (g : Fin 8)
  | frameDeliver (t : Nat) (stream : Fin 18)
  | frameRelease (t : Nat) (stream : Fin 18)
  | drainFrame (t : Nat) (errs : List MemErr)
  | coalesceTimeout (t : Nat) (k : Fin 16)
  | fetchError (t : Nat) (kind : RingKind) (k : Nat)
  | linkDown (t : Nat)
  | linkUp (t : Nat) (speed width : Nat)
  | perstNAssert (t : Nat)
  -- monitor converter
  | pmcTrigger (t : Nat) (trig : PmcTrig)
  | pmcResult (t : Nat) (outs : List FiltOut)
  | pmcInjHwTrigger (t : Nat) (j : Fin 4) (src : Nat)
  | pmcInjResult (t : Nat) (outs : List FiltOut)
  | pmcCalDone (t : Nat) (r : List PgaMeas) (nvOk : Bool)
  | refFail (t : Nat) (outside : Bool)
  | dieTempUpdate (t : Nat) (temp : Int)
  -- Weirs
  | weirCrossing (t : Nat) (m : Fin 16) (uV : Int)
  | weirAutoClear (t : Nat) (m : Fin 16)
  | weirSettleEnd (t : Nat) (m : Fin 16)
  | resolved (t : Nat) (m : Fin 16) (uV : Int)
  | rbCheck (t : Nat) (m : Fin 16) (upper : Bool)
  | rbStale (t : Nat) (m : Fin 16) (upper : Bool)
  | vddA18Return (t : Nat)
  -- fault collector
  | faultCapture (t : Nat) (src : Fin 128)
  | wireFault (t : Nat) (src : Fin 128)
  | windowClose (t : Nat)
  | injectionWindowEnd (t : Nat) (realError : Bool)
  | fltSelftest (t : Nat) (pass : Bool)
  | polWdt (t : Nat)
  | appWdt (t : Nat)
  -- DRAM and Berm
  | refreshTick (t : Nat) (c : Fin 4)
  | refreshWindow (t : Nat) (c : Fin 4)
  | mr4Poll (t : Nat) (c : Fin 4) (field : BitVec 5)
  | srEnter (t : Nat) (c : Fin 4)
  | srExit (t : Nat) (c : Fin 4) (beforeSre : Bool) (issued : Nat)
  | eyeMonitorRound (t : Nat) (c : Fin 4) (pass : Bool)
  | scrubPass (t : Nat) (errs : List MemErr)
  | bermInitDone (t : Nat)
  | memInitDone (t : Nat)
  | testRunDone (t : Nat) (fail : BitVec 26)
  | histDone (t : Nat)
  -- modes and power
  | ladderEntry (t : Nat)
  | ladderExit (t : Nat)
  | barAccessWake (t : Nat)
  | wakeN (t : Nat)
  | rtcAlarm (t : Nat)
  | powerSequenceStep (t : Nat) (railsGood : Bool)
  | railFail (t : Nat)
  | bootStepDone (t : Nat) (info : BootInfo)
  | porstNAssert (t : Nat)
  | porstNRelease (t : Nat)
  | vddAonRise (t : Nat)
  | vddAonFall (t : Nat)
  | safeHoldClear (t : Nat)
  | pwrUvRail (t : Nat) (rail : RailDip)
  -- further events
  | weirGateOpen (t : Nat) (m : Fin 16)
  | sourceCleared (t : Nat) (src : Fin 128)
  | perstNRelease (t : Nat)
  | pcieReceiverDetected (t : Nat)
  | nvWriteDone (t : Nat) (verifyOk : Bool)
  | loadScheduleDone (t : Nat)
  | completionConfirmed (t : Nat) (k : Fin 16)
  | appCoresReleased (t : Nat)
  | launchOutRise (t : Nat) (n : Fin 4)
deriving DecidableEq, Repr

end Sys2Proof
end

