-- ==== Sys2Proof/Decode.lean ====
section
/-! DEFINITION. Words of the opcode table, and the byte layouts of the descriptors that the host writes (R322, R328, R336).
Every row of spec/opcode_table.json has an empty list of bits: commands are register accesses, descriptors in host memory,
and events, and none is spelled by a word. -/

namespace Sys2Proof

/-- The command that a word of a row's bits spells: none, since no row gives bits. -/
def decodeTableWord (nbits w : Nat) : Option Instr :=
  match nbits, w with
  | _, _ => none

/-! ### Command descriptors (R322, R328, R379, R438, R440, R483) -/

/-- The little-endian number in `n` bytes at an offset; bytes that are missing count as 0. -/
def leAt (bs : List Byte) (off n : Nat) : Nat := ((bs.drop off).take n).foldr (fun b v => b.toNat + 256 * v) 0

/-- The parameters of an opcode: offset and size in bytes of each. -/
def paramBytes : Nat → List (Nat × Nat)
  | 0x0101 | 0x0102 | 0x0302 | 0x0403 => [(16, 1)]
  | 0x0201 => [(16, 4), (20, 1)]
  | 0x0202 => [(16, 1), (17, 1)]
  | 0x0301 | 0x0303 | 0x0601 => [(16, 8), (24, 4)]
  | 0x0304 | 0x0604 => [(16, 4)]
  | 0x0401 => [(16, 1), (24, 8)]
  | 0x0402 => [(16, 8)]
  | 0x0404 => [(16, 1), (17, 1), (20, 4)]
  | 0x0501 | 0x0502 => [(16, 8), (24, 4), (28, 4)]
  | _ => []

/-- Is a reserved byte or bit of a descriptor other than 0: in FLAGS, at byte 3, among the parameters? -/
def descReserved (op : Nat) (bs : List Byte) : Bool :=
  decide (4 ≤ leAt bs 2 1 ∨ leAt bs 3 1 ≠ 0) ||
  (List.range 48).any (fun i => !(paramBytes op).any (fun p => decide (p.1 ≤ 16 + i ∧ 16 + i < p.1 + p.2)) && leAt bs (16 + i) 1 != 0) ||
  (op == 0x0201 && decide (4 ≤ leAt bs 20 1)) || (op == 0x0202 && decide (4 ≤ leAt bs 17 1))

/-- The common part of a descriptor fetched at `t` from a ring. -/
def descHdr (t ring : Nat) (bs : List Byte) : Hdr :=
  ⟨t, ring, BitVec.ofNat 32 (leAt bs 4 4), BitVec.ofNat 64 (leAt bs 8 8), (leAt bs 2 1).testBit 0, (leAt bs 2 1).testBit 1,
    descReserved (leAt bs 0 2) bs⟩

/-- What the device reads besides the descriptor: an image, the bytes at a host address, a key token; for NV_READ whether
the write to host memory succeeds, the corrected words, and the first uncorrectable one. -/
structure DescRead where
  image     : Option ImageRead
  bytes     : Option (List Byte)
  token     : Option TokenRead
  dmaOk     : Bool
  corrected : Nat
  badWord   : Option Nat
deriving DecidableEq, Repr

/-- The command of a descriptor of 64 bytes; an unknown opcode is that of no command. -/
def decodeDesc (t ring : Nat) (bs : List Byte) (x : DescRead) : Instr :=
  let h := descHdr t ring bs
  let u := leAt bs
  match leAt bs 0 2 with
  | 0x0101 => .arm h (u 16 1)
  | 0x0102 => .disarm h (u 16 1)
  | 0x0201 => .acqCalibrate h (u 16 4) ((u 20 1).testBit 0) ((u 20 1).testBit 1)
  | 0x0202 => .pmcCalibrate h (u 16 1) ((u 17 1).testBit 0) ((u 17 1).testBit 1)
  | 0x0301 => .loadSchedule h (u 16 8) (u 24 4) x.image
  | 0x0302 => .unloadSchedule h (u 16 1)
  | 0x0303 => .commit h (u 16 8) (u 24 4) x.bytes
  | 0x0304 => .commitCancel h (BitVec.ofNat 32 (u 16 4))
  | 0x0401 => .setMode h (u 16 1) (u 24 8) x.token
  | 0x0402 => .setLatency h (BitVec.ofNat 64 (u 16 8))
  | 0x0403 => .recover h (u 16 1)
  | 0x0404 => .faultInject h (u 16 1) (u 17 1) (u 20 4)
  | 0x0501 => .nvWrite h (u 16 8) (u 24 4) (u 28 4) x.bytes
  | 0x0502 => .nvRead h (u 16 8) (u 24 4) (u 28 4) x.dmaOk x.corrected x.badWord
  | 0x0601 => .readReattachLog h (u 16 8) (u 24 4)
  | 0x0602 => .spillDrain h
  | 0x0603 => .detach h
  | 0x0604 => .streamFlush h (BitVec.ofNat 32 (u 16 4))
  | op => .nop h op

/-! ### Buffer descriptors (R336) -/

/-- The address and the length in bytes 0 to 15 of a stream buffer descriptor. -/
def bufDescOf (bs : List Byte) : BufDesc := ⟨leAt bs 0 8, leAt bs 8 4⟩

end Sys2Proof
end

