-- ==== Sys2Proof/Machine/Numeric.lean ====
section
/-! DEFINITION. Exact real functions the manual's tables and pseudocode name (cosine, sine, arc tangent, exponential,
binary logarithm), computed in integers with a scale of 2^96, far beyond the roundings that use them. -/

namespace Sys2Proof.Machine

/-- The scale of the fixed-point values of this file. -/
def fixOne : Int := 2 ^ 96

/-- π × 2^96. -/
def fixPi : Int := 248902613312231085230521944622

/-- ln 2 × 2^96. -/
def fixLn2 : Int := 54916777467707473351141471128

/-- Product of two fixed-point values. -/
def fixMul (a b : Int) : Int := a * b / fixOne

/-- Taylor terms of sine (k odd start) and cosine (k even start): the sum of t, −t x²/((k+1)(k+2)), … -/
def trigSum (x2 : Int) : Nat → Nat → Int → Int
  | 0, _, t => t
  | n + 1, k, t => t + trigSum x2 n (k + 2) (-(fixMul t x2) / ((k + 1) * (k + 2)))

/-- Sine of an angle in [0, π/2]. -/
def fixSin (x : Int) : Int := trigSum (fixMul x x) 16 1 x

/-- Cosine of an angle in [0, π/2]. -/
def fixCos (x : Int) : Int := trigSum (fixMul x x) 16 0 fixOne

/-- Cosine and sine of 2π i ÷ n in fixed point. -/
def cosSin (i n : Nat) : Int × Int :=
  let j := i % n
  let q := 4 * j / n
  let r := 4 * j % n
  let th := fixPi * r / (2 * n)
  let c := fixCos th
  let s := fixSin th
  match q with
  | 0 => (c, s)
  | 1 => (-s, c)
  | 2 => (-c, -s)
  | _ => (s, -c)

/-- Entry i of cos_tab and sin_tab (R66). -/
def mixTab (i : Nat) : Int × Int :=
  let p := cosSin i 65536
  (rha (p.1 * 2 ^ 17) (2 ^ 96), rha (p.2 * 2 ^ 17) (2 ^ 96))

/-- Taylor terms of the exponential. -/
def expSum (x : Int) : Nat → Nat → Int → Int
  | 0, _, t => t
  | n + 1, k, t => t + expSum x n (k + 1) (fixMul t x / (k + 1))

/-- e^x for a fixed-point x, rounded down to fixed point: x = m ln 2 + r. -/
def fixExp (x : Int) : Int :=
  let m := x / fixLn2
  let r := x - m * fixLn2
  let e := expSum r 32 0 fixOne
  if 0 ≤ m then e * 2 ^ m.toNat else e / 2 ^ (-m).toNat

/-- Fraction bits of the binary logarithm of y in [1, 2) by repeated squaring. -/
def log2Bits : Nat → Int → Int → Int
  | 0, _, acc => acc
  | n + 1, y, acc =>
    let z := fixMul y y
    if 2 * fixOne ≤ z then log2Bits n (z / 2) (2 * acc + 1) else log2Bits n z (2 * acc)

/-- log2 of a positive natural, with n fraction bits, rounded down. -/
def log2Floor (x n : Nat) : Int :=
  if x = 0 then 0
  else
    let e := x.log2
    e * 2 ^ n + log2Bits n ((x : Int) * fixOne / 2 ^ e) 0

/-- Integer square root, rounded down, by halving an interval: `n` steps of bits from the top. -/
def isqrtBits : Nat → Nat → Nat → Nat
  | 0, _, r => r
  | n + 1, x, r => if (r + 2 ^ n) * (r + 2 ^ n) ≤ x then isqrtBits n x (r + 2 ^ n) else isqrtBits n x r

/-- Integer square root, rounded down. -/
def isqrt (x : Nat) : Nat := isqrtBits (x.log2 / 2 + 1) x 0

/-- Taylor terms of the arc tangent of a small argument. -/
def atanSum (x2 : Int) : Nat → Nat → Int → Int
  | 0, _, _ => 0
  | n + 1, k, t => t / (2 * k + 1) + atanSum x2 n (k + 1) (-(fixMul t x2))

/-- Arc tangent of a ratio p ÷ q with 0 ≤ p ≤ q, q > 0, after two half-angle reductions. -/
def fixAtan (p q : Int) : Int :=
  let t := p * fixOne / q
  -- atan t = 2 atan (t / (1 + sqrt (1 + t²)))
  let half := fun (t : Int) => t * fixOne / (fixOne + (isqrt ((fixOne * fixOne + t * t).toNat) : Int))
  let u := half (half t)
  4 * atanSum (fixMul u u) 32 0 u

/-- The angle of (x, y) in (−π, π], in fixed point; 0 for the origin. -/
def fixAngle (x y : Int) : Int :=
  if x = 0 ∧ y = 0 then 0
  else
    let ax := (x.natAbs : Int)
    let ay := (y.natAbs : Int)
    let a := if ay ≤ ax then fixAtan ay ax else fixPi / 2 - fixAtan ax ay
    let b := if x < 0 then fixPi - a else a
    if y < 0 then -b else b

end Sys2Proof.Machine
end

