-- ==== Sys2Proof/Config.lean ====
section
/-! DEFINITION. What the manual leaves to the part or leaves open: constants with no body, so that no proof can see
their values (log 1, 6, 8). -/

namespace Sys2Proof

/-- SYS.SERIAL[i], fused (R516, R548; log 6). -/
opaque Config.serial : Nat → Word

/-- Word i of the n-th challenge drawn for PWR.CHALLENGE (R484, R548; log 6). -/
opaque Config.challenge : Nat → Nat → Word

/-- A fresh free natural, indexed by State.freeIdx (log 1). -/
opaque Config.freeNat : Nat → Nat

/-- A fresh free integer, indexed by State.freeIdx (log 1). -/
opaque Config.freeInt : Nat → Int

/-- Coefficients of the channel low-pass filter, the reference low-pass filter and the range interpolator
(R140, R143, R150; log 8): selector, tap. The manual gives their pass and stop bands, not their taps. -/
opaque Config.filterTap : Nat → Nat → Int

/-- The error of angle24 for a value (x, y), which R156 bounds and does not give (log 9). -/
opaque Config.angleErr : Int → Int → Nat

/-- The error of log2q for a value, which R217 bounds and does not give (log 9). -/
opaque Config.logErr : Nat → Nat

/-- The error of the output scale factor for a PGA setting, which R103 bounds and does not give (log 10). -/
opaque Config.gainErr : Nat → Int

/-- The instants of the levels within the GAIN phase of a calibration, the phases of the calibration tone (10^−6 turn at
instant 0) and of RAMP, the samples of NOISE, and the deviation of the loopback's delay: R99, R101 and R114 do not give them
(log 72). -/
opaque Config.calStep : Nat → Nat
opaque Config.calPhase : Nat → Nat
opaque Config.rampPhase : Nat
opaque Config.noise : Nat → Int
opaque Config.loopLag : Nat

/-- The read gate of a byte that the application image gives for a data rate (R472; log 92). -/
opaque Config.readGate : Nat → Nat → Nat

end Sys2Proof
end

