-- ==== Sys2Proof/Machine/Regs.lean ====
section
/-! DEFINITION. The register map: every register of R550 with its fields, access types (R15), reset values
(R548) and legal settings (R18), written out from the field tables of the chapters. The address of an array
instance is that of R545; the device's own uses of an index (a ring, a channel, an engine) stay within the array, which the
remainder by the number of instances says. An access by a master carries its offset, and never goes through an index. -/

namespace Sys2Proof.Machine

/-- A reference to a field: the BAR0 offset of its register, its lowest bit and its width. -/
structure FRef where
  off : Nat
  lo  : Nat
  w   : Nat
deriving DecidableEq, Repr

/-- The access types of R15. `rok` is an RO field that R14 or R552 keeps through a warm reset; `aon` and `aonro`
are the always-on fields of R503 (and FLT.SH_CAUSE), RW and RO. -/
inductive Acc where
  | rw | ro | rok | wo | w1c | w1s | rc | rws | rwp | aon | aonro
deriving DecidableEq, Repr

/-- The legal settings of a field where its description limits them (R18). -/
inductive Legal where
  | any
  | range (lo hi : Nat)
  | srange (lo hi : Int)
deriving DecidableEq, Repr

structure FieldSpec where
  lo    : Nat
  w     : Nat
  acc   : Acc
  reset : Nat
  legal : Legal
deriving DecidableEq, Repr

/-- A register or an array of registers: offset of instance 0, (stride, count) of each index, fields (R545). -/
structure RegSpec where
  base   : Nat
  dims   : List (Nat × Nat)
  fields : List FieldSpec
deriving DecidableEq, Repr

/-! ### SYS registers (R516, R550) -/

def SYS_ID : Nat := 0x000000
def SYS_ID_VENDOR : FRef := ⟨SYS_ID, 0, 16⟩
def SYS_ID_DEVICE : FRef := ⟨SYS_ID, 16, 16⟩
def SYS_CLASS : Nat := 0x000004
def SYS_CLASS_REV : FRef := ⟨SYS_CLASS, 0, 8⟩
def SYS_CLASS_SUBCLASS : FRef := ⟨SYS_CLASS, 8, 8⟩
def SYS_CLASS_CLASS : FRef := ⟨SYS_CLASS, 16, 8⟩
def SYS_SERIAL (i : Nat) : Nat := 0x000010 + 0x4 * (i % 4)
def SYS_SERIAL_SERIAL (i : Nat) : FRef := ⟨(SYS_SERIAL i), 0, 32⟩
def SYS_RESET : Nat := 0x000020
def SYS_RESET_WARM : FRef := ⟨SYS_RESET, 0, 1⟩
def SYS_RESET_CODE : FRef := ⟨SYS_RESET, 16, 16⟩
def SYS_RESET_CAUSE : Nat := 0x000024
def SYS_RESET_CAUSE_LAST : FRef := ⟨SYS_RESET_CAUSE, 0, 3⟩
def SYS_FW_VER : Nat := 0x000028
def SYS_FW_VER_GNOWA : FRef := ⟨SYS_FW_VER, 0, 16⟩
def SYS_FW_VER_APP : FRef := ⟨SYS_FW_VER, 16, 16⟩
def SYS_EVENTS : Nat := 0x000030
def SYS_EVENTS_CFG_ERR : FRef := ⟨SYS_EVENTS, 0, 1⟩
def SYS_INT_EN : Nat := 0x000034
def SYS_INT_EN_EN : FRef := ⟨SYS_INT_EN, 0, 1⟩

/-! ### PWR registers (R517, R550) -/

def PWR_MODE : Nat := 0x010000
def PWR_MODE_MODE : FRef := ⟨PWR_MODE, 0, 3⟩
def PWR_MODE_PREV : FRef := ⟨PWR_MODE, 3, 3⟩
def PWR_MODE_CHANGING : FRef := ⟨PWR_MODE, 6, 1⟩
def PWR_MODE_KEY_OK : FRef := ⟨PWR_MODE, 7, 1⟩
def PWR_MODE_LADDER : FRef := ⟨PWR_MODE, 8, 3⟩
def PWR_MODE_TARGET : FRef := ⟨PWR_MODE, 11, 3⟩
def PWR_EVENTS : Nat := 0x010004
def PWR_EVENTS_MODE_CHANGE : FRef := ⟨PWR_EVENTS, 0, 1⟩
def PWR_EVENTS_WAKE : FRef := ⟨PWR_EVENTS, 1, 1⟩
def PWR_EVENTS_BOOT_FAIL : FRef := ⟨PWR_EVENTS, 2, 1⟩
def PWR_EVENTS_KEY_FAIL : FRef := ⟨PWR_EVENTS, 3, 1⟩
def PWR_EVENTS_RAIL_FAIL : FRef := ⟨PWR_EVENTS, 4, 1⟩
def PWR_EVENTS_CFG_ERR : FRef := ⟨PWR_EVENTS, 5, 1⟩
def PWR_INT_EN : Nat := 0x010008
def PWR_INT_EN_EN : FRef := ⟨PWR_INT_EN, 0, 6⟩
def PWR_LAT_TOL_LO : Nat := 0x01000C
def PWR_LAT_TOL_LO_NS : FRef := ⟨PWR_LAT_TOL_LO, 0, 32⟩
def PWR_LAT_TOL_HI : Nat := 0x010010
def PWR_LAT_TOL_HI_NS : FRef := ⟨PWR_LAT_TOL_HI, 0, 32⟩
def PWR_HOLD : Nat := 0x010014
def PWR_HOLD_L0 : FRef := ⟨PWR_HOLD, 0, 1⟩
def PWR_HOLD_L3 : FRef := ⟨PWR_HOLD, 1, 1⟩
def PWR_HOLD_L4 : FRef := ⟨PWR_HOLD, 2, 1⟩
def PWR_HOLD_MODE : FRef := ⟨PWR_HOLD, 3, 1⟩
def PWR_SENT_CFG : Nat := 0x010018
def PWR_SENT_CFG_STRIDE : FRef := ⟨PWR_SENT_CFG, 0, 10⟩
def PWR_SENT_CFG_TONES : FRef := ⟨PWR_SENT_CFG, 10, 2⟩
def PWR_SENT_CFG_WAKE_EN : FRef := ⟨PWR_SENT_CFG, 12, 1⟩
def PWR_BOOT_STATUS : Nat := 0x01001C
def PWR_BOOT_STATUS_CODE : FRef := ⟨PWR_BOOT_STATUS, 0, 4⟩
def PWR_BOOT_STATUS_GNOWA_SLOT : FRef := ⟨PWR_BOOT_STATUS, 4, 1⟩
def PWR_BOOT_STATUS_APP_SLOT : FRef := ⟨PWR_BOOT_STATUS, 5, 1⟩
def PWR_BOOT_STATUS_SCHED_FAIL : FRef := ⟨PWR_BOOT_STATUS, 6, 1⟩
def PWR_BOOT_STATUS_FAST : FRef := ⟨PWR_BOOT_STATUS, 7, 1⟩
def PWR_BOOT_STATUS_MS : FRef := ⟨PWR_BOOT_STATUS, 16, 16⟩
def PWR_CHALLENGE (i : Nat) : Nat := 0x010020 + 0x4 * (i % 4)
def PWR_CHALLENGE_NONCE (i : Nat) : FRef := ⟨(PWR_CHALLENGE i), 0, 32⟩
def PWR_STATUS : Nat := 0x010030
def PWR_STATUS_PG : FRef := ⟨PWR_STATUS, 0, 4⟩
def PWR_STATUS_XTAL32 : FRef := ⟨PWR_STATUS, 4, 1⟩
def PWR_RES (x : Nat) : Nat := 0x010040 + 0x4 * (x % 7)
def PWR_RES_MS (x : Nat) : FRef := ⟨(PWR_RES x), 0, 32⟩
def PWR_WAKE_CFG : Nat := 0x010080
def PWR_WAKE_CFG_AUTO_BOOT : FRef := ⟨PWR_WAKE_CFG, 0, 1⟩
def PWR_WAKE_CFG_RTC_EN : FRef := ⟨PWR_WAKE_CFG, 1, 1⟩
def PWR_WAKE_CFG_SPI_EN : FRef := ⟨PWR_WAKE_CFG, 2, 1⟩
def PWR_SEQ_CFG : Nat := 0x010084
def PWR_SEQ_CFG_STEP_MS : FRef := ⟨PWR_SEQ_CFG, 0, 4⟩
def PWR_WAKE_CAUSE : Nat := 0x010088
def PWR_WAKE_CAUSE_SOURCE : FRef := ⟨PWR_WAKE_CAUSE, 0, 3⟩
def PWR_RTC_LO : Nat := 0x010090
def PWR_RTC_LO_TICKS : FRef := ⟨PWR_RTC_LO, 0, 32⟩
def PWR_RTC_HI : Nat := 0x010094
def PWR_RTC_HI_TICKS : FRef := ⟨PWR_RTC_HI, 0, 32⟩
def PWR_ALARM_LO : Nat := 0x010098
def PWR_ALARM_LO_TICKS : FRef := ⟨PWR_ALARM_LO, 0, 32⟩
def PWR_ALARM_HI : Nat := 0x01009C
def PWR_ALARM_HI_TICKS : FRef := ⟨PWR_ALARM_HI, 0, 32⟩

/-! ### TIM registers (R59, R550) -/

def TIM_REF_CFG : Nat := 0x020000
def TIM_REF_CFG_FREQ : FRef := ⟨TIM_REF_CFG, 0, 1⟩
def TIM_REF_CFG_DISC : FRef := ⟨TIM_REF_CFG, 1, 2⟩
def TIM_REF_CFG_PPS_EDGE : FRef := ⟨TIM_REF_CFG, 3, 1⟩
def TIM_REF_CFG_SLEW : FRef := ⟨TIM_REF_CFG, 4, 8⟩
def TIM_REF_CFG_HOLD_LIMIT : FRef := ⟨TIM_REF_CFG, 16, 12⟩
def TIM_STATUS : Nat := 0x020004
def TIM_STATUS_CLK_STATE : FRef := ⟨TIM_STATUS, 0, 2⟩
def TIM_STATUS_GT_VALID : FRef := ⟨TIM_STATUS, 2, 1⟩
def TIM_STATUS_REF_PRESENT : FRef := ⟨TIM_STATUS, 3, 1⟩
def TIM_STATUS_PPS_PRESENT : FRef := ⟨TIM_STATUS, 4, 1⟩
def TIM_STATUS_SYNC_PRESENT : FRef := ⟨TIM_STATUS, 5, 1⟩
def TIM_STATUS_ALIGN_PENDING : FRef := ⟨TIM_STATUS, 6, 1⟩
def TIM_STATUS_FE_ARMED : FRef := ⟨TIM_STATUS, 8, 4⟩
def TIM_EVENTS : Nat := 0x020008
def TIM_EVENTS_REF_LOSS : FRef := ⟨TIM_EVENTS, 0, 1⟩
def TIM_EVENTS_PPS_LOSS : FRef := ⟨TIM_EVENTS, 1, 1⟩
def TIM_EVENTS_PPS_DEV : FRef := ⟨TIM_EVENTS, 2, 1⟩
def TIM_EVENTS_HOLD_EXPIRED : FRef := ⟨TIM_EVENTS, 3, 1⟩
def TIM_EVENTS_SYNC_LOSS : FRef := ⟨TIM_EVENTS, 4, 1⟩
def TIM_EVENTS_SYNC_DEV : FRef := ⟨TIM_EVENTS, 5, 1⟩
def TIM_EVENTS_ALIGN_DONE : FRef := ⟨TIM_EVENTS, 6, 1⟩
def TIM_EVENTS_ALIGN_ABORT : FRef := ⟨TIM_EVENTS, 7, 1⟩
def TIM_EVENTS_LOCK : FRef := ⟨TIM_EVENTS, 8, 1⟩
def TIM_EVENTS_CFG_ERR : FRef := ⟨TIM_EVENTS, 9, 1⟩
def TIM_EVENTS_LAUNCH_EARLY : FRef := ⟨TIM_EVENTS, 16, 4⟩
def TIM_EVENTS_LAUNCH_LATE : FRef := ⟨TIM_EVENTS, 20, 4⟩
def TIM_INT_EN : Nat := 0x02000C
def TIM_INT_EN_EN : FRef := ⟨TIM_INT_EN, 0, 10⟩
def TIM_INT_EN_EN_FE : FRef := ⟨TIM_INT_EN, 16, 8⟩
def TIM_GT_LO : Nat := 0x020010
def TIM_GT_LO_GT : FRef := ⟨TIM_GT_LO, 0, 32⟩
def TIM_GT_HI : Nat := 0x020014
def TIM_GT_HI_GT : FRef := ⟨TIM_GT_HI, 0, 32⟩
def TIM_GT_NEXT_LO : Nat := 0x020018
def TIM_GT_NEXT_LO_GT_NEXT : FRef := ⟨TIM_GT_NEXT_LO, 0, 32⟩
def TIM_GT_NEXT_HI : Nat := 0x02001C
def TIM_GT_NEXT_HI_GT_NEXT : FRef := ⟨TIM_GT_NEXT_HI, 0, 32⟩
def TIM_ALIGN : Nat := 0x020020
def TIM_ALIGN_ARM : FRef := ⟨TIM_ALIGN, 0, 1⟩
def TIM_ALIGN_SRC : FRef := ⟨TIM_ALIGN, 1, 1⟩
def TIM_ALIGN_ABORT : FRef := ⟨TIM_ALIGN, 2, 1⟩
def TIM_PPS_ERR : Nat := 0x020024
def TIM_PPS_ERR_ERR : FRef := ⟨TIM_PPS_ERR, 0, 32⟩
def TIM_TOL : Nat := 0x020028
def TIM_TOL_PPS_TOL : FRef := ⟨TIM_TOL, 0, 16⟩
def TIM_TOL_SYNC_TOL : FRef := ⟨TIM_TOL, 16, 16⟩
def TIM_TRIM : Nat := 0x02002C
def TIM_TRIM_TRIM : FRef := ⟨TIM_TRIM, 0, 16⟩
def TIM_EPOCH_LO : Nat := 0x020030
def TIM_EPOCH_LO_EPOCH : FRef := ⟨TIM_EPOCH_LO, 0, 32⟩
def TIM_EPOCH_HI : Nat := 0x020034
def TIM_EPOCH_HI_EPOCH : FRef := ⟨TIM_EPOCH_HI, 0, 32⟩
def TIM_SYNC_CFG : Nat := 0x020040
def TIM_SYNC_CFG_OUT_EN : FRef := ⟨TIM_SYNC_CFG, 0, 1⟩
def TIM_SYNC_CFG_IN_EN : FRef := ⟨TIM_SYNC_CFG, 1, 1⟩
def TIM_SYNC_CFG_IN_EDGE : FRef := ⟨TIM_SYNC_CFG, 2, 1⟩
def TIM_SYNC_CFG_PERIOD : FRef := ⟨TIM_SYNC_CFG, 4, 20⟩
def TIM_SYNC_DELAY : Nat := 0x020044
def TIM_SYNC_DELAY_DELAY : FRef := ⟨TIM_SYNC_DELAY, 0, 20⟩
def TIM_SYNC_ERR : Nat := 0x020048
def TIM_SYNC_ERR_ERR : FRef := ⟨TIM_SYNC_ERR, 0, 32⟩
def TIM_LAUNCH_OUT_CFG : Nat := 0x020050
def TIM_LAUNCH_OUT_CFG_FE_MASK : FRef := ⟨TIM_LAUNCH_OUT_CFG, 0, 4⟩
def TIM_LAUNCH_OUT_CFG_TONE0_ONLY : FRef := ⟨TIM_LAUNCH_OUT_CFG, 4, 1⟩
def TIM_LAUNCH_OUT_CFG_WIDTH : FRef := ⟨TIM_LAUNCH_OUT_CFG, 8, 12⟩
def TIM_LAUNCH_OUT_CFG_ADV : FRef := ⟨TIM_LAUNCH_OUT_CFG, 20, 12⟩
def TIM_FE_PRI (n : Nat) : Nat := 0x020100 + 0x100 * (n % 4)
def TIM_FE_PRI_PRI (n : Nat) : FRef := ⟨(TIM_FE_PRI n), 0, 24⟩
def TIM_FE_PRI_TONES (n : Nat) : FRef := ⟨(TIM_FE_PRI n), 24, 2⟩
def TIM_FE_WIN_START (n : Nat) : Nat := 0x020104 + 0x100 * (n % 4)
def TIM_FE_WIN_START_WIN_START (n : Nat) : FRef := ⟨(TIM_FE_WIN_START n), 0, 21⟩
def TIM_FE_WIN_LEN (n : Nat) : Nat := 0x020108 + 0x100 * (n % 4)
def TIM_FE_WIN_LEN_WIN_LEN (n : Nat) : FRef := ⟨(TIM_FE_WIN_LEN n), 0, 21⟩
def TIM_FE_GUARD (n : Nat) : Nat := 0x02010C + 0x100 * (n % 4)
def TIM_FE_GUARD_GUARD (n : Nat) : FRef := ⟨(TIM_FE_GUARD n), 0, 16⟩
def TIM_FE_REF_OFS (n : Nat) : Nat := 0x020110 + 0x100 * (n % 4)
def TIM_FE_REF_OFS_REF_OFS (n : Nat) : FRef := ⟨(TIM_FE_REF_OFS n), 0, 16⟩
def TIM_FE_GROUP_INDEX (n : Nat) : Nat := 0x020114 + 0x100 * (n % 4)
def TIM_FE_GROUP_INDEX_NG (n : Nat) : FRef := ⟨(TIM_FE_GROUP_INDEX n), 0, 16⟩
def TIM_FE_LAUNCH_CTL (n : Nat) : Nat := 0x020118 + 0x100 * (n % 4)
def TIM_FE_LAUNCH_CTL_SRC (n : Nat) : FRef := ⟨(TIM_FE_LAUNCH_CTL n), 0, 1⟩
def TIM_FE_LAUNCH_CTL_LATE_TO (n : Nat) : FRef := ⟨(TIM_FE_LAUNCH_CTL n), 8, 24⟩
def TIM_FE_SHOT_LO (n : Nat) : Nat := 0x020120 + 0x100 * (n % 4)
def TIM_FE_SHOT_LO_SHOT (n : Nat) : FRef := ⟨(TIM_FE_SHOT_LO n), 0, 32⟩
def TIM_FE_SHOT_HI (n : Nat) : Nat := 0x020124 + 0x100 * (n % 4)
def TIM_FE_SHOT_HI_SHOT (n : Nat) : FRef := ⟨(TIM_FE_SHOT_HI n), 0, 16⟩
def TIM_FE_SHOT_HI_VALID (n : Nat) : FRef := ⟨(TIM_FE_SHOT_HI n), 31, 1⟩
def TIM_FE_LAST_GT_LO (n : Nat) : Nat := 0x020128 + 0x100 * (n % 4)
def TIM_FE_LAST_GT_LO_GT (n : Nat) : FRef := ⟨(TIM_FE_LAST_GT_LO n), 0, 32⟩
def TIM_FE_LAST_GT_HI (n : Nat) : Nat := 0x02012C + 0x100 * (n % 4)
def TIM_FE_LAST_GT_HI_GT (n : Nat) : FRef := ⟨(TIM_FE_LAST_GT_HI n), 0, 32⟩
def TIM_FE_EARLY_CNT (n : Nat) : Nat := 0x020130 + 0x100 * (n % 4)
def TIM_FE_EARLY_CNT_COUNT (n : Nat) : FRef := ⟨(TIM_FE_EARLY_CNT n), 0, 32⟩
def TIM_FE_LATE_CNT (n : Nat) : Nat := 0x020134 + 0x100 * (n % 4)
def TIM_FE_LATE_CNT_COUNT (n : Nat) : FRef := ⟨(TIM_FE_LATE_CNT n), 0, 32⟩

/-! ### LNC registers (R93, R550) -/

def LNC_STATUS (n : Nat) : Nat := 0x030000 + 0x4000 * (n % 4)
def LNC_STATUS_STATE (n : Nat) : FRef := ⟨(LNC_STATUS n), 0, 2⟩
def LNC_STATUS_TRIP_LIVE (n : Nat) : FRef := ⟨(LNC_STATUS n), 2, 1⟩
def LNC_STATUS_SAFE_N_LIVE (n : Nat) : FRef := ⟨(LNC_STATUS n), 3, 1⟩
def LNC_STATUS_PAIR_NEXT (n : Nat) : FRef := ⟨(LNC_STATUS n), 4, 1⟩
def LNC_TRIP_CAUSE (n : Nat) : Nat := 0x030004 + 0x4000 * (n % 4)
def LNC_TRIP_CAUSE_WEIR (n : Nat) : FRef := ⟨(LNC_TRIP_CAUSE n), 0, 1⟩
def LNC_TRIP_CAUSE_SAFE_N (n : Nat) : FRef := ⟨(LNC_TRIP_CAUSE n), 1, 1⟩
def LNC_TRIP_CAUSE_FAULT_F (n : Nat) : FRef := ⟨(LNC_TRIP_CAUSE n), 2, 1⟩
def LNC_TRIP_CAUSE_FAULT_U (n : Nat) : FRef := ⟨(LNC_TRIP_CAUSE n), 3, 1⟩
def LNC_TRIP_CAUSE_ENV_DUTY (n : Nat) : FRef := ⟨(LNC_TRIP_CAUSE n), 4, 1⟩
def LNC_TRIP_CAUSE_ENV_GATE (n : Nat) : FRef := ⟨(LNC_TRIP_CAUSE n), 5, 1⟩
def LNC_TRIP_CAUSE_WEIR_MASK (n : Nat) : FRef := ⟨(LNC_TRIP_CAUSE n), 16, 16⟩
def LNC_EVENTS (n : Nat) : Nat := 0x030008 + 0x4000 * (n % 4)
def LNC_EVENTS_ARMED (n : Nat) : FRef := ⟨(LNC_EVENTS n), 0, 1⟩
def LNC_EVENTS_DISARMED (n : Nat) : FRef := ⟨(LNC_EVENTS n), 1, 1⟩
def LNC_EVENTS_TRIPPED (n : Nat) : FRef := ⟨(LNC_EVENTS n), 2, 1⟩
def LNC_EVENTS_ARM_FAIL (n : Nat) : FRef := ⟨(LNC_EVENTS n), 3, 1⟩
def LNC_EVENTS_ENV_CLAMP (n : Nat) : FRef := ⟨(LNC_EVENTS n), 4, 1⟩
def LNC_EVENTS_CFG_ERR (n : Nat) : FRef := ⟨(LNC_EVENTS n), 5, 1⟩
def LNC_INT_EN (n : Nat) : Nat := 0x03000C + 0x4000 * (n % 4)
def LNC_INT_EN_EN (n : Nat) : FRef := ⟨(LNC_INT_EN n), 0, 6⟩
def LNC_ARM_RESULT (n : Nat) : Nat := 0x030010 + 0x4000 * (n % 4)
def LNC_ARM_RESULT_CODE (n : Nat) : FRef := ⟨(LNC_ARM_RESULT n), 0, 4⟩
def LNC_ARM_CFG (n : Nat) : Nat := 0x030014 + 0x4000 * (n % 4)
def LNC_ARM_CFG_LEAD (n : Nat) : FRef := ⟨(LNC_ARM_CFG n), 0, 20⟩
def LNC_CLAMP_CNT (n : Nat) : Nat := 0x030018 + 0x4000 * (n % 4)
def LNC_CLAMP_CNT_COUNT (n : Nat) : FRef := ⟨(LNC_CLAMP_CNT n), 0, 32⟩
def LNC_DUTY_MEAS (n : Nat) : Nat := 0x03001C + 0x4000 * (n % 4)
def LNC_DUTY_MEAS_SAMPLES (n : Nat) : FRef := ⟨(LNC_DUTY_MEAS n), 0, 22⟩
def LNC_TRIP_GT_LO (n : Nat) : Nat := 0x030020 + 0x4000 * (n % 4)
def LNC_TRIP_GT_LO_GT (n : Nat) : FRef := ⟨(LNC_TRIP_GT_LO n), 0, 32⟩
def LNC_TRIP_GT_HI (n : Nat) : Nat := 0x030024 + 0x4000 * (n % 4)
def LNC_TRIP_GT_HI_GT (n : Nat) : FRef := ⟨(LNC_TRIP_GT_HI n), 0, 32⟩
def LNC_SEG_START (n j : Nat) : Nat := 0x030100 + 0x4000 * (n % 4) + 0x10 * (j % 8)
def LNC_SEG_START_START (n j : Nat) : FRef := ⟨(LNC_SEG_START n j), 0, 16⟩
def LNC_SEG_LEN (n j : Nat) : Nat := 0x030104 + 0x4000 * (n % 4) + 0x10 * (j % 8)
def LNC_SEG_LEN_LEN (n j : Nat) : FRef := ⟨(LNC_SEG_LEN n j), 0, 17⟩
def LNC_SEG_KIND (n j : Nat) : Nat := 0x030108 + 0x4000 * (n % 4) + 0x10 * (j % 8)
def LNC_SEG_KIND_KIND (n j : Nat) : FRef := ⟨(LNC_SEG_KIND n j), 0, 2⟩
def LNC_SEG_KIND_DIR (n j : Nat) : FRef := ⟨(LNC_SEG_KIND n j), 2, 1⟩
def LNC_SEG_KIND_CHIP_SAMP (n j : Nat) : FRef := ⟨(LNC_SEG_KIND n j), 8, 8⟩
def LNC_SEG_KIND_PARAM (n j : Nat) : FRef := ⟨(LNC_SEG_KIND n j), 16, 13⟩
def LNC_TONE_SEG (n k : Nat) : Nat := 0x030200 + 0x4000 * (n % 4) + 0x10 * (k % 4)
def LNC_TONE_SEG_SEG_A (n k : Nat) : FRef := ⟨(LNC_TONE_SEG n k), 0, 3⟩
def LNC_TONE_SEG_SEG_B (n k : Nat) : FRef := ⟨(LNC_TONE_SEG n k), 4, 3⟩
def LNC_TONE_SEG_PAIR (n k : Nat) : FRef := ⟨(LNC_TONE_SEG n k), 8, 1⟩
def LNC_TONE_FREQ (n k : Nat) : Nat := 0x030204 + 0x4000 * (n % 4) + 0x10 * (k % 4)
def LNC_TONE_FREQ_FREQ_KHZ (n k : Nat) : FRef := ⟨(LNC_TONE_FREQ n k), 0, 20⟩
def LNC_GATE_CFG (n g : Nat) : Nat := 0x030300 + 0x4000 * (n % 4) + 0x10 * (g % 4)
def LNC_GATE_CFG_MODE (n g : Nat) : FRef := ⟨(LNC_GATE_CFG n g), 0, 2⟩
def LNC_GATE_CFG_POL (n g : Nat) : FRef := ⟨(LNC_GATE_CFG n g), 2, 1⟩
def LNC_GATE_CFG_TONE_MASK (n g : Nat) : FRef := ⟨(LNC_GATE_CFG n g), 4, 4⟩
def LNC_GATE_START (n g : Nat) : Nat := 0x030304 + 0x4000 * (n % 4) + 0x10 * (g % 4)
def LNC_GATE_START_START (n g : Nat) : FRef := ⟨(LNC_GATE_START n g), 0, 32⟩
def LNC_GATE_DUR (n g : Nat) : Nat := 0x030308 + 0x4000 * (n % 4) + 0x10 * (g % 4)
def LNC_GATE_DUR_DUR (n g : Nat) : FRef := ⟨(LNC_GATE_DUR n g), 0, 17⟩
def LNC_RAMAN_CFG (n : Nat) : Nat := 0x030340 + 0x4000 * (n % 4)
def LNC_RAMAN_CFG_EN (n : Nat) : FRef := ⟨(LNC_RAMAN_CFG n), 0, 1⟩
def LNC_RAMAN_CFG_TONE (n : Nat) : FRef := ⟨(LNC_RAMAN_CFG n), 1, 2⟩
def LNC_RAMAN_CFG_EVERY (n : Nat) : FRef := ⟨(LNC_RAMAN_CFG n), 8, 8⟩
def LNC_EXT_CODE (n : Nat) : Nat := 0x030400 + 0x4000 * (n % 4)
def LNC_EXT_CODE_EXT_I (n : Nat) : FRef := ⟨(LNC_EXT_CODE n), 0, 12⟩
def LNC_EXT_CODE_EXT_Q (n : Nat) : FRef := ⟨(LNC_EXT_CODE n), 16, 12⟩
def LNC_ENV_PEAK (n : Nat) : Nat := 0x030404 + 0x4000 * (n % 4)
def LNC_ENV_PEAK_PEAK (n : Nat) : FRef := ⟨(LNC_ENV_PEAK n), 0, 11⟩
def LNC_ENV_DUTY (n : Nat) : Nat := 0x030408 + 0x4000 * (n % 4)
def LNC_ENV_DUTY_MAX_SAMPLES (n : Nat) : FRef := ⟨(LNC_ENV_DUTY n), 0, 22⟩
def LNC_ENV_GATE_ON (n g : Nat) : Nat := 0x030410 + 0x4000 * (n % 4) + 0x8 * (g % 4)
def LNC_ENV_GATE_ON_MAX_ON (n g : Nat) : FRef := ⟨(LNC_ENV_GATE_ON n g), 0, 21⟩
def LNC_ENV_GATE_DUTY (n g : Nat) : Nat := 0x030414 + 0x4000 * (n % 4) + 0x8 * (g % 4)
def LNC_ENV_GATE_DUTY_MAX_DUTY (n g : Nat) : FRef := ⟨(LNC_ENV_GATE_DUTY n g), 0, 21⟩
def LNC_ENV_CTL (n : Nat) : Nat := 0x030430 + 0x4000 * (n % 4)
def LNC_ENV_CTL_VALID (n : Nat) : FRef := ⟨(LNC_ENV_CTL n), 0, 1⟩

/-! ### ACQ registers (R131, R550) -/

def ACQ_STATUS : Nat := 0x040000
def ACQ_STATUS_CAL_BUSY : FRef := ⟨ACQ_STATUS, 0, 1⟩
def ACQ_STATUS_CAL_PHASE : FRef := ⟨ACQ_STATUS, 1, 3⟩
def ACQ_STATUS_IQ_CONV : FRef := ⟨ACQ_STATUS, 8, 8⟩
def ACQ_EVENTS : Nat := 0x040004
def ACQ_EVENTS_CAL_DONE : FRef := ⟨ACQ_EVENTS, 0, 1⟩
def ACQ_EVENTS_CAL_PARTIAL : FRef := ⟨ACQ_EVENTS, 1, 1⟩
def ACQ_EVENTS_CAL_ABORT : FRef := ⟨ACQ_EVENTS, 2, 1⟩
def ACQ_EVENTS_OVR : FRef := ⟨ACQ_EVENTS, 3, 1⟩
def ACQ_EVENTS_DRIFT : FRef := ⟨ACQ_EVENTS, 4, 1⟩
def ACQ_EVENTS_IQ_CONV : FRef := ⟨ACQ_EVENTS, 5, 1⟩
def ACQ_EVENTS_CH_FAIL : FRef := ⟨ACQ_EVENTS, 6, 1⟩
def ACQ_EVENTS_NV_FAIL : FRef := ⟨ACQ_EVENTS, 7, 1⟩
def ACQ_EVENTS_CFG_ERR : FRef := ⟨ACQ_EVENTS, 8, 1⟩
def ACQ_INT_EN : Nat := 0x040008
def ACQ_INT_EN_EN : FRef := ⟨ACQ_INT_EN, 0, 9⟩
def ACQ_CAL_CTL : Nat := 0x04000C
def ACQ_CAL_CTL_BG_CC_EN : FRef := ⟨ACQ_CAL_CTL, 0, 1⟩
def ACQ_CAL_CTL_BG_IC_EN : FRef := ⟨ACQ_CAL_CTL, 1, 1⟩
def ACQ_CAL_CTL_IQ_BLIND : FRef := ⟨ACQ_CAL_CTL, 2, 1⟩
def ACQ_CAL_RESULT : Nat := 0x040010
def ACQ_CAL_RESULT_CODE : FRef := ⟨ACQ_CAL_RESULT, 0, 3⟩
def ACQ_CAL_RESULT_TEMP : FRef := ⟨ACQ_CAL_RESULT, 16, 16⟩
def ACQ_CAL_FAIL : Nat := 0x040014
def ACQ_CAL_FAIL_CC : FRef := ⟨ACQ_CAL_FAIL, 0, 16⟩
def ACQ_CAL_FAIL_IC : FRef := ⟨ACQ_CAL_FAIL, 16, 8⟩
def ACQ_CALDAC_CFG : Nat := 0x040018
def ACQ_CALDAC_CFG_MODE : FRef := ⟨ACQ_CALDAC_CFG, 0, 2⟩
def ACQ_CALDAC_CFG_LOOP : FRef := ⟨ACQ_CALDAC_CFG, 2, 1⟩
def ACQ_CALDAC_CFG_LOOP_FE : FRef := ⟨ACQ_CALDAC_CFG, 3, 2⟩
def ACQ_CALDAC_CFG_LEVEL : FRef := ⟨ACQ_CALDAC_CFG, 16, 16⟩
def ACQ_CALDAC_FREQ : Nat := 0x04001C
def ACQ_CALDAC_FREQ_FREQ_KHZ : FRef := ⟨ACQ_CALDAC_FREQ, 0, 20⟩
def ACQ_DRIFT_LIM : Nat := 0x040020
def ACQ_DRIFT_LIM_OFS : FRef := ⟨ACQ_DRIFT_LIM, 0, 8⟩
def ACQ_DRIFT_LIM_GAIN : FRef := ⟨ACQ_DRIFT_LIM, 8, 8⟩
def ACQ_DRIFT_LIM_SKEW : FRef := ⟨ACQ_DRIFT_LIM, 16, 8⟩
def ACQ_IQ_SKIP : Nat := 0x040024
def ACQ_IQ_SKIP_SKIP : FRef := ⟨ACQ_IQ_SKIP, 0, 21⟩
def ACQ_CCH_CFG (c : Nat) : Nat := 0x040100 + 0x10 * (c % 16)
def ACQ_CCH_CFG_SRC (c : Nat) : FRef := ⟨(ACQ_CCH_CFG c), 0, 5⟩
def ACQ_CCH_CFG_EN (c : Nat) : FRef := ⟨(ACQ_CCH_CFG c), 5, 1⟩
def ACQ_CCH_CFG_GAIN (c : Nat) : FRef := ⟨(ACQ_CCH_CFG c), 8, 6⟩
def ACQ_CCH_STAT (c : Nat) : Nat := 0x040104 + 0x10 * (c % 16)
def ACQ_CCH_STAT_OVR (c : Nat) : FRef := ⟨(ACQ_CCH_STAT c), 0, 1⟩
def ACQ_CCH_STAT_CAL_FAIL (c : Nat) : FRef := ⟨(ACQ_CCH_STAT c), 1, 1⟩
def ACQ_CCH_STAT_DRIFT (c : Nat) : FRef := ⟨(ACQ_CCH_STAT c), 2, 1⟩
def ACQ_CCH_STAT_BG_ACTIVE (c : Nat) : FRef := ⟨(ACQ_CCH_STAT c), 3, 1⟩
def ACQ_CCH_STAT_CAL_ABORT (c : Nat) : FRef := ⟨(ACQ_CCH_STAT c), 4, 1⟩
def ACQ_CCH_OVR_CNT (c : Nat) : Nat := 0x040108 + 0x10 * (c % 16)
def ACQ_CCH_OVR_CNT_COUNT (c : Nat) : FRef := ⟨(ACQ_CCH_OVR_CNT c), 0, 32⟩
def ACQ_ICH_CFG (i : Nat) : Nat := 0x040200 + 0x10 * (i % 8)
def ACQ_ICH_CFG_SRC (i : Nat) : FRef := ⟨(ACQ_ICH_CFG i), 0, 5⟩
def ACQ_ICH_CFG_EN (i : Nat) : FRef := ⟨(ACQ_ICH_CFG i), 5, 1⟩
def ACQ_ICH_CFG_GAIN (i : Nat) : FRef := ⟨(ACQ_ICH_CFG i), 8, 7⟩
def ACQ_ICH_STAT (i : Nat) : Nat := 0x040204 + 0x10 * (i % 8)
def ACQ_ICH_STAT_OVR (i : Nat) : FRef := ⟨(ACQ_ICH_STAT i), 0, 1⟩
def ACQ_ICH_STAT_CAL_FAIL (i : Nat) : FRef := ⟨(ACQ_ICH_STAT i), 1, 1⟩
def ACQ_ICH_STAT_DRIFT (i : Nat) : FRef := ⟨(ACQ_ICH_STAT i), 2, 1⟩
def ACQ_ICH_STAT_BG_ACTIVE (i : Nat) : FRef := ⟨(ACQ_ICH_STAT i), 3, 1⟩
def ACQ_ICH_STAT_CAL_ABORT (i : Nat) : FRef := ⟨(ACQ_ICH_STAT i), 4, 1⟩
def ACQ_ICH_OVR_CNT (i : Nat) : Nat := 0x040208 + 0x10 * (i % 8)
def ACQ_ICH_OVR_CNT_COUNT (i : Nat) : FRef := ⟨(ACQ_ICH_OVR_CNT i), 0, 32⟩
def ACQ_FE_DARK_START (n : Nat) : Nat := 0x040300 + 0x10 * (n % 4)
def ACQ_FE_DARK_START_START (n : Nat) : FRef := ⟨(ACQ_FE_DARK_START n), 0, 21⟩
def ACQ_FE_DARK_LEN (n : Nat) : Nat := 0x040304 + 0x10 * (n % 4)
def ACQ_FE_DARK_LEN_LEN (n : Nat) : FRef := ⟨(ACQ_FE_DARK_LEN n), 0, 16⟩
def ACQ_CCH_CALF_OG (c w : Nat) : Nat := 0x041000 + 0x40 * (c % 16) + 0x4 * (w % 4)
def ACQ_CCH_CALF_OG_OFS (c w : Nat) : FRef := ⟨(ACQ_CCH_CALF_OG c w), 0, 16⟩
def ACQ_CCH_CALF_OG_GAIN_CAL (c w : Nat) : FRef := ⟨(ACQ_CCH_CALF_OG c w), 16, 16⟩
def ACQ_CCH_CALF_SKEW (c w : Nat) : Nat := 0x041010 + 0x40 * (c % 16) + 0x4 * (w % 4)
def ACQ_CCH_CALF_SKEW_SKEW (c w : Nat) : FRef := ⟨(ACQ_CCH_CALF_SKEW c w), 0, 16⟩
def ACQ_CCH_CALF_LIN (c w : Nat) : Nat := 0x041020 + 0x40 * (c % 16) + 0x4 * (w % 4)
def ACQ_CCH_CALF_LIN_L0 (c w : Nat) : FRef := ⟨(ACQ_CCH_CALF_LIN c w), 0, 8⟩
def ACQ_CCH_CALF_LIN_L1 (c w : Nat) : FRef := ⟨(ACQ_CCH_CALF_LIN c w), 8, 8⟩
def ACQ_CCH_CALF_LIN_L2 (c w : Nat) : FRef := ⟨(ACQ_CCH_CALF_LIN c w), 16, 8⟩
def ACQ_CCH_CALF_LIN_L3 (c w : Nat) : FRef := ⟨(ACQ_CCH_CALF_LIN c w), 24, 8⟩
def ACQ_CCH_CALF_STEP (c w : Nat) : Nat := 0x041030 + 0x40 * (c % 16) + 0x4 * (w % 2)
def ACQ_CCH_CALF_STEP_STEP_ODD (c w : Nat) : FRef := ⟨(ACQ_CCH_CALF_STEP c w), 0, 16⟩
def ACQ_CCH_CALF_STEP_STEP_EVEN (c w : Nat) : FRef := ⟨(ACQ_CCH_CALF_STEP c w), 16, 16⟩
def ACQ_CCH_CALF_TEMP (c : Nat) : Nat := 0x04103C + 0x40 * (c % 16)
def ACQ_CCH_CALF_TEMP_TEMP_CAL (c : Nat) : FRef := ⟨(ACQ_CCH_CALF_TEMP c), 0, 16⟩
def ACQ_ICH_CALF_OG (i : Nat) : Nat := 0x041400 + 0x40 * (i % 8)
def ACQ_ICH_CALF_OG_OFS (i : Nat) : FRef := ⟨(ACQ_ICH_CALF_OG i), 0, 16⟩
def ACQ_ICH_CALF_OG_GAIN_CAL (i : Nat) : FRef := ⟨(ACQ_ICH_CALF_OG i), 16, 16⟩
def ACQ_ICH_CALF_LIN (i : Nat) : Nat := 0x041420 + 0x40 * (i % 8)
def ACQ_ICH_CALF_LIN_L0 (i : Nat) : FRef := ⟨(ACQ_ICH_CALF_LIN i), 0, 8⟩
def ACQ_ICH_CALF_LIN_L1 (i : Nat) : FRef := ⟨(ACQ_ICH_CALF_LIN i), 8, 8⟩
def ACQ_ICH_CALF_LIN_L2 (i : Nat) : FRef := ⟨(ACQ_ICH_CALF_LIN i), 16, 8⟩
def ACQ_ICH_CALF_LIN_L3 (i : Nat) : FRef := ⟨(ACQ_ICH_CALF_LIN i), 24, 8⟩
def ACQ_ICH_CALF_STEP (i w : Nat) : Nat := 0x041430 + 0x40 * (i % 8) + 0x4 * (w % 3)
def ACQ_ICH_CALF_STEP_STEP_ODD (i w : Nat) : FRef := ⟨(ACQ_ICH_CALF_STEP i w), 0, 16⟩
def ACQ_ICH_CALF_STEP_STEP_EVEN (i w : Nat) : FRef := ⟨(ACQ_ICH_CALF_STEP i w), 16, 16⟩
def ACQ_ICH_CALF_TEMP (i : Nat) : Nat := 0x04143C + 0x40 * (i % 8)
def ACQ_ICH_CALF_TEMP_TEMP_CAL (i : Nat) : FRef := ⟨(ACQ_ICH_CALF_TEMP i), 0, 16⟩
def ACQ_IQ_A (p : Nat) : Nat := 0x041800 + 0x10 * (p % 8)
def ACQ_IQ_A_A (p : Nat) : FRef := ⟨(ACQ_IQ_A p), 0, 20⟩
def ACQ_IQ_B (p : Nat) : Nat := 0x041804 + 0x10 * (p % 8)
def ACQ_IQ_B_B (p : Nat) : FRef := ⟨(ACQ_IQ_B p), 0, 20⟩

/-! ### PHS registers (R173, R550) -/

def PHS_CFG (n : Nat) : Nat := 0x050000 + 0x4000 * (n % 4)
def PHS_CFG_POL_EN (n : Nat) : FRef := ⟨(PHS_CFG n), 0, 2⟩
def PHS_CFG_SUBBANDS (n : Nat) : FRef := ⟨(PHS_CFG n), 2, 2⟩
def PHS_CFG_INVERT (n : Nat) : FRef := ⟨(PHS_CFG n), 4, 1⟩
def PHS_CFG_ALIGN_SHIFT (n : Nat) : FRef := ⟨(PHS_CFG n), 8, 4⟩
def PHS_GAUGE (n : Nat) : Nat := 0x050004 + 0x4000 * (n % 4)
def PHS_GAUGE_G (n : Nat) : FRef := ⟨(PHS_GAUGE n), 0, 12⟩
def PHS_BIN_CFG (n : Nat) : Nat := 0x050008 + 0x4000 * (n % 4)
def PHS_BIN_CFG_BIN (n : Nat) : FRef := ⟨(PHS_BIN_CFG n), 0, 8⟩
def PHS_P_START (n : Nat) : Nat := 0x05000C + 0x4000 * (n % 4)
def PHS_P_START_P_START (n : Nat) : FRef := ⟨(PHS_P_START n), 0, 21⟩
def PHS_NBINS (n : Nat) : Nat := 0x050010 + 0x4000 * (n % 4)
def PHS_NBINS_NBINS (n : Nat) : FRef := ⟨(PHS_NBINS n), 0, 19⟩
def PHS_SCALE (n : Nat) : Nat := 0x050014 + 0x4000 * (n % 4)
def PHS_SCALE_CSHIFT (n : Nat) : FRef := ⟨(PHS_SCALE n), 0, 4⟩
def PHS_SCALE_DSHIFT (n : Nat) : FRef := ⟨(PHS_SCALE n), 8, 5⟩
def PHS_FADE_CFG (n : Nat) : Nat := 0x050018 + 0x4000 * (n % 4)
def PHS_FADE_CFG_FLOOR (n : Nat) : FRef := ⟨(PHS_FADE_CFG n), 0, 9⟩
def PHS_FADE_CFG_HYST (n : Nat) : FRef := ⟨(PHS_FADE_CFG n), 16, 4⟩
def PHS_OUT_CFG (n : Nat) : Nat := 0x05001C + 0x4000 * (n % 4)
def PHS_OUT_CFG_FORMAT (n : Nat) : FRef := ⟨(PHS_OUT_CFG n), 0, 1⟩
def PHS_OUT_CFG_SECT (n : Nat) : FRef := ⟨(PHS_OUT_CFG n), 8, 7⟩
def PHS_BRANCH_W (n b : Nat) : Nat := 0x050040 + 0x4000 * (n % 4) + 0x4 * (b % 8)
def PHS_BRANCH_W_W (n b : Nat) : FRef := ⟨(PHS_BRANCH_W n b), 0, 8⟩
def PHS_REF_CFG (n j : Nat) : Nat := 0x050080 + 0x4000 * (n % 4) + 0x4 * (j % 8)
def PHS_REF_CFG_SRC (n j : Nat) : FRef := ⟨(PHS_REF_CFG n j), 0, 1⟩
def PHS_REF_CFG_VALID (n j : Nat) : FRef := ⟨(PHS_REF_CFG n j), 1, 1⟩
def PHS_REF_CFG_TAPS (n j : Nat) : FRef := ⟨(PHS_REF_CFG n j), 16, 13⟩
def PHS_STATUS (n : Nat) : Nat := 0x050100 + 0x4000 * (n % 4)
def PHS_STATUS_RUN (n : Nat) : FRef := ⟨(PHS_STATUS n), 0, 1⟩
def PHS_STATUS_INIT_PENDING (n : Nat) : FRef := ⟨(PHS_STATUS n), 1, 1⟩
def PHS_STATUS_NB (n : Nat) : FRef := ⟨(PHS_STATUS n), 2, 4⟩
def PHS_STATUS_REALIGN (n : Nat) : FRef := ⟨(PHS_STATUS n), 8, 4⟩
def PHS_EVENTS (n : Nat) : Nat := 0x050104 + 0x4000 * (n % 4)
def PHS_EVENTS_IQ_SAT (n : Nat) : FRef := ⟨(PHS_EVENTS n), 0, 1⟩
def PHS_EVENTS_CH_SAT (n : Nat) : FRef := ⟨(PHS_EVENTS n), 1, 1⟩
def PHS_EVENTS_COMP_SAT (n : Nat) : FRef := ⟨(PHS_EVENTS n), 2, 1⟩
def PHS_EVENTS_GAUGE_SAT (n : Nat) : FRef := ⟨(PHS_EVENTS n), 3, 1⟩
def PHS_EVENTS_COMB_SAT (n : Nat) : FRef := ⟨(PHS_EVENTS n), 4, 1⟩
def PHS_EVENTS_SLEW (n : Nat) : FRef := ⟨(PHS_EVENTS n), 5, 1⟩
def PHS_EVENTS_RESTART (n : Nat) : FRef := ⟨(PHS_EVENTS n), 6, 1⟩
def PHS_EVENTS_CFG_ERR (n : Nat) : FRef := ⟨(PHS_EVENTS n), 7, 1⟩
def PHS_INT_EN (n : Nat) : Nat := 0x050108 + 0x4000 * (n % 4)
def PHS_INT_EN_EN (n : Nat) : FRef := ⟨(PHS_INT_EN n), 0, 8⟩
def PHS_RESTART_EPOCH (n : Nat) : Nat := 0x05010C + 0x4000 * (n % 4)
def PHS_RESTART_EPOCH_EPOCH (n : Nat) : FRef := ⟨(PHS_RESTART_EPOCH n), 0, 32⟩
def PHS_FADE_CNT (n : Nat) : Nat := 0x050110 + 0x4000 * (n % 4)
def PHS_FADE_CNT_COUNT (n : Nat) : FRef := ⟨(PHS_FADE_CNT n), 0, 19⟩
def PHS_SAT_CNT (n : Nat) : Nat := 0x050114 + 0x4000 * (n % 4)
def PHS_SAT_CNT_COUNT (n : Nat) : FRef := ⟨(PHS_SAT_CNT n), 0, 32⟩
def PHS_SLEW_CNT (n : Nat) : Nat := 0x050118 + 0x4000 * (n % 4)
def PHS_SLEW_CNT_COUNT (n : Nat) : FRef := ⟨(PHS_SLEW_CNT n), 0, 32⟩
def PHS_LAST_SHOT_LO (n : Nat) : Nat := 0x050120 + 0x4000 * (n % 4)
def PHS_LAST_SHOT_LO_SHOT (n : Nat) : FRef := ⟨(PHS_LAST_SHOT_LO n), 0, 32⟩
def PHS_LAST_SHOT_HI (n : Nat) : Nat := 0x050124 + 0x4000 * (n % 4)
def PHS_LAST_SHOT_HI_SHOT (n : Nat) : FRef := ⟨(PHS_LAST_SHOT_HI n), 0, 16⟩

/-! ### ACF registers (R203, R550) -/

def ACF_CFG (n : Nat) : Nat := 0x060000 + 0x4000 * (n % 4)
def ACF_CFG_ORDER (n : Nat) : FRef := ⟨(ACF_CFG n), 0, 1⟩
def ACF_CFG_RATIO (n : Nat) : FRef := ⟨(ACF_CFG n), 8, 7⟩
def ACF_CFG_PHASE (n : Nat) : FRef := ⟨(ACF_CFG n), 16, 6⟩
def ACF_CFG_BITMAP_MODE (n : Nat) : FRef := ⟨(ACF_CFG n), 24, 1⟩
def ACF_DCB (n : Nat) : Nat := 0x060004 + 0x4000 * (n % 4)
def ACF_DCB_CORNER (n : Nat) : FRef := ⟨(ACF_DCB n), 0, 10⟩
def ACF_DCB_FREEZE (n : Nat) : FRef := ⟨(ACF_DCB n), 16, 1⟩
def ACF_DCB_K (n : Nat) : Nat := 0x060008 + 0x4000 * (n % 4)
def ACF_DCB_K_K (n : Nat) : FRef := ⟨(ACF_DCB_K n), 0, 32⟩
def ACF_FIR_SWAP (n : Nat) : Nat := 0x06000C + 0x4000 * (n % 4)
def ACF_FIR_SWAP_TARGET (n : Nat) : FRef := ⟨(ACF_FIR_SWAP n), 0, 1⟩
def ACF_FIR_CFG (n : Nat) : Nat := 0x060010 + 0x4000 * (n % 4)
def ACF_FIR_CFG_NTAPS (n : Nat) : FRef := ⟨(ACF_FIR_CFG n), 0, 9⟩
def ACF_FIR_CFG_BANK (n : Nat) : FRef := ⟨(ACF_FIR_CFG n), 12, 1⟩
def ACF_FIR_CFG_CTR2 (n : Nat) : FRef := ⟨(ACF_FIR_CFG n), 16, 9⟩
def ACF_FIR_CFG_XF_LOG2 (n : Nat) : FRef := ⟨(ACF_FIR_CFG n), 28, 4⟩
def ACF_STATUS (n : Nat) : Nat := 0x060100 + 0x4000 * (n % 4)
def ACF_STATUS_ACTIVE (n : Nat) : FRef := ⟨(ACF_STATUS n), 0, 1⟩
def ACF_STATUS_XFADING (n : Nat) : FRef := ⟨(ACF_STATUS n), 1, 1⟩
def ACF_STATUS_HELD (n : Nat) : FRef := ⟨(ACF_STATUS n), 2, 1⟩
def ACF_STATUS_HELD_TARGET (n : Nat) : FRef := ⟨(ACF_STATUS n), 3, 1⟩
def ACF_STATUS_FILLING (n : Nat) : FRef := ⟨(ACF_STATUS n), 4, 1⟩
def ACF_STATUS_XF_POS (n : Nat) : FRef := ⟨(ACF_STATUS n), 16, 12⟩
def ACF_EVENTS (n : Nat) : Nat := 0x060104 + 0x4000 * (n % 4)
def ACF_EVENTS_SAT (n : Nat) : FRef := ⟨(ACF_EVENTS n), 0, 1⟩
def ACF_EVENTS_LIM (n : Nat) : FRef := ⟨(ACF_EVENTS n), 1, 1⟩
def ACF_EVENTS_XF_DONE (n : Nat) : FRef := ⟨(ACF_EVENTS n), 2, 1⟩
def ACF_EVENTS_FADE_HELD (n : Nat) : FRef := ⟨(ACF_EVENTS n), 3, 1⟩
def ACF_EVENTS_FADE_REPLACED (n : Nat) : FRef := ⟨(ACF_EVENTS n), 4, 1⟩
def ACF_EVENTS_RESTART (n : Nat) : FRef := ⟨(ACF_EVENTS n), 5, 1⟩
def ACF_EVENTS_FILLED (n : Nat) : FRef := ⟨(ACF_EVENTS n), 6, 1⟩
def ACF_EVENTS_CFG_ERR (n : Nat) : FRef := ⟨(ACF_EVENTS n), 7, 1⟩
def ACF_INT_EN (n : Nat) : Nat := 0x060108 + 0x4000 * (n % 4)
def ACF_INT_EN_EN (n : Nat) : FRef := ⟨(ACF_INT_EN n), 0, 8⟩
def ACF_SAT_CNT (n : Nat) : Nat := 0x06010C + 0x4000 * (n % 4)
def ACF_SAT_CNT_COUNT (n : Nat) : FRef := ⟨(ACF_SAT_CNT n), 0, 32⟩
def ACF_LIM_CNT (n : Nat) : Nat := 0x060110 + 0x4000 * (n % 4)
def ACF_LIM_CNT_COUNT (n : Nat) : FRef := ⟨(ACF_LIM_CNT n), 0, 32⟩
def ACF_DELAY2 (n : Nat) : Nat := 0x060114 + 0x4000 * (n % 4)
def ACF_DELAY2_D2 (n : Nat) : FRef := ⟨(ACF_DELAY2 n), 0, 16⟩
def ACF_DELAY_LO (n : Nat) : Nat := 0x060118 + 0x4000 * (n % 4)
def ACF_DELAY_LO_NS (n : Nat) : FRef := ⟨(ACF_DELAY_LO n), 0, 32⟩
def ACF_DELAY_HI (n : Nat) : Nat := 0x06011C + 0x4000 * (n % 4)
def ACF_DELAY_HI_NS (n : Nat) : FRef := ⟨(ACF_DELAY_HI n), 0, 32⟩
def ACF_LAST_OUT_LO (n : Nat) : Nat := 0x060120 + 0x4000 * (n % 4)
def ACF_LAST_OUT_LO_SHOT (n : Nat) : FRef := ⟨(ACF_LAST_OUT_LO n), 0, 32⟩
def ACF_LAST_OUT_HI (n : Nat) : Nat := 0x060124 + 0x4000 * (n % 4)
def ACF_LAST_OUT_HI_SHOT (n : Nat) : FRef := ⟨(ACF_LAST_OUT_HI n), 0, 16⟩

/-! ### DTS registers (R233, R550) -/

def DTS_CFG (n : Nat) : Nat := 0x070000 + 0x100 * (n % 4)
def DTS_CFG_EN (n : Nat) : FRef := ⟨(DTS_CFG n), 0, 1⟩
def DTS_CFG_OUT_RAW (n : Nat) : FRef := ⟨(DTS_CFG n), 1, 1⟩
def DTS_CFG_REF_MODE (n : Nat) : FRef := ⟨(DTS_CFG n), 2, 1⟩
def DTS_CFG_ACC_LOG2 (n : Nat) : FRef := ⟨(DTS_CFG n), 8, 5⟩
def DTS_START (n : Nat) : Nat := 0x070004 + 0x100 * (n % 4)
def DTS_START_START (n : Nat) : FRef := ⟨(DTS_START n), 0, 20⟩
def DTS_NBINS (n : Nat) : Nat := 0x070008 + 0x100 * (n % 4)
def DTS_NBINS_NBINS (n : Nat) : FRef := ⟨(DTS_NBINS n), 0, 18⟩
def DTS_REF_BINS (n : Nat) : Nat := 0x07000C + 0x100 * (n % 4)
def DTS_REF_BINS_REF_BIN0 (n : Nat) : FRef := ⟨(DTS_REF_BINS n), 0, 17⟩
def DTS_REF_BINS_REF_NB (n : Nat) : FRef := ⟨(DTS_REF_BINS n), 24, 8⟩
def DTS_GAMMA (n : Nat) : Nat := 0x070010 + 0x100 * (n % 4)
def DTS_GAMMA_GAMMA (n : Nat) : FRef := ⟨(DTS_GAMMA n), 0, 20⟩
def DTS_REF_SLOT (n : Nat) : Nat := 0x070014 + 0x100 * (n % 4)
def DTS_REF_SLOT_SLOT (n : Nat) : FRef := ⟨(DTS_REF_SLOT n), 0, 6⟩
def DTS_REF_SLOT_MAX_AGE (n : Nat) : FRef := ⟨(DTS_REF_SLOT n), 16, 16⟩
def DTS_REF_C0 (n : Nat) : Nat := 0x070018 + 0x100 * (n % 4)
def DTS_REF_C0_C (n : Nat) : FRef := ⟨(DTS_REF_C0 n), 0, 32⟩
def DTS_REF_C1 (n : Nat) : Nat := 0x07001C + 0x100 * (n % 4)
def DTS_REF_C1_C (n : Nat) : FRef := ⟨(DTS_REF_C1 n), 0, 32⟩
def DTS_REF_C2 (n : Nat) : Nat := 0x070020 + 0x100 * (n % 4)
def DTS_REF_C2_C (n : Nat) : FRef := ⟨(DTS_REF_C2 n), 0, 32⟩
def DTS_REF_TEMP (n : Nat) : Nat := 0x070024 + 0x100 * (n % 4)
def DTS_REF_TEMP_TEMP (n : Nat) : FRef := ⟨(DTS_REF_TEMP n), 0, 18⟩
def DTS_STATUS (n : Nat) : Nat := 0x070040 + 0x100 * (n % 4)
def DTS_STATUS_RUN (n : Nat) : FRef := ⟨(DTS_STATUS n), 0, 1⟩
def DTS_STATUS_COMPUTING (n : Nat) : FRef := ⟨(DTS_STATUS n), 1, 1⟩
def DTS_STATUS_SET (n : Nat) : FRef := ⟨(DTS_STATUS n), 2, 1⟩
def DTS_STATUS_ACC_COUNT (n : Nat) : FRef := ⟨(DTS_STATUS n), 4, 21⟩
def DTS_EVENTS (n : Nat) : Nat := 0x070044 + 0x100 * (n % 4)
def DTS_EVENTS_DONE (n : Nat) : FRef := ⟨(DTS_EVENTS n), 0, 1⟩
def DTS_EVENTS_REF_STALE (n : Nat) : FRef := ⟨(DTS_EVENTS n), 1, 1⟩
def DTS_EVENTS_REF_INVALID (n : Nat) : FRef := ⟨(DTS_EVENTS n), 2, 1⟩
def DTS_EVENTS_DISCARD (n : Nat) : FRef := ⟨(DTS_EVENTS n), 3, 1⟩
def DTS_EVENTS_RESTART (n : Nat) : FRef := ⟨(DTS_EVENTS n), 4, 1⟩
def DTS_EVENTS_CFG_ERR (n : Nat) : FRef := ⟨(DTS_EVENTS n), 5, 1⟩
def DTS_INT_EN (n : Nat) : Nat := 0x070048 + 0x100 * (n % 4)
def DTS_INT_EN_EN (n : Nat) : FRef := ⟨(DTS_INT_EN n), 0, 6⟩
def DTS_TREF_LAST (n : Nat) : Nat := 0x07004C + 0x100 * (n % 4)
def DTS_TREF_LAST_TREF (n : Nat) : FRef := ⟨(DTS_TREF_LAST n), 0, 18⟩
def DTS_DONE_CNT (n : Nat) : Nat := 0x070050 + 0x100 * (n % 4)
def DTS_DONE_CNT_COUNT (n : Nat) : FRef := ⟨(DTS_DONE_CNT n), 0, 32⟩
def DTS_DISCARD_CNT (n : Nat) : Nat := 0x070054 + 0x100 * (n % 4)
def DTS_DISCARD_CNT_COUNT (n : Nat) : FRef := ⟨(DTS_DISCARD_CNT n), 0, 32⟩
def DTS_LAST_SHOT_LO (n : Nat) : Nat := 0x070058 + 0x100 * (n % 4)
def DTS_LAST_SHOT_LO_SHOT (n : Nat) : FRef := ⟨(DTS_LAST_SHOT_LO n), 0, 32⟩
def DTS_LAST_SHOT_HI (n : Nat) : Nat := 0x07005C + 0x100 * (n % 4)
def DTS_LAST_SHOT_HI_SHOT (n : Nat) : FRef := ⟨(DTS_LAST_SHOT_HI n), 0, 16⟩

/-! ### EVT registers (R277, R550) -/

def EVT_CFG (n : Nat) : Nat := 0x080000 + 0x4000 * (n % 4)
def EVT_CFG_EN (n : Nat) : FRef := ⟨(EVT_CFG n), 0, 1⟩
def EVT_CFG_REPORT_ACTIVE (n : Nat) : FRef := ⟨(EVT_CFG n), 1, 1⟩
def EVT_CFG_TRK_EN (n : Nat) : FRef := ⟨(EVT_CFG n), 2, 1⟩
def EVT_CFG_TENT_OUT (n : Nat) : FRef := ⟨(EVT_CFG n), 3, 1⟩
def EVT_CFG_NBANDS (n : Nat) : FRef := ⟨(EVT_CFG n), 8, 4⟩
def EVT_CFG_EI_LOG2 (n : Nat) : FRef := ⟨(EVT_CFG n), 12, 4⟩
def EVT_CFG_CELL (n : Nat) : FRef := ⟨(EVT_CFG n), 16, 7⟩
def EVT_CFG_BG_SHIFT (n : Nat) : FRef := ⟨(EVT_CFG n), 24, 4⟩
def EVT_OUT_CFG (n : Nat) : Nat := 0x080004 + 0x4000 * (n % 4)
def EVT_OUT_CFG_TRK_EVERY (n : Nat) : FRef := ⟨(EVT_OUT_CFG n), 0, 8⟩
def EVT_OUT_CFG_HEARTBEAT (n : Nat) : FRef := ⟨(EVT_OUT_CFG n), 8, 8⟩
def EVT_OUT_CFG_MAX_REC (n : Nat) : FRef := ⟨(EVT_OUT_CFG n), 16, 13⟩
def EVT_TRK_CFG (n : Nat) : Nat := 0x080008 + 0x4000 * (n % 4)
def EVT_TRK_CFG_GATE (n : Nat) : FRef := ⟨(EVT_TRK_CFG n), 0, 12⟩
def EVT_TRK_CFG_ALPHA (n : Nat) : FRef := ⟨(EVT_TRK_CFG n), 16, 8⟩
def EVT_TRK_CFG_BETA (n : Nat) : FRef := ⟨(EVT_TRK_CFG n), 24, 8⟩
def EVT_TRK_LIFE (n : Nat) : Nat := 0x08000C + 0x4000 * (n % 4)
def EVT_TRK_LIFE_CONFIRM (n : Nat) : FRef := ⟨(EVT_TRK_LIFE n), 0, 4⟩
def EVT_TRK_LIFE_COAST_MAX (n : Nat) : FRef := ⟨(EVT_TRK_LIFE n), 4, 4⟩
def EVT_TRK_LIFE_Q_HIT (n : Nat) : FRef := ⟨(EVT_TRK_LIFE n), 8, 8⟩
def EVT_TRK_LIFE_Q_MISS (n : Nat) : FRef := ⟨(EVT_TRK_LIFE n), 16, 8⟩
def EVT_TRK_LIFE_MERGE (n : Nat) : FRef := ⟨(EVT_TRK_LIFE n), 24, 4⟩
def EVT_REG_CFG (n : Nat) : Nat := 0x080010 + 0x4000 * (n % 4)
def EVT_REG_CFG_EN (n : Nat) : FRef := ⟨(EVT_REG_CFG n), 0, 1⟩
def EVT_REG_CFG_QIN (n : Nat) : FRef := ⟨(EVT_REG_CFG n), 1, 1⟩
def EVT_REG_ID (n : Nat) : Nat := 0x080014 + 0x4000 * (n % 4)
def EVT_REG_ID_ID (n : Nat) : FRef := ⟨(EVT_REG_ID n), 0, 32⟩
def EVT_MAP_CFG (n : Nat) : Nat := 0x080018 + 0x4000 * (n % 4)
def EVT_MAP_CFG_NPTS (n : Nat) : FRef := ⟨(EVT_MAP_CFG n), 0, 13⟩
def EVT_STATUS (n : Nat) : Nat := 0x080100 + 0x4000 * (n % 4)
def EVT_STATUS_TRACKS (n : Nat) : FRef := ⟨(EVT_STATUS n), 0, 7⟩
def EVT_STATUS_WARMUP (n : Nat) : FRef := ⟨(EVT_STATUS n), 7, 1⟩
def EVT_STATUS_DET_CELLS (n : Nat) : FRef := ⟨(EVT_STATUS n), 8, 18⟩
def EVT_EVENTS (n : Nat) : Nat := 0x080104 + 0x4000 * (n % 4)
def EVT_EVENTS_ONSET (n : Nat) : FRef := ⟨(EVT_EVENTS n), 0, 1⟩
def EVT_EVENTS_TRACK_NEW (n : Nat) : FRef := ⟨(EVT_EVENTS n), 1, 1⟩
def EVT_EVENTS_TRACK_CONF (n : Nat) : FRef := ⟨(EVT_EVENTS n), 2, 1⟩
def EVT_EVENTS_TRACK_DEL (n : Nat) : FRef := ⟨(EVT_EVENTS n), 3, 1⟩
def EVT_EVENTS_TRACK_FULL (n : Nat) : FRef := ⟨(EVT_EVENTS n), 4, 1⟩
def EVT_EVENTS_REC_DROP (n : Nat) : FRef := ⟨(EVT_EVENTS n), 5, 1⟩
def EVT_EVENTS_SPILL_DROP (n : Nat) : FRef := ⟨(EVT_EVENTS n), 6, 1⟩
def EVT_EVENTS_CFG_ERR (n : Nat) : FRef := ⟨(EVT_EVENTS n), 7, 1⟩
def EVT_INT_EN (n : Nat) : Nat := 0x080108 + 0x4000 * (n % 4)
def EVT_INT_EN_EN (n : Nat) : FRef := ⟨(EVT_INT_EN n), 0, 8⟩
def EVT_LOSS_CNT (n : Nat) : Nat := 0x08010C + 0x4000 * (n % 4)
def EVT_LOSS_CNT_REC (n : Nat) : FRef := ⟨(EVT_LOSS_CNT n), 0, 12⟩
def EVT_LOSS_CNT_FULL (n : Nat) : FRef := ⟨(EVT_LOSS_CNT n), 12, 12⟩
def EVT_LOSS_CNT_SPILL (n : Nat) : FRef := ⟨(EVT_LOSS_CNT n), 24, 8⟩
def EVT_NEXT_ID (n : Nat) : Nat := 0x080110 + 0x4000 * (n % 4)
def EVT_NEXT_ID_ID (n : Nat) : FRef := ⟨(EVT_NEXT_ID n), 0, 32⟩
def EVT_BAND_B0 (n b : Nat) : Nat := 0x080200 + 0x4000 * (n % 4) + 0x20 * (b % 8)
def EVT_BAND_B0_COEF (n b : Nat) : FRef := ⟨(EVT_BAND_B0 n b), 0, 18⟩
def EVT_BAND_COEF (n b w : Nat) : Nat := 0x080204 + 0x4000 * (n % 4) + 0x20 * (b % 8) + 0x4 * (w % 4)
def EVT_BAND_COEF_COEF (n b w : Nat) : FRef := ⟨(EVT_BAND_COEF n b w), 0, 18⟩
def EVT_RULE_CFG (n r : Nat) : Nat := 0x080400 + 0x4000 * (n % 4) + 0x20 * (r % 16)
def EVT_RULE_CFG_EN (n r : Nat) : FRef := ⟨(EVT_RULE_CFG n r), 0, 1⟩
def EVT_RULE_CFG_MODE (n r : Nat) : FRef := ⟨(EVT_RULE_CFG n r), 1, 1⟩
def EVT_RULE_CFG_TRACK (n r : Nat) : FRef := ⟨(EVT_RULE_CFG n r), 2, 1⟩
def EVT_RULE_CFG_WAKE (n r : Nat) : FRef := ⟨(EVT_RULE_CFG n r), 3, 1⟩
def EVT_RULE_CFG_BAND (n r : Nat) : FRef := ⟨(EVT_RULE_CFG n r), 4, 3⟩
def EVT_RULE_CFG_CLASS (n r : Nat) : FRef := ⟨(EVT_RULE_CFG n r), 8, 4⟩
def EVT_RULE_CFG_N (n r : Nat) : FRef := ⟨(EVT_RULE_CFG n r), 12, 4⟩
def EVT_RULE_CFG_ON_M (n r : Nat) : FRef := ⟨(EVT_RULE_CFG n r), 16, 4⟩
def EVT_RULE_CFG_OFF_M (n r : Nat) : FRef := ⟨(EVT_RULE_CFG n r), 20, 4⟩
def EVT_RULE_Z0 (n r : Nat) : Nat := 0x080404 + 0x4000 * (n % 4) + 0x20 * (r % 16)
def EVT_RULE_Z0_Z0 (n r : Nat) : FRef := ⟨(EVT_RULE_Z0 n r), 0, 21⟩
def EVT_RULE_Z1 (n r : Nat) : Nat := 0x080408 + 0x4000 * (n % 4) + 0x20 * (r % 16)
def EVT_RULE_Z1_Z1 (n r : Nat) : FRef := ⟨(EVT_RULE_Z1 n r), 0, 21⟩
def EVT_RULE_THR (n r : Nat) : Nat := 0x08040C + 0x4000 * (n % 4) + 0x20 * (r % 16)
def EVT_RULE_THR_THR (n r : Nat) : FRef := ⟨(EVT_RULE_THR n r), 0, 32⟩
def EVT_RULE_TW_PERIOD (n r : Nat) : Nat := 0x080410 + 0x4000 * (n % 4) + 0x20 * (r % 16)
def EVT_RULE_TW_PERIOD_PERIOD (n r : Nat) : FRef := ⟨(EVT_RULE_TW_PERIOD n r), 0, 17⟩
def EVT_RULE_TW_START (n r : Nat) : Nat := 0x080414 + 0x4000 * (n % 4) + 0x20 * (r % 16)
def EVT_RULE_TW_START_START (n r : Nat) : FRef := ⟨(EVT_RULE_TW_START n r), 0, 17⟩
def EVT_RULE_TW_END (n r : Nat) : Nat := 0x080418 + 0x4000 * (n % 4) + 0x20 * (r % 16)
def EVT_RULE_TW_END_END (n r : Nat) : FRef := ⟨(EVT_RULE_TW_END n r), 0, 17⟩

/-! ### TRK registers (R279, R550) -/

def TRK_QIN_CFG (i : Nat) : Nat := 0x090000 + 0x40 * (i % 2)
def TRK_QIN_CFG_EN (i : Nat) : FRef := ⟨(TRK_QIN_CFG i), 0, 1⟩
def TRK_QIN_CFG_INV (i : Nat) : FRef := ⟨(TRK_QIN_CFG i), 1, 1⟩
def TRK_QIN_CFG_IDX_POL (i : Nat) : FRef := ⟨(TRK_QIN_CFG i), 2, 1⟩
def TRK_QIN_CFG_IDX_GATE (i : Nat) : FRef := ⟨(TRK_QIN_CFG i), 3, 1⟩
def TRK_QIN_CFG_CORR (i : Nat) : FRef := ⟨(TRK_QIN_CFG i), 4, 1⟩
def TRK_QIN_CFG_LEARN (i : Nat) : FRef := ⟨(TRK_QIN_CFG i), 5, 1⟩
def TRK_QIN_CFG_SPD_LOG2 (i : Nat) : FRef := ⟨(TRK_QIN_CFG i), 8, 4⟩
def TRK_QIN_TIMING (i : Nat) : Nat := 0x090004 + 0x40 * (i % 2)
def TRK_QIN_TIMING_MIN_EDGE (i : Nat) : FRef := ⟨(TRK_QIN_TIMING i), 0, 14⟩
def TRK_QIN_TIMING_STALL (i : Nat) : FRef := ⟨(TRK_QIN_TIMING i), 16, 16⟩
def TRK_QIN_STATUS (i : Nat) : Nat := 0x090008 + 0x40 * (i % 2)
def TRK_QIN_STATUS_LINES (i : Nat) : FRef := ⟨(TRK_QIN_STATUS i), 0, 3⟩
def TRK_QIN_STATUS_DIR (i : Nat) : FRef := ⟨(TRK_QIN_STATUS i), 3, 1⟩
def TRK_QIN_STATUS_SPD_VALID (i : Nat) : FRef := ⟨(TRK_QIN_STATUS i), 4, 1⟩
def TRK_QIN_STATUS_MOVING (i : Nat) : FRef := ⟨(TRK_QIN_STATUS i), 5, 1⟩
def TRK_QIN_STATUS_FAST (i : Nat) : FRef := ⟨(TRK_QIN_STATUS i), 8, 1⟩
def TRK_QIN_STATUS_ILLEGAL (i : Nat) : FRef := ⟨(TRK_QIN_STATUS i), 9, 1⟩
def TRK_QIN_STATUS_INDEX_SEEN (i : Nat) : FRef := ⟨(TRK_QIN_STATUS i), 10, 1⟩
def TRK_QIN_STATUS_INDEX_MISMATCH (i : Nat) : FRef := ⟨(TRK_QIN_STATUS i), 11, 1⟩
def TRK_QIN_POS (i : Nat) : Nat := 0x09000C + 0x40 * (i % 2)
def TRK_QIN_POS_POS (i : Nat) : FRef := ⟨(TRK_QIN_POS i), 0, 32⟩
def TRK_QIN_POS_SNAP (i : Nat) : Nat := 0x090010 + 0x40 * (i % 2)
def TRK_QIN_POS_SNAP_WRAP_UP (i : Nat) : FRef := ⟨(TRK_QIN_POS_SNAP i), 0, 1⟩
def TRK_QIN_POS_SNAP_WRAP_DN (i : Nat) : FRef := ⟨(TRK_QIN_POS_SNAP i), 1, 1⟩
def TRK_QIN_POS_SNAP_REACH (i : Nat) : FRef := ⟨(TRK_QIN_POS_SNAP i), 2, 1⟩
def TRK_QIN_LOAD (i : Nat) : Nat := 0x090014 + 0x40 * (i % 2)
def TRK_QIN_LOAD_VALUE (i : Nat) : FRef := ⟨(TRK_QIN_LOAD i), 0, 32⟩
def TRK_QIN_SPEED (i : Nat) : Nat := 0x090018 + 0x40 * (i % 2)
def TRK_QIN_SPEED_SPEED (i : Nat) : FRef := ⟨(TRK_QIN_SPEED i), 0, 32⟩
def TRK_QIN_IDX_PERIOD (i : Nat) : Nat := 0x09001C + 0x40 * (i % 2)
def TRK_QIN_IDX_PERIOD_PERIOD (i : Nat) : FRef := ⟨(TRK_QIN_IDX_PERIOD i), 0, 32⟩
def TRK_QIN_IDX_TOL (i : Nat) : Nat := 0x090020 + 0x40 * (i % 2)
def TRK_QIN_IDX_TOL_TOL (i : Nat) : FRef := ⟨(TRK_QIN_IDX_TOL i), 0, 16⟩
def TRK_QIN_IDX_REF (i : Nat) : Nat := 0x090024 + 0x40 * (i % 2)
def TRK_QIN_IDX_REF_REF (i : Nat) : FRef := ⟨(TRK_QIN_IDX_REF i), 0, 32⟩
def TRK_QIN_IDX_CAP (i : Nat) : Nat := 0x090028 + 0x40 * (i % 2)
def TRK_QIN_IDX_CAP_CAP (i : Nat) : FRef := ⟨(TRK_QIN_IDX_CAP i), 0, 32⟩
def TRK_QIN_IDX_ERR (i : Nat) : Nat := 0x09002C + 0x40 * (i % 2)
def TRK_QIN_IDX_ERR_ERR (i : Nat) : FRef := ⟨(TRK_QIN_IDX_ERR i), 0, 32⟩
def TRK_QIN_SCALE (i : Nat) : Nat := 0x090030 + 0x40 * (i % 2)
def TRK_QIN_SCALE_CPM (i : Nat) : FRef := ⟨(TRK_QIN_SCALE i), 0, 16⟩
def TRK_QIN_BASE (i : Nat) : Nat := 0x090034 + 0x40 * (i % 2)
def TRK_QIN_BASE_BASE (i : Nat) : FRef := ⟨(TRK_QIN_BASE i), 0, 32⟩
def TRK_QIN_ERR_CNT (i : Nat) : Nat := 0x090038 + 0x40 * (i % 2)
def TRK_QIN_ERR_CNT_FAST (i : Nat) : FRef := ⟨(TRK_QIN_ERR_CNT i), 0, 16⟩
def TRK_QIN_ERR_CNT_ILLEGAL (i : Nat) : FRef := ⟨(TRK_QIN_ERR_CNT i), 16, 16⟩
def TRK_CMP_CFG (c : Nat) : Nat := 0x090100 + 0x10 * (c % 8)
def TRK_CMP_CFG_EN (c : Nat) : FRef := ⟨(TRK_CMP_CFG c), 0, 1⟩
def TRK_CMP_CFG_DIR (c : Nat) : FRef := ⟨(TRK_CMP_CFG c), 1, 2⟩
def TRK_CMP_CFG_REARM (c : Nat) : FRef := ⟨(TRK_CMP_CFG c), 3, 1⟩
def TRK_CMP_CFG_ACT_OUT (c : Nat) : FRef := ⟨(TRK_CMP_CFG c), 4, 1⟩
def TRK_CMP_CFG_ACT_PMC (c : Nat) : FRef := ⟨(TRK_CMP_CFG c), 5, 1⟩
def TRK_CMP_CFG_PULSE (c : Nat) : FRef := ⟨(TRK_CMP_CFG c), 16, 16⟩
def TRK_CMP_VALUE (c : Nat) : Nat := 0x090104 + 0x10 * (c % 8)
def TRK_CMP_VALUE_VALUE (c : Nat) : FRef := ⟨(TRK_CMP_VALUE c), 0, 32⟩
def TRK_CMP_STEP (c : Nat) : Nat := 0x090108 + 0x10 * (c % 8)
def TRK_CMP_STEP_STEP (c : Nat) : FRef := ⟨(TRK_CMP_STEP c), 0, 32⟩
def TRK_CMP_DIST (c : Nat) : Nat := 0x09010C + 0x10 * (c % 8)
def TRK_CMP_DIST_DIST (c : Nat) : FRef := ⟨(TRK_CMP_DIST c), 0, 32⟩
def TRK_CMP_EVENTS : Nat := 0x090180
def TRK_CMP_EVENTS_FIRED : FRef := ⟨TRK_CMP_EVENTS, 0, 8⟩
def TRK_CMP_EVENTS_BEHIND : FRef := ⟨TRK_CMP_EVENTS, 8, 8⟩
def TRK_MS_CFG : Nat := 0x090200
def TRK_MS_CFG_EN : FRef := ⟨TRK_MS_CFG, 0, 8⟩
def TRK_MS_CFG_POL : FRef := ⟨TRK_MS_CFG, 8, 8⟩
def TRK_MS_CFG_DEBOUNCE : FRef := ⟨TRK_MS_CFG, 16, 8⟩
def TRK_MS_FE : Nat := 0x090204
def TRK_MS_FE_FE : FRef := ⟨TRK_MS_FE, 0, 16⟩
def TRK_MS_FIFO : Nat := 0x090208
def TRK_MS_FIFO_INPUT : FRef := ⟨TRK_MS_FIFO, 0, 3⟩
def TRK_MS_FIFO_EDGE : FRef := ⟨TRK_MS_FIFO, 3, 1⟩
def TRK_MS_FIFO_VALID : FRef := ⟨TRK_MS_FIFO, 31, 1⟩
def TRK_MS_GT_LO : Nat := 0x09020C
def TRK_MS_GT_LO_GT : FRef := ⟨TRK_MS_GT_LO, 0, 32⟩
def TRK_MS_GT_HI : Nat := 0x090210
def TRK_MS_GT_HI_GT : FRef := ⟨TRK_MS_GT_HI, 0, 32⟩
def TRK_SSI_CFG (p : Nat) : Nat := 0x090300 + 0x20 * (p % 2)
def TRK_SSI_CFG_EN (p : Nat) : FRef := ⟨(TRK_SSI_CFG p), 0, 1⟩
def TRK_SSI_CFG_GRAY (p : Nat) : FRef := ⟨(TRK_SSI_CFG p), 1, 1⟩
def TRK_SSI_CFG_BITS (p : Nat) : FRef := ⟨(TRK_SSI_CFG p), 8, 6⟩
def TRK_SSI_CFG_CLK_KHZ (p : Nat) : FRef := ⟨(TRK_SSI_CFG p), 16, 11⟩
def TRK_SSI_TIMING (p : Nat) : Nat := 0x090304 + 0x20 * (p % 2)
def TRK_SSI_TIMING_PERIOD (p : Nat) : FRef := ⟨(TRK_SSI_TIMING p), 0, 20⟩
def TRK_SSI_TIMING_MONO (p : Nat) : FRef := ⟨(TRK_SSI_TIMING p), 24, 8⟩
def TRK_SSI_DATA (p : Nat) : Nat := 0x090308 + 0x20 * (p % 2)
def TRK_SSI_DATA_DATA (p : Nat) : FRef := ⟨(TRK_SSI_DATA p), 0, 32⟩
def TRK_SSI_GT_LO (p : Nat) : Nat := 0x09030C + 0x20 * (p % 2)
def TRK_SSI_GT_LO_GT (p : Nat) : FRef := ⟨(TRK_SSI_GT_LO p), 0, 32⟩
def TRK_SSI_GT_HI (p : Nat) : Nat := 0x090310 + 0x20 * (p % 2)
def TRK_SSI_GT_HI_GT (p : Nat) : FRef := ⟨(TRK_SSI_GT_HI p), 0, 32⟩
def TRK_SSI_STATUS (p : Nat) : Nat := 0x090314 + 0x20 * (p % 2)
def TRK_SSI_STATUS_VALID (p : Nat) : FRef := ⟨(TRK_SSI_STATUS p), 0, 1⟩
def TRK_SSI_STATUS_START_ERR (p : Nat) : FRef := ⟨(TRK_SSI_STATUS p), 1, 1⟩
def TRK_SSI_STATUS_END_ERR (p : Nat) : FRef := ⟨(TRK_SSI_STATUS p), 2, 1⟩
def TRK_SSI_STATUS_OVR (p : Nat) : FRef := ⟨(TRK_SSI_STATUS p), 3, 1⟩
def TRK_ENC_CFG (m : Nat) : Nat := 0x090400 + 0x20 * (m % 4)
def TRK_ENC_CFG_MODE (m : Nat) : FRef := ⟨(TRK_ENC_CFG m), 0, 2⟩
def TRK_ENC_CFG_INV (m : Nat) : FRef := ⟨(TRK_ENC_CFG m), 2, 1⟩
def TRK_ENC_CFG_FE (m : Nat) : FRef := ⟨(TRK_ENC_CFG m), 4, 2⟩
def TRK_ENC_CFG_QIN (m : Nat) : FRef := ⟨(TRK_ENC_CFG m), 6, 1⟩
def TRK_ENC_CFG_CMP_A (m : Nat) : FRef := ⟨(TRK_ENC_CFG m), 8, 3⟩
def TRK_ENC_CFG_CMP_B (m : Nat) : FRef := ⟨(TRK_ENC_CFG m), 12, 3⟩
def TRK_ENC_CFG_CMP_Z (m : Nat) : FRef := ⟨(TRK_ENC_CFG m), 16, 3⟩
def TRK_ENC_TRACK_ID (m : Nat) : Nat := 0x090404 + 0x20 * (m % 4)
def TRK_ENC_TRACK_ID_ID (m : Nat) : FRef := ⟨(TRK_ENC_TRACK_ID m), 0, 32⟩
def TRK_ENC_CPM (m : Nat) : Nat := 0x090408 + 0x20 * (m % 4)
def TRK_ENC_CPM_CPM (m : Nat) : FRef := ⟨(TRK_ENC_CPM m), 0, 16⟩
def TRK_ENC_CPM_MIN_GAP (m : Nat) : FRef := ⟨(TRK_ENC_CPM m), 16, 16⟩
def TRK_ENC_IDX_DIST (m : Nat) : Nat := 0x09040C + 0x20 * (m % 4)
def TRK_ENC_IDX_DIST_MM (m : Nat) : FRef := ⟨(TRK_ENC_IDX_DIST m), 0, 32⟩
def TRK_ENC_COUNT (m : Nat) : Nat := 0x090410 + 0x20 * (m % 4)
def TRK_ENC_COUNT_COUNT (m : Nat) : FRef := ⟨(TRK_ENC_COUNT m), 0, 32⟩
def TRK_ENC_STATUS (m : Nat) : Nat := 0x090414 + 0x20 * (m % 4)
def TRK_ENC_STATUS_RUN (m : Nat) : FRef := ⟨(TRK_ENC_STATUS m), 0, 1⟩
def TRK_ENC_STATUS_HOLD (m : Nat) : FRef := ⟨(TRK_ENC_STATUS m), 1, 1⟩
def TRK_ENC_STATUS_SRC_LOST (m : Nat) : FRef := ⟨(TRK_ENC_STATUS m), 2, 1⟩
def TRK_ENC_STATUS_LAG (m : Nat) : FRef := ⟨(TRK_ENC_STATUS m), 3, 1⟩
def TRK_EVENTS : Nat := 0x090500
def TRK_EVENTS_FAST : FRef := ⟨TRK_EVENTS, 0, 1⟩
def TRK_EVENTS_ILLEGAL : FRef := ⟨TRK_EVENTS, 1, 1⟩
def TRK_EVENTS_INDEX_MISMATCH : FRef := ⟨TRK_EVENTS, 2, 1⟩
def TRK_EVENTS_CMP_FIRED : FRef := ⟨TRK_EVENTS, 3, 1⟩
def TRK_EVENTS_CMP_BEHIND : FRef := ⟨TRK_EVENTS, 4, 1⟩
def TRK_EVENTS_MS_EDGE : FRef := ⟨TRK_EVENTS, 5, 1⟩
def TRK_EVENTS_MS_OVF : FRef := ⟨TRK_EVENTS, 6, 1⟩
def TRK_EVENTS_SSI_ERR : FRef := ⟨TRK_EVENTS, 7, 1⟩
def TRK_EVENTS_SSI_OVR : FRef := ⟨TRK_EVENTS, 8, 1⟩
def TRK_EVENTS_ENC_LAG : FRef := ⟨TRK_EVENTS, 9, 1⟩
def TRK_EVENTS_ENC_SRC_LOST : FRef := ⟨TRK_EVENTS, 10, 1⟩
def TRK_EVENTS_CFG_ERR : FRef := ⟨TRK_EVENTS, 11, 1⟩
def TRK_INT_EN : Nat := 0x090504
def TRK_INT_EN_EN : FRef := ⟨TRK_INT_EN, 0, 12⟩

/-! ### SCH registers (R313, R550) -/

def SCH_STATUS : Nat := 0x0A0000
def SCH_STATUS_LOAD_BUSY : FRef := ⟨SCH_STATUS, 0, 1⟩
def SCH_STATUS_IMAGES : FRef := ⟨SCH_STATUS, 1, 3⟩
def SCH_STATUS_STAGED : FRef := ⟨SCH_STATUS, 4, 4⟩
def SCH_STATUS_FE_LATE : FRef := ⟨SCH_STATUS, 8, 4⟩
def SCH_STATUS_FE_OVERTOP : FRef := ⟨SCH_STATUS, 12, 4⟩
def SCH_EVENTS : Nat := 0x0A0004
def SCH_EVENTS_LOADED : FRef := ⟨SCH_EVENTS, 0, 1⟩
def SCH_EVENTS_LOAD_FAIL : FRef := ⟨SCH_EVENTS, 1, 1⟩
def SCH_EVENTS_UNLOADED : FRef := ⟨SCH_EVENTS, 2, 1⟩
def SCH_EVENTS_LATE : FRef := ⟨SCH_EVENTS, 3, 1⟩
def SCH_EVENTS_CAUGHT_UP : FRef := ⟨SCH_EVENTS, 4, 1⟩
def SCH_EVENTS_OVERTOP : FRef := ⟨SCH_EVENTS, 5, 1⟩
def SCH_EVENTS_CMT_STAGED : FRef := ⟨SCH_EVENTS, 6, 1⟩
def SCH_EVENTS_CMT_APPLIED : FRef := ⟨SCH_EVENTS, 7, 1⟩
def SCH_EVENTS_CMT_ABORT : FRef := ⟨SCH_EVENTS, 8, 1⟩
def SCH_EVENTS_LINK_SHORT : FRef := ⟨SCH_EVENTS, 9, 1⟩
def SCH_EVENTS_CFG_ERR : FRef := ⟨SCH_EVENTS, 10, 1⟩
def SCH_INT_EN : Nat := 0x0A0008
def SCH_INT_EN_EN : FRef := ⟨SCH_INT_EN, 0, 11⟩
def SCH_EPOCH : Nat := 0x0A000C
def SCH_EPOCH_EPOCH : FRef := ⟨SCH_EPOCH, 0, 32⟩
def SCH_LOAD_RESULT : Nat := 0x0A0010
def SCH_LOAD_RESULT_CODE : FRef := ⟨SCH_LOAD_RESULT, 0, 4⟩
def SCH_LOAD_RESULT_SLOT : FRef := ⟨SCH_LOAD_RESULT, 4, 2⟩
def SCH_CMT_LAST : Nat := 0x0A0014
def SCH_CMT_LAST_CODE : FRef := ⟨SCH_CMT_LAST, 0, 4⟩
def SCH_CMT_LAST_ID : Nat := 0x0A0018
def SCH_CMT_LAST_ID_ID : FRef := ⟨SCH_CMT_LAST_ID, 0, 32⟩
def SCH_IMG_ID (i : Nat) : Nat := 0x0A0100 + 0x40 * (i % 4)
def SCH_IMG_ID_TOOL (i : Nat) : FRef := ⟨(SCH_IMG_ID i), 0, 32⟩
def SCH_IMG_FE_MASK (i : Nat) : Nat := 0x0A0104 + 0x40 * (i % 4)
def SCH_IMG_FE_MASK_FE_MASK (i : Nat) : FRef := ⟨(SCH_IMG_FE_MASK i), 0, 4⟩
def SCH_IMG_FE_MASK_REF_RESERVE (i : Nat) : FRef := ⟨(SCH_IMG_FE_MASK i), 4, 2⟩
def SCH_IMG_FE_MASK_VALID (i : Nat) : FRef := ⟨(SCH_IMG_FE_MASK i), 31, 1⟩
def SCH_IMG_LANES (i w : Nat) : Nat := 0x0A0108 + 0x40 * (i % 4) + 0x4 * (w % 3)
def SCH_IMG_LANES_LANES (i w : Nat) : FRef := ⟨(SCH_IMG_LANES i w), 0, 32⟩
def SCH_IMG_BERM (i w : Nat) : Nat := 0x0A0114 + 0x40 * (i % 4) + 0x4 * (w % 2)
def SCH_IMG_BERM_BERM (i w : Nat) : FRef := ⟨(SCH_IMG_BERM i w), 0, 32⟩
def SCH_FE_IMAGE (n : Nat) : Nat := 0x0A0200 + 0x40 * (n % 4)
def SCH_FE_IMAGE_SLOT (n : Nat) : FRef := ⟨(SCH_FE_IMAGE n), 0, 2⟩
def SCH_FE_IMAGE_K (n : Nat) : FRef := ⟨(SCH_FE_IMAGE n), 7, 4⟩
def SCH_FE_IMAGE_COVERED (n : Nat) : FRef := ⟨(SCH_FE_IMAGE n), 31, 1⟩
def SCH_FE_FREEBOARD (n : Nat) : Nat := 0x0A0204 + 0x40 * (n % 4)
def SCH_FE_FREEBOARD_PCT (n : Nat) : FRef := ⟨(SCH_FE_FREEBOARD n), 0, 16⟩
def SCH_FE_F_NS (n : Nat) : Nat := 0x0A0208 + 0x40 * (n % 4)
def SCH_FE_F_NS_NS (n : Nat) : FRef := ⟨(SCH_FE_F_NS n), 0, 32⟩
def SCH_FE_L_MAX (n : Nat) : Nat := 0x0A020C + 0x40 * (n % 4)
def SCH_FE_L_MAX_NS (n : Nat) : FRef := ⟨(SCH_FE_L_MAX n), 0, 32⟩
def SCH_FE_BOUND (n : Nat) : Nat := 0x0A0210 + 0x40 * (n % 4)
def SCH_FE_BOUND_NS (n : Nat) : FRef := ⟨(SCH_FE_BOUND n), 0, 32⟩
def SCH_FE_BOUND_K (n : Nat) : Nat := 0x0A0214 + 0x40 * (n % 4)
def SCH_FE_BOUND_K_NS (n : Nat) : FRef := ⟨(SCH_FE_BOUND_K n), 0, 32⟩
def SCH_FE_DIVERT (n : Nat) : Nat := 0x0A0218 + 0x40 * (n % 4)
def SCH_FE_DIVERT_NS (n : Nat) : FRef := ⟨(SCH_FE_DIVERT n), 0, 20⟩
def SCH_FE_LATENESS (n : Nat) : Nat := 0x0A0220 + 0x40 * (n % 4)
def SCH_FE_LATENESS_NS (n : Nat) : FRef := ⟨(SCH_FE_LATENESS n), 0, 32⟩
def SCH_FE_LATE_MAX (n : Nat) : Nat := 0x0A0224 + 0x40 * (n % 4)
def SCH_FE_LATE_MAX_NS (n : Nat) : FRef := ⟨(SCH_FE_LATE_MAX n), 0, 32⟩
def SCH_FE_LATE_FRAMES (n : Nat) : Nat := 0x0A0228 + 0x40 * (n % 4)
def SCH_FE_LATE_FRAMES_COUNT (n : Nat) : FRef := ⟨(SCH_FE_LATE_FRAMES n), 0, 32⟩
def SCH_FE_OVERTOP_CNT (n : Nat) : Nat := 0x0A022C + 0x40 * (n % 4)
def SCH_FE_OVERTOP_CNT_COUNT (n : Nat) : FRef := ⟨(SCH_FE_OVERTOP_CNT n), 0, 16⟩
def SCH_CMT_STATE (g : Nat) : Nat := 0x0A0300 + 0x20 * (g % 8)
def SCH_CMT_STATE_STATE (g : Nat) : FRef := ⟨(SCH_CMT_STATE g), 0, 2⟩
def SCH_CMT_STATE_KIND (g : Nat) : FRef := ⟨(SCH_CMT_STATE g), 2, 1⟩
def SCH_CMT_STATE_REF_FE (g : Nat) : FRef := ⟨(SCH_CMT_STATE g), 3, 2⟩
def SCH_CMT_STATE_TOUCH (g : Nat) : FRef := ⟨(SCH_CMT_STATE g), 8, 4⟩
def SCH_CMT_STATE_COUNT (g : Nat) : FRef := ⟨(SCH_CMT_STATE g), 16, 7⟩
def SCH_CMT_ID (g : Nat) : Nat := 0x0A0304 + 0x20 * (g % 8)
def SCH_CMT_ID_ID (g : Nat) : FRef := ⟨(SCH_CMT_ID g), 0, 32⟩
def SCH_CMT_BND_LO (g : Nat) : Nat := 0x0A0308 + 0x20 * (g % 8)
def SCH_CMT_BND_LO_BND (g : Nat) : FRef := ⟨(SCH_CMT_BND_LO g), 0, 32⟩
def SCH_CMT_BND_HI (g : Nat) : Nat := 0x0A030C + 0x20 * (g % 8)
def SCH_CMT_BND_HI_BND (g : Nat) : FRef := ⟨(SCH_CMT_BND_HI g), 0, 32⟩
def SCH_CMT_TB_LO (g : Nat) : Nat := 0x0A0310 + 0x20 * (g % 8)
def SCH_CMT_TB_LO_TB (g : Nat) : FRef := ⟨(SCH_CMT_TB_LO g), 0, 32⟩
def SCH_CMT_TB_HI (g : Nat) : Nat := 0x0A0314 + 0x20 * (g % 8)
def SCH_CMT_TB_HI_TB (g : Nat) : FRef := ⟨(SCH_CMT_TB_HI g), 0, 32⟩

/-! ### HIF registers (R360, R550) -/

def HIF_STATUS : Nat := 0x0B0000
def HIF_STATUS_LINK_UP : FRef := ⟨HIF_STATUS, 0, 1⟩
def HIF_STATUS_SPEED : FRef := ⟨HIF_STATUS, 1, 3⟩
def HIF_STATUS_WIDTH : FRef := ⟨HIF_STATUS, 4, 3⟩
def HIF_STATUS_ATTACH : FRef := ⟨HIF_STATUS, 7, 2⟩
def HIF_STATUS_SPILL_BACKLOG : FRef := ⟨HIF_STATUS, 9, 1⟩
def HIF_STATUS_DRAINING : FRef := ⟨HIF_STATUS, 10, 1⟩
def HIF_STATUS_PERST_GATED : FRef := ⟨HIF_STATUS, 11, 1⟩
def HIF_EVENTS : Nat := 0x0B0004
def HIF_EVENTS_LINK_DOWN : FRef := ⟨HIF_EVENTS, 0, 1⟩
def HIF_EVENTS_LINK_UP : FRef := ⟨HIF_EVENTS, 1, 1⟩
def HIF_EVENTS_DB_ERR : FRef := ⟨HIF_EVENTS, 2, 1⟩
def HIF_EVENTS_FETCH_ERR : FRef := ⟨HIF_EVENTS, 3, 1⟩
def HIF_EVENTS_CPL_FULL : FRef := ⟨HIF_EVENTS, 4, 1⟩
def HIF_EVENTS_SPILL_OVERWRITE : FRef := ⟨HIF_EVENTS, 5, 1⟩
def HIF_EVENTS_DRAIN_DONE : FRef := ⟨HIF_EVENTS, 6, 1⟩
def HIF_EVENTS_DUPLICATE : FRef := ⟨HIF_EVENTS, 7, 1⟩
def HIF_EVENTS_BAD_BUF : FRef := ⟨HIF_EVENTS, 8, 1⟩
def HIF_EVENTS_CFG_ERR : FRef := ⟨HIF_EVENTS, 9, 1⟩
def HIF_INT_EN : Nat := 0x0B0008
def HIF_INT_EN_EN : FRef := ⟨HIF_INT_EN, 0, 10⟩
def HIF_CFG : Nat := 0x0B000C
def HIF_CFG_AUTO_DRAIN : FRef := ⟨HIF_CFG, 0, 1⟩
def HIF_CFG_UNIT_ID : FRef := ⟨HIF_CFG, 8, 8⟩
def HIF_CFG_MAX_SPEED : FRef := ⟨HIF_CFG, 16, 3⟩
def HIF_SPILL_BASE_LO : Nat := 0x0B0010
def HIF_SPILL_BASE_LO_BASE : FRef := ⟨HIF_SPILL_BASE_LO, 0, 32⟩
def HIF_SPILL_BASE_HI : Nat := 0x0B0014
def HIF_SPILL_BASE_HI_BASE : FRef := ⟨HIF_SPILL_BASE_HI, 0, 32⟩
def HIF_SPILL_SIZE : Nat := 0x0B0018
def HIF_SPILL_SIZE_SIZE_MIB : FRef := ⟨HIF_SPILL_SIZE, 0, 16⟩
def HIF_SPILL_SIZE_RESERVE_MIB : FRef := ⟨HIF_SPILL_SIZE, 16, 16⟩
def HIF_SPILL_USED : Nat := 0x0B001C
def HIF_SPILL_USED_KIB : FRef := ⟨HIF_SPILL_USED, 0, 32⟩
def HIF_SPILL_LOST : Nat := 0x0B0020
def HIF_SPILL_LOST_COUNT : FRef := ⟨HIF_SPILL_LOST, 0, 32⟩
def HIF_DETACH_CNT : Nat := 0x0B0024
def HIF_DETACH_CNT_COUNT : FRef := ⟨HIF_DETACH_CNT, 0, 32⟩
def HIF_HELD_CNT : Nat := 0x0B0028
def HIF_HELD_CNT_COUNT : FRef := ⟨HIF_HELD_CNT, 0, 10⟩
def HIF_DETACH_GT_LO : Nat := 0x0B0030
def HIF_DETACH_GT_LO_GT : FRef := ⟨HIF_DETACH_GT_LO, 0, 32⟩
def HIF_DETACH_GT_HI : Nat := 0x0B0034
def HIF_DETACH_GT_HI_GT : FRef := ⟨HIF_DETACH_GT_HI, 0, 32⟩
def HIF_REATTACH_GT_LO : Nat := 0x0B0038
def HIF_REATTACH_GT_LO_GT : FRef := ⟨HIF_REATTACH_GT_LO, 0, 32⟩
def HIF_REATTACH_GT_HI : Nat := 0x0B003C
def HIF_REATTACH_GT_HI_GT : FRef := ⟨HIF_REATTACH_GT_HI, 0, 32⟩
def HIF_IRQ_VEC (b : Nat) : Nat := 0x0B0080 + 0x4 * (b % 18)
def HIF_IRQ_VEC_VEC (b : Nat) : FRef := ⟨(HIF_IRQ_VEC b), 0, 6⟩
def HIF_SMAP (s : Nat) : Nat := 0x0B0100 + 0x4 * (s % 18)
def HIF_SMAP_RING (s : Nat) : FRef := ⟨(HIF_SMAP s), 0, 5⟩
def HIF_SMAP_EN (s : Nat) : FRef := ⟨(HIF_SMAP s), 5, 1⟩
def HIF_SMAP_UNATT_DISCARD (s : Nat) : FRef := ⟨(HIF_SMAP s), 6, 1⟩
def HIF_CMD_BASE_LO (k : Nat) : Nat := 0x0B1000 + 0x40 * (k % 16)
def HIF_CMD_BASE_LO_BASE (k : Nat) : FRef := ⟨(HIF_CMD_BASE_LO k), 0, 32⟩
def HIF_CMD_BASE_HI (k : Nat) : Nat := 0x0B1004 + 0x40 * (k % 16)
def HIF_CMD_BASE_HI_BASE (k : Nat) : FRef := ⟨(HIF_CMD_BASE_HI k), 0, 32⟩
def HIF_CMD_CTL (k : Nat) : Nat := 0x0B1008 + 0x40 * (k % 16)
def HIF_CMD_CTL_EN (k : Nat) : FRef := ⟨(HIF_CMD_CTL k), 0, 1⟩
def HIF_CMD_CTL_CLEAR_IDS (k : Nat) : FRef := ⟨(HIF_CMD_CTL k), 1, 1⟩
def HIF_CMD_CTL_SIZE_LOG2 (k : Nat) : FRef := ⟨(HIF_CMD_CTL k), 4, 4⟩
def HIF_CMD_CTL_CPL (k : Nat) : FRef := ⟨(HIF_CMD_CTL k), 8, 4⟩
def HIF_CMD_CTL_STATE (k : Nat) : FRef := ⟨(HIF_CMD_CTL k), 12, 3⟩
def HIF_CMD_HEAD (k : Nat) : Nat := 0x0B100C + 0x40 * (k % 16)
def HIF_CMD_HEAD_INDEX (k : Nat) : FRef := ⟨(HIF_CMD_HEAD k), 0, 16⟩
def HIF_CMD_TAIL (k : Nat) : Nat := 0x0B1010 + 0x40 * (k % 16)
def HIF_CMD_TAIL_INDEX (k : Nat) : FRef := ⟨(HIF_CMD_TAIL k), 0, 16⟩
def HIF_CMD_DUP_CNT (k : Nat) : Nat := 0x0B1014 + 0x40 * (k % 16)
def HIF_CMD_DUP_CNT_COUNT (k : Nat) : FRef := ⟨(HIF_CMD_DUP_CNT k), 0, 16⟩
def HIF_CMD_REJ_CNT (k : Nat) : Nat := 0x0B1018 + 0x40 * (k % 16)
def HIF_CMD_REJ_CNT_COUNT (k : Nat) : FRef := ⟨(HIF_CMD_REJ_CNT k), 0, 16⟩
def HIF_CPL_BASE_LO (k : Nat) : Nat := 0x0B1400 + 0x40 * (k % 16)
def HIF_CPL_BASE_LO_BASE (k : Nat) : FRef := ⟨(HIF_CPL_BASE_LO k), 0, 32⟩
def HIF_CPL_BASE_HI (k : Nat) : Nat := 0x0B1404 + 0x40 * (k % 16)
def HIF_CPL_BASE_HI_BASE (k : Nat) : FRef := ⟨(HIF_CPL_BASE_HI k), 0, 32⟩
def HIF_CPL_CTL (k : Nat) : Nat := 0x0B1408 + 0x40 * (k % 16)
def HIF_CPL_CTL_EN (k : Nat) : FRef := ⟨(HIF_CPL_CTL k), 0, 1⟩
def HIF_CPL_CTL_SIZE_LOG2 (k : Nat) : FRef := ⟨(HIF_CPL_CTL k), 4, 4⟩
def HIF_CPL_CTL_VEC (k : Nat) : FRef := ⟨(HIF_CPL_CTL k), 8, 6⟩
def HIF_CPL_CTL_STATE (k : Nat) : FRef := ⟨(HIF_CPL_CTL k), 16, 3⟩
def HIF_CPL_CTL_COAL_CNT (k : Nat) : FRef := ⟨(HIF_CPL_CTL k), 24, 8⟩
def HIF_CPL_COAL_US (k : Nat) : Nat := 0x0B140C + 0x40 * (k % 16)
def HIF_CPL_COAL_US_US (k : Nat) : FRef := ⟨(HIF_CPL_COAL_US k), 0, 16⟩
def HIF_CPL_HEAD (k : Nat) : Nat := 0x0B1410 + 0x40 * (k % 16)
def HIF_CPL_HEAD_INDEX (k : Nat) : FRef := ⟨(HIF_CPL_HEAD k), 0, 16⟩
def HIF_CPL_TAIL (k : Nat) : Nat := 0x0B1414 + 0x40 * (k % 16)
def HIF_CPL_TAIL_INDEX (k : Nat) : FRef := ⟨(HIF_CPL_TAIL k), 0, 16⟩
def HIF_CPL_HELD (k : Nat) : Nat := 0x0B1418 + 0x40 * (k % 16)
def HIF_CPL_HELD_COUNT (k : Nat) : FRef := ⟨(HIF_CPL_HELD k), 0, 10⟩
def HIF_STR_BASE_LO (m : Nat) : Nat := 0x0B2000 + 0x40 * (m % 32)
def HIF_STR_BASE_LO_BASE (m : Nat) : FRef := ⟨(HIF_STR_BASE_LO m), 0, 32⟩
def HIF_STR_BASE_HI (m : Nat) : Nat := 0x0B2004 + 0x40 * (m % 32)
def HIF_STR_BASE_HI_BASE (m : Nat) : FRef := ⟨(HIF_STR_BASE_HI m), 0, 32⟩
def HIF_STR_CTL (m : Nat) : Nat := 0x0B2008 + 0x40 * (m % 32)
def HIF_STR_CTL_EN (m : Nat) : FRef := ⟨(HIF_STR_CTL m), 0, 1⟩
def HIF_STR_CTL_FRAME_IRQ (m : Nat) : FRef := ⟨(HIF_STR_CTL m), 1, 1⟩
def HIF_STR_CTL_SIZE_LOG2 (m : Nat) : FRef := ⟨(HIF_STR_CTL m), 4, 4⟩
def HIF_STR_CTL_VEC (m : Nat) : FRef := ⟨(HIF_STR_CTL m), 8, 6⟩
def HIF_STR_CTL_STATE (m : Nat) : FRef := ⟨(HIF_STR_CTL m), 16, 3⟩
def HIF_STR_FLUSH_US (m : Nat) : Nat := 0x0B200C + 0x40 * (m % 32)
def HIF_STR_FLUSH_US_US (m : Nat) : FRef := ⟨(HIF_STR_FLUSH_US m), 0, 20⟩
def HIF_STR_HEAD (m : Nat) : Nat := 0x0B2010 + 0x40 * (m % 32)
def HIF_STR_HEAD_INDEX (m : Nat) : FRef := ⟨(HIF_STR_HEAD m), 0, 16⟩
def HIF_STR_TAIL (m : Nat) : Nat := 0x0B2014 + 0x40 * (m % 32)
def HIF_STR_TAIL_INDEX (m : Nat) : FRef := ⟨(HIF_STR_TAIL m), 0, 16⟩
def HIF_STR_BAD_CNT (m : Nat) : Nat := 0x0B2018 + 0x40 * (m % 32)
def HIF_STR_BAD_CNT_COUNT (m : Nat) : FRef := ⟨(HIF_STR_BAD_CNT m), 0, 16⟩

/-! ### PMC registers (R395, R550) -/

def PMC_CTL : Nat := 0x0C0000
def PMC_CTL_EN : FRef := ⟨PMC_CTL, 0, 1⟩
def PMC_CTL_STREAM_EN : FRef := ⟨PMC_CTL, 1, 1⟩
def PMC_SEQ : Nat := 0x0C0004
def PMC_SEQ_LEN : FRef := ⟨PMC_SEQ, 0, 7⟩
def PMC_SEQ_TRIG : FRef := ⟨PMC_SEQ, 8, 2⟩
def PMC_SEQ_HW_SRC : FRef := ⟨PMC_SEQ, 10, 5⟩
def PMC_SEQ_START : FRef := ⟨PMC_SEQ, 16, 1⟩
def PMC_SEQ_STOP : FRef := ⟨PMC_SEQ, 17, 1⟩
def PMC_GRID_PERIOD : Nat := 0x0C0008
def PMC_GRID_PERIOD_US : FRef := ⟨PMC_GRID_PERIOD, 0, 32⟩
def PMC_GRID_OFS : Nat := 0x0C000C
def PMC_GRID_OFS_US : FRef := ⟨PMC_GRID_OFS, 0, 32⟩
def PMC_STATUS : Nat := 0x0C0010
def PMC_STATUS_RUN : FRef := ⟨PMC_STATUS, 0, 1⟩
def PMC_STATUS_CAL_BUSY : FRef := ⟨PMC_STATUS, 1, 1⟩
def PMC_STATUS_PENDING : FRef := ⟨PMC_STATUS, 2, 1⟩
def PMC_STATUS_INJ_PENDING : FRef := ⟨PMC_STATUS, 3, 4⟩
def PMC_STATUS_INJ_ACTIVE : FRef := ⟨PMC_STATUS, 7, 1⟩
def PMC_STATUS_SLOT : FRef := ⟨PMC_STATUS, 8, 6⟩
def PMC_STATUS_INJ : FRef := ⟨PMC_STATUS, 14, 2⟩
def PMC_STATUS_SUSPENDED : FRef := ⟨PMC_STATUS, 16, 1⟩
def PMC_STATUS_REF_OK : FRef := ⟨PMC_STATUS, 17, 1⟩
def PMC_EVENTS : Nat := 0x0C0014
def PMC_EVENTS_PASS_DONE : FRef := ⟨PMC_EVENTS, 0, 1⟩
def PMC_EVENTS_INJ_DONE : FRef := ⟨PMC_EVENTS, 1, 1⟩
def PMC_EVENTS_OVR : FRef := ⟨PMC_EVENTS, 2, 1⟩
def PMC_EVENTS_TRIG_OVR : FRef := ⟨PMC_EVENTS, 3, 1⟩
def PMC_EVENTS_CAL_DONE : FRef := ⟨PMC_EVENTS, 4, 1⟩
def PMC_EVENTS_CAL_PARTIAL : FRef := ⟨PMC_EVENTS, 5, 1⟩
def PMC_EVENTS_REF_FAIL : FRef := ⟨PMC_EVENTS, 6, 1⟩
def PMC_EVENTS_PREEMPT : FRef := ⟨PMC_EVENTS, 7, 1⟩
def PMC_EVENTS_CFG_ERR : FRef := ⟨PMC_EVENTS, 8, 1⟩
def PMC_EVENTS_NV_FAIL : FRef := ⟨PMC_EVENTS, 9, 1⟩
def PMC_INT_EN : Nat := 0x0C0018
def PMC_INT_EN_EN : FRef := ⟨PMC_INT_EN, 0, 10⟩
def PMC_SPI_INT_EN : Nat := 0x0C001C
def PMC_SPI_INT_EN_EN : FRef := ⟨PMC_SPI_INT_EN, 0, 10⟩
def PMC_SPI_CFG : Nat := 0x0C0020
def PMC_SPI_CFG_WR_EN : FRef := ⟨PMC_SPI_CFG, 0, 1⟩
def PMC_EXC_CFG : Nat := 0x0C0024
def PMC_EXC_CFG_STATIC : FRef := ⟨PMC_EXC_CFG, 0, 4⟩
def PMC_EXC_CFG_I0 : FRef := ⟨PMC_EXC_CFG, 8, 3⟩
def PMC_EXC_CFG_I1 : FRef := ⟨PMC_EXC_CFG, 12, 3⟩
def PMC_EXC_CFG_I2 : FRef := ⟨PMC_EXC_CFG, 16, 3⟩
def PMC_EXC_CFG_I3 : FRef := ⟨PMC_EXC_CFG, 20, 3⟩
def PMC_TRIG_OVR : Nat := 0x0C0028
def PMC_TRIG_OVR_REG : FRef := ⟨PMC_TRIG_OVR, 0, 16⟩
def PMC_TRIG_OVR_INJ : FRef := ⟨PMC_TRIG_OVR, 16, 16⟩
def PMC_OVR_CNT : Nat := 0x0C002C
def PMC_OVR_CNT_COUNT : FRef := ⟨PMC_OVR_CNT, 0, 32⟩
def PMC_PASS_CNT : Nat := 0x0C0030
def PMC_PASS_CNT_COUNT : FRef := ⟨PMC_PASS_CNT, 0, 32⟩
def PMC_PASS_GT_LO : Nat := 0x0C0034
def PMC_PASS_GT_LO_GT : FRef := ⟨PMC_PASS_GT_LO, 0, 32⟩
def PMC_PASS_GT_HI : Nat := 0x0C0038
def PMC_PASS_GT_HI_GT : FRef := ⟨PMC_PASS_GT_HI, 0, 32⟩
def PMC_DIE_TEMP : Nat := 0x0C003C
def PMC_DIE_TEMP_TEMP : FRef := ⟨PMC_DIE_TEMP, 0, 16⟩
def PMC_DIE_TEMP_VALID : FRef := ⟨PMC_DIE_TEMP, 16, 1⟩
def PMC_CAL_CTL : Nat := 0x0C0040
def PMC_CAL_CTL_MASK : FRef := ⟨PMC_CAL_CTL, 0, 8⟩
def PMC_CAL_CTL_NV : FRef := ⟨PMC_CAL_CTL, 8, 1⟩
def PMC_CAL_CTL_SAVE_ONLY : FRef := ⟨PMC_CAL_CTL, 9, 1⟩
def PMC_CAL_CTL_START : FRef := ⟨PMC_CAL_CTL, 10, 1⟩
def PMC_CAL_RESULT : Nat := 0x0C0044
def PMC_CAL_RESULT_CODE : FRef := ⟨PMC_CAL_RESULT, 0, 3⟩
def PMC_CAL_RESULT_FAIL : FRef := ⟨PMC_CAL_RESULT, 8, 8⟩
def PMC_CAL_RESULT_TEMP : FRef := ⟨PMC_CAL_RESULT, 16, 16⟩
def PMC_CALF_OFS (g : Nat) : Nat := 0x0C0080 + 0x8 * (g % 8)
def PMC_CALF_OFS_OFS (g : Nat) : FRef := ⟨(PMC_CALF_OFS g), 0, 32⟩
def PMC_CALF_GAIN (g : Nat) : Nat := 0x0C0084 + 0x8 * (g % 8)
def PMC_CALF_GAIN_GCAL (g : Nat) : FRef := ⟨(PMC_CALF_GAIN g), 0, 24⟩
def PMC_INJ_CFG (j : Nat) : Nat := 0x0C0100 + 0x20 * (j % 4)
def PMC_INJ_CFG_CHAN (j : Nat) : FRef := ⟨(PMC_INJ_CFG j), 0, 8⟩
def PMC_INJ_CFG_GAIN (j : Nat) : FRef := ⟨(PMC_INJ_CFG j), 8, 3⟩
def PMC_INJ_CFG_REF (j : Nat) : FRef := ⟨(PMC_INJ_CFG j), 11, 1⟩
def PMC_INJ_CFG_ODR (j : Nat) : FRef := ⟨(PMC_INJ_CFG j), 12, 4⟩
def PMC_INJ_CFG_AVG_LOG2 (j : Nat) : FRef := ⟨(PMC_INJ_CFG j), 16, 4⟩
def PMC_INJ_CFG_SHIFT (j : Nat) : FRef := ⟨(PMC_INJ_CFG j), 20, 4⟩
def PMC_INJ_CFG_EXC (j : Nat) : FRef := ⟨(PMC_INJ_CFG j), 24, 4⟩
def PMC_INJ_CFG_EN (j : Nat) : FRef := ⟨(PMC_INJ_CFG j), 31, 1⟩
def PMC_INJ_SETTLE (j : Nat) : Nat := 0x0C0104 + 0x20 * (j % 4)
def PMC_INJ_SETTLE_US (j : Nat) : FRef := ⟨(PMC_INJ_SETTLE j), 0, 16⟩
def PMC_INJ_TRIG (j : Nat) : Nat := 0x0C0108 + 0x20 * (j % 4)
def PMC_INJ_TRIG_MODE (j : Nat) : FRef := ⟨(PMC_INJ_TRIG j), 0, 1⟩
def PMC_INJ_TRIG_HW_SRC (j : Nat) : FRef := ⟨(PMC_INJ_TRIG j), 1, 5⟩
def PMC_INJ_TRIG_START (j : Nat) : FRef := ⟨(PMC_INJ_TRIG j), 6, 1⟩
def PMC_INJ_RESULT (j : Nat) : Nat := 0x0C010C + 0x20 * (j % 4)
def PMC_INJ_RESULT_CODE (j : Nat) : FRef := ⟨(PMC_INJ_RESULT j), 0, 24⟩
def PMC_INJ_RESULT_NEW (j : Nat) : FRef := ⟨(PMC_INJ_RESULT j), 24, 1⟩
def PMC_INJ_RESULT_OVR (j : Nat) : FRef := ⟨(PMC_INJ_RESULT j), 25, 1⟩
def PMC_INJ_RESULT_PRECAL (j : Nat) : FRef := ⟨(PMC_INJ_RESULT j), 26, 1⟩
def PMC_INJ_RESULT_REF_BAD (j : Nat) : FRef := ⟨(PMC_INJ_RESULT j), 27, 1⟩
def PMC_INJ_GT_LO (j : Nat) : Nat := 0x0C0110 + 0x20 * (j % 4)
def PMC_INJ_GT_LO_GT (j : Nat) : FRef := ⟨(PMC_INJ_GT_LO j), 0, 32⟩
def PMC_INJ_GT_HI (j : Nat) : Nat := 0x0C0114 + 0x20 * (j % 4)
def PMC_INJ_GT_HI_GT (j : Nat) : FRef := ⟨(PMC_INJ_GT_HI j), 0, 32⟩
def PMC_SLOT_CFG (s : Nat) : Nat := 0x0C0400 + 0x10 * (s % 64)
def PMC_SLOT_CFG_CHAN (s : Nat) : FRef := ⟨(PMC_SLOT_CFG s), 0, 8⟩
def PMC_SLOT_CFG_GAIN (s : Nat) : FRef := ⟨(PMC_SLOT_CFG s), 8, 3⟩
def PMC_SLOT_CFG_REF (s : Nat) : FRef := ⟨(PMC_SLOT_CFG s), 11, 1⟩
def PMC_SLOT_CFG_ODR (s : Nat) : FRef := ⟨(PMC_SLOT_CFG s), 12, 4⟩
def PMC_SLOT_CFG_AVG_LOG2 (s : Nat) : FRef := ⟨(PMC_SLOT_CFG s), 16, 4⟩
def PMC_SLOT_CFG_SHIFT (s : Nat) : FRef := ⟨(PMC_SLOT_CFG s), 20, 4⟩
def PMC_SLOT_CFG_EXC (s : Nat) : FRef := ⟨(PMC_SLOT_CFG s), 24, 4⟩
def PMC_SLOT_CFG_EN (s : Nat) : FRef := ⟨(PMC_SLOT_CFG s), 31, 1⟩
def PMC_SLOT_SETTLE (s : Nat) : Nat := 0x0C0404 + 0x10 * (s % 64)
def PMC_SLOT_SETTLE_US (s : Nat) : FRef := ⟨(PMC_SLOT_SETTLE s), 0, 16⟩
def PMC_SLOT_RESULT (s : Nat) : Nat := 0x0C0408 + 0x10 * (s % 64)
def PMC_SLOT_RESULT_CODE (s : Nat) : FRef := ⟨(PMC_SLOT_RESULT s), 0, 24⟩
def PMC_SLOT_RESULT_NEW (s : Nat) : FRef := ⟨(PMC_SLOT_RESULT s), 24, 1⟩
def PMC_SLOT_RESULT_OVR (s : Nat) : FRef := ⟨(PMC_SLOT_RESULT s), 25, 1⟩
def PMC_SLOT_RESULT_PRECAL (s : Nat) : FRef := ⟨(PMC_SLOT_RESULT s), 26, 1⟩
def PMC_SLOT_RESULT_REF_BAD (s : Nat) : FRef := ⟨(PMC_SLOT_RESULT s), 27, 1⟩

/-! ### WMN registers (R415, R550) -/

def WMN_STATUS : Nat := 0x0D0000
def WMN_STATUS_UNRESOLVED : FRef := ⟨WMN_STATUS, 0, 16⟩
def WMN_STATUS_TRIP_ROUTING : FRef := ⟨WMN_STATUS, 16, 1⟩
def WMN_LIVE : Nat := 0x0D0004
def WMN_LIVE_OUT : FRef := ⟨WMN_LIVE, 0, 16⟩
def WMN_LATCH : Nat := 0x0D0008
def WMN_LATCH_LATCH : FRef := ⟨WMN_LATCH, 0, 16⟩
def WMN_EVENTS : Nat := 0x0D000C
def WMN_EVENTS_SET : FRef := ⟨WMN_EVENTS, 0, 16⟩
def WMN_EVENTS_RESOLVED : FRef := ⟨WMN_EVENTS, 16, 1⟩
def WMN_EVENTS_CLR_DENIED : FRef := ⟨WMN_EVENTS, 17, 1⟩
def WMN_EVENTS_RB_MISMATCH : FRef := ⟨WMN_EVENTS, 18, 1⟩
def WMN_EVENTS_RB_STALE : FRef := ⟨WMN_EVENTS, 19, 1⟩
def WMN_EVENTS_CFG_ERR : FRef := ⟨WMN_EVENTS, 20, 1⟩
def WMN_INT_EN : Nat := 0x0D0010
def WMN_INT_EN_EN : FRef := ⟨WMN_INT_EN, 0, 21⟩
def WMN_RB_CFG : Nat := 0x0D0014
def WMN_RB_CFG_EN : FRef := ⟨WMN_RB_CFG, 0, 1⟩
def WMN_RB_CFG_TOL : FRef := ⟨WMN_RB_CFG, 8, 8⟩
def WMN_RB_CFG_PERIOD_MS : FRef := ⟨WMN_RB_CFG, 16, 16⟩
def WMN_RB_STATUS : Nat := 0x0D0018
def WMN_RB_STATUS_BAD : FRef := ⟨WMN_RB_STATUS, 0, 16⟩
def WMN_RB_STATUS_STALE : FRef := ⟨WMN_RB_STATUS, 16, 16⟩
def WMN_WM_CFG (m : Nat) : Nat := 0x0D0100 + 0x20 * (m % 16)
def WMN_WM_CFG_EN (m : Nat) : FRef := ⟨(WMN_WM_CFG m), 0, 1⟩
def WMN_WM_CFG_MODE (m : Nat) : FRef := ⟨(WMN_WM_CFG m), 1, 2⟩
def WMN_WM_CFG_HYST (m : Nat) : FRef := ⟨(WMN_WM_CFG m), 4, 4⟩
def WMN_WM_CFG_ROUTE (m : Nat) : FRef := ⟨(WMN_WM_CFG m), 8, 4⟩
def WMN_WM_CFG_FE (m : Nat) : FRef := ⟨(WMN_WM_CFG m), 12, 2⟩
def WMN_WM_CFG_AUTO_CLR (m : Nat) : FRef := ⟨(WMN_WM_CFG m), 14, 1⟩
def WMN_WM_CFG_GATE_EN (m : Nat) : FRef := ⟨(WMN_WM_CFG m), 15, 1⟩
def WMN_WM_THR (m : Nat) : Nat := 0x0D0104 + 0x20 * (m % 16)
def WMN_WM_THR_LO (m : Nat) : FRef := ⟨(WMN_WM_THR m), 0, 10⟩
def WMN_WM_THR_HI (m : Nat) : FRef := ⟨(WMN_WM_THR m), 16, 10⟩
def WMN_WM_GATE_START (m : Nat) : Nat := 0x0D0108 + 0x20 * (m % 16)
def WMN_WM_GATE_START_START (m : Nat) : FRef := ⟨(WMN_WM_GATE_START m), 0, 32⟩
def WMN_WM_GATE_DUR (m : Nat) : Nat := 0x0D010C + 0x20 * (m % 16)
def WMN_WM_GATE_DUR_DUR (m : Nat) : FRef := ⟨(WMN_WM_GATE_DUR m), 0, 17⟩
def WMN_WM_SET_CNT (m : Nat) : Nat := 0x0D0110 + 0x20 * (m % 16)
def WMN_WM_SET_CNT_COUNT (m : Nat) : FRef := ⟨(WMN_WM_SET_CNT m), 0, 32⟩
def WMN_WM_SET_GT_LO (m : Nat) : Nat := 0x0D0114 + 0x20 * (m % 16)
def WMN_WM_SET_GT_LO_GT (m : Nat) : FRef := ⟨(WMN_WM_SET_GT_LO m), 0, 32⟩
def WMN_WM_SET_GT_HI (m : Nat) : Nat := 0x0D0118 + 0x20 * (m % 16)
def WMN_WM_SET_GT_HI_GT (m : Nat) : FRef := ⟨(WMN_WM_SET_GT_HI m), 0, 32⟩
def WMN_WM_RB_ERR (m : Nat) : Nat := 0x0D011C + 0x20 * (m % 16)
def WMN_WM_RB_ERR_HI_ERR (m : Nat) : FRef := ⟨(WMN_WM_RB_ERR m), 0, 16⟩
def WMN_WM_RB_ERR_LO_ERR (m : Nat) : FRef := ⟨(WMN_WM_RB_ERR m), 16, 16⟩

/-! ### FLT registers (R444, R550) -/

def FLT_STATUS : Nat := 0x0E0000
def FLT_STATUS_SAFE_HOLD : FRef := ⟨FLT_STATUS, 0, 1⟩
def FLT_STATUS_WINDOW_OPEN : FRef := ⟨FLT_STATUS, 1, 1⟩
def FLT_STATUS_WINDOW_CLASS : FRef := ⟨FLT_STATUS, 2, 2⟩
def FLT_STATUS_INJ_ACTIVE : FRef := ⟨FLT_STATUS, 4, 1⟩
def FLT_STATUS_CONTAINED : FRef := ⟨FLT_STATUS, 8, 8⟩
def FLT_EVENTS : Nat := 0x0E0004
def FLT_EVENTS_C_RAISED : FRef := ⟨FLT_EVENTS, 0, 1⟩
def FLT_EVENTS_U_RAISED : FRef := ⟨FLT_EVENTS, 1, 1⟩
def FLT_EVENTS_WIRE : FRef := ⟨FLT_EVENTS, 2, 1⟩
def FLT_EVENTS_OVERLAP : FRef := ⟨FLT_EVENTS, 3, 1⟩
def FLT_EVENTS_MERGED : FRef := ⟨FLT_EVENTS, 4, 1⟩
def FLT_EVENTS_ESCALATED : FRef := ⟨FLT_EVENTS, 5, 1⟩
def FLT_EVENTS_RECOVERED : FRef := ⟨FLT_EVENTS, 6, 1⟩
def FLT_EVENTS_INJ_DONE : FRef := ⟨FLT_EVENTS, 7, 1⟩
def FLT_EVENTS_CFG_ERR : FRef := ⟨FLT_EVENTS, 8, 1⟩
def FLT_INT_EN : Nat := 0x0E0008
def FLT_INT_EN_EN : FRef := ⟨FLT_INT_EN, 0, 9⟩
def FLT_CFG : Nat := 0x0E000C
def FLT_CFG_THERM_LIMIT : FRef := ⟨FLT_CFG, 0, 16⟩
def FLT_STICKY (w : Nat) : Nat := 0x0E0010 + 0x4 * (w % 4)
def FLT_STICKY_STICKY (w : Nat) : FRef := ⟨(FLT_STICKY w), 0, 32⟩
def FLT_LIVE (w : Nat) : Nat := 0x0E0020 + 0x4 * (w % 4)
def FLT_LIVE_LIVE (w : Nat) : FRef := ⟨(FLT_LIVE w), 0, 32⟩
def FLT_WIRE (w : Nat) : Nat := 0x0E0030 + 0x4 * (w % 4)
def FLT_WIRE_WIRE (w : Nat) : FRef := ⟨(FLT_WIRE w), 0, 32⟩
def FLT_LIVE_WIRE (w : Nat) : Nat := 0x0E0040 + 0x4 * (w % 4)
def FLT_LIVE_WIRE_LIVE_WIRE (w : Nat) : FRef := ⟨(FLT_LIVE_WIRE w), 0, 32⟩
def FLT_PREV_STICKY (w : Nat) : Nat := 0x0E0050 + 0x4 * (w % 4)
def FLT_PREV_STICKY_PREV (w : Nat) : FRef := ⟨(FLT_PREV_STICKY w), 0, 32⟩
def FLT_SH_CAUSE : Nat := 0x0E0060
def FLT_SH_CAUSE_SOURCE : FRef := ⟨FLT_SH_CAUSE, 0, 7⟩
def FLT_SH_CAUSE_VALID : FRef := ⟨FLT_SH_CAUSE, 7, 1⟩
def FLT_INJ : Nat := 0x0E0064
def FLT_INJ_ACTIVE : FRef := ⟨FLT_INJ, 0, 1⟩
def FLT_INJ_SOURCE : FRef := ⟨FLT_INJ, 8, 7⟩
def FLT_INJ_KIND : FRef := ⟨FLT_INJ, 16, 2⟩
def FLT_INJ_OVERLAP : FRef := ⟨FLT_INJ, 18, 1⟩
def FLT_FE_INVALID_LO (n : Nat) : Nat := 0x0E0080 + 0x8 * (n % 4)
def FLT_FE_INVALID_LO_SHOT (n : Nat) : FRef := ⟨(FLT_FE_INVALID_LO n), 0, 32⟩
def FLT_FE_INVALID_HI (n : Nat) : Nat := 0x0E0084 + 0x8 * (n % 4)
def FLT_FE_INVALID_HI_SHOT (n : Nat) : FRef := ⟨(FLT_FE_INVALID_HI n), 0, 16⟩
def FLT_FE_INVALID_HI_VALID (n : Nat) : FRef := ⟨(FLT_FE_INVALID_HI n), 31, 1⟩
def FLT_CNT (v : Nat) : Nat := 0x0E0100 + 0x4 * (v % 64)
def FLT_CNT_EVEN (v : Nat) : FRef := ⟨(FLT_CNT v), 0, 16⟩
def FLT_CNT_ODD (v : Nat) : FRef := ⟨(FLT_CNT v), 16, 16⟩

/-! ### MEM registers (R479, R550) -/

def MEM_CFG : Nat := 0x0F0000
def MEM_CFG_RATE : FRef := ⟨MEM_CFG, 0, 2⟩
def MEM_CFG_DENSITY : FRef := ⟨MEM_CFG, 2, 3⟩
def MEM_CFG_TRFC : FRef := ⟨MEM_CFG, 8, 9⟩
def MEM_CTL : Nat := 0x0F0004
def MEM_CTL_INIT : FRef := ⟨MEM_CTL, 0, 1⟩
def MEM_CTL_SR_EN : FRef := ⟨MEM_CTL, 1, 1⟩
def MEM_CTL_EYE_EN : FRef := ⟨MEM_CTL, 2, 1⟩
def MEM_STATUS : Nat := 0x0F0008
def MEM_STATUS_INIT_DONE : FRef := ⟨MEM_STATUS, 0, 1⟩
def MEM_STATUS_BAND : FRef := ⟨MEM_STATUS, 1, 2⟩
def MEM_STATUS_DOUBLED : FRef := ⟨MEM_STATUS, 4, 4⟩
def MEM_STATUS_SR : FRef := ⟨MEM_STATUS, 8, 4⟩
def MEM_CAP : Nat := 0x0F000C
def MEM_CAP_MIB : FRef := ⟨MEM_CAP, 0, 16⟩
def MEM_EVENTS : Nat := 0x0F0010
def MEM_EVENTS_INITED : FRef := ⟨MEM_EVENTS, 0, 1⟩
def MEM_EVENTS_RATE_DOUBLE : FRef := ⟨MEM_EVENTS, 1, 1⟩
def MEM_EVENTS_RATE_BASE : FRef := ⟨MEM_EVENTS, 2, 1⟩
def MEM_EVENTS_BURST : FRef := ⟨MEM_EVENTS, 3, 1⟩
def MEM_EVENTS_SR_ENTER : FRef := ⟨MEM_EVENTS, 4, 1⟩
def MEM_EVENTS_SR_ABANDON : FRef := ⟨MEM_EVENTS, 5, 1⟩
def MEM_EVENTS_BAND_SWITCH : FRef := ⟨MEM_EVENTS, 6, 1⟩
def MEM_EVENTS_CE : FRef := ⟨MEM_EVENTS, 7, 1⟩
def MEM_EVENTS_UE : FRef := ⟨MEM_EVENTS, 8, 1⟩
def MEM_EVENTS_LINK_CE : FRef := ⟨MEM_EVENTS, 9, 1⟩
def MEM_EVENTS_EYE_LOW : FRef := ⟨MEM_EVENTS, 10, 1⟩
def MEM_EVENTS_REF_MISS : FRef := ⟨MEM_EVENTS, 11, 1⟩
def MEM_EVENTS_DRAM_OVERTEMP : FRef := ⟨MEM_EVENTS, 12, 1⟩
def MEM_EVENTS_HIST_DONE : FRef := ⟨MEM_EVENTS, 13, 1⟩
def MEM_EVENTS_CFG_ERR : FRef := ⟨MEM_EVENTS, 14, 1⟩
def MEM_INT_EN : Nat := 0x0F0014
def MEM_INT_EN_EN : FRef := ⟨MEM_INT_EN, 0, 15⟩
def MEM_SR_CFG : Nat := 0x0F0018
def MEM_SR_CFG_IDLE_US : FRef := ⟨MEM_SR_CFG, 0, 20⟩
def MEM_BAND_CFG : Nat := 0x0F001C
def MEM_BAND_CFG_T01 : FRef := ⟨MEM_BAND_CFG, 0, 16⟩
def MEM_BAND_CFG_T12 : FRef := ⟨MEM_BAND_CFG, 16, 16⟩
def MEM_BAND_STAT : Nat := 0x0F0020
def MEM_BAND_STAT_VALID : FRef := ⟨MEM_BAND_STAT, 0, 3⟩
def MEM_BAND_STAT_MEASURED : FRef := ⟨MEM_BAND_STAT, 4, 3⟩
def MEM_SYS_SHARE : Nat := 0x0F0024
def MEM_SYS_SHARE_HIST : FRef := ⟨MEM_SYS_SHARE, 0, 10⟩
def MEM_SYS_SHARE_SPILL : FRef := ⟨MEM_SYS_SHARE, 10, 10⟩
def MEM_SYS_SHARE_DRAIN : FRef := ⟨MEM_SYS_SHARE, 20, 10⟩
def MEM_EYE_CFG : Nat := 0x0F0028
def MEM_EYE_CFG_LIMIT : FRef := ⟨MEM_EYE_CFG, 0, 6⟩
def MEM_HIST_BASE_LO : Nat := 0x0F0030
def MEM_HIST_BASE_LO_BASE : FRef := ⟨MEM_HIST_BASE_LO, 0, 32⟩
def MEM_HIST_BASE_HI : Nat := 0x0F0034
def MEM_HIST_BASE_HI_BASE : FRef := ⟨MEM_HIST_BASE_HI, 0, 32⟩
def MEM_HIST_SIZE : Nat := 0x0F0038
def MEM_HIST_SIZE_MIB : FRef := ⟨MEM_HIST_SIZE, 0, 16⟩
def MEM_HIST_CTL : Nat := 0x0F003C
def MEM_HIST_CTL_FE_MASK : FRef := ⟨MEM_HIST_CTL, 0, 4⟩
def MEM_HIST_CTL_EN : FRef := ⟨MEM_HIST_CTL, 4, 1⟩
def MEM_HIST_CTL_DECIM : FRef := ⟨MEM_HIST_CTL, 5, 6⟩
def MEM_HIST_CTL_RING : FRef := ⟨MEM_HIST_CTL, 11, 5⟩
def MEM_HIST_CTL_DUMP : FRef := ⟨MEM_HIST_CTL, 16, 1⟩
def MEM_HIST_FROM_LO : Nat := 0x0F0040
def MEM_HIST_FROM_LO_GT : FRef := ⟨MEM_HIST_FROM_LO, 0, 32⟩
def MEM_HIST_FROM_HI : Nat := 0x0F0044
def MEM_HIST_FROM_HI_GT : FRef := ⟨MEM_HIST_FROM_HI, 0, 32⟩
def MEM_HIST_SPAN : Nat := 0x0F0048
def MEM_HIST_SPAN_MS : FRef := ⟨MEM_HIST_SPAN, 0, 20⟩
def MEM_HIST_SKIP : Nat := 0x0F004C
def MEM_HIST_SKIP_COUNT : FRef := ⟨MEM_HIST_SKIP, 0, 32⟩
def MEM_TEST_CTL : Nat := 0x0F0050
def MEM_TEST_CTL_START : FRef := ⟨MEM_TEST_CTL, 0, 1⟩
def MEM_TEST_CTL_CH : FRef := ⟨MEM_TEST_CTL, 1, 2⟩
def MEM_TEST_CTL_KIND : FRef := ⟨MEM_TEST_CTL, 3, 1⟩
def MEM_TEST_CTL_CA : FRef := ⟨MEM_TEST_CTL, 4, 1⟩
def MEM_TEST_CTL_BUSY : FRef := ⟨MEM_TEST_CTL, 5, 1⟩
def MEM_TEST_CTL_BURSTS : FRef := ⟨MEM_TEST_CTL, 16, 16⟩
def MEM_TEST_FAIL : Nat := 0x0F0054
def MEM_TEST_FAIL_DQ : FRef := ⟨MEM_TEST_FAIL, 0, 18⟩
def MEM_TEST_FAIL_CA : FRef := ⟨MEM_TEST_FAIL, 18, 8⟩
def MEM_CH_STATUS (c : Nat) : Nat := 0x0F0100 + 0x400 * (c % 4)
def MEM_CH_STATUS_OWED (c : Nat) : FRef := ⟨(MEM_CH_STATUS c), 0, 6⟩
def MEM_CH_STATUS_MR4 (c : Nat) : FRef := ⟨(MEM_CH_STATUS c), 8, 5⟩
def MEM_CH_STATUS_DOUBLED (c : Nat) : FRef := ⟨(MEM_CH_STATUS c), 13, 1⟩
def MEM_CH_STATUS_SR (c : Nat) : FRef := ⟨(MEM_CH_STATUS c), 14, 1⟩
def MEM_CH_REF_CNT (c : Nat) : Nat := 0x0F0104 + 0x400 * (c % 4)
def MEM_CH_REF_CNT_COUNT (c : Nat) : FRef := ⟨(MEM_CH_REF_CNT c), 0, 32⟩
def MEM_CH_SR_CNT (c : Nat) : Nat := 0x0F0108 + 0x400 * (c % 4)
def MEM_CH_SR_CNT_COUNT (c : Nat) : FRef := ⟨(MEM_CH_SR_CNT c), 0, 32⟩
def MEM_CH_CE_CNT (c : Nat) : Nat := 0x0F010C + 0x400 * (c % 4)
def MEM_CH_CE_CNT_STORE (c : Nat) : FRef := ⟨(MEM_CH_CE_CNT c), 0, 16⟩
def MEM_CH_CE_CNT_LINK (c : Nat) : FRef := ⟨(MEM_CH_CE_CNT c), 16, 16⟩
def MEM_CH_UE_CNT (c : Nat) : Nat := 0x0F0110 + 0x400 * (c % 4)
def MEM_CH_UE_CNT_COUNT (c : Nat) : FRef := ⟨(MEM_CH_UE_CNT c), 0, 16⟩
def MEM_CH_DLY (c b w : Nat) : Nat := 0x0F0200 + 0x400 * (c % 4) + 0x80 * (b % 3) + 0x4 * (w % 23)
def MEM_CH_DLY_LOW (c b w : Nat) : FRef := ⟨(MEM_CH_DLY c b w), 0, 9⟩
def MEM_CH_DLY_HIGH (c b w : Nat) : FRef := ⟨(MEM_CH_DLY c b w), 16, 9⟩

/-! ### BRM registers (R480, R550) -/

def BRM_STATUS : Nat := 0x100000
def BRM_STATUS_INIT_DONE : FRef := ⟨BRM_STATUS, 0, 1⟩
def BRM_STATUS_SCRUB_ACTIVE : FRef := ⟨BRM_STATUS, 1, 1⟩
def BRM_EVENTS : Nat := 0x100004
def BRM_EVENTS_SBE : FRef := ⟨BRM_EVENTS, 0, 1⟩
def BRM_EVENTS_DBE : FRef := ⟨BRM_EVENTS, 1, 1⟩
def BRM_EVENTS_SCRUB_DBE : FRef := ⟨BRM_EVENTS, 2, 1⟩
def BRM_EVENTS_SCRUB_PASS : FRef := ⟨BRM_EVENTS, 3, 1⟩
def BRM_EVENTS_CFG_ERR : FRef := ⟨BRM_EVENTS, 4, 1⟩
def BRM_INT_EN : Nat := 0x100008
def BRM_INT_EN_EN : FRef := ⟨BRM_INT_EN, 0, 5⟩
def BRM_SCRUB_CFG : Nat := 0x10000C
def BRM_SCRUB_CFG_EN : FRef := ⟨BRM_SCRUB_CFG, 0, 1⟩
def BRM_SCRUB_CFG_PERIOD_MS : FRef := ⟨BRM_SCRUB_CFG, 16, 16⟩
def BRM_RETAIN_LO : Nat := 0x100010
def BRM_RETAIN_LO_BANKS : FRef := ⟨BRM_RETAIN_LO, 0, 32⟩
def BRM_RETAIN_HI : Nat := 0x100014
def BRM_RETAIN_HI_BANKS : FRef := ⟨BRM_RETAIN_HI, 0, 32⟩
def BRM_SBE_CNT : Nat := 0x100018
def BRM_SBE_CNT_COUNT : FRef := ⟨BRM_SBE_CNT, 0, 32⟩
def BRM_DBE_CNT : Nat := 0x10001C
def BRM_DBE_CNT_COUNT : FRef := ⟨BRM_DBE_CNT, 0, 32⟩
def BRM_PASS_CNT : Nat := 0x100020
def BRM_PASS_CNT_COUNT : FRef := ⟨BRM_PASS_CNT, 0, 32⟩

/-! ### NVS registers (R518, R550) -/

def NVS_STATUS : Nat := 0x110000
def NVS_STATUS_BUSY : FRef := ⟨NVS_STATUS, 0, 1⟩
def NVS_STATUS_READY : FRef := ⟨NVS_STATUS, 1, 1⟩
def NVS_EVENTS : Nat := 0x110004
def NVS_EVENTS_WR_DONE : FRef := ⟨NVS_EVENTS, 0, 1⟩
def NVS_EVENTS_CE : FRef := ⟨NVS_EVENTS, 1, 1⟩
def NVS_EVENTS_UE : FRef := ⟨NVS_EVENTS, 2, 1⟩
def NVS_EVENTS_PROT : FRef := ⟨NVS_EVENTS, 3, 1⟩
def NVS_EVENTS_VERIFY_FAIL : FRef := ⟨NVS_EVENTS, 4, 1⟩
def NVS_EVENTS_CFG_ERR : FRef := ⟨NVS_EVENTS, 5, 1⟩
def NVS_INT_EN : Nat := 0x110008
def NVS_INT_EN_EN : FRef := ⟨NVS_INT_EN, 0, 6⟩
def NVS_WP : Nat := 0x11000C
def NVS_WP_WP : FRef := ⟨NVS_WP, 0, 9⟩
def NVS_CE_CNT : Nat := 0x110010
def NVS_CE_CNT_COUNT : FRef := ⟨NVS_CE_CNT, 0, 32⟩
def NVS_UE_CNT : Nat := 0x110014
def NVS_UE_CNT_COUNT : FRef := ⟨NVS_UE_CNT, 0, 32⟩
def NVS_LAST : Nat := 0x110018
def NVS_LAST_CODE : FRef := ⟨NVS_LAST, 0, 3⟩
def NVS_LAST_REGION : FRef := ⟨NVS_LAST, 8, 4⟩

/-! ### The register table -/

def specSys0 : List RegSpec := [
  ⟨0x000000, [], [⟨0, 16, .ro, 0xC4A7, .any⟩, ⟨16, 16, .ro, 0x4080, .any⟩]⟩,
  ⟨0x000004, [], [⟨0, 8, .ro, 0xB0, .any⟩, ⟨8, 8, .ro, 0x80, .any⟩, ⟨16, 8, .ro, 0x11, .any⟩]⟩,
  ⟨0x000010, [(0x4, 4)], [⟨0, 32, .ro, 0x0, .any⟩]⟩,
  ⟨0x000020, [], [⟨0, 1, .wo, 0x0, .any⟩, ⟨16, 16, .wo, 0x0, .any⟩]⟩,
  ⟨0x000024, [], [⟨0, 3, .rok, 0x0, .any⟩]⟩,
  ⟨0x000028, [], [⟨0, 16, .rok, 0x0, .any⟩, ⟨16, 16, .rok, 0x0, .any⟩]⟩,
  ⟨0x000030, [], [⟨0, 1, .w1c, 0x0, .any⟩]⟩,
  ⟨0x000034, [], [⟨0, 1, .rw, 0x0, .any⟩]⟩]

/-- The registers of SYS (R516). -/
def specSys : List RegSpec := specSys0

def specPwr0 : List RegSpec := [
  ⟨0x010000, [], [⟨0, 3, .rok, 0x1, .any⟩, ⟨3, 3, .rok, 0x0, .any⟩, ⟨6, 1, .rok, 0x0, .any⟩, ⟨7, 1, .rok, 0x0, .any⟩, ⟨8, 3, .rok, 0x0, .any⟩, ⟨11, 3, .rok, 0x0, .any⟩]⟩,
  ⟨0x010004, [], [⟨0, 1, .w1c, 0x0, .any⟩, ⟨1, 1, .w1c, 0x0, .any⟩, ⟨2, 1, .w1c, 0x0, .any⟩, ⟨3, 1, .w1c, 0x0, .any⟩, ⟨4, 1, .w1c, 0x0, .any⟩, ⟨5, 1, .w1c, 0x0, .any⟩]⟩,
  ⟨0x010008, [], [⟨0, 6, .rw, 0x0, .any⟩]⟩,
  ⟨0x01000C, [], [⟨0, 32, .ro, 0x0, .any⟩]⟩,
  ⟨0x010010, [], [⟨0, 32, .ro, 0x0, .any⟩]⟩,
  ⟨0x010014, [], [⟨0, 1, .ro, 0x0, .any⟩, ⟨1, 1, .ro, 0x0, .any⟩, ⟨2, 1, .ro, 0x0, .any⟩, ⟨3, 1, .ro, 0x0, .any⟩]⟩,
  ⟨0x010018, [], [⟨0, 10, .rw, 0x1, .range 1 1000⟩, ⟨10, 2, .rw, 0x0, .any⟩, ⟨12, 1, .rw, 0x0, .any⟩]⟩,
  ⟨0x01001C, [], [⟨0, 4, .ro, 0x0, .any⟩, ⟨4, 1, .rok, 0x0, .any⟩, ⟨5, 1, .ro, 0x0, .any⟩, ⟨6, 1, .ro, 0x0, .any⟩, ⟨7, 1, .ro, 0x0, .any⟩, ⟨16, 16, .ro, 0x0, .any⟩]⟩,
  ⟨0x010020, [(0x4, 4)], [⟨0, 32, .ro, 0x0, .any⟩]⟩,
  ⟨0x010030, [], [⟨0, 4, .rok, 0x0, .any⟩, ⟨4, 1, .rok, 0x0, .any⟩]⟩,
  ⟨0x010040, [(0x4, 7)], [⟨0, 32, .aonro, 0x0, .any⟩]⟩,
  ⟨0x010080, [], [⟨0, 1, .aon, 0x1, .any⟩, ⟨1, 1, .aon, 0x0, .any⟩, ⟨2, 1, .aon, 0x0, .any⟩]⟩]

def specPwr1 : List RegSpec := [
  ⟨0x010084, [], [⟨0, 4, .aon, 0x2, .range 1 10⟩]⟩,
  ⟨0x010088, [], [⟨0, 3, .aonro, 0x0, .any⟩]⟩,
  ⟨0x010090, [], [⟨0, 32, .aonro, 0x0, .any⟩]⟩,
  ⟨0x010094, [], [⟨0, 32, .aonro, 0x0, .any⟩]⟩,
  ⟨0x010098, [], [⟨0, 32, .aon, 0xFFFFFFFF, .any⟩]⟩,
  ⟨0x01009C, [], [⟨0, 32, .aon, 0xFFFFFFFF, .any⟩]⟩]

/-- The registers of PWR (R517). -/
def specPwr : List RegSpec := specPwr0 ++ specPwr1

def specTim0 : List RegSpec := [
  ⟨0x020000, [], [⟨0, 1, .rws, 0x0, .any⟩, ⟨1, 2, .rws, 0x0, .range 0 2⟩, ⟨3, 1, .rws, 0x0, .any⟩, ⟨4, 8, .rws, 0xA, .range 1 100⟩, ⟨16, 12, .rws, 0x3C, .range 1 3600⟩]⟩,
  ⟨0x020004, [], [⟨0, 2, .rok, 0x0, .any⟩, ⟨2, 1, .rok, 0x0, .any⟩, ⟨3, 1, .rok, 0x0, .any⟩, ⟨4, 1, .rok, 0x0, .any⟩, ⟨5, 1, .rok, 0x0, .any⟩, ⟨6, 1, .ro, 0x0, .any⟩, ⟨8, 4, .ro, 0x0, .any⟩]⟩,
  ⟨0x020008, [], [⟨0, 1, .w1c, 0x0, .any⟩, ⟨1, 1, .w1c, 0x0, .any⟩, ⟨2, 1, .w1c, 0x0, .any⟩, ⟨3, 1, .w1c, 0x0, .any⟩, ⟨4, 1, .w1c, 0x0, .any⟩, ⟨5, 1, .w1c, 0x0, .any⟩, ⟨6, 1, .w1c, 0x0, .any⟩, ⟨7, 1, .w1c, 0x0, .any⟩, ⟨8, 1, .w1c, 0x0, .any⟩, ⟨9, 1, .w1c, 0x0, .any⟩, ⟨16, 4, .w1c, 0x0, .any⟩, ⟨20, 4, .w1c, 0x0, .any⟩]⟩,
  ⟨0x02000C, [], [⟨0, 10, .rw, 0x0, .any⟩, ⟨16, 8, .rw, 0x0, .any⟩]⟩,
  ⟨0x020010, [], [⟨0, 32, .ro, 0x0, .any⟩]⟩,
  ⟨0x020014, [], [⟨0, 32, .ro, 0x0, .any⟩]⟩,
  ⟨0x020018, [], [⟨0, 32, .rws, 0x0, .any⟩]⟩,
  ⟨0x02001C, [], [⟨0, 32, .rws, 0x0, .any⟩]⟩,
  ⟨0x020020, [], [⟨0, 1, .w1s, 0x0, .any⟩, ⟨1, 1, .rw, 0x0, .any⟩, ⟨2, 1, .wo, 0x0, .any⟩]⟩,
  ⟨0x020024, [], [⟨0, 32, .rok, 0x0, .any⟩]⟩,
  ⟨0x020028, [], [⟨0, 16, .rws, 0x64, .range 1 65535⟩, ⟨16, 16, .rws, 0x64, .range 1 65535⟩]⟩,
  ⟨0x02002C, [], [⟨0, 16, .rok, 0x0, .any⟩]⟩]

def specTim1 : List RegSpec := [
  ⟨0x020030, [], [⟨0, 32, .rws, 0x0, .any⟩]⟩,
  ⟨0x020034, [], [⟨0, 32, .rws, 0x0, .any⟩]⟩,
  ⟨0x020040, [], [⟨0, 1, .rws, 0x0, .any⟩, ⟨1, 1, .rws, 0x0, .any⟩, ⟨2, 1, .rws, 0x0, .any⟩, ⟨4, 20, .rws, 0x3E8, .range 10 1000000⟩]⟩,
  ⟨0x020044, [], [⟨0, 20, .rws, 0x0, .range 0 1000000⟩]⟩,
  ⟨0x020048, [], [⟨0, 32, .rok, 0x0, .any⟩]⟩,
  ⟨0x020050, [], [⟨0, 4, .rws, 0x0, .any⟩, ⟨4, 1, .rws, 0x0, .any⟩, ⟨8, 12, .rws, 0x64, .range 10 4000⟩, ⟨20, 12, .rws, 0x0, .range 0 4000⟩]⟩,
  ⟨0x020100, [(0x100, 4)], [⟨0, 24, .rw, 0xF4240, .range 20000 10000000⟩, ⟨24, 2, .rw, 0x0, .range 0 2⟩]⟩,
  ⟨0x020104, [(0x100, 4)], [⟨0, 21, .rw, 0x0, .range 0 1048575⟩]⟩,
  ⟨0x020108, [(0x100, 4)], [⟨0, 21, .rw, 0x10000, .range 1 1048576⟩]⟩,
  ⟨0x02010C, [(0x100, 4)], [⟨0, 16, .rw, 0x3E8, .any⟩]⟩,
  ⟨0x020110, [(0x100, 4)], [⟨0, 16, .rw, 0x0, .range 0 30000⟩]⟩,
  ⟨0x020114, [(0x100, 4)], [⟨0, 16, .rw, 0x395A, .range 14000 15000⟩]⟩]

def specTim2 : List RegSpec := [
  ⟨0x020118, [(0x100, 4)], [⟨0, 1, .rw, 0x0, .any⟩, ⟨8, 24, .rw, 0x0, .range 0 1000000⟩]⟩,
  ⟨0x020120, [(0x100, 4)], [⟨0, 32, .rok, 0x0, .any⟩]⟩,
  ⟨0x020124, [(0x100, 4)], [⟨0, 16, .rok, 0x0, .any⟩, ⟨31, 1, .rok, 0x0, .any⟩]⟩,
  ⟨0x020128, [(0x100, 4)], [⟨0, 32, .rok, 0x0, .any⟩]⟩,
  ⟨0x02012C, [(0x100, 4)], [⟨0, 32, .rok, 0x0, .any⟩]⟩,
  ⟨0x020130, [(0x100, 4)], [⟨0, 32, .rc, 0x0, .any⟩]⟩,
  ⟨0x020134, [(0x100, 4)], [⟨0, 32, .rc, 0x0, .any⟩]⟩]

/-- The registers of TIM (R59). -/
def specTim : List RegSpec := specTim0 ++ specTim1 ++ specTim2

def specLnc0 : List RegSpec := [
  ⟨0x030000, [(0x4000, 4)], [⟨0, 2, .ro, 0x0, .any⟩, ⟨2, 1, .ro, 0x0, .any⟩, ⟨3, 1, .ro, 0x0, .any⟩, ⟨4, 1, .ro, 0x0, .any⟩]⟩,
  ⟨0x030004, [(0x4000, 4)], [⟨0, 1, .w1c, 0x0, .any⟩, ⟨1, 1, .w1c, 0x0, .any⟩, ⟨2, 1, .w1c, 0x0, .any⟩, ⟨3, 1, .w1c, 0x0, .any⟩, ⟨4, 1, .w1c, 0x0, .any⟩, ⟨5, 1, .w1c, 0x0, .any⟩, ⟨16, 16, .w1c, 0x0, .any⟩]⟩,
  ⟨0x030008, [(0x4000, 4)], [⟨0, 1, .w1c, 0x0, .any⟩, ⟨1, 1, .w1c, 0x0, .any⟩, ⟨2, 1, .w1c, 0x0, .any⟩, ⟨3, 1, .w1c, 0x0, .any⟩, ⟨4, 1, .w1c, 0x0, .any⟩, ⟨5, 1, .w1c, 0x0, .any⟩]⟩,
  ⟨0x03000C, [(0x4000, 4)], [⟨0, 6, .rw, 0x0, .any⟩]⟩,
  ⟨0x030010, [(0x4000, 4)], [⟨0, 4, .rok, 0x0, .any⟩]⟩,
  ⟨0x030014, [(0x4000, 4)], [⟨0, 20, .rw, 0x0, .range 0 1000000⟩]⟩,
  ⟨0x030018, [(0x4000, 4)], [⟨0, 32, .rc, 0x0, .any⟩]⟩,
  ⟨0x03001C, [(0x4000, 4)], [⟨0, 22, .ro, 0x0, .any⟩]⟩,
  ⟨0x030020, [(0x4000, 4)], [⟨0, 32, .ro, 0x0, .any⟩]⟩,
  ⟨0x030024, [(0x4000, 4)], [⟨0, 32, .ro, 0x0, .any⟩]⟩,
  ⟨0x030100, [(0x4000, 4), (0x10, 8)], [⟨0, 16, .rw, 0x0, .any⟩]⟩,
  ⟨0x030104, [(0x4000, 4), (0x10, 8)], [⟨0, 17, .rw, 0x14, .any⟩]⟩]

def specLnc1 : List RegSpec := [
  ⟨0x030108, [(0x4000, 4), (0x10, 8)], [⟨0, 2, .rw, 0x0, .any⟩, ⟨2, 1, .rw, 0x0, .any⟩, ⟨8, 8, .rw, 0x2, .any⟩, ⟨16, 13, .rw, 0x0, .any⟩]⟩,
  ⟨0x030200, [(0x4000, 4), (0x10, 4)], [⟨0, 3, .rw, 0x0, .any⟩, ⟨4, 3, .rw, 0x0, .any⟩, ⟨8, 1, .rw, 0x0, .any⟩]⟩,
  ⟨0x030204, [(0x4000, 4), (0x10, 4)], [⟨0, 20, .rw, 0x0, .any⟩]⟩,
  ⟨0x030300, [(0x4000, 4), (0x10, 4)], [⟨0, 2, .rw, 0x0, .any⟩, ⟨2, 1, .rw, 0x0, .any⟩, ⟨4, 4, .rw, 0xF, .any⟩]⟩,
  ⟨0x030304, [(0x4000, 4), (0x10, 4)], [⟨0, 32, .rw, 0x0, .any⟩]⟩,
  ⟨0x030308, [(0x4000, 4), (0x10, 4)], [⟨0, 17, .rw, 0x1, .any⟩]⟩,
  ⟨0x030340, [(0x4000, 4)], [⟨0, 1, .rw, 0x0, .any⟩, ⟨1, 2, .rw, 0x0, .any⟩, ⟨8, 8, .rw, 0x0, .any⟩]⟩,
  ⟨0x030400, [(0x4000, 4)], [⟨0, 12, .rwp, 0x800, .any⟩, ⟨16, 12, .rwp, 0x800, .any⟩]⟩,
  ⟨0x030404, [(0x4000, 4)], [⟨0, 11, .rwp, 0x0, .any⟩]⟩,
  ⟨0x030408, [(0x4000, 4)], [⟨0, 22, .rwp, 0x0, .range 0 2097152⟩]⟩,
  ⟨0x030410, [(0x4000, 4), (0x8, 4)], [⟨0, 21, .rwp, 0x0, .range 0 1048576⟩]⟩,
  ⟨0x030414, [(0x4000, 4), (0x8, 4)], [⟨0, 21, .rwp, 0x0, .range 0 1048576⟩]⟩]

def specLnc2 : List RegSpec := [
  ⟨0x030430, [(0x4000, 4)], [⟨0, 1, .rwp, 0x0, .any⟩]⟩]

/-- The registers of LNC (R93). -/
def specLnc : List RegSpec := specLnc0 ++ specLnc1 ++ specLnc2

def specAcq0 : List RegSpec := [
  ⟨0x040000, [], [⟨0, 1, .ro, 0x0, .any⟩, ⟨1, 3, .ro, 0x0, .any⟩, ⟨8, 8, .ro, 0x0, .any⟩]⟩,
  ⟨0x040004, [], [⟨0, 1, .w1c, 0x0, .any⟩, ⟨1, 1, .w1c, 0x0, .any⟩, ⟨2, 1, .w1c, 0x0, .any⟩, ⟨3, 1, .w1c, 0x0, .any⟩, ⟨4, 1, .w1c, 0x0, .any⟩, ⟨5, 1, .w1c, 0x0, .any⟩, ⟨6, 1, .w1c, 0x0, .any⟩, ⟨7, 1, .w1c, 0x0, .any⟩, ⟨8, 1, .w1c, 0x0, .any⟩]⟩,
  ⟨0x040008, [], [⟨0, 9, .rw, 0x0, .any⟩]⟩,
  ⟨0x04000C, [], [⟨0, 1, .rw, 0x1, .any⟩, ⟨1, 1, .rw, 0x1, .any⟩, ⟨2, 1, .rw, 0x0, .any⟩]⟩,
  ⟨0x040010, [], [⟨0, 3, .ro, 0x0, .any⟩, ⟨16, 16, .ro, 0x0, .any⟩]⟩,
  ⟨0x040014, [], [⟨0, 16, .ro, 0x0, .any⟩, ⟨16, 8, .ro, 0x0, .any⟩]⟩,
  ⟨0x040018, [], [⟨0, 2, .rw, 0x0, .any⟩, ⟨2, 1, .rw, 0x0, .any⟩, ⟨3, 2, .rw, 0x0, .any⟩, ⟨16, 16, .rw, 0x0, .any⟩]⟩,
  ⟨0x04001C, [], [⟨0, 20, .rw, 0x2710, .range 1 490000⟩]⟩,
  ⟨0x040020, [], [⟨0, 8, .rw, 0x8, .range 1 255⟩, ⟨8, 8, .rw, 0xA, .range 1 255⟩, ⟨16, 8, .rw, 0x5, .range 1 255⟩]⟩,
  ⟨0x040024, [], [⟨0, 21, .rw, 0x200, .range 0 1048575⟩]⟩,
  ⟨0x040100, [(0x10, 16)], [⟨0, 5, .rw, 0x0, .range 0 20⟩, ⟨5, 1, .rw, 0x0, .any⟩, ⟨8, 6, .rw, 0x0, .range 0 48⟩]⟩,
  ⟨0x040104, [(0x10, 16)], [⟨0, 1, .w1c, 0x0, .any⟩, ⟨1, 1, .ro, 0x0, .any⟩, ⟨2, 1, .w1c, 0x0, .any⟩, ⟨3, 1, .ro, 0x0, .any⟩, ⟨4, 1, .ro, 0x0, .any⟩]⟩]

def specAcq1 : List RegSpec := [
  ⟨0x040108, [(0x10, 16)], [⟨0, 32, .rc, 0x0, .any⟩]⟩,
  ⟨0x040200, [(0x10, 8)], [⟨0, 5, .rw, 0x0, .any⟩, ⟨5, 1, .rw, 0x0, .any⟩, ⟨8, 7, .rw, 0x0, .range 0 72⟩]⟩,
  ⟨0x040204, [(0x10, 8)], [⟨0, 1, .w1c, 0x0, .any⟩, ⟨1, 1, .ro, 0x0, .any⟩, ⟨2, 1, .w1c, 0x0, .any⟩, ⟨3, 1, .ro, 0x0, .any⟩, ⟨4, 1, .ro, 0x0, .any⟩]⟩,
  ⟨0x040208, [(0x10, 8)], [⟨0, 32, .rc, 0x0, .any⟩]⟩,
  ⟨0x040300, [(0x10, 4)], [⟨0, 21, .rw, 0x0, .range 0 1048575⟩]⟩,
  ⟨0x040304, [(0x10, 4)], [⟨0, 16, .rw, 0x0, .any⟩]⟩,
  ⟨0x041000, [(0x40, 16), (0x4, 4)], [⟨0, 16, .rws, 0x0, .srange (-16384) (16384)⟩, ⟨16, 16, .rws, 0x0, .srange (-13107) (13107)⟩]⟩,
  ⟨0x041010, [(0x40, 16), (0x4, 4)], [⟨0, 16, .rws, 0x0, .srange (-5000) (5000)⟩]⟩,
  ⟨0x041020, [(0x40, 16), (0x4, 4)], [⟨0, 8, .rws, 0x0, .srange (-64) (64)⟩, ⟨8, 8, .rws, 0x0, .srange (-64) (64)⟩, ⟨16, 8, .rws, 0x0, .srange (-64) (64)⟩, ⟨24, 8, .rws, 0x0, .srange (-64) (64)⟩]⟩,
  ⟨0x041030, [(0x40, 16), (0x4, 2)], [⟨0, 16, .rws, 0x0, .srange (-3277) (3277)⟩, ⟨16, 16, .rws, 0x0, .srange (-3277) (3277)⟩]⟩,
  ⟨0x04103C, [(0x40, 16)], [⟨0, 16, .rws, 0x0, .any⟩]⟩,
  ⟨0x041400, [(0x40, 8)], [⟨0, 16, .rws, 0x0, .srange (-16384) (16384)⟩, ⟨16, 16, .rws, 0x0, .srange (-13107) (13107)⟩]⟩]

def specAcq2 : List RegSpec := [
  ⟨0x041420, [(0x40, 8)], [⟨0, 8, .rws, 0x0, .srange (-64) (64)⟩, ⟨8, 8, .rws, 0x0, .srange (-64) (64)⟩, ⟨16, 8, .rws, 0x0, .srange (-64) (64)⟩, ⟨24, 8, .rws, 0x0, .srange (-64) (64)⟩]⟩,
  ⟨0x041430, [(0x40, 8), (0x4, 3)], [⟨0, 16, .rws, 0x0, .srange (-3277) (3277)⟩, ⟨16, 16, .rws, 0x0, .srange (-3277) (3277)⟩]⟩,
  ⟨0x04143C, [(0x40, 8)], [⟨0, 16, .rws, 0x0, .any⟩]⟩,
  ⟨0x041800, [(0x10, 8)], [⟨0, 20, .rws, 0x40000, .range 131072 524287⟩]⟩,
  ⟨0x041804, [(0x10, 8)], [⟨0, 20, .rws, 0x0, .srange (-65536) (65536)⟩]⟩]

/-- The registers of ACQ (R131). -/
def specAcq : List RegSpec := specAcq0 ++ specAcq1 ++ specAcq2

def specPhs0 : List RegSpec := [
  ⟨0x050000, [(0x4000, 4)], [⟨0, 2, .rw, 0x3, .range 1 3⟩, ⟨2, 2, .rw, 0x0, .range 0 2⟩, ⟨4, 1, .rw, 0x0, .any⟩, ⟨8, 4, .rw, 0x6, .any⟩]⟩,
  ⟨0x050004, [(0x4000, 4)], [⟨0, 12, .rw, 0x30, .range 2 2048⟩]⟩,
  ⟨0x050008, [(0x4000, 4)], [⟨0, 8, .rw, 0x4, .range 4 128⟩]⟩,
  ⟨0x05000C, [(0x4000, 4)], [⟨0, 21, .rw, 0x30, .range 48 1048575⟩]⟩,
  ⟨0x050010, [(0x4000, 4)], [⟨0, 19, .rw, 0x4000, .range 1 262144⟩]⟩,
  ⟨0x050014, [(0x4000, 4)], [⟨0, 4, .rw, 0x8, .any⟩, ⟨8, 5, .rw, 0x10, .any⟩]⟩,
  ⟨0x050018, [(0x4000, 4)], [⟨0, 9, .rw, 0x0, .any⟩, ⟨16, 4, .rw, 0x4, .any⟩]⟩,
  ⟨0x05001C, [(0x4000, 4)], [⟨0, 1, .rw, 0x0, .any⟩, ⟨8, 7, .rw, 0x0, .range 0 64⟩]⟩,
  ⟨0x050040, [(0x4000, 4), (0x4, 8)], [⟨0, 8, .rw, 0xFF, .any⟩]⟩,
  ⟨0x050080, [(0x4000, 4), (0x4, 8)], [⟨0, 1, .rw, 0x0, .any⟩, ⟨1, 1, .ro, 0x0, .any⟩, ⟨16, 13, .rw, 0x1, .range 1 4096⟩]⟩,
  ⟨0x050100, [(0x4000, 4)], [⟨0, 1, .ro, 0x0, .any⟩, ⟨1, 1, .ro, 0x0, .any⟩, ⟨2, 4, .ro, 0x0, .any⟩, ⟨8, 4, .ro, 0x0, .any⟩]⟩,
  ⟨0x050104, [(0x4000, 4)], [⟨0, 1, .w1c, 0x0, .any⟩, ⟨1, 1, .w1c, 0x0, .any⟩, ⟨2, 1, .w1c, 0x0, .any⟩, ⟨3, 1, .w1c, 0x0, .any⟩, ⟨4, 1, .w1c, 0x0, .any⟩, ⟨5, 1, .w1c, 0x0, .any⟩, ⟨6, 1, .w1c, 0x0, .any⟩, ⟨7, 1, .w1c, 0x0, .any⟩]⟩]

def specPhs1 : List RegSpec := [
  ⟨0x050108, [(0x4000, 4)], [⟨0, 8, .rw, 0x0, .any⟩]⟩,
  ⟨0x05010C, [(0x4000, 4)], [⟨0, 32, .ro, 0x0, .any⟩]⟩,
  ⟨0x050110, [(0x4000, 4)], [⟨0, 19, .ro, 0x0, .any⟩]⟩,
  ⟨0x050114, [(0x4000, 4)], [⟨0, 32, .rc, 0x0, .any⟩]⟩,
  ⟨0x050118, [(0x4000, 4)], [⟨0, 32, .rc, 0x0, .any⟩]⟩,
  ⟨0x050120, [(0x4000, 4)], [⟨0, 32, .ro, 0x0, .any⟩]⟩,
  ⟨0x050124, [(0x4000, 4)], [⟨0, 16, .ro, 0x0, .any⟩]⟩]

/-- The registers of PHS (R173). -/
def specPhs : List RegSpec := specPhs0 ++ specPhs1

def specAcf0 : List RegSpec := [
  ⟨0x060000, [(0x4000, 4)], [⟨0, 1, .rw, 0x0, .any⟩, ⟨8, 7, .rw, 0x1, .range 1 64⟩, ⟨16, 6, .rw, 0x0, .any⟩, ⟨24, 1, .rw, 0x1, .any⟩]⟩,
  ⟨0x060004, [(0x4000, 4)], [⟨0, 10, .rw, 0x0, .range 0 1000⟩, ⟨16, 1, .rw, 0x0, .any⟩]⟩,
  ⟨0x060008, [(0x4000, 4)], [⟨0, 32, .ro, 0x0, .any⟩]⟩,
  ⟨0x06000C, [(0x4000, 4)], [⟨0, 1, .wo, 0x0, .any⟩]⟩,
  ⟨0x060010, [(0x4000, 4)], [⟨0, 9, .rw, 0x1, .range 1 256⟩, ⟨12, 1, .rw, 0x0, .any⟩, ⟨16, 9, .rw, 0x0, .range 0 510⟩, ⟨28, 4, .rw, 0x8, .range 4 12⟩]⟩,
  ⟨0x060100, [(0x4000, 4)], [⟨0, 1, .ro, 0x0, .any⟩, ⟨1, 1, .ro, 0x0, .any⟩, ⟨2, 1, .ro, 0x0, .any⟩, ⟨3, 1, .ro, 0x0, .any⟩, ⟨4, 1, .ro, 0x0, .any⟩, ⟨16, 12, .ro, 0x0, .any⟩]⟩,
  ⟨0x060104, [(0x4000, 4)], [⟨0, 1, .w1c, 0x0, .any⟩, ⟨1, 1, .w1c, 0x0, .any⟩, ⟨2, 1, .w1c, 0x0, .any⟩, ⟨3, 1, .w1c, 0x0, .any⟩, ⟨4, 1, .w1c, 0x0, .any⟩, ⟨5, 1, .w1c, 0x0, .any⟩, ⟨6, 1, .w1c, 0x0, .any⟩, ⟨7, 1, .w1c, 0x0, .any⟩]⟩,
  ⟨0x060108, [(0x4000, 4)], [⟨0, 8, .rw, 0x0, .any⟩]⟩,
  ⟨0x06010C, [(0x4000, 4)], [⟨0, 32, .rc, 0x0, .any⟩]⟩,
  ⟨0x060110, [(0x4000, 4)], [⟨0, 32, .rc, 0x0, .any⟩]⟩,
  ⟨0x060114, [(0x4000, 4)], [⟨0, 16, .ro, 0x0, .any⟩]⟩,
  ⟨0x060118, [(0x4000, 4)], [⟨0, 32, .ro, 0x0, .any⟩]⟩]

def specAcf1 : List RegSpec := [
  ⟨0x06011C, [(0x4000, 4)], [⟨0, 32, .ro, 0x0, .any⟩]⟩,
  ⟨0x060120, [(0x4000, 4)], [⟨0, 32, .ro, 0x0, .any⟩]⟩,
  ⟨0x060124, [(0x4000, 4)], [⟨0, 16, .ro, 0x0, .any⟩]⟩]

/-- The registers of ACF (R203). -/
def specAcf : List RegSpec := specAcf0 ++ specAcf1

def specDts0 : List RegSpec := [
  ⟨0x070000, [(0x100, 4)], [⟨0, 1, .rw, 0x0, .any⟩, ⟨1, 1, .rw, 0x0, .any⟩, ⟨2, 1, .rw, 0x0, .any⟩, ⟨8, 5, .rw, 0x10, .range 10 20⟩]⟩,
  ⟨0x070004, [(0x100, 4)], [⟨0, 20, .rw, 0x0, .range 0 1048568⟩]⟩,
  ⟨0x070008, [(0x100, 4)], [⟨0, 18, .rw, 0x2000, .range 1 131072⟩]⟩,
  ⟨0x07000C, [(0x100, 4)], [⟨0, 17, .rw, 0x0, .any⟩, ⟨24, 8, .rw, 0x1, .range 1 255⟩]⟩,
  ⟨0x070010, [(0x100, 4)], [⟨0, 20, .rw, 0x9A8EE, .range 100000 1000000⟩]⟩,
  ⟨0x070014, [(0x100, 4)], [⟨0, 6, .rw, 0x0, .any⟩, ⟨16, 16, .rw, 0x2710, .range 1 65535⟩]⟩,
  ⟨0x070018, [(0x100, 4)], [⟨0, 32, .rw, 0x0, .any⟩]⟩,
  ⟨0x07001C, [(0x100, 4)], [⟨0, 32, .rw, 0x0, .any⟩]⟩,
  ⟨0x070020, [(0x100, 4)], [⟨0, 32, .rw, 0x0, .any⟩]⟩,
  ⟨0x070024, [(0x100, 4)], [⟨0, 18, .rw, 0x0, .range 100 200000⟩]⟩,
  ⟨0x070040, [(0x100, 4)], [⟨0, 1, .ro, 0x0, .any⟩, ⟨1, 1, .ro, 0x0, .any⟩, ⟨2, 1, .ro, 0x0, .any⟩, ⟨4, 21, .ro, 0x0, .any⟩]⟩,
  ⟨0x070044, [(0x100, 4)], [⟨0, 1, .w1c, 0x0, .any⟩, ⟨1, 1, .w1c, 0x0, .any⟩, ⟨2, 1, .w1c, 0x0, .any⟩, ⟨3, 1, .w1c, 0x0, .any⟩, ⟨4, 1, .w1c, 0x0, .any⟩, ⟨5, 1, .w1c, 0x0, .any⟩]⟩]

def specDts1 : List RegSpec := [
  ⟨0x070048, [(0x100, 4)], [⟨0, 6, .rw, 0x0, .any⟩]⟩,
  ⟨0x07004C, [(0x100, 4)], [⟨0, 18, .ro, 0x0, .any⟩]⟩,
  ⟨0x070050, [(0x100, 4)], [⟨0, 32, .rok, 0x0, .any⟩]⟩,
  ⟨0x070054, [(0x100, 4)], [⟨0, 32, .rc, 0x0, .any⟩]⟩,
  ⟨0x070058, [(0x100, 4)], [⟨0, 32, .ro, 0x0, .any⟩]⟩,
  ⟨0x07005C, [(0x100, 4)], [⟨0, 16, .ro, 0x0, .any⟩]⟩]

/-- The registers of DTS (R233). -/
def specDts : List RegSpec := specDts0 ++ specDts1

def specEvt0 : List RegSpec := [
  ⟨0x080000, [(0x4000, 4)], [⟨0, 1, .rw, 0x0, .any⟩, ⟨1, 1, .rw, 0x0, .any⟩, ⟨2, 1, .rw, 0x0, .any⟩, ⟨3, 1, .rw, 0x0, .any⟩, ⟨8, 4, .rw, 0x1, .range 1 8⟩, ⟨12, 4, .rw, 0x8, .range 4 12⟩, ⟨16, 7, .rw, 0x10, .range 1 64⟩, ⟨24, 4, .rw, 0x6, .range 1 15⟩]⟩,
  ⟨0x080004, [(0x4000, 4)], [⟨0, 8, .rw, 0x1, .range 1 255⟩, ⟨8, 8, .rw, 0x8, .range 1 255⟩, ⟨16, 13, .rw, 0x1000, .range 1 4096⟩]⟩,
  ⟨0x080008, [(0x4000, 4)], [⟨0, 12, .rw, 0xC8, .range 1 4095⟩, ⟨16, 8, .rw, 0x80, .range 1 255⟩, ⟨24, 8, .rw, 0x20, .any⟩]⟩,
  ⟨0x08000C, [(0x4000, 4)], [⟨0, 4, .rw, 0x3, .range 1 15⟩, ⟨4, 4, .rw, 0x4, .any⟩, ⟨8, 8, .rw, 0x20, .range 1 255⟩, ⟨16, 8, .rw, 0x10, .range 1 255⟩, ⟨24, 4, .rw, 0x1, .any⟩]⟩,
  ⟨0x080010, [(0x4000, 4)], [⟨0, 1, .rw, 0x0, .any⟩, ⟨1, 1, .rw, 0x0, .any⟩]⟩,
  ⟨0x080014, [(0x4000, 4)], [⟨0, 32, .rw, 0x0, .any⟩]⟩,
  ⟨0x080018, [(0x4000, 4)], [⟨0, 13, .rw, 0x0, .range 0 4096⟩]⟩,
  ⟨0x080100, [(0x4000, 4)], [⟨0, 7, .ro, 0x0, .any⟩, ⟨7, 1, .ro, 0x0, .any⟩, ⟨8, 18, .ro, 0x0, .any⟩]⟩,
  ⟨0x080104, [(0x4000, 4)], [⟨0, 1, .w1c, 0x0, .any⟩, ⟨1, 1, .w1c, 0x0, .any⟩, ⟨2, 1, .w1c, 0x0, .any⟩, ⟨3, 1, .w1c, 0x0, .any⟩, ⟨4, 1, .w1c, 0x0, .any⟩, ⟨5, 1, .w1c, 0x0, .any⟩, ⟨6, 1, .w1c, 0x0, .any⟩, ⟨7, 1, .w1c, 0x0, .any⟩]⟩,
  ⟨0x080108, [(0x4000, 4)], [⟨0, 8, .rw, 0x0, .any⟩]⟩,
  ⟨0x08010C, [(0x4000, 4)], [⟨0, 12, .rc, 0x0, .any⟩, ⟨12, 12, .rc, 0x0, .any⟩, ⟨24, 8, .rc, 0x0, .any⟩]⟩,
  ⟨0x080110, [(0x4000, 4)], [⟨0, 32, .ro, 0x1, .any⟩]⟩]

def specEvt1 : List RegSpec := [
  ⟨0x080200, [(0x4000, 4), (0x20, 8)], [⟨0, 18, .rw, 0x10000, .any⟩]⟩,
  ⟨0x080204, [(0x4000, 4), (0x20, 8), (0x4, 4)], [⟨0, 18, .rw, 0x0, .any⟩]⟩,
  ⟨0x080400, [(0x4000, 4), (0x20, 16)], [⟨0, 1, .rw, 0x0, .any⟩, ⟨1, 1, .rw, 0x0, .any⟩, ⟨2, 1, .rw, 0x0, .any⟩, ⟨3, 1, .rw, 0x0, .any⟩, ⟨4, 3, .rw, 0x0, .any⟩, ⟨8, 4, .rw, 0x0, .any⟩, ⟨12, 4, .rw, 0x0, .any⟩, ⟨16, 4, .rw, 0x0, .any⟩, ⟨20, 4, .rw, 0x0, .any⟩]⟩,
  ⟨0x080404, [(0x4000, 4), (0x20, 16)], [⟨0, 21, .rw, 0x0, .range 0 1048575⟩]⟩,
  ⟨0x080408, [(0x4000, 4), (0x20, 16)], [⟨0, 21, .rw, 0x100000, .range 1 1048576⟩]⟩,
  ⟨0x08040C, [(0x4000, 4), (0x20, 16)], [⟨0, 32, .rw, 0xFFFFFFFF, .any⟩]⟩,
  ⟨0x080410, [(0x4000, 4), (0x20, 16)], [⟨0, 17, .rw, 0x0, .range 0 86400⟩]⟩,
  ⟨0x080414, [(0x4000, 4), (0x20, 16)], [⟨0, 17, .rw, 0x0, .any⟩]⟩,
  ⟨0x080418, [(0x4000, 4), (0x20, 16)], [⟨0, 17, .rw, 0x0, .any⟩]⟩]

/-- The registers of EVT (R277). -/
def specEvt : List RegSpec := specEvt0 ++ specEvt1

def specTrk0 : List RegSpec := [
  ⟨0x090000, [(0x40, 2)], [⟨0, 1, .rw, 0x0, .any⟩, ⟨1, 1, .rw, 0x0, .any⟩, ⟨2, 1, .rw, 0x0, .any⟩, ⟨3, 1, .rw, 0x0, .any⟩, ⟨4, 1, .rw, 0x0, .any⟩, ⟨5, 1, .rw, 0x0, .any⟩, ⟨8, 4, .rw, 0x2, .range 0 8⟩]⟩,
  ⟨0x090004, [(0x40, 2)], [⟨0, 14, .rw, 0x32, .range 10 10000⟩, ⟨16, 16, .rw, 0x3E8, .range 1 65535⟩]⟩,
  ⟨0x090008, [(0x40, 2)], [⟨0, 3, .rok, 0x0, .any⟩, ⟨3, 1, .ro, 0x0, .any⟩, ⟨4, 1, .ro, 0x0, .any⟩, ⟨5, 1, .ro, 0x0, .any⟩, ⟨8, 1, .w1c, 0x0, .any⟩, ⟨9, 1, .w1c, 0x0, .any⟩, ⟨10, 1, .w1c, 0x0, .any⟩, ⟨11, 1, .w1c, 0x0, .any⟩]⟩,
  ⟨0x09000C, [(0x40, 2)], [⟨0, 32, .ro, 0x0, .any⟩]⟩,
  ⟨0x090010, [(0x40, 2)], [⟨0, 1, .ro, 0x0, .any⟩, ⟨1, 1, .ro, 0x0, .any⟩, ⟨2, 1, .ro, 0x0, .any⟩]⟩,
  ⟨0x090014, [(0x40, 2)], [⟨0, 32, .wo, 0x0, .any⟩]⟩,
  ⟨0x090018, [(0x40, 2)], [⟨0, 32, .ro, 0x0, .any⟩]⟩,
  ⟨0x09001C, [(0x40, 2)], [⟨0, 32, .rw, 0x0, .any⟩]⟩,
  ⟨0x090020, [(0x40, 2)], [⟨0, 16, .rw, 0x4, .any⟩]⟩,
  ⟨0x090024, [(0x40, 2)], [⟨0, 32, .rw, 0x0, .any⟩]⟩,
  ⟨0x090028, [(0x40, 2)], [⟨0, 32, .ro, 0x0, .any⟩]⟩,
  ⟨0x09002C, [(0x40, 2)], [⟨0, 32, .ro, 0x0, .any⟩]⟩]

def specTrk1 : List RegSpec := [
  ⟨0x090030, [(0x40, 2)], [⟨0, 16, .rw, 0x1, .range 1 65535⟩]⟩,
  ⟨0x090034, [(0x40, 2)], [⟨0, 32, .rw, 0x0, .any⟩]⟩,
  ⟨0x090038, [(0x40, 2)], [⟨0, 16, .rc, 0x0, .any⟩, ⟨16, 16, .rc, 0x0, .any⟩]⟩,
  ⟨0x090100, [(0x10, 8)], [⟨0, 1, .rw, 0x0, .any⟩, ⟨1, 2, .rw, 0x0, .range 0 2⟩, ⟨3, 1, .rw, 0x0, .any⟩, ⟨4, 1, .rw, 0x0, .any⟩, ⟨5, 1, .rw, 0x0, .any⟩, ⟨16, 16, .rw, 0x64, .range 10 65535⟩]⟩,
  ⟨0x090104, [(0x10, 8)], [⟨0, 32, .rw, 0x0, .any⟩]⟩,
  ⟨0x090108, [(0x10, 8)], [⟨0, 32, .rw, 0x0, .any⟩]⟩,
  ⟨0x09010C, [(0x10, 8)], [⟨0, 32, .ro, 0x0, .any⟩]⟩,
  ⟨0x090180, [], [⟨0, 8, .w1c, 0x0, .any⟩, ⟨8, 8, .w1c, 0x0, .any⟩]⟩,
  ⟨0x090200, [], [⟨0, 8, .rw, 0x0, .any⟩, ⟨8, 8, .rw, 0x0, .any⟩, ⟨16, 8, .rw, 0x0, .any⟩]⟩,
  ⟨0x090204, [], [⟨0, 16, .rw, 0x0, .any⟩]⟩,
  ⟨0x090208, [], [⟨0, 3, .rc, 0x0, .any⟩, ⟨3, 1, .rc, 0x0, .any⟩, ⟨31, 1, .rc, 0x0, .any⟩]⟩,
  ⟨0x09020C, [], [⟨0, 32, .ro, 0x0, .any⟩]⟩]

def specTrk2 : List RegSpec := [
  ⟨0x090210, [], [⟨0, 32, .ro, 0x0, .any⟩]⟩,
  ⟨0x090300, [(0x20, 2)], [⟨0, 1, .rw, 0x0, .any⟩, ⟨1, 1, .rw, 0x0, .any⟩, ⟨8, 6, .rw, 0x19, .range 13 32⟩, ⟨16, 11, .rw, 0x1F4, .range 100 2000⟩]⟩,
  ⟨0x090304, [(0x20, 2)], [⟨0, 20, .rw, 0x3E8, .range 20 1000000⟩, ⟨24, 8, .rw, 0x14, .range 1 255⟩]⟩,
  ⟨0x090308, [(0x20, 2)], [⟨0, 32, .ro, 0x0, .any⟩]⟩,
  ⟨0x09030C, [(0x20, 2)], [⟨0, 32, .ro, 0x0, .any⟩]⟩,
  ⟨0x090310, [(0x20, 2)], [⟨0, 32, .ro, 0x0, .any⟩]⟩,
  ⟨0x090314, [(0x20, 2)], [⟨0, 1, .ro, 0x0, .any⟩, ⟨1, 1, .w1c, 0x0, .any⟩, ⟨2, 1, .w1c, 0x0, .any⟩, ⟨3, 1, .w1c, 0x0, .any⟩]⟩,
  ⟨0x090400, [(0x20, 4)], [⟨0, 2, .rw, 0x0, .any⟩, ⟨2, 1, .rw, 0x0, .any⟩, ⟨4, 2, .rw, 0x0, .any⟩, ⟨6, 1, .rw, 0x0, .any⟩, ⟨8, 3, .rw, 0x0, .any⟩, ⟨12, 3, .rw, 0x0, .any⟩, ⟨16, 3, .rw, 0x0, .any⟩]⟩,
  ⟨0x090404, [(0x20, 4)], [⟨0, 32, .rw, 0x0, .any⟩]⟩,
  ⟨0x090408, [(0x20, 4)], [⟨0, 16, .rw, 0x64, .range 1 65535⟩, ⟨16, 16, .rw, 0x3E8, .range 50 65535⟩]⟩,
  ⟨0x09040C, [(0x20, 4)], [⟨0, 32, .rw, 0x0, .any⟩]⟩,
  ⟨0x090410, [(0x20, 4)], [⟨0, 32, .ro, 0x0, .any⟩]⟩]

def specTrk3 : List RegSpec := [
  ⟨0x090414, [(0x20, 4)], [⟨0, 1, .ro, 0x0, .any⟩, ⟨1, 1, .ro, 0x0, .any⟩, ⟨2, 1, .w1c, 0x0, .any⟩, ⟨3, 1, .w1c, 0x0, .any⟩]⟩,
  ⟨0x090500, [], [⟨0, 1, .w1c, 0x0, .any⟩, ⟨1, 1, .w1c, 0x0, .any⟩, ⟨2, 1, .w1c, 0x0, .any⟩, ⟨3, 1, .w1c, 0x0, .any⟩, ⟨4, 1, .w1c, 0x0, .any⟩, ⟨5, 1, .w1c, 0x0, .any⟩, ⟨6, 1, .w1c, 0x0, .any⟩, ⟨7, 1, .w1c, 0x0, .any⟩, ⟨8, 1, .w1c, 0x0, .any⟩, ⟨9, 1, .w1c, 0x0, .any⟩, ⟨10, 1, .w1c, 0x0, .any⟩, ⟨11, 1, .w1c, 0x0, .any⟩]⟩,
  ⟨0x090504, [], [⟨0, 12, .rw, 0x0, .any⟩]⟩]

/-- The registers of TRK (R279). -/
def specTrk : List RegSpec := specTrk0 ++ specTrk1 ++ specTrk2 ++ specTrk3

def specSch0 : List RegSpec := [
  ⟨0x0A0000, [], [⟨0, 1, .ro, 0x0, .any⟩, ⟨1, 3, .ro, 0x0, .any⟩, ⟨4, 4, .ro, 0x0, .any⟩, ⟨8, 4, .ro, 0x0, .any⟩, ⟨12, 4, .ro, 0x0, .any⟩]⟩,
  ⟨0x0A0004, [], [⟨0, 1, .w1c, 0x0, .any⟩, ⟨1, 1, .w1c, 0x0, .any⟩, ⟨2, 1, .w1c, 0x0, .any⟩, ⟨3, 1, .w1c, 0x0, .any⟩, ⟨4, 1, .w1c, 0x0, .any⟩, ⟨5, 1, .w1c, 0x0, .any⟩, ⟨6, 1, .w1c, 0x0, .any⟩, ⟨7, 1, .w1c, 0x0, .any⟩, ⟨8, 1, .w1c, 0x0, .any⟩, ⟨9, 1, .w1c, 0x0, .any⟩, ⟨10, 1, .w1c, 0x0, .any⟩]⟩,
  ⟨0x0A0008, [], [⟨0, 11, .rw, 0x0, .any⟩]⟩,
  ⟨0x0A000C, [], [⟨0, 32, .rok, 0x0, .any⟩]⟩,
  ⟨0x0A0010, [], [⟨0, 4, .ro, 0x0, .any⟩, ⟨4, 2, .ro, 0x0, .any⟩]⟩,
  ⟨0x0A0014, [], [⟨0, 4, .ro, 0x0, .any⟩]⟩,
  ⟨0x0A0018, [], [⟨0, 32, .ro, 0x0, .any⟩]⟩,
  ⟨0x0A0100, [(0x40, 4)], [⟨0, 32, .rok, 0x0, .any⟩]⟩,
  ⟨0x0A0104, [(0x40, 4)], [⟨0, 4, .rok, 0x0, .any⟩, ⟨4, 2, .rok, 0x0, .any⟩, ⟨31, 1, .rok, 0x0, .any⟩]⟩,
  ⟨0x0A0108, [(0x40, 4), (0x4, 3)], [⟨0, 32, .rok, 0x0, .any⟩]⟩,
  ⟨0x0A0114, [(0x40, 4), (0x4, 2)], [⟨0, 32, .rok, 0x0, .any⟩]⟩,
  ⟨0x0A0200, [(0x40, 4)], [⟨0, 2, .rok, 0x0, .any⟩, ⟨7, 4, .rok, 0x0, .any⟩, ⟨31, 1, .rok, 0x0, .any⟩]⟩]

def specSch1 : List RegSpec := [
  ⟨0x0A0204, [(0x40, 4)], [⟨0, 16, .rok, 0x0, .any⟩]⟩,
  ⟨0x0A0208, [(0x40, 4)], [⟨0, 32, .rok, 0x0, .any⟩]⟩,
  ⟨0x0A020C, [(0x40, 4)], [⟨0, 32, .rok, 0x0, .any⟩]⟩,
  ⟨0x0A0210, [(0x40, 4)], [⟨0, 32, .rok, 0x0, .any⟩]⟩,
  ⟨0x0A0214, [(0x40, 4)], [⟨0, 32, .rok, 0x0, .any⟩]⟩,
  ⟨0x0A0218, [(0x40, 4)], [⟨0, 20, .rw, 0xC350, .range 1000 1000000⟩]⟩,
  ⟨0x0A0220, [(0x40, 4)], [⟨0, 32, .ro, 0x0, .any⟩]⟩,
  ⟨0x0A0224, [(0x40, 4)], [⟨0, 32, .rc, 0x0, .any⟩]⟩,
  ⟨0x0A0228, [(0x40, 4)], [⟨0, 32, .rc, 0x0, .any⟩]⟩,
  ⟨0x0A022C, [(0x40, 4)], [⟨0, 16, .rc, 0x0, .any⟩]⟩,
  ⟨0x0A0300, [(0x20, 8)], [⟨0, 2, .ro, 0x0, .any⟩, ⟨2, 1, .ro, 0x0, .any⟩, ⟨3, 2, .ro, 0x0, .any⟩, ⟨8, 4, .ro, 0x0, .any⟩, ⟨16, 7, .ro, 0x0, .any⟩]⟩,
  ⟨0x0A0304, [(0x20, 8)], [⟨0, 32, .ro, 0x0, .any⟩]⟩]

def specSch2 : List RegSpec := [
  ⟨0x0A0308, [(0x20, 8)], [⟨0, 32, .ro, 0x0, .any⟩]⟩,
  ⟨0x0A030C, [(0x20, 8)], [⟨0, 32, .ro, 0x0, .any⟩]⟩,
  ⟨0x0A0310, [(0x20, 8)], [⟨0, 32, .ro, 0x0, .any⟩]⟩,
  ⟨0x0A0314, [(0x20, 8)], [⟨0, 32, .ro, 0x0, .any⟩]⟩]

/-- The registers of SCH (R313). -/
def specSch : List RegSpec := specSch0 ++ specSch1 ++ specSch2

def specHif0 : List RegSpec := [
  ⟨0x0B0000, [], [⟨0, 1, .rok, 0x0, .any⟩, ⟨1, 3, .rok, 0x0, .any⟩, ⟨4, 3, .rok, 0x0, .any⟩, ⟨7, 2, .rok, 0x1, .any⟩, ⟨9, 1, .rok, 0x0, .any⟩, ⟨10, 1, .rok, 0x0, .any⟩, ⟨11, 1, .rok, 0x1, .any⟩]⟩,
  ⟨0x0B0004, [], [⟨0, 1, .w1c, 0x0, .any⟩, ⟨1, 1, .w1c, 0x0, .any⟩, ⟨2, 1, .w1c, 0x0, .any⟩, ⟨3, 1, .w1c, 0x0, .any⟩, ⟨4, 1, .w1c, 0x0, .any⟩, ⟨5, 1, .w1c, 0x0, .any⟩, ⟨6, 1, .w1c, 0x0, .any⟩, ⟨7, 1, .w1c, 0x0, .any⟩, ⟨8, 1, .w1c, 0x0, .any⟩, ⟨9, 1, .w1c, 0x0, .any⟩]⟩,
  ⟨0x0B0008, [], [⟨0, 10, .rw, 0x0, .any⟩]⟩,
  ⟨0x0B000C, [], [⟨0, 1, .rws, 0x1, .any⟩, ⟨8, 8, .rws, 0x0, .any⟩, ⟨16, 3, .rws, 0x5, .range 1 5⟩]⟩,
  ⟨0x0B0010, [], [⟨0, 32, .rws, 0x0, .any⟩]⟩,
  ⟨0x0B0014, [], [⟨0, 32, .rws, 0x0, .any⟩]⟩,
  ⟨0x0B0018, [], [⟨0, 16, .rws, 0x0, .range 0 16384⟩, ⟨16, 16, .rws, 0x0, .any⟩]⟩,
  ⟨0x0B001C, [], [⟨0, 32, .ro, 0x0, .any⟩]⟩,
  ⟨0x0B0020, [], [⟨0, 32, .rc, 0x0, .any⟩]⟩,
  ⟨0x0B0024, [], [⟨0, 32, .rok, 0x0, .any⟩]⟩,
  ⟨0x0B0028, [], [⟨0, 10, .ro, 0x0, .any⟩]⟩,
  ⟨0x0B0030, [], [⟨0, 32, .ro, 0x0, .any⟩]⟩]

def specHif1 : List RegSpec := [
  ⟨0x0B0034, [], [⟨0, 32, .ro, 0x0, .any⟩]⟩,
  ⟨0x0B0038, [], [⟨0, 32, .ro, 0x0, .any⟩]⟩,
  ⟨0x0B003C, [], [⟨0, 32, .ro, 0x0, .any⟩]⟩,
  ⟨0x0B0080, [(0x4, 18)], [⟨0, 6, .rw, 0x0, .any⟩]⟩,
  ⟨0x0B0100, [(0x4, 18)], [⟨0, 5, .rws, 0x0, .any⟩, ⟨5, 1, .rws, 0x0, .any⟩, ⟨6, 1, .rws, 0x0, .any⟩]⟩,
  ⟨0x0B1000, [(0x40, 16)], [⟨0, 32, .rw, 0x0, .any⟩]⟩,
  ⟨0x0B1004, [(0x40, 16)], [⟨0, 32, .rw, 0x0, .any⟩]⟩,
  ⟨0x0B1008, [(0x40, 16)], [⟨0, 1, .rw, 0x0, .any⟩, ⟨1, 1, .wo, 0x0, .any⟩, ⟨4, 4, .rw, 0x4, .range 4 12⟩, ⟨8, 4, .rw, 0x0, .any⟩, ⟨12, 3, .ro, 0x0, .any⟩]⟩,
  ⟨0x0B100C, [(0x40, 16)], [⟨0, 16, .ro, 0x0, .any⟩]⟩,
  ⟨0x0B1010, [(0x40, 16)], [⟨0, 16, .ro, 0x0, .any⟩]⟩,
  ⟨0x0B1014, [(0x40, 16)], [⟨0, 16, .rc, 0x0, .any⟩]⟩,
  ⟨0x0B1018, [(0x40, 16)], [⟨0, 16, .rc, 0x0, .any⟩]⟩]

def specHif2 : List RegSpec := [
  ⟨0x0B1400, [(0x40, 16)], [⟨0, 32, .rw, 0x0, .any⟩]⟩,
  ⟨0x0B1404, [(0x40, 16)], [⟨0, 32, .rw, 0x0, .any⟩]⟩,
  ⟨0x0B1408, [(0x40, 16)], [⟨0, 1, .rw, 0x0, .any⟩, ⟨4, 4, .rw, 0x4, .range 4 12⟩, ⟨8, 6, .rw, 0x0, .any⟩, ⟨16, 3, .ro, 0x0, .any⟩, ⟨24, 8, .rw, 0x0, .any⟩]⟩,
  ⟨0x0B140C, [(0x40, 16)], [⟨0, 16, .rw, 0x0, .any⟩]⟩,
  ⟨0x0B1410, [(0x40, 16)], [⟨0, 16, .ro, 0x0, .any⟩]⟩,
  ⟨0x0B1414, [(0x40, 16)], [⟨0, 16, .ro, 0x0, .any⟩]⟩,
  ⟨0x0B1418, [(0x40, 16)], [⟨0, 10, .ro, 0x0, .any⟩]⟩,
  ⟨0x0B2000, [(0x40, 32)], [⟨0, 32, .rw, 0x0, .any⟩]⟩,
  ⟨0x0B2004, [(0x40, 32)], [⟨0, 32, .rw, 0x0, .any⟩]⟩,
  ⟨0x0B2008, [(0x40, 32)], [⟨0, 1, .rw, 0x0, .any⟩, ⟨1, 1, .rw, 0x0, .any⟩, ⟨4, 4, .rw, 0x4, .range 4 12⟩, ⟨8, 6, .rw, 0x0, .any⟩, ⟨16, 3, .ro, 0x0, .any⟩]⟩,
  ⟨0x0B200C, [(0x40, 32)], [⟨0, 20, .rw, 0x3E8, .range 0 1000000⟩]⟩,
  ⟨0x0B2010, [(0x40, 32)], [⟨0, 16, .ro, 0x0, .any⟩]⟩]

def specHif3 : List RegSpec := [
  ⟨0x0B2014, [(0x40, 32)], [⟨0, 16, .ro, 0x0, .any⟩]⟩,
  ⟨0x0B2018, [(0x40, 32)], [⟨0, 16, .rc, 0x0, .any⟩]⟩]

/-- The registers of HIF (R360). -/
def specHif : List RegSpec := specHif0 ++ specHif1 ++ specHif2 ++ specHif3

def specPmc0 : List RegSpec := [
  ⟨0x0C0000, [], [⟨0, 1, .rws, 0x0, .any⟩, ⟨1, 1, .rws, 0x0, .any⟩]⟩,
  ⟨0x0C0004, [], [⟨0, 7, .rws, 0x1, .range 1 64⟩, ⟨8, 2, .rws, 0x0, .any⟩, ⟨10, 5, .rws, 0x0, .range 0 30⟩, ⟨16, 1, .wo, 0x0, .any⟩, ⟨17, 1, .wo, 0x0, .any⟩]⟩,
  ⟨0x0C0008, [], [⟨0, 32, .rws, 0xF4240, .range 100 3600000000⟩]⟩,
  ⟨0x0C000C, [], [⟨0, 32, .rws, 0x0, .any⟩]⟩,
  ⟨0x0C0010, [], [⟨0, 1, .rok, 0x0, .any⟩, ⟨1, 1, .rok, 0x0, .any⟩, ⟨2, 1, .rok, 0x0, .any⟩, ⟨3, 4, .rok, 0x0, .any⟩, ⟨7, 1, .rok, 0x0, .any⟩, ⟨8, 6, .rok, 0x0, .any⟩, ⟨14, 2, .rok, 0x0, .any⟩, ⟨16, 1, .rok, 0x0, .any⟩, ⟨17, 1, .rok, 0x0, .any⟩]⟩,
  ⟨0x0C0014, [], [⟨0, 1, .w1c, 0x0, .any⟩, ⟨1, 1, .w1c, 0x0, .any⟩, ⟨2, 1, .w1c, 0x0, .any⟩, ⟨3, 1, .w1c, 0x0, .any⟩, ⟨4, 1, .w1c, 0x0, .any⟩, ⟨5, 1, .w1c, 0x0, .any⟩, ⟨6, 1, .w1c, 0x0, .any⟩, ⟨7, 1, .w1c, 0x0, .any⟩, ⟨8, 1, .w1c, 0x0, .any⟩, ⟨9, 1, .w1c, 0x0, .any⟩]⟩,
  ⟨0x0C0018, [], [⟨0, 10, .rw, 0x0, .any⟩]⟩,
  ⟨0x0C001C, [], [⟨0, 10, .rws, 0x0, .any⟩]⟩,
  ⟨0x0C0020, [], [⟨0, 1, .rws, 0x0, .any⟩]⟩,
  ⟨0x0C0024, [], [⟨0, 4, .rws, 0x0, .any⟩, ⟨8, 3, .rws, 0x0, .range 0 5⟩, ⟨12, 3, .rws, 0x0, .range 0 5⟩, ⟨16, 3, .rws, 0x0, .range 0 5⟩, ⟨20, 3, .rws, 0x0, .range 0 5⟩]⟩,
  ⟨0x0C0028, [], [⟨0, 16, .rc, 0x0, .any⟩, ⟨16, 16, .rc, 0x0, .any⟩]⟩,
  ⟨0x0C002C, [], [⟨0, 32, .rc, 0x0, .any⟩]⟩]

def specPmc1 : List RegSpec := [
  ⟨0x0C0030, [], [⟨0, 32, .ro, 0x0, .any⟩]⟩,
  ⟨0x0C0034, [], [⟨0, 32, .ro, 0x0, .any⟩]⟩,
  ⟨0x0C0038, [], [⟨0, 32, .ro, 0x0, .any⟩]⟩,
  ⟨0x0C003C, [], [⟨0, 16, .rok, 0x0, .any⟩, ⟨16, 1, .rok, 0x0, .any⟩]⟩,
  ⟨0x0C0040, [], [⟨0, 8, .rw, 0xFF, .any⟩, ⟨8, 1, .rw, 0x0, .any⟩, ⟨9, 1, .rw, 0x0, .any⟩, ⟨10, 1, .wo, 0x0, .any⟩]⟩,
  ⟨0x0C0044, [], [⟨0, 3, .ro, 0x0, .any⟩, ⟨8, 8, .ro, 0x0, .any⟩, ⟨16, 16, .ro, 0x0, .any⟩]⟩,
  ⟨0x0C0080, [(0x8, 8)], [⟨0, 32, .rws, 0x0, .srange (-2147584) (2147584)⟩]⟩,
  ⟨0x0C0084, [(0x8, 8)], [⟨0, 24, .rws, 0x0, .srange (-41943) (41943)⟩]⟩,
  ⟨0x0C0100, [(0x20, 4)], [⟨0, 8, .rws, 0x0, .any⟩, ⟨8, 3, .rws, 0x0, .any⟩, ⟨11, 1, .rws, 0x0, .any⟩, ⟨12, 4, .rws, 0x0, .any⟩, ⟨16, 4, .rws, 0x0, .range 0 8⟩, ⟨20, 4, .rws, 0x0, .range 0 8⟩, ⟨24, 4, .rws, 0x0, .any⟩, ⟨31, 1, .rws, 0x0, .any⟩]⟩,
  ⟨0x0C0104, [(0x20, 4)], [⟨0, 16, .rws, 0x0, .any⟩]⟩,
  ⟨0x0C0108, [(0x20, 4)], [⟨0, 1, .rws, 0x0, .any⟩, ⟨1, 5, .rws, 0x0, .range 0 30⟩, ⟨6, 1, .wo, 0x0, .any⟩]⟩,
  ⟨0x0C010C, [(0x20, 4)], [⟨0, 24, .ro, 0x0, .any⟩, ⟨24, 1, .rc, 0x0, .any⟩, ⟨25, 1, .ro, 0x0, .any⟩, ⟨26, 1, .ro, 0x0, .any⟩, ⟨27, 1, .ro, 0x0, .any⟩]⟩]

def specPmc2 : List RegSpec := [
  ⟨0x0C0110, [(0x20, 4)], [⟨0, 32, .ro, 0x0, .any⟩]⟩,
  ⟨0x0C0114, [(0x20, 4)], [⟨0, 32, .ro, 0x0, .any⟩]⟩,
  ⟨0x0C0400, [(0x10, 64)], [⟨0, 8, .rws, 0x30, .any⟩, ⟨8, 3, .rws, 0x0, .any⟩, ⟨11, 1, .rws, 0x1, .any⟩, ⟨12, 4, .rws, 0x5, .any⟩, ⟨16, 4, .rws, 0x0, .range 0 8⟩, ⟨20, 4, .rws, 0x0, .range 0 8⟩, ⟨24, 4, .rws, 0x0, .any⟩, ⟨31, 1, .rws, 0x0, .any⟩]⟩,
  ⟨0x0C0404, [(0x10, 64)], [⟨0, 16, .rws, 0x0, .any⟩]⟩,
  ⟨0x0C0408, [(0x10, 64)], [⟨0, 24, .ro, 0x0, .any⟩, ⟨24, 1, .rc, 0x0, .any⟩, ⟨25, 1, .ro, 0x0, .any⟩, ⟨26, 1, .ro, 0x0, .any⟩, ⟨27, 1, .ro, 0x0, .any⟩]⟩]

/-- The registers of PMC (R395). -/
def specPmc : List RegSpec := specPmc0 ++ specPmc1 ++ specPmc2

def specWmn0 : List RegSpec := [
  ⟨0x0D0000, [], [⟨0, 16, .ro, 0x0, .any⟩, ⟨16, 1, .ro, 0x0, .any⟩]⟩,
  ⟨0x0D0004, [], [⟨0, 16, .ro, 0x0, .any⟩]⟩,
  ⟨0x0D0008, [], [⟨0, 16, .w1c, 0x0, .any⟩]⟩,
  ⟨0x0D000C, [], [⟨0, 16, .w1c, 0x0, .any⟩, ⟨16, 1, .w1c, 0x0, .any⟩, ⟨17, 1, .w1c, 0x0, .any⟩, ⟨18, 1, .w1c, 0x0, .any⟩, ⟨19, 1, .w1c, 0x0, .any⟩, ⟨20, 1, .w1c, 0x0, .any⟩]⟩,
  ⟨0x0D0010, [], [⟨0, 21, .rw, 0x0, .any⟩]⟩,
  ⟨0x0D0014, [], [⟨0, 1, .rwp, 0x0, .any⟩, ⟨8, 8, .rwp, 0x4, .range 1 255⟩, ⟨16, 16, .rwp, 0x7D0, .range 100 65535⟩]⟩,
  ⟨0x0D0018, [], [⟨0, 16, .ro, 0x0, .any⟩, ⟨16, 16, .ro, 0x0, .any⟩]⟩,
  ⟨0x0D0100, [(0x20, 16)], [⟨0, 1, .rwp, 0x0, .any⟩, ⟨1, 2, .rwp, 0x0, .range 0 2⟩, ⟨4, 4, .rwp, 0x0, .range 0 8⟩, ⟨8, 4, .rwp, 0x0, .any⟩, ⟨12, 2, .rwp, 0x0, .any⟩, ⟨14, 1, .rwp, 0x0, .any⟩, ⟨15, 1, .rwp, 0x0, .any⟩]⟩,
  ⟨0x0D0104, [(0x20, 16)], [⟨0, 10, .rwp, 0x0, .any⟩, ⟨16, 10, .rwp, 0x3FF, .any⟩]⟩,
  ⟨0x0D0108, [(0x20, 16)], [⟨0, 32, .rwp, 0x0, .srange (-20000) (100000)⟩]⟩,
  ⟨0x0D010C, [(0x20, 16)], [⟨0, 17, .rwp, 0x1, .range 1 100000⟩]⟩,
  ⟨0x0D0110, [(0x20, 16)], [⟨0, 32, .rc, 0x0, .any⟩]⟩]

def specWmn1 : List RegSpec := [
  ⟨0x0D0114, [(0x20, 16)], [⟨0, 32, .ro, 0x0, .any⟩]⟩,
  ⟨0x0D0118, [(0x20, 16)], [⟨0, 32, .ro, 0x0, .any⟩]⟩,
  ⟨0x0D011C, [(0x20, 16)], [⟨0, 16, .ro, 0x0, .any⟩, ⟨16, 16, .ro, 0x0, .any⟩]⟩]

/-- The registers of WMN (R415). -/
def specWmn : List RegSpec := specWmn0 ++ specWmn1

def specFlt0 : List RegSpec := [
  ⟨0x0E0000, [], [⟨0, 1, .ro, 0x0, .any⟩, ⟨1, 1, .ro, 0x0, .any⟩, ⟨2, 2, .ro, 0x0, .any⟩, ⟨4, 1, .ro, 0x0, .any⟩, ⟨8, 8, .ro, 0x0, .any⟩]⟩,
  ⟨0x0E0004, [], [⟨0, 1, .w1c, 0x0, .any⟩, ⟨1, 1, .w1c, 0x0, .any⟩, ⟨2, 1, .w1c, 0x0, .any⟩, ⟨3, 1, .w1c, 0x0, .any⟩, ⟨4, 1, .w1c, 0x0, .any⟩, ⟨5, 1, .w1c, 0x0, .any⟩, ⟨6, 1, .w1c, 0x0, .any⟩, ⟨7, 1, .w1c, 0x0, .any⟩, ⟨8, 1, .w1c, 0x0, .any⟩]⟩,
  ⟨0x0E0008, [], [⟨0, 9, .rw, 0x0, .any⟩]⟩,
  ⟨0x0E000C, [], [⟨0, 16, .rwp, 0x2904, .range 8500 11500⟩]⟩,
  ⟨0x0E0010, [(0x4, 4)], [⟨0, 32, .w1c, 0x0, .any⟩]⟩,
  ⟨0x0E0020, [(0x4, 4)], [⟨0, 32, .ro, 0x0, .any⟩]⟩,
  ⟨0x0E0030, [(0x4, 4)], [⟨0, 32, .w1c, 0x0, .any⟩]⟩,
  ⟨0x0E0040, [(0x4, 4)], [⟨0, 32, .ro, 0x0, .any⟩]⟩,
  ⟨0x0E0050, [(0x4, 4)], [⟨0, 32, .rws, 0x0, .any⟩]⟩,
  ⟨0x0E0060, [], [⟨0, 7, .aonro, 0x0, .any⟩, ⟨7, 1, .aonro, 0x0, .any⟩]⟩,
  ⟨0x0E0064, [], [⟨0, 1, .ro, 0x0, .any⟩, ⟨8, 7, .ro, 0x0, .any⟩, ⟨16, 2, .ro, 0x0, .any⟩, ⟨18, 1, .ro, 0x0, .any⟩]⟩,
  ⟨0x0E0080, [(0x8, 4)], [⟨0, 32, .ro, 0x0, .any⟩]⟩]

def specFlt1 : List RegSpec := [
  ⟨0x0E0084, [(0x8, 4)], [⟨0, 16, .ro, 0x0, .any⟩, ⟨31, 1, .ro, 0x0, .any⟩]⟩,
  ⟨0x0E0100, [(0x4, 64)], [⟨0, 16, .rc, 0x0, .any⟩, ⟨16, 16, .rc, 0x0, .any⟩]⟩]

/-- The registers of FLT (R444). -/
def specFlt : List RegSpec := specFlt0 ++ specFlt1

def specMem0 : List RegSpec := [
  ⟨0x0F0000, [], [⟨0, 2, .rws, 0x0, .range 0 2⟩, ⟨2, 3, .rws, 0x2, .range 0 4⟩, ⟨8, 9, .rws, 0x118, .range 180 500⟩]⟩,
  ⟨0x0F0004, [], [⟨0, 1, .wo, 0x0, .any⟩, ⟨1, 1, .rws, 0x1, .any⟩, ⟨2, 1, .rws, 0x1, .any⟩]⟩,
  ⟨0x0F0008, [], [⟨0, 1, .rok, 0x0, .any⟩, ⟨1, 2, .rok, 0x0, .any⟩, ⟨4, 4, .rok, 0x0, .any⟩, ⟨8, 4, .rok, 0x0, .any⟩]⟩,
  ⟨0x0F000C, [], [⟨0, 16, .rok, 0x0, .any⟩]⟩,
  ⟨0x0F0010, [], [⟨0, 1, .w1c, 0x0, .any⟩, ⟨1, 1, .w1c, 0x0, .any⟩, ⟨2, 1, .w1c, 0x0, .any⟩, ⟨3, 1, .w1c, 0x0, .any⟩, ⟨4, 1, .w1c, 0x0, .any⟩, ⟨5, 1, .w1c, 0x0, .any⟩, ⟨6, 1, .w1c, 0x0, .any⟩, ⟨7, 1, .w1c, 0x0, .any⟩, ⟨8, 1, .w1c, 0x0, .any⟩, ⟨9, 1, .w1c, 0x0, .any⟩, ⟨10, 1, .w1c, 0x0, .any⟩, ⟨11, 1, .w1c, 0x0, .any⟩, ⟨12, 1, .w1c, 0x0, .any⟩, ⟨13, 1, .w1c, 0x0, .any⟩, ⟨14, 1, .w1c, 0x0, .any⟩]⟩,
  ⟨0x0F0014, [], [⟨0, 15, .rw, 0x0, .any⟩]⟩,
  ⟨0x0F0018, [], [⟨0, 20, .rws, 0x3E8, .range 1 1000000⟩]⟩,
  ⟨0x0F001C, [], [⟨0, 16, .rws, 0x7D0, .any⟩, ⟨16, 16, .rws, 0x1964, .any⟩]⟩,
  ⟨0x0F0020, [], [⟨0, 3, .rws, 0x0, .any⟩, ⟨4, 3, .rws, 0x0, .any⟩]⟩,
  ⟨0x0F0024, [], [⟨0, 10, .rws, 0x0, .any⟩, ⟨10, 10, .rws, 0x0, .any⟩, ⟨20, 10, .rws, 0x0, .any⟩]⟩,
  ⟨0x0F0028, [], [⟨0, 6, .rws, 0xC, .range 1 63⟩]⟩,
  ⟨0x0F0030, [], [⟨0, 32, .rws, 0x0, .any⟩]⟩]

def specMem1 : List RegSpec := [
  ⟨0x0F0034, [], [⟨0, 32, .rws, 0x0, .any⟩]⟩,
  ⟨0x0F0038, [], [⟨0, 16, .rws, 0x0, .any⟩]⟩,
  ⟨0x0F003C, [], [⟨0, 4, .rws, 0x0, .any⟩, ⟨4, 1, .rws, 0x0, .any⟩, ⟨5, 6, .rws, 0x0, .any⟩, ⟨11, 5, .rws, 0x0, .any⟩, ⟨16, 1, .wo, 0x0, .any⟩]⟩,
  ⟨0x0F0040, [], [⟨0, 32, .rw, 0x0, .any⟩]⟩,
  ⟨0x0F0044, [], [⟨0, 32, .rw, 0x0, .any⟩]⟩,
  ⟨0x0F0048, [], [⟨0, 20, .rw, 0x2710, .range 1 1000000⟩]⟩,
  ⟨0x0F004C, [], [⟨0, 32, .rc, 0x0, .any⟩]⟩,
  ⟨0x0F0050, [], [⟨0, 1, .wo, 0x0, .any⟩, ⟨1, 2, .rw, 0x0, .any⟩, ⟨3, 1, .rw, 0x0, .any⟩, ⟨4, 1, .rw, 0x0, .any⟩, ⟨5, 1, .ro, 0x0, .any⟩, ⟨16, 16, .rw, 0x400, .range 1 65535⟩]⟩,
  ⟨0x0F0054, [], [⟨0, 18, .ro, 0x0, .any⟩, ⟨18, 8, .ro, 0x0, .any⟩]⟩,
  ⟨0x0F0100, [(0x400, 4)], [⟨0, 6, .rok, 0x0, .any⟩, ⟨8, 5, .rok, 0x0, .any⟩, ⟨13, 1, .rok, 0x0, .any⟩, ⟨14, 1, .rok, 0x0, .any⟩]⟩,
  ⟨0x0F0104, [(0x400, 4)], [⟨0, 32, .ro, 0x0, .any⟩]⟩,
  ⟨0x0F0108, [(0x400, 4)], [⟨0, 32, .ro, 0x0, .any⟩]⟩]

def specMem2 : List RegSpec := [
  ⟨0x0F010C, [(0x400, 4)], [⟨0, 16, .rc, 0x0, .any⟩, ⟨16, 16, .rc, 0x0, .any⟩]⟩,
  ⟨0x0F0110, [(0x400, 4)], [⟨0, 16, .rc, 0x0, .any⟩]⟩,
  ⟨0x0F0200, [(0x400, 4), (0x80, 3), (0x4, 23)], [⟨0, 9, .rws, 0x0, .any⟩, ⟨16, 9, .rws, 0x0, .any⟩]⟩]

/-- The registers of MEM (R479). -/
def specMem : List RegSpec := specMem0 ++ specMem1 ++ specMem2

def specBrm0 : List RegSpec := [
  ⟨0x100000, [], [⟨0, 1, .rok, 0x0, .any⟩, ⟨1, 1, .rok, 0x0, .any⟩]⟩,
  ⟨0x100004, [], [⟨0, 1, .w1c, 0x0, .any⟩, ⟨1, 1, .w1c, 0x0, .any⟩, ⟨2, 1, .w1c, 0x0, .any⟩, ⟨3, 1, .w1c, 0x0, .any⟩, ⟨4, 1, .w1c, 0x0, .any⟩]⟩,
  ⟨0x100008, [], [⟨0, 5, .rw, 0x0, .any⟩]⟩,
  ⟨0x10000C, [], [⟨0, 1, .rws, 0x1, .any⟩, ⟨16, 16, .rws, 0x3E8, .range 2 65535⟩]⟩,
  ⟨0x100010, [], [⟨0, 32, .rws, 0x0, .any⟩]⟩,
  ⟨0x100014, [], [⟨0, 32, .rws, 0x0, .any⟩]⟩,
  ⟨0x100018, [], [⟨0, 32, .rc, 0x0, .any⟩]⟩,
  ⟨0x10001C, [], [⟨0, 32, .rc, 0x0, .any⟩]⟩,
  ⟨0x100020, [], [⟨0, 32, .ro, 0x0, .any⟩]⟩]

/-- The registers of BRM (R480). -/
def specBrm : List RegSpec := specBrm0

def specNvs0 : List RegSpec := [
  ⟨0x110000, [], [⟨0, 1, .ro, 0x0, .any⟩, ⟨1, 1, .rok, 0x0, .any⟩]⟩,
  ⟨0x110004, [], [⟨0, 1, .w1c, 0x0, .any⟩, ⟨1, 1, .w1c, 0x0, .any⟩, ⟨2, 1, .w1c, 0x0, .any⟩, ⟨3, 1, .w1c, 0x0, .any⟩, ⟨4, 1, .w1c, 0x0, .any⟩, ⟨5, 1, .w1c, 0x0, .any⟩]⟩,
  ⟨0x110008, [], [⟨0, 6, .rw, 0x0, .any⟩]⟩,
  ⟨0x11000C, [], [⟨0, 9, .rwp, 0x0, .any⟩]⟩,
  ⟨0x110010, [], [⟨0, 32, .rc, 0x0, .any⟩]⟩,
  ⟨0x110014, [], [⟨0, 32, .rc, 0x0, .any⟩]⟩,
  ⟨0x110018, [], [⟨0, 3, .ro, 0x0, .any⟩, ⟨8, 4, .ro, 0x0, .any⟩]⟩]

/-- The registers of NVS (R518). -/
def specNvs : List RegSpec := specNvs0

/-- The registers of the block window that holds an offset (R544). -/
def blockSpec : Nat → List RegSpec
  | 0 => specSys
  | 1 => specPwr
  | 2 => specTim
  | 3 => specLnc
  | 4 => specAcq
  | 5 => specPhs
  | 6 => specAcf
  | 7 => specDts
  | 8 => specEvt
  | 9 => specTrk
  | 10 => specSch
  | 11 => specHif
  | 12 => specPmc
  | 13 => specWmn
  | 14 => specFlt
  | 15 => specMem
  | 16 => specBrm
  | 17 => specNvs
  | _ => []

/-- Does a relative offset address an instance of an array with these strides and counts (R545)? -/
def matchDims : List (Nat × Nat) → Nat → Bool
  | [], r => r == 0
  | (st, n) :: ds, r => decide (r / st < n) && matchDims ds (r % st)

/-- Does this array hold the register at this BAR0 offset? -/
def RegSpec.holds (r : RegSpec) (off : Nat) : Bool :=
  decide (r.base ≤ off) && matchDims r.dims (off - r.base)

/-- The register at a BAR0 offset, where one is assigned (R13, R545). -/
def regAt (off : Nat) : Option RegSpec := (blockSpec (off / 0x10000)).find? (fun r => r.holds off)

/-- The register value that the Reset entries of its fields form, reserved bits 0 (R548). -/
def RegSpec.resetVal (r : RegSpec) : Nat := r.fields.foldl (fun v f => v + f.reset * 2 ^ f.lo) 0

/-- The reset value of the register at an offset; the SRC fields reset to the channel index (R548). -/
def resetOf (off : Nat) : Word :=
  match regAt off with
  | none => 0
  | some r =>
    if r.base = ACQ_CCH_CFG 0 ∨ r.base = ACQ_ICH_CFG 0 then BitVec.ofNat 32 ((off - r.base) / 0x10)
    else BitVec.ofNat 32 r.resetVal

/-- The bits of the fields that a predicate on their access type selects. -/
def RegSpec.mask (r : RegSpec) (p : Acc → Bool) : Nat :=
  r.fields.foldl (fun m f => if p f.acc then m + (2 ^ f.w - 1) * 2 ^ f.lo else m) 0

end Sys2Proof.Machine
end

