-- ==== Sys2Proof/Machine/Tab.lean ====
section
/-! DEFINITION. Finite tables as plain data: association lists in one canonical form (keys strictly rising, no entry
equal to what an unlisted key reads as), and the two accessors of fixed vectors. -/

namespace Sys2Proof.Machine

/-- A sparse table: key and value pairs. -/
abbrev Tab (α : Type) := List (Nat × α)

/-- The entry of a key; an unlisted key reads `d`. -/
def tget {α : Type} (d : α) (t : Tab α) (k : Nat) : α :=
  match t with
  | [] => d
  | (a, b) :: r => if a = k then b else tget d r k

/-- Remove a key. -/
def tdel {α : Type} (t : Tab α) (k : Nat) : Tab α := t.filter (fun p => p.1 ≠ k)

/-- Insert a pair before the first larger key. -/
def tins {α : Type} (t : Tab α) (k : Nat) (v : α) : Tab α :=
  match t with
  | [] => [(k, v)]
  | (a, b) :: r => if k < a then (k, v) :: (a, b) :: r else (a, b) :: tins r k v

/-- Write a key: the default value removes its entry. -/
def tput {α : Type} [DecidableEq α] (d : α) (t : Tab α) (k : Nat) (v : α) : Tab α :=
  if v = d then tdel t k else tins (tdel t k) k v

/-- The canonical form: keys strictly rising, and no entry equal to the default of its key. -/
def twf {α : Type} [DecidableEq α] (d : Nat → α) : Tab α → Bool
  | [] => true
  | (a, b) :: r => decide (b ≠ d a) && r.all (fun p => decide (a < p.1)) && twf d r

/-- Read an element of a fixed vector; an index outside it reads the default. -/
def vget {α : Type} {n : Nat} (d : α) (v : Vector α n) (i : Nat) : α := v.toList.getD i d

/-- Write an element of a fixed vector; an index outside it changes nothing. -/
def vset {α : Type} {n : Nat} (v : Vector α n) (i : Nat) (x : α) : Vector α n := v.setIfInBounds i x

/-- Change an element of a fixed vector. -/
def vmod {α : Type} {n : Nat} (d : α) (v : Vector α n) (i : Nat) (f : α → α) : Vector α n := vset v i (f (vget d v i))

/-- Replace the element of a list at an index. -/
def lset {α : Type} (l : List α) (i : Nat) (x : α) : List α := l.set i x

end Sys2Proof.Machine
end

