-- ==== Sys2Proof/Machine/State.lean ====
section
/-! DEFINITION. The state of the block as plain data, its faults and refusals, and the state after reset. Registers
and table words are held in sparse tables keyed by BAR0 offset; every other field is state the chapters describe
without giving it a register. Instants are elapsed nanoseconds of the sample clock, unless a name ends in Gt. -/

namespace Sys2Proof.Machine

/-- Reasons for a fault. The device has no exception entry and no command stops it, so there is none to raise. -/
inductive Fault where
  /-- Raised by no command: reserved for an access the manual would place outside the device. Safe. -/
  | outside
deriving DecidableEq, Repr

/-- Reasons for a refusal. -/
inductive Refusal where
  /-- Raised by Dispatch.lean for a command that has no meaning yet. Safe: the machine stops. -/
  | notModelled (mnemonic : String)
deriving DecidableEq, Repr

/-! ### Host interface (chapter 09) -/

/-- A running command, or one a completion answers: its ring (0 to 15 host, 16 to 19 internal), id, opcode, cookie
and IRQ flag (R322). -/
structure Cmd where
  ring   : Nat
  reqId  : BitVec 32
  opcode : Nat
  cookie : BitVec 64
  irq    : Bool
deriving DecidableEq, Repr

/-- An entry of a duplicate window (R331). `waiting` holds duplicates that arrived while the original ran. -/
structure DupEnt where
  id      : BitVec 32
  result  : Nat
  value   : Nat
  done    : Bool
  waiting : List Cmd
deriving DecidableEq, Repr

/-- A completion (R323): status, result, value, the grid time at which the result was reached, the completion ring it
belongs to, and whether it was held through a detachment (R355). -/
structure Cpl where
  cmd    : Cmd
  status : Nat
  result : Nat
  value  : Nat
  gt     : Nat
  ring   : Nat
  held   : Bool
deriving DecidableEq, Repr

/-- A frame of a stream: its header fields (R342) and its payload, and the first shot of the frame of shots whose work it
belongs to (R296). -/
structure Frame where
  stream   : Nat
  seq      : Nat
  fe       : Nat
  kind     : Nat
  format   : Nat
  late     : Bool
  sat      : Bool
  fade     : Bool
  spilled  : Bool
  precal   : Bool
  shot     : Nat
  gt       : Nat
  epoch    : Nat
  firstBin : Nat
  binCount : Nat
  delay    : Nat
  payload  : List Byte
  work     : Option Nat
deriving DecidableEq, Repr

/-- A frame in output staging, and the instant at which it reached the head of staging (R297). -/
structure Staged where
  frame : Frame
  head  : Option Nat
deriving DecidableEq, Repr

/-- The open buffer of a stream ring (R336 to R339). -/
structure Buf where
  addr     : Nat
  len      : Nat
  used     : Nat
  frames   : Nat
  firstHdr : Option Nat
  firstAt  : Option Nat
  spilled  : Bool
deriving DecidableEq, Repr

/-- A command ring beside its registers: duplicate window, running commands, the request id of a FENCE descriptor that waits
at the head of the ring (R326, R331), and the entries of commands still running that CLEAR_IDS has taken out of the window
(R332). -/
structure RingSt where
  dup     : List DupEnt
  running : List Cmd
  fence   : Option (BitVec 32)
  cleared : List DupEnt
deriving DecidableEq, Repr

/-- A completion ring beside its registers: completions unsignalled, instant of the first of them (R348), and posted
completions not yet confirmed (R341, R350). -/
structure CplSt where
  unsig   : Nat
  firstAt : Option Nat
  unconf  : List Cpl
deriving DecidableEq, Repr

/-- A stream ring beside its registers: descriptors exposed and not yet opened, the open buffer, and the LOSS mark of
R336. -/
structure StrSt where
  descs : List BufDesc
  buf   : Option Buf
  loss  : Bool
deriving DecidableEq, Repr

/-- Configuration space beside MSI-X (R314, R316, R354): the power state, the encodings of maximum payload and read request
size, the AER registers (uncorrectable status and severity, correctable status), the BARs, and whether ASPM L1 is enabled. -/
structure PciSt where
  pm   : Nat
  mps  : Nat
  mrrs : Nat
  unc  : Nat
  sev  : Nat
  cor  : Nat
  bars : Vector Word 4
  aspm : Bool
deriving DecidableEq, Repr

/-- What leaves the device besides memory writes: MSI-X messages (R348) and AER reports (R316): 0 ERR_COR, 1 ERR_NONFATAL,
2 ERR_FATAL. -/
inductive OutMsg where
  | msix (vec addr data : Nat)
  | aer (fatality : Nat)
deriving DecidableEq, Repr

/-- The counts of one stream in a record of the reattach log (R358). -/
structure LogStream where
  spilled     : Nat
  discarded   : Nat
  overwritten : Nat
  first       : Nat
  last        : Nat
deriving DecidableEq, Repr

/-- A record of the reattach log (R358). -/
structure LogRec where
  detachGt : Nat
  reGt     : Nat
  cause    : Nat
  mode0    : Nat
  mode1    : Nat
  merged   : Bool
  safeHold : Bool
  held     : Nat
  epoch0   : Nat
  epoch1   : Nat
  sticky   : List Word
  streams  : List LogStream
deriving DecidableEq, Repr

/-- Host interface state; with `freshAt` and `fresh`, the W1C bits that their sources have set in the present cycle, by
register (R16). -/
structure HifSt where
  rings     : Vector RingSt 20
  cpls      : Vector CplSt 16
  strs      : Vector StrSt 32
  heldCpl   : List Cpl
  intRing   : Vector (List Cpl) 4
  msixEn    : Bool
  msixMask  : Bool
  msixTable : Tab Word
  pba       : Nat
  seq       : Vector Nat 18
  staged    : List Staged
  diverted  : Vector Bool 4
  inFlight  : List Frame
  log       : List LogRec
  logOpen   : Bool
  detachCmd : List Cmd
  dormCmd   : Option Cmd
  freshAt   : Nat
  fresh     : Tab Nat
  pci       : PciSt
deriving DecidableEq, Repr

/-- A frame in the spillway; `sent` says that it has been drained and its confirming read has not completed
(R341, R357). -/
structure SpillFrame where
  frame : Frame
  sent  : Bool
deriving DecidableEq, Repr

/-- The spillway (R344 to R347): its general and reserved areas, oldest frame first. -/
structure SpillSt where
  general  : List SpillFrame
  reserved : List SpillFrame
deriving DecidableEq, Repr
/-! ### Time base (chapter 01) -/

/-- The steering history of one reference input: the last accepted edge's error and grid time, the errors of the
present run of outliers (the last three), and the instant of the last edge (R30, R31). -/
structure RefHist where
  last : Option (Int × Int)
  run  : List Int
  seen : Option Nat
deriving DecidableEq, Repr

/-- Time base state beside its registers. -/
structure TimSt where
  locked       : Bool
  holdStart    : Option Nat
  pps          : RefHist
  sync         : RefHist
  epoch        : Nat
  syncOutEnd   : Nat
  launchOutEnd : Nat
deriving DecidableEq, Repr

/-! ### Launch engine (chapter 02) -/

/-- An arming in progress (R79): the command, its processing instant, and whether STATIC gates are active. -/
structure Arming where
  cmd    : Cmd
  p      : Nat
  static : Bool
deriving DecidableEq, Repr

/-- A disarm waiting for its frame start or segment end (R82). -/
structure Disarming where
  cmds : List Cmd
  due  : Nat
deriving DecidableEq, Repr

/-- A launch instant by shot number: grid time. -/
structure NextShot where
  shot : Nat
  gt   : Int
deriving DecidableEq, Repr

/-- An accepted LAUNCH_IN marker that launches (R54, R490): its instant and the shot number it takes. -/
structure Marker where
  m    : Nat
  shot : Nat
deriving DecidableEq, Repr

/-- The segment being played (R61, R66). -/
structure Playing where
  start  : Nat
  len    : Nat
  inc    : Nat
  launch : Nat
  shot   : Nat
deriving DecidableEq, Repr

/-- A segment that has left the DACs: when, and the PEAK limit it was played with (R101). -/
structure Played where
  seg  : Playing
  stop : Nat
  peak : Nat
deriving DecidableEq, Repr

/-- A gate window of a shot (R69, R71): gate, shot, opening and closing instants. -/
structure GateWin where
  gate  : Nat
  shot  : Nat
  open_ : Nat
  close : Nat
deriving DecidableEq, Repr

/-- The SENTINEL form in force for a fibre engine (R489, R490, R553): the limit that SENT_TONES sets to its tones, stride, and
the count of accepted markers in external launch mode. -/
structure SentForm where
  lim    : Nat
  stride : Nat
  count  : Nat
deriving DecidableEq, Repr

/-- A launch record (R67, R72, R89): the shot, its tone, the tones in use, its frame's first shot with that shot's launch
and grid time, pair member, Raman mark, launch instant and grid time, segment and its length in samples, the settings in
force for it (R42, R305), its config epoch (R312), SENTINEL form, launch mode, its index among the launched shots since the
last restart (R491), what the signal path does at it (first of an arming, restart, realignment, new pair, ACF and EVT
restarts, bank requests), the coefficients of its reference, the profile words of a Raman shot, the words of the chainage
map, and what has been done with it: processed, accumulated, cut by a trip or later in a cut frame, its frame not delivered
(R89, R138). -/
structure Shot where
  shot     : Nat
  tone     : Nat
  tones    : Nat
  frame    : Nat
  frameL   : Nat
  frameGt  : Int
  member   : Nat
  raman    : Bool
  launch   : Nat
  gt       : Int
  seg      : Nat
  len      : Nat
  regs     : Tab Word
  epoch    : Nat
  sent     : Option SentForm
  ext      : Bool
  idx      : Nat
  armFirst : Bool
  phInit   : Bool
  realign  : Bool
  pairNew  : Bool
  acfRe    : Bool
  evtRe    : Bool
  swap     : List Bool
  ref      : List (Int × Int)
  prof     : Tab Word
  map      : Tab Word
  phsDone  : Bool
  dtsDone  : Bool
  cut      : Bool
  lost     : Bool
deriving DecidableEq, Repr

/-- A table switch of a commit group (R303): an offset in the table, and the words of its spare copy. -/
structure TabLoad where
  off  : Nat
  copy : Tab Word
deriving DecidableEq, Repr

/-- A commit group's part for one fibre engine whose boundary lies ahead (R304): t_b, the exact shot for REF_FE, whether
it waits for a frame start, its writes and table loads, and a change of SENTINEL form. -/
structure DuePart where
  tb     : Int
  shot   : Option Nat
  frame  : Bool
  writes : List (Nat × Word)
  tabs   : List TabLoad
  sent   : Option (Option SentForm)
  group  : Nat
deriving DecidableEq, Repr

/-! ### Signal path (chapters 04 to 07) -/

/-- Phase pipeline state of a bin: P, the fade state, and the phasors U[k][b] at index 8k + b (R152 to R161). -/
structure PhBin where
  p     : Nat
  faded : Bool
  u     : List (Int × Int)
deriving DecidableEq, Repr

/-- The compressed streams of a tone's previous shot: its WIN_START, and the stream of each sub-band u and polarisation p that
was enabled, keyed 2u + p (R149). -/
structure PairPrev where
  start   : Nat
  streams : List (Nat × List (Int × Int))
deriving DecidableEq, Repr

/-- Phase pipeline state: the bins, tones whose phasors await their first shot after a restart (bit k), the previous shot of
each paired tone, the 2^20 ns window in which PHS_SAT was last raised, and the elapsed instants up to which samples have been
counted as over range (R111) and those of range windows have joined the blind IQ blocks (R125). -/
structure PhsSt where
  bins   : List PhBin
  fresh  : Nat
  prev   : Vector (Option PairPrev) 4
  satWin : Option Int
  ovrTo  : Nat
  blindTo : Nat
deriving DecidableEq, Repr

/-- A shot's input to the acoustic filter chain: the shot, its frame and launch grid time, its settings, epoch and SENTINEL
form, its index since the restart of R491, whether it follows an arming, a restart of the pipeline, or a change of ACF
settings, a bank requests that reach their boundary there, the chainage map in force, and phase and FADE bit of each bin. -/
structure AcfIn where
  shot   : Nat
  frame  : Nat
  gt     : Int
  regs   : Tab Word
  epoch  : Nat
  sent   : Option SentForm
  idx    : Nat
  arming : Bool
  init   : Bool
  acfRe  : Bool
  evtRe  : Bool
  swap   : List Bool
  map    : Tab Word
  xs     : List (Nat × Bool)
deriving DecidableEq, Repr

/-- Acoustic chain state of a bin: previous phase, blocker state y, shots since last faded, CIC integrators and combs modulo
2^64, FIR history (newest first), and whether a limit was taken since the last output (R176 to R192). -/
structure AcfBin where
  x    : Nat
  y    : Int
  age  : Nat
  int  : List Nat
  comb : List Nat
  hist : List Int
  lim  : Bool
deriving DecidableEq, Repr

/-- A cross-fade: from the active bank to the target, the index of its next output and log2 of its length (R186). -/
structure XFade where
  target : Bool
  j      : Nat
  log2   : Nat
deriving DecidableEq, Repr

/-- Acoustic chain state: inputs waiting (the first has been taken, and its output waits), bins, inputs taken since the ACF
restart, shot number and launch of each (newest first), the active bank, cross-fade, held request, requests whose boundary
has come, and the window in which ACF_SAT was last raised (R185 to R198). -/
structure AcfSt where
  q      : List AcfIn
  bins   : List AcfBin
  n      : Nat
  times  : List (Nat × Int)
  active : Bool
  xf     : Option XFade
  held   : Option Bool
  reqs   : List Bool
  satWin : Option Int
deriving DecidableEq, Repr

/-- An accumulation of a Raman path (R208 to R211, R222): shots so far, accumulators per bin (Stokes, anti-Stokes), residues
seen, overrange seen, first shot and its launch, shots m_c − 1 and m_c with their launches, and the last shot. -/
structure DtsAcc where
  count : Nat
  acc   : List (Int × Int)
  mask  : Nat
  sat   : Bool
  first : Nat
  gt0   : Int
  mid0  : Nat × Int
  mid1  : Int
  last  : Shot
deriving DecidableEq, Repr

/-- Raman path state: the accumulation in progress, the set it uses, finished accumulations awaiting their end computation,
the writes of REF_TEMP with their grid times, newest first (R210, R213, R214), and the instant up to which samples have been
counted as over range (R111). -/
structure DtsSt where
  cur   : Option DtsAcc
  set   : Bool
  done  : List DtsAcc
  temps : List (Int × Nat)
  ovrTo : Nat
deriving DecidableEq, Repr

/-- An output of the acoustic chain as the detector takes it (R234): header fields of R194, frame, number, values before
conversion with their FADE bits, SAT, SENTINEL form, settings and chainage map of its newest input shot. -/
structure EvtOut where
  newest : Nat
  shot   : Nat
  gt     : Int
  delay  : Nat
  epoch  : Nat
  frame  : Nat
  num    : Nat
  rs     : List (Int × Bool)
  sat    : Bool
  sent   : Option SentForm
  regs   : Tab Word
  map    : Tab Word
deriving DecidableEq, Repr

/-- What the detector takes: an output, or an EVT restart. -/
inductive EvtIn where
  | out (x : EvtOut)
  | restart
deriving DecidableEq, Repr

/-- A band filter of a bin and its energy accumulator (R236). -/
structure BandSt where
  x1  : Int
  x2  : Int
  u1  : Int
  u2  : Int
  acc : Nat
deriving DecidableEq, Repr

/-- A detection rule: whether it was active, the settings that clear it when they change, and per cell the history (newest
in bit 0) and whether the cell is detected (R242, R243, R257). -/
structure RuleSt where
  active : Bool
  key    : List Nat
  hist   : List Nat
  det    : List Bool
deriving DecidableEq, Repr

/-- A track (R250, R251): state 1 TENTATIVE, 2 CONFIRMED, 3 COASTING. -/
structure Track where
  id     : Nat
  state  : Nat
  x      : Int
  v      : Int
  q      : Nat
  misses : Nat
  hits   : Nat
  cls    : Nat
  energy : Nat
  age    : Nat
deriving DecidableEq, Repr

/-- Detector and tracker state of a fibre engine: outputs waiting (the first has been taken and ends an interval), whether
an interval has begun since the restart, filters per bin and band, bins faded in the interval, SAT seen, cell backgrounds
per band, rules, intervals since the restart, intervals without a record and since the last TRACK frame, tracks with the
time of their last update, pending SWITCH records with the grid time at which their edge was accepted, and whether the next
frame carries RESTART. -/
structure EvtSt where
  q       : List EvtIn
  synced  : Bool
  bands   : List (List BandSt)
  faded   : List Bool
  sat     : Bool
  bg      : List (List Int)
  rules   : List RuleSt
  count   : Nat
  empty   : Nat
  since   : Nat
  tracks  : List (Option Track)
  tI      : Int
  sw      : List ((Nat × Bool × Nat) × Int)
  restart : Bool
deriving DecidableEq, Repr

/-! ### Schedule and commit groups (chapter 08) -/

/-- A fibre-engine part of an admitted image's contract record (R284). -/
structure FePart where
  fe          : Nat
  priMin      : Nat
  winMax      : Nat
  phsNbinsMax : Nat
  nMax        : Nat
  tMax        : Nat
  nbMax       : Nat
  ratioMin    : Nat
  orderMax    : Nat
  ntapsMax    : Nat
  dtsNbinsMax : Nat
  nbandsMax   : Nat
  rulesMax    : Nat
  tracker     : Nat
  lanesFe     : Nat
  w           : Nat
  c           : Nat
  freeboard   : Nat
  fNs         : Nat
  lMax        : Nat
  k           : Nat
  commitNs    : Nat
  boundNs     : Nat
  boundKNs    : Nat
  hostMbps    : Nat
deriving DecidableEq, Repr

/-- An admitted image: the general part of its contract record (R283), its parts, the fibre engine of each claimed bank,
the Berm map (R556), the claimed slots (channel, slot, owning fibre engine; R282), and the image as it was read. -/
structure Image where
  feMask     : Nat
  refReserve : Nat
  lanes      : Nat
  berm       : Nat
  dramShare  : Nat
  mtsMin     : Nat
  spillMbps  : Nat
  tool       : Nat
  parts      : List FePart
  bankFe     : List (Nat × Nat)
  items      : List MapItem
  slots      : List (Nat × Nat × Nat)
  raw        : ImageRead
deriving DecidableEq, Repr

/-- A LOAD_SCHEDULE or UNLOAD_SCHEDULE in progress (R285): its command, whether it loads, the image as it was read (none where
the read failed), and the slot to release. -/
structure Loading where
  cmd   : Cmd
  load  : Bool
  image : Option ImageRead
  slot  : Nat
deriving DecidableEq, Repr

/-- An entry of a commit group (R301): a register write or a table load with its words. -/
inductive GEntry where
  | write (off : Nat) (v : Word)
  | table (off : Nat) (words : List Word)
deriving DecidableEq, Repr

/-- A staged or locked commit group (R304 to R309): KIND GRID or SHOT, REF_FE, the shot or grid time named, t_b (unknown for
a SHOT boundary in external launch mode until its marker), entries, the spare copies of the tables it loads (R303), whether
it is locked, and the fibre engines that a marker has already brought to their boundaries, and the instant of its staging.
-/
structure Group where
  cmd     : Cmd
  grid    : Bool
  refFe   : Nat
  shot    : Nat
  tb      : Option Int
  entries : List GEntry
  spare   : List TabLoad
  locked  : Bool
  order   : Nat
  taken   : Nat
  since   : Nat
deriving DecidableEq, Repr

/-- Schedule state: image slots, the load in progress, commit slots, t_b of internal SENTINEL groups not yet counted, and
the number of groups staged so far. -/
structure SchSt where
  img       : Vector (Option Image) 4
  loading   : Option Loading
  groups    : Vector (Option Group) 8
  sentTb    : List Int
  sentCount : Nat
  staged    : Nat
deriving DecidableEq, Repr

/-! ### Fault collector (chapter 12) -/

/-- What a source's pair of rails reads (R416): (0,1), (1,0), or a wire fault. -/
inductive Rails where
  | ok
  | err
  | wire
deriving DecidableEq, Repr

/-- A rule X containment in a window (R424, R443): fibre engine, source, FIRST_SHOT, grid time. -/
structure Invalid where
  fe    : Nat
  src   : Nat
  first : Nat
  gt    : Nat
deriving DecidableEq, Repr

/-- The open notification window (R432, R433, R443): gravest class (0 C, 1 U, 2 F), opening source, its grid time, instant
and config epoch, the merged count, flags and scopes. -/
structure FltWin where
  cls       : Nat
  src       : Nat
  gt        : Nat
  opened    : Nat
  epoch     : Nat
  merged    : Nat
  wire      : Bool
  injected  : Bool
  overlap   : Bool
  escalated : Bool
  scopes    : Nat
  invalid   : List Invalid
deriving DecidableEq, Repr

/-- The injection in progress (R440), and whether the source's own check fails now (R442). -/
structure Injection where
  cmd     : Cmd
  src     : Nat
  kind    : Nat
  start   : Nat
  dur     : Nat
  overlap : Bool
  real    : Bool
deriving DecidableEq, Repr

/-- The capture that entered SAFE_HOLD: its instant, grid time and mode before, and what the NV store held before step 6 of
R428 in its fatal records and its reattachment log; step 6 is run again where a lower-numbered class F source is captured in
the same collector cycle. -/
structure FatalAt where
  t    : Nat
  gt   : Nat
  mode : Nat
  nv   : List Byte
  log  : List Byte
deriving DecidableEq, Repr

/-- Fault collector state: the pair of each source, whether it is armed for capture and for a wire capture (R418, R419),
the window, the injection, the FAULT_N pin (driven low), the capture that entered SAFE_HOLD, and the always-on copy of
CONTAINED (R427). -/
structure FltSt where
  rails     : Vector Rails 128
  armed     : Vector Bool 128
  wireArmed : Vector Bool 128
  window    : Option FltWin
  inj       : Option Injection
  faultN    : Bool
  fatal     : Option FatalAt
  aonCopy   : Nat
  recover   : Option (Cmd × Nat)
deriving DecidableEq, Repr

/-! ### Acquisition array (chapter 03) -/

/-- A foreground calibration in progress (R112 to R118): the channels selected and those not abandoned, the start, and the
phase of the coherent and of the intensity group (8: the group has finished). -/
structure AcqCal where
  cmd      : Cmd
  mask     : Nat
  live     : Nat
  nv       : Bool
  saveOnly : Bool
  start    : Nat
  phC      : Nat
  phI      : Nat
deriving DecidableEq, Repr

/-- The fields that background calibrations change (R122, R125, R126): OFS, GAIN_CAL and SKEW of sub-converter i of
coherent channel c, OFS of intensity channel i, and the factors A and B of pair p. -/
inductive CalFld where
  | ofs (c i : Nat)
  | gain (c i : Nat)
  | skew (c i : Nat)
  | intOfs (i : Nat)
  | iqA (p : Nat)
  | iqB (p : Nat)
deriving DecidableEq, Repr

/-- A change of a background calibration waiting for the next frame start (R122, R125, R126): channel (24 for a pair),
field, change, bounds, and what it is (0 OFS, 1 GAIN_CAL, 2 SKEW, 3 an IQ factor). -/
structure CalUpd where
  ch   : Nat
  fld  : CalFld
  d    : Int
  lo   : Int
  hi   : Int
  what : Nat
deriving DecidableEq, Repr

/-- The background block in progress on a channel (R122, R123, R126): the spans of instants its samples come from that have
ended, the start of the present one, the instant before which it takes none, the settings in force since each instant (newest
first), and the spans whose overrange samples shots have counted (R111). -/
structure BgBlk where
  spans : List (Nat × Nat)
  run   : Option Nat
  from_ : Nat
  regs  : List (Nat × Tab Word)
  seen  : List (Nat × Nat)
deriving DecidableEq, Repr

/-- The blind IQ block in progress on a pair (R125): sample pairs so far, sums of I², Q'² and I·Q', and the sums of blocks
that have ended. -/
structure BlindBlk where
  n    : Nat
  ii   : Int
  qq   : Int
  iq   : Int
  full : List (Int × Int × Int)
deriving DecidableEq, Repr

/-- Acquisition state beside its registers: sums of background changes by field (R124), keyed 32 × offset + low bit, the
2^20 ns window in which each channel last raised ACQ_OVERRANGE (R111), background blocks in progress, and the instant before
which background blocks have counted each channel's overrange samples. -/
structure AcqSt where
  cal    : Option AcqCal
  drift  : Tab Int
  ovrWin : Vector (Option Int) 24
  blk    : Vector BgBlk 24
  blind  : Vector BlindBlk 8
  ovrTo  : Vector Nat 24
deriving DecidableEq, Repr

/-! ### Track interface (chapter 07) -/

/-- An encoder input beside its registers: instants of the last edge on QA and on QB and of the last counted edge, whether
that edge stands for intervals to be discarded, valid intervals held (newest first), the live bits and net change since POS
was last read, the largest excursion reached, the index seen since EN, the instant of the last counted edge, the window in
which TRK_EDGE was last raised, and the count history (newest first): grid time, POS, SPEED. -/
structure QinSt where
  atA    : Option Nat
  atB    : Option Nat
  atEdge : Option Nat
  skip   : Bool
  ivs    : List Nat
  up     : Bool
  dn     : Bool
  reach  : Bool
  net    : Int
  idxOne : Bool
  lastCnt : Option Nat
  win    : Option Int
  hist   : List (Int × Nat × Int)
deriving DecidableEq, Repr

/-- An SSI port: until when a frame or its MONO time runs, whether a frame is clocking, its latch time, and that of DATA. -/
structure SsiSt where
  busy   : Nat
  open_  : Bool
  gt     : Int
  dataGt : Int
deriving DecidableEq, Repr

/-- An emulated encoder: its target count, whether TRACK mode holds until TRACK_ID is written, whether SRC_LOST has been set
for that, and the instant of its last step (R274, R275). -/
structure EncSt where
  target : Int
  lost   : Bool
  gone   : Bool
  stepAt : Nat
deriving DecidableEq, Repr

/-- What the track interface shows until a direct write takes effect at the next sampling instant (R276): that instant, and
the registers before the write. -/
structure TrkOld where
  upto : Nat
  regs : Tab Word
deriving DecidableEq, Repr

/-- Track interface state: inputs, pulse ends of the twelve emulator pins (3m + 0, 1, 2 for EA, EB, EZ), the FIFO of
the magnetic switches, ports, emulators, and what it shows until a write takes effect. -/
structure TrkSt where
  qin   : Vector QinSt 2
  pulse : Vector Nat 12
  fifo  : List (Nat × Bool × Nat)
  ssi   : Vector SsiSt 2
  enc   : Vector EncSt 4
  old   : Option TrkOld
deriving DecidableEq, Repr

/-! ### Monitor converter (chapter 10) -/

/-- A conversion in progress (R366, R370): slot 0 to 63 or 64 + j for INJj, its start in 1/128 ns of grid time, latched
settings and factors, and the flags its result will carry. -/
structure Conv where
  slot   : Nat
  x      : Int
  cfg    : Word
  settle : Nat
  ofs    : Int
  gcal   : Int
  refBad : Bool
  precal : Bool
deriving DecidableEq, Repr

/-- A result of a regular slot as the Raman path takes it (R213): completion time, code, usable, PRECAL. -/
structure PmcRes where
  slot   : Nat
  gt     : Int
  code   : Int
  usable : Bool
  precal : Bool
deriving DecidableEq, Repr

/-- The open PMC frame (R384, R385): its header values and records. -/
structure PmcFrame where
  gt     : Nat
  epoch  : Nat
  precal : Bool
  sat    : Bool
  recs   : List (List Byte)
deriving DecidableEq, Repr

/-- A calibration of the monitor converter (R379 to R382): its command (none for CAL_CTL.START), and the pending injected
conversions it completes first, by j. -/
structure PmcCal where
  cmd      : Option Cmd
  mask     : Nat
  nv       : Bool
  saveOnly : Bool
  drain    : Vector Nat 4
deriving DecidableEq, Repr

/-- Monitor converter state: the conversion in progress, the pass (its next or present slot, and LEN, TRIG and HW_SRC as
latched at its start), the edge at which it begins, pending triggers, calibration, the open frame, the sample time of each
injected result, regular results newest first, whether the external reference is outside its limits, and is known to lie
within them (R364, R395), LAST_ERR of the management SPI (R386), whether a pass of CONTINUOUS is due (R373), and whether
firmware has enabled the supply (R389). -/
structure PmcSt where
  conv   : Option Conv
  pass   : Bool
  slot   : Nat
  len    : Nat
  trig   : Nat
  src    : Nat
  begin_ : Int
  pend   : Bool
  wait   : Vector Nat 4
  cal    : Option PmcCal
  frame  : Option PmcFrame
  injGt  : Vector Nat 4
  hist   : List PmcRes
  refBad : Bool
  spiErr : Bool
  refOk  : Bool
  cont   : Bool
  ready  : Bool
deriving DecidableEq, Repr

/-! ### Weirs (chapter 11) -/

/-- A threshold of a Weir beside its code: the last write of it, the instant from which staleness counts, whether it is stale,
and the readback results that wait for their checks, oldest first (code, start of its conversion) (R412, R413). -/
structure ThrSt where
  wr    : Nat
  chk   : Nat
  stale : Bool
  res   : List (Int × Nat)
deriving DecidableEq, Repr

/-- A Weir beside its registers: outputs U and D, the input in µV and the instant it moved there, the entry to UNRESOLVED
and the instant from which samples may have been safe, the end of the present gate window, the windows opened ahead
of a launch to come (the launch, the end), whether the set input acts and
when it last did, the last clear that took effect or found the latch clear (true: took effect), the window of the last
WMN_TRIP, both thresholds, and whether WMN_RB_STALE waits for a check (R397 to R413). -/
structure WeirSt where
  u       : Bool
  d       : Bool
  level   : Int
  levelAt : Nat
  unres   : Option Nat
  safeAt  : Nat
  gEnd    : Nat
  gNext   : List (Int × Nat)
  act     : Bool
  actAt   : Option Nat
  clrAt   : Option (Nat × Bool)
  tripWin : Option Int
  hi      : ThrSt
  lo      : ThrSt
  raised  : Bool
deriving DecidableEq, Repr

/-! ### Berm and DRAM (chapter 13) -/

/-- A dump of the history ring in progress (R477): the ring, the frames still to be copied, oldest first, and whether the next
turn in the DRAIN slots is its own. -/
structure Dump where
  ring : Nat
  todo : List Frame
  turn : Bool
deriving DecidableEq, Repr

/-- Memory state: an initialisation running (R471), the last tick and the last known access of each channel (R464), channels
that have yet to take new delays after a band change or a write, the delays in force by 32 c + w, the last self-refresh exit
that still inhibits entry (R465), lines queued for write-back (bank, line, instant; R449), the history, spillway and drain
shares as last placed (R457), the history ring, outputs counted for DECIM, the dump. -/
structure MemSt where
  initRun : Bool
  tick    : Vector Nat 4
  used    : Vector Nat 4
  bandDue : Nat
  dlyDue  : Nat
  dly     : Tab Word
  srExit  : Vector (Option Nat) 4
  wb      : List (Nat × Nat × Nat)
  share   : Nat × Nat × Nat
  hist    : List Frame
  histN   : Vector Nat 4
  dump    : Option Dump
deriving DecidableEq, Repr

/-! ### Modes, power and the NV store (chapter 14) -/

/-- Power state beside the registers: challenges drawn, application cores running, the boot-failure state of R508 and whether
it is that of the Gnowa monitor, the boot step to complete next (0: no boot runs), the wake instant, the instant from which
the enables may rise again (R525), that at which the present step's enable was driven (R504), the groups whose monitors are
armed (bit k: PWR_ENk; R523), the rails that have dipped since (bit k: a rail of group k; bit 4: VDD_CORE), whether STATUS
reports rails and oscillator again after a cold reset (log 94), PORST_N and PERST_N held low, VDD_AON present, the instant
from which the present ladder state counts and the ns each state holds beyond whole ms, when the RTC started, whether a boot
with APP held skipped steps 9 and 10 (R554), and the SECURITY_VERSIONs that the last boot found in slots A and B (0 Gnowa
monitor, 1 application). -/
structure PwrSt where
  chal     : Nat
  appUp    : Bool
  bootFail : Bool
  gnowaBad : Bool
  step     : Nat
  wakeAt   : Nat
  enableAt : Nat
  stepAt   : Nat
  good     : Nat
  low      : Nat
  shown    : Bool
  porst    : Bool
  perst    : Bool
  aon      : Bool
  since    : Nat
  resNs    : Vector Nat 7
  rtcAt    : Option Nat
  skipped  : Bool
  slotVer  : Vector (Nat × Nat) 2
deriving DecidableEq, Repr

/-- An NV_WRITE in progress (R514, R515). -/
structure NvWrite where
  cmd  : Cmd
  off  : Nat
  data : List Byte
  from_ : Nat
deriving DecidableEq, Repr

/-- The NV store: what has been written to it, the write in progress, the RWP records that the Polder has stored, of which the
manual gives the content and not the layout (R406, R410, R445, log 84), and the minimum SECURITY_VERSION of the images (0
Gnowa monitor, 1 application; R507, log 95). -/
structure NvSt where
  bytes   : Tab Byte
  wr      : Option NvWrite
  records : List (Nat × Word)
  minVer  : Vector Nat 2
deriving DecidableEq, Repr

/-! ### A fibre engine beside its registers -/

/-- The grid anchor and how the next arming sets it (R37 to R41, R57), arming and disarming, the next launch, the accepted
marker, last number and launch, the launches of the last 200 µs, the instant from which LATE_TO counts, the grid time before
which the present arming launches nothing (R40), whether the trip time is taken; the segment being played, those that left
the DACs within the delay of the loopback, pair members next, Raman count; gate windows, since when gates are active, duty
counts, the window and instant they stand at, and the limits exceeded by the end of an ended window that no trip has taken
yet, STATIC gates, POL of each gate as last written since the cold reset (R527), the end of the ENV contribution, clamp
accounting; shots launched and unfinished, oldest first; shots of finished frames whose windows ended in the last 2^18 ns,
with those ends; commit parts due; SENTINEL form; config epoch; what waits for the next launched shot; the last lateness,
and whether it overtopped since it was armed; whether a word read with two bits in error has entered the state of the signal
path since then (R450); state of the signal path. -/
structure FeSt where
  anchorS     : Nat
  anchorT     : Int
  lastExt     : Bool
  needAnchor  : Bool
  arm         : Option Arming
  disarm      : Option Disarming
  next        : Option NextShot
  marker      : Option Marker
  lastNum     : Option Nat
  lastLaunch  : Option Nat
  launches    : List Nat
  lateFrom    : Nat
  bound       : Int
  tripSeen    : Bool
  seg         : Option Playing
  past        : List Played
  pairNext    : Nat
  ramanCnt    : Nat
  wins        : List GateWin
  gateOn      : Vector (Option Nat) 4
  gateNs      : Vector Nat 4
  dacCnt      : Nat
  dutyWin     : Int
  dutyOver    : Nat
  syncAt      : Nat
  staticOn    : Vector Bool 4
  gatePol     : Vector (Option Bool) 4
  envUntil    : Nat
  clampWin    : Option Int
  clampDone   : Nat
  recs        : List Shot
  ends        : List (Nat × Nat)
  due         : List DuePart
  sent        : Option SentForm
  epoch       : Nat
  phInit      : Bool
  armFirst    : Bool
  phRe        : Nat
  pairNew     : Nat
  acfRe       : Bool
  evtRe       : Bool
  swap        : List Bool
  refValid    : Nat
  idx         : Nat
  late        : Nat
  overtop     : Bool
  poison      : Bool
  chFailSince : Option Nat
  calPend     : List CalUpd
  phs         : PhsSt
  acf         : AcfSt
  dts         : DtsSt
  evt         : EvtSt
deriving DecidableEq, Repr

def PhsSt.init : PhsSt := ⟨[], 0, Vector.replicate 4 none, none, 0, 0⟩
def AcfSt.init : AcfSt := ⟨[], [], 0, [], false, none, none, [], none⟩
def DtsSt.init : DtsSt := ⟨none, false, [], [], 0⟩
def EvtSt.init : EvtSt := ⟨[], false, [], [], false, [], [], 0, 0, 0, [], 0, [], false⟩

/-- A fibre engine after cold reset: its anchor is (0, epoch), with epoch 0 (R35; log 12). -/
def FeSt.init : FeSt where
  anchorS := 0
  anchorT := 0
  lastExt := false
  needAnchor := false
  arm := none
  disarm := none
  next := none
  marker := none
  lastNum := none
  lastLaunch := none
  launches := []
  lateFrom := 0
  bound := 0
  tripSeen := false
  seg := none
  past := []
  pairNext := 0
  ramanCnt := 0
  wins := []
  gateOn := Vector.replicate 4 none
  gateNs := Vector.replicate 4 0
  dacCnt := 0
  dutyWin := 0
  dutyOver := 0
  syncAt := 0
  staticOn := Vector.replicate 4 false
  gatePol := Vector.replicate 4 none
  envUntil := 0
  clampWin := none
  clampDone := 0
  recs := []
  due := []
  sent := none
  epoch := 0
  phInit := false
  armFirst := false
  phRe := 0
  pairNew := 0
  acfRe := false
  evtRe := false
  swap := []
  refValid := 0
  idx := 0
  late := 0
  overtop := false
  poison := false
  chFailSince := none
  ends := []
  calPend := []
  phs := PhsSt.init
  acf := AcfSt.init
  dts := DtsSt.init
  evt := EvtSt.init

/-! ### The whole state -/

/-- The state of the block. `pending` is the queue of commands, first in, first out. -/
structure State where
  pending : List Instr
  now     : Nat
  gtOff   : Int
  regs    : Tab Word
  tables  : Tab Word
  hostMem : Tab Byte
  outbox  : List OutMsg
  freeIdx : Nat
  safeN   : Bool
  snaps   : Tab Word
  hif     : HifSt
  spill   : SpillSt
  tim     : TimSt
  fe      : Vector FeSt 4
  acq     : AcqSt
  trk     : TrkSt
  sch     : SchSt
  pmc     : PmcSt
  wmn     : Vector WeirSt 16
  flt     : FltSt
  mem     : MemSt
  pwr     : PwrSt
  nvs     : NvSt
deriving DecidableEq, Repr

/-- Configuration space at its PCIe reset values (R354, log 20). -/
def PciSt.init : PciSt := ⟨0, 0, 2, 0, 0x00062030, 0, #v[4, 0, 4, 0], false⟩

def HifSt.init : HifSt where
  rings := Vector.replicate 20 ⟨[], [], none, []⟩
  cpls := Vector.replicate 16 ⟨0, none, []⟩
  strs := Vector.replicate 32 ⟨[], none, false⟩
  heldCpl := []
  intRing := Vector.replicate 4 []
  msixEn := false
  msixMask := false
  msixTable := []
  pba := 0
  seq := Vector.replicate 18 0
  staged := []
  diverted := Vector.replicate 4 false
  inFlight := []
  log := []
  logOpen := false
  detachCmd := []
  dormCmd := none
  freshAt := 0
  fresh := []
  pci := PciSt.init

def TimSt.init : TimSt := ⟨false, none, ⟨none, [], none⟩, ⟨none, [], none⟩, 0, 0, 0⟩
def BgBlk.init : BgBlk := ⟨[], none, 0, [], []⟩
def BlindBlk.init : BlindBlk := ⟨0, 0, 0, 0, []⟩
def AcqSt.init : AcqSt :=
  ⟨none, [], Vector.replicate 24 none, Vector.replicate 24 BgBlk.init, Vector.replicate 8 BlindBlk.init, Vector.replicate 24 0⟩
def QinSt.init : QinSt := ⟨none, none, none, false, [], false, false, false, 0, false, none, none, []⟩
def EncSt.init : EncSt := ⟨0, false, false, 0⟩
def TrkSt.init : TrkSt :=
  ⟨Vector.replicate 2 QinSt.init, Vector.replicate 12 0, [], Vector.replicate 2 ⟨0, false, 0, 0⟩, Vector.replicate 4 EncSt.init,
    none⟩
def SchSt.init : SchSt := ⟨Vector.replicate 4 none, none, Vector.replicate 8 none, [], 0, 0⟩
def PmcSt.init : PmcSt :=
  ⟨none, false, 0, 1, 0, 0, 0, false, Vector.replicate 4 0, none, none, Vector.replicate 4 0, [], false, false, false, false, false⟩
def ThrSt.init : ThrSt := ⟨0, 0, false, []⟩
def WeirSt.init : WeirSt := ⟨false, false, 0, 0, none, 0, 0, [], false, none, none, none, ThrSt.init, ThrSt.init, false⟩
def FltSt.init : FltSt :=
  ⟨Vector.replicate 128 .ok, Vector.replicate 128 true, Vector.replicate 128 true, none, none, false, none, 0, none⟩
def MemSt.init : MemSt :=
  ⟨false, Vector.replicate 4 0, Vector.replicate 4 0, 0, 0, [], Vector.replicate 4 none, [], (0, 0, 0), [],
    Vector.replicate 4 0, none⟩

/-- The power state after cold reset: the rails are up, and the boot sequence stands before step 5 (log 5). -/
def PwrSt.init : PwrSt where
  chal := 0
  appUp := false
  bootFail := false
  gnowaBad := false
  step := 5
  wakeAt := 0
  enableAt := 0
  stepAt := 0
  good := 15
  low := 0
  shown := false
  porst := false
  perst := false
  aon := true
  since := 0
  resNs := Vector.replicate 7 0
  rtcAt := none
  skipped := false
  slotVer := Vector.replicate 2 (0, 0)

/-- The machine right after cold reset with the main rails up: every register at its reset value (R548), mode BOOT (R517),
grid time 0 from power-up (R19), DETACHED (R349), memory, tables and queues empty; the pins idle (log 4, 5). -/
def State.reset : State where
  pending := []
  now := 0
  gtOff := 0
  regs := []
  tables := []
  hostMem := []
  outbox := []
  freeIdx := 0
  safeN := false
  snaps := []
  hif := HifSt.init
  spill := ⟨[], []⟩
  tim := TimSt.init
  fe := Vector.replicate 4 FeSt.init
  acq := AcqSt.init
  trk := TrkSt.init
  sch := SchSt.init
  pmc := PmcSt.init
  wmn := Vector.replicate 16 WeirSt.init
  flt := FltSt.init
  mem := MemSt.init
  pwr := PwrSt.init
  nvs := ⟨[], none, [], Vector.replicate 2 0⟩

end Sys2Proof.Machine
end

