-- ==== Sys2Proof/Machine/Ops.lean ====
section
/-! DEFINITION. The named operations every meaning is written with: the clock, the register file, events and
interrupts, counters, table words, host memory and free values. -/

namespace Sys2Proof.Machine

/-! ### Time (R19, R21) -/

/-- Grid time of an elapsed instant (R21). -/
def State.gridOf (s : State) (t : Nat) : Int := (t : Int) + s.gtOff

/-- Grid time now, as the 64-bit count. -/
def State.gt (s : State) : Nat := (s.gridOf s.now % 2 ^ 64).toNat

/-- The window of 2^20 ns, aligned to grid multiples, that holds an elapsed instant (R74, R111, R399). -/
def State.dutyWinAt (s : State) (t : Nat) : Int := s.gridOf t / 1048576

/-- The elapsed instant of a grid time; instants before power-up count as 0. -/
def State.elapsedOf (s : State) (g : Int) : Nat := (g - s.gtOff).toNat

/-! ### The register file (R12, R548) -/

/-- Bit i of a field, as a field. -/
def FRef.bit (f : FRef) (i : Nat) : FRef := ⟨f.off, f.lo + i, 1⟩

/-- The stored word of a register. -/
def State.reg (s : State) (off : Nat) : Word := tget (resetOf off) s.regs off

/-- Store a register word; a word at its reset value is not listed. -/
def State.setReg (s : State) (off : Nat) (v : Word) : State := { s with regs := tput (resetOf off) s.regs off v }

/-- The unsigned value of a field of a word. -/
def FRef.of (f : FRef) (w : Word) : Nat := w.toNat / 2 ^ f.lo % 2 ^ f.w

/-- A word with a field replaced. -/
def FRef.put (f : FRef) (w : Word) (x : Nat) : Word :=
  BitVec.ofNat 32 (w.toNat - f.of w * 2 ^ f.lo + x % 2 ^ f.w * 2 ^ f.lo)

/-- A field in a register file held apart from the state: the settings of a shot, or those a check looks ahead to. -/
def rget (r : Tab Word) (f : FRef) : Nat := f.of (tget (resetOf f.off) r f.off)

/-- The same, two's complement. -/
def rgetI (r : Tab Word) (f : FRef) : Int := sext (rget r f) f.w

/-- The same, as a Boolean. -/
def ron (r : Tab Word) (f : FRef) : Bool := rget r f == 1

/-- A field of a register, unsigned. -/
def State.get (s : State) (f : FRef) : Nat := rget s.regs f

/-- A field of a register, two's complement. -/
def State.getI (s : State) (f : FRef) : Int := sext (s.get f) f.w

/-- Is a one-bit field 1? -/
def State.on (s : State) (f : FRef) : Bool := s.get f == 1

/-- Write a field of a register, unchecked: the device's own writes. -/
def State.set (s : State) (f : FRef) (x : Nat) : State := s.setReg f.off (f.put (s.reg f.off) x)

/-- Write a signed value to a field. -/
def State.setI (s : State) (f : FRef) (x : Int) : State := s.set f (uenc x f.w)

/-- Write a Boolean to a one-bit field. -/
def State.setB (s : State) (f : FRef) (b : Bool) : State := s.set f b.toNat

/-- A pair of registers as one 64-bit value, low word first. -/
def State.get2 (s : State) (lo hi : FRef) : Nat := s.get lo + 2 ^ 32 * s.get hi

/-- Write a pair of registers. -/
def State.set2 (s : State) (lo hi : FRef) (v : Nat) : State := (s.set lo v).set hi (v / 2 ^ 32)

/-- Add to a counting field that saturates. -/
def State.addSat (s : State) (f : FRef) (n : Nat) : State := s.set f (min (s.get f + n) (2 ^ f.w - 1))

/-- Add to a counting field that wraps. -/
def State.addWrap (s : State) (f : FRef) (n : Nat) : State := s.set f (s.get f + n)

/-- Bring the clock to the instant of a command; time never runs backwards (log 3). The config epoch counts an internal
SENTINEL group once its t_b has passed (R488, R312). -/
def State.at (s : State) (t : Nat) : State :=
  let s1 := { s with now := max s.now t }
  let due := s.sch.sentTb.filter (fun b => decide (b ≤ s1.gridOf s1.now))
  if due.isEmpty then s1
  else
    { s1.addWrap SCH_EPOCH_EPOCH due.length with
      sch := { s.sch with sentTb := s.sch.sentTb.filter (fun b => decide (s1.gridOf s1.now < b)) } }

/-! ### Table words (R546) -/

/-- What a table word reads at cold reset: 0, but for word 0 of each FIR bank (R182, R548). -/
def tableReset (off : Nat) : Word :=
  if 0x580000 ≤ off ∧ off < 0x584000 ∧ off % 0x400 = 0 then 0x10000 else 0

/-- A table word. -/
def State.tword (s : State) (off : Nat) : Word := tget (tableReset off) s.tables off

/-- Store a table word. -/
def State.setTword (s : State) (off : Nat) (v : Word) : State :=
  { s with tables := tput (tableReset off) s.tables off v }

/-- Store consecutive table words. -/
def State.setTwords (s : State) (off : Nat) : List Word → State
  | [] => s
  | v :: vs => (s.setTword off v).setTwords (off + 4) vs

/-! ### Free values -/

/-- Move past the present free value (log 1). -/
def State.nextFree (s : State) : State := { s with freeIdx := s.freeIdx + 1 }

/-! ### Host memory: what the device has written (R323, R336) -/

/-- Write bytes to a byte memory. -/
def writeBytes (m : Tab Byte) (addr : Nat) : List Byte → Tab Byte
  | [] => m
  | b :: bs => writeBytes (tput 0 m addr b) (addr + 1) bs

/-- HIF.STATUS.ATTACH: 0 ATTACHED, 1 DETACHED, 2 HOLD. -/
def State.attach (s : State) : Nat := s.get HIF_STATUS_ATTACH

/-- DMA write; while DETACHED nothing leaves (R349). -/
def State.dmaWrite (s : State) (addr : Nat) (bs : List Byte) : State :=
  { s with hostMem := if s.attach = 1 then s.hostMem else writeBytes s.hostMem addr bs }

/-! ### The NV store (R512) -/

/-- Offsets of the copies in region 6 (R512): ACQ CALF, PMC CALF, the DRAM delay record, the reattach log; and of the last
four fatal records in region 1, whose place there is not stated (R430, log 84). -/
def nvAcqCal : Nat := 0x138000
def nvPmcCal : Nat := 0x138800
def nvDelays : Nat := 0x139000
def nvLog : Nat := 0x139800
def nvFatal : Nat := 0x7F00

/-- Bytes of the NV store. -/
def State.nvBytes (s : State) (off len : Nat) : List Byte := (List.range len).map (fun i => tget 0 s.nvs.bytes (off + i))

/-- Write bytes of the NV store. -/
def State.nvPut (s : State) (off : Nat) (bs : List Byte) : State :=
  { s with nvs := { s.nvs with bytes := writeBytes s.nvs.bytes off bs } }

/-! ### Modes and attachment in brief -/

/-- The operating mode (R481): 0 DORMANT, 1 BOOT, 2 COMMISSION, 3 INTERROGATE, 4 SENTINEL, 5 TEST, 6 RECOVERY,
7 SAFE_HOLD. -/
def State.mode (s : State) : Nat := s.get PWR_MODE_MODE

/-- The ladder state (R494). -/
def State.ladder (s : State) : Nat := s.get PWR_MODE_LADDER

/-- The main domain runs: VDD_AON is there, its rails are up, and PORST_N does not hold it in reset (R494, R504, R528). In
DORMANT it still does until the power-down begins (R486). -/
def State.mainUp (s : State) : Bool :=
  s.pwr.aon && !s.pwr.porst && decide (s.ladder ≤ 4) && !(decide (1 ≤ s.pwr.step ∧ s.pwr.step ≤ 4))

/-- Are the rails of PWR_ENk there: their monitors are armed (R523)? -/
def State.railGroup (s : State) (k : Nat) : Bool := s.pwr.good.testBit k

/-- The scopes contained (R422). -/
def State.contained (s : State) (scope : Nat) : Bool := (s.get FLT_STATUS_CONTAINED).testBit scope

/-! ### W1C bits (R16) -/

/-- W1C bits of a register that their sources have set in this cycle. -/
def State.freshBits (s : State) (off : Nat) : Nat := if s.hif.freshAt / 4 = s.now / 4 then tget 0 s.hif.fresh off else 0

/-- Note W1C bits as set in this cycle; a clear in the same cycle leaves them set (R16). A cycle is 4 ns of elapsed time, as
is typical of the collector (log 67). -/
def State.note (s : State) (off m : Nat) : State :=
  let old := if s.hif.freshAt / 4 = s.now / 4 then s.hif.fresh else []
  { s with hif := { s.hif with freshAt := s.now, fresh := tput 0 old off (tget 0 old off ||| m) } }

/-- A source sets a one-bit W1C field. -/
def State.set1 (s : State) (f : FRef) : State := (s.note f.off (2 ^ f.lo)).set f 1

/-- Sources set W1C bits of a register. -/
def State.orReg (s : State) (off m : Nat) : State := (s.note off m).setReg off (s.reg off ||| BitVec.ofNat 32 m)

/-! ### Events and interrupts (R348) -/

/-- Word of the MSI-X table at its reset value: every vector masked (log 20). -/
def msixReset (i : Nat) : Word := if i % 4 = 3 then 1 else 0

/-- A word of the MSI-X table. -/
def State.msixWord (s : State) (i : Nat) : Word := tget (msixReset i) s.hif.msixTable i

/-- May a vector's message be sent now: MSI-X enabled and unmasked, and the link usable (R348, R349, R428)? -/
def State.msixOpen (s : State) (vec : Nat) : Bool :=
  s.hif.msixEn && !s.hif.msixMask && !(s.msixWord (4 * vec + 3)).toNat.testBit 0
    && s.attach != 1 && s.mode != 7

/-- Raise an MSI-X vector: send its message, or set its pending bit. -/
def State.msix (s : State) (vec : Nat) : State :=
  if s.msixOpen vec then
    { s with outbox := s.outbox ++ [.msix vec ((s.msixWord (4 * vec)).toNat
        + 2 ^ 32 * (s.msixWord (4 * vec + 1)).toNat) (s.msixWord (4 * vec + 2)).toNat] }
  else { s with hif := { s.hif with pba := s.hif.pba ||| 2 ^ vec } }

/-- Send the messages of pending vectors that may now be sent (PCIe 5.0, R348). -/
def State.msixFlush (s : State) : State :=
  (List.range 64).foldl (fun s v =>
    if s.hif.pba.testBit v && s.msixOpen v then
      { s with hif := { s.hif with pba := s.hif.pba - 2 ^ v } }.msix v else s) s

/-- Set an event bit; when it becomes set and INT_EN (the register after EVENTS) enables it, raise the block's vector
(R348). -/
def State.ev (s : State) (f : FRef) : State :=
  if s.on f then s.note f.off (2 ^ f.lo)
  else
    let s1 := s.set1 f
    if (s1.reg (f.off + 4)).toNat.testBit f.lo then s1.msix (s1.get (HIF_IRQ_VEC_VEC (f.off / 0x10000))) else s1

/-- Log an uncorrectable error in AER, by its status bit; its severity bit tells ERR_FATAL from ERR_NONFATAL (R316, log 20).
-/
def State.aerUnc (s : State) (bit : Nat) : State :=
  { s with
    hif := { s.hif with pci := { s.hif.pci with unc := s.hif.pci.unc ||| 2 ^ bit } }
    outbox := s.outbox ++ [.aer (if s.hif.pci.sev.testBit bit then 2 else 1)] }

/-- The AER report of a fault class while the link is up (R316): C a Corrected, U an Uncorrectable Internal Error, F
ERR_FATAL. -/
def State.aer (s : State) (cls : Nat) : State :=
  if s.attach = 1 then s
  else if cls = 0 then
    { s with hif := { s.hif with pci := { s.hif.pci with cor := s.hif.pci.cor ||| 2 ^ 14 } }, outbox := s.outbox ++ [.aer 0] }
  else if cls = 1 then s.aerUnc 22
  else { s with outbox := s.outbox ++ [.aer 2] }

/-- The record of the present detachment, while one is open, takes counts (R358). -/
def State.logMod (s : State) (f : LogRec → LogRec) : State :=
  if s.hif.logOpen then
    match s.hif.log.reverse with
    | [] => s
    | r :: rs => { s with hif := { s.hif with log := (f r :: rs).reverse } }
  else s

/-! ### Fault sources (R416, R555) -/

/-- The sticky bit of source i is set; the open log record of a detachment notes a bit that becomes set (R358, R418). -/
def State.stickySet (s : State) (i : Nat) : State :=
  let w := i / 32
  let bit := BitVec.ofNat 32 (2 ^ (i % 32))
  let s1 := s.orReg (FLT_STICKY w) (2 ^ (i % 32))
  if s1.attach = 1 ∧ s.reg (FLT_STICKY w) &&& bit = 0 then
    s1.logMod (fun r => { r with sticky := lset r.sticky w (r.sticky.getD w 0 ||| bit) })
  else s1

/-- The pair of a source reads (1,0) from now on. A check that fails inside an injection window of the same source
sets its sticky bit and OVERLAP (R442). -/
def State.present (s : State) (src : Nat) : State :=
  let s1 := { s with flt := { s.flt with rails := vset s.flt.rails src .err } }
  match s.flt.inj with
  | some j =>
    if j.src = src then
      let s2 := s1.stickySet src
      ({ s2 with flt := { s2.flt with inj := some { j with overlap := true, real := true } } }.set FLT_INJ_OVERLAP 1).ev
        FLT_EVENTS_OVERLAP
    else s1
  | none => s1

/-- The pair of a source returns to (0,1), which arms its capture again (R418, R555). While an injection drives the
source the pair stays as driven (R442). -/
def State.unpresent (s : State) (src : Nat) : State :=
  { s with flt := { s.flt with
      rails := vset s.flt.rails src .ok
      armed := vset s.flt.armed src true
      wireArmed := vset s.flt.wireArmed src true } }

/-! ### DRAM accesses (R464) -/

/-- Accesses of the DRAM channels of a mask. -/
def State.memUsed (s : State) (mask : Nat) : State :=
  { s with mem := { s.mem with used := Vector.ofFn (fun (c : Fin 4) => if mask.testBit c.val then s.now else vget 0 s.mem.used c.val) } }

end Sys2Proof.Machine
end

