-- ==== Sys2Proof/Machine/Hif.lean ====
section
/-! DEFINITION. The host interface (chapter 09): rings and doorbells, completions and the duplicate window, stream
buffers, the spillway, link loss and the reattach log. -/

namespace Sys2Proof.Machine

/-! ### Ring records and the fields of ring registers -/

def State.ring (s : State) (r : Nat) : RingSt := vget ⟨[], [], none, []⟩ s.hif.rings r
def State.setRing (s : State) (r : Nat) (x : RingSt) : State :=
  { s with hif := { s.hif with rings := vset s.hif.rings r x } }
def State.cplRing (s : State) (k : Nat) : CplSt := vget ⟨0, none, []⟩ s.hif.cpls k
def State.setCplRing (s : State) (k : Nat) (x : CplSt) : State :=
  { s with hif := { s.hif with cpls := vset s.hif.cpls k x } }
def State.strRing (s : State) (m : Nat) : StrSt := vget ⟨[], none, false⟩ s.hif.strs m
def State.setStrRing (s : State) (m : Nat) (x : StrSt) : State :=
  { s with hif := { s.hif with strs := vset s.hif.strs m x } }

/-- The registers of a ring, by kind: CTL.EN, CTL.SIZE_LOG2, CTL.STATE, HEAD, TAIL (R360). -/
def ringEn : RingKind → Nat → FRef
  | .cmd, k => HIF_CMD_CTL_EN k
  | .cpl, k => HIF_CPL_CTL_EN k
  | .str, k => HIF_STR_CTL_EN k
def ringSize : RingKind → Nat → FRef
  | .cmd, k => HIF_CMD_CTL_SIZE_LOG2 k
  | .cpl, k => HIF_CPL_CTL_SIZE_LOG2 k
  | .str, k => HIF_STR_CTL_SIZE_LOG2 k
def ringState : RingKind → Nat → FRef
  | .cmd, k => HIF_CMD_CTL_STATE k
  | .cpl, k => HIF_CPL_CTL_STATE k
  | .str, k => HIF_STR_CTL_STATE k
def ringHead : RingKind → Nat → FRef
  | .cmd, k => HIF_CMD_HEAD_INDEX k
  | .cpl, k => HIF_CPL_HEAD_INDEX k
  | .str, k => HIF_STR_HEAD_INDEX k
def ringTail : RingKind → Nat → FRef
  | .cmd, k => HIF_CMD_TAIL_INDEX k
  | .cpl, k => HIF_CPL_TAIL_INDEX k
  | .str, k => HIF_STR_TAIL_INDEX k
def ringBase (s : State) : RingKind → Nat → Nat
  | .cmd, k => s.get2 (HIF_CMD_BASE_LO_BASE k) (HIF_CMD_BASE_HI_BASE k)
  | .cpl, k => s.get2 (HIF_CPL_BASE_LO_BASE k) (HIF_CPL_BASE_HI_BASE k)
  | .str, k => s.get2 (HIF_STR_BASE_LO_BASE k) (HIF_STR_BASE_HI_BASE k)
/-- How many rings of a kind there are. -/
def ringCount : RingKind → Nat
  | .cmd => 16
  | .cpl => 16
  | .str => 32

/-- Is k the number of a ring of the kind? -/
def ringOk (kind : RingKind) (k : Nat) : Bool := decide (k < ringCount kind)

/-- Entries of a ring. -/
def State.ringEntries (s : State) (kind : RingKind) (k : Nat) : Nat := 2 ^ s.get (ringSize kind k)

/-- (a − b) mod 2^16 (R318). -/
def idxSub (a b : Nat) : Nat := (a + 65536 - b % 65536) % 65536

/-- tail − head: entries outstanding. -/
def State.ringUsed (s : State) (kind : RingKind) (k : Nat) : Nat :=
  idxSub (s.get (ringTail kind k)) (s.get (ringHead kind k))

/-! ### The reattach log (R358) -/

def LogStream.empty : LogStream := ⟨0, 0, 0, 0, 0⟩

/-- Change the entry of one stream in the open record. -/
def State.logStream (s : State) (st : Nat) (f : LogStream → LogStream) : State :=
  s.logMod (fun r => { r with streams := lset r.streams st (f (r.streams.getD st LogStream.empty)) })

/-- A lost frame in an entry: its sequence number is the last lost, and the first where none was lost before. -/
def LogStream.lost (e : LogStream) (seq : Nat) : LogStream :=
  { e with first := if e.discarded + e.overwritten = 0 then seq else e.first, last := seq }

/-- Mark LOSS on the ring of a stream (R336). -/
def State.markLoss (s : State) (st : Nat) : State :=
  let m := s.get (HIF_SMAP_RING st)
  s.setStrRing m { s.strRing m with loss := true }

/-- Record a discarded frame in the log and on its ring. -/
def State.logDiscard (s : State) (f : Frame) : State :=
  (s.logStream f.stream (fun e => { e.lost f.seq with discarded := e.discarded + 1 })).markLoss f.stream

/-- Record an overwritten frame. -/
def State.logOverwrite (s : State) (f : Frame) : State :=
  (s.logStream f.stream (fun e => { e.lost f.seq with overwritten := e.overwritten + 1 })).markLoss f.stream

/-! ### Completions (R323, R334, R348, R350, R355) -/

/-- The 32 bytes of a completion at index i of a ring of n entries (R323). -/
def cplBytes (c : Cpl) (i n : Nat) : List Byte :=
  leBytes 4 c.cmd.reqId.toNat ++ leBytes 2 c.cmd.opcode ++ leBytes 1 c.status
    ++ leBytes 1 ((if i / n % 2 = 0 then 1 else 0) + (if c.held then 2 else 0))
    ++ leBytes 2 c.result ++ leBytes 1 c.cmd.ring ++ leBytes 1 0 ++ leBytes 4 c.value
    ++ leBytes 8 c.cmd.cookie.toNat ++ leBytes 8 c.gt

/-- Raise the vector of a completion ring: nothing stays unsignalled (R348). -/
def State.cplSignal (s : State) (k : Nat) : State :=
  (s.setCplRing k { s.cplRing k with unsig := 0, firstAt := none }).msix (s.get (HIF_CPL_CTL_VEC k))

/-- Count a written completion towards its interrupt (R348). -/
def State.cplCoalesce (s : State) (k : Nat) (irq : Bool) : State :=
  let x := s.cplRing k
  let n := x.unsig + 1
  if irq || decide (s.get (HIF_CPL_CTL_COAL_CNT k) ≤ n) || decide (s.get (HIF_CPL_COAL_US_US k) = 0) then s.cplSignal k
  else s.setCplRing k { x with unsig := n, firstAt := some (x.firstAt.getD s.now) }

/-- Count DUPLICATE and REJECTED completions as they are posted (R325, R331). -/
def State.cplCount (s : State) (c : Cpl) : State :=
  if c.status = 1 then (s.addSat (HIF_CMD_DUP_CNT_COUNT c.cmd.ring) 1).ev HIF_EVENTS_DUPLICATE
  else if c.status = 2 then s.addSat (HIF_CMD_REJ_CNT_COUNT c.cmd.ring) 1
  else s

/-- Write a completion to its ring, which has space (R323, R324). -/
def State.cplWrite (s : State) (c : Cpl) : State :=
  let k := c.ring
  let i := s.get (HIF_CPL_TAIL_INDEX k)
  let n := s.ringEntries .cpl k
  let s1 := (s.dmaWrite (ringBase s .cpl k + 32 * (i % n)) (cplBytes c i n)).set (HIF_CPL_TAIL_INDEX k) (i + 1)
  let s2 := s1.setCplRing k { s1.cplRing k with unconf := (s1.cplRing k).unconf ++ [c] }
  (s2.cplCount c).cplCoalesce k c.cmd.irq

/-- Has completion ring k a free slot (R334)? -/
def State.cplRoom (s : State) (k : Nat) : Bool := decide (s.ringUsed .cpl k < s.ringEntries .cpl k)

/-- May completions be written to ring k: it is RUNNING or STOPPING, and the link is there (R321, R350)? -/
def State.cplOpen (s : State) (k : Nat) : Bool :=
  (s.get (HIF_CPL_CTL_STATE k) == 1 || s.get (HIF_CPL_CTL_STATE k) == 2) && s.attach != 1

/-- Hold a completion; it counts in the record of the log that is open from a detachment to SPILL_DRAIN (R350, R351, R358). -/
def State.cplHold (s : State) (c : Cpl) : State :=
  { s with hif := { s.hif with heldCpl := s.hif.heldCpl ++ [c] } }.logMod (fun r => { r with held := r.held + 1 })

/-- Post a completion, or hold it (R334, R350). None is posted in SAFE_HOLD (R327); those of the internal rings stay
inside the device (R330). -/
def State.post (s : State) (c : Cpl) : State :=
  if s.mode = 7 then s
  else if 16 ≤ c.cmd.ring then
    let k := c.cmd.ring - 16
    { s with hif := { s.hif with intRing := vset s.hif.intRing k (vget [] s.hif.intRing k ++ [c]) } }
  else if s.cplOpen c.ring then
    if s.cplRoom c.ring && !(s.hif.heldCpl.any (fun d => d.ring == c.ring)) then s.cplWrite c
    else (s.cplHold c).ev HIF_EVENTS_CPL_FULL
  else s.cplHold c

/-- A completion of a command: the completion ring is the one its command ring is mapped to (R360). -/
def State.mkCpl (s : State) (c : Cmd) (status result value : Nat) : Cpl :=
  ⟨c, status, result, value, s.gt, s.get (HIF_CMD_CTL_CPL c.ring), false⟩

/-- Post held completions of ring k in order while there is space; `mark` sets HELD (R334, R355). -/
def flushHeld (k : Nat) (mark : Bool) : List Cpl → State → State
  | [], s => s
  | c :: cs, s =>
    if c.ring = k ∧ s.cplRoom k then flushHeld k mark cs (s.cplWrite { c with held := c.held || mark })
    else
      flushHeld k mark cs { s with hif := { s.hif with heldCpl := s.hif.heldCpl ++
        [if c.ring = k then { c with held := c.held || mark } else c] } }

/-- Post what is held for ring k; CPL_FULL says that some is still held for space. -/
def State.cplRelease (s : State) (k : Nat) (mark : Bool) : State :=
  if s.cplOpen k && s.mode != 7 then
    let s1 := flushHeld k mark s.hif.heldCpl { s with hif := { s.hif with heldCpl := [] } }
    if s1.hif.heldCpl.any (fun d => d.ring == k) then s1.ev HIF_EVENTS_CPL_FULL else s1
  else s

/-- A command completes with STATUS DONE: its window entry takes the result, and duplicates that waited for it
complete after it, those of an entry that CLEAR_IDS has taken out of the window included (R324, R331, R332). -/
def State.complete (s : State) (c : Cmd) (result value : Nat) : State :=
  let r := s.ring c.ring
  let own := fun (e : DupEnt) => e.id == c.reqId && !e.done
  let waiting := ((r.cleared ++ r.dup).filter own).flatMap (·.waiting)
  let s1 := s.setRing c.ring
    { r with
      dup := r.dup.map (fun e => if own e then ⟨e.id, result, value, true, []⟩ else e)
      cleared := r.cleared.filter (fun e => !own e)
      running := r.running.filter (fun d => d.reqId != c.reqId) }
  waiting.foldl (fun s d => s.post (s.mkCpl d 1 result value)) (s1.post (s1.mkCpl c 0 result value))

/-- The outcome completion of a staged COMMIT (R309, R329). -/
def State.outcome (s : State) (c : Cmd) (code value : Nat) : State := s.post (s.mkCpl c 3 code value)

/-- Is a command still running? -/
def State.isRunning (s : State) (c : Cmd) : Bool := (s.ring c.ring).running.any (fun d => d.reqId == c.reqId)

/-- Is any command running (R496)? -/
def State.anyRunning (s : State) : Bool := s.hif.rings.toList.any (fun r => !r.running.isEmpty)

/-- How many commands are running? -/
def State.runningCount (s : State) : Nat := s.hif.rings.toList.foldl (fun k r => k + r.running.length) 0

/-- Completions that are held or may yet come to be: of running commands and of duplicates that wait for them, of eight
groups, and those written but not confirmed. The device holds 512 (R350). -/
def State.cplDue (s : State) : Nat :=
  s.hif.heldCpl.length + s.runningCount + 8
    + s.hif.rings.toList.foldl (fun k r => (r.cleared ++ r.dup).foldl (fun k e => k + e.waiting.length) k) 0
    + s.hif.cpls.toList.foldl (fun k x => k + x.unconf.length) 0

/-! ### Fetching and starting a command (R322 to R328, R331) -/

/-- Is a descriptor at hand in its ring: a host ring that is RUNNING and not empty, or an internal ring? -/
def State.ringReady (s : State) (h : Hdr) : Bool :=
  if h.ring < 16 then s.get (HIF_CMD_CTL_STATE h.ring) == 1 && decide (s.ringUsed .cmd h.ring ≠ 0) else decide (h.ring < 20)

/-- Does FENCE let the descriptor start: it waits for every earlier command, and no later one passes it (R326)? -/
def State.fenceOpen (s : State) (h : Hdr) : Bool :=
  match (s.ring h.ring).fence with
  | some id => h.fence && id == h.reqId && (s.ring h.ring).running.isEmpty
  | none => !h.fence || (s.ring h.ring).running.isEmpty

/-- Does something serve the opcode now: the application cores, the Polder (RECOVER, FAULT_INJECT; after a boot failure
every command), or the rejection of R425 while APP is contained? Between RECOVER and the release of the cores the rings wait
(R439). -/
def State.served (s : State) (op : Nat) : Bool :=
  s.pwr.appUp || s.pwr.bootFail || s.contained 4 || op == 0x0403 || op == 0x0404

/-- May the device fetch and start this descriptor now? Host rings: RUNNING and not empty, not DETACHED, a free completion
slot, and something that serves it (R321, R334, R350, R439); internal rings: the application cores run (R330, R425). In both:
no command runs in DORMANT and SAFE_HOLD or before the work of R554 is done, at most 16 run at once, FENCE keeps its order,
and the device can hold one more completion (R326, R350, R359). -/
def State.canStart (s : State) (h : Hdr) (op : Nat) : Bool :=
  s.mode != 0 && s.mode != 7 && decide (s.ladder ≤ 3) && (s.mode == 1 || s.pwr.step == 0) && s.ringReady h &&
  decide ((s.ring h.ring).running.length < 16) && s.fenceOpen h && decide (s.cplDue < 512) &&
  (if h.ring < 16 then
    s.attach != 1 && s.served op &&
      s.cplRoom (s.get (HIF_CMD_CTL_CPL h.ring)) &&
      !(s.hif.heldCpl.any (fun d => d.ring == s.get (HIF_CMD_CTL_CPL h.ring) && s.cplOpen d.ring))
  else s.pwr.appUp)

/-- Opcodes the Polder serves after a boot failure (R508): NOP, NV_READ, NV_WRITE, SET_MODE. -/
def bootFailOp (op : Nat) : Bool := op == 0 || op == 0x0501 || op == 0x0502 || op == 0x0401

/-- Why a descriptor is rejected, if it is: reserved bits, a parameter, an application command while APP is contained,
or a boot failure (R325, R425, R508). -/
def State.rejectCode (s : State) (h : Hdr) (op : Nat) (bad : Option Nat) : Option Nat :=
  if bad = some 1 then some 1
  else if h.reserved then some 2
  else if bad.isSome then bad
  else if s.pwr.bootFail then (if bootFailOp op then none else some 6)
  else if s.contained 4 && op != 0x0403 && op != 0x0404 then some 5
  else none

/-- The head of a host command ring advances over the descriptor fetched; a FENCE waits there no longer. -/
def State.fetched (s : State) (r : Nat) : State :=
  let s1 := s.setRing r { s.ring r with fence := none }
  if r < 16 then s1.addWrap (HIF_CMD_HEAD_INDEX r) 1 else s1

/-- A FENCE descriptor that may not start yet waits at the head of its ring (R326). -/
def State.fenceWait (s : State) (h : Hdr) : State :=
  let r := s.ring h.ring
  if h.fence && s.ringReady h && r.fence.isNone && !r.running.isEmpty then s.setRing h.ring { r with fence := some h.reqId } else s

/-- The last 1,024 entries of a window, newest first; one whose command still runs stays (R331). -/
def dupKeep (l : List DupEnt) : List DupEnt := l.take 1024 ++ (l.drop 1024).filter (fun e => !e.done)

/-- Enter a command in its duplicate window, newest first, and among the running commands (R331). -/
def State.enroll (s : State) (c : Cmd) : State :=
  let r := s.ring c.ring
  s.setRing c.ring { r with dup := dupKeep (⟨c.reqId, 0, 0, false, []⟩ :: r.dup), running := r.running ++ [c] }

/-- Fetch and start a command descriptor: nothing happens where the device does not fetch it; a duplicate is answered
from the window (consulted first, log 21); a malformed one is rejected; otherwise `body` executes it. -/
def State.ringStart (s : State) (h : Hdr) (op : Nat) (bad : Option Nat) (body : Cmd → State → State) : State :=
  let s1 := s.at h.t
  if s1.canStart h op then
    let s2 := s1.fetched h.ring
    let c : Cmd := ⟨h.ring, h.reqId, op, h.cookie, h.irq⟩
    match (s2.ring h.ring).dup.find? (fun e => e.id == h.reqId) with
    | some e =>
      if e.done then s2.post (s2.mkCpl c 1 e.result e.value)
      else
        let r := s2.ring h.ring
        s2.setRing h.ring { r with dup := r.dup.map (fun d =>
          if d.id = h.reqId then { d with waiting := d.waiting ++ [c] } else d) }
    | none =>
      match s2.rejectCode h op bad with
      | some code => s2.post (s2.mkCpl c 2 code 0)
      | none => body c (s2.enroll c)
  else s1.fenceWait h

/-- Commands in a host address must be multiples of 64 (R325, R328): ALIGN, unless the parameters are out of range. -/
def badAddr (addr : Nat) (param : Bool) : Option Nat := if param then some 3 else if addr % 64 ≠ 0 then some 4 else none

/-! ### Doorbells and ring control (R318 to R321, R332, R361) -/

/-- A command or stream doorbell with value v is accepted (R318). -/
def dbAccept (head tail size v : Nat) : Bool :=
  decide (v < 65536 ∧ idxSub v head ≤ size ∧ idxSub tail head ≤ idxSub v head)

/-- Command ring doorbell. -/
def State.cmdDb (s : State) (k v : Nat) : State :=
  if s.get (HIF_CMD_CTL_STATE k) = 1 ∧
      dbAccept (s.get (HIF_CMD_HEAD_INDEX k)) (s.get (HIF_CMD_TAIL_INDEX k)) (s.ringEntries .cmd k) v then
    s.set (HIF_CMD_TAIL_INDEX k) v
  else s.ev HIF_EVENTS_DB_ERR

/-- Completion ring doorbell: the new head frees slots, and completions held for space follow; one that equals the head
changes nothing (R318, R334). -/
def State.cplDb (s : State) (k v : Nat) : State :=
  if s.get (HIF_CPL_CTL_STATE k) = 1 ∧ v < 65536 ∧
      idxSub v (s.get (HIF_CPL_HEAD_INDEX k)) ≤ s.ringUsed .cpl k then
    if v = s.get (HIF_CPL_HEAD_INDEX k) then s else (s.set (HIF_CPL_HEAD_INDEX k) v).cplRelease k false
  else s.ev HIF_EVENTS_DB_ERR

/-- Enable a ring: head and tail become 0 and it is RUNNING; a completion ring first posts what is held for it
(R320, R355). -/
def State.ringRun (s : State) (kind : RingKind) (k : Nat) : State :=
  let s1 := ((s.set (ringHead kind k) 0).set (ringTail kind k) 0).set (ringState kind k) 1
  match kind with
  | .cmd => s1.setRing k { s1.ring k with fence := none }
  | .cpl => (s1.setCplRing k { s1.cplRing k with unsig := 0, firstAt := none }).cplRelease k true
  | .str => s1.setStrRing k { s1.strRing k with descs := [], buf := none }

/-! ### Stream buffers (R336 to R340) -/

/-- Rewrite bytes 16 to 31 of the descriptor at the head of stream ring m (R336, R339). -/
def State.descWrite (s : State) (m : Nat) (b : Buf) (done bad : Bool) : State :=
  let i := s.get (HIF_STR_HEAD_INDEX m)
  s.dmaWrite (ringBase s .str m + 32 * (i % s.ringEntries .str m) + 16)
    (leBytes 4 b.used ++ leBytes 4 b.frames ++ leBytes 4 (b.firstHdr.getD 0xFFFFFFFF)
      ++ leBytes 2 ((if done then 1 else 0) + (if bad then 2 else 0) + (if b.spilled then 4 else 0)
        + (if (s.strRing m).loss then 8 else 0)) ++ leBytes 2 0)

/-- Is a buffer descriptor within the rules of R336? -/
def bufDescOk (d : BufDesc) : Bool :=
  decide (d.addr % 64 = 0 ∧ d.len % 64 = 0 ∧ 4096 ≤ d.len ∧ d.len ≤ 16777216)

/-- Descriptors that break R336 close as BAD without use, up to the next that does not (R337). -/
def bufSkip (m : Nat) : List BufDesc → State → State
  | [], s => s.setStrRing m { s.strRing m with descs := [] }
  | d :: ds, s =>
    if bufDescOk d then s.setStrRing m { s.strRing m with descs := d :: ds }
    else
      bufSkip m ds ((((s.descWrite m ⟨0, 0, 0, 0, none, none, false⟩ true true).addWrap (HIF_STR_HEAD_INDEX m) 1).addSat
        (HIF_STR_BAD_CNT_COUNT m) 1).ev HIF_EVENTS_BAD_BUF)

/-- The same, where no buffer of the RUNNING ring is open (log 82). -/
def State.bufTrim (s : State) (m : Nat) : State :=
  if s.get (HIF_STR_CTL_STATE m) = 1 ∧ (s.strRing m).buf.isNone then bufSkip m (s.strRing m).descs s else s

/-- Close the open buffer of ring m: DONE is written, and the head moves to the next descriptor; without FRAME_IRQ the
ring's message follows (R339, R340). -/
def State.bufClose (s : State) (m : Nat) : State :=
  match (s.strRing m).buf with
  | none => s
  | some b =>
    let s1 := (s.descWrite m b true false).addWrap (HIF_STR_HEAD_INDEX m) 1
    let s2 := (s1.setStrRing m { s1.strRing m with buf := none, loss := false }).bufTrim m
    if s2.on (HIF_STR_CTL_FRAME_IRQ m) then s2 else s2.msix (s2.get (HIF_STR_CTL_VEC m))

/-- Close the open buffer where it holds a byte: STREAM_FLUSH, or the ring leaves RUNNING (R339). A ring in HELD or ERROR
moves no data (R321, R349). -/
def State.bufFlush (s : State) (m : Nat) : State :=
  match (s.strRing m).buf with
  | some b =>
    if b.used = 0 ∨ (s.get (HIF_STR_CTL_STATE m) ≠ 1 ∧ s.get (HIF_STR_CTL_STATE m) ≠ 2) then s else s.bufClose m
  | none => s

/-- Open a buffer where none is open. -/
def State.bufNext (s : State) (m : Nat) : State :=
  match (s.strRing m).buf, (s.strRing m).descs with
  | none, d :: ds =>
    if bufDescOk d then
      s.setStrRing m { s.strRing m with descs := ds, buf := some ⟨d.addr, d.len, 0, 0, none, none, false⟩ }
    else s
  | _, _ => s

/-- Stream ring doorbell: the descriptors it exposes, as the host wrote them, join the ring (R318, R336). A descriptor
missing from the operand counts as all zeros, which R337 closes as BAD. -/
def State.strDb (s : State) (m v : Nat) (descs : List BufDesc) : State :=
  let tail := s.get (HIF_STR_TAIL_INDEX m)
  if s.get (HIF_STR_CTL_STATE m) = 1 ∧
      dbAccept (s.get (HIF_STR_HEAD_INDEX m)) tail (s.ringEntries .str m) v then
    let x := s.strRing m
    let n := idxSub v tail
    ((s.setStrRing m { x with descs := x.descs ++ (descs ++ List.replicate n (BufDesc.mk 0 0)).take n }).set
      (HIF_STR_TAIL_INDEX m) v).bufTrim m
  else s.ev HIF_EVENTS_DB_ERR

/-- Bytes that the open and the posted buffers of ring m can take. -/
def State.strRoom (s : State) (m : Nat) : Nat :=
  let x := s.strRing m
  (match x.buf with | some b => b.len - b.used | none => 0)
    + x.descs.foldl (fun n d => if bufDescOk d then n + d.len else n) 0

/-- The bytes of a frame: its header (R342) and its payload, padded to a multiple of 64. -/
def Frame.bytes (f : Frame) (unit : Nat) : List Byte :=
  let pad := (64 - f.payload.length % 64) % 64
  leBytes 4 0x5A564246 ++ leBytes 2 (f.stream + 256 * unit) ++ leBytes 1 f.fe ++ leBytes 1 f.kind ++ leBytes 1 f.format
    ++ leBytes 1 ((if f.late then 1 else 0) + (if f.sat then 2 else 0) + (if f.fade then 4 else 0)
      + (if f.spilled then 8 else 0) + (if f.precal then 16 else 0))
    ++ leBytes 6 0 ++ leBytes 8 (f.shot % 2 ^ 48) ++ leBytes 8 f.gt ++ leBytes 4 f.epoch ++ leBytes 4 f.firstBin
    ++ leBytes 4 f.binCount ++ leBytes 4 0 ++ leBytes 8 f.delay ++ leBytes 4 (64 + f.payload.length + pad)
    ++ leBytes 4 f.seq ++ f.payload ++ List.replicate pad 0

/-- The length of a frame in bytes, header included (R342). -/
def Frame.size (f : Frame) : Nat := 64 + cdiv f.payload.length 64 * 64

/-- Write a frame's bytes into successive buffers of ring m (R338). `start` marks the chunk that holds the header;
`fuel` bounds the buffers used. -/
def writeChunks (m : Nat) (start spilled : Bool) : Nat → List Byte → State → State
  | 0, _, s => s
  | fuel + 1, bs, s =>
    let s1 := s.bufNext m
    match (s1.strRing m).buf with
    | none => s1
    | some b =>
      let n := b.len - b.used
      let s2 := s1.dmaWrite (b.addr + b.used) (bs.take n)
      let b2 : Buf := { b with
        used := b.used + (bs.take n).length
        firstHdr := if start then some (b.firstHdr.getD b.used) else b.firstHdr
        firstAt := some (b.firstAt.getD s.now) }
      if bs.length ≤ n then
        let b3 : Buf := { b2 with frames := b2.frames + 1, spilled := b2.spilled || spilled }
        let s3 := (s2.setStrRing m { s2.strRing m with buf := some b3 }).descWrite m b3 false false
        let s4 := if s3.on (HIF_STR_CTL_FRAME_IRQ m) then s3.msix (s3.get (HIF_STR_CTL_VEC m)) else s3
        if b3.used = b3.len ∨ b3.firstAt.getD s4.now + 1000 * s4.get (HIF_STR_FLUSH_US_US m) ≤ s4.now then s4.bufClose m
        else s4
      else
        writeChunks m false spilled fuel (bs.drop n)
          ((s2.setStrRing m { s2.strRing m with buf := some b2 }).bufClose m)

/-- Write a whole frame to stream ring m, which has room for it. -/
def State.frameWrite (s : State) (m : Nat) (f : Frame) : State :=
  writeChunks m true f.spilled ((s.strRing m).descs.length + 2) (f.bytes (s.get HIF_CFG_UNIT_ID)) s

/-! ### The spillway (R344 to R347) -/

def spillBytes (l : List SpillFrame) : Nat := l.foldl (fun n x => n + x.frame.size) 0

def State.spillGeneral (s : State) (l : List SpillFrame) : State := { s with spill := { s.spill with general := l } }
def State.spillReserved (s : State) (l : List SpillFrame) : State := { s with spill := { s.spill with reserved := l } }

/-- Does the spillway hold a frame? -/
def State.backlog (s : State) : Bool := !(s.spill.general.isEmpty && s.spill.reserved.isEmpty)

/-- Does the spillway hold a frame of a stream (R345)? -/
def State.spillHas (s : State) (st : Nat) : Bool :=
  (s.spill.general ++ s.spill.reserved).any (fun x => x.frame.stream == st)

/-- Count frames lost under R344. -/
def State.spillLost (s : State) : State := (s.addSat HIF_SPILL_LOST_COUNT 1).ev HIF_EVENTS_SPILL_OVERWRITE

/-- Overwrite the oldest frames of the general area until `need` bytes fit in `cap` (R344). -/
def spillFit (cap need : Nat) : List SpillFrame → State → State
  | [], s => s.spillGeneral []
  | x :: xs, s =>
    if spillBytes (x :: xs) + need ≤ cap then s.spillGeneral (x :: xs)
    else spillFit cap need xs ((s.logOverwrite x.frame).spillLost)

/-- A frame that cannot enter the spillway is discarded and counted: EVENT and TRACK under R247, others under R344. -/
def State.spillDrop (s : State) (f : Frame) : State :=
  let s1 := s.logDiscard f
  if f.kind = 2 ∨ f.kind = 3 then (s1.addSat (EVT_LOSS_CNT_SPILL f.fe) 1).ev (EVT_EVENTS_SPILL_DROP f.fe)
  else s1.spillLost

/-- Bytes of the area that a frame enters: the reserved area for EVENT and TRACK, else the general area (R247, R344). -/
def State.spillCap (s : State) (f : Frame) : Nat :=
  if f.kind = 2 ∨ f.kind = 3 then s.get HIF_SPILL_SIZE_RESERVE_MIB * 1048576
  else (s.get HIF_SPILL_SIZE_SIZE_MIB - s.get HIF_SPILL_SIZE_RESERVE_MIB) * 1048576

/-- Does a frame that the spillway could hold wait in staging, because no slot writes the spillway (R475)? -/
def State.spillWaits (s : State) (f : Frame) : Bool :=
  s.mem.share.2.1 == 0 && !s.contained 7 && decide (f.size ≤ s.spillCap f)

/-- A frame enters the spillway: EVENT and TRACK its reserved area, others the general area (R247, R344, R422). -/
def State.spillIn (s : State) (f0 : Frame) : State :=
  let f := { f0 with spilled := true }
  let s1 := (s.logStream f.stream (fun e => { e with spilled := e.spilled + 1 })).memUsed 15
  if s.contained 7 then s.spillDrop f
  else if f.kind = 2 ∨ f.kind = 3 then
    if spillBytes s.spill.reserved + f.size ≤ s.spillCap f then s1.spillReserved (s1.spill.reserved ++ [⟨f, false⟩])
    else s.spillDrop f
  else
    let cap := s.spillCap f
    if f.size ≤ cap then
      let s2 := spillFit cap f.size s1.spill.general s1
      s2.spillGeneral (s2.spill.general ++ [⟨f, false⟩])
    else s.spillDrop f

/-- Drop every frame in the spillway: containment of SPILL (R422). -/
def State.spillClear (s : State) : State :=
  ((s.spill.general ++ s.spill.reserved).foldl (fun s x => (s.logOverwrite x.frame).spillLost) s).spillGeneral []
    |>.spillReserved []

/-- Of frames that return to the reserved area, oldest first, those that find room beside `used` bytes in `cap`, and the
others. -/
def resFit (cap : Nat) : Nat → List Frame → List Frame × List Frame
  | _, [] => ([], [])
  | used, f :: fs =>
    if used + f.size ≤ cap then let r := resFit cap (used + f.size) fs; (f :: r.1, r.2)
    else let r := resFit cap used fs; (r.1, f :: r.2)

/-- Direct frames that were not confirmed before a link loss return, older than any of their stream there: they enter as any
frame does, dropped or overwriting where there is no room (R247, R341, R344). -/
def State.spillBack (s : State) (l : List Frame) : State :=
  let own := fun (f : Frame) => f.kind == 2 || f.kind == 3
  let cap := (s.get HIF_SPILL_SIZE_SIZE_MIB - s.get HIF_SPILL_SIZE_RESERVE_MIB) * 1048576
  let back := fun (f : Frame) => SpillFrame.mk { f with spilled := true } false
  if s.contained 7 then l.foldl (fun s f => s.spillDrop f) s
  else
    let res := resFit (s.get HIF_SPILL_SIZE_RESERVE_MIB * 1048576) (spillBytes s.spill.reserved) (l.filter own)
    let gen := l.filter (fun f => !own f && decide (f.size ≤ cap))
    let s1 := ((res.1 ++ gen).foldl (fun s f => s.logStream f.stream (fun e => { e with spilled := e.spilled + 1 })) s).memUsed 15
    let s2 := s1.spillReserved (res.1.map back ++ s1.spill.reserved)
    let s3 := spillFit cap 0 (gen.map back ++ s2.spill.general) s2
    (res.2 ++ l.filter (fun f => !own f && !decide (f.size ≤ cap))).foldl (fun s f => s.spillDrop f) s3

/-! ### Staging and delivery (R297, R335, R341, R343, R345, R351) -/

/-- The next sequence number of a stream. -/
def State.nextSeq (s : State) (st : Nat) : State :=
  { s with hif := { s.hif with seq := vset s.hif.seq st ((vget 0 s.hif.seq st + 1) % 2 ^ 32) } }

/-- Give the head of each fibre engine's staging the instant from which DIVERT counts (R297). -/
def headMarks (now : Nat) : List Nat → List Staged → List Staged
  | _, [] => []
  | seen, x :: xs =>
    (if x.frame.fe ∈ seen then x else { x with head := some (x.head.getD now) }) :: headMarks now (x.frame.fe :: seen) xs

/-- A frame enters output staging with its sequence number; `work` is the first shot of the frame of shots it belongs to. It
is discarded there when its stream is not enabled, and PMC and DIAG frames in SAFE_HOLD (R335, R343, R429). -/
def State.stageWork (s : State) (f : Frame) (work : Option Nat) : State :=
  let g := { f with seq := vget 0 s.hif.seq f.stream, work := work }
  let s1 := s.nextSeq f.stream
  if s.on (HIF_SMAP_EN f.stream) && s.mode != 7 then
    { s1 with hif := { s1.hif with staged := headMarks s1.now [] (s1.hif.staged ++ [⟨g, none⟩]) } }
  else s1

/-- A frame that belongs to no frame of shots. -/
def State.stage (s : State) (f : Frame) : State := s.stageWork f none

/-- A frame of the signal path. -/
def State.stageFor (s : State) (f : Frame) (work : Nat) : State := s.stageWork f (some work)

/-- Must a frame of this stream go to the spillway rather than to its ring (R297, R335, R345, R351)? -/
def State.mustSpill (s : State) (f : Frame) : Bool :=
  let m := s.get (HIF_SMAP_RING f.stream)
  s.attach != 0 || s.get (HIF_STR_CTL_STATE m) != 1 || s.spillHas f.stream
    || (decide (f.fe < 4) && vget false s.hif.diverted f.fe) || decide (s.strRoom m < f.size)

/-- Does a frame stay in staging: it is to enter the spillway, which no slot writes (R475)? -/
def State.stays (s : State) (f : Frame) : Bool :=
  !(decide (s.attach ≠ 0) && s.on (HIF_SMAP_UNATT_DISCARD f.stream)) && s.mustSpill f && s.spillWaits f

/-- Deliver a frame that leaves staging. -/
def State.deliver (s : State) (f : Frame) : State :=
  if s.attach ≠ 0 ∧ s.on (HIF_SMAP_UNATT_DISCARD f.stream) then s.logDiscard f
  else if s.mustSpill f then s.spillIn f
  else
    let s1 := s.frameWrite (s.get (HIF_SMAP_RING f.stream)) f
    { s1 with hif := { s1.hif with inFlight := s1.hif.inFlight ++ [f] } }

/-- Remove the first element that satisfies a predicate. -/
def takeFirst {α : Type} (p : α → Bool) : List α → Option α × List α
  | [] => (none, [])
  | x :: xs => if p x then (some x, xs) else let r := takeFirst p xs; (r.1, x :: r.2)

/-- The diversion of a fibre engine ends when the link has carried its backlog (R297). -/
def State.divertEnd (s : State) : State :=
  { s with hif := { s.hif with diverted := Vector.ofFn (fun (n : Fin 4) =>
      vget false s.hif.diverted n.val &&
        (s.spill.general ++ s.spill.reserved).any (fun x => x.frame.fe == n.val)) } }

/-- A drained or direct frame of a stream is confirmed and released (R341, R346). -/
def State.frameReleased (s : State) (st : Nat) : State :=
  match takeFirst (fun (f : Frame) => f.stream == st) s.hif.inFlight with
  | (some _, rest) => { s with hif := { s.hif with inFlight := rest } }
  | (none, _) =>
    let p := fun (x : SpillFrame) => x.sent && x.frame.stream == st
    let s1 := (s.spillReserved (takeFirst p s.spill.reserved).2)
    let s2 := if s.spill.reserved.any p then s1 else s1.spillGeneral (takeFirst p s.spill.general).2
    let s3 := s2.divertEnd
    if s.backlog && !s3.backlog then s3.ev HIF_EVENTS_DRAIN_DONE else s3

/-- May a spillway frame be drained now: its ring is RUNNING and has room (R346)? -/
def State.drainable (s : State) (f : Frame) : Bool :=
  let m := s.get (HIF_SMAP_RING f.stream)
  s.get (HIF_STR_CTL_STATE m) == 1 && decide (f.size ≤ s.strRoom m)

/-- The first frame of an area that can be drained, marked sent; a frame that stays holds back the later ones of its stream,
which `held` lists (R343, R346). -/
def drainFrom (s : State) : List Nat → List SpillFrame → Option Frame × List SpillFrame
  | _, [] => (none, [])
  | held, x :: xs =>
    if !x.sent && !held.contains x.frame.stream && s.drainable x.frame then (some x.frame, { x with sent := true } :: xs)
    else
      let r := drainFrom s (if x.sent then held else x.frame.stream :: held) xs
      (r.1, x :: r.2)

/-- The frame of an area that is drained now. -/
def drainPick (s : State) (l : List SpillFrame) : Option Frame × List SpillFrame := drainFrom s [] l

/-- The spillway frame to drain next, and the spillway with that frame marked sent: the reserved area first, oldest first
(R346). -/
def State.drainNext (s : State) : Option (Frame × State) :=
  if s.attach = 0 ∧ s.on HIF_CFG_AUTO_DRAIN then
    match drainPick s s.spill.reserved with
    | (some f, l) => some (f, s.spillReserved l)
    | (none, _) =>
      match drainPick s s.spill.general with
      | (some f, l) => some (f, s.spillGeneral l)
      | (none, _) => none
  else none

/-- Change the dump in progress. -/
def State.modDump (s : State) (g : Dump → Dump) : State :=
  { s with mem := { s.mem with dump := s.mem.dump.map g } }

/-- Copy the next frame of a dump: one that finds its ring not RUNNING is skipped, one that finds no room there waits (R477).
`none`: there is nothing to copy now. -/
def State.dumpNext (s : State) : Option State :=
  match s.mem.dump with
  | none => none
  | some d =>
    match d.todo with
    | [] => none
    | f :: rest =>
      let s1 := s.modDump (fun d => { d with todo := rest, turn := false })
      if s.get (HIF_STR_CTL_STATE d.ring) ≠ 1 then some (s1.addSat MEM_HIST_SKIP_COUNT 1)
      else if f.size ≤ s.strRoom d.ring then some ((s1.memUsed 15).frameWrite d.ring { f with spilled := true })
      else none

/-- Move one frame from the spillway to its ring (R346, R347). -/
def State.drainSpill (s : State) : Option State :=
  match s.drainNext with
  | none => none
  | some (f, s1) =>
    some (((s1.memUsed 15).modDump (fun d => { d with turn := true })).frameWrite (s.get (HIF_SMAP_RING f.stream)) f)

/-- One frame moves in the DRAIN slots: draining and a dump take turns (R346, R475, R477). -/
def State.drainOne (s : State) : State :=
  if s.mode = 7 ∨ s.mem.share.2.2 = 0 then s
  else if (s.mem.dump.map (·.turn)).getD false then (s.dumpNext.orElse (fun _ => s.drainSpill)).getD s
  else (s.drainSpill.orElse (fun _ => s.dumpNext)).getD s

/-! ### Link loss and reattachment (R349 to R358) -/

/-- An open log record at a detachment (R358); a ninth detachment merges into record 8. -/
def State.logDetach (s : State) (cause : Nat) : State :=
  let r : LogRec := ⟨s.gt, 0, cause, s.mode, 0, false, false, 0, s.get SCH_EPOCH_EPOCH, 0, List.replicate 4 0,
    List.replicate 18 LogStream.empty⟩
  if s.hif.log.length < 8 then { s with hif := { s.hif with log := s.hif.log ++ [r], logOpen := true } }
  else { s with hif := { s.hif with logOpen := true } }.logMod (fun q => { q with merged := true })

/-- Move every ring of a kind from some states to another. -/
def State.ringsTo (s : State) (kind : RingKind) (p : Nat → Bool) (x : Nat) : State :=
  (List.range (ringCount kind)).foldl
    (fun s k => if p (s.get (ringState kind k)) then s.set (ringState kind k) x else s) s

/-- Completions written and not confirmed are held again, before any held later (R350). -/
def State.reholdCpls (s : State) : State :=
  let back := (List.range 16).flatMap (fun k => (s.cplRing k).unconf)
  let s1 := (List.range 16).foldl (fun s k => s.setCplRing k { s.cplRing k with unconf := [], unsig := 0, firstAt := none }) s
  let s2 := { s1 with hif := { s1.hif with heldCpl := back ++ s1.hif.heldCpl } }
  s2.logMod (fun r => { r with held := r.held + back.length })

/-- Frames not released at a link loss go to the spillway, oldest first; where no slot writes it, they stay in staging (R341,
R357, R475). -/
def State.refile (s : State) : State :=
  let undo := fun (x : SpillFrame) => { x with sent := false }
  let s1 := { s with spill := ⟨s.spill.general.map undo, s.spill.reserved.map undo⟩ }
  let stay := s1.hif.inFlight.filter s1.spillWaits
  let s2 := s1.spillBack (s1.hif.inFlight.filter (fun f => !s1.spillWaits f))
  let staged := stay.map (fun f => Staged.mk f none) ++ s2.hif.staged
  let s3 := { s2 with hif := { s2.hif with inFlight := [], staged := [] } }
  let s4 := (staged.filter (fun x => !s1.spillWaits x.frame)).foldl (fun s x => s.spillIn x.frame) s3
  { s4 with hif := { s4.hif with staged := headMarks s4.now [] (staged.filter (fun x => s1.spillWaits x.frame)) } }.divertEnd

/-- The device becomes DETACHED: cause 0 link loss, 1 DETACH (R349, R353, R357). -/
def State.detached (s : State) (cause : Nat) : State :=
  if s.attach = 1 then s
  else
    let s1 := (s.set HIF_STATUS_ATTACH 1).set HIF_STATUS_PERST_GATED 1
    let s2 := ((s1.set2 HIF_DETACH_GT_LO_GT HIF_DETACH_GT_HI_GT s.gt).addWrap HIF_DETACH_CNT_COUNT 1).ev HIF_EVENTS_LINK_DOWN
    let s3 := s2.logDetach cause
    let held := fun x => x == 1 || x == 2
    let s4 := ((s3.ringsTo .cmd held 3).ringsTo .cpl held 3).ringsTo .str held 3
    let s5 := s4.reholdCpls.refile
    { s5 with hif := { s5.hif with detachCmd := [] } }

/-- STATUS of a link that is gone (R360). -/
def State.linkLost (s : State) : State := ((s.set HIF_STATUS_LINK_UP 0).set HIF_STATUS_SPEED 0).set HIF_STATUS_WIDTH 0

/-- Link-up from DETACHED enters HOLD: configuration space and the MSI-X table are at their reset values as LINK_UP is raised
(R354). -/
def State.hold (s : State) : State :=
  let s1 := { s with hif := { s.hif with
    msixEn := false, msixMask := false, msixTable := [], pba := 0, pci := PciSt.init
    strs := s.hif.strs.map (fun (x : StrSt) => { x with descs := [], buf := none }) } }
  let s2 := ((s1.set HIF_STATUS_ATTACH 2).set2 HIF_REATTACH_GT_LO_GT HIF_REATTACH_GT_HI_GT s.gt).ev HIF_EVENTS_LINK_UP
  let s3 := ((s2.ringsTo .cmd (fun _ => true) 0).ringsTo .cpl (fun _ => true) 0).ringsTo .str (fun _ => true) 0
  s3.logMod (fun r => { r with reGt := s.gt, mode1 := s.mode, epoch1 := s.get SCH_EPOCH_EPOCH })

/-- The 32 bytes of a stream entry of a log record (R358). -/
def LogStream.bytes (e : LogStream) (s : State) (st : Nat) : List Byte :=
  leBytes 2 (st + 256 * s.get HIF_CFG_UNIT_ID) ++ leBytes 1 (s.get (HIF_SMAP_RING st))
    ++ leBytes 1 (s.get (HIF_SMAP_UNATT_DISCARD st)) ++ leBytes 4 e.spilled ++ leBytes 4 e.discarded
    ++ leBytes 4 e.overwritten ++ leBytes 4 e.first ++ leBytes 4 e.last
    ++ leBytes 8 (spillBytes ((s.spill.general ++ s.spill.reserved).filter (fun x => x.frame.stream == st)))

/-- The 1,152 bytes of a log record. -/
def LogRec.bytes (r : LogRec) (s : State) : List Byte :=
  leBytes 8 r.detachGt ++ leBytes 8 r.reGt ++ leBytes 1 r.cause ++ leBytes 1 r.mode0 ++ leBytes 1 r.mode1
    ++ leBytes 1 ((if r.merged then 1 else 0) + (if r.safeHold then 2 else 0)) ++ leBytes 4 r.held
    ++ leBytes 4 r.epoch0 ++ leBytes 4 r.epoch1 ++ (r.sticky.flatMap (fun w => leBytes 4 w.toNat)) ++ leBytes 80 0
    ++ ((List.range 18).flatMap (fun st => (r.streams.getD st LogStream.empty).bytes s st)) ++ leBytes 448 0

/-- The 9,280 bytes of READ_REATTACH_LOG (R358). -/
def State.logBytes (s : State) : List Byte :=
  leBytes 4 0x4C525A42 ++ leBytes 4 s.hif.log.length ++ leBytes 56 0
    ++ s.hif.log.flatMap (fun r => r.bytes s) ++ leBytes (1152 * (8 - s.hif.log.length)) 0

end Sys2Proof.Machine
end

