-- ==== Sys2Proof/Machine/Timebase.lean ====
section
/-! DEFINITION. The time base (chapter 01): clock states, discipline from PPS_IN and SYNC_IN, alignment, SYNC_OUT and
LAUNCH_OUT. -/

namespace Sys2Proof.Machine

def State.setTim (s : State) (x : TimSt) : State := { s with tim := x }

/-- The state of a fibre engine. -/
def State.f (s : State) (n : Nat) : FeSt := vget FeSt.init s.fe n

/-- Change the state of a fibre engine. -/
def State.modF (s : State) (n : Nat) (g : FeSt → FeSt) : State := { s with fe := vset s.fe n (g (s.f n)) }

/-- LNC STATE of a fibre engine: 0 SAFE, 1 ARMING, 2 ARMED, 3 TRIPPED (R77). -/
def State.lstate (s : State) (n : Nat) : Nat := s.get (LNC_STATUS_STATE n)

/-- Is a fibre engine arming or armed? -/
def State.busyFe (s : State) (n : Nat) : Bool := s.lstate n == 1 || s.lstate n == 2

/-- Is any fibre engine arming or armed? -/
def State.anyBusy (s : State) : Bool := s.busyFe 0 || s.busyFe 1 || s.busyFe 2 || s.busyFe 3

/-! ### Clock states (R20 to R26) -/

/-- Enter FREE: GT_VALID is cleared (R20). -/
def State.clockFree (s : State) : State :=
  ((s.set TIM_STATUS_CLK_STATE 0).set TIM_STATUS_GT_VALID 0).setTim { s.tim with locked := false, holdStart := none }

/-- Enter HOLDOVER (R22). -/
def State.clockHold (s : State) : State :=
  (s.set TIM_STATUS_CLK_STATE 3).setTim { s.tim with holdStart := some s.now }

/-- Abort an armed alignment: ARM is cleared, ALIGN_ABORT set, grid time stays (R34). -/
def State.alignAbort (s : State) : State :=
  if s.on TIM_ALIGN_ARM then
    ((s.set TIM_ALIGN_ARM 0).set TIM_STATUS_ALIGN_PENDING 0).ev TIM_EVENTS_ALIGN_ABORT
  else s

/-- REFCLK is declared lost (R22, R34). -/
def State.refLoss (s : State) : State :=
  let s1 := s.set TIM_STATUS_REF_PRESENT 0
  let s2 := match s.get TIM_STATUS_CLK_STATE with
    | 2 => s1.clockHold
    | 1 => if s.tim.locked then s1.clockHold else s1.clockFree
    | _ => s1
  ((s2.ev TIM_EVENTS_REF_LOSS).present 16).alignAbort

/-- REFCLK is present again: FREE and HOLDOVER enter ACQUIRING (R20). -/
def State.refReturn (s : State) : State :=
  let s1 := s.set TIM_STATUS_REF_PRESENT 1
  if s.get TIM_STATUS_CLK_STATE = 0 ∨ s.get TIM_STATUS_CLK_STATE = 3 then
    (s1.set TIM_STATUS_CLK_STATE 1).setTim { s.tim with holdStart := none }
  else s1

/-- Phase lock: ACQUIRING enters LOCKED (R20, R24). -/
def State.pllLock (s : State) : State :=
  if s.get TIM_STATUS_CLK_STATE = 1 then
    ((s.set TIM_STATUS_CLK_STATE 2).setTim { s.tim with locked := true }).ev TIM_EVENTS_LOCK
  else s

/-- The holdover limit elapses in HOLDOVER (R23). -/
def State.holdExpire (s : State) : State :=
  match s.tim.holdStart with
  | some h =>
    if s.get TIM_STATUS_CLK_STATE = 3 ∧ h + 1000000000 * s.get TIM_REF_CFG_HOLD_LIMIT ≤ s.now then
      (s.ev TIM_EVENTS_HOLD_EXPIRED).present 17
    else s
  | none => s

/-! ### Discipline (R27 to R31) -/

/-- The steering law (R29): the trim in 0.01 ppm for an error, with the interval in µs. -/
def steerTrim (e : Int) (slew intervalUs : Nat) : Int := clampSym (rha (-e * 100000) intervalUs) slew

/-- Largest minus smallest of a run of errors. -/
def spread (l : List Int) : Int := l.foldl max (l.headD 0) - l.foldl min (l.headD 0)

/-- Judge an edge against a history (R30): accepted or an outlier, and the new history. With no accepted edge to judge it
against, after a cold reset or a loss, an edge is accepted. -/
def judgeEdge (h : RefHist) (trim tol : Int) (e g : Int) : Bool × Bool × RefHist :=
  match h.last with
  | none => (true, false, { h with last := some (e, g), run := [] })
  | some (ea, ga) =>
    if ((e - (ea + rha (trim * (g - ga)) 100000000)).natAbs : Int) ≤ tol then
      (true, false, { h with last := some (e, g), run := [] })
    else
      let run := (h.run ++ [e]).drop (h.run.length + 1 - 3)
      if run.length = 3 ∧ spread run ≤ tol then (true, true, { h with last := some (e, g), run := [] })
      else (false, true, { h with run := run })

/-- The error of an instant against the nearest multiple of a period, as R27 places it: in [−P/2, P/2). -/
def errHalfUp (g : Int) (p : Nat) : Int := (g + p / 2) % p - p / 2

/-- The nearest multiple of a period, a tie to the lower (R33, R50). -/
def nearestMul (g : Int) (p : Nat) : Int := ((2 * g + p - 1) / (2 * p)) * p

/-- The SYNC period in ns. -/
def State.syncPeriod (s : State) : Nat := 1000 * s.get TIM_SYNC_CFG_PERIOD

/-- May an armed alignment complete now: CLK_STATE is LOCKED or HOLDOVER (R33)? SRC as it is at the edge decides (log 69). -/
def State.alignReady (s : State) (src : Nat) : Bool :=
  s.on TIM_ALIGN_ARM && s.get TIM_ALIGN_SRC == src && decide (2 ≤ s.get TIM_STATUS_CLK_STATE)

/-- Completion of an alignment that steps grid time by d (R33): the steering histories of both inputs start afresh (log 69).
-/
def State.alignDone (s : State) (d : Int) : State :=
  let s1 := { s with gtOff := s.gtOff + d }
  let s2 := ((s1.set TIM_ALIGN_ARM 0).set TIM_STATUS_ALIGN_PENDING 0).set TIM_STATUS_GT_VALID 1
  let s3 := (s2.ev TIM_EVENTS_ALIGN_DONE).set TIM_TRIM_TRIM 0
  s3.setTim { s3.tim with pps := { s3.tim.pps with last := none, run := [] }
                          sync := { s3.tim.sync with last := none, run := [] } }

/-- A PPS_IN edge (R27, R30, R31, R33): one of either polarity counts for PPS_PRESENT and its 1.1 s, one of the selected
polarity is judged. -/
def State.ppsEdge (s : State) (falling : Bool) : State :=
  let s1 := s.set TIM_STATUS_PPS_PRESENT 1
  let s2 := s1.setTim { s1.tim with pps := { s1.tim.pps with seen := some s.now } }
  if falling ≠ s.on TIM_REF_CFG_PPS_EDGE then s2
  else
    if s2.alignReady 0 then
      let g := (s2.get2 TIM_GT_NEXT_LO_GT_NEXT TIM_GT_NEXT_HI_GT_NEXT : Int)
      let s3 := s2.alignDone (g - s2.gridOf s2.now)
      let e := errHalfUp g 1000000000
      (s3.setI TIM_PPS_ERR_ERR e).setTim { s3.tim with pps := { s3.tim.pps with last := some (e, g) } }
    else
      let g := s2.gridOf s2.now
      let e := errHalfUp g 1000000000
      let s3 := s2.setI TIM_PPS_ERR_ERR e
      let j := judgeEdge s3.tim.pps (s3.getI TIM_TRIM_TRIM) (s3.get TIM_TOL_PPS_TOL) e g
      let s4 := s3.setTim { s3.tim with pps := j.2.2 }
      let s5 := if j.2.1 then s4.ev TIM_EVENTS_PPS_DEV else s4
      if j.1 ∧ s5.get TIM_REF_CFG_DISC = 1 then
        s5.setI TIM_TRIM_TRIM (steerTrim e (s5.get TIM_REF_CFG_SLEW) 1000000)
      else s5

/-- A SYNC_IN edge (R30, R33, R50). -/
def State.syncEdge (s : State) (falling : Bool) : State :=
  if !s.on TIM_SYNC_CFG_IN_EN ∨ falling ≠ s.on TIM_SYNC_CFG_IN_EDGE then s
  else
    let s1 := s.set TIM_STATUS_SYNC_PRESENT 1
    let s2 := s1.setTim { s1.tim with sync := { s1.tim.sync with seen := some s.now } }
    let g := s2.gridOf s2.now
    let x := g - s2.get TIM_SYNC_DELAY_DELAY
    let m := nearestMul x s2.syncPeriod
    if s2.alignReady 1 then
      let s3 := s2.alignDone (m - x)
      (s3.setI TIM_SYNC_ERR_ERR 0).setTim
        { s3.tim with sync := { s3.tim.sync with last := some (0, g + (m - x)) } }
    else
      let e := x - m
      let s3 := s2.setI TIM_SYNC_ERR_ERR e
      let j := judgeEdge s3.tim.sync (s3.getI TIM_TRIM_TRIM) (s3.get TIM_TOL_SYNC_TOL) e g
      let s4 := s3.setTim { s3.tim with sync := j.2.2 }
      let s5 := if j.2.1 then s4.ev TIM_EVENTS_SYNC_DEV else s4
      if j.1 ∧ s5.get TIM_REF_CFG_DISC = 2 then
        s5.setI TIM_TRIM_TRIM (steerTrim e (s5.get TIM_REF_CFG_SLEW) (s5.get TIM_SYNC_CFG_PERIOD))
      else s5

/-- No PPS_IN edge for 1.1 s (R31): the next one has no accepted edge to be judged against (R30). -/
def State.ppsLost (s : State) : State :=
  if s.on TIM_STATUS_PPS_PRESENT ∧ s.tim.pps.seen.getD 0 + 1100000000 ≤ s.now then
    let s1 := s.setTim { s.tim with pps := { s.tim.pps with last := none, run := [] } }
    ((s1.set TIM_STATUS_PPS_PRESENT 0).ev TIM_EVENTS_PPS_LOSS).present 18
  else s

/-- SYNC_PRESENT is cleared: the next edge has no accepted edge to be judged against (R30, R50). -/
def State.syncGone (s : State) : State :=
  (s.setTim { s.tim with sync := { s.tim.sync with last := none, run := [] } }).set TIM_STATUS_SYNC_PRESENT 0

/-- IN_EN = 0 clears SYNC_PRESENT, which is no loss (R50, R555). -/
def State.syncOff (s : State) : State :=
  if s.on TIM_STATUS_SYNC_PRESENT then
    let s1 := s.syncGone
    s1.setTim { s1.tim with sync := { s1.tim.sync with seen := none } }
  else s

/-- No SYNC_IN edge within two periods (R50). -/
def State.syncLost (s : State) : State :=
  if s.on TIM_STATUS_SYNC_PRESENT ∧ s.tim.sync.seen.getD 0 + 2 * s.syncPeriod ≤ s.now then
    (s.syncGone.ev TIM_EVENTS_SYNC_LOSS).present 19
  else s

/-- SYNC_OUT rises for 100 ns at a multiple of PERIOD (R49); a pulse runs to its end (log 69). -/
def State.syncOut (s : State) : State :=
  if s.on TIM_SYNC_CFG_OUT_EN ∧ s.on TIM_STATUS_GT_VALID ∧ s.gridOf s.now % s.syncPeriod = 0 then
    s.setTim { s.tim with syncOutEnd := s.now + 100 }
  else s

/-- A LAUNCH_OUT pulse of WIDTH ns; pulses that overlap merge (R53). -/
def State.launchOut (s : State) : State :=
  s.setTim { s.tim with launchOutEnd := max s.tim.launchOutEnd (s.now + s.get TIM_LAUNCH_OUT_CFG_WIDTH) }

/-- Does LAUNCH_OUT pulse for a launch of fibre engine n (R53)? -/
def State.launchOutSel (s : State) (n : Nat) (frameStart : Bool) : Bool :=
  (s.get TIM_LAUNCH_OUT_CFG_FE_MASK).testBit n && (frameStart || !s.on TIM_LAUNCH_OUT_CFG_TONE0_ONLY)

/-- Arm an alignment, or refuse it while a fibre engine is arming or armed (R33, R34). -/
def State.alignSet (s : State) : State :=
  if s.anyBusy then s.ev TIM_EVENTS_CFG_ERR
  else (s.set TIM_ALIGN_ARM 1).set TIM_STATUS_ALIGN_PENDING 1

/-- The epoch in force becomes both halves, and every anchor (0, epoch) (R35). -/
def State.setEpoch (s : State) (hi : Word) : State :=
  let s1 := s.set TIM_EPOCH_HI_EPOCH hi.toNat
  let e := s1.get2 TIM_EPOCH_LO_EPOCH TIM_EPOCH_HI_EPOCH
  { s1.setTim { s1.tim with epoch := e } with
    fe := s1.fe.map (fun x => { x with anchorS := 0, anchorT := (e : Int) }) }

end Sys2Proof.Machine
end

