-- ==== Sys2Proof/Machine/Settings.lean ====
section
/-! DEFINITION. The launch and time settings of a fibre engine as a register file gives them, and the checks R47, R63
to R75 make of them. They read a register file apart from the state, so that the same words serve the settings in force,
those of a shot, and those a commit group would make. -/

namespace Sys2Proof.Machine

/-- Tones per frame T (R37). -/
def tonesOf (r : Tab Word) (n : Nat) : Nat := 2 ^ rget r (TIM_FE_PRI_TONES n)
/-- PRI in ns. -/
def priOf (r : Tab Word) (n : Nat) : Nat := rget r (TIM_FE_PRI_PRI n)
/-- External launch mode (R54)? -/
def extOf (r : Tab Word) (n : Nat) : Bool := ron r (TIM_FE_LAUNCH_CTL_SRC n)
/-- REF_OFS + WIN_START + WIN_LEN: the end of the range window after the launch instant (R44). -/
def winEndOf (r : Tab Word) (n : Nat) : Nat :=
  rget r (TIM_FE_REF_OFS_REF_OFS n) + rget r (TIM_FE_WIN_START_WIN_START n) + rget r (TIM_FE_WIN_LEN_WIN_LEN n)
/-- The end of window and guard after the launch instant (R47, R55). -/
def guardEndOf (r : Tab Word) (n : Nat) : Nat := winEndOf r n + rget r (TIM_FE_GUARD_GUARD n)

/-- The window conditions (R47). -/
def windowOk (r : Tab Word) (n : Nat) : Bool :=
  let len := rget r (TIM_FE_WIN_LEN_WIN_LEN n)
  decide (1 ≤ len ∧ len ≤ 1048576 ∧ rget r (TIM_FE_WIN_START_WIN_START n) + len ≤ 1048576 ∧
    rget r (TIM_FE_PRI_TONES n) ≤ 2) &&
  (if extOf r n then decide (priOf r n ≤ guardEndOf r n + 48 ∧ tonesOf r n = 1)
   else decide (guardEndOf r n ≤ priOf r n))

/-! ### Segments and tones (R63, R65, R67) -/

/-- Is segment j legal (R63)? A CODE segment has no lower bound on its words (log 29). -/
def segOk (r : Tab Word) (n j : Nat) : Bool :=
  let start := rget r (LNC_SEG_START_START n j)
  let len := rget r (LNC_SEG_LEN_LEN n j)
  let par := rget r (LNC_SEG_KIND_PARAM n j)
  let cs := rget r (LNC_SEG_KIND_CHIP_SAMP n j)
  decide (start + len ≤ 65536) &&
  match rget r (LNC_SEG_KIND_KIND n j) with
  | 0 => decide (20 ≤ len ∧ len ≤ 20000)
  | 1 => decide (20 ≤ len ∧ len ≤ 40000 ∧ 1 ≤ par ∧ par ≤ 400)
  | 2 => decide (2 ≤ par ∧ par ≤ 4096 ∧ 2 ≤ cs ∧ cs ≤ 255 ∧ len = par * cs ∧ len ≤ 40000)
  | _ => false

/-- The occupied band of segment j as a fraction of MHz: numerator and denominator (R63). -/
def segBand (r : Tab Word) (n j : Nat) : Nat × Nat :=
  match rget r (LNC_SEG_KIND_KIND n j) with
  | 0 => (4000, rget r (LNC_SEG_LEN_LEN n j))
  | 1 => (rget r (LNC_SEG_KIND_PARAM n j), 1)
  | _ => (4000, rget r (LNC_SEG_KIND_CHIP_SAMP n j))

/-- The segments of tone k: its segment, and member B of a pair (R67). -/
def toneSegs (r : Tab Word) (n k : Nat) : List Nat :=
  rget r (LNC_TONE_SEG_SEG_A n k) :: (if ron r (LNC_TONE_SEG_PAIR n k) then [rget r (LNC_TONE_SEG_SEG_B n k)] else [])

/-- The segments in use: those named by the tones below TONES (R62, R489). -/
def segsInUse (r : Tab Word) (n : Nat) : List Nat := (List.range (tonesOf r n)).flatMap (fun k => toneSegs r n k)

/-- The offset frequency of tone k in kHz. -/
def toneKhz (r : Tab Word) (n k : Nat) : Int := rgetI r (LNC_TONE_FREQ_FREQ_KHZ n k)

/-- The frequency, magnitude and edge conditions of tone k on its segment j (R65): |f| + B/2 ≤ 480 MHz. -/
def toneBandOk (r : Tab Word) (n k j : Nat) : Bool :=
  let f := (toneKhz r n k).natAbs
  let b := segBand r n j
  (if f = 0 then decide (tonesOf r n = 1) else decide (40000 ≤ f ∧ f ≤ 400000))
    && decide (2 * f * b.2 + 1000 * b.1 ≤ 960000 * b.2)

/-- Two tones' bands are at least 20 MHz apart (R65): |f1 − f2| − B1/2 − B2/2 ≥ 20 MHz, in kHz over both denominators. -/
def bandGapOk (r : Tab Word) (n k1 j1 k2 j2 : Nat) : Bool :=
  let d := (toneKhz r n k1 - toneKhz r n k2).natAbs
  let b1 := segBand r n j1
  let b2 := segBand r n j2
  decide (40000 * b1.2 * b2.2 + 1000 * b1.1 * b2.2 + 1000 * b2.1 * b1.2 ≤ 2 * d * b1.2 * b2.2)

/-- The tone rules (R65): per tone and segment, per pair of tones, and the segment durations against S = PRI ÷ T. -/
def tonesOk (r : Tab Word) (n : Nat) : Bool :=
  let t := tonesOf r n
  (List.range t).all (fun k => (toneSegs r n k).all (fun j =>
    toneBandOk r n k j && decide (rget r (LNC_SEG_LEN_LEN n j) * t ≤ 2 * priOf r n))) &&
  (List.range t).all (fun k1 => (List.range k1).all (fun k2 =>
    (toneSegs r n k1).all (fun j1 => (toneSegs r n k2).all (fun j2 => bandGapOk r n k1 j1 k2 j2))))

/-- The pair rule (R67): both members are codes with equal chips and chip length. -/
def pairsOk (r : Tab Word) (n : Nat) : Bool :=
  (List.range (tonesOf r n)).all (fun k =>
    !ron r (LNC_TONE_SEG_PAIR n k) ||
    (let a := rget r (LNC_TONE_SEG_SEG_A n k)
     let b := rget r (LNC_TONE_SEG_SEG_B n k)
     rget r (LNC_SEG_KIND_KIND n a) == 2 && rget r (LNC_SEG_KIND_KIND n b) == 2
       && rget r (LNC_SEG_KIND_PARAM n a) == rget r (LNC_SEG_KIND_PARAM n b)
       && rget r (LNC_SEG_KIND_CHIP_SAMP n a) == rget r (LNC_SEG_KIND_CHIP_SAMP n b)))

/-! ### Gates and Raman shots (R69 to R72) -/

def gateMode (r : Tab Word) (n g : Nat) : Nat := rget r (LNC_GATE_CFG_MODE n g)
def gateStart (r : Tab Word) (n g : Nat) : Int := rgetI r (LNC_GATE_START_START n g)
def gateDur (r : Tab Word) (n g : Nat) : Nat := rget r (LNC_GATE_DUR_DUR n g)

/-- The gate settings in SHOT and RAMAN mode (R70). -/
def gatesOk (r : Tab Word) (n : Nat) : Bool :=
  (List.range 4).all (fun g =>
    decide (gateMode r n g < 2) ||
    decide (-20000 ≤ gateStart r n g ∧ gateStart r n g ≤ 100000 ∧ 1 ≤ gateDur r n g ∧ gateDur r n g ≤ 100000 ∧
      (extOf r n = true → -40 ≤ gateStart r n g)))

/-- EVERY: frames per Raman shot (R72). -/
def ramanEvery (r : Tab Word) (n : Nat) : Nat := rget r (LNC_RAMAN_CFG_EVERY n) + 1

/-- TONE is below T, whatever EN is (R72). -/
def ramanOk (r : Tab Word) (n : Nat) : Bool :=
  decide (rget r (LNC_RAMAN_CFG_TONE n) < tonesOf r n)

/-- The checks of code WAVEFORM (R64, R78): R63 for the segments in use (log 29), R65, R67, R70, R72. -/
def waveformOk (r : Tab Word) (n : Nat) : Bool :=
  (segsInUse r n).all (segOk r n) && tonesOk r n && pairsOk r n && gatesOk r n && ramanOk r n

/-- START_min of R40: the smallest START of the gates in SHOT or RAMAN mode, at most 0. -/
def startMin (r : Tab Word) (n : Nat) : Int :=
  (List.range 4).foldl (fun m g => if 2 ≤ gateMode r n g then min m (gateStart r n g) else m) 0

/-! ### The static duty check (R75) -/

/-- Shots of period `p ÷ q` ns in a duty window of 2^20 ns, rounded up. -/
def perWindow (p q : Nat) : Nat := cdiv (1048576 * q) p

def dutyOk (r : Tab Word) (n : Nat) : Bool :=
  let pri := priOf r n
  let t := tonesOf r n
  let lmax := (segsInUse r n).foldl (fun m j => max m (rget r (LNC_SEG_LEN_LEN n j))) 0
  decide (perWindow pri t * lmax ≤ rget r (LNC_ENV_DUTY_MAX_SAMPLES n)) &&
  (List.range 4).all (fun g =>
    let maxDuty := rget r (LNC_ENV_GATE_DUTY_MAX_DUTY n g)
    match gateMode r n g with
    | 1 => decide (maxDuty = 1048576 ∧ rget r (LNC_ENV_GATE_ON_MAX_ON n g) = 0)
    | 2 => decide (perWindow pri t * gateDur r n g ≤ maxDuty)
    | 3 => decide (perWindow (ramanEvery r n * pri) 1 * gateDur r n g ≤ maxDuty)
    | _ => true)

end Sys2Proof.Machine
end

