-- ==== Sys2Proof/Machine/Acq.lean ====
section
/-! DEFINITION. The acquisition array (chapter 03): the correction stage, overrange, foreground and background
calibration. Channels are numbered as in MASK: 0 to 15 coherent, 16 to 23 intensity. -/

namespace Sys2Proof.Machine

/-- The fibre engine of a channel (R96). -/
def chanFe (ch : Nat) : Nat := if ch < 16 then ch / 4 else (ch - 16) / 2

/-- The MASK bits of fibre engine n's channels. -/
def feChans (n : Nat) : Nat := 15 * 2 ^ (4 * n) + 3 * 2 ^ (16 + 2 * n)

/-- The CFG and STAT fields of a channel. -/
def chSrc (ch : Nat) : FRef := if ch < 16 then ACQ_CCH_CFG_SRC ch else ACQ_ICH_CFG_SRC (ch - 16)
def chEn (ch : Nat) : FRef := if ch < 16 then ACQ_CCH_CFG_EN ch else ACQ_ICH_CFG_EN (ch - 16)
def chGain (ch : Nat) : FRef := if ch < 16 then ACQ_CCH_CFG_GAIN ch else ACQ_ICH_CFG_GAIN (ch - 16)
def chOvr (ch : Nat) : FRef := if ch < 16 then ACQ_CCH_STAT_OVR ch else ACQ_ICH_STAT_OVR (ch - 16)
def chOvrCnt (ch : Nat) : FRef := if ch < 16 then ACQ_CCH_OVR_CNT_COUNT ch else ACQ_ICH_OVR_CNT_COUNT (ch - 16)
def chFail (ch : Nat) : FRef := if ch < 16 then ACQ_CCH_STAT_CAL_FAIL ch else ACQ_ICH_STAT_CAL_FAIL (ch - 16)
def chAbort (ch : Nat) : FRef := if ch < 16 then ACQ_CCH_STAT_CAL_ABORT ch else ACQ_ICH_STAT_CAL_ABORT (ch - 16)
def chDrift (ch : Nat) : FRef := if ch < 16 then ACQ_CCH_STAT_DRIFT ch else ACQ_ICH_STAT_DRIFT (ch - 16)

/-- The offset of CALF word w of a channel. -/
def calfOff (ch w : Nat) : Nat := (if ch < 16 then ACQ_CCH_CALF_OG ch 0 else ACQ_ICH_CALF_OG (ch - 16)) + 4 * w

/-- Does SRC select an input pin (R97)? -/
def srcIsPin (ch src : Nat) : Bool := if ch < 16 then decide (src < 16) else decide (src < 8)

/-! ### The correction stage (R103, R104) -/

/-- ln 10 × 2^96. -/
def fixLn10 : Int := 182429585950654714090129938606

/-- 10^(−G/40) with 18 fraction bits; its error is open within 2^−17 (log 10). -/
def gainFactor (g : Nat) : Int :=
  if g = 0 then 2 ^ 18
  else rha (fixExp (-(fixLn10 * g / 40)) * 2 ^ 18) (2 ^ 96) + clampSym (Config.gainErr g) 1

/-- inl(raw, LIN) × 2q for breakpoints at ±4q, ±3q and ±q. -/
def inlScaled (raw q l0 l1 l2 l3 : Int) : Int :=
  if raw ≤ -3 * q then 2 * l0 * (raw + 4 * q)
  else if raw ≤ -q then 2 * q * l0 + (l1 - l0) * (raw + 3 * q)
  else if raw ≤ q then 2 * q * l1 + (l2 - l1) * (raw + q)
  else if raw ≤ 3 * q then 2 * q * l2 + (l3 - l2) * (raw - q)
  else 2 * (l3 * (4 * q - raw))

/-- A byte of a word, two's complement. -/
def byteAt (w : Word) (i : Nat) : Int := sext (w.toNat / 2 ^ (8 * i) % 256) 8

/-- A 16-bit half of a word, two's complement. -/
def halfAt (w : Word) (i : Nat) : Int := sext (w.toNat / 2 ^ (16 * i) % 65536) 16

/-- The corrected sample of a channel at grid instant t, and whether it is overrange (R103, R104): CALF words from the
register file `r`, GAIN from the CFG word in force at the sample (R109). -/
def correct (r : Tab Word) (ch : Nat) (cfg : Word) (t raw : Int) : Int × Bool :=
  let coherent := decide (ch < 16)
  let sub := if coherent then (t % 4).toNat else 0
  let q : Int := if coherent then 2048 else 8192
  let top : Int := 4 * q
  let calf := fun w => tget (resetOf (calfOff ch w)) r (calfOff ch w)
  let og := calf sub
  let lin := calf (8 + sub)
  let g := (chGain ch).of cfg
  let k := g / 12
  let step : Int := if k = 0 then 0 else halfAt (calf (12 + (k - 1) / 2)) ((k - 1) % 2)
  let n1 := raw * (32 * q) + inlScaled raw q (byteAt lin 0) (byteAt lin 1) (byteAt lin 2) (byteAt lin 3)
    - halfAt og 0 * (q / 2)
  let num := n1 * (2 ^ 18 + halfAt og 1) * (2 ^ 16 + step) * 16 * gainFactor g
  let y := rha num ((32 * q).toNat * 2 ^ 52)
  let lim : Int := if coherent then 131071 else 524287
  let z := clampSym y lim
  (z, decide (raw ≤ -top ∨ top - 1 ≤ raw ∨ z ≠ y))

/-! ### Overrange (R111) -/

/-- An overrange sample of a channel at elapsed instant t: counts, the sticky bit, and the source once a window. -/
def State.overrange (s : State) (ch t : Nat) : State :=
  let s1 := ((s.addSat (chOvrCnt ch) 1).set1 (chOvr ch)).ev ACQ_EVENTS_OVR
  let w := s.gridOf t / 1048576
  if vget none s.acq.ovrWin ch = some w then s1
  else
    { s1 with acq := { s1.acq with ovrWin := vset s1.acq.ovrWin ch (some w) } }.present (36 + chanFe ch)

/-! ### Foreground calibration (R112 to R121) -/

def State.setAcq (s : State) (x : AcqSt) : State := { s with acq := x }

/-- CAL_PHASE: the phase of the group that is less far, 7 from the end of both groups on, with or without an NV copy (R114,
log 90). -/
def AcqCal.phase (c : AcqCal) : Nat := if c.saveOnly then 7 else if min c.phC c.phI = 8 then 7 else min c.phC c.phI

/-- Show the phase. -/
def State.calShow (s : State) : State :=
  match s.acq.cal with
  | none => (s.set ACQ_STATUS_CAL_BUSY 0).set ACQ_STATUS_CAL_PHASE 0
  | some c => (s.set ACQ_STATUS_CAL_BUSY 1).set ACQ_STATUS_CAL_PHASE c.phase

/-- The channels of a mask, in order. -/
def chansOf (mask : Nat) : List Nat := (List.range 24).filter (fun ch => mask.testBit ch)

/-- CALIBRATE executes: codes 2 to 4 at acceptance, then the phases begin (R113, R114). No channel has failed in it yet. -/
def State.calStart (s : State) (c : Cmd) (mask : Nat) (nv saveOnly : Bool) : State :=
  if s.mode = 0 ∨ s.mode = 7 then (s.set ACQ_CAL_RESULT_CODE 2).complete c 2 0
  else if s.acq.cal.isSome then (s.set ACQ_CAL_RESULT_CODE 3).complete c 3 0
  else if (chansOf mask).any (fun ch => s.busyFe (chanFe ch)) then (s.set ACQ_CAL_RESULT_CODE 4).complete c 4 0
  else
    let cal : AcqCal := ⟨c, mask, mask, nv, saveOnly, s.now, if mask % 65536 = 0 then 8 else 1,
      if mask / 65536 = 0 then 8 else 1⟩
    let s1 := if saveOnly then s
      else (chansOf mask).foldl (fun s ch => (s.set (chFail ch) 0).set (chAbort ch) 0) s
    ((s1.setReg ACQ_CAL_FAIL 0).setAcq { s1.acq with cal := some cal }).calShow

/-- The phases of each group in order, and their ends from acceptance in ms (R114). -/
def calNext (coherent : Bool) (ph : Nat) : Nat :=
  if coherent then (if ph < 6 then ph + 1 else 8) else (if ph < 3 then ph + 1 else if ph = 3 then 6 else 8)
def calEndMs (coherent : Bool) (ph : Nat) : Nat :=
  if coherent then (match ph with | 1 => 10 | 2 => 30 | 3 => 100 | 4 => 140 | 5 => 160 | _ => 175)
  else (match ph with | 1 => 10 | 2 => 30 | 3 => 90 | _ => 105)

/-- A phase of a group ends. -/
def State.calPhaseEnd (s : State) (coherent : Bool) : State :=
  match s.acq.cal with
  | none => s
  | some c =>
    let ph := if coherent then c.phC else c.phI
    if c.saveOnly ∨ ph = 8 ∨ s.now < c.start + 1000000 * calEndMs coherent ph then s
    else
      let c1 := if coherent then { c with phC := calNext true ph } else { c with phI := calNext false ph }
      (s.setAcq { s.acq with cal := some c1 }).calShow

/-- The command ends with a code. -/
def State.calEnd (s : State) (c : AcqCal) (code : Nat) : State :=
  (((s.setAcq { s.acq with cal := none }).calShow).set ACQ_CAL_RESULT_CODE code).complete c.cmd code 0

/-- Calibration of the channels in a mask is abandoned (R118, R120); with none left the command ends ABORTED. -/
def State.calAbandon (s : State) (mask : Nat) : State :=
  match s.acq.cal with
  | none => s
  | some c =>
    let gone := c.live &&& mask
    if c.saveOnly ∨ gone = 0 then s
    else
      let s1 := ((chansOf gone).foldl (fun s ch => s.set (chAbort ch) 1) s).ev ACQ_EVENTS_CAL_ABORT
      let c1 := { c with live := c.live - gone }
      let s2 := s1.setAcq { s1.acq with cal := some c1 }
      if c1.live = 0 then s2.calEnd c1 5 else s2

/-- A class F reaction abandons the whole command, one that only saves or has no channel left included (R120). -/
def State.calFatal (s : State) : State :=
  match s.acq.cal with
  | none => s
  | some c => if c.saveOnly ∨ c.live = 0 then s.calEnd c 5 else s.calAbandon 0xFFFFFF

/-- Do the measurements of a channel meet the limits of R115? -/
def calPass (ch : Nat) (m : ChanMeas) : Bool :=
  let w := fun i => m.words.getD i 0
  let subs := if ch < 16 then [0, 1, 2, 3] else [0]
  let steps := if ch < 16 then [12, 13] else [12, 13, 14]
  subs.all (fun i => decide ((halfAt (w i) 0).natAbs ≤ 16384 ∧ (halfAt (w i) 1).natAbs ≤ 13107)
    && (List.range 4).all (fun b => decide ((byteAt (w (8 + i)) b).natAbs ≤ 64))) &&
  steps.all (fun i => decide ((halfAt (w i) 0).natAbs ≤ 3277 ∧ (halfAt (w i) 1).natAbs ≤ 3277)) &&
  decide (m.resid.natAbs ≤ 128) &&
  (decide (16 ≤ ch) || (decide (m.spur ≤ -7400) &&
    [4, 5, 6, 7].all (fun i => decide ((halfAt (w i) 0).natAbs ≤ 5000))))

/-- Write a channel's CALF words: the fields that exist (R132); TEMP_CAL is the die temperature. Its drift sums start
afresh (R124). -/
def State.calWrite (s : State) (ch : Nat) (m : ChanMeas) : State :=
  let s1 := (List.range 15).foldl (fun s i =>
    match regAt (calfOff ch i) with
    | some r => s.setReg (calfOff ch i) (m.words.getD i 0 &&& BitVec.ofNat 32 (r.mask (fun _ => true)))
    | none => s) s
  let s2 := s1.setReg (calfOff ch 15) (s1.reg PMC_DIE_TEMP &&& 0xFFFF)
  let own := fun (p : Nat × Int) => decide (calfOff ch 0 ≤ p.1 / 32) && decide (p.1 / 32 < calfOff ch 16)
  s2.setAcq { s2.acq with drift := s2.acq.drift.filter (fun p => !own p) }

/-- The 1,600 bytes copied to the NV store: the CALF words of all channels, then the factors of all pairs (R114). -/
def State.acqNvBytes (s : State) : List Byte :=
  ((List.range 24).flatMap (fun ch => (List.range 16).flatMap (fun w => leBytes 4 (s.reg (calfOff ch w)).toNat)))
    ++ ((List.range 8).flatMap (fun p =>
      leBytes 4 (s.reg (ACQ_IQ_A p)).toNat ++ leBytes 4 (s.reg (ACQ_IQ_B p)).toNat))

/-- The pairs calibrated: both channels selected, not abandoned and passing (R112, R115). -/
def pairsOf (ok : List Nat) : List Nat := (List.range 8).filter (fun p => decide (2 * p ∈ ok ∧ 2 * p + 1 ∈ ok))

/-- The end of a CALIBRATE: passing channels and pairs are written in one step, then the NV copy (R113 to R116). A command
that is PARTIAL and whose NV copy failed ends with NV_FAIL alone (log 68). -/
def State.calDone (s : State) (r : AcqMeas) : State :=
  match s.acq.cal with
  | none => s
  | some c =>
    if !c.saveOnly && (c.phC != 8 || c.phI != 8) then s
    else
      let live := if c.saveOnly then [] else chansOf c.live
      let meas := fun ch => (r.chans.find? (fun p => p.1 == ch)).map (·.2)
      let ok := live.filter (fun ch => match meas ch with | some m => calPass ch m | none => false)
      let bad := live.filter (fun ch => !(ok.contains ch))
      let s1 := ok.foldl (fun s ch => match meas ch with | some m => s.calWrite ch m | none => s) s
      let s2 := r.pairs.foldl (fun s p =>
        if (pairsOf ok).contains p.1 then
          ((s.setI (ACQ_IQ_A_A p.1) p.2.1).setI (ACQ_IQ_B_B p.1) p.2.2).set (ACQ_STATUS_IQ_CONV.bit p.1) 0
        else s) s1
      let s3 := bad.foldl (fun s ch => (s.set (chFail ch) 1).set ⟨ACQ_CAL_FAIL, ch, 1⟩ 1) s2
      let s4 := if ok.isEmpty then s3
        else (s3.set ACQ_CAL_RESULT_TEMP (s3.get PMC_DIE_TEMP_TEMP)).ev ACQ_EVENTS_CAL_DONE
      let partly := !c.saveOnly && (!bad.isEmpty || c.live != c.mask)
      let copy := c.saveOnly || c.nv
      let s5 := if copy && r.nvOk then s4.nvPut nvAcqCal s4.acqNvBytes else s4
      let code : Nat := if copy && !r.nvOk then 6 else if partly then 1 else 0
      let s6 := if code = 6 then s5.ev ACQ_EVENTS_NV_FAIL else if code = 1 then s5.ev ACQ_EVENTS_CAL_PARTIAL else s5
      s6.calEnd c code

/-! ### Background calibration (R122 to R127) -/

/-- Changes wait for the next frame start of their fibre engine (R122, R125, R126). -/
def State.bgQueue (s : State) (n : Nat) (l : List CalUpd) : State :=
  s.modF n (fun f => { f with calPend := f.calPend ++ l })

/-- The field of the register map. -/
def CalFld.ref : CalFld → FRef
  | .ofs c i => ACQ_CCH_CALF_OG_OFS c i
  | .gain c i => ACQ_CCH_CALF_OG_GAIN_CAL c i
  | .skew c i => ACQ_CCH_CALF_SKEW_SKEW c i
  | .intOfs i => ACQ_ICH_CALF_OG_OFS i
  | .iqA p => ACQ_IQ_A_A p
  | .iqB p => ACQ_IQ_B_B p

/-- The sum of background changes of a field. -/
def State.driftSum (s : State) (f : FRef) : Int := tget 0 s.acq.drift (32 * f.off + f.lo)

/-- Does a sum exceed its limit in DRIFT_LIM: converter LSB, 100 ppm, 100 fs (R124)? -/
def State.driftOver (s : State) (what : Nat) (sum : Int) : Bool :=
  match what with
  | 0 => decide (64 * s.get ACQ_DRIFT_LIM_OFS < sum.natAbs)
  | 1 => decide (2 ^ 18 * s.get ACQ_DRIFT_LIM_GAIN < sum.natAbs * 10000)
  | 2 => decide (100 * s.get ACQ_DRIFT_LIM_SKEW < sum.natAbs * 4)
  | _ => false

/-- One change takes effect; the sum runs on, and DRIFT is raised once (R124). -/
def State.bgApply (s : State) (u : CalUpd) : State :=
  let old := s.getI u.fld.ref
  let new := max u.lo (min u.hi (old + u.d))
  let s1 := s.setI u.fld.ref new
  if u.what = 3 then s1
  else
    let sum := s.driftSum u.fld.ref + (new - old)
    let s2 := s1.setAcq { s1.acq with drift := tput 0 s1.acq.drift (32 * u.fld.ref.off + u.fld.ref.lo) sum }
    if s2.driftOver u.what sum && !s2.on (chDrift u.ch) then
      ((s2.set1 (chDrift u.ch)).ev ACQ_EVENTS_DRIFT).present (40 + chanFe u.ch)
    else s2

/-- The background block of a channel. -/
def State.blk (s : State) (ch : Nat) : BgBlk := vget BgBlk.init s.acq.blk ch

/-- Change the background block of a channel. -/
def State.setBlk (s : State) (ch : Nat) (b : BgBlk) : State := s.setAcq { s.acq with blk := vset s.acq.blk ch b }

/-- The waiting changes of a fibre engine take effect at a frame start (R42); the samples of its channels from now on have the
new factors. Changes wait through a disarm and a foreground calibration (log 90). -/
def State.bgFrameStart (s : State) (n : Nat) : State :=
  let l := (s.f n).calPend
  let s1 := l.foldl (fun s u => s.bgApply u) (s.modF n (fun f => { f with calPend := [] }))
  (l.map (·.ch)).foldl (fun s ch =>
    if ch < 24 then s.setBlk ch { s.blk ch with regs := (s.now, s.regs) :: (s.blk ch).regs } else s) s1

/-- Does coherent background calibration run on channel c (R122)? -/
def State.bgCoh (s : State) (c : Nat) : Bool :=
  s.on ACQ_CAL_CTL_BG_CC_EN && s.on (chEn c) && s.lstate (chanFe c) == 2 && srcIsPin c (s.get (chSrc c))
    && decide (s.ladder = 0)

/-- Does intensity background calibration run on IC i (R126)? -/
def State.bgInt (s : State) (i : Nat) : Bool :=
  s.on ACQ_CAL_CTL_BG_IC_EN && s.on (chEn (16 + i)) && s.lstate (i / 2) == 2
    && decide (s.get (ACQ_FE_DARK_LEN_LEN (i / 2)) ≠ 0) && decide (s.ladder = 0)

/-- The block of a coherent channel goes on while background calibration runs on it, and waits while it does not. -/
def State.bgSync (s : State) (c : Nat) : State :=
  let b := s.blk c
  match s.bgCoh c, b.run with
  | true, none => s.setBlk c { b with run := some (max s.now b.from_), regs := (s.now, s.regs) :: b.regs }
  | false, some a => s.setBlk c { b with run := none, spans := if a < s.now then b.spans ++ [(a, s.now)] else b.spans }
  | _, _ => s

/-- The part of a span before an instant. -/
def cutSpan (t : Nat) (p : Nat × Nat) : Option (Nat × Nat) := if p.1 < t then some (p.1, min p.2 t) else none

/-- The part of a span from an instant on. -/
def spanFrom (t : Nat) (p : Nat × Nat) : Option (Nat × Nat) := if t < p.2 then some (max p.1 t, p.2) else none

/-- The block of an intensity channel takes no dark sample from now on, once its background calibration does not run. -/
def State.bgSyncInt (s : State) (i : Nat) : State :=
  if s.bgInt i then s
  else s.setBlk (16 + i) { s.blk (16 + i) with spans := (s.blk (16 + i)).spans.filterMap (cutSpan s.now) }

/-- Background calibration goes on or waits on the channels of a fibre engine. -/
def State.bgSyncFe (s : State) (n : Nat) : State :=
  [2 * n, 2 * n + 1].foldl State.bgSyncInt ((List.range 4).foldl (fun s c => s.bgSync (4 * n + c)) s)

/-- The same for all channels. -/
def State.bgSyncAll (s : State) : State := (List.range 4).foldl State.bgSyncFe s

/-- A group has changed SRC or GAIN of a channel: the block in progress is discarded, and a new one starts at an instant
(R109, R123), with the dark samples that launched shots have still to take from there on. -/
def State.bgRestart (s : State) (ch at_ : Nat) : State :=
  let b := s.blk ch
  s.setBlk ch ⟨b.spans.filterMap (spanFrom at_), if ch < 16 && s.bgCoh ch then some at_ else none, at_, [(at_, s.regs)],
    b.seen.filterMap (spanFrom at_)⟩

/-- The dark interval of a launched shot joins the blocks of its intensity channels (R126). -/
def State.darkSpan (s : State) (n : Nat) : State :=
  let a := s.now + s.get (TIM_FE_REF_OFS_REF_OFS n) + s.get (ACQ_FE_DARK_START_START n)
  [2 * n, 2 * n + 1].foldl (fun s i =>
    if s.bgInt i then
      let b := s.blk (16 + i)
      s.setBlk (16 + i) { b with
        spans := b.spans ++ [(max a b.from_, a + s.get (ACQ_FE_DARK_LEN_LEN n))]
        regs := if b.regs.isEmpty then [(s.now, s.regs)] else b.regs }
    else s) s

/-- A shot has counted the overrange samples of a channel between two instants: a block in progress counts none of them again
(R111). -/
def State.blkSeen (s : State) (ch a b : Nat) : State :=
  let k := s.blk ch
  if k.run.isSome || !k.spans.isEmpty then s.setBlk ch { k with seen := k.seen ++ [(a, b)] } else s

/-- The background blocks in progress are discarded, and with them the changes that wait for a frame start: of the background
state, L4 keeps the factors alone (R128). -/
def State.bgDiscard (s : State) : State :=
  (List.range 4).foldl (fun s n => s.modF n (fun f => { f with calPend := [] }))
    (s.setAcq { s.acq with blk := Vector.replicate 24 BgBlk.init, blind := Vector.replicate 8 BlindBlk.init })

/-- The instants in spans at which a channel converts (R105). -/
def State.convAt (s : State) (ch : Nat) (l : List (Nat × Nat)) : List Nat :=
  l.flatMap (fun p => ((List.range (p.2 - p.1)).map (p.1 + ·)).filter (fun t => decide (ch < 16) || s.gridOf t % 4 == 0))

/-- The instants of a block's samples so far. -/
def State.blkAt (s : State) (ch : Nat) : List Nat :=
  s.convAt ch ((s.blk ch).spans ++ ((s.blk ch).run.map (fun a => (a, s.now))).toList)

/-- A sample of a background block: its instant, sub-ADC, converter code, corrected value, and overrange. -/
structure BgSample where
  t   : Nat
  sub : Nat
  raw : Int
  y   : Int
  ovr : Bool

/-- The samples of a block at their instants, corrected with the settings in force for each (R103, R104). -/
def State.bgSamples (s : State) (ch : Nat) (raw : List Int) (ts : List Nat) : List BgSample :=
  (List.zip ts raw).map (fun p =>
    let r := (((s.blk ch).regs.find? (fun x => decide (x.1 ≤ p.1))).map (·.2)).getD s.regs
    let cfg := if ch < 16 then ACQ_CCH_CFG ch else ACQ_ICH_CFG (ch - 16)
    let y := correct r ch (tget (resetOf cfg) r cfg) (s.gridOf p.1) p.2
    ⟨p.1, (s.gridOf p.1 % 4).toNat, p.2, y.1, y.2⟩)

/-- A block ends: overrange samples that no shot counted are counted (R111), and the next block starts with the sample after
its last. -/
def State.bgNext (s : State) (ch : Nat) (l : List BgSample) (last : Nat) : State :=
  let b := s.blk ch
  let upto := vget 0 s.acq.ovrTo ch
  let seen := fun (t : Nat) => decide (t < upto) || b.seen.any (fun p => decide (p.1 ≤ t ∧ t < p.2))
  let s1 := (l.filter (fun x => x.ovr && !seen x.t)).foldl (fun s x => s.overrange ch x.t) s
  let old := b.regs.filter (fun x => decide (x.1 ≤ last + 1))
  let s2 := s1.setBlk ch { b with
    spans := b.spans.filterMap (spanFrom (last + 1))
    run := b.run.map (fun a => max a (last + 1))
    regs := b.regs.filter (fun x => decide (last + 1 < x.1)) ++ old.take 1
    seen := b.seen.filter (fun p => decide (last + 1 < p.2)) }
  s2.setAcq { s2.acq with ovrTo := vset s2.acq.ovrTo ch (max upto (last + 1)) }

/-- The sum of a quantity over the samples of sub-ADC i that are not overrange (R111). -/
def bgSum (l : List BgSample) (i : Nat) (g : BgSample → Int) : Int :=
  ((l.filter (fun x => !x.ovr && x.sub == i)).map g).foldl (· + ·) 0

/-- Neighbouring samples, neither of them overrange. -/
def bgPairs (l : List BgSample) : List (BgSample × BgSample) :=
  (List.zip l l.tail).filter (fun p => !p.1.ovr && !p.2.ovr && p.1.t + 1 == p.2.t)

/-- The sum of products with the neighbours over sub-ADC i, and their number. -/
def bgCorr (ps : List (BgSample × BgSample)) (i : Nat) : Int × Int :=
  let own := ps.filter (fun p => p.1.sub == i) ++ ps.filter (fun p => p.2.sub == i)
  ((own.map (fun p => p.1.y * p.2.y)).foldl (· + ·) 0, own.length)

/-- The moves of OFS, GAIN_CAL and SKEW of sub-ADC i towards equality (R122): its mean against the channel mean, its mean
square against the channel's, its correlation with its neighbours against that of the other sub-ADCs. Which way SKEW moves
for a correlation that is too large is free (log 1, 70). -/
def bgMove (idx : Nat) (l : List BgSample) (ps : List (BgSample × BgSample)) (i : Nat) : Int × Int × Int :=
  let tot := fun (g : Nat → Int) => ((List.range 4).map g).foldl (· + ·) 0
  let cnt := fun k => bgSum l k (fun _ => 1)
  let sum := fun k => bgSum l k (fun x => x.y)
  let sq := fun k => bgSum l k (fun x => x.y * x.y)
  let c := bgCorr ps i
  let o := ((List.range 4).filter (· != i)).map (bgCorr ps)
  let oc := (o.map (·.1)).foldl (· + ·) 0
  let on := (o.map (·.2)).foldl (· + ·) 0
  ((sum i * tot cnt - tot sum * cnt i).sign, -(sq i * tot cnt - tot sq * cnt i).sign,
    if c.1 * on = oc * c.2 then 0 else if Config.freeNat (idx + i) % 2 = 0 then 1 else -1)

/-- Samples of a coherent block (R122), of an intensity block (R126), of a blind IQ block (R125). -/
def bgLen : Nat := 2 ^ 22
def darkLen : Nat := 2 ^ 16
def blindLen : Nat := 2 ^ 24

/-- The end of a coherent background block: OFS, GAIN_CAL and SKEW of each sub-ADC move by at most one unit (R122). `raw`
holds the converter codes of the block in order. -/
def State.bgBlock (s : State) (c : Nat) (raw : List Int) : State :=
  if s.bgCoh c then
    let ts := (s.blkAt c).take bgLen
    if ts.length = bgLen then
      let l := s.bgSamples c raw ts
      let ps := bgPairs l
      let ups := (List.range 4).flatMap (fun i =>
        let d := bgMove s.freeIdx l ps i
        [(⟨c, .ofs c i, d.1, -16384, 16384, 0⟩ : CalUpd), ⟨c, .gain c i, d.2.1, -13107, 13107, 1⟩,
         ⟨c, .skew c i, d.2.2, -5000, 5000, 2⟩])
      ((s.bgNext c l (ts.getLastD 0)).bgQueue (c / 4) ups).nextFree.nextFree.nextFree.nextFree
    else s
  else s

/-- A quotient towards one of its two neighbours, as a free bit says (log 1): its rounding is not stated. -/
def freeQuot (idx : Nat) (a : Int) (b : Nat) : Int :=
  if a % b = 0 then a / b else a / b + (Config.freeNat idx % 2 : Nat)

/-- The end of an intensity background block: OFS moves towards the block mean, in 1/64 converter LSB, by at most four
units (R126); where every sample is overrange there is no mean, and it stays (log 70). -/
def State.darkBlock (s : State) (i : Nat) (raw : List Int) : State :=
  if s.bgInt i then
    let ts := (s.blkAt (16 + i)).take darkLen
    if ts.length = darkLen ∧ ts.getLastD 0 ≤ s.now then
      let l := s.bgSamples (16 + i) raw ts
      let good := l.filter (fun x => !x.ovr)
      let mean := freeQuot s.freeIdx (64 * (good.map (·.raw)).foldl (· + ·) 0) good.length
      let s1 := (s.bgNext (16 + i) l (ts.getLastD 0)).nextFree
      if good.isEmpty then s1
      else s1.bgQueue (i / 2) [⟨16 + i, .intOfs i, clampSym (mean - s.getI (ACQ_ICH_CALF_OG_OFS i)) 4, -16384, 16384, 0⟩]
    else s
  else s

/-- A × sqrt(P_I ÷ P_Q), limited to a relative change of 2^−12 (R125); with P_Q = 0 the limited change is free. -/
def blindA (idx : Nat) (a : Int) (ii qq : Nat) : Int :=
  let lim := a / 4096
  if qq = 0 then a + clampSym (Config.freeInt idx) lim
  else
    let sq := (a * a).toNat * ii
    let root := isqrt (sq / qq)
    let x : Int := if root * root * qq = sq then (root : Int) else (root : Int) + (Config.freeNat idx % 2 : Nat)
    a + clampSym (x - a) lim

/-- A pair of samples joins the blind IQ block: I and the corrected Q'. -/
def BlindBlk.add (b : BlindBlk) (x : Int × Int) : BlindBlk :=
  let ii := b.ii + x.1 * x.1
  let qq := b.qq + x.2 * x.2
  let iq := b.iq + x.1 * x.2
  if b.n + 1 = blindLen then ⟨0, 0, 0, 0, b.full ++ [(ii, qq, iq)]⟩ else ⟨b.n + 1, ii, qq, iq, b.full⟩

/-- The blind IQ block of a pair. -/
def State.blind (s : State) (p : Nat) : BlindBlk := vget BlindBlk.init s.acq.blind p

/-- Does blind IQ refinement run on pair p (R125)? -/
def State.blindOn (s : State) (p : Nat) : Bool :=
  s.on ACQ_CAL_CTL_IQ_BLIND && s.lstate (p / 2) == 2 && decide (s.ladder = 0)

/-- Pairs of samples join the block of pair p, whose sums wait through a disarm, IQ_BLIND = 0 and a foreground phase (R125,
log 90). -/
def State.blindAdd (s : State) (p : Nat) (l : List (Int × Int)) : State :=
  s.setAcq { s.acq with blind := vset s.acq.blind p (l.foldl BlindBlk.add (s.blind p)) }

/-- The end of a blind IQ block (R125): A and B of a pair, from the block sums of I², Q'² and I·Q'. The change of B is
limited to 2^−12; a change below 2^−14 in both sets IQ_CONV. -/
def State.blindBlock (s0 : State) (p : Nat) : State :=
  let n := p / 2
  match s0.blindOn p, (s0.blind p).full with
  | true, (sumII, sumQQ, sumIQ) :: rest =>
    let s := s0.setAcq { s0.acq with blind := vset s0.acq.blind p { s0.blind p with full := rest } }
    let ii := sumII.natAbs
    let qq := sumQQ.natAbs
    let a := s.getI (ACQ_IQ_A_A p)
    let a1 := blindA s.freeIdx a ii qq
    let db := if ii = 0 then clampSym (Config.freeInt (s.freeIdx + 1)) 64
      else clampSym (freeQuot (s.freeIdx + 1) (-(sumIQ * 2 ^ 18)) ii) 64
    let small := decide ((qq : Int) ≠ 0 ∧ ii ≠ 0 ∧
        ((2 ^ 14 - 1) ^ 2 * qq < 2 ^ 28 * ii ∧ 2 ^ 28 * ii < (2 ^ 14 + 1) ^ 2 * qq) ∧
        sumIQ.natAbs * 2 ^ 14 < ii)
    let s1 := s.nextFree.nextFree.bgQueue n
      [⟨24, .iqA p, a1 - a, 0x20000, 0x7FFFF, 3⟩, ⟨24, .iqB p, db, -0x10000, 0x10000, 3⟩]
    if small then (s1.set (ACQ_STATUS_IQ_CONV.bit p) 1).ev ACQ_EVENTS_IQ_CONV else s1
  | _, _ => s0

/-- A channel fails (R127): a sub-ADC stuck or a clock stopped, since an elapsed instant. -/
def State.chanFail (s : State) (ch since : Nat) : State :=
  let n := chanFe ch
  if s.on (chEn ch) && srcIsPin ch (s.get (chSrc ch)) && s.lstate n == 2 then
    ((s.modF n (fun f => { f with chFailSince := some since })).ev ACQ_EVENTS_CH_FAIL).present (32 + n)
  else s

/-! ### Settings -/

/-- The dark interval fits the frame (R126). -/
def darkOk (r : Tab Word) (n : Nat) : Bool :=
  let len := rget r (ACQ_FE_DARK_LEN_LEN n)
  decide (len = 0 ∨ rget r (TIM_FE_REF_OFS_REF_OFS n) + rget r (ACQ_FE_DARK_START_START n) + len ≤ priOf r n)

end Sys2Proof.Machine
end

