-- ==== Sys2Proof/Machine/Filters.lean ====
section
/-! DEFINITION. The three fixed filters of the phase pipeline (R140, R141, R143, R150). The manual gives their responses and
not their taps: the taps are free values of Config, held to the responses, which are looked at in steps of 1 MHz (log 8).
Taps of the channel filter and of the reference filter carry 24 fraction bits, those of the interpolator 17. -/

namespace Sys2Proof.Machine

/-- The squared magnitude of a filter's response at f of fs MHz, for taps of `bits` fraction bits, × 2^64. -/
def respPow (h : List Int) (bits f fs : Nat) : Int :=
  let cs := h.zipIdx.map (fun p => let c := cosSin (f * p.2) fs; (p.1 * c.1, p.1 * c.2))
  let re := (cs.map (·.1)).foldl (· + ·) 0
  let im := (cs.map (·.2)).foldl (· + ·) 0
  (re * re + im * im) / 2 ^ (128 + 2 * bits)

/-- Is a squared magnitude within ±d hundredths of a dB, with 10^(d ÷ 1000) = 1 + e × 10^−9? -/
def nearUnity (x e : Int) : Bool :=
  decide (2 ^ 64 * 10 ^ 9 ≤ x * (10 ^ 9 + e) ∧ x * 10 ^ 9 ≤ 2 ^ 64 * (10 ^ 9 + e))

/-- The passband: ±100 MHz, in steps of 1 MHz. -/
def passOk (h : List Int) (bits fs : Nat) (e : Int) : Bool :=
  (List.range 101).all (fun f => nearUnity (respPow h bits f fs) e)

/-- R141: unity gain at 0 Hz, ±0.01 dB to 100 MHz, at least 85 dB of attenuation from 150 MHz on. -/
def chanFilterOk (h : List Int) : Bool :=
  h.foldl (· + ·) 0 == 2 ^ 24 && passOk h 24 1000 2305238 &&
    (List.range 351).all (fun k => decide (respPow h 24 (150 + k) 1000 * 10 ^ 10 ≤ 31 * 2 ^ 64))

/-- R143: the passband of the channel filter, at 2 GS/s. -/
def refFilterOk (h : List Int) : Bool := h.foldl (· + ·) 0 == 2 ^ 24 && passOk h 24 2000 2305238

/-- Tap q of phase ph of the interpolator, g[ph][q − 3], from the taps of phases 1 to 3; phase 0 is the identity (R150). -/
def interpTap (g : List (List Int)) (ph q : Nat) : Int :=
  if ph = 0 then (if q = 3 then 2 ^ 17 else 0) else (g.getD (ph - 1) []).getD q 0

/-- R150: ±0.05 dB to ±100 MHz. The bound is taken on the whole filter, whose tap ph − 4q at 1 GS/s is g[ph][q], since no
eight taps keep a phase of its own within it (log 8). -/
def interpOk (g : List (List Int)) : Bool :=
  passOk ((List.range 32).map (fun k => interpTap g (k % 4) (7 - k / 4))) 19 1000 11579454

/-- Taps that meet R141. -/
def chanTaps0 : List Int :=
  [9196, 46942, 149576, 365363, 739454, 1287881, 1969236, 2668622, 3208782, 3395155, 3086209, 2264112, 1072736,
   -203032, -1220591, -1700278, -1535807, -844434, 71521, 841970, 1177891, 986784, 402430, -284881, -764969,
   -847028, -536855, -18528, 445925, 646182, 518303, 161079, -227838, -457942, -437875, -209053, 90102, 304160,
   339862, 204566, -10692, -188101, -245862, -174014, -28710, 106223, 165882, 133880, 42386, -52555, -103556,
   -94143, -41114, 20508, 58793, 60279, 32677, -3775, -29353, -34556, -22268, -3101, 11961, 17075, 12916, 4351,
   -3305, -7033, -6760, -4303, -1719, -166, 443]

/-- Taps that meet R143: one half, and the whole, which is symmetric. -/
def refHalf0 : List Int :=
  [-10688, -62, 1099, 2769, 4614, 6186, 7009, 6675, 4876, 1945, -2297, -6949, -11164, -14065, -14858, -12991,
   -8315, -1162, 7484, 16368, 23798, 28125, 28044, 22866, 12730, -1298, -17286, -32623, -44479, -50202, -47879,
   -36777, -17624, 7324, 34481, 59389, 77371, 84353, 77632, 56545, 22843, -19305, -63729, -103064, -129864,
   -137860, -123180, -85308, -27604, 42767, 115548, 178720, 220184, 229786, 201174, 133331, 31477, -92871, -222747,
   -337492, -415385, -436044, -383760, -249772, -34133, 253517, 594351, 961951, 1324411, 1650605, 1908783, 2074505,
   2131618]
def refTaps0 : List Int := refHalf0 ++ refHalf0.dropLast.reverse

/-- Taps of phases 1 to 3 that meet R150. -/
def interpTaps0 : List (List Int) :=
  [[-10524, 17892, -32255, 129918, 25066, -1682, -4315, 6908], [-3758, 10470, -23402, 82191, 82191, -23402, 10470, -3758],
   [6908, -4315, -1682, 25066, 129918, -32255, 17892, -10524]]

/-- The channel filter: h[j − 36] at index j. -/
def chanTaps : List Int :=
  let h := (List.range 73).map (Config.filterTap 0)
  if chanFilterOk h then h else chanTaps0

/-- The reference filter, centred at index 72. -/
def refTaps : List Int :=
  let h := (List.range 145).map (Config.filterTap 1)
  if refFilterOk h then h else refTaps0

/-- The interpolator's phase ph: g[ph][q − 3] at index q. -/
def interpTaps (ph : Nat) : List Int :=
  let h := [1, 2, 3].map (fun p => (List.range 8).map (fun q => Config.filterTap 2 (8 * p + q)))
  (List.range 8).map (interpTap (if interpOk h then h else interpTaps0) ph)

/-- Entry i of the channeliser's tables of cosine and sine (R140): signed 18-bit, 17 fraction bits, so that 1 is held as
131,071 (log 8). -/
def chanTab (i : Nat) : Int × Int :=
  let p := mixTab i
  (sat p.1 18, sat p.2 18)

end Sys2Proof.Machine
end

