-- ==== Sys2Proof/Machine/Mem.lean ====
section
/-! DEFINITION. Berm and DRAM (chapter 13): memory errors, refresh, self-refresh, temperature bands, the test engine and
the history ring. -/

namespace Sys2Proof.Machine

def State.setMem (s : State) (x : MemSt) : State := { s with mem := x }

/-- The system share of the registers is placed (R457). -/
def State.setShare (s : State) : State :=
  s.setMem { s.mem with share := (s.get MEM_SYS_SHARE_HIST, s.get MEM_SYS_SHARE_SPILL, s.get MEM_SYS_SHARE_DRAIN) }

/-! ### Images and regions (R448, R456) -/

/-- The admitted images. -/
def State.images (s : State) : List Image := s.sch.img.toList.filterMap id

/-- Is any image admitted? -/
def State.anyImage (s : State) : Bool := !s.images.isEmpty

/-- The fibre engine that owns a Berm bank (R448). -/
def State.bankOwner (s : State) (b : Nat) : Option Nat :=
  ((s.images.flatMap (·.bankFe)).find? (fun p => p.1 == b)).map (·.2)

/-- The Berm banks an item reaches. -/
def mapBanks (i : MapItem) : List Nat :=
  (List.range 64).filter (fun k => decide (i.base < (k + 1) * 1048576 ∧ k * 1048576 < i.base + i.size))

/-- Gb per channel, by DENSITY (R453). -/
def densityGb : Nat → Nat
  | 0 => 8 | 1 => 12 | 2 => 16 | 3 => 24 | _ => 32

/-- Addressable MiB: 7/8 of four channels (R454). -/
def State.capMib (s : State) : Nat := 4 * densityGb (s.get MEM_CFG_DENSITY) * 128 * 7 / 8

/-- Do two regions [a, a + n) and [b, b + m) overlap? -/
def overlaps (a n b m : Nat) : Bool := decide (0 < n ∧ 0 < m ∧ a < b + m ∧ b < a + n)

/-- DRAM items of the admitted images: base and size. -/
def State.dramItems (s : State) : List (Nat × Nat) :=
  (s.images.flatMap (·.items)).filterMap (fun i => if i.berm then none else some (i.base, i.size))

/-- Does a region lie inside the DRAM and clear of the eye and test area and of other regions (R456)? Empty regions lie
nowhere. -/
def State.regionOk (s : State) (base size : Nat) (others : List (Nat × Nat)) : Bool :=
  let cap := s.capMib * 1048576
  size == 0 || (decide (base + size ≤ cap) && !overlaps base size (cap - 65536) 65536
    && others.all (fun o => !overlaps base size o.1 o.2))

/-- The spillway and the history ring, as a register file places them: base and size in bytes. -/
def spillRegion (r : Tab Word) : Nat × Nat :=
  (rget r HIF_SPILL_BASE_LO_BASE + 2 ^ 32 * rget r HIF_SPILL_BASE_HI_BASE, rget r HIF_SPILL_SIZE_SIZE_MIB * 1048576)
def histRegion (r : Tab Word) : Nat × Nat :=
  (rget r MEM_HIST_BASE_LO_BASE + 2 ^ 32 * rget r MEM_HIST_BASE_HI_BASE, rget r MEM_HIST_SIZE_MIB * 1048576)

/-- Would the regions of a register file keep R456? -/
def State.regionsOk (s : State) (r : Tab Word) : Bool :=
  s.regionOk (spillRegion r).1 (spillRegion r).2 (histRegion r :: s.dramItems) &&
  s.regionOk (histRegion r).1 (histRegion r).2 (spillRegion r :: s.dramItems)

/-! ### Errors in Berm and DRAM (R449 to R451, R455) -/

/-- Queue a corrected line for write-back: four lines per bank, one for each fabric cycle that is a multiple of 64 (R447,
R449). -/
def State.writeBack (s : State) (bank line : Nat) : State :=
  let left := s.mem.wb.filter (fun x => decide (s.now < x.2.2))
  let own := left.filter (fun x => x.1 == bank)
  let last := own.foldl (fun m x => max m x.2.2) s.now
  let slot := s.elapsedOf ((s.gridOf last / 64 + 1) * 64)
  s.setMem { s.mem with wb := if own.length < 4 then left ++ [(bank, line, slot)] else left }

/-- Does an error poison the word that is read (R450, R455)? -/
def MemErr.poisons : MemErr → Bool
  | .bermDouble .. | .dramDouble .. => true
  | .bermSingle .. | .dramSingle .. | .linkEcc .. | .lineWritten .. => false

/-- What a command's accesses meet. `owner` is the fibre engine whose slot or bank is read, `none` for the spillway, the
history ring and the scrubber. -/
def State.memErr (s : State) (owner : Option Nat) (e : MemErr) : State :=
  match e with
  | .bermSingle bank line =>
    ((((s.addSat BRM_SBE_CNT_COUNT 1).ev BRM_EVENTS_SBE).present 76)).writeBack bank line
  | .bermDouble bank _ =>
    let s1 := s.addSat BRM_DBE_CNT_COUNT 1
    match (match owner with | some n => some n | none => s.bankOwner bank) with
    | some n => (s1.ev BRM_EVENTS_DBE).present (56 + n)
    | none => (s1.ev BRM_EVENTS_SCRUB_DBE).present 77
  | .dramSingle c => (s.addSat (MEM_CH_CE_CNT_STORE c) 1).ev MEM_EVENTS_CE
  | .dramDouble c =>
    ((s.addSat (MEM_CH_UE_CNT_COUNT c) 1).ev MEM_EVENTS_UE).present (match owner with | some n => 60 + n | none => 79)
  | .linkEcc c => ((s.addSat (MEM_CH_CE_CNT_LINK c) 1).ev MEM_EVENTS_LINK_CE).present 78
  | .lineWritten bank line => s.setMem { s.mem with wb := s.mem.wb.filter (fun x => !(x.1 == bank && x.2.1 == line)) }

/-! ### Refresh (R460 to R463) -/

/-- Is channel c in self-refresh? -/
def State.inSr (s : State) (c : Nat) : Bool := s.on (MEM_CH_STATUS_SR c)

/-- The work of fibre engine n reads and writes DRAM in the slots of the images that cover it (R458, R464). -/
def State.memWork (s : State) (n : Nat) : State :=
  let own := (s.images.filter (fun i => i.feMask.testBit n)).flatMap (fun i => i.slots.map (·.1))
  s.memUsed ((List.range 4).foldl (fun m c => if own.contains c then m + 2 ^ c else m) 0)

/-- Does channel c take refreshes now (R464)? -/
def State.refreshing (s : State) (c : Nat) : Bool := s.on MEM_STATUS_INIT_DONE && !s.inSr c

/-- Issue n REFab. -/
def State.refab (s : State) (c n : Nat) : State := s.addWrap (MEM_CH_REF_CNT_COUNT c) n

/-- Restart the tick timer. -/
def State.tickRestart (s : State) (c : Nat) : State := s.setMem { s.mem with tick := vset s.mem.tick c s.now }

/-- A refresh tick (R460). -/
def State.refreshTick (s : State) (c : Nat) : State :=
  if s.refreshing c then
    let s1 := s.tickRestart c
    if s.getI (MEM_CH_STATUS_OWED c) = 8 then ((s1.refab c 1).ev MEM_EVENTS_REF_MISS).present 80
    else s1.setI (MEM_CH_STATUS_OWED c) (s.getI (MEM_CH_STATUS_OWED c) + 1)
  else s

/-- The delay words of channel c in band b. -/
def State.bandWords (s : State) (c b : Nat) : List (Nat × Word) :=
  (List.range 23).map (fun w => (32 * c + w, s.reg (MEM_CH_DLY c b w)))

/-- Channel c takes the delays of the band in use (R470, R471); BAND_SWITCH follows the last channel of a band change. -/
def State.takeDelays (s : State) (c : Nat) : State :=
  let bit := 2 ^ c
  if (s.mem.bandDue ||| s.mem.dlyDue) &&& bit = 0 then s
  else
    let dly := (s.bandWords c (s.get MEM_STATUS_BAND)).foldl (fun t p => tput 0 t p.1 p.2) s.mem.dly
    let due := s.mem.bandDue - (s.mem.bandDue &&& bit)
    let s1 := s.setMem { s.mem with dly := dly, bandDue := due, dlyDue := s.mem.dlyDue - (s.mem.dlyDue &&& bit) }
    if s.mem.bandDue ≠ 0 ∧ due = 0 then s1.ev MEM_EVENTS_BAND_SWITCH else s1

/-- A refresh window in force (R460, R470). -/
def State.refreshWindow (s : State) (c : Nat) : State :=
  if s.refreshing c then
    let o := s.getI (MEM_CH_STATUS_OWED c)
    let n := min 9 (o + 1).toNat
    ((s.refab c n).setI (MEM_CH_STATUS_OWED c) (o - n)).takeDelays c
  else s

/-- An MR4 field that calls for twice the 1x rate or more, and one that calls for at most the 1x rate: the refresh-rate codes
of JESD209-5C (log 11). -/
def mr4Double (f : Nat) : Bool := decide (0x0B ≤ f)
def mr4Base (f : Nat) : Bool := decide (f ≤ 0x09)
def mr4Over (f : Nat) : Bool := decide (0x0C ≤ f)

/-- Show the rate of channel c. -/
def State.setDoubled (s : State) (c : Nat) (b : Bool) : State :=
  (s.setB (MEM_CH_STATUS_DOUBLED c) b).setB (MEM_STATUS_DOUBLED.bit c) b

/-- The change of channel c to the doubled rate, with its burst (R462). -/
def State.rateDouble (s : State) (c : Nat) : State :=
  let s1 := (s.setDoubled c true).ev MEM_EVENTS_RATE_DOUBLE
  if s.refreshing c then
    let o := 2 * s.getI (MEM_CH_STATUS_OWED c) + (if 1953 ≤ s.now - vget 0 s.mem.tick c then 1 else 0)
    let s2 := s1.tickRestart c
    if 0 < o then ((s2.refab c o.toNat).setI (MEM_CH_STATUS_OWED c) 0).ev MEM_EVENTS_BURST
    else s2.setI (MEM_CH_STATUS_OWED c) o
  else s1

/-- The change back to the base rate: OWED is halved, rounded up (R462). -/
def State.rateBase (s : State) (c : Nat) : State :=
  let s1 := (s.setDoubled c false).ev MEM_EVENTS_RATE_BASE
  if s.refreshing c then (s1.setI (MEM_CH_STATUS_OWED c) (-(-(s.getI (MEM_CH_STATUS_OWED c)) / 2))).tickRestart c else s1

/-- The rate of channel c as MR4 and the die temperature call for it (R461). -/
def State.rateEval (s : State) (c : Nat) : State :=
  let f := s.get (MEM_CH_STATUS_MR4 c)
  let t := s.getI PMC_DIE_TEMP_TEMP
  let dbl := s.on (MEM_CH_STATUS_DOUBLED c)
  if !dbl && (mr4Double f || decide (8500 < t)) then s.rateDouble c
  else if dbl && mr4Base f && decide (t ≤ 8300) then s.rateBase c
  else s

/-- An MR4 poll of channel c (R461); polls are suspended in self-refresh. -/
def State.mr4Poll (s : State) (c field : Nat) : State :=
  if s.refreshing c then
    let s1 := s.set (MEM_CH_STATUS_MR4 c) field
    (if mr4Over field then s1.ev MEM_EVENTS_DRAM_OVERTEMP else s1).rateEval c
  else s

/-! ### Temperature bands (R470) -/

/-- The band for a temperature, given the band in use: it is left downwards only 3.00 °C below its lower edge. -/
def bandFor (t01 t12 t : Int) (cur : Nat) : Nat :=
  let up := if t < t01 then 0 else if t < t12 then 1 else 2
  if cur ≤ up then up
  else if cur = 2 ∧ t12 - 300 < t then 2
  else if t01 - 300 < t then 1
  else 0

/-- The band follows the die temperature; channels in service take it at their next refresh window or exit. -/
def State.bandEval (s : State) : State :=
  let b := bandFor (s.getI MEM_BAND_CFG_T01) (s.getI MEM_BAND_CFG_T12) (s.getI PMC_DIE_TEMP_TEMP) (s.get MEM_STATUS_BAND)
  if b = s.get MEM_STATUS_BAND then s
  else
    let s1 := s.set MEM_STATUS_BAND b
    if s.on MEM_STATUS_INIT_DONE then s1.setMem { s1.mem with bandDue := 15 } else s1

/-! ### Self-refresh (R464 to R468) -/

/-- Channel c enters self-refresh: owed refreshes, then SRE (R466). -/
def State.srIn (s : State) (c : Nat) : State :=
  if s.refreshing c then
    let o := s.getI (MEM_CH_STATUS_OWED c)
    let s1 := if 0 < o then (s.refab c o.toNat).setI (MEM_CH_STATUS_OWED c) 0 else s
    (((s1.set (MEM_CH_STATUS_SR c) 1).set (MEM_STATUS_SR.bit c) 1).addWrap (MEM_CH_SR_CNT_COUNT c) 1).ev MEM_EVENTS_SR_ENTER
  else s

/-- Channel c leaves self-refresh: OWED := 0, the tick timer restarts, the delays of a band change apply, and entry is
inhibited for a frame (R465, R466, R468, R470). Words written to the band in use wait for a refresh window (R471). -/
def State.srOut (s : State) (c : Nat) : State :=
  if s.inSr c then
    let s1 := (((s.set (MEM_CH_STATUS_SR c) 0).set (MEM_STATUS_SR.bit c) 0).setI (MEM_CH_STATUS_OWED c) 0).tickRestart c
    let s2 := s1.setMem { s1.mem with srExit := vset s1.mem.srExit c (some s.now) }
    if s2.mem.bandDue.testBit c then s2.takeDelays c else s2
  else s

/-- Has fibre engine n begun a frame since an instant (R465)? Grid frame starts count whether or not they launch. -/
def State.frameSince (s : State) (n t : Nat) : Bool :=
  let f := s.f n
  if s.on (TIM_FE_LAUNCH_CTL_SRC n) then (match f.lastLaunch with | some l => decide (t < l) | none => false)
  else
    let pri := s.get (TIM_FE_PRI_PRI n)
    let k := (s.gridOf s.now - f.anchorT) / pri
    decide (s.gridOf t < f.anchorT + k * pri)

/-- Is autonomous entry of channel c inhibited (R465)? -/
def State.srInhibit (s : State) (c : Nat) : Bool :=
  match vget none s.mem.srExit c with
  | none => false
  | some t => s.images.any (fun i => i.slots.any (fun p => p.1 == c) &&
      (List.range 4).any (fun n => i.feMask.testBit n && s.lstate n == 2 && !s.frameSince n t))

/-- Has channel c had no access for IDLE_US µs, as far as the commands show accesses (R464, log 51)? -/
def State.srIdle (s : State) (c : Nat) : Bool := decide (vget 0 s.mem.used c + 1000 * s.get MEM_SR_CFG_IDLE_US ≤ s.now)

/-- Autonomous entry of channel c, idle for IDLE_US (R464). -/
def State.srEnter (s : State) (c : Nat) : State :=
  if s.on MEM_CTL_SR_EN && !s.srInhibit c && s.srIdle c then s.srIn c else s

/-- A request meets self-refresh of channel c: before SRE it abandons the entry, of whose refreshes `issued` were issued;
after SRE the channel exits (R465, R466). -/
def State.srExit (s : State) (c : Nat) (beforeSre : Bool) (issued : Nat) : State :=
  if beforeSre then
    if s.refreshing c then
      let n := min issued (s.getI (MEM_CH_STATUS_OWED c)).toNat
      let s1 := (s.refab c n).setI (MEM_CH_STATUS_OWED c) (s.getI (MEM_CH_STATUS_OWED c) - n)
      (s1.ev MEM_EVENTS_SR_ABANDON).memUsed (2 ^ c)
    else s
  else if s.inSr c then (s.srOut c).memUsed (2 ^ c)
  else s

/-- Entry of every channel with ladder state L3 or L4, and the exit from it (R468). -/
def State.srAll (s : State) : State := (List.range 4).foldl (fun s c => s.srIn c) s
def State.srNone (s : State) : State := (List.range 4).foldl (fun s c => s.srOut c) s

/-! ### Initialisation, the eye monitor and the test engine (R452, R471 to R474) -/

/-- Berm is initialised (R452). -/
def State.bermInit (s : State) : State := s.set BRM_STATUS_INIT_DONE 1

/-- MEM.CTL.INIT (R471): refused while a band is not loaded. -/
def State.memInitStart (s : State) : State :=
  if s.get MEM_BAND_STAT_VALID = 7 then s.setMem { s.mem with initRun := true } else s.ev MEM_EVENTS_CFG_ERR

/-- The controller sets INIT_DONE: refresh begins, and the delays of the band in use apply (R471). -/
def State.memInitEnd (s : State) : State :=
  if s.mem.initRun then
    let s1 := (s.set MEM_STATUS_INIT_DONE 1).set MEM_CAP_MIB s.capMib
    let s2 := s1.setMem { s1.mem with initRun := false, bandDue := 0, dlyDue := 15 }
    ((List.range 4).foldl (fun s c => (s.takeDelays c).tickRestart c) s2).ev MEM_EVENTS_INITED
  else s

/-- An eye-monitor case on channel c (R474). -/
def State.eyeRound (s : State) (c : Nat) (pass : Bool) : State :=
  if s.on MEM_CTL_EYE_EN && s.refreshing c && !pass then
    if s.on MEM_EVENTS_EYE_LOW then s else (s.ev MEM_EVENTS_EYE_LOW).present 81
  else s

/-- May the test engine run: no image admitted, mode BOOT, COMMISSION or TEST, and no run in progress (R473)? -/
def State.testOk (s : State) : Bool :=
  !s.anyImage && (s.mode == 1 || s.mode == 2 || s.mode == 5) && !s.on MEM_TEST_CTL_BUSY

/-- A test run ends: TEST_FAIL holds the lines that failed (R473). -/
def State.testEnd (s : State) (fail : Nat) : State :=
  if s.on MEM_TEST_CTL_BUSY then
    ((s.setReg MEM_TEST_FAIL (BitVec.ofNat 32 fail)).set MEM_TEST_CTL_BUSY 0).memUsed 15
  else s

/-! ### The history ring (R476, R477) -/

/-- Bytes the ring holds. -/
def histBytes (l : List Frame) : Nat := l.foldl (fun n f => n + f.size) 0

/-- The oldest frame of the history ring is overwritten: where the dump in progress has yet to copy it, it is skipped
(R477). -/
def State.histLost (s : State) (f : Frame) : State :=
  match s.mem.dump with
  | some d =>
    if d.todo.head? = some f then
      { s with mem := { s.mem with dump := some { d with todo := d.todo.tail } } }.addSat MEM_HIST_SKIP_COUNT 1
    else s
  | none => s

/-- Overwrite the oldest frames until `need` bytes fit; those a dump still wanted count in HIST_SKIP. -/
def histFit (cap need : Nat) : List Frame → State → State
  | [], s => s.setMem { s.mem with hist := [] }
  | f :: fs, s =>
    if histBytes (f :: fs) + need ≤ cap then s.setMem { s.mem with hist := f :: fs }
    else histFit cap need fs (s.histLost f)

/-- One frame enters the ring; one larger than the ring does not. -/
def State.histPut (s : State) (f : Frame) : State :=
  let cap := s.get MEM_HIST_SIZE_MIB * 1048576
  if f.size ≤ cap then
    let s1 := (histFit cap f.size s.mem.hist s).memUsed 15
    s1.setMem { s1.mem with hist := s1.mem.hist ++ [f] }
  else s

/-- A PHASE output of fibre engine n with its section frames: every DECIM-th enters, written in the HIST slots; without any
the ring receives nothing (R476). -/
def State.histRecord (s : State) (n : Nat) (frames : List Frame) : State :=
  if s.on MEM_HIST_CTL_EN && (s.get MEM_HIST_CTL_FE_MASK).testBit n then
    let k := vget 0 s.mem.histN n
    let s1 := s.setMem { s.mem with histN := vset s.mem.histN n (if s.get MEM_HIST_CTL_DECIM ≤ k then 0 else k + 1) }
    if k = 0 ∧ s.mem.share.1 ≠ 0 then frames.foldl (fun s f => s.histPut f) s1 else s1
  else s

/-- The first output of a fibre engine that was not recorded before, in the mask `old`, is recorded (log 51). -/
def State.histFrom (s : State) (old : Nat) : State :=
  s.setMem { s.mem with histN := (List.range 4).foldl (fun v n => if old.testBit n then v else vset v n 0) s.mem.histN }

/-- HIST_CTL.DUMP starts a dump of the frames that the ring holds with a header grid time in the span (R477, log 51). -/
def State.dumpStart (s : State) : State :=
  let lo := s.get2 MEM_HIST_FROM_LO_GT MEM_HIST_FROM_HI_GT
  let hi := lo + s.get MEM_HIST_SPAN_MS * 1000000
  let todo := s.mem.hist.filter (fun f => decide (lo ≤ f.gt ∧ f.gt < hi))
  s.setMem { s.mem with dump := some ⟨s.get MEM_HIST_CTL_RING, todo, false⟩ }

/-- The dump ends once each of its frames has been copied or skipped (R477). -/
def State.dumpEnd (s : State) : State :=
  match s.mem.dump with
  | none => s
  | some d => if d.todo.isEmpty then (s.setMem { s.mem with dump := none }).ev MEM_EVENTS_HIST_DONE else s

end Sys2Proof.Machine
end

