-- ==== Sys2Proof/Machine/Phase.lean ====
section
/-! DEFINITION. The coherent phase pipeline (chapter 04): references, the eight stages, and the checks of R162. Complex
values are pairs (I, Q). -/

namespace Sys2Proof.Machine

/-! ### Complex integers and limits -/

def cadd (a b : Int × Int) : Int × Int := (a.1 + b.1, a.2 + b.2)
def cmul (a b : Int × Int) : Int × Int := (a.1 * b.1 - a.2 * b.2, a.1 * b.2 + a.2 * b.1)
def cconj (a : Int × Int) : Int × Int := (a.1, -a.2)
def cscale (k : Int) (a : Int × Int) : Int × Int := (k * a.1, k * a.2)
def crha (a : Int × Int) (b : Nat) : Int × Int := (rha a.1 b, rha a.2 b)
def csum (l : List (Int × Int)) : Int × Int := l.foldl cadd (0, 0)

/-- Does a value fit in w bits, two's complement? -/
def fits (x : Int) (w : Nat) : Bool := decide (-(2 ^ (w - 1) : Int) ≤ x ∧ x ≤ (2 ^ (w - 1) : Int) - 1)

/-- The shift of sat_angle: the smallest number of bits from `m` on that makes both components fit. -/
def satShift (v : Int × Int) (w : Nat) : Nat → Nat → Nat
  | 0, m => m
  | n + 1, m => if fits (rha v.1 (2 ^ m)) w && fits (rha v.2 (2 ^ m)) w then m else satShift v w n (m + 1)

/-- sat_angle (R135), and whether it limited the value. -/
def satAngle (v : Int × Int) (w : Nat) : (Int × Int) × Bool :=
  if fits v.1 w && fits v.2 w then (v, false) else (crha v (2 ^ satShift v w 128 1), true)

/-- Values of an index function and how many of them were limited. -/
def buildSat (n : Nat) (f : Nat → (Int × Int) × Bool) : Array (Int × Int) × Nat :=
  let l := (List.range n).map f
  ((l.map (·.1)).toArray, (l.filter (·.2)).length)

/-- An element of a stream; outside it, zero. -/
def at0 (a : Array (Int × Int)) (i : Int) : Int × Int := if i < 0 then (0, 0) else a.getD i.toNat (0, 0)

/-! ### Angles -/

/-- angle24 (R156): the angle of a non-zero value in [0, 2^24), with an error of at most 2 LSB that the manual leaves open
(log 9). The exact angle is a whole number of LSB only on the axes and diagonals. -/
def angle24 (v : Int × Int) : Nat :=
  let exact := v.1 = 0 ∨ v.2 = 0 ∨ v.1.natAbs = v.2.natAbs
  let e := Config.angleErr v.1 v.2
  if exact then
    ((rha (fixAngle v.1 v.2 * 2 ^ 23) fixPi.toNat + ((e % 5 : Nat) : Int) - 2) % 2 ^ 24).toNat
  else ((fixAngle v.1 v.2 * 2 ^ 23 / fixPi + ((e % 4 : Nat) : Int) - 1) % 2 ^ 24).toNat

/-- round_half_away(2^14 x ÷ |(x, y)|). -/
def unitComp (x y : Int) : Int :=
  let q := isqrt (2 ^ 30 * x.natAbs ^ 2 / (x.natAbs ^ 2 + y.natAbs ^ 2))
  if x < 0 then -(((q + 1) / 2 : Nat) : Int) else (((q + 1) / 2 : Nat) : Int)

/-- unit14 (R159) of a non-zero value. -/
def unit14 (v : Int × Int) : Int × Int := (unitComp v.1 v.2, unitComp v.2 v.1)

/-- unit14 of S × (cos(2π P ÷ 2^24) − i sin(2π P ÷ 2^24)), or `none` where S is 0. -/
def alignUnit (s : Int × Int) (p : Nat) : Option (Int × Int) :=
  if s = (0, 0) then none
  else
    let cs := cosSin p (2 ^ 24)
    some (unit14 (cmul s (cs.1, -cs.2)))

/-! ### References (R143, R144) -/

/-- N of reference j. -/
def refLen (r : Tab Word) (n j : Nat) : Nat :=
  if ron r (PHS_REF_CFG_SRC n j) then rget r (PHS_REF_CFG_TAPS n j) else cdiv (rget r (LNC_SEG_LEN_LEN n j)) 8

/-- A stored waveform sample of a segment, minus mid-code; outside the segment, zero. -/
def State.waveSample (s : State) (r : Tab Word) (n j : Nat) (i : Int) : Int × Int :=
  if i < 0 ∨ (rget r (LNC_SEG_LEN_LEN n j) : Int) ≤ i then (0, 0)
  else
    let w := (s.tword (0x400000 + 0x40000 * n + 4 * (rget r (LNC_SEG_START_START n j) + i.toNat))).toNat
    ((w % 4096 : Nat) - 2048, (w / 65536 % 4096 : Nat) - 2048)

/-- Reference j as built from waveform memory. Where every filtered sample is 0 there is no K, and the coefficients are 0
(log 73). -/
def State.refBuilt (s : State) (r : Tab Word) (n j : Nat) : List (Int × Int) :=
  let taps := refTaps
  let ref := (List.range (refLen r n j)).map (fun (i : Nat) =>
    csum (taps.zipIdx.map (fun h => cscale h.1 (s.waveSample r n j (8 * (i : Int) + (h.2 : Int) - 72)))))
  let top := ref.foldl (fun m v => max m (max v.1.natAbs v.2.natAbs)) 0
  if top = 0 then ref else ref.map (fun v => crha (cscale 32767 (cconj v)) top)

/-- Reference j as loaded. -/
def State.refLoaded (s : State) (r : Tab Word) (n j : Nat) : List (Int × Int) :=
  (List.range (refLen r n j)).map (fun i =>
    let w := s.tword (0x500000 + 0x20000 * n + 0x4000 * j + 4 * i)
    (halfAt w 0, halfAt w 1))

/-- The coefficients of reference j. -/
def State.refCoef (s : State) (r : Tab Word) (n j : Nat) : List (Int × Int) :=
  if ron r (PHS_REF_CFG_SRC n j) then s.refLoaded r n j else s.refBuilt r n j

/-! ### Settings -/

/-- Is polarisation p enabled (0 X, 1 Y)? -/
def polOn (r : Tab Word) (n p : Nat) : Bool := (rget r (PHS_CFG_POL_EN n)).testBit p
def polsOf (r : Tab Word) (n : Nat) : List Nat := [0, 1].filter (fun p => polOn r n p)
/-- J (R147). -/
def subbandsOf (r : Tab Word) (n : Nat) : Nat := 2 ^ rget r (PHS_CFG_SUBBANDS n)
/-- NB (R153). -/
def branchesOf (r : Tab Word) (n : Nat) : Nat := subbandsOf r n * (polsOf r n).length
def gaugeOf (r : Tab Word) (n : Nat) : Nat := rget r (PHS_GAUGE_G n)
def binOf (r : Tab Word) (n : Nat) : Nat := rget r (PHS_BIN_CFG_BIN n)
def nbinsOf (r : Tab Word) (n : Nat) : Nat := rget r (PHS_NBINS_NBINS n)
def pStartOf (r : Tab Word) (n : Nat) : Nat := rget r (PHS_P_START_P_START n)
def winStartOf (r : Tab Word) (n : Nat) : Nat := rget r (TIM_FE_WIN_START_WIN_START n)
def winLenOf (r : Tab Word) (n : Nat) : Nat := rget r (TIM_FE_WIN_LEN_WIN_LEN n)

/-- Reduced capability: the range window is longer than 786,432 samples (R3). -/
def reducedCap (r : Tab Word) (n : Nat) : Bool := decide (786432 < winLenOf r n)

/-- N_max over the references of all tones in use (R162). -/
def nMaxOf (r : Tab Word) (n : Nat) : Nat := (segsInUse r n).foldl (fun m j => max m (refLen r n j)) 0

/-- The slice of sub-band u (R147). -/
def sliceOf (len j u : Nat) : Nat × Nat := (u * len / j, (u + 1) * len / j)

/-- The coherent-channel row of R162. -/
def coherentOk (r : Tab Word) (n : Nat) : Bool :=
  (polsOf r n).all (fun p => ron r (ACQ_CCH_CFG_EN (4 * n + 2 * p)) && ron r (ACQ_CCH_CFG_EN (4 * n + 2 * p + 1)))

/-- The rules of R162 but the image's budget. -/
def phaseOk (r : Tab Word) (n : Nat) : Bool :=
  let segs := segsInUse r n
  let t := tonesOf r n
  let j := subbandsOf r n
  let nb := branchesOf r n
  let g := gaugeOf r n
  segs.all (fun x => decide ((segBand r n x).1 ≤ 200 * (segBand r n x).2)) &&
  (List.range t).all (fun a => (List.range t).all (fun b => a == b || (toneSegs r n a).all (fun x =>
    decide (200000 * (segBand r n x).2 + 1000 * (segBand r n x).1
      ≤ 2 * (toneKhz r n a - toneKhz r n b).natAbs * (segBand r n x).2)))) &&
  coherentOk r n &&
  segs.all (fun x => decide (refLen r n x ≤ 4096) &&
    (ron r (PHS_REF_CFG_SRC n x) || decide (rget r (LNC_SEG_LEN_LEN n x) ≤ 32768))) &&
  decide (j ≤ 4) && segs.all (fun x =>
    (decide (j = 1) || (rget r (LNC_SEG_KIND_KIND n x) == 1 && !ron r (PHS_REF_CFG_SRC n x))) &&
    (List.range j).all (fun u => decide (16 ≤ (sliceOf (refLen r n x) j u).2 - (sliceOf (refLen r n x) j u).1))) &&
  decide (1 ≤ nb ∧ nb ≤ 8) && (!reducedCap r n || decide (nb ≤ 4 ∧ t ≤ 2)) &&
  decide (2 ≤ g ∧ g ≤ 2048 ∧ 4 ≤ binOf r n ∧ binOf r n ≤ 128 ∧ 1 ≤ nbinsOf r n) &&
  decide (winStartOf r n + 48 ≤ pStartOf r n) &&
  decide (pStartOf r n + nbinsOf r n * binOf r n + g + 4 * nMaxOf r n + 48 ≤ winStartOf r n + winLenOf r n)

/-- Is a frame of shots not delivered, since a trip cut one of its shots or stopped its launching (R89)? -/
def FeSt.isLost (f : FeSt) (frame : Nat) : Bool := f.recs.any (fun r => r.frame == frame && r.lost)

/-! ### Stages 1 to 4 -/

/-- The CFG word of a channel in force at elapsed instant t for a sample of a shot: that of the newest shot whose range
sample WIN_START was converted by then (R109). -/
def cfgAt (recs : List Shot) (r : Shot) (n off t : Nat) : Word :=
  let later := recs.filter (fun x => decide (r.shot < x.shot ∧
    x.launch + rget x.regs (TIM_FE_REF_OFS_REF_OFS n) + winStartOf x.regs n ≤ t))
  let x := later.getLast?.getD r
  tget (resetOf off) x.regs off

/-- Stage 1 (R139): IQ correction of one sample, and whether Q' saturated. -/
def iqCorrect (r : Tab Word) (pair : Nat) (i q : Int) : (Int × Int) × Bool :=
  let v := rha (rgetI r (ACQ_IQ_A_A pair) * q + rgetI r (ACQ_IQ_B_B pair) * i) (2 ^ 18)
  let w := clampSym v 131071
  ((i, w), decide (w ≠ v))

/-- The code of polarisation p and component c in a raw sample. -/
def rawCode (x : Raw4) (p c : Nat) : Int :=
  match p, c with | 0, 0 => x.xi | 0, _ => x.xq | _, 0 => x.yi | _, _ => x.yq

/-- The correction of the sample at index m of a shot's window on channel 4n + 2p + c. -/
def sampleAt (recs : List Shot) (r : Shot) (n p c m : Nat) (x : Raw4) : Int × Bool :=
  let ch := 4 * n + 2 * p + c
  let dt := rget r.regs (TIM_FE_REF_OFS_REF_OFS n) + winStartOf r.regs n + m
  correct r.regs ch (cfgAt recs r n (ACQ_CCH_CFG ch) (r.launch + dt)) (r.gt + dt) (rawCode x p c)

/-- Stage 1 over the range window of a shot, for polarisation p. -/
def stage1 (recs : List Shot) (r : Shot) (n p : Nat) (raw : Array Raw4) : Array (Int × Int) × Nat :=
  buildSat (winLenOf r.regs n) (fun m =>
    let x := raw.getD m ⟨0, 0, 0, 0⟩
    iqCorrect r.regs (2 * n + p) (sampleAt recs r n p 0 m x).1 (sampleAt recs r n p 1 m x).1)

/-- The channeliser's step (R140). -/
def chanInc (khz : Int) : Nat := (rha (khz * 1000 * 2 ^ 32) 1000000000 % 2 ^ 32).toNat

/-- Stage 2 (R140): channel outputs on the channel grid. The taps carry 24 fraction bits (log 8); the upper 16 bits of theta
are the index into the sine table, of 65,536 entries as that of R66 (log 73). -/
def stage2 (r : Shot) (n : Nat) (x : Array (Int × Int)) : Array (Int × Int) × Nat :=
  let inc := chanInc (toneKhz r.regs n r.tone)
  let ofs := rget r.regs (TIM_FE_REF_OFS_REF_OFS n) + winStartOf r.regs n
  let v := (List.range x.size).toArray.map (fun m =>
    let cs := chanTab ((ofs + m) * inc % 2 ^ 32 / 65536)
    cmul (x.getD m (0, 0)) (cs.1, -cs.2))
  let taps := chanTaps
  buildSat (cdiv (winLenOf r.regs n) 4) (fun k =>
    satAngle (crha (cscale 4 (csum (taps.zipIdx.map (fun h =>
      cscale h.1 (at0 v (4 * k + h.2 - 36)))))) (2 ^ 41)) 20)

/-- Stage 3 (R147): compression of sub-band u on the channel grid. -/
def stage3 (r : Shot) (n u : Nat) (y : Array (Int × Int)) : Array (Int × Int) × Nat :=
  let sl := sliceOf r.ref.length (subbandsOf r.regs n) u
  let c := r.ref.toArray
  buildSat y.size (fun k =>
    satAngle (crha (csum ((List.range (sl.2 - sl.1)).map (fun i =>
      cmul (c.getD (sl.1 + i) (0, 0)) (at0 y (k + sl.1 + i))))) (2 ^ (15 + rget r.regs (PHS_SCALE_CSHIFT n)))) 24)

/-- The pair sum (R149): plus the value of the previous shot at the same range index. -/
def pairSum (r : Shot) (n : Nat) (prev : Option (Nat × Array (Int × Int))) (a : Array (Int × Int)) :
    Array (Int × Int) × Nat :=
  match prev with
  | none => (a, 0)
  | some (start, b) =>
    buildSat a.size (fun k =>
      let d : Int := (winStartOf r.regs n : Int) + 4 * k - start
      satAngle (cadd (at0 a k) (if d % 4 = 0 then at0 b (d / 4) else (0, 0))) 24)

/-- Range interpolation (R150) to every range sample of the window. -/
def interpolate (r : Shot) (n : Nat) (a : Array (Int × Int)) : Array (Int × Int) × Nat :=
  let g := (List.range 4).map interpTaps
  buildSat (winLenOf r.regs n) (fun m =>
    if m % 4 = 0 then (at0 a (m / 4 : Nat), false)
    else satAngle (crha (csum ((g.getD (m % 4) []).zipIdx.map (fun h =>
      cscale h.1 (at0 a ((m / 4 : Nat) + h.2 - 3))))) (2 ^ 17)) 24)

/-- Stage 4 (R151) over the samples of all bins, the only ones that stage 5 takes (log 91). -/
def stage4 (r : Shot) (n : Nat) (a : Array (Int × Int)) : Array (Int × Int) × Nat :=
  let z0 := pStartOf r.regs n - winStartOf r.regs n
  let g := gaugeOf r.regs n
  buildSat (nbinsOf r.regs n * binOf r.regs n) (fun i =>
    satAngle (crha (cmul (at0 a (z0 + i + g : Nat)) (cconj (at0 a (z0 + i : Nat)))) (2 ^ rget r.regs (PHS_SCALE_DSHIFT n))) 32)

/-- The gauge products of every branch, the compressed streams kept for the pair, and the counts limited in stages 1 to 4. -/
structure Fronts where
  d     : List (Array (Int × Int))
  comp  : List (Nat × List (Int × Int))
  iq    : Nat
  ch    : Nat
  comps : Nat
  gauge : Nat

/-- Stages 3 and 4 of one branch from the channel output of its polarisation; its compressed stream is kept under 2u + p. -/
def Fronts.branch (w : Fronts) (r : Shot) (n u p : Nat) (prev : Option (Nat × Array (Int × Int)))
    (y : Array (Int × Int)) : Fronts :=
  let c := stage3 r n u y
  let q := pairSum r n prev c.1
  let i := interpolate r n q.1
  let d := stage4 r n i.1
  { w with d := w.d ++ [d.1], comp := w.comp ++ [(2 * u + p, c.1.toList)], comps := w.comps + c.2 + q.2 + i.2, gauge := w.gauge + d.2 }

/-- Stages 1 to 4 of a shot, branches in the order b = 2u + p (R153). -/
def fronts (recs : List Shot) (r : Shot) (n : Nat) (prev : Option PairPrev) (raw : Array Raw4) : Fronts :=
  let pols := polsOf r.regs n
  let s1 := pols.map (fun p => stage1 recs r n p raw)
  let s2 := s1.map (fun x => stage2 r n x.1)
  let old := fun (q : PairPrev) (key : Nat) => ((q.streams.find? (fun x => x.1 == key)).map (fun x => (q.start, x.2.toArray)))
  let w0 : Fronts := ⟨[], [], (s1.map (·.2)).foldl (· + ·) 0, (s2.map (·.2)).foldl (· + ·) 0, 0, 0⟩
  (List.range (subbandsOf r.regs n)).foldl (fun w u =>
    (List.zip pols s2).foldl (fun (w : Fronts) y =>
      w.branch r n u y.1 (prev.bind (fun q => old q (2 * u + y.1))) y.2.1) w) w0

/-! ### Stages 5 to 8 (R153 to R161) -/

/-- The sum of a branch's products over bin i. -/
def binSum (r : Shot) (n i : Nat) (d : Array (Int × Int)) : Int × Int :=
  csum ((List.range (binOf r.regs n)).map (fun j => d.getD (i * binOf r.regs n + j) (0, 0)))

/-- A phasor. -/
def PhBin.phasor (b : PhBin) (k br : Nat) : Int × Int := b.u.getD (8 * k + br) (0, 0)

/-- Set phasors of tone k, branches from 0. -/
def PhBin.setPhasors (b : PhBin) (k : Nat) (l : List (Int × Int)) : PhBin :=
  { b with u := b.u.take (8 * k) ++ l ++ b.u.drop (8 * k + l.length) }

/-- The state of a bin that has not been initialised. -/
def PhBin.empty : PhBin := ⟨0, false, List.replicate 32 (0, 0)⟩

/-- Initialisation of a bin by the first shot after a restart (R160). -/
def binInit (r : Shot) (n i : Nat) (d : List (Array (Int × Int))) : PhBin :=
  let sums := d.map (binSum r n i)
  let s0 := sums.headD (0, 0)
  let p := if s0 = (0, 0) then 0 else angle24 s0
  ({ PhBin.empty with p := p }).setPhasors 0 ((16384, 0) :: sums.tail.map (fun q => (alignUnit q p).getD (0, 0)))

/-- Realignment of tone k in a bin (R161). -/
def binRealign (r : Shot) (n i : Nat) (d : List (Array (Int × Int))) (b : PhBin) : PhBin :=
  b.setPhasors r.tone (d.map (fun x => (alignUnit (binSum r n i x) b.p).getD (0, 0)))

/-- The fade score (R154). -/
def fadeScore (s : Int × Int) (bin : Nat) : Nat :=
  let x := s.1.natAbs ^ 2 + s.2.natAbs ^ 2
  if x < bin ^ 2 then 0 else min 511 (x ^ 8 / bin ^ 16).log2

/-- What stages 5 to 8 give for a bin: its new state, values limited in stage 5, a large step. -/
structure BinRes where
  b    : PhBin
  comb : Nat
  slew : Bool

/-- Stages 5 to 8 and the alignment update of bin i. -/
def binStep (r : Shot) (n i : Nat) (d : List (Array (Int × Int))) (b0 : PhBin) : BinRes :=
  let bin := binOf r.regs n
  let k := r.tone
  let idx := List.range d.length
  let comb := (List.range bin).map (fun j =>
    satAngle (crha (csum (idx.map (fun br =>
      cscale (rget r.regs (PHS_BRANCH_W_W n br))
        (cmul (cconj (b0.phasor k br)) ((d.getD br #[]).getD (i * bin + j) (0, 0)))))) (2 ^ 22)) 32)
  let dz := comb.map (·.1)
  let f := fadeScore (csum dz) bin
  let floor := rget r.regs (PHS_FADE_CFG_FLOOR n)
  let faded := if b0.faded then decide (f < floor + rget r.regs (PHS_FADE_CFG_HYST n)) else decide (f < floor)
  let cnt := (comb.filter (·.2)).length
  if faded then ⟨{ b0 with faded := true }, cnt, false⟩
  else
    let devs := (dz.filter (fun v => v != (0, 0))).map (fun v => wrap24 ((angle24 v : Int) - (b0.p % 2 ^ 24 : Nat)))
    let p := if devs.isEmpty then b0.p else (((b0.p : Int) + rha (devs.foldl (· + ·) 0) devs.length) % 2 ^ 32).toNat
    let slew := decide (6291456 ≤ (wrap32 ((p : Int) - b0.p)).natAbs)
    let us := idx.map (fun br =>
      let u := b0.phasor k br
      if k = 0 ∧ br = 0 then u
      else
        match alignUnit (binSum r n i (d.getD br #[])) p with
        | none => u
        | some q => cadd u (crha (q.1 - u.1, q.2 - u.2) (2 ^ rget r.regs (PHS_CFG_ALIGN_SHIFT n))))
    ⟨({ b0 with p := p, faded := false }).setPhasors k us, cnt, slew⟩

/-- Stages 5 to 8 over all bins: those of a restart are initialised, those of a realigned or first-seen tone realigned. -/
def binsStep (r : Shot) (n fresh : Nat) (d : List (Array (Int × Int))) (bins : List PhBin) : List BinRes :=
  (List.range (nbinsOf r.regs n)).map (fun i =>
    let b0 := bins.getD i PhBin.empty
    let b1 := if r.phInit then binInit r n i d
      else if r.realign || fresh.testBit r.tone then binRealign r n i d b0 else b0
    binStep r n i d b1)

/-! ### SHOT_PROCESSED -/

/-- Count values limited in a stage (R135, R136). -/
def State.phsSat (s : State) (n k : Nat) (ev : FRef) : State :=
  if k = 0 then s
  else
    let s1 := (s.addSat (PHS_SAT_CNT_COUNT n) k).ev ev
    let w := s.dutyWinAt s.now
    if (s.f n).phs.satWin = some w then s1
    else (s1.modF n (fun f => { f with phs := { f.phs with satWin := some w } })).present (44 + n)

/-- Count the overrange samples that no earlier shot counted: those of a shot's window and those converted after it (R111). -/
def State.ovrScan (s : State) (n : Nat) (r : Shot) (raw : List Raw4) : State :=
  let recs := (s.f n).recs
  let from_ := r.launch + rget r.regs (TIM_FE_REF_OFS_REF_OFS n) + winStartOf r.regs n
  let upto := (s.f n).phs.ovrTo
  let codes := raw.take (s.now - from_)
  let upto1 := from_ + max (winLenOf r.regs n) codes.length
  let s1 := codes.zipIdx.foldl (fun s xm =>
    if from_ + xm.2 < upto then s
    else (List.range 4).foldl (fun s c =>
      if ron r.regs (chEn (4 * n + c)) && decide (vget 0 s.acq.ovrTo (4 * n + c) ≤ from_ + xm.2)
          && (sampleAt recs r n (c / 2) (c % 2) xm.2 xm.1).2 then
        s.overrange (4 * n + c) (from_ + xm.2)
      else s) s) s
  let s2 := (List.range 4).foldl (fun s c => s.blkSeen (4 * n + c) from_ upto1) s1
  s2.modF n (fun f => { f with phs := { f.phs with ovrTo := max upto upto1 } })

/-- The samples of a shot's window that no earlier shot has taken join the blind IQ blocks of its pairs, from range index
IQ_SKIP on, where neither component is overrange (R111, R125). -/
def State.blindScan (s : State) (n : Nat) (r : Shot) (raw : List Raw4) : State :=
  let recs := (s.f n).recs
  let from_ := r.launch + rget r.regs (TIM_FE_REF_OFS_REF_OFS n) + winStartOf r.regs n
  let upto := (s.f n).phs.blindTo
  let xs := (raw.take (winLenOf r.regs n)).zipIdx.filter (fun x =>
    decide (upto ≤ from_ + x.2 ∧ s.get ACQ_IQ_SKIP_SKIP ≤ winStartOf r.regs n + x.2))
  let s1 := s.modF n (fun f => { f with phs := { f.phs with blindTo := max upto (from_ + winLenOf r.regs n) } })
  [0, 1].foldl (fun s p =>
    if s.blindOn (2 * n + p) && ron r.regs (chEn (4 * n + 2 * p)) && ron r.regs (chEn (4 * n + 2 * p + 1)) then
      s.blindAdd (2 * n + p) (xs.filterMap (fun x =>
        let i := sampleAt recs r n p 0 x.2 x.1
        let q := sampleAt recs r n p 1 x.2 x.1
        if i.2 || q.2 then none else some (iqCorrect r.regs (2 * n + p) i.1 q.1).1))
    else s) s1

/-- Output phases of a shot with their FADE bits (R152, R156). -/
def phaseOut (r : Shot) (n : Nat) (bins : List PhBin) : List (Nat × Bool) :=
  bins.map (fun b => (if ron r.regs (PHS_CFG_INVERT n) then (2 ^ 32 - b.p) % 2 ^ 32 else b.p, b.faded))

/-- What a shot gives the acoustic filter chain. -/
def Shot.acfIn (r : Shot) (n : Nat) (bins : List PhBin) : AcfIn :=
  ⟨r.shot, r.frame, r.gt, r.regs, r.epoch, r.sent, r.idx, r.armFirst, r.phInit, r.acfRe, r.evtRe, r.swap, r.map,
    phaseOut r n bins⟩

/-- Stages 1 to 8 of a shot of fibre engine n (R133 to R161). -/
def State.phaseShot (s : State) (n : Nat) (r : Shot) (raw : List Raw4) : State :=
  let f := s.f n
  let paired := ron r.regs (LNC_TONE_SEG_PAIR n r.tone)
  let prevs := if r.armFirst then Vector.replicate 4 none else f.phs.prev
  let prev := if paired && !r.pairNew then vget none prevs r.tone else none
  let w := fronts f.recs r n prev raw.toArray
  let res := binsStep r n f.phs.fresh w.d f.phs.bins
  let bins := res.map (·.b)
  let slews := (res.filter (·.slew)).length
  let s1 := (s.blindScan n r raw).ovrScan n r raw
  let s2 := s1.modF n (fun f => { f with
    phs := { f.phs with
      bins := bins
      fresh := if r.phInit then 14 else f.phs.fresh - (f.phs.fresh &&& 2 ^ r.tone)
      prev := vset prevs r.tone (if paired then some ⟨winStartOf r.regs n, w.comp⟩ else none) }
    recs := f.recs.map (fun x => if x.shot = r.shot then { x with phsDone := true } else x) })
  let s3 := ((((s2.phsSat n w.iq (PHS_EVENTS_IQ_SAT n)).phsSat n w.ch (PHS_EVENTS_CH_SAT n)).phsSat n w.comps
    (PHS_EVENTS_COMP_SAT n)).phsSat n w.gauge (PHS_EVENTS_GAUGE_SAT n)).phsSat n
      ((res.map (·.comb)).foldl (· + ·) 0) (PHS_EVENTS_COMB_SAT n)
  let s4 := if slews = 0 then s3 else (s3.addSat (PHS_SLEW_CNT_COUNT n) slews).ev (PHS_EVENTS_SLEW n)
  (s4.set (PHS_FADE_CNT_COUNT n) (bins.filter (·.faded)).length).set2 (PHS_LAST_SHOT_LO_SHOT n) (PHS_LAST_SHOT_HI_SHOT n)
    r.shot

end Sys2Proof.Machine
end

