-- ==== Sys2Proof/Machine/Pmc.lean ====
section
/-! DEFINITION. The precision monitor converter (chapter 10): conversions and their times, the regular sequence, injected
conversions, self-calibration, the PMC stream and the pins it drives. Instants of conversions count in 1/128 ns of grid
time, in which modulator edges are the multiples of 15,625. -/

namespace Sys2Proof.Machine

def State.setPmc (s : State) (x : PmcSt) : State := { s with pmc := x }

/-- Does the converter run: CTL.EN = 1, the mode is not DORMANT, and PMC is not contained (R376, R389, R422)? -/
def State.pmcOn (s : State) : Bool := s.on PMC_CTL_EN && s.mode != 0 && !s.contained 5

/-! ### Filters and times (R366, R369) -/

/-- N5 and N1 of an output data rate. -/
def odrN5 (o : Nat) : Nat := if o ≤ 5 then 64 * 2 ^ o else 2048
def odrN1 (o : Nat) : Nat :=
  match o with
  | 6 => 2 | 7 => 4 | 8 => 8 | 9 => 20 | 10 => 40 | 11 => 80 | 12 => 100 | 13 => 200 | 14 => 400 | 15 => 800 | _ => 1

/-- Modulator periods from the start of the filter to the first settled output. -/
def odrSettled (o : Nat) : Nat := (52 + 2 * (odrN1 o - 1)) * odrN5 o

/-- Modulator periods between outputs. -/
def odrStep (o : Nat) : Nat := 2 * odrN5 o * odrN1 o

/-- Fields of a slot or injected CFG word (they have one layout). -/
def cfgChan (w : Word) : Nat := (PMC_SLOT_CFG_CHAN 0).of w
def cfgGain (w : Word) : Nat := (PMC_SLOT_CFG_GAIN 0).of w
def cfgRef (w : Word) : Nat := (PMC_SLOT_CFG_REF 0).of w
def cfgOdr (w : Word) : Nat := (PMC_SLOT_CFG_ODR 0).of w
def cfgAvg (w : Word) : Nat := (PMC_SLOT_CFG_AVG_LOG2 0).of w
def cfgShift (w : Word) : Nat := (PMC_SLOT_CFG_SHIFT 0).of w
def cfgExc (w : Word) : Nat := (PMC_SLOT_CFG_EXC 0).of w
def cfgEn (w : Word) : Bool := (PMC_SLOT_CFG_EN 0).of w == 1

/-- The first modulator edge at or after an instant. -/
def edgeUp (x : Int) : Int := (x + 15624) / 15625

/-- The edge of the first output of a conversion (R366, R370). -/
def Conv.first (c : Conv) : Int :=
  edgeUp (c.x + 128000 * c.settle + 16 * 15625) + odrSettled (cfgOdr c.cfg)

/-- The edge of the last output. -/
def Conv.last (c : Conv) : Int := c.first + ((2 ^ cfgAvg c.cfg - 1) * odrStep (cfgOdr c.cfg) : Nat)

/-- Completion time, a whole ns of grid time (R369). -/
def Conv.done (c : Conv) : Int := c.last * 15625 / 128

/-- Sample time (R369): the mean of the output edges less D_g, rounded down. -/
def Conv.sample (c : Conv) : Int :=
  let o := cfgOdr c.cfg
  let n5 := odrN5 o
  let n1 := odrN1 o
  let mid : Int := 2 * (c.first + ((2 ^ cfgAvg c.cfg - 1) * n5 * n1 : Nat))
  (mid - (5 * (n5 - 1) + 47 * n5 + 2 * (n1 - 1) * n5 : Nat)) * 15625 / 256

/-- The slot time with t_conv at its maximum, in 1/128 ns (R366, R370, R378). -/
def slotTime (cfg : Word) (settle : Nat) : Nat :=
  128000 * settle + (17 + odrSettled (cfgOdr cfg) + (2 ^ cfgAvg cfg - 1) * odrStep (cfgOdr cfg)) * 15625

/-- At most 2,000 µs. -/
def slotShort (cfg : Word) (settle : Nat) : Bool := decide (slotTime cfg settle ≤ 256000000)

/-- Now, in 1/128 ns of grid time. -/
def State.pmcNow (s : State) : Int := 128 * s.gridOf s.now

/-! ### Starting conversions (R370 to R377) -/

/-- CFG and SETTLE of slot 0 to 63, or 64 + j. -/
def pmcCfgOff (k : Nat) : Nat := if k < 64 then PMC_SLOT_CFG k else PMC_INJ_CFG (k - 64)
def pmcSettle (k : Nat) : FRef := if k < 64 then PMC_SLOT_SETTLE_US k else PMC_INJ_SETTLE_US (k - 64)

/-- A conversion starts and latches its settings and factors (R370, R383). -/
def State.convStart (s : State) (k : Nat) (x : Int) (precal : Bool) : State :=
  let cfg := s.reg (pmcCfgOff k)
  let g := cfgGain cfg
  s.setPmc { s.pmc with conv := some ⟨k, x, cfg, s.get (pmcSettle k), s.getI (PMC_CALF_OFS_OFS g),
    s.getI (PMC_CALF_GAIN_GCAL g), s.pmc.refBad && cfgRef cfg == 0, precal⟩ }

/-- Does calibration keep regular conversions from starting (R381)? -/
def State.pmcHeld (s : State) : Bool := match s.pmc.cal with | some c => !c.saveOnly | none => false

/-- Slots of the pass from i on that are enabled, in order (R372, R376). -/
def State.slotsFrom (s : State) (i : Nat) : List Nat :=
  (List.range (min s.pmc.len (s.get PMC_SEQ_LEN))).filter (fun k => decide (i ≤ k) && cfgEn (s.reg (PMC_SLOT_CFG k)))

/-! ### The PMC stream (R384, R385) -/

/-- Close the open frame and stage it. -/
def State.pmcFrameClose (s : State) : State :=
  match s.pmc.frame with
  | none => s
  | some f =>
    (s.setPmc { s.pmc with frame := none }).stage
      ⟨16, 0, 255, 4, 0, false, f.sat, false, false, f.precal, 0, f.gt, f.epoch, 0, f.recs.length, 0, f.recs.flatten, none⟩

/-- A result joins the open frame; it closes at 128 records. -/
def State.pmcRecord (s : State) (gt : Nat) (ovr precal : Bool) (r : List Byte) : State :=
  if s.on PMC_CTL_STREAM_EN then
    let f : PmcFrame := match s.pmc.frame with
      | some f => { f with precal := f.precal || precal, sat := f.sat || ovr, recs := f.recs ++ [r] }
      | none => ⟨gt, s.get SCH_EPOCH_EPOCH, precal, ovr, [r]⟩
    let s1 := s.setPmc { s.pmc with frame := some f }
    if f.recs.length = 128 then s1.pmcFrameClose else s1
  else s

/-! ### Passes (R372 to R376) -/

/-- A pass ends with PASS_DONE at instant x; in CONTINUOUS mode the next is due (R373). -/
def State.passEnd (s : State) (x : Int) : State :=
  let s1 := (s.setPmc { s.pmc with pass := false, slot := 0, cont := s.get PMC_SEQ_TRIG == 1 }).addWrap PMC_PASS_CNT_COUNT 1
  let s2 := s1.set2 PMC_PASS_GT_LO_GT PMC_PASS_GT_HI_GT (x / 128 % 2 ^ 64).toNat
  s2.pmcFrameClose.ev PMC_EVENTS_PASS_DONE

/-- The next slot of the pass from index i starts at x, or the pass ends. -/
def State.slotGo (s : State) (i : Nat) (x : Int) : State :=
  match s.slotsFrom i with
  | [] => s.passEnd x
  | k :: _ => (s.setPmc { s.pmc with slot := k }).convStart k x false

/-- LEN, TRIG and HW_SRC take effect for the pass that begins, and its first slot starts (R376). -/
def State.passLatch (s : State) : State :=
  (s.setPmc { s.pmc with
    len := s.get PMC_SEQ_LEN, trig := s.get PMC_SEQ_TRIG, src := s.get PMC_SEQ_HW_SRC }).slotGo 0 s.pmc.begin_

/-- A pass starts at the first modulator edge at or after x (R374). -/
def State.passStart (s : State) (x : Int) : State :=
  (s.setPmc { s.pmc with pass := true, begin_ := edgeUp x * 15625, pend := false, cont := false }).passLatch

/-- A write before the start of a conversion counts for it: it takes the settings and factors as they are then; and before the
edge at which a pass begins, LEN, TRIG, HW_SRC and the slots too (R370, R374, R376, R383). -/
def State.convRelatch (s : State) : State :=
  match s.pmc.conv with
  | some c =>
    if s.pmc.pass ∧ s.pmcNow < s.pmc.begin_ ∧ c.slot < 64 ∧ !s.pmcHeld then (s.setPmc { s.pmc with conv := none }).passLatch
    else if s.pmcNow < c.x then s.convStart c.slot c.x c.precal
    else s
  | none => s

/-- Is a pass of CONTINUOUS mode due, with a slot enabled (R373)? -/
def State.contDue (s : State) : Bool :=
  s.pmc.cont && s.get PMC_SEQ_TRIG == 1 && (List.range (s.get PMC_SEQ_LEN)).any (fun k => cfgEn (s.reg (PMC_SLOT_CFG k)))

/-- The lowest injected conversion that may start now: during a calibration only those it still has to complete. -/
def State.injNext (s : State) : Option Nat :=
  (List.range 4).find? (fun j =>
    if s.pmcHeld then (match s.pmc.cal with | some c => decide (0 < vget 0 c.drain j) | none => false)
    else decide (0 < vget 0 s.pmc.wait j))

/-- Start injected conversion j. -/
def State.injGo (s : State) (j : Nat) (x : Int) : State :=
  let cal := s.pmc.cal.map (fun c =>
    if c.saveOnly then c else { c with drain := vset c.drain j (vget 0 c.drain j - 1) })
  let s1 := s.setPmc { s.pmc with wait := vset s.pmc.wait j (vget 0 s.pmc.wait j - 1), cal := cal }
  s1.convStart (64 + j) x s.pmcHeld

/-- Start what is due at instant x, with no conversion in progress: injected conversions in ascending j, then the slot of the
pass, then a pending pass, or one of CONTINUOUS mode (R373, R375, R377, R381, R382). -/
def State.pmcKick (s : State) (x : Int) : State :=
  if !s.pmcOn || s.pmc.conv.isSome then s
  else
    match s.injNext with
    | some j => s.injGo j x
    | none =>
      if s.pmcHeld then s
      else if s.pmc.pass then s.slotGo s.pmc.slot x
      else if s.pmc.pend || s.contDue then s.passStart x
      else s

/-- A regular trigger (R373 to R375). -/
def State.pmcTrig (s : State) : State :=
  if !s.pmcOn then s
  else if s.pmc.pass || s.pmc.conv.isSome || s.pmcHeld then
    if s.pmc.pend then (s.addSat PMC_TRIG_OVR_REG 1).ev PMC_EVENTS_TRIG_OVR
    else s.setPmc { s.pmc with pend := true }
  else s.passStart s.pmcNow

/-- TRIG and HW_SRC in force: those of the running pass, or of the next (R376). -/
def State.pmcTrigMode (s : State) : Nat := if s.pmc.pass then s.pmc.trig else s.get PMC_SEQ_TRIG
def State.pmcHwSrc (s : State) : Nat := if s.pmc.pass then s.pmc.src else s.get PMC_SEQ_HW_SRC

/-- A start by software (R373). -/
def State.seqStart (s : State) : State := if s.pmcTrigMode = 0 then s.pmcTrig else s

/-- Is a hardware source an input pin, whose edge the converter recognises by a trigger command? The events of the sources
below 28 are the device's own and present their triggers themselves (R374, log 78). -/
def State.hwLive (_s : State) (src : Nat) : Bool := decide (28 ≤ src ∧ src < 31)

/-- A grid, continuous or hardware trigger of the sequence (R373, R374). -/
def State.pmcTrigger (s : State) (t : PmcTrig) : State :=
  match t with
  | .grid =>
    let p := 1000 * s.get PMC_GRID_PERIOD_US
    if s.pmcTrigMode = 2 ∧ (s.gridOf s.now - 1000 * s.get PMC_GRID_OFS_US) % p = 0 then s.pmcTrig else s
  | .continuous =>
    if s.contDue then s.pmcKick s.pmcNow else s
  | .hw src => if s.pmcTrigMode = 3 ∧ s.pmcHwSrc = src ∧ s.hwLive src then s.pmcTrig else s

/-- A regular slot in progress gives way to an injected conversion (R377); one that has not begun its settle time is not in
progress yet. -/
def State.preempt (s : State) : State :=
  match s.pmc.conv with
  | some c =>
    if c.slot < 64 ∧ !s.pmcHeld then
      let s1 := s.setPmc { s.pmc with conv := none }
      if c.x < s.pmcNow then s1.ev PMC_EVENTS_PREEMPT else s1
    else s
  | none => s

/-- An injected trigger (R377): one deep behind a conversion that runs or is pending. -/
def State.injTrig (s : State) (j : Nat) : State :=
  if !s.pmcOn ∨ !cfgEn (s.reg (PMC_INJ_CFG j)) then s
  else
    let running : Nat := match s.pmc.conv with | some c => if c.slot = 64 + j then 1 else 0 | none => 0
    if 2 ≤ vget 0 s.pmc.wait j + running then (s.addSat PMC_TRIG_OVR_INJ 1).ev PMC_EVENTS_TRIG_OVR
    else (s.setPmc { s.pmc with wait := vset s.pmc.wait j (vget 0 s.pmc.wait j + 1) }).preempt.pmcKick s.pmcNow

/-- An event of one of the device's own hardware sources: the injected conversions that it triggers go first (R374, R377). -/
def State.pmcEvent (s : State) (src : Nat) : State :=
  let s1 := (List.range 4).foldl (fun s j =>
    if s.on (PMC_INJ_TRIG_MODE j) && s.get (PMC_INJ_TRIG_HW_SRC j) == src then s.injTrig j else s) s
  if s1.pmcTrigMode = 3 ∧ s1.pmcHwSrc = src then s1.pmcTrig else s1

/-- A hardware trigger of INJ[j]. -/
def State.injHw (s : State) (j src : Nat) : State :=
  if s.on (PMC_INJ_TRIG_MODE j) && s.get (PMC_INJ_TRIG_HW_SRC j) == src && s.hwLive src then s.injTrig j else s

/-! ### Results (R367, R368, R384, R412) -/

/-- One corrected output and its ovr (R367). -/
def convOut (c : Conv) (o : FiltOut) : Int × Bool :=
  let y := rha ((o.x - c.ofs) * (2 ^ 22 + c.gcal)) (2 ^ 30)
  (clampSym y (2 ^ 23 - 1), o.ovl || decide (2 ^ 23 - 1 < y.natAbs))

/-- The result code and OVR of a conversion (R368). -/
def convCode (c : Conv) (outs : List FiltOut) : Int × Bool :=
  let ys := outs.map (convOut c)
  let v := rha ((ys.map (·.1)).foldl (· + ·) 0) (2 ^ cfgShift c.cfg)
  let u := clampSym v (2 ^ 23 - 1)
  (u, ys.any (·.2) || decide (u ≠ v))

/-- The 32-byte record of a result (R385). -/
def convBytes (c : Conv) (u : Int) (ovr : Bool) (pass : Nat) : List Byte :=
  leBytes 4 (uenc u 32) ++ leBytes 1 c.slot
    ++ leBytes 1 ((if ovr then 1 else 0) + (if c.precal then 2 else 0) + (if c.refBad then 4 else 0))
    ++ leBytes 1 (cfgChan c.cfg) ++ leBytes 1 (cfgGain c.cfg + 8 * cfgRef c.cfg + 16 * cfgAvg c.cfg)
    ++ leBytes 4 pass ++ leBytes 1 (cfgOdr c.cfg) ++ leBytes 1 (cfgShift c.cfg) ++ leBytes 2 0
    ++ leBytes 8 (c.sample % 2 ^ 64).toNat ++ leBytes 8 (c.done % 2 ^ 64).toNat

/-- A readback result waits for its Weir check (R412): CHAN 0x50 + m or 0x60 + m, REF = 1, GAIN = 0, no overrange. -/
def State.readback (s : State) (c : Conv) (u : Int) (ovr : Bool) : State :=
  let ch := cfgChan c.cfg
  if s.on WMN_RB_CFG_EN ∧ cfgRef c.cfg = 1 ∧ cfgGain c.cfg = 0 ∧ !ovr ∧ 0x50 ≤ ch ∧ ch < 0x70 then
    let r := [(u, s.elapsedOf (c.x / 128))]
    { s with wmn := vmod WeirSt.init s.wmn (ch % 16) (fun w =>
        if ch < 0x60 then { w with hi := { w.hi with res := w.hi.res ++ r } }
        else { w with lo := { w.lo with res := w.lo.res ++ r } }) }
  else s

/-- Write a result to its registers and the stream. -/
def State.convWrite (s : State) (c : Conv) (outs : List FiltOut) : State :=
  let r := convCode c outs
  let off := if c.slot < 64 then PMC_SLOT_RESULT c.slot else PMC_INJ_RESULT (c.slot - 64)
  let word := uenc r.1 24 + 2 ^ 24 + (if r.2 then 2 ^ 25 else 0) + (if c.precal then 2 ^ 26 else 0)
    + (if c.refBad then 2 ^ 27 else 0)
  let s1 := s.setReg off (BitVec.ofNat 32 word)
  let s2 := if r.2 then (s1.addSat PMC_OVR_CNT_COUNT 1).ev PMC_EVENTS_OVR else s1
  let s3 := (s2.readback c r.1 r.2).pmcRecord (c.done % 2 ^ 64).toNat r.2 c.precal
    (convBytes c r.1 r.2 (s.get PMC_PASS_CNT_COUNT))
  if c.slot < 64 then
    s3.setPmc { s3.pmc with conv := none
                            hist := ⟨c.slot, c.done, r.1, !r.2 && !c.refBad, c.precal⟩ :: s3.pmc.hist }
  else
    let s4 := s3.setPmc { s3.pmc with conv := none, injGt := vset s3.pmc.injGt (c.slot - 64) (c.sample % 2 ^ 64).toNat }
    (if s.pmc.pass then s4 else s4.pmcFrameClose).ev PMC_EVENTS_INJ_DONE

/-- Has a conversion completed, with its 2^a outputs? -/
def State.convReady (s : State) (c : Conv) (outs : List FiltOut) : Bool :=
  decide (c.done ≤ s.gridOf s.now ∧ outs.length = 2 ^ cfgAvg c.cfg)

/-- PMC_RESULT: the regular slot in progress completes; the next slot, or the end of the pass, follows (R370, R372). -/
def State.pmcResult (s : State) (outs : List FiltOut) : State :=
  match s.pmc.conv with
  | none => s
  | some c =>
    if c.slot < 64 ∧ s.convReady c outs then
      let x := c.last * 15625
      let s1 := s.convWrite c outs
      if (s1.slotsFrom (c.slot + 1)).isEmpty then (s1.passEnd x).pmcKick x
      else (s1.setPmc { s1.pmc with slot := if s1.pmcHeld then 0 else c.slot + 1 }).pmcKick x
    else s

/-- PMC_INJ_RESULT: the injected conversion in progress completes (R377). -/
def State.injResult (s : State) (outs : List FiltOut) : State :=
  match s.pmc.conv with
  | none => s
  | some c =>
    if 64 ≤ c.slot ∧ s.convReady c outs then (s.convWrite c outs).pmcKick (c.last * 15625) else s

/-! ### Stopping (R371, R376) -/

/-- SEQ.STOP: the regular conversion is abandoned, the pass ends without PASS_DONE, a pending trigger goes. -/
def State.seqStop (s : State) : State :=
  let conv := s.pmc.conv.filter (fun c => decide (64 ≤ c.slot))
  let s1 := s.setPmc { s.pmc with conv := conv, pass := false, slot := 0, pend := false, cont := false }
  (if s.pmc.pass then s1.pmcFrameClose else s1).pmcKick s.pmcNow

/-- A calibration ends with a code; VALUE is the mask applied (R379). -/
def State.pmcCalEnd (s : State) (c : PmcCal) (code value : Nat) : State :=
  let s1 := (s.setPmc { s.pmc with cal := none }).set PMC_CAL_RESULT_CODE code
  match c.cmd with | some k => s1.complete k code value | none => s1

/-- CTL.EN = 0: everything in progress or pending is abandoned; a calibration ends with MODE. -/
def State.pmcStopAll (s : State) : State :=
  let s1 := s.setPmc { s.pmc with conv := none, pass := false, slot := 0, pend := false, cont := false, wait := Vector.replicate 4 0 }
  let s2 := s1.pmcFrameClose
  match s2.pmc.cal with | some c => s2.pmcCalEnd c 2 0 | none => s2

/-- In SAFE_HOLD, PMC frames are discarded (R389). -/
def State.pmcSafeHold (s : State) : State := s.setPmc { s.pmc with frame := none }

/-- An alignment that steps grid time abandons the conversion in progress, which restarts from its settle time (R371). -/
def State.pmcRestart (s : State) : State :=
  match s.pmc.conv with
  | none => s
  | some c => (s.setPmc { s.pmc with begin_ := s.pmcNow }).convStart c.slot s.pmcNow c.precal

/-! ### Self-calibration (R379 to R382) -/

/-- A calibration is asked for (R379): codes MODE and BUSY, then steps 1 and 2 of R381. -/
def State.pmcCalStart (s : State) (cmd : Option Cmd) (mask : Nat) (nv saveOnly : Bool) : State :=
  let refuse := fun (code : Nat) =>
    let s1 := s.set PMC_CAL_RESULT_CODE code
    match cmd with | some k => s1.complete k code 0 | none => s1
  if s.mode = 0 ∨ !s.pmcOn then refuse 2
  else if s.pmc.cal.isSome then refuse 3
  else
    let s1 := s.setPmc { s.pmc with cal := some ⟨cmd, mask, nv, saveOnly, s.pmc.wait⟩ }
    if saveOnly then s1
    else
      let conv := s1.pmc.conv.filter (fun c => slotShort c.cfg c.settle)
      let slot := match conv with | some c => if c.slot < 64 then c.slot else 0 | none => 0
      (s1.setPmc { s1.pmc with conv := conv.map (fun c => { c with precal := true }), slot := slot }).pmcKick s.pmcNow

/-- Are steps 1 and 2 of R381 over, so that the sequence is suspended and the measurements run? -/
def State.pmcMeasuring (s : State) : Bool :=
  match s.pmc.cal with
  | some c => !c.saveOnly && s.pmc.conv.isNone && c.drain.toList.all (· == 0)
  | none => false

/-- OFS and GCAL of one PGA setting from its measurements (R380); the rounding of OFS is free (log 1). -/
def calFactors (idx : Nat) (m : PgaMeas) : Int × Int :=
  let ofs := freeQuot idx m.ofsSum 32
  let d := m.gainSum - 64 * ofs
  -- 2^22 (7,340,032 × 256 ÷ (gainSum ÷ 64 − OFS) − 1)
  (ofs, if d = 0 then 2 ^ 23 else rhaI (2 ^ 22 * (7340032 * 256 * 64 - d)) d)

/-- Are the factors within their limits? -/
def calFactorsOk (f : Int × Int) : Bool := decide (f.1.natAbs ≤ 8389 * 256 ∧ f.2.natAbs ≤ 41943)

/-- The 64 bytes of PMC.CALF. -/
def State.pmcCalBytes (s : State) : List Byte :=
  (List.range 8).flatMap (fun g => leBytes 4 (s.reg (PMC_CALF_OFS g)).toNat ++ leBytes 4 (s.reg (PMC_CALF_GAIN g)).toNat)

/-- PMC_CAL_DONE: passing settings are written together, then the NV copy; the sequence resumes (R380, R382). -/
def State.pmcCalDone (s : State) (r : List PgaMeas) (nvOk : Bool) : State :=
  match s.pmc.cal with
  | none => s
  | some c =>
    if !c.saveOnly && !s.pmcMeasuring then s
    else
      let want := if c.saveOnly then [] else (List.range 8).filter (fun g => c.mask.testBit g)
      let fac := want.map (fun g => (g, (r.find? (fun m => m.g == g)).map (calFactors s.freeIdx)))
      let ok := fac.filterMap (fun p => match p.2 with | some f => if calFactorsOk f then some (p.1, f) else none | none => none)
      let fail := fac.foldl (fun m p => if ok.any (fun q => q.1 == p.1) then m else m + 2 ^ p.1) 0
      let applied := ok.foldl (fun m p => m + 2 ^ p.1) 0
      let s1 := ok.foldl (fun s p => (s.setI (PMC_CALF_OFS_OFS p.1) p.2.1).setI (PMC_CALF_GAIN_GCAL p.1) p.2.2) s.nextFree
      let s2 := s1.set PMC_CAL_RESULT_FAIL fail
      let s3 := if ok.isEmpty then s2
        else (s2.set PMC_CAL_RESULT_TEMP (s2.get PMC_DIE_TEMP_TEMP)).ev PMC_EVENTS_CAL_DONE
      let copy := c.nv || c.saveOnly
      let s4 := if copy && nvOk then s3.nvPut nvPmcCal s3.pmcCalBytes else s3
      let code : Nat := if copy && !nvOk then 4 else if fail ≠ 0 then 1 else 0
      let s5 := if code = 4 then s4.ev PMC_EVENTS_NV_FAIL else if code = 1 then s4.ev PMC_EVENTS_CAL_PARTIAL else s4
      let s6 := s5.pmcCalEnd c code applied
      if c.saveOnly then s6 else s6.pmcKick s.pmcNow

/-- A warm reset: the calibration is gone with its command, and what it suspended goes on (R391). -/
def State.pmcWarm (s : State) : State :=
  let s1 := s.setPmc { s.pmc with cal := none, injGt := Vector.replicate 4 0 }
  s1.pmcKick s1.pmcNow

/-! ### Reference, temperature, pins (R364, R365, R388, R393) -/

/-- The external reference leaves its limits, or returns within them (R364). -/
def State.refMove (s : State) (outside : Bool) : State :=
  let conv := s.pmc.conv.map (fun c => { c with refBad := c.refBad || (outside && cfgRef c.cfg == 0) })
  let s1 := s.setPmc { s.pmc with refBad := outside, refOk := !outside, conv := conv }
  if outside && !s.on PMC_EVENTS_REF_FAIL then (s1.ev PMC_EVENTS_REF_FAIL).present 84 else s1

/-- DIE_TEMP is updated (R393): its fault levels (R431), the refresh rate (R461) and the band (R470) follow. -/
def State.dieTemp (s : State) (t : Int) : State :=
  let s1 := (s.setI PMC_DIE_TEMP_TEMP t).set PMC_DIE_TEMP_VALID 1
  let s2 := if (s1.get FLT_CFG_THERM_LIMIT : Int) ≤ s1.getI PMC_DIE_TEMP_TEMP then s1.present 12 else s1
  let s3 := if 12500 ≤ s2.getI PMC_DIE_TEMP_TEMP then s2.present 11 else s2
  ((List.range 4).foldl (fun s c => s.rateEval c) s3).bandEval

/-- Is excitation source j on (R365)? -/
def State.iexc (s : State) (j : Nat) : Bool :=
  s.pmcOn && ((s.get PMC_EXC_CFG_STATIC).testBit j ||
  (match s.pmc.conv with | some c => decide (c.x ≤ s.pmcNow) && (cfgExc c.cfg).testBit j | none => false))

/-- Is MINT_N driven low (R388)? -/
def State.mint (s : State) : Bool := (s.reg PMC_EVENTS &&& s.reg PMC_SPI_INT_EN) != 0

end Sys2Proof.Machine
end

