-- ==== Sys2Proof/Machine/Fields.lean ====
section
/-! DEFINITION. Register writes as words: which settings are legal (R18 and the field tables), what a write of a word
stores, and which fibre engine a register or a table word belongs to. -/

namespace Sys2Proof.Machine

/-- Is a value of a field within its legal settings (R18)? -/
def legalOk (l : Legal) (w x : Nat) : Bool :=
  match l with
  | .any => true
  | .range lo hi => decide (lo ≤ x ∧ x ≤ hi)
  | .srange lo hi => decide (lo ≤ sext x w ∧ sext x w ≤ hi)

/-- The value of a field in a word. -/
def FieldSpec.val (f : FieldSpec) (v : Word) : Nat := v.toNat / 2 ^ f.lo % 2 ^ f.w

/-- Field types that take a written value: everything but RO, RC. -/
def accTakes : Acc → Bool
  | .ro | .rok | .aonro | .rc => false
  | _ => true

/-- Field types that store a written value, RWP excepted. -/
def accStores : Acc → Bool
  | .rw | .rws | .aon => true
  | _ => false

/-- Are all fields of a write within their legal settings? -/
def RegSpec.legal (r : RegSpec) (v : Word) : Bool :=
  r.fields.all (fun f => !accTakes f.acc || legalOk f.legal f.w (f.val v))

/-- The codes of CHAN (R362). -/
def chanLegal (c : Nat) : Bool :=
  decide (c ≤ 0x30 ∨ c = 0x32 ∨ c = 0x33 ∨ (0x40 ≤ c ∧ c ≤ 0x49) ∨ (0x50 ≤ c ∧ c ≤ 0x6F))

/-- The codes of SRC of an intensity channel (R97). -/
def ichSrcLegal (c : Nat) : Bool := decide (c ≤ 7 ∨ c = 16 ∨ (18 ≤ c ∧ c ≤ 20))

/-- Is a number one of `count` instances `stride` apart from `base`? -/
def isInst (base stride count off : Nat) : Bool :=
  decide (base ≤ off ∧ off < base + stride * count ∧ (off - base) % stride = 0)

/-- The same, with the index. -/
def instOf (base stride count off : Nat) : Option Nat :=
  if isInst base stride count off then some ((off - base) / stride) else none

/-- The settings of an injected conversion keep within 2,000 µs while EN = 1 (R378). -/
def injLegal (r : Tab Word) (j : Nat) : Bool :=
  let w := tget (resetOf (PMC_INJ_CFG j)) r (PMC_INJ_CFG j)
  !cfgEn w || slotShort w (rget r (PMC_INJ_SETTLE_US j))

/-- The conditions on a written register word that go beyond its own fields: R36, R97, R362, R378, the offset of the PMC grid,
R470, the points of EVT.MAP_CFG. `r` is the register file with the word written. -/
def crossOk (r : Tab Word) (off : Nat) : Bool :=
  let v := tget (resetOf off) r off
  if isInst (TIM_FE_PRI 0) 0x100 4 off then decide ((TIM_FE_PRI_PRI 0).of v % 2 ^ (TIM_FE_PRI_TONES 0).of v = 0)
  else if isInst (ACQ_ICH_CFG 0) 0x10 8 off then ichSrcLegal ((ACQ_ICH_CFG_SRC 0).of v)
  else if isInst (PMC_SLOT_CFG 0) 0x10 64 off then chanLegal (cfgChan v)
  else if isInst (PMC_INJ_CFG 0) 0x20 4 off then chanLegal (cfgChan v) && injLegal r ((off - PMC_INJ_CFG 0) / 0x20)
  else if isInst (PMC_INJ_SETTLE 0) 0x20 4 off then injLegal r ((off - PMC_INJ_SETTLE 0) / 0x20)
  else if isInst (EVT_MAP_CFG 0) 0x4000 4 off then (EVT_MAP_CFG_NPTS 0).of v != 1
  else if off = PMC_GRID_OFS then decide (rget r PMC_GRID_OFS_US < rget r PMC_GRID_PERIOD_US)
  else if off = HIF_SPILL_BASE_LO ∨ off = MEM_HIST_BASE_LO then decide (v.toNat % 2 ^ 20 = 0)
  else if off = MEM_BAND_CFG then decide (rgetI r MEM_BAND_CFG_T01 + 600 ≤ rgetI r MEM_BAND_CFG_T12)
  else true

/-- A word with the bits of a mask taken from another. -/
def mergeWord (old v : Word) (m : Nat) : Word := (old &&& ~~~ BitVec.ofNat 32 m) ||| (v &&& BitVec.ofNat 32 m)

/-- A register file with the storing fields of a word written. -/
def rwrite (r : Tab Word) (off : Nat) (v : Word) : Tab Word :=
  match regAt off with
  | none => r
  | some spec =>
    tput (resetOf off) r off (mergeWord (tget (resetOf off) r off) v (spec.mask accStores))

/-- Is a write of a word to a register legal, given the register file (R18)? -/
def wordOk (r : Tab Word) (off : Nat) (v : Word) : Bool :=
  match regAt off with
  | none => true
  | some spec => spec.legal v && crossOk (rwrite r off v) off

/-- Apply writes in order. -/
def rwrites (r : Tab Word) : List (Nat × Word) → Tab Word
  | [] => r
  | (off, v) :: ws => rwrites (rwrite r off v) ws

/-- The fibre engine a register belongs to, where it belongs to one. -/
def regFe (off : Nat) : Option Nat :=
  match off / 0x10000 with
  | 2 => if 0x020100 ≤ off ∧ off < 0x020500 then some ((off - 0x020100) / 0x100) else none
  | 3 => some (off % 0x10000 / 0x4000)
  | 4 =>
    if 0x040100 ≤ off ∧ off < 0x040200 then some ((off - 0x040100) / 0x40)
    else if 0x040200 ≤ off ∧ off < 0x040280 then some ((off - 0x040200) / 0x20)
    else if 0x040300 ≤ off ∧ off < 0x040340 then some ((off - 0x040300) / 0x10)
    else if 0x041000 ≤ off ∧ off < 0x041400 then some ((off - 0x041000) / 0x100)
    else if 0x041400 ≤ off ∧ off < 0x041600 then some ((off - 0x041400) / 0x80)
    else if 0x041800 ≤ off ∧ off < 0x041880 then some ((off - 0x041800) / 0x20)
    else none
  | 5 => some (off % 0x10000 / 0x4000)
  | 6 => some (off % 0x10000 / 0x4000)
  | 7 => if off % 0x10000 < 0x400 then some (off % 0x10000 / 0x100) else none
  | 8 => some (off % 0x10000 / 0x4000)
  | _ => none

/-- The table windows (R546). -/
inductive Table where
  | wave (n : Nat)
  | ref (n j : Nat)
  | fir (n : Nat) (bank : Bool)
  | prof (n : Nat)
  | map (n : Nat)
deriving DecidableEq, Repr

/-- The table that holds an offset. -/
def tableAt (off : Nat) : Option Table :=
  if 0x400000 ≤ off ∧ off < 0x500000 then some (.wave ((off - 0x400000) / 0x40000))
  else if 0x500000 ≤ off ∧ off < 0x580000 then some (.ref ((off - 0x500000) / 0x20000) ((off - 0x500000) % 0x20000 / 0x4000))
  else if 0x580000 ≤ off ∧ off < 0x584000 ∧ off % 0x1000 < 0x800 then
    some (.fir ((off - 0x580000) / 0x1000) (decide (0x400 ≤ off % 0x1000)))
  else if 0x600000 ≤ off ∧ off < 0x700000 then some (.prof ((off - 0x600000) / 0x40000))
  else if 0x700000 ≤ off ∧ off < 0x720000 then some (.map ((off - 0x700000) / 0x8000))
  else none

/-- The fibre engine of a table. -/
def Table.fe : Table → Nat
  | .wave n => n
  | .ref n _ => n
  | .fir n _ => n
  | .prof n => n
  | .map n => n

end Sys2Proof.Machine
end

