-- ==== Sys2Proof/Machine/Track.lean ====
section
/-! DEFINITION. The track interface (chapter 07, R258, R260 to R276): encoder inputs, compare units, magnetic switches,
SSI ports and emulated encoders. -/

namespace Sys2Proof.Machine

def State.setTrk (s : State) (x : TrkSt) : State := { s with trk := x }

/-- An encoder input. -/
def State.qin (s : State) (i : Nat) : QinSt := vget QinSt.init s.trk.qin i

/-- Change an encoder input. -/
def State.modQin (s : State) (i : Nat) (g : QinSt → QinSt) : State :=
  s.setTrk { s.trk with qin := vset s.trk.qin i (g (s.qin i)) }

/-- The sampling instant of a change seen at t: the first grid multiple of 4 ns at or after it (R260). -/
def State.sampleAt4 (s : State) (t : Nat) : Nat := t + ((-(s.gridOf t)) % 4).toNat

/-- What the track interface shows goes on until the next sampling instant, as a write or an edge comes between two of them
(R260, R276). -/
def State.trkHold (s : State) : State :=
  let u := s.sampleAt4 s.now
  match s.trk.old with
  | some x => if s.now < x.upto then s else s.setTrk { s.trk with old := some ⟨u, s.regs⟩ }
  | none => s.setTrk { s.trk with old := some ⟨u, s.regs⟩ }

/-- The state as the registers and pins of the track interface show it. -/
def State.trkView (s : State) : State :=
  match s.trk.old with
  | some x => if s.now < x.upto then { s with regs := x.regs } else s
  | none => s

/-! ### Counting (R260 to R265) -/

/-- The position of the quadrature lines in the cycle of an up-count: 00, 10, 11, 01. -/
def quadPos (a b : Bool) : Nat :=
  match a, b with
  | false, false => 0
  | true, false => 1
  | true, true => 2
  | false, true => 3

/-- Move POS by a signed step; the net change since POS was last read runs along (R265). -/
def State.qinMove (s : State) (i : Nat) (d : Int) : State :=
  (s.set (TRK_QIN_POS_POS i) (uenc (s.get (TRK_QIN_POS_POS i) + d) 32)).modQin i (fun q =>
    { q with net := q.net + d, reach := q.reach || decide (2 ^ 31 ≤ (q.net + d).natAbs) })

/-- SPEED and SPD_VALID from the intervals held and the last direction (R263). -/
def State.qinSpeed (s : State) (i : Nat) : State :=
  let l := (s.qin i).ivs
  let v := if l.isEmpty then 0 else rha (1000000000 * l.length) (l.foldl (· + ·) 0)
  (s.setI (TRK_QIN_SPEED_SPEED i) (if s.on (TRK_QIN_STATUS_DIR i) then -v else v)).setB (TRK_QIN_STATUS_SPD_VALID i)
    (!l.isEmpty)

/-- The first FAST or ILLEGAL of an input in a window raises TRK_EDGE (R262). -/
def State.qinEdgeErr (s : State) (i : Nat) : State :=
  let w := s.dutyWinAt s.now
  if (s.qin i).win = some w then s else (s.modQin i (fun q => { q with win := some w })).present 86

/-! ### Compare units (R268, R269) -/

/-- Drive a pulse of a compare unit on the emulator pins mapped to it, unless TRK is contained (R268, R273, R422). -/
def State.cmpPulse (s : State) (c : Nat) : State :=
  if s.contained 6 then s
  else
    let until_ := s.now + s.get (TRK_CMP_CFG_PULSE c)
    let hit := fun (p : Nat) => s.get (TRK_ENC_CFG_MODE (p / 3)) == 3 &&
      (match p % 3 with
       | 0 => s.get (TRK_ENC_CFG_CMP_A (p / 3))
       | 1 => s.get (TRK_ENC_CFG_CMP_B (p / 3))
       | _ => s.get (TRK_ENC_CFG_CMP_Z (p / 3))) == c
    s.setTrk { s.trk with pulse := Vector.ofFn (fun (p : Fin 12) =>
      if hit p.val then until_ else vget 0 s.trk.pulse p.val) }

/-- A compare unit fires: with ACT_PMC = 1 it triggers the monitor converter, unless TRK is contained (R268, R374, R422). -/
def State.cmpFire (s : State) (c : Nat) : State :=
  let s1 := (s.set1 (TRK_CMP_EVENTS_FIRED.bit c)).ev TRK_EVENTS_CMP_FIRED
  let s1 := if s.on (TRK_CMP_CFG_ACT_PMC c) && !s.contained 6 then s1.pmcEvent c else s1
  let s2 := if s.on (TRK_CMP_CFG_ACT_OUT c) then s1.cmpPulse c else s1
  if s.on (TRK_CMP_CFG_REARM c) then s2.addWrap (TRK_CMP_VALUE_VALUE c) (s.get (TRK_CMP_STEP_STEP c))
  else s2.set (TRK_CMP_CFG_EN c) 0

/-- The armed units of an input whose VALUE the count has just reached in a direction they accept. -/
def State.cmpCheck (s : State) (i : Nat) (down : Bool) : State :=
  (List.range 4).foldl (fun s k =>
    let c := 4 * i + k
    let d := s.get (TRK_CMP_CFG_DIR c)
    if s.on (TRK_CMP_CFG_EN c) && s.get (TRK_CMP_VALUE_VALUE c) == s.get (TRK_QIN_POS_POS i)
        && (d == 0 || d == (if down then 2 else 1)) then s.cmpFire c
    else s) s

/-- VALUE written: is it behind the present position (R269)? -/
def State.cmpValue (s : State) (c : Nat) (v : Word) : State :=
  let i := c / 4
  let s1 := s.set (TRK_CMP_VALUE_VALUE c) v.toNat
  let d := wrap32 ((v.toNat : Int) - s.get (TRK_QIN_POS_POS i))
  let behind := if s.on (TRK_QIN_STATUS_DIR i) then decide (0 ≤ d) else decide (d ≤ 0)
  if s.on (TRK_QIN_STATUS_MOVING i) && behind then
    ((s1.set1 (TRK_CMP_EVENTS_BEHIND.bit c)).set (TRK_CMP_DIST_DIST c) d.natAbs).ev
      TRK_EVENTS_CMP_BEHIND
  else s1

/-- One counted edge: POS, wraps, the speed interval, and the compare units (R260 to R264, R268). -/
def State.qinCount (s : State) (i st : Nat) (down lineA : Bool) : State :=
  let q := s.qin i
  let pos := s.get (TRK_QIN_POS_POS i)
  let fast := match (if lineA then q.atA else q.atB) with
    | some e => decide (st < e + s.get (TRK_QIN_TIMING_MIN_EDGE i))
    | none => false
  let turn := q.lastCnt.isSome && s.on (TRK_QIN_STATUS_DIR i) != down
  let ivs := if turn then [] else
    match q.atEdge with
    | some e => if q.skip || fast then q.ivs else ((st - e) :: q.ivs).take (2 ^ s.get (TRK_QIN_CFG_SPD_LOG2 i))
    | none => q.ivs
  let s1 := (s.qinMove i (if down then -1 else 1)).modQin i (fun q => { q with
    up := q.up || (!down && pos == 2 ^ 32 - 1), dn := q.dn || (down && pos == 0)
    atA := if lineA then some st else q.atA, atB := if lineA then q.atB else some st
    atEdge := some st, lastCnt := some st, skip := fast, ivs := ivs })
  let s2 := (((s1.setB (TRK_QIN_STATUS_DIR i) down).set (TRK_QIN_STATUS_MOVING i) 1).qinSpeed i).cmpCheck i down
  if fast then
    (((s2.set1 (TRK_QIN_STATUS_FAST i)).addSat (TRK_QIN_ERR_CNT_FAST i) 1).ev TRK_EVENTS_FAST).qinEdgeErr i
  else s2

/-- Both lines changed in one sampling interval (R261). -/
def State.qinIllegal (s : State) (i st : Nat) : State :=
  let s1 := s.modQin i (fun q => { q with atA := some st, atB := some st, atEdge := none })
  (((s1.set1 (TRK_QIN_STATUS_ILLEGAL i)).addSat (TRK_QIN_ERR_CNT_ILLEGAL i) 1).ev TRK_EVENTS_ILLEGAL).qinEdgeErr i

/-- ENCODER_EDGE: the lines of an input take new levels. -/
def State.encoderEdge (s0 : State) (i : Nat) (qa qb : Bool) : State :=
  let s := s0.trkHold
  let l := s.get (TRK_QIN_STATUS_LINES i)
  let a := l.testBit 0
  let b := l.testBit 1
  let st := s.sampleAt4 s.now
  let s1 := s.set (TRK_QIN_STATUS_LINES i) (qa.toNat + 2 * qb.toNat + l / 4 * 4)
  if !s.on (TRK_QIN_CFG_EN i) || (a == qa && b == qb) then s1
  else if a != qa && b != qb then s1.qinIllegal i st
  else
    let down := decide ((quadPos a b + 1) % 4 ≠ quadPos qa qb) != s.on (TRK_QIN_CFG_INV i)
    s1.qinCount i st down (a != qa)

/-- STALL µs pass without a counted edge (R263). -/
def State.encoderStall (s : State) (i : Nat) : State :=
  match (s.qin i).lastCnt with
  | some e =>
    if s.on (TRK_QIN_STATUS_MOVING i) ∧ e + 1000 * s.get (TRK_QIN_TIMING_STALL i) ≤ s.now then
      ((s.modQin i (fun q => { q with ivs := [] })).qinSpeed i).set (TRK_QIN_STATUS_MOVING i) 0
    else s
  | none => s

/-- LOAD (R265). -/
def State.qinLoad (s : State) (i : Nat) (v : Word) : State :=
  s.qinMove i (wrap32 ((v.toNat : Int) - s.get (TRK_QIN_POS_POS i)))

/-- The live bits that a read of POS captures in POS_SNAP (R265). -/
def State.qinSnap (s : State) (i : Nat) : Nat :=
  let q := s.qin i
  q.up.toNat + 2 * q.dn.toNat + 4 * q.reach.toNat

/-- A read of POS clears the live bits (R265). -/
def State.qinPosRead (s : State) (i : Nat) : State :=
  s.modQin i (fun q => { q with up := false, dn := false, reach := false, net := 0 })

/-- An accepted index (R266). -/
def State.indexTake (s : State) (i : Nat) : State :=
  let cap := s.get (TRK_QIN_POS_POS i)
  let first := !(s.qin i).idxOne
  let s1 := ((s.set (TRK_QIN_IDX_CAP_CAP i) cap).set1 (TRK_QIN_STATUS_INDEX_SEEN i)).modQin i
    (fun q => { q with idxOne := true })
  let s2 := if first && s.on (TRK_QIN_CFG_LEARN i) then s1.set (TRK_QIN_IDX_REF_REF i) cap else s1
  let p : Int := s.get (TRK_QIN_IDX_PERIOD_PERIOD i)
  if p = 0 then s2
  else
    let a := wrap32 ((cap : Int) - s2.get (TRK_QIN_IDX_REF_REF i))
    let d := (a + p / 2) % p - p / 2
    let s3 := s2.setI (TRK_QIN_IDX_ERR_ERR i) d
    let s4 := if s.get (TRK_QIN_IDX_TOL_TOL i) < d.natAbs then
        (s3.set1 (TRK_QIN_STATUS_INDEX_MISMATCH i)).ev TRK_EVENTS_INDEX_MISMATCH
      else s3
    if s.on (TRK_QIN_CFG_CORR i) then s4.qinMove i (-d) else s4

/-- INDEX_PULSE: QZ takes a new level. -/
def State.indexPulse (s0 : State) (i : Nat) (level : Bool) : State :=
  let s := s0.trkHold
  let l := s.get (TRK_QIN_STATUS_LINES i)
  let s1 := s.set (TRK_QIN_STATUS_LINES i) (l % 4 + 4 * level.toNat)
  if s.on (TRK_QIN_CFG_EN i) && l.testBit 2 != level && level != s.on (TRK_QIN_CFG_IDX_POL i)
      && (!s.on (TRK_QIN_CFG_IDX_GATE i) || l % 4 == 3) then s1.indexTake i
  else s1

/-- A record of the count history, at grid multiples of 2^16 ns (R267). -/
def State.historyRecord (s : State) (i : Nat) : State :=
  let g := s.gridOf s.now
  if g % 65536 = 0 then
    s.modQin i (fun q => { q with
      hist := ((g, s.get (TRK_QIN_POS_POS i), s.getI (TRK_QIN_SPEED_SPEED i)) :: q.hist).take 4096 })
  else s

/-! ### Chainage (R258, R270) -/

/-- Point k of the chainage map of fibre engine n. -/
def mapRs (tabs : Tab Word) (n k : Nat) : Int := (tget 0 tabs (0x700000 + 0x8000 * n + 8 * k)).toNat
def mapCh (tabs : Tab Word) (n k : Nat) : Int := (tget 0 tabs (0x700000 + 0x8000 * n + 8 * k + 4)).toInt

/-- The segment of a position: the largest k with RS[k] ≤ x, limited to 0 .. NPTS − 2. -/
def mapSeg (tabs : Tab Word) (n npts : Nat) (x : Int) : Nat :=
  min (((List.range npts).filter (fun k => decide (mapRs tabs n k ≤ x))).foldl max 0) (npts - 2)

/-- Chainage of a position, chainage speed, and OUT_OF_MAP, with npts ≥ 2 points. -/
def chainage (tabs : Tab Word) (n npts : Nat) (x v : Int) : Int × Int × Bool :=
  let k := mapSeg tabs n npts x
  let dr := mapRs tabs n (k + 1) - mapRs tabs n k
  let dc := mapCh tabs n (k + 1) - mapCh tabs n k
  (mapCh tabs n k + rhaI ((x - mapRs tabs n k) * dc) dr, rhaI (v * dc) dr,
    decide (x < mapRs tabs n 0 ∨ mapRs tabs n (npts - 1) < x))

/-- The chainage of an encoder input at a count (R270). -/
def qinChainage (r : Tab Word) (i : Nat) (pos : Nat) : Int :=
  rgetI r (TRK_QIN_BASE_BASE i) + rha (sext pos 32 * 1000) (rget r (TRK_QIN_SCALE_CPM i))

/-! ### Magnetic switches (R271) -/

/-- MS_EDGE: a new level of an input that has been stable for DEBOUNCE. `falling` and `stamp` are the edge at the pin and its
first sample; POL inverts the input. -/
def State.msEdge (s : State) (m : Nat) (falling : Bool) (stamp : Nat) : State :=
  if (s.get TRK_MS_CFG_EN).testBit m ∧ stamp + 1000 * s.get TRK_MS_CFG_DEBOUNCE ≤ s.now then
    let e : Nat × Bool × Nat :=
      (m, falling != (s.get TRK_MS_CFG_POL).testBit m, (s.gridOf (s.sampleAt4 stamp) % 2 ^ 64).toNat)
    let s1 := if s.trk.fifo.length < 32 then s.setTrk { s.trk with fifo := s.trk.fifo ++ [e] } else s.ev TRK_EVENTS_MS_OVF
    (s1.modF (s.get TRK_MS_FE_FE / 4 ^ m % 4) (fun f => { f with evt := { f.evt with sw := f.evt.sw ++ [(e, s.gridOf s.now)] } })).ev
      TRK_EVENTS_MS_EDGE
  else s

/-! ### SSI ports (R272) -/

/-- A port. -/
def State.ssi (s : State) (p : Nat) : SsiSt := vget ⟨0, false, 0, 0⟩ s.trk.ssi p
def State.setSsi (s : State) (p : Nat) (x : SsiSt) : State := s.setTrk { s.trk with ssi := vset s.trk.ssi p x }

/-- From the latching edge to the end of the MONO time, in ns: BITS and a half clock periods, and MONO. -/
def State.ssiBusyNs (s : State) (p : Nat) : Nat :=
  cdiv ((2 * s.get (TRK_SSI_CFG_BITS p) + 1) * 500000) (s.get (TRK_SSI_CFG_CLK_KHZ p)) + 1000 * s.get (TRK_SSI_TIMING_MONO p)

/-- SSI_FRAME_START: a grid multiple of PERIOD µs. -/
def State.ssiStart (s : State) (p : Nat) (datLow : Bool) : State :=
  if s.on (TRK_SSI_CFG_EN p) ∧ s.gridOf s.now % (1000 * s.get (TRK_SSI_TIMING_PERIOD p)) = 0 then
    let x := s.ssi p
    if x.open_ ∨ s.now < x.busy then (s.set1 (TRK_SSI_STATUS_OVR p)).ev TRK_EVENTS_SSI_OVR
    else if datLow then (s.set1 (TRK_SSI_STATUS_START_ERR p)).ev TRK_EVENTS_SSI_ERR
    else s.setSsi p { x with busy := s.now + s.ssiBusyNs p, open_ := true, gt := s.gridOf s.now }
  else s

/-- Gray code to binary. -/
def grayToBin : Nat → Nat → Nat
  | 0, x => x
  | n + 1, x => grayToBin n (x ^^^ (x >>> 2 ^ n))

/-- The level of SSI_CLK: high when idle; in a frame its first falling edge is the latching one, and half a clock period
after the last of BITS further falling edges it is idle again. -/
def State.ssiClk (s : State) (p : Nat) : Bool :=
  let x := s.ssi p
  let h := ((s.gridOf s.now - x.gt) * s.get (TRK_SSI_CFG_CLK_KHZ p)).toNat / 500000
  !x.open_ || h % 2 == 1 || decide (2 * s.get (TRK_SSI_CFG_BITS p) < h)

/-- SSI_FRAME_END: the bits received, the first in the highest of BITS places; SSI_DAT half a clock period after the last
bit, and after how many ns from there it is high again. -/
def State.ssiEnd (s : State) (p : Nat) (bits : Nat) (datLow : Bool) (high : Nat) : State :=
  let x := s.ssi p
  let endOk := datLow && decide (high ≤ 1000 * s.get (TRK_SSI_TIMING_MONO p))
  if x.open_ then
    let s1 := s.setSsi p { x with open_ := false }
    if !s.on (TRK_SSI_CFG_EN p) then s1
    else if endOk then
      let v := bits % 2 ^ s.get (TRK_SSI_CFG_BITS p)
      ((s1.set (TRK_SSI_DATA_DATA p) (if s.on (TRK_SSI_CFG_GRAY p) then grayToBin 6 v else v)).set (TRK_SSI_STATUS_VALID p)
        1).setSsi p { x with open_ := false, dataGt := x.gt }
    else (s1.set1 (TRK_SSI_STATUS_END_ERR p)).ev TRK_EVENTS_SSI_ERR
  else s

/-! ### Emulated encoders (R273 to R275) -/

/-- An emulated encoder. -/
def State.enc (s : State) (m : Nat) : EncSt := vget EncSt.init s.trk.enc m
def State.modEnc (s : State) (m : Nat) (g : EncSt → EncSt) : State :=
  s.setTrk { s.trk with enc := vset s.trk.enc m (g (s.enc m)) }

/-- What an emulator's source gives: a chainage; nothing, with the source lost; or nothing, held. -/
inductive EncSrc where
  | at_ (ch : Int)
  | lost
  | held
deriving DecidableEq, Repr

/-- The source of emulator m in TRACK or QIN mode. -/
def State.encSrc (s : State) (m : Nat) : EncSrc :=
  if s.get (TRK_ENC_CFG_MODE m) = 2 then
    let i := s.get (TRK_ENC_CFG_QIN m)
    .at_ (qinChainage s.regs i (s.get (TRK_QIN_POS_POS i)))
  else
    let n := s.get (TRK_ENC_CFG_FE m)
    let e := (s.f n).evt
    let npts := s.get (EVT_MAP_CFG_NPTS n)
    match (e.tracks.filterMap id).find? (fun t => t.id == s.get (TRK_ENC_TRACK_ID_ID m)) with
    | none => .lost
    | some t =>
      if s.lstate n ≠ 2 ∨ npts < 2 then .held
      else .at_ (chainage s.tables n npts (t.x + rha (t.v * (s.gridOf s.now - e.tI)) 1000000000) t.v).1

/-- An emulator holds; once its track is gone, SRC_LOST says so (R275). -/
def State.encHold (s : State) (m : Nat) (gone : Bool) : State :=
  let s1 := ((s.modEnc m (fun e => { e with lost := true })).set (TRK_ENC_STATUS_RUN m) 0).set (TRK_ENC_STATUS_HOLD m) 1
  if gone && !(s.enc m).gone then
    ((s1.modEnc m (fun e => { e with gone := true })).set1 (TRK_ENC_STATUS_SRC_LOST m)).ev TRK_EVENTS_ENC_SRC_LOST
  else s1

/-- Recompute the target of emulator m. In TRACK mode it holds from the loss of its source to the next write of TRACK_ID;
QIN mode follows its input (R274, R275). -/
def State.encTarget (s : State) (m : Nat) : State :=
  if s.get (TRK_ENC_CFG_MODE m) = 0 ∨ s.get (TRK_ENC_CFG_MODE m) = 3 then
    (s.set (TRK_ENC_STATUS_RUN m) 0).set (TRK_ENC_STATUS_HOLD m) 0
  else
    match s.encSrc m with
    | .lost => s.encHold m true
    | .held => s.encHold m false
    | .at_ ch =>
      if s.get (TRK_ENC_CFG_MODE m) = 1 ∧ (s.enc m).lost then s.encHold m false else
      let t := rha (ch * s.get (TRK_ENC_CPM_CPM m)) 1000
      let s1 := ((s.modEnc m (fun e => { e with target := t })).set (TRK_ENC_STATUS_RUN m) 1).set (TRK_ENC_STATUS_HOLD m) 0
      if 1024 < (wrap32 (t - s.get (TRK_ENC_COUNT_COUNT m))).natAbs then
        (s1.set1 (TRK_ENC_STATUS_LAG m)).ev TRK_EVENTS_ENC_LAG
      else s1

/-- ENC_TARGET_UPDATE, at grid multiples of 1 µs. -/
def State.encUpdate (s : State) (m : Nat) : State := if s.gridOf s.now % 1000 = 0 then s.encTarget m else s

/-- ENC_STEP: one quadrature step towards the target, MIN_GAP after the last. -/
def State.encStep (s : State) (m : Nat) : State :=
  let e := s.enc m
  let d := wrap32 (e.target - s.get (TRK_ENC_COUNT_COUNT m))
  if (s.get (TRK_ENC_CFG_MODE m) = 1 ∨ s.get (TRK_ENC_CFG_MODE m) = 2) ∧ s.on (TRK_ENC_STATUS_RUN m) ∧ !s.contained 6 ∧ d ≠ 0 ∧
      e.stepAt + s.get (TRK_ENC_CPM_MIN_GAP m) ≤ s.now then
    (s.set (TRK_ENC_COUNT_COUNT m) (uenc (s.get (TRK_ENC_COUNT_COUNT m) + (if 0 < d then 1 else -1)) 32)).modEnc m
      (fun e => { e with stepAt := s.now })
  else s

/-- The output count takes the present target without steps, where the source gives one (R275, R439). -/
def State.encResume (s : State) (m : Nat) : State :=
  let s1 := s.modEnc m (fun e => { e with lost := false, gone := false })
  match s1.encSrc m with
  | .at_ ch =>
    let t := rha (ch * s.get (TRK_ENC_CPM_CPM m)) 1000
    (((s1.modEnc m (fun e => { e with target := t })).setI (TRK_ENC_COUNT_COUNT m) t).set (TRK_ENC_STATUS_RUN m) 1).set
      (TRK_ENC_STATUS_HOLD m) 0
  | _ => s1.encTarget m

/-- Emulators that follow a track of fibre engine n hold at once where it gives them no source any more: the track is gone,
the engine not armed, or NPTS 0 (R275). -/
def State.encCheck (s : State) (n : Nat) : State :=
  (List.range 4).foldl (fun s m =>
    if s.get (TRK_ENC_CFG_MODE m) = 1 ∧ s.get (TRK_ENC_CFG_FE m) = n then
      match s.encSrc m with
      | .lost => s.encHold m true
      | .held => s.encHold m false
      | .at_ _ => s
    else s) s

/-- TRACK_ID written: the hold ends and SRC_LOST is cleared; in TRACK mode the count jumps to the new target (R275). -/
def State.trackId (s : State) (m : Nat) (v : Word) : State :=
  let s1 := (s.set (TRK_ENC_TRACK_ID_ID m) v.toNat).set (TRK_ENC_STATUS_SRC_LOST m) 0
  if s.get (TRK_ENC_CFG_MODE m) = 1 then s1.encResume m else s1.modEnc m (fun e => { e with lost := false, gone := false })

/-- The levels that an emulator drives (R273, R274). -/
def State.encLevels (s : State) (m : Nat) : Bool × Bool × Bool :=
  match s.get (TRK_ENC_CFG_MODE m) with
  | 0 => (false, false, false)
  | 3 =>
    let hi := fun (p : Nat) => decide (s.now < vget 0 s.trk.pulse (3 * m + p))
    (hi 0, hi 1, hi 2)
  | _ =>
    let c := s.getI (TRK_ENC_COUNT_COUNT m)
    let q := (c % 4).toNat
    let a := q == 1 || q == 2
    let b := q == 2 || q == 3
    let mm : Int := (s.get (TRK_ENC_IDX_DIST_MM m) * s.get (TRK_ENC_CPM_CPM m) : Nat)
    let k := if mm = 0 then 0 else rha (c * 1000) mm.toNat
    let z := decide (mm ≠ 0) && ([k - 1, k, k + 1].any (fun k => rha (k * mm) 1000 == c))
    if s.on (TRK_ENC_CFG_INV m) then (b, a, z) else (a, b, z)

/-- Levels of EAm, EBm and EZm; none without VDD_IO33, low from then on until first configured and while TRK is contained
(R422, R527). -/
def State.encPins (s : State) (m : Nat) : Option (Bool × Bool × Bool) :=
  if !s.railGroup 2 then none
  else if s.contained 6 || decide (5 ≤ s.ladder) then some (false, false, false)
  else some (s.trkView.encLevels m)

/-- Containment of TRK: pulses end; the pins are low while the scope is contained (R422). -/
def State.trkContain (s : State) : State := s.setTrk { s.trk with pulse := Vector.replicate 12 0 }

/-- TRK resumes (R439). -/
def State.trkResume (s : State) : State :=
  (List.range 4).foldl (fun s m =>
    if s.get (TRK_ENC_CFG_MODE m) = 1 ∨ s.get (TRK_ENC_CFG_MODE m) = 2 then s.encResume m else s) s

/-- CMP_PULSE_END: a pulse of a pin ends. -/
def State.cmpPulseEnd (s : State) (pin : Nat) : State :=
  if vget 0 s.trk.pulse pin ≤ s.now then s.setTrk { s.trk with pulse := vset s.trk.pulse pin 0 } else s

/-- Writes of the TRK registers that act beyond storing their fields: EN of an input, of a port. `old` is the word before. -/
def State.trkWritten (s : State) (off : Nat) (old : Word) : State :=
  match instOf (TRK_QIN_CFG 0) 0x40 2 off with
  | some i =>
    if s.on (TRK_QIN_CFG_EN i) ∧ (TRK_QIN_CFG_EN i).of old = 0 then s.modQin i (fun q => { q with idxOne := false }) else s
  | none =>
    match instOf (TRK_SSI_CFG 0) 0x20 2 off with
    | some p =>
      if s.on (TRK_SSI_CFG_EN p) ∧ (TRK_SSI_CFG_EN p).of old = 0 then s.set (TRK_SSI_STATUS_VALID p) 0
      else if s.on (TRK_SSI_CFG_EN p) then s
      else s.setSsi p { s.ssi p with open_ := false }
    | none => s

end Sys2Proof.Machine
end

