-- ==== Sys2Proof/Machine/Acoustic.lean ====
section
/-! DEFINITION. The acoustic filter chain (chapter 05): DC blocker, CIC decimator, FIR banks with cross-fade, output
stage, fade bitmap, timestamps and PHASE frames. -/

namespace Sys2Proof.Machine

/-! ### Settings -/

def ratioOf (r : Tab Word) (n : Nat) : Nat := rget r (ACF_CFG_RATIO n)
def orderOf (r : Tab Word) (n : Nat) : Nat := 3 + rget r (ACF_CFG_ORDER n)
def acfPhaseOf (r : Tab Word) (n : Nat) : Nat := rget r (ACF_CFG_PHASE n)
def ntapsOf (r : Tab Word) (n : Nat) : Nat := rget r (ACF_FIR_CFG_NTAPS n)
def ctr2Of (r : Tab Word) (n : Nat) : Nat := rget r (ACF_FIR_CFG_CTR2 n)

/-- SPAN (R192). -/
def spanOf (r : Tab Word) (n : Nat) : Nat :=
  orderOf r n * (ratioOf r n - 1) + 1 + (ntapsOf r n - 1) * ratioOf r n

/-- D2 (R193). -/
def d2Of (r : Tab Word) (n : Nat) : Nat := orderOf r n * (ratioOf r n - 1) + ratioOf r n * ctr2Of r n

/-- Tones and stride of the form in force: T and 1, or T_eff and STRIDE (R491). -/
def formOf (r : Tab Word) (n : Nat) (sent : Option SentForm) : Nat × Nat :=
  match sent with | some x => (min (tonesOf r n) x.lim, x.stride) | none => (tonesOf r n, 1)

/-- K of R177, for the input rate of the form in force (R491). -/
def leakK (r : Tab Word) (n : Nat) (sent : Option SentForm) : Nat :=
  let p := formOf r n sent
  let x := 2 * fixPi * (rget r (ACF_DCB_CORNER n) * priOf r n * p.2 : Nat) / ((p.1 : Int) * 10 ^ 11)
  (rha (2 ^ 32 * (fixOne - fixExp (-x))) (2 ^ 96)).toNat

/-- The rules of R200 but the image's budget. -/
def acfOk (r : Tab Word) (n : Nat) : Bool :=
  decide (acfPhaseOf r n < ratioOf r n ∧ ctr2Of r n ≤ 2 * (ntapsOf r n - 1))

/-! ### The chain for one bin and one shot (R176, R179) -/

def AcfBin.empty : AcfBin := ⟨0, 0, 65535, [], [], [], false⟩

/-- The 64-bit integrators take w: I[1] += w, then each takes the one before it. -/
def integrate : List Nat → Nat → List Nat
  | [], _ => []
  | i :: is, w => let j := (i + w) % 2 ^ 64; j :: integrate is j

/-- The combs on v: their new registers and the output. -/
def combs : List Nat → Nat → List Nat × Nat
  | [], v => ([], v)
  | c :: cs, v => let r := combs cs ((v + 2 ^ 64 - c) % 2 ^ 64); (v :: r.1, r.2)

/-- Registers of a given order, cleared where none are held. -/
def cicRegs (l : List Nat) (n : Nat) : List Nat := (l ++ List.replicate n 0).take n

/-- A restart clears CIC registers, FIR history and fade count; a restart of the pipeline also the blocker (R197). -/
def AcfBin.restart (b : AcfBin) (full : Bool) (x : Nat) : AcfBin :=
  { b with int := [], comb := [], hist := [], age := 65535
           y := if full then 0 else b.y, x := if full then x else b.x }

/-- One input shot for one bin: the blocker and the integrators; the second result counts limits. -/
def AcfBin.input (b : AcfBin) (order k : Nat) (hold : Bool) (x : Nat × Bool) : AcfBin × Nat :=
  let d := wrap32 ((x.1 : Int) - b.x)
  let v := b.y + d * 2 ^ 16
  let e := if hold then 0 else rha (v * k) (2 ^ 32)
  let y := sat (v - e) 56
  let lim := decide (y ≠ v - e)
  let w := rha y (2 ^ 16)
  ({ b with x := x.1, y := y, int := integrate (cicRegs b.int order) (w % 2 ^ 64).toNat
            age := if x.2 then 0 else min 65535 (b.age + 1), lim := b.lim || lim }, if lim then 1 else 0)

/-- The decimator's output q of a bin enters its FIR history (R179). -/
def AcfBin.decimate (b : AcfBin) (order ratio : Nat) : AcfBin × Nat :=
  let ints := cicRegs b.int order
  let c := combs (cicRegs b.comb order) (ints.getLastD 0)
  let q0 := rha (sext c.2 64) (ratio ^ order)
  let q := sat q0 32
  ({ b with comb := c.1, hist := (q :: b.hist).take 256, lim := b.lim || q != q0 }, if q = q0 then 0 else 1)

/-- Coefficient j of a bank (R182). -/
def State.firCoef (s : State) (n : Nat) (bank : Bool) (j : Nat) : Int :=
  sext ((s.tword (0x580000 + 0x1000 * n + (if bank then 0x400 else 0) + 4 * j)).toNat % 2 ^ 18) 18

/-- The FIR sum of a bank over a history (R183). -/
def firSum (h : List Int) (hist : List Int) : Int := (List.zipWith (· * ·) h hist).foldl (· + ·) 0

/-- r of R183, or of R186 during a cross-fade, and whether it was limited. -/
def firOut (old new : List Int) (xf : Option XFade) (hist : List Int) : Int × Bool :=
  let v := match xf with
    | none => rha (firSum old hist) (2 ^ 16)
    | some x =>
      rha (((2 ^ x.log2 - x.j - 1 : Nat) : Int) * firSum old hist + ((x.j + 1 : Nat) : Int) * firSum new hist)
        (2 ^ (16 + x.log2))
  (sat v 32, decide (sat v 32 ≠ v))

/-! ### Bank requests (R185 to R189) -/

/-- A request is processed at an output. -/
def State.swapReq (s : State) (n log2 : Nat) (target : Bool) : State :=
  let a := (s.f n).acf
  match a.xf with
  | some _ =>
    let s1 := s.modF n (fun f => { f with acf := { f.acf with held := some target } })
    s1.ev (if a.held.isSome then ACF_EVENTS_FADE_REPLACED n else ACF_EVENTS_FADE_HELD n)
  | none =>
    if target = a.active then s
    else s.modF n (fun f => { f with acf := { f.acf with xf := some ⟨target, 0, log2⟩ } })

/-- At an output, a held request starts once no cross-fade runs, and then the requests whose boundary has come. -/
def State.swapsRun (s : State) (n log2 : Nat) : State :=
  let a := (s.f n).acf
  let s1 := match a.xf, a.held with
    | none, some t => (s.modF n (fun f => { f with acf := { f.acf with held := none } })).swapReq n log2 t
    | _, _ => s
  let reqs := (s1.f n).acf.reqs
  reqs.foldl (fun s t => s.swapReq n log2 t) (s1.modF n (fun f => { f with acf := { f.acf with reqs := [] } }))

/-- The cross-fade after an output: after the last the target is active (R186). -/
def State.xfStep (s : State) (n : Nat) : State :=
  match (s.f n).acf.xf with
  | none => s
  | some x =>
    let s1 := s.set (ACF_STATUS_XF_POS n) x.j
    if x.j + 1 = 2 ^ x.log2 then
      (s1.modF n (fun f => { f with acf := { f.acf with active := x.target, xf := none } })).ev (ACF_EVENTS_XF_DONE n)
    else s1.modF n (fun f => { f with acf := { f.acf with xf := some { x with j := x.j + 1 } } })

/-- Show the bank state. -/
def State.acfShow (s : State) (n : Nat) : State :=
  let a := (s.f n).acf
  (((s.setB (ACF_STATUS_ACTIVE n) a.active).setB (ACF_STATUS_XFADING n) a.xf.isSome).setB (ACF_STATUS_HELD n)
    a.held.isSome).setB (ACF_STATUS_HELD_TARGET n) (a.held.getD false)

/-- An ACF restart completes a cross-fade at once and applies the latest request (R189), that of its own shot first; at an
arming BANK selects the active bank. -/
def State.swapsSettle (s : State) (n : Nat) (i : AcfIn) : State :=
  let a := (s.f n).acf
  let bank := (i.swap.getLast?).getD (if i.arming then ron i.regs (ACF_FIR_CFG_BANK n)
    else (a.reqs.getLast?).getD (a.held.getD ((a.xf.map (·.target)).getD a.active)))
  let s1 := s.modF n (fun f => { f with acf := { f.acf with active := bank, xf := none, held := none, reqs := [] } })
  if a.xf.isSome then s1.ev (ACF_EVENTS_XF_DONE n) else s1

/-! ### The output stage (R168, R190, R192, R194) -/

/-- The output value, and whether PH16 limited it. -/
def outValue (ph32 : Bool) (r : Int) : Int × Bool :=
  if ph32 then (r, false) else (sat (rha r (2 ^ 11)) 16, decide (sat (rha r (2 ^ 11)) 16 ≠ rha r (2 ^ 11)))

/-- Bits of a fade bitmap, eight to a byte. -/
def bitmapBytes (l : List Bool) : List Byte :=
  (List.range (cdiv l.length 8)).map (fun q =>
    BitVec.ofNat 8 ((List.range 8).foldl (fun v m => v + if l.getD (8 * q + m) false then 2 ^ m else 0) 0))

/-- The payload of a PHASE frame (R169). -/
def phasePayload (ph32 : Bool) (vals : List Int) (fades : List Bool) : List Byte :=
  let b := vals.flatMap (fun v => leBytes (if ph32 then 4 else 2) (uenc v (if ph32 then 32 else 16)))
  b ++ List.replicate ((8 - b.length % 8) % 8) 0 ++ bitmapBytes fades

/-- Shot number and grid time of an output from the launches of its inputs, newest first (R194, R491). -/
def stampOf (times : List (Nat × Int)) (d2 : Nat) : Nat × Int :=
  let a := times.getD (cdiv d2 2) (0, 0)
  let b := times.getD (d2 / 2) (0, 0)
  (a.1, (a.2 + b.2) / 2)

/-- Count limits of R176, R179 and R236. -/
def State.acfLim (s : State) (n k : Nat) : State :=
  if k = 0 then s else (s.addSat (ACF_LIM_CNT_COUNT n) k).ev (ACF_EVENTS_LIM n)

/-- Count values limited in the output stage (R190). -/
def State.acfSat (s : State) (n k : Nat) : State :=
  if k = 0 then s
  else
    let s1 := (s.addSat (ACF_SAT_CNT_COUNT n) k).ev (ACF_EVENTS_SAT n)
    let w := s.dutyWinAt s.now
    if (s.f n).acf.satWin = some w then s1
    else (s1.modF n (fun f => { f with acf := { f.acf with satWin := some w } })).present (48 + n)

/-- The crest of the frame of a shot, as elapsed time: its last range sample plus one PRI (R48, chapter 08). -/
def crestOf (r : Tab Word) (n : Nat) (lastLaunch : Nat) : Nat := lastLaunch + winEndOf r n - 1 + priOf r n

/-- Is the frame a shot belongs to already late: its crest is past (R293, R296), or its fibre engine has overtopped (R298)? -/
def State.frameLate (s : State) (n frame : Nat) : Bool :=
  (s.f n).overtop ||
  (match ((s.f n).recs.filter (fun r => r.frame == frame)).getLast? with
   | some r => decide (crestOf r.regs n r.launch < s.now)
   | none => false)

/-- Is staging full for the work of a frame: does it hold the output of two other frames (R297)? -/
def State.stagingFull (s : State) (n frame : Nat) : Bool :=
  decide (2 ≤ (((s.hif.staged.filter (fun x => x.frame.fe == n)).filterMap (·.frame.work)).filter (· != frame)).dedup.length)

/-- What one output gives for a bin: its value before conversion, converted, FADE bit, flags of R191. -/
structure OutBin where
  r    : Int
  v    : Int
  fade : Bool
  sat  : Bool
  cnt  : Nat

/-- The output of one bin. -/
def outBin (r : Tab Word) (n : Nat) (old new : List Int) (xf : Option XFade) (b : AcfBin) : OutBin :=
  let o := firOut old new xf b.hist
  let ph32 := ron r (PHS_OUT_CFG_FORMAT n)
  let v := outValue ph32 o.1
  let win := if ron r (ACF_CFG_BITMAP_MODE n) then spanOf r n else ratioOf r n
  ⟨o.1, v.1, decide (b.age < win), o.2 || v.2 || b.lim, (if o.2 || v.2 then 1 else 0)⟩

/-- The PHASE frames of an output, one per section (R170, R194). -/
def State.phaseFrames (s : State) (n : Nat) (i : AcfIn) (st : Nat × Int) (outs : List OutBin) : List Frame :=
  let ph32 := ron i.regs (PHS_OUT_CFG_FORMAT n)
  let sect := rget i.regs (PHS_OUT_CFG_SECT n)
  let size := if sect = 0 then max 1 outs.length else 4096 * sect
  (List.range (cdiv outs.length size)).map (fun k =>
    let l := (outs.drop (k * size)).take size
    ⟨n, 0, n, 0, if ph32 then 1 else 0, s.frameLate n i.frame, l.any (·.sat), l.any (·.fade), false, false, st.1,
      (st.2 % 2 ^ 64).toNat, i.epoch, k * size, l.length, (i.gt - st.2).toNat,
      phasePayload ph32 (l.map (·.v)) (l.map (·.fade)), none⟩)

/-! ### The detector's intake (R234, R236, R237, R257) -/

def nbandsOf (r : Tab Word) (n : Nat) : Nat := rget r (EVT_CFG_NBANDS n)
def eiLog2 (r : Tab Word) (n : Nat) : Nat := rget r (EVT_CFG_EI_LOG2 n)

/-- Coefficients B0, B1, B2, A1, A2 of a band. -/
def bandCoefs (r : Tab Word) (n b : Nat) : List Int :=
  rgetI r (EVT_BAND_B0_COEF n b) :: (List.range 4).map (fun w => rgetI r (EVT_BAND_COEF_COEF n b w))

/-- One output through a band section; the second result says that a value was limited. The accumulator has 64 bits. -/
def BandSt.step (b : BandSt) (c : List Int) (count : Bool) (x : Int) : BandSt × Bool :=
  let k := fun i => c.getD i 0
  let v := rha (k 0 * x + k 1 * b.x1 + k 2 * b.x2 - k 3 * b.u1 - k 4 * b.u2) (2 ^ 16)
  let u := sat v 32
  (⟨x, b.x1, u, b.u1, if count then (b.acc + (u * u).toNat) % 2 ^ 64 else 0⟩, decide (u ≠ v))

/-- The detector takes one output: filters run on every output, energies count within an interval (R236, R237). -/
def State.evtTake (s : State) (n : Nat) (x : EvtOut) : State :=
  let e := (s.f n).evt
  let synced := e.synced || x.num % 2 ^ eiLog2 x.regs n == 0
  let coefs := (List.range (nbandsOf x.regs n)).map (bandCoefs x.regs n)
  let res := x.rs.zipIdx.map (fun y =>
    let old := e.bands.getD y.2 []
    coefs.zipIdx.map (fun c => (old.getD c.2 ⟨0, 0, 0, 0, 0⟩).step c.1 synced y.1.1))
  let lims := (res.map (fun l => (l.filter (·.2)).length)).foldl (· + ·) 0
  (s.modF n (fun f => { f with evt := { f.evt with
    synced := synced
    bands := res.map (fun l => l.map (·.1))
    faded := if synced then x.rs.zipIdx.map (fun y => y.1.2 || e.faded.getD y.2 false) else []
    sat := synced && (x.sat || e.sat) } })).acfLim n lims

/-- Does an output end an energy interval (R237)? -/
def intervalEnd (r : Tab Word) (n num : Nat) : Bool := (num + 1) % 2 ^ eiLog2 r n == 0

/-- An EVT restart (R257): filters, accumulators, backgrounds and histories are cleared and all tracks deleted. -/
def EvtSt.reset (e : EvtSt) : EvtSt :=
  { e with synced := false, bands := [], faded := [], sat := false, bg := [], rules := [], count := 0
           empty := 0, since := 0, tracks := [], restart := true }

/-- Cells detected by any rule. -/
def EvtSt.detCells (e : EvtSt) : Nat :=
  let n := e.rules.foldl (fun m r => max m r.det.length) 0
  ((List.range n).filter (fun c => e.rules.any (fun r => r.det.getD c false))).length

/-- Show the state of a running detector (R241). -/
def State.evtShow (s : State) (n : Nat) : State :=
  let e := (s.f n).evt
  let warm := s.on (EVT_CFG_EN n) && decide (e.count < 2 ^ s.get (EVT_CFG_BG_SHIFT n))
  ((s.set (EVT_STATUS_TRACKS n) (e.tracks.filterMap id).length).setB (EVT_STATUS_WARMUP n) warm).set
    (EVT_STATUS_DET_CELLS n) e.detCells

/-- The detector restarts: tracks go, and emulators that follow them hold (R257, R275). -/
def State.evtReset (s : State) (n : Nat) : State := ((s.modF n (fun f => { f with evt := f.evt.reset })).evtShow n).encCheck n

/-- A restart of the detector of a fibre engine that launches nothing comes once the work of its shots is done (R257, R305).
-/
def State.evtIdle (s : State) (n : Nat) : State :=
  let f := s.f n
  if f.evtRe && !s.busyFe n && f.recs.isEmpty && f.acf.q.isEmpty && f.evt.q.isEmpty then
    (s.modF n (fun f => { f with evtRe := false })).evtReset n
  else s

/-- The detector takes what has come, in order, up to the first output that ends an interval: that one is taken and stays at
the head until the interval is evaluated. -/
def evtAdvance (n : Nat) : List EvtIn → State → State
  | [], s => s.modF n (fun f => { f with evt := { f.evt with q := [] } })
  | .restart :: q, s => evtAdvance n q (s.evtReset n)
  | .out x :: q, s =>
    let s1 := s.evtTake n x
    if intervalEnd x.regs n x.num && (s1.f n).evt.synced then
      s1.modF n (fun f => { f with evt := { f.evt with q := .out x :: q } })
    else evtAdvance n q s1

/-- Something comes to the detector. -/
def State.evtPush (s : State) (n : Nat) (x : EvtIn) : State :=
  if (s.f n).evt.q.isEmpty then evtAdvance n [x] s
  else s.modF n (fun f => { f with evt := { f.evt with q := f.evt.q ++ [x] } })

/-- The detector takes an output while EN = 1. -/
def State.evtFeed (s : State) (n : Nat) (x : EvtOut) : State :=
  if ron x.regs (EVT_CFG_EN n) then s.evtPush n (.out x) else s

/-! ### ACF_OUTPUT -/

/-- Does an input produce an output: s mod R = PHASE, counted from the restart in SENTINEL (R181, R491)? -/
def AcfIn.isOut (i : AcfIn) (n : Nat) : Bool :=
  (if i.sent.isSome then i.idx else i.shot) % ratioOf i.regs n == acfPhaseOf i.regs n

/-- The chain takes one input (R175 to R180, R197). -/
def State.acfTake (s : State) (n : Nat) (i : AcfIn) : State :=
  let re := i.init || i.acfRe
  let s1 := if re then ((s.swapsSettle n i).ev (ACF_EVENTS_RESTART n)).set (ACF_STATUS_FILLING n) 1 else s
  let a := (s1.f n).acf
  let hold := ron i.regs (ACF_DCB_FREEZE n) || rget i.regs (ACF_DCB_CORNER n) == 0
  let k := leakK i.regs n i.sent
  let res := i.xs.zipIdx.map (fun xi =>
    let b := a.bins.getD xi.2 AcfBin.empty
    (if re then b.restart i.init xi.1.1 else b).input (orderOf i.regs n) k hold xi.1)
  let s2 := s1.modF n (fun f => { f with acf := { f.acf with
    bins := res.map (·.1), n := if re then 1 else f.acf.n + 1
    times := ((i.shot, i.gt) :: (if re then [] else f.acf.times)).take 16448
    reqs := if re then [] else f.acf.reqs ++ i.swap } })
  (s2.acfLim n ((res.map (·.2)).foldl (· + ·) 0)).acfShow n

/-- One output at input i: decimation, FIR, output stage; frames are staged when the span is full (R198), the detector takes
the values, and the history ring its record. DELAY_LO and DELAY_HI keep what they hold until a time of R183 is known after a
restart (log 91). -/
def State.acfEmit (s : State) (n : Nat) (i : AcfIn) : State :=
  let r := i.regs
  let s1 := s.swapsRun n (rget r (ACF_FIR_CFG_XF_LOG2 n))
  let a := (s1.f n).acf
  let dec := a.bins.map (fun b => b.decimate (orderOf r n) (ratioOf r n))
  let bins := dec.map (·.1)
  let coefs := fun (bank : Bool) => (List.range (ntapsOf r n)).map (s1.firCoef n bank)
  let old := coefs a.active
  let new := coefs ((a.xf.map (·.target)).getD a.active)
  let outs := bins.map (outBin r n old new a.xf)
  let s2 := s1.modF n (fun f => { f with acf := { f.acf with bins := bins.map (fun b => { b with lim := false }) } })
  let s3 := (s2.acfLim n ((dec.map (·.2)).foldl (· + ·) 0)).acfSat n ((outs.map (·.cnt)).foldl (· + ·) 0)
  let st := stampOf a.times (d2Of r n)
  let sd := if cdiv (d2Of r n) 2 < a.times.length then
      s3.set2 (ACF_DELAY_LO_NS n) (ACF_DELAY_HI_NS n) (i.gt - st.2).toNat
    else s3
  let s4 := (sd.set2 (ACF_LAST_OUT_LO_SHOT n) (ACF_LAST_OUT_HI_SHOT n) i.shot).xfStep n |>.acfShow n
  if a.n < spanOf r n then s4
  else
    let lost := (s4.f n).isLost i.frame
    let s5 := if s4.on (ACF_STATUS_FILLING n) && !lost then (s4.set (ACF_STATUS_FILLING n) 0).ev (ACF_EVENTS_FILLED n) else s4
    let frames := s5.phaseFrames n i st outs
    let num := ((if i.sent.isSome then i.idx else i.shot) - acfPhaseOf r n) / ratioOf r n
    let s6 := if lost then s5 else frames.foldl (fun s f => s.stageFor f i.frame) s5
    let kept := if lost then [] else frames.zipIdx.map (fun (f : Frame × Nat) => { f.1 with seq := (vget 0 s5.hif.seq n + f.2) % 2 ^ 32 })
    (s6.evtFeed n ⟨i.shot, st.1, st.2, (i.gt - st.2).toNat, i.epoch, i.frame, num, outs.map (fun o => (o.r, o.fade)),
      outs.any (·.sat), i.sent, r, i.map⟩).histRecord n kept

/-- The chain starts on an input: a restart of the pipeline, of the chain or of the detector restarts the detector (R257). -/
def State.acfStart (s : State) (n : Nat) (i : AcfIn) : State :=
  (if i.init || i.acfRe || i.evtRe then s.evtPush n .restart else s).acfTake n i

/-- The chain takes what has come, in order, up to the first input that produces an output: that one is taken and stays at the
head until its output is computed. -/
def acfAdvance (n : Nat) : List AcfIn → State → State
  | [], s => s.modF n (fun f => { f with acf := { f.acf with q := [] } })
  | i :: q, s =>
    let s1 := s.acfStart n i
    if i.isOut n then s1.modF n (fun f => { f with acf := { f.acf with q := i :: q } }) else acfAdvance n q s1

/-- A shot's phases come to the chain. -/
def State.acfPush (s : State) (n : Nat) (i : AcfIn) : State :=
  if (s.f n).acf.q.isEmpty then acfAdvance n [i] s
  else s.modF n (fun f => { f with acf := { f.acf with q := f.acf.q ++ [i] } })

/-- ACF_OUTPUT: the next output of the chain, where an input that produces one is waiting. Work that finds staging full waits
(R297, R464). -/
def State.acfOutput (s : State) (n : Nat) : State :=
  match (s.f n).acf.q with
  | [] => s
  | i :: q => if s.stagingFull n i.frame then s else acfAdvance n q ((s.memWork n).acfEmit n i)

/-! ### SHOT_PROCESSED -/

/-- SHOT_PROCESSED: the oldest shot not yet through the pipeline, once its range window and its segment have ended; its
phases go on to the acoustic filter chain (R133, R464). -/
def State.shotProcess (s : State) (n : Nat) (raw : List Raw4) : State :=
  match (s.f n).recs.find? (fun r => !r.phsDone) with
  | none => s
  | some r =>
    if s.now < r.launch + winEndOf r.regs n ∨ s.now < r.launch + cdiv r.len 2 then s
    else
      let s1 := (s.memWork n).phaseShot n r raw
      s1.acfPush n (r.acfIn n (s1.f n).phs.bins)

end Sys2Proof.Machine
end

