-- ==== Sys2Proof/Machine/Raman.lean ====
section
/-! DEFINITION. The Raman temperature path (chapter 06): accumulation, reference temperature, the end computation in
binary64 arithmetic, and DTS frames. -/

namespace Sys2Proof.Machine

/-! ### binary64 arithmetic, as m × 2^e (R217) -/

/-- Round a quotient p ÷ q of integers, q > 0, to a whole number, ties to even. -/
def roundEven (p : Int) (q : Nat) : Int :=
  let f := p / q
  let r := 2 * (p - f * q)
  if r < q then f else if (q : Int) < r then f + 1 else if f % 2 = 0 then f else f + 1

/-- The binary64 value nearest to p × 2^e ÷ q, ties to even; the values of this chapter are all in the normal range. -/
def b64 (p : Int) (e : Int) (q : Nat) : Int × Int :=
  if p = 0 then (0, 0)
  else
    -- scale so that the quotient has at least 54 bits, then drop to 53
    let k : Int := 54 + (q.log2 : Int) - (p.natAbs.log2 : Int)
    let num := if 0 ≤ k then p * 2 ^ k.toNat else p
    let den := if 0 ≤ k then q else q * 2 ^ (-k).toNat
    let drop := (num.natAbs / den).log2 - 52
    (roundEven num (den * 2 ^ drop), e - k + drop)

def b64mul (a b : Int × Int) : Int × Int := b64 (a.1 * b.1) (a.2 + b.2) 1
def b64div (a b : Int × Int) : Int × Int :=
  b64 (if b.1 < 0 then -a.1 else a.1) (a.2 - b.2) b.1.natAbs
def b64add (a b : Int × Int) : Int × Int :=
  let e := min a.2 b.2
  b64 (a.1 * 2 ^ (a.2 - e).toNat + b.1 * 2 ^ (b.2 - e).toNat) e 1

/-- ln 2 as a binary64 value. -/
def b64ln2 : Int × Int := (6243314768165359, -53)

/-- round_half_away of a binary64 value. -/
def b64round (a : Int × Int) : Int := if 0 ≤ a.2 then a.1 * 2 ^ a.2.toNat else rha a.1 (2 ^ (-a.2).toNat)

/-- log2q (R217): round(2^26 log2 x) with an error of at most 2 LSB that the manual leaves open (log 9). -/
def log2q (x : Nat) : Int :=
  let e := Config.logErr x
  if 2 ^ x.log2 = x then (x.log2 : Int) * 2 ^ 26 + ((e % 5 : Nat) : Int) - 2
  else log2Floor x 26 + ((e % 4 : Nat) : Int) - 1

/-- The output value of a bin from TREF, λ_ref − λ and GAMMA (R217). TREF = 0 makes 100 ÷ TREF infinite and t zero. -/
def raman100 (tref lamDiff : Int) (gamma : Nat) : Nat :=
  let oor := 0xFFFFFFFE
  if tref = 0 then oor
  else
    let a := b64div (b64 100 0 1) (b64 tref 0 1)
    let b := b64mul (b64 lamDiff 0 1) b64ln2
    let c := b64div (b64mul (b64 (2 ^ 26) 0 1) (b64 gamma 0 1)) (b64 1000 0 1)
    let inv := b64add a (b64div b c)
    if inv.1 ≤ 0 then oor
    else
      let t := b64round (b64div (b64 100 0 1) inv)
      if t < 100 ∨ 200000 < t then oor else t.toNat

/-! ### Settings -/

def dtsOn (r : Tab Word) (n : Nat) : Bool := ron r (DTS_CFG_EN n)
def dtsNbins (r : Tab Word) (n : Nat) : Nat := rget r (DTS_NBINS_NBINS n)
def dtsStart (r : Tab Word) (n : Nat) : Nat := rget r (DTS_START_START n)
/-- Shots per accumulation. -/
def dtsShots (r : Tab Word) (n : Nat) : Nat := 2 ^ rget r (DTS_CFG_ACC_LOG2 n)

/-- The rules of R230 but the image's state. -/
def dtsOk (r : Tab Word) (n : Nat) : Bool :=
  !dtsOn r n ||
  (ron r (LNC_RAMAN_CFG_EN n) && ron r (chEn (16 + 2 * n)) && ron r (chEn (17 + 2 * n)) &&
    decide (winStartOf r n ≤ dtsStart r n ∧ dtsStart r n + 8 * dtsNbins r n ≤ winStartOf r n + winLenOf r n ∧
      1 ≤ rget r (DTS_REF_BINS_REF_NB n) ∧
      rget r (DTS_REF_BINS_REF_BIN0 n) + rget r (DTS_REF_BINS_REF_NB n) ≤ dtsNbins r n) &&
    (ron r (DTS_CFG_REF_MODE n) || (decide (rget r (DTS_REF_SLOT_SLOT n) < rget r PMC_SEQ_LEN) &&
      ron r (PMC_SLOT_CFG_EN (rget r (DTS_REF_SLOT_SLOT n))))))

/-! ### Accumulation (R206 to R211) -/

/-- ρ and q of a shot (R206). -/
def ramanRho (r : Shot) (n : Nat) : Nat := ((-(r.gt + rget r.regs (TIM_FE_REF_OFS_REF_OFS n))) % 4).toNat
def ramanQ (r : Shot) (n : Nat) : Nat := (ramanRho r n + 4 - dtsStart r.regs n % 4) % 4

/-- The range index of the first intensity sample in the window. -/
def ramanZ0 (r : Shot) (n : Nat) : Nat :=
  winStartOf r.regs n + (ramanRho r n + 4 - winStartOf r.regs n % 4) % 4

/-- The corrected samples of channel c (0 Stokes, 1 anti-Stokes) of a shot: value and overrange. -/
def ramanSamples (recs : List Shot) (r : Shot) (n c : Nat) (raw : List Int) : List (Int × Bool) :=
  let ch := 16 + 2 * n + c
  raw.zipIdx.map (fun x =>
    let dt := rget r.regs (TIM_FE_REF_OFS_REF_OFS n) + ramanZ0 r n + 4 * x.2
    correct r.regs ch (cfgAt recs r n (ACQ_ICH_CFG (2 * n + c)) (r.launch + dt)) (r.gt + dt) x.1)

/-- What a shot adds to each bin of one channel, and whether any of it was overrange (R208, R211). -/
def ramanAdd (r : Shot) (n : Nat) (xs : List (Int × Bool)) : List Int × Bool :=
  let a := xs.toArray
  let l := (List.range (dtsNbins r.regs n)).map (fun j =>
    let i := (dtsStart r.regs n + 8 * j + ramanQ r n - ramanZ0 r n) / 4
    (a.getD i (0, false), a.getD (i + 1) (0, false)))
  (l.map (fun p => rha (p.1.1 + p.2.1) 2), l.any (fun p => p.1.2 || p.2.2))

/-- Count the overrange samples of an intensity channel from a shot's window on that no earlier shot and no background block
has counted (R111). -/
def State.ramanOvr (s : State) (n c : Nat) (r : Shot) (xs : List (Int × Bool)) : State :=
  let ch := 16 + 2 * n + c
  let from_ := r.launch + rget r.regs (TIM_FE_REF_OFS_REF_OFS n) + ramanZ0 r n
  let codes := xs.take (cdiv (s.now - from_) 4)
  (codes.zipIdx.foldl (fun s x =>
    if x.1.2 && ron r.regs (chEn ch) &&
        decide (max (vget 0 s.acq.ovrTo ch) (s.f n).dts.ovrTo ≤ from_ + 4 * x.2) then
      s.overrange ch (from_ + 4 * x.2)
    else s) s).blkSeen ch from_ (from_ + 4 * codes.length)

def State.modDts (s : State) (n : Nat) (g : DtsSt → DtsSt) : State :=
  s.modF n (fun f => { f with dts := g f.dts })

/-- A full accumulation goes to its end computation, and the other set is used (R210). -/
def State.dtsSwap (s : State) (n : Nat) : State :=
  match (s.f n).dts.cur with
  | none => s
  | some a =>
    if a.count = dtsShots a.last.regs n then
      s.modDts n (fun d => { d with cur := none, set := !d.set, done := d.done ++ [a] })
    else s

/-- A shot's sums join the accumulation (R208, R209). -/
def DtsAcc.join (a : Option DtsAcc) (r : Shot) (n : Nat) (sums : List (Int × Int)) (ovr : Bool) : DtsAcc :=
  let k := dtsShots r.regs n / 2
  match a with
  | none => ⟨1, sums, 2 ^ ramanQ r n, ovr, r.shot, r.gt, (r.shot, r.gt), r.gt, r⟩
  | some a => { a with
      count := a.count + 1, acc := List.zipWith (fun x y => (x.1 + y.1, x.2 + y.2)) a.acc sums
      mask := a.mask ||| 2 ^ ramanQ r n, sat := a.sat || ovr
      mid0 := if a.count + 1 = k then (r.shot, r.gt) else a.mid0
      mid1 := if a.count = k then r.gt else a.mid1, last := r }

/-- The Raman shots of a fibre engine still to be accumulated, oldest first. -/
def FeSt.ramanWait (f : FeSt) : List Shot := f.recs.filter (fun r => r.raman && !r.dtsDone)

/-- Mark shots as accumulated or passed over. -/
def State.ramanMark (s : State) (n : Nat) (l : List Nat) : State :=
  s.modF n (fun f => { f with recs := f.recs.map (fun x => if x.shot ∈ l then { x with dtsDone := true } else x) })

/-- RAMAN_SHOT_ACCUMULATE: the oldest waiting Raman shot whose window and segment have ended (R208, R464). -/
def State.ramanTake (s : State) (n : Nat) (stokes anti : List Int) : State :=
  match (s.f n).ramanWait with
  | [] => s
  | r :: _ =>
    if s.now < r.launch + winEndOf r.regs n ∨ s.now < r.launch + cdiv r.len 2 then s
    else
      let recs := (s.f n).recs
      let xs := ramanSamples recs r n 0 stokes
      let ys := ramanSamples recs r n 1 anti
      let a := ramanAdd r n xs
      let b := ramanAdd r n ys
      let upto := min s.now (r.launch + rget r.regs (TIM_FE_REF_OFS_REF_OFS n) + ramanZ0 r n + 4 * max xs.length ys.length)
      let s1 := ((((s.memWork n).ramanOvr n 0 r xs).ramanOvr n 1 r ys).modDts n (fun d =>
        { d with ovrTo := max d.ovrTo upto })).dtsSwap n
      let s2 := (s1.modDts n (fun d => { d with cur := some (DtsAcc.join d.cur r n (List.zip a.1 b.1) (a.2 || b.2)) })).ramanMark
        n [r.shot]
      s2.set2 (DTS_LAST_SHOT_LO_SHOT n) (DTS_LAST_SHOT_HI_SHOT n) r.shot

/-! ### Restarts and discards (R226, R229) -/

/-- Drop the accumulation in progress: accumulations whose shots have all launched completely, and all come before FIRST_SHOT
where a containment has fixed one, stay. The second result says that one was dropped. -/
def State.dtsDrop (s : State) (n : Nat) (first : Option Nat) : State × Bool :=
  let f := s.f n
  let wait := f.ramanWait
  let before := fun (r : Shot) => match first with | some x => decide (r.shot < x) | none => true
  let lose := match f.dts.cur with | some a => !before a.last | none => false
  let c := match f.dts.cur with | some a => if lose then 0 else a.count | none => 0
  let per := match f.dts.cur, wait with
    | some a, _ => dtsShots a.last.regs n
    | none, r :: _ => dtsShots r.regs n
    | none, [] => 1
  let whole := (c + (wait.takeWhile (fun r => !r.cut && before r)).length) / per * per
  let gone := wait.drop (whole - c)
  let s1 := s.ramanMark n (gone.map (·.shot))
  let s2 := if whole = 0 then s1.modDts n (fun d => { d with cur := none }) else s1
  (s2, lose || decide (whole < c + wait.length))

/-- A DTS restart (R226). -/
def State.dtsRestart (s : State) (n : Nat) : State := (s.dtsDrop n none).1.ev (DTS_EVENTS_RESTART n)

/-- An accumulation in progress is discarded and counted (R229); under rule X one that holds a shot from FIRST_SHOT on
(R424). -/
def State.dtsDiscard (s : State) (n : Nat) (first : Option Nat) : State :=
  let d := s.dtsDrop n first
  if d.2 then (d.1.addSat (DTS_DISCARD_CNT_COUNT n) 1).ev (DTS_EVENTS_DISCARD n) else s

/-- Does a line of Berm hold Raman accumulators of fibre engine n? -/
def State.ramanLine (s : State) (n bank line : Nat) : Bool :=
  (s.images.flatMap (·.items)).any (fun i => i.berm && i.fe == n && i.kind == .raman &&
    decide (i.base < bank * 1048576 + 64 * (line + 1) ∧ bank * 1048576 + 64 * line < i.base + i.size))

/-- An uncorrected error in a line of Raman accumulators discards the accumulations held, full ones included, each counted
(R229). -/
def State.accPoison (s : State) (e : MemErr) : State :=
  match e with
  | .bermDouble bank line =>
    (List.range 4).foldl (fun s n =>
      let k := (s.f n).dts.cur.toList.length + (s.f n).dts.done.length
      if s.ramanLine n bank line && decide (0 < k) then
        ((s.modDts n (fun d => { d with cur := none, done := [] })).addSat (DTS_DISCARD_CNT_COUNT n) k).ev (DTS_EVENTS_DISCARD n)
      else s) s
  | .bermSingle .. | .dramSingle .. | .dramDouble .. | .linkEcc .. | .lineWritten .. => s

/-- A scrub pass ends (R451). -/
def State.scrubPass (s : State) (errs : List MemErr) : State :=
  if s.on BRM_SCRUB_CFG_EN ∧ s.ladder ≤ 3 then
    (errs.foldl (fun s e => (s.memErr none e).accPoison e) (s.addWrap BRM_PASS_CNT_COUNT 1)).ev BRM_EVENTS_SCRUB_PASS
  else s

/-! ### The reference temperature (R213 to R216) -/

/-- What an end computation takes as its reference. -/
structure RefTemp where
  tref   : Int
  none_  : Bool
  stale  : Bool
  reject : Bool
  precal : Bool
  count  : Nat

/-- tm of a result code (R213). -/
def refConv (r : Tab Word) (n : Nat) (u : Int) : Int :=
  rgetI r (DTS_REF_C0_C n) + rha (rgetI r (DTS_REF_C1_C n) * u) (2 ^ 23)
    + rha (rgetI r (DTS_REF_C2_C n) * u * u) (2 ^ 46)

/-- The reference of an accumulation from t_first to t_last. -/
def State.refTemp (s : State) (n : Nat) (a : DtsAcc) : RefTemp :=
  let r := a.last.regs
  let t1 := a.last.gt
  let age : Int := 1000000 * rget r (DTS_REF_SLOT_MAX_AGE n)
  if ron r (DTS_CFG_REF_MODE n) then
    match (s.f n).dts.temps.find? (fun p => decide (p.1 ≤ t1)) with
    | none => ⟨0, true, false, false, false, 0⟩
    | some p => ⟨p.2, false, decide (p.1 ≤ t1 - age), false, false, 0⟩
  else
    let all := s.pmc.hist.filter (fun x => x.slot == rget r (DTS_REF_SLOT_SLOT n) && decide (x.gt < t1))
    let inWin := all.filter (fun x => decide (a.gt0 ≤ x.gt))
    let good := inWin.filter (fun x => x.usable)
    let reject := inWin.any (fun x => !x.usable)
    if good.isEmpty then
      match all.find? (fun x => x.usable) with
      | none => ⟨0, true, false, reject, false, 0⟩
      | some x => ⟨refConv r n x.code, false, decide (x.gt ≤ t1 - age), reject, x.precal, 0⟩
    else
      ⟨rha ((good.map (fun x => refConv r n x.code)).foldl (· + ·) 0) good.length, false, false, reject,
        good.any (·.precal), good.length⟩

/-! ### The end computation (R217 to R224) -/

/-- Entry j of an attenuation profile (R220). -/
def profEntry (tabs : Tab Word) (n j : Nat) : Int :=
  halfAt (tget 0 tabs (0x600000 + 0x40000 * n + 4 * (j / 2))) (j % 2)

/-- λ of each bin, where both accumulators are positive. -/
def lambdas (a : DtsAcc) (n : Nat) : List (Option Int) :=
  a.acc.zipIdx.map (fun x =>
    if 0 < x.1.1 ∧ 0 < x.1.2 then
      some (log2q x.1.2.toNat - log2q x.1.1.toNat + profEntry a.last.prof n x.2 * 2 ^ 13)
    else none)

/-- The payload of a DTS frame (R223). BG_IC_EN and DARK_LEN count as they were at the launch of the last Raman shot, and M is
given modulo 2^16 (R212, R216, log 92). -/
def dtsPayload (a : DtsAcc) (n : Nat) (ref : RefTemp) (lamRef : Int) (nref : Nat) (out : List Nat) : List Byte :=
  let r := a.last.regs
  let raw := ron r (DTS_CFG_OUT_RAW n)
  let bit := fun (b : Bool) (i : Nat) => if b then 2 ^ i else 0
  let noDark := !ron r ACQ_CAL_CTL_BG_IC_EN || rget r (ACQ_FE_DARK_LEN_LEN n) == 0
  let multi := !([0, 1, 2, 4, 8].contains a.mask)
  let status := bit ref.stale 0 + bit ref.none_ 1 + bit (nref == 0) 2 + bit (ron r (DTS_CFG_REF_MODE n)) 3
    + bit noDark 4 + bit raw 5 + bit multi 6 + bit ref.reject 7
  let head := leBytes 4 (uenc ref.tref 32) ++ leBytes 2 status ++ leBytes 1 a.mask ++ leBytes 1 0
    ++ leBytes 8 (uenc lamRef 64) ++ leBytes 8 (a.first % 2 ^ 48) ++ leBytes 4 a.count ++ leBytes 2 ref.count
    ++ leBytes 2 nref ++ out.flatMap (leBytes 4)
  if raw then
    head ++ List.replicate ((8 - head.length % 8) % 8) 0
      ++ a.acc.flatMap (fun x => leBytes 8 (uenc x.1 64) ++ leBytes 8 (uenc x.2 64))
  else head

/-- DTS_END_COMPUTATION: the oldest finished accumulation. -/
def State.dtsEnd (s : State) (n : Nat) : State :=
  let s0 := s.dtsSwap n
  match (s0.f n).dts.done with
  | [] => s0
  | a :: rest =>
    if s0.stagingFull n a.last.frame then s0
    else
    let r := a.last.regs
    let ref := s0.refTemp n a
    let lam := lambdas a n
    let b0 := rget r (DTS_REF_BINS_REF_BIN0 n)
    let refs := ((lam.drop b0).take (rget r (DTS_REF_BINS_REF_NB n))).filterMap id
    let nref := refs.length
    let lamRef := if nref = 0 then 0 else rha (refs.foldl (· + ·) 0) nref
    let out := lam.map (fun l => match l with
      | none => 0xFFFFFFFF
      | some x => if nref = 0 ∨ ref.none_ then 0xFFFFFFFF else raman100 ref.tref (lamRef - x) (rget r (DTS_GAMMA_GAMMA n)))
    let gt := (a.mid0.2 + a.mid1) / 2
    let fr : Frame := ⟨4 + n, 0, n, 1, 0, s0.frameLate n a.last.frame, a.sat, false, false, ref.precal, a.mid0.1,
      (gt % 2 ^ 64).toNat, a.last.epoch, 0, dtsNbins r n, (a.last.gt - gt).toNat, dtsPayload a n ref lamRef nref out, none⟩
    let s1 := s0.modDts n (fun d => { d with done := rest })
    let s2 := ((s1.set (DTS_TREF_LAST_TREF n) (uenc ref.tref 18)).addWrap (DTS_DONE_CNT_COUNT n) 1).ev
      (DTS_EVENTS_DONE n)
    let s3 := if ref.stale then (s2.ev (DTS_EVENTS_REF_STALE n)).present (68 + n) else s2
    let s4 := if nref = 0 ∨ ref.none_ then s3.ev (DTS_EVENTS_REF_INVALID n) else s3
    s4.stageFor fr a.last.frame

end Sys2Proof.Machine
end

