-- ==== Sys2Proof/Machine/Duty.lean ====
section
/-! DEFINITION. What a fibre engine drives (chapter 02): the DAC codes, the peak limit, the duty accounting and the gates. -/

namespace Sys2Proof.Machine

/-! ### The tone mixer and the duty accounting (R61, R66, R74, R76) -/

/-- The phase increment of a tone: round_half_away(FREQ_KHZ × 1000 × 2^32 ÷ 2·10^9), modulo 2^32 (R66). -/
def mixInc (khz : Int) : Nat := (rha (khz * 1000 * 2 ^ 32) 2000000000 % 2 ^ 32).toNat

/-- The mixer's outputs before the limit for sample i of a segment that starts at word `start` (R66). -/
def State.mixSample (s : State) (n start inc i : Nat) : Int × Int :=
  let w := (s.tword (0x400000 + 0x40000 * n + 4 * (start + i))).toNat
  let xi : Int := (w % 4096 : Nat) - 2048
  let xq : Int := (w / 65536 % 4096 : Nat) - 2048
  let cs := mixTab (inc * i % 2 ^ 32 / 65536)
  (rha (xi * cs.1 - xq * cs.2) (2 ^ 17), rha (xi * cs.2 + xq * cs.1) (2 ^ 17))

/-- The DAC codes of a segment's sample i, limited to PEAK (R66, R77). -/
def State.dacCode (s : State) (n : Nat) (g : Playing) (peak i : Nat) : Nat × Nat :=
  let y := s.mixSample n g.start g.inc i
  ((clampSym y.1 peak + 2048).toNat, (clampSym y.2 peak + 2048).toNat)

/-- Does a segment that left the DACs at `stop` play in half a nanosecond from instant t on (0 or 1)? -/
def Playing.plays (g : Playing) (stop t half : Nat) : Bool :=
  decide (g.launch ≤ t ∧ t < stop ∧ 2 * t + half < 2 * g.launch + g.len)

/-- The extinction codes. -/
def State.extCode (s : State) (n : Nat) : Nat × Nat := (s.get (LNC_EXT_CODE_EXT_I n), s.get (LNC_EXT_CODE_EXT_Q n))

/-- The DAC codes in a half of the present nanosecond (0 or 1): the sample being played, limited to PEAK, or the extinction
codes (R61, R66, R77). -/
def State.dac (s : State) (n half : Nat) : Nat × Nat :=
  match (s.f n).seg with
  | none => s.extCode n
  | some g =>
    if g.plays (s.now + 1) s.now half then
      s.dacCode n g (s.get (LNC_ENV_PEAK_PEAK n)) (2 * (s.now - g.launch) + half)
    else s.extCode n

/-- The DAC codes in a half of the nanosecond from a past instant on, at most 1,002 ns ago (R101): of the segment then
played, as cut by a trip. The waveform memory and the extinction codes are read as they are now (log 71). -/
def State.dacAt (s : State) (n t half : Nat) : Nat × Nat :=
  match (s.f n).seg.filter (fun g => g.plays (s.now + 1) t half) with
  | some g => s.dacCode n g (s.get (LNC_ENV_PEAK_PEAK n)) (2 * (t - g.launch) + half)
  | none =>
    match (s.f n).past.find? (fun x => x.seg.plays x.stop t half) with
    | some x => s.dacCode n x.seg x.peak (2 * (t - x.seg.launch) + half)
    | none => s.extCode n

/-- The segments that have left the DACs within the delay of the loopback, once the one being played leaves them now. -/
def FeSt.retired (f : FeSt) (now peak : Nat) : List Played :=
  (f.past ++ (f.seg.map (fun g => Played.mk g now peak)).toList).filter (fun x => decide (now ≤ x.stop + 1002))

/-- The number of samples a playing segment has begun before an instant. -/
def Playing.begun (g : Playing) (t : Nat) : Nat := min g.len (2 * t - 2 * g.launch)

/-- Active DAC sample periods of a segment in [a, b) (R76). -/
def Playing.active (g : Playing) (a b : Nat) : Nat := g.begun b - g.begun a

/-- The duty windows of the samples from index i, `k` of them, that the limit clamps, in order (R66, R74). -/
def State.clampWins (s : State) (n : Nat) (g : Playing) (p : Nat) : Nat → Nat → List Int
  | 0, _ => []
  | k + 1, i =>
    let y := s.mixSample n g.start g.inc i
    if p < y.1.natAbs ∨ p < y.2.natAbs then s.dutyWinAt (g.launch + i / 2) :: s.clampWins n g p k (i + 1)
    else s.clampWins n g p k (i + 1)

/-- A clamped sample of duty window w: the first of its window raises LNC_ENV_CLAMP (R74). -/
def State.clampMark (s : State) (n : Nat) (w : Int) : State :=
  if (s.f n).clampWin = some w then s
  else (s.modF n (fun f => { f with clampWin := some w })).present (24 + n)

/-- The elapsed instant at which duty window w starts. -/
def State.dutyStart (s : State) (w : Int) : Nat := s.elapsedOf (w * 1048576)

/-- Is gate g active? -/
def FeSt.gateActive (f : FeSt) (g : Nat) : Bool := (vget none f.gateOn g).isSome

/-- Active nanoseconds of gate g in [a, b), within which it did not change. -/
def FeSt.gateActiveNs (f : FeSt) (g a b : Nat) : Nat := if f.gateActive g then b - a else 0

/-- The envelope limits that counts exceed: that of the DACs, and that of a gate (R76). -/
def State.countsOver (s : State) (n dac : Nat) (gates : Nat → Nat) : Nat :=
  (decide (s.get (LNC_ENV_DUTY_MAX_SAMPLES n) < dac)).toNat +
    2 * ((List.range 4).any (fun g => decide (s.get (LNC_ENV_GATE_DUTY_MAX_DUTY n g) < gates g))).toNat

/-- Bring the duty counts up to now (R76): counts of the window that holds now; and, when a window has ended since,
DUTY_MEAS of the last one, and the limits exceeded by its end. -/
def State.dutySync (s : State) (n : Nat) : State :=
  let f := s.f n
  let w := s.dutyWinAt s.now
  let act := fun a b => match f.seg with | some g => g.active a b | none => 0
  if w = f.dutyWin then
    s.modF n (fun f => { f with
      syncAt := s.now, dacCnt := f.dacCnt + act f.syncAt s.now
      gateNs := Vector.ofFn (fun (g : Fin 4) => vget 0 f.gateNs g.val + f.gateActiveNs g.val f.syncAt s.now) })
  else
    let st := s.dutyStart w
    let meas := if w = f.dutyWin + 1 then f.dacCnt + act f.syncAt st else act (s.dutyStart (w - 1)) st
    let full := if f.dutyWin + 1 < w then 1048576 else 0
    let exc := s.countsOver n (f.dacCnt + act f.syncAt (s.dutyStart (f.dutyWin + 1)))
      (fun g => max (f.gateActiveNs g 0 full) (vget 0 f.gateNs g + f.gateActiveNs g f.syncAt (s.dutyStart (f.dutyWin + 1))))
    (s.set (LNC_DUTY_MEAS_SAMPLES n) meas).modF n (fun f => { f with
      syncAt := s.now, dutyWin := w, dutyOver := f.dutyOver ||| exc, dacCnt := act (max st f.syncAt) s.now
      gateNs := Vector.ofFn (fun (g : Fin 4) => f.gateActiveNs g.val (max st f.syncAt) s.now) })

/-- Count the samples clamped up to now; the first clamp of a window raises LNC_ENV_CLAMP (R74). -/
def State.clampSync (s : State) (n : Nat) : State :=
  let f := s.f n
  match f.seg with
  | none => s
  | some g =>
    let upto := g.begun s.now
    let ws := s.clampWins n g (s.get (LNC_ENV_PEAK_PEAK n)) (upto - f.clampDone) f.clampDone
    let s1 := s.modF n (fun f => { f with clampDone := max f.clampDone upto })
    if ws.length = 0 then s1
    else
      ws.foldl (fun s w => s.clampMark n w) ((s1.addSat (LNC_CLAMP_CNT_COUNT n) ws.length).ev (LNC_EVENTS_ENV_CLAMP n))

/-- Both accountings. -/
def State.lncSync (s : State) (n : Nat) : State := (s.clampSync n).dutySync n

/-! ### Gates (R69, R71) -/

/-- Make a gate active or inactive as its windows and STATIC level now say, keeping the start of a continuous interval. -/
def FeSt.gateEval (f : FeSt) (now g : Nat) : Option Nat :=
  if f.wins.any (fun w => w.gate == g && decide (w.open_ ≤ now ∧ now < w.close)) || vget false f.staticOn g then
    some ((vget none f.gateOn g).getD now)
  else none

/-- Re-evaluate every gate of a fibre engine. -/
def State.gatesEval (s : State) (n : Nat) : State :=
  s.modF n (fun f => { f with gateOn := Vector.ofFn (fun (g : Fin 4) => f.gateEval s.now g.val) })

/-- The gates in STATIC mode are active, and no other for that mode. -/
def State.staticSet (s : State) (n : Nat) : State :=
  (s.modF n (fun f => { f with staticOn := Vector.ofFn (fun (g : Fin 4) => gateMode s.regs n g.val == 1) })).gatesEval n

/-- STATIC gates go active (step 3 of R79). -/
def State.staticUp (s : State) (n : Nat) : State := (s.lncSync n).staticSet n

/-- Are the STATIC gates of fibre engine n active: from step 3 of R79 to disarm or trip (R69)? -/
def State.staticNow (s : State) (n : Nat) : Bool :=
  s.lstate n == 2 || (match (s.f n).arm with | some a => a.static | none => false)

/-- The level that a gate pin is driven to (true: high): active high, or active low with POL = 1 as last written; a pin
without VDD_IO33, in a wake from L5 until the resume, or whose GATE_CFG has not been written since the cold reset is not
driven (R69, R527). -/
def State.gatePin (s : State) (n g : Nat) : Option Bool :=
  if s.railGroup 2 && decide (s.ladder ≤ 4) then (vget none (s.f n).gatePol g).map (fun p => (s.f n).gateActive g != p) else none

/-- The output of the probe DACs of fibre engine n at its pins, in FS ÷ 2,048 from 0 V differential; none without the supply
of the converters (R61, R527). -/
def State.probePin (s : State) (n half : Nat) : Option (Int × Int) :=
  if s.railGroup 1 then
    (if s.ladder ≤ 4 then some (((s.dac n half).1 : Int) - 2048, ((s.dac n half).2 : Int) - 2048) else some (0, 0))
  else none

/-- SYNC_OUT and LAUNCH_OUT (true: high); none without VDD_IO (R49, R53, R527). -/
def State.syncPin (s : State) : Option Bool := if s.railGroup 1 then some (decide (s.now < s.tim.syncOutEnd)) else none
def State.launchPin (s : State) : Option Bool := if s.railGroup 1 then some (decide (s.now < s.tim.launchOutEnd)) else none

/-- The gates whose GATE_CFG is among the registers written take POL from it (R527). -/
def State.gatePols (s : State) (n : Nat) (offs : List Nat) : State :=
  s.modF n (fun f => { f with gatePol := Vector.ofFn (fun (g : Fin 4) =>
    if offs.contains (LNC_GATE_CFG n g) then some (s.on (LNC_GATE_CFG_POL n g)) else vget none f.gatePol g) })

/-- STATIC gates go inactive. -/
def State.staticDown (s : State) (n : Nat) : State :=
  ((s.lncSync n).modF n (fun f => { f with staticOn := Vector.replicate 4 false })).gatesEval n

end Sys2Proof.Machine
end

