-- ==== Sys2Proof/Machine/Restart.lean ====
section
/-! DEFINITION. The shot grid of a fibre engine (R37 to R41, R489, R557), what a configuration change does to its signal path
at its boundary (R165 to R167, R197 to R199, R226, R257, R304, R312), and the ends of commit groups. -/

namespace Sys2Proof.Machine

/-! ### The shot grid (R37, R489) -/

/-- Tones and stride of the form in force: T and 1, or T_eff and STRIDE in SENTINEL. -/
def FeSt.form (f : FeSt) (r : Tab Word) (n : Nat) : Nat × Nat :=
  match f.sent with
  | some x => (min (tonesOf r n) x.lim, x.stride)
  | none => (tonesOf r n, 1)

/-- The first frame start of the grid at or after a grid instant: frames since the anchor (R37). -/
def FeSt.frameAt (f : FeSt) (pri : Nat) (g : Int) : Nat := ((g - f.anchorT + (pri - 1)) / pri).toNat

/-- Round a count up to a multiple. -/
def strideUp (x stride : Nat) : Nat := cdiv x stride * stride

/-- The shot that starts frame x of the grid, and its launch instant. -/
def FeSt.frameShot (f : FeSt) (r : Tab Word) (n x : Nat) : NextShot :=
  ⟨f.anchorS + x * (f.form r n).1, f.anchorT + x * priOf r n⟩

/-- The shot of frame x, tone k. -/
def FeSt.toneShot (f : FeSt) (r : Tab Word) (n x k : Nat) : NextShot :=
  ⟨f.anchorS + x * (f.form r n).1 + k, f.anchorT + x * priOf r n + k * (priOf r n / (f.form r n).1)⟩

/-- The shot that follows shot s in the form in force: the next tone, or the first of the next launching frame. -/
def FeSt.following (f : FeSt) (r : Tab Word) (n s : Nat) : NextShot :=
  let t := (f.form r n).1
  let d := s + 1 - f.anchorS
  if d % t = 0 then f.frameShot r n (strideUp (d / t) (f.form r n).2) else f.toneShot r n (d / t) (d % t)

/-- Is a shot a frame start of the grid (R37)? -/
def FeSt.isStart (f : FeSt) (r : Tab Word) (n s : Nat) : Bool :=
  decide (f.anchorS ≤ s) && (s - f.anchorS) % (f.form r n).1 == 0

/-- The launch instant of a shot under the grid in force (R37). -/
def FeSt.instOf (f : FeSt) (r : Tab Word) (n s : Nat) : Int :=
  let t := (f.form r n).1
  (f.toneShot r n ((s - f.anchorS) / t) ((s - f.anchorS) % t)).gt

/-- The frame start at which a part that re-anchors the grid of a fibre engine in grid mode is due, launched or not: its
shot, or the first frame start at or after its t_b (R38, R488, R489). -/
def FeSt.partStart (f : FeSt) (r : Tab Word) (n : Nat) (d : DuePart) : Option NextShot :=
  if d.sent.isSome || d.writes.any (fun w => w.1 == TIM_FE_PRI n) then
    some (match d.shot with
      | some x => ⟨x, f.instOf r n x⟩
      | none => f.frameShot r n (f.frameAt (priOf r n) d.tb))
  else none

/-- One part that re-anchors the grid before the next launch: the grid from its frame start on, and its first launch, which
is that frame start, or the first at or after the bound of R40 where the arming may not launch yet. -/
def FeSt.nextPart (n : Nat) (m : FeSt × Tab Word × NextShot) (d : DuePart) : FeSt × Tab Word × NextShot :=
  match m.1.partStart m.2.1 n d with
  | some y =>
    if y.gt < m.2.2.gt then
      let r1 := rwrites m.2.1 d.writes
      let f1 : FeSt := { m.1 with anchorS := y.shot, anchorT := y.gt, sent := d.sent.getD m.1.sent }
      let base : FeSt := { f1 with sent := none }
      (f1, r1, if m.1.bound ≤ y.gt then y else base.frameShot r1 n (base.frameAt (priOf r1 n) m.1.bound))
    else m
  | none => m

/-- The next launch, as parts that wait for a frame start before it fix it. -/
def FeSt.nextFix (f : FeSt) (r : Tab Word) (n : Nat) : FeSt :=
  match f.next with
  | none => f
  | some x => { f with next := some (f.due.foldl (FeSt.nextPart n) (f, r, x)).2.2 }

/-- Does a part re-anchor the grid before the first launch of an arming? That launch is then a frame start of the new grid. -/
def FeSt.rebased (f : FeSt) (r : Tab Word) (n : Nat) : Bool :=
  f.due.any (fun d => match f.partStart r n d with | some y => decide (y.gt < f.bound) | none => false)

/-! ### What a change does (R165, R197, R226, R257) -/

/-- The effects of new settings on the signal path of a fibre engine: restart, mask of tones realigned, mask of tones whose
TONE_SEG changed, ACF, EVT and DTS restarts, change of RAMAN_CFG, of PRI or TONES. -/
structure Effects where
  restart : Bool
  realign : Nat
  pairs   : Nat
  acf     : Bool
  evt     : Bool
  dts     : Bool
  raman   : Bool
  grid    : Bool
deriving DecidableEq, Repr

/-- Do register words differ between two files? -/
def wordsDiffer (r0 r1 : Tab Word) (l : List Nat) : Bool :=
  l.any (fun o => tget (resetOf o) r0 o != tget (resetOf o) r1 o)

/-- Do fields differ? -/
def fieldsDiffer (r0 r1 : Tab Word) (l : List FRef) : Bool := l.any (fun f => rget r0 f != rget r1 f)

/-- The registers of segment j. -/
def segRegs (n j : Nat) : List Nat := [LNC_SEG_START n j, LNC_SEG_LEN n j, LNC_SEG_KIND n j, PHS_REF_CFG n j]

/-- What the step from one register file to another does; `refs` are loaded reference slots replaced with it. -/
def effectsOf (r0 r1 : Tab Word) (n : Nat) (refs : List Nat) : Effects where
  restart := fieldsDiffer r0 r1 [PHS_GAUGE_G n, PHS_BIN_CFG_BIN n, PHS_P_START_P_START n, PHS_NBINS_NBINS n,
    PHS_CFG_POL_EN n, PHS_CFG_SUBBANDS n, PHS_CFG_INVERT n, TIM_FE_REF_OFS_REF_OFS n]
  realign := (List.range 4).foldl (fun m k =>
    if wordsDiffer r0 r1 (LNC_TONE_FREQ n k :: LNC_TONE_SEG n k :: (toneSegs r1 n k).flatMap (segRegs n))
        || (toneSegs r1 n k).any (fun j => refs.contains j) || decide (tonesOf r0 n ≤ k ∧ k < tonesOf r1 n) then m + 2 ^ k
    else m) 0
  pairs := (List.range 4).foldl (fun m k => if wordsDiffer r0 r1 [LNC_TONE_SEG n k] then m + 2 ^ k else m) 0
  acf := fieldsDiffer r0 r1 [ACF_CFG_ORDER n, ACF_CFG_RATIO n, ACF_CFG_PHASE n, ACF_FIR_CFG_NTAPS n, ACF_FIR_CFG_CTR2 n]
  evt := fieldsDiffer r0 r1 [EVT_CFG_CELL n, EVT_CFG_NBANDS n, EVT_CFG_EI_LOG2 n, EVT_CFG_EN n]
    || wordsDiffer r0 r1 ((List.range 8).flatMap (fun b => (List.range 5).map (fun w => EVT_BAND_B0 n b + 4 * w)))
  dts := fieldsDiffer r0 r1 [DTS_CFG_EN n, DTS_CFG_ACC_LOG2 n, DTS_START_START n, DTS_NBINS_NBINS n,
    TIM_FE_REF_OFS_REF_OFS n] || wordsDiffer r0 r1 [LNC_RAMAN_CFG n]
  raman := wordsDiffer r0 r1 [LNC_RAMAN_CFG n]
  grid := wordsDiffer r0 r1 [TIM_FE_PRI n]

/-- A group change that R38 or R166 ties to a frame start. -/
def Effects.frame (e : Effects) : Bool := e.restart || e.grid

/-- Show K for the settings and form in force (R177). -/
def State.dcbSet (s : State) (n : Nat) : State := s.set (ACF_DCB_K_K n) (leakK s.regs n (s.f n).sent)

/-- A restart of the phase pipeline is noted for the host (R167). -/
def State.restartNote (s : State) (n : Nat) : State :=
  (s.set (PHS_RESTART_EPOCH_EPOCH n) (s.f n).epoch).ev (PHS_EVENTS_RESTART n)

/-- The target of the last write of FIR_SWAP in a list of writes (R185). -/
def swapOf (n : Nat) (ws : List (Nat × Word)) : Option Bool :=
  ((ws.filter (fun w => w.1 == ACF_FIR_SWAP n)).getLast?).map (fun w => (ACF_FIR_SWAP_TARGET n).of w.2 == 1)

/-- Loaded reference slots among table loads. -/
def refsOf (n : Nat) (l : List TabLoad) : List Nat :=
  l.filterMap (fun t => match tableAt t.off with
    | some (.ref m j) => if m = n then some j else none
    | _ => none)

/-- Re-anchor a disarmed fibre engine as its PRI or TONES change: its first frame start, under the grid before the change,
at or after now (R557). -/
def FeSt.reanchored (f : FeSt) (r : Tab Word) (n : Nat) (g : Int) : FeSt :=
  let x := f.frameShot r n (f.frameAt (priOf r n) g)
  { f with anchorS := x.shot, anchorT := x.gt }

/-- The fibre-engine state after a change with the given effects, at boundary shot `start`, or now where it is disarmed. -/
def FeSt.changed (f : FeSt) (r0 : Tab Word) (n : Nat) (g : Int) (start : Option NextShot) (e : Effects) (d : DuePart) : FeSt :=
  let sentinel := d.sent.isSome
  let f1 := match start with
    | some x => if (e.grid || sentinel) && !extOf r0 n then { f with anchorS := x.shot, anchorT := x.gt } else f
    | none => if e.grid then f.reanchored r0 n g else f
  { f1 with
    sent := d.sent.getD f.sent
    epoch := f.epoch + 1
    phInit := f.phInit || e.restart || sentinel
    phRe := f.phRe ||| e.realign
    pairNew := if sentinel then 15 else f.pairNew ||| e.pairs
    pairNext := if sentinel then 0 else f.pairNext - (f.pairNext &&& e.pairs)
    ramanCnt := if e.raman || (sentinel && (d.sent.getD none).isNone) then 0 else f.ramanCnt
    acfRe := f.acfRe || e.acf
    evtRe := f.evtRe || e.evt
    swap := f.swap ++ (swapOf n d.writes).toList
    idx := if e.restart || sentinel then 0 else f.idx
    dts := match (d.writes.filter (fun w => w.1 == DTS_REF_TEMP n)).getLast? with
      | some w => { f.dts with temps := ((start.map (·.gt)).getD g, (DTS_REF_TEMP_TEMP n).of w.2) :: f.dts.temps }
      | none => f.dts }

/-- A table switches to its spare copy (R303). -/
def State.tabSwitch (s : State) (t : TabLoad) : State :=
  t.copy.foldl (fun s p => s.setTword p.1 p.2) { s with tables := s.tables.filter (fun p => tableAt p.1 != tableAt t.off) }

/-- Tables switch to their spare copies. -/
def State.tabLoads (s : State) (l : List TabLoad) : State := l.foldl State.tabSwitch s

/-- The words of a part that are its fibre engine's: all of them, in a part that a group made. -/
def DuePart.own (d : DuePart) (n : Nat) : List (Nat × Word) := d.writes.filter (fun w => regFe w.1 == some n)

/-- The channels of a fibre engine. -/
def chansOfFe (n : Nat) : List Nat := (List.range 4).map (4 * n + ·) ++ [16 + 2 * n, 17 + 2 * n]

/-- A part has changed SRC or GAIN of channels of a fibre engine: their background blocks start afresh at the instant of the
switch, that of range sample WIN_START of the boundary shot, or now where the engine launches nothing (R109, R123). -/
def State.bgSwitch (s : State) (n : Nat) (r0 : Tab Word) (start : Option NextShot) : State :=
  let t := match start with
    | some x => s.elapsedOf x.gt + rget s.regs (TIM_FE_REF_OFS_REF_OFS n) + winStartOf s.regs n
    | none => s.now
  ((chansOfFe n).filter (fun ch => fieldsDiffer r0 s.regs [chSrc ch, chGain ch])).foldl (fun s ch => s.bgRestart ch t) s

/-- A part takes effect for its fibre engine: at a boundary shot, or at once where the engine is disarmed (R304, R305).
Gates that enter or leave STATIC mode while STATIC gates are active follow (R69). -/
def State.applyPart (s : State) (n : Nat) (d : DuePart) (start : Option NextShot) : State :=
  let r0 := s.regs
  let r1 := rwrites r0 (d.own n)
  let e := effectsOf r0 r1 n (refsOf n d.tabs)
  let g := s.gridOf s.now
  let moved := s.staticNow n && (List.range 4).any (fun g => gateMode r0 n g != gateMode r1 n g)
  let sd := if moved then s.dutySync n else s
  let sg := ({ sd with regs := rwrites sd.regs (d.own n) }.tabLoads d.tabs).modF n (fun f => f.changed r0 n g start e d)
  let s1 := (((if moved then sg.staticSet n else sg).gatePols n ((d.own n).map (·.1))).bgSwitch n r0 start).bgSyncFe n
  let s2 := if e.grid || d.sent.isSome || fieldsDiffer r0 r1 [ACF_DCB_CORNER n] then s1.dcbSet n else s1
  let s3 := if start.isSome && (e.restart || d.sent.isSome) then s2.restartNote n else s2
  let s4 := if e.dts then s3.dtsRestart n else s3
  (if start.isNone then s4.evtIdle n else s4).encCheck n

/-- Is a part's boundary reached by a launch of shot x (R304)? -/
def DuePart.reached (d : DuePart) (x : NextShot) (isStart : Bool) : Bool :=
  (match d.shot with
   | some s => decide (s ≤ x.shot)
   | none => decide (d.tb ≤ x.gt)) && (!d.frame || isStart)

/-- Apply the parts that a shot's launch, or its marker, reaches, in order. -/
def State.applyReached (s : State) (n : Nat) (x : NextShot) (isStart : Bool) : State :=
  let p := fun (d : DuePart) => d.reached x isStart
  let due := (s.f n).due
  (due.filter p).foldl (fun s d => s.applyPart n d (some x))
    (s.modF n (fun f => { f with due := due.filter (fun d => !p d) }))

/-- A part waits for its boundary. -/
def State.addDue (s : State) (n : Nat) (d : DuePart) : State :=
  s.modF n (fun f => FeSt.nextFix { f with due := f.due ++ [d] } s.regs n)

/-! ### The ends of commit groups (R309, R311) -/

/-- The group in slot g. -/
def State.group (s : State) (g : Nat) : Option Group := vget none s.sch.groups g

/-- Change the group in slot g. -/
def State.setGroup (s : State) (g : Nat) (x : Option Group) : State :=
  { s with sch := { s.sch with groups := vset s.sch.groups g x } }

/-- A group ends with an outcome: its slot is free, CMT_LAST and the event tell, and the outcome completion follows. -/
def State.groupEnd (s : State) (g code : Nat) : State :=
  match s.group g with
  | none => s
  | some x =>
    ((((s.setGroup g none).set SCH_CMT_LAST_CODE code).set SCH_CMT_LAST_ID_ID x.cmd.reqId.toNat).ev
      (if code = 1 then SCH_EVENTS_CMT_APPLIED else SCH_EVENTS_CMT_ABORT)).outcome x.cmd code g

/-- End every group that satisfies a predicate. -/
def State.groupsEnd (s : State) (p : Group → Bool) (code : Nat) : State :=
  (List.range 8).foldl (fun s g =>
    match s.group g with
    | some x => if p x then s.groupEnd g code else s
    | none => s) s

/-- Entry to SAFE_HOLD aborts every group whose t_b has not passed, an internal one of SENTINEL included (R311, R488). -/
def State.groupsFault (s0 : State) : State :=
  let s : State := { s0 with sch := { s0.sch with sentTb := [] } }
  s.groupsEnd (fun x => match x.tb with | some b => decide (s.gridOf s.now < b) | none => true) 12

/-- A fibre engine stops launching, by a disarm, a trip or a reset: parts whose t_b has passed take effect now, groups that
wait for one of its markers have no boundary, the form of SENTINEL is no longer in force for it, and after a trip the
accumulation in progress is discarded (R229, R275, R304, R306, R489). -/
def State.stopped (s : State) (n : Nat) (tripped : Bool) : State :=
  let due := (s.f n).due
  let s1 := due.foldl (fun s d => s.applyPart n d none) (s.modF n (fun f => { f with due := [] }))
  let s2 := ((s1.modF n (fun f => { f with sent := none })).groupsEnd (fun x => !x.grid && x.refFe == n && x.tb.isNone) 11).bgSyncFe n
  (if tripped then s2.dtsDiscard n none else s2).encCheck n

/-! ### Abandoned commands (R426) -/

/-- A write of the NV store is cut short: a free number of its 64-bit words has been written (R515, log 1). -/
def State.nvCut (s : State) : State :=
  match s.nvs.wr with
  | none => s
  | some w =>
    let k := Config.freeNat s.freeIdx % (w.data.length / 8 + 1)
    let s1 := s.nextFree.nvPut w.off (w.data.take (8 * k))
    { s1 with nvs := { s1.nvs with wr := none } }

/-- What is left of a running command that is abandoned: loads, calibrations and writes in progress end; an ARM or a DISARM
leaves the launch state reached. -/
def State.abandon (s : State) (c : Cmd) : State :=
  let is := fun (d : Cmd) => d.ring == c.ring && d.reqId == c.reqId
  let s1 := match s.sch.loading with
    | some l => if is l.cmd then { s with sch := { s.sch with loading := none } } else s
    | none => s
  let s2 := match s1.acq.cal with
    | some k => if is k.cmd then (s1.setAcq { s1.acq with cal := none }).calShow else s1
    | none => s1
  let s3 := match s2.pmc.cal with
    | some k => if (k.cmd.map is).getD false then (s2.setPmc { s2.pmc with cal := none }).pmcKick s2.pmcNow else s2
    | none => s2
  let s4 := match s3.nvs.wr with
    | some w => if is w.cmd then s3.nvCut else s3
    | none => s3
  let s5 := { s4 with fe := s4.fe.map (fun (f : FeSt) => { f with
    arm := f.arm.filter (fun a => !is a.cmd)
    disarm := match f.disarm with
      | some d => if d.cmds.all is then none else some { d with cmds := d.cmds.filter (fun x => !is x) }
      | none => none }) }
  { s5 with hif := { s5.hif with
    detachCmd := s5.hif.detachCmd.filter (fun x => !is x), dormCmd := s5.hif.dormCmd.filter (fun x => !is x) } }

end Sys2Proof.Machine
end

