-- ==== Sys2Proof/Machine/Launch.lean ====
section
/-! DEFINITION. The launch engine (chapter 02) and the shot grid (R37 to R57): the duty accounting, trips, arming and
disarming, markers, launches and gate windows. -/

namespace Sys2Proof.Machine

/-! ### Trips (R84 to R92) and the ends of an arming -/

/-- An arming ends without reaching ARMED: its code goes to ARM_RESULT and to the completion (R78). -/
def State.armEnd (s : State) (n : Nat) (code : Nat) : State :=
  match (s.f n).arm with
  | none => s
  | some a =>
    (((s.set (LNC_ARM_RESULT_CODE n) code).ev (LNC_EVENTS_ARM_FAIL n)).modF n
      (fun f => { f with arm := none })).complete a.cmd code 0

/-- Does a trip now cut a shot: its segment still plays, or a Raman gate window of it has not ended (R89, R92)? -/
def FeSt.cuts (f : FeSt) (n now : Nat) (r : Shot) : Bool :=
  decide (now < r.launch + cdiv r.len 2) ||
    f.wins.any (fun w => w.shot == r.shot && gateMode r.regs n w.gate == 3 && decide (now < w.close))

/-- Is a frame not delivered after a trip now: one of its shots is cut, or the last has not launched (R89)? -/
def FeSt.loses (f : FeSt) (n now : Nat) (frame : Nat) : Bool :=
  let own := f.recs.filter (fun x => x.frame == frame)
  own.any (fun x => f.cuts n now x) || own.all (fun x => x.tone + 1 != x.tones)

/-- The shots in work after a trip: a cut shot and the later ones of its frame are discarded, and the other shots of a frame
not delivered are processed for the state of the signal path alone (R89, R138). -/
def FeSt.cutShots (f : FeSt) (n now : Nat) : List Shot :=
  f.recs.map (fun r =>
    let gone := f.recs.any (fun x => x.frame == r.frame && decide (x.shot ≤ r.shot) && f.cuts n now x)
    let lost := r.lost || f.loses n now r.frame
    { r with cut := r.cut || gone, phsDone := r.phsDone || gone, lost := lost })

/-- The outputs of a fibre engine go safe at once: a segment being played is cut, windows and gates end, and shots are cut
(R86). -/
def State.outputsSafe (s : State) (n : Nat) : State :=
  (s.lncSync n).modF n (fun f => { f with
    recs := f.cutShots n s.now
    past := f.retired s.now (s.get (LNC_ENV_PEAK_PEAK n)), seg := none, wins := [], gateOn := Vector.replicate 4 none
    staticOn := Vector.replicate 4 false, next := none, marker := none })

/-- Output of frames that a trip has lost leaves staging; Raman accumulations follow R229. -/
def State.dropLost (s : State) (n : Nat) : State :=
  { s with hif := { s.hif with staged := s.hif.staged.filter (fun x =>
      !(x.frame.fe == n && x.frame.kind != 1 && (match x.frame.work with | some w => (s.f n).isLost w | none => false))) } }

/-- A disarm waiting for its instant completes (R82). -/
def State.disarmDone (s : State) (n : Nat) : State :=
  match (s.f n).disarm with
  | none => s
  | some d =>
    let s1 := (s.modF n (fun f => { f with disarm := none })).ev (LNC_EVENTS_DISARMED n)
    d.cmds.foldl (fun s c => s.complete c 0 0) s1

/-- The trip input of fibre engine n is asserted with these causes (bits of TRIP_CAUSE): R86, R82, R90. A fibre engine
already TRIPPED records the cause and stays. A disarm that waits completes, in external launch mode too (log 45). -/
def State.trip (s : State) (n cause : Nat) : State :=
  let f := s.f n
  let s1 := s.orReg (LNC_TRIP_CAUSE n) cause
  let s2 := if f.tripSeen then s1
    else (s1.set2 (LNC_TRIP_GT_LO_GT n) (LNC_TRIP_GT_HI_GT n) s.gt).modF n (fun f => { f with tripSeen := true })
  if s.lstate n = 3 then s2
  else
    let s3 := (((s2.outputsSafe n).dropLost n).set (LNC_STATUS_STATE n) 3).ev (LNC_EVENTS_TRIPPED n)
    let s4 := if (s3.f n).arm.isSome then s3.armEnd n 5 else s3
    let s5 := if f.disarm.isSome then (s4.set (LNC_STATUS_STATE n) 0).disarmDone n else s4
    s5.stopped n (f.arm.isSome || s.lstate n == 2 || (s5.f n).recs.any (fun r => r.cut && r.raman && !r.dtsDone))

/-- A Weir latch routed to a fibre engine asserts its trip input, in the modes in which Weirs route to the trip path
(R84, R407). -/
def State.weirTrip (s : State) (n : Nat) : Bool :=
  (s.mode == 3 || s.mode == 4 || s.mode == 7) &&
  (List.range 16).any (fun m => (s.get WMN_LATCH_LATCH).testBit m && (s.get (WMN_WM_CFG_ROUTE m)).testBit n)

/-- Is the trip input of fibre engine n asserted (R84, R85, R76, R423, R429)? -/
def State.tripLive (s : State) (n : Nat) : Bool :=
  s.safeN || s.on FLT_STATUS_SAFE_HOLD || s.contained n || decide (s.now < (s.f n).envUntil) || s.weirTrip n

/-- SAFE_N goes low: every trip input is asserted (R85). -/
def State.safeLow (s : State) : State :=
  (List.range 4).foldl (fun s n => s.trip n 2) { s with safeN := true }

/-- Is a gate active in the nanosecond that begins now after MAX_ON active ones (R76)? -/
def State.gateLong (s : State) (n : Nat) : Bool :=
  (List.range 4).any (fun g =>
    match (s.f n).gateEval s.now g with
    | some t => decide (s.get (LNC_ENV_GATE_ON_MAX_ON n g) ≠ 0 ∧ t + s.get (LNC_ENV_GATE_ON_MAX_ON n g) ≤ s.now)
    | none => false)

/-- The envelope limits exceeded (R76; bit 0 the DACs, bit 1 a gate): in the present window, and by the end of one that has
ended. -/
def State.envOver (s : State) (n : Nat) : Nat × Nat :=
  let f := s.f n
  (s.countsOver n f.dacCnt (vget 0 f.gateNs) ||| 2 * (s.gateLong n).toNat, f.dutyOver)

/-- A duty or MAX_ON limit is exceeded: the fibre engine trips, LNC_ENV_EXCEED is raised, and the contribution lasts to
the end of the duty window (R76). -/
def State.envExceed (s : State) (n : Nat) : State :=
  let s1 := s.lncSync n
  let o := s1.envOver n
  if o.1 ||| o.2 = 0 then s1
  else
    let s2 := s1.modF n (fun f => { f with
      dutyOver := 0, envUntil := if o.1 = 0 then f.envUntil else s1.dutyStart (s1.dutyWinAt s1.now + 1) })
    (s2.trip n (16 * (o.1 ||| o.2))).present (28 + n)

/-! ### The shot grid (R37 to R41, R489, R553) -/

/-- The SENTINEL form the settings select: T_eff = min(TONES, SENT_TONES), with TONES as it is from shot to shot (R489,
R490). -/
def State.sentForm (s : State) : SentForm :=
  ⟨match s.get PWR_SENT_CFG_TONES with | 1 => 1 | 2 => 2 | _ => 4, max 1 (s.get PWR_SENT_CFG_STRIDE), 0⟩

/-- Entry to ARMED in grid mode at grid time a: the anchor of R41 or R553 where one is due, and the first launch (R40). -/
def State.gridStart (s : State) (n : Nat) (a : Int) : State :=
  let f := s.f n
  let r := s.regs
  let t := tonesOf r n
  let bound := max (a + 10000) (a - startMin r n)
  let f1 :=
    if f.lastExt || f.needAnchor then
      let s' := match f.lastNum with | some l => strideUp (l + 1) t | none => 0
      let j := ((bound - s.tim.epoch + ((priOf r n : Int) - 1)) / priOf r n)
      { f with anchorS := s', anchorT := s.tim.epoch + j * priOf r n, lastExt := false, needAnchor := false, bound := bound }
    else { f with bound := bound }
  let base := { f1 with sent := none }
  let first := base.frameShot r n (base.frameAt (priOf r n) bound)
  match f.sent with
  | some x => s.modF n (fun _ => { f1 with anchorS := first.shot, anchorT := first.gt, sent := some x, next := some first })
  | none => s.modF n (fun _ => { f1 with next := some first })

/-! ### Arming and disarming (R78 to R83) -/

/-- A mask of segment numbers. -/
def segMask (l : List Nat) : Nat := l.foldl (fun m j => m ||| 2 ^ j) 0

/-- An accepted arming starts (step 1 of R79): the calibration of its channels is abandoned (R118), an armed alignment aborts
(R34), references are built (R145), and the trip time starts afresh. -/
def State.armStart (s : State) (n : Nat) (c : Cmd) : State :=
  let s1 := (s.set (LNC_STATUS_STATE n) 1).modF n (fun f => { f with
    arm := some ⟨c, s.now, false⟩, dutyOver := 0, tripSeen := false, overtop := false, disarm := none, next := none, marker := none
    poison := false, chFailSince := none
    refValid := f.refValid ||| segMask (segsInUse s.regs n) })
  (s1.calAbandon (feChans n)).alignAbort

/-- The end of the self-test, 2 µs into the arming (steps 2 and 3 of R79, R80). One that fails leaves the fibre engine SAFE,
until the capture of source 13 trips it (log 93). -/
def State.selfTest (s : State) (n : Nat) (pass : Bool) : State :=
  match (s.f n).arm with
  | none => s
  | some a =>
    if a.p + 2000 ≤ s.now ∧ !a.static then
      if pass then (s.modF n (fun f => { f with arm := some { a with static := true } })).staticUp n
      else ((s.set (LNC_STATUS_STATE n) 0).armEnd n 12).present 13
    else s

/-- Entry to ARMED (step 4 of R79): counts start afresh and the first launch is fixed (R40, R56, R67, R72). -/
def State.armedEntry (s : State) (n : Nat) : State :=
  match (s.f n).arm with
  | none => s
  | some a =>
    let at_ := a.p + 2000 + 1000 * s.get (LNC_ARM_CFG_LEAD n)
    if a.static ∧ at_ ≤ s.now then
      let s1 := ((s.set (LNC_STATUS_STATE n) 2).ev (LNC_EVENTS_ARMED n)).modF n (fun f => { f with
        arm := none, pairNext := 0, ramanCnt := 0, lateFrom := at_, lastLaunch := none
        phInit := true, armFirst := true, phRe := 0, pairNew := 15, acfRe := false, evtRe := false, swap := [], idx := 0
        sent := if s.mode = 4 then some s.sentForm else none })
      let s2 := if extOf s1.regs n then s1.modF n (fun f => { f with lastExt := true }) else s1.gridStart n (s1.gridOf at_)
      let s3 := ((s2.dcbSet n).restartNote n).bgSyncFe n
      (s3.dtsRestart n).complete a.cmd 0 0
    else s

/-- The instant at which a disarm of an ARMED fibre engine takes effect: in external launch mode processing, or the end
of the last shot's segment; in grid mode no earlier than processing plus 1 µs (R82). -/
def State.disarmAt (s : State) (n : Nat) : Nat :=
  let f := s.f n
  if extOf s.regs n then
    let segEnd := match f.seg with | some g => g.launch + cdiv g.len 2 | none => 0
    let mk := match f.marker with
      | some m => m.m + 48 + cdiv (s.get (LNC_SEG_LEN_LEN n (s.get (LNC_TONE_SEG_SEG_A n 0)))) 2
      | none => 0
    max s.now (max segEnd mk)
  else s.now + 1000

/-- Is the disarm's instant reached? In grid mode the next launch must be a frame start at or after it (R82). -/
def State.disarmDue (s : State) (n : Nat) : Bool :=
  let f := s.f n
  match f.disarm with
  | none => false
  | some d =>
    if extOf s.regs n then decide (d.due ≤ s.now) && f.marker.isNone
    else
      -- the first frame start at or after processing plus 1 us, launched or not
      let x := f.frameAt (priOf s.regs n) (s.gridOf d.due)
      decide ((f.frameShot s.regs n x).gt ≤ s.gridOf s.now)

/-- A pending disarm takes effect: STATIC gates go inactive, STATE becomes SAFE; windows already open run to their end, and no
other opens (R82). -/
def State.disarmEffect (s : State) (n : Nat) : State :=
  if s.lstate n = 2 ∧ s.disarmDue n then
    let s1 := ((s.staticDown n).set (LNC_STATUS_STATE n) 0).modF n (fun f => { f with
      next := none, wins := f.wins.filter (fun w => decide (w.open_ ≤ s.now)) })
    (s1.disarmDone n).stopped n false
  else s

/-- A disarm, by command or by a mode change, in each launch state (R82, R84, R87). -/
def State.disarmFe (s : State) (n : Nat) (c : Option Cmd) : State :=
  let fin := fun (s : State) => match c with | some c => s.complete c 0 0 | none => s
  match s.lstate n with
  | 0 => fin s
  | 1 =>
    let s1 := ((s.staticDown n).set (LNC_STATUS_STATE n) 0).ev (LNC_EVENTS_DISARMED n)
    fin ((s1.armEnd n 13).stopped n false)
  | 2 =>
    match (s.f n).disarm with
    | none => (s.modF n (fun f => { f with disarm := some ⟨c.toList, s.disarmAt n⟩ })).disarmEffect n
    | some d => s.modF n (fun f => { f with disarm := some ⟨d.cmds ++ c.toList, d.due⟩ })
  | _ => fin ((s.set (LNC_STATUS_STATE n) 0).ev (LNC_EVENTS_DISARMED n))

end Sys2Proof.Machine
end

