-- ==== Sys2Proof/Machine/Weir.lean ====
section
/-! DEFINITION. The Weirs (chapter 11): outputs and latches, gate windows, clears, UNRESOLVED, routing to the trip path,
configuration writes and the readback of the threshold converters. Voltages count in µV. -/

namespace Sys2Proof.Machine

/-- A Weir beside its registers. -/
def State.weir (s : State) (m : Nat) : WeirSt := vget WeirSt.init s.wmn m

/-- Change a Weir. -/
def State.modW (s : State) (m : Nat) (g : WeirSt → WeirSt) : State := { s with wmn := vset s.wmn m (g (s.weir m)) }

/-- Is Weir m enabled? -/
def State.weirEn (s : State) (m : Nat) : Bool := s.on (WMN_WM_CFG_EN m)

/-! ### Thresholds and outputs (R397) -/

/-- V_HI, V_LO and H of a register file. -/
def weirHi (r : Tab Word) (m : Nat) : Int := ((rget r (WMN_WM_THR_HI m) : Int) - 512) * 2000
def weirLo (r : Tab Word) (m : Nat) : Int := ((rget r (WMN_WM_THR_LO m) : Int) - 512) * 2000
def weirHyst (r : Tab Word) (m : Nat) : Int := (rget r (WMN_WM_CFG_HYST m) : Int) * 5000

/-- Is the upper, the lower threshold in use? -/
def upperUsed (r : Tab Word) (m : Nat) : Bool := rget r (WMN_WM_CFG_MODE m) != 2
def lowerUsed (r : Tab Word) (m : Nat) : Bool := rget r (WMN_WM_CFG_MODE m) != 1

/-- OUT. -/
def State.weirOut (s : State) (m : Nat) : Bool :=
  s.weirEn m && ((upperUsed s.regs m && (s.weir m).u) || (lowerUsed s.regs m && (s.weir m).d))

/-- Is a level on the safe side of every band in use (R397, R404)? -/
def State.weirSafe (s : State) (m : Nat) (uV : Int) : Bool :=
  let h := weirHyst s.regs m
  (!upperUsed s.regs m || decide (uV < weirHi s.regs m - h)) && (!lowerUsed s.regs m || decide (weirLo s.regs m + h < uV))

/-- Is the grid instant g a launch of fibre engine n: one that has happened, one fixed by a marker, or one that the grid and
form in force give while it is armed, before a pending disarm takes effect? -/
def State.launchAt (s : State) (n : Nat) (g : Int) : Bool :=
  let f := s.f n
  f.launches.any (fun l => s.gridOf l == g) ||
  (match f.marker with | some m => decide (s.gridOf (m.m + 48) = g) | none => false) ||
  (match f.next with
   | some x =>
     let pri := priOf s.regs n
     let form := f.form s.regs n
     let d := g - f.anchorT
     (decide (x.gt = g) ||
       decide (x.gt ≤ g ∧ d % pri % (pri / form.1 : Nat) = 0 ∧ (d / pri).toNat % form.2 = 0 ∧ d % pri / (pri / form.1 : Nat) < form.1)) &&
       (match f.disarm with
        | some k => decide (g < (f.frameShot s.regs n (f.frameAt pri (s.gridOf k.due))).gt)
        | none => true)
   | none => false)

/-- Does the launch at grid instant l, for which a gate window has opened ahead, stand: has it happened, or is it still to
come (R402)? -/
def State.launchStands (s : State) (n : Nat) (l : Int) : Bool :=
  let f := s.f n
  f.launches.any (fun x => s.gridOf x == l) ||
  (match f.marker with | some m => decide (s.gridOf (m.m + 48) = l) | none => false) ||
  (decide (s.gridOf s.now ≤ l) && f.next.isSome &&
    (match f.disarm with
     | some k => decide (l < (f.frameShot s.regs n (f.frameAt (priOf s.regs n) (s.gridOf k.due))).gt)
     | none => true))

/-- Does a gate window of Weir m that has opened end after an instant, one opened ahead of its launch while that launch stands?
-/
def State.weirOpenTo (s : State) (m t : Nat) : Bool :=
  decide (t < (s.weir m).gEnd) ||
    (s.weir m).gNext.any (fun p => decide (t < p.2) && s.launchStands (s.get (WMN_WM_CFG_FE m)) p.1)

/-- G: 1 without GATE_EN, else inside a gate window (R402). -/
def State.weirGate (s : State) (m : Nat) : Bool := !s.on (WMN_WM_CFG_GATE_EN m) || s.weirOpenTo m s.now

/-- The set input of Weir m up to now: it has ended with a gate window that ended before (R399, R402). -/
def State.weirSync (s : State) (m : Nat) : State :=
  s.modW m (fun w => { w with act := w.act && (!s.on (WMN_WM_CFG_GATE_EN m) || s.weirOpenTo m (s.now - 1)) })

/-! ### Latches (R399 to R401, R407, R408) -/

/-- The latch bit of a Weir. -/
def latchBit (m : Nat) : FRef := WMN_LATCH_LATCH.bit m

/-- Does the mode route Weirs to the trip path (R407)? -/
def routesTrip (mode : Nat) : Bool := mode == 3 || mode == 4 || mode == 7

/-- The set latch of Weir m asserts the trip inputs of its ROUTE, where the mode says so (R407, R408). -/
def State.weirAssert (s : State) (m : Nat) : State :=
  if routesTrip s.mode ∧ s.on (latchBit m) then
    (List.range 4).foldl (fun s n => if (s.get (WMN_WM_CFG_ROUTE m)).testBit n then s.trip n (1 + 2 ^ (16 + m)) else s) s
  else s

/-- A set of the latch (R399, R401), which goes to the trip path or to the monitor converter as the mode says (R407). Where
it falls in the nanosecond of a clear, the clear is denied and SET_GT stays. -/
def State.weirSet (s : State) (m : Nat) : State :=
  let w := s.weir m
  let again := decide (w.clrAt.map (·.1) = some s.now)
  let s1 := if s.on (latchBit m) || decide (w.clrAt = some (s.now, true)) then s
    else s.set2 (WMN_WM_SET_GT_LO_GT m) (WMN_WM_SET_GT_HI_GT m) s.gt
  let s2 := if again && !s.on (latchBit m) then s1.ev WMN_EVENTS_CLR_DENIED else s1
  let s3 := ((s2.set (latchBit m) 1).ev (WMN_EVENTS_SET.bit m)).addSat (WMN_WM_SET_CNT_COUNT m) 1
  let win := s.dutyWinAt s.now
  let s4 := if s.get (WMN_WM_CFG_ROUTE m) = 0 ∨ w.tripWin = some win then s3
    else (s3.modW m (fun w => { w with tripWin := some win })).present 88
  if s.mode = 1 ∨ s.mode = 2 ∨ s.mode = 5 ∨ s.mode = 6 then s4.pmcEvent (12 + m) else s4.weirAssert m

/-- The set input of Weir m is OUT and G; its rising edge sets the latch. -/
def State.weirEval (s : State) (m : Nat) : State :=
  let act := s.weirOut m && s.weirGate m
  let rise := act && !(s.weir m).act
  let s1 := s.modW m (fun w => { w with act := act, actAt := if rise then some s.now else w.actAt })
  if rise then s1.weirSet m else s1

/-- A clear of the latch of Weir m, by software or AUTO_CLR (R400, R401, R403). One that finds the latch clear is noted,
since a set in the same nanosecond denies it. -/
def State.weirClear (s : State) (m : Nat) : State :=
  if !s.on (latchBit m) then
    s.modW m (fun w => { w with clrAt := if w.clrAt.map (·.1) = some s.now then w.clrAt else some (s.now, false) })
  else if s.weirOut m || (s.weir m).unres.isSome || decide ((s.weir m).actAt = some s.now) then s.ev WMN_EVENTS_CLR_DENIED
  else (s.set (latchBit m) 0).modW m (fun w => { w with clrAt := some (s.now, true) })

/-- A write of WMN.LATCH: 1 clears. -/
def State.latchWrite (s : State) (v : Nat) : State :=
  (List.range 16).foldl (fun s m => if v.testBit m then s.weirClear m else s) s

/-- On a mode change into the first row of R407, every set latch trips its routed fibre engines at once (R409). -/
def State.weirRoute (s : State) (m0 : Nat) : State :=
  if routesTrip m0 then s else (List.range 16).foldl (fun s m => s.weirAssert m) s

/-! ### Launch instants and gate windows (R402) -/

/-- The launch instant to which a gate window of Weir m that opens now belongs. -/
def State.weirLaunch (s : State) (m : Nat) : Int := s.gridOf s.now - s.getI (WMN_WM_GATE_START_START m)

/-- WEIR_GATE_OPEN: the gate window of a launch opens, where there is one; windows that overlap or touch join. One that opens
before its launch stands while the launch does. -/
def State.weirGateOpen (s : State) (m : Nat) (launch : Bool) : State :=
  if s.on (WMN_WM_CFG_GATE_EN m) && launch then
    let l := s.weirLaunch m
    let to_ := s.now + s.get (WMN_WM_GATE_DUR_DUR m)
    ((s.weirSync m).modW m (fun w =>
      if s.gridOf s.now < l then { w with gNext := w.gNext.filter (fun p => decide (s.now < p.2)) ++ [(l, to_)] }
      else { w with gEnd := max w.gEnd to_ })).weirEval m
  else s

/-- Is now a frame start of fibre engine n under the grid given: every t(s) with k = 0 while grid time is valid, or in
external launch mode a launch (R400)? -/
def State.frameNow (s : State) (n : Nat) : Bool :=
  let f := s.f n
  if extOf s.regs n then decide (f.lastLaunch = some s.now)
  else s.on TIM_STATUS_GT_VALID && decide (f.anchorT ≤ s.gridOf s.now ∧ (s.gridOf s.now - f.anchorT) % priOf s.regs n = 0)

/-- WEIR_AUTO_CLEAR, at a frame start of the fibre engine named in FE (R400). -/
def State.weirAuto (s : State) (m : Nat) (start : Bool) : State :=
  if s.weirEn m && s.on (WMN_WM_CFG_AUTO_CLR m) && start then s.weirClear m else s

/-! ### Crossings and UNRESOLVED (R397, R403, R404) -/

/-- U and D after the input moves to a level. -/
def State.weirHystStep (s : State) (m : Nat) (w : WeirSt) (uV : Int) : WeirSt :=
  let h := weirHyst s.regs m
  { w with
    u := if weirHi s.regs m < uV then true else if uV < weirHi s.regs m - h then false else w.u
    d := if uV < weirLo s.regs m then true else if weirLo s.regs m + h < uV then false else w.d }

/-- WEIR_CROSSING: the input moves to a new level. An unsafe level that a 4 ns sample has met restarts the count of R404; an
excursion between two samples does not. -/
def State.weirCross (s : State) (m : Nat) (uV : Int) : State :=
  let w := s.weir m
  let sampled := decide (s.gridOf (s.sampleAt4 w.levelAt) < s.gridOf s.now)
  let s1 := s.modW m (fun w => { w with
    level := uV, levelAt := s.now, safeAt := if sampled && !s.weirSafe m w.level then s.now else w.safeAt })
  if !s.weirEn m || w.unres.isSome then s1
  else (s1.modW m (fun w => s1.weirHystStep m w uV)).weirEval m

/-- Entry of an enabled Weir to UNRESOLVED: its latch is set, which counts as no set (R403). -/
def State.weirUnres (s : State) (m : Nat) : State :=
  let s1 := (s.modW m (fun w => { w with u := true, d := true, unres := some s.now, safeAt := s.now })).set
    (WMN_STATUS_UNRESOLVED.bit m) 1
  let s2 := (s1.set (latchBit m) 1).modW m (fun w => { w with act := s1.weirGate m, clrAt := none })
  s2.weirAssert m

/-- The end of 16 consecutive safe samples: the first is the first grid multiple of 4 ns at or after both the entry plus 10 µs
and the instant from which the input has been safe. -/
def State.resolvedAt (s : State) (m entry : Nat) : Nat :=
  let t := max (entry + 10000) (s.weir m).safeAt
  t + ((-(s.gridOf t)) % 4).toNat + 60

/-- RESOLVED: the Weir leaves UNRESOLVED; its latch stays (R404). -/
def State.weirResolved (s : State) (m : Nat) (uV : Int) : State :=
  match (s.weir m).unres with
  | none => s
  | some e =>
    let s0 := if uV = (s.weir m).level then s else s.weirCross m uV
    if s0.weirSafe m uV ∧ s0.resolvedAt m e ≤ s.now then
      ((s0.modW m (fun w => { w with u := false, d := false, unres := none, act := false })).set
        (WMN_STATUS_UNRESOLVED.bit m) 0).ev WMN_EVENTS_RESOLVED
    else s0

/-- VDD_A18 returns: every enabled Weir enters UNRESOLVED (R403). -/
def State.vddA18 (s : State) : State :=
  (List.range 16).foldl (fun s m => if s.weirEn m then s.weirUnres m else s) s

/-- A Weir is disabled: OUT = 0, never UNRESOLVED, its latch clear (R406). -/
def State.weirOff (s : State) (m : Nat) : State :=
  (((s.set (latchBit m) 0).set (WMN_STATUS_UNRESOLVED.bit m) 0).modW m (fun w => { w with
    u := false, d := false, unres := none, act := false }))

/-! ### Configuration writes (R398, R402, R410) -/

/-- The conditions on a write at `off` that leaves the registers r of Weir m: R398, and for a write of GATE_START, or of CFG
with GATE_EN = 1, the limit of R402. -/
def weirCfgOk (r : Tab Word) (m off : Nat) : Bool :=
  (rget r (WMN_WM_CFG_MODE m) != 0 ||
    decide (rget r (WMN_WM_THR_LO m) + 5 * rget r (WMN_WM_CFG_HYST m) < rget r (WMN_WM_THR_HI m))) &&
  (!(off == WMN_WM_GATE_START m || (off == WMN_WM_CFG m && ron r (WMN_WM_CFG_GATE_EN m))) ||
    !extOf r (rget r (WMN_WM_CFG_FE m)) || decide (-40 ≤ rgetI r (WMN_WM_GATE_START_START m)))

/-- A register file with every field of a word but the read-only ones written: the Polder's writes. -/
def rwriteP (r : Tab Word) (off : Nat) (v : Word) : Tab Word :=
  match regAt off with
  | none => r
  | some spec => tput (resetOf off) r off (mergeWord (tget (resetOf off) r off) v (spec.mask (fun a => accStores a || a == .rwp)))

/-- The Polder's write of an RWP word is legal (R18). -/
def wordOkP (r : Tab Word) (off : Nat) (v : Word) : Bool :=
  match regAt off with
  | none => true
  | some spec => spec.legal v && crossOk (rwriteP r off v) off

/-- The Weir of a register, where it is one. -/
def weirOf (off : Nat) : Option Nat := if 0x0D0100 ≤ off ∧ off < 0x0D0300 then some ((off - 0x0D0100) / 0x20) else none

/-- Is a fibre engine of the present or of the written ROUTE arming or armed (R410)? -/
def State.weirBusy (s : State) (r : Tab Word) (m : Nat) : Bool :=
  (List.range 4).any (fun n => s.busyFe n &&
    ((s.get (WMN_WM_CFG_ROUTE m)).testBit n || (rget r (WMN_WM_CFG_ROUTE m)).testBit n))

/-- Show the staleness of a Weir. -/
def State.staleShow (s : State) (m : Nat) : State :=
  s.setB (WMN_RB_STATUS_STALE.bit m) ((s.weir m).hi.stale || (s.weir m).lo.stale)

/-- The gate windows that hold now, under the registers of Weir m: of the launches that were, and of those that a marker or
the grid has fixed (R402), each with its launch and its end. -/
def State.weirWindows (s : State) (m : Nat) : List (Int × Nat) :=
  let n := s.get (WMN_WM_CFG_FE m)
  let f := s.f n
  let next := match f.next with
    | some x => (List.range 9).map (fun (i : Nat) => x.gt + (i * (priOf s.regs n / (f.form s.regs n).1) : Nat))
    | none => []
  let ls := f.launches.map s.gridOf ++ (match f.marker with | some k => [s.gridOf (k.m + 48)] | none => []) ++ next
  let open_ := fun (l : Int) => l + s.getI (WMN_WM_GATE_START_START m)
  let dur : Int := s.get (WMN_WM_GATE_DUR_DUR m)
  (ls.filter (fun l => s.launchAt n l && decide (open_ l ≤ s.gridOf s.now ∧ s.gridOf s.now < open_ l + dur))).map
    (fun l => (l, s.elapsedOf (open_ l + dur)))

/-- A change of the registers of Weir m takes effect: it turns off, enters UNRESOLVED, or goes on (R403, R406), in the gate
window that its registers now give (R402). Writes of a threshold and enabling restart its staleness, and a threshold no
longer in use has none (R413). -/
def State.weirApply (s : State) (m : Nat) (r : Tab Word) (thr : Bool) : State :=
  let r0 := s.regs
  let was := s.weirEn m
  let changed := fieldsDiffer r0 r [WMN_WM_THR_HI m, WMN_WM_THR_LO m, WMN_WM_CFG_HYST m, WMN_WM_CFG_MODE m]
  let s1 := { s.weirSync m with regs := r }
  let wins := s1.weirWindows m
  let stamp := fun (t : ThrSt) (used : Bool) => { t with
    wr := if thr then s.now else t.wr, chk := if thr || !was then s.now else t.chk, stale := t.stale && used && !thr && was }
  let en := ron r (WMN_WM_CFG_EN m)
  let s2 := (s1.modW m (fun w => { w with
    gEnd := ((wins.filter (fun p => decide (p.1 ≤ s.gridOf s.now))).map (·.2)).foldl max 0
    gNext := wins.filter (fun p => decide (s.gridOf s.now < p.1))
    hi := stamp w.hi (en && upperUsed r m), lo := stamp w.lo (en && lowerUsed r m) })).staleShow m
  if !s2.weirEn m then (if was then s2.weirOff m else s2)
  else if !was || changed then s2.weirUnres m
  else s2.weirEval m

/-- A Polder write of a WM[m] register or of RB_CFG, which is otherwise permitted. -/
def State.weirWrite (s : State) (off : Nat) (v : Word) : State :=
  let r := rwriteP s.regs off v
  match weirOf off with
  | some m =>
    if !wordOkP s.regs off v || !weirCfgOk r m off || s.weirBusy r m then s.ev WMN_EVENTS_CFG_ERR
    else s.weirApply m r (decide (off = WMN_WM_THR m))
  | none =>
    if !wordOkP s.regs off v then s.ev WMN_EVENTS_CFG_ERR
    else
      let rise := ron r WMN_RB_CFG_EN && !s.on WMN_RB_CFG_EN
      let fresh := fun (t : ThrSt) => { t with chk := s.now, stale := false }
      let s1 : State := { s with regs := r
                                 wmn := if rise then s.wmn.map (fun (w : WeirSt) => { w with hi := fresh w.hi, lo := fresh w.lo })
                                        else s.wmn }
      if rise then (List.range 16).foldl State.staleShow s1 else s1

/-- May the Polder write Weir configuration now: the restore of R406, or COMMISSION with the key (R410)? -/
def State.weirOpen (s : State) : Bool := s.mode == 1 || (s.mode == 2 && s.on PWR_MODE_KEY_OK)

/-! ### Threshold readback (R411 to R413) -/

/-- The expected result code of a threshold code (R411). -/
def uExp (c : Nat) : Int := rha (2 ^ 23 * (688 + c)) 2500

/-- A threshold of a Weir, and its change. -/
def WeirSt.thr (w : WeirSt) (upper : Bool) : ThrSt := if upper then w.hi else w.lo
def WeirSt.setThr (w : WeirSt) (upper : Bool) (t : ThrSt) : WeirSt := if upper then { w with hi := t } else { w with lo := t }

/-- Is a threshold of an enabled Weir in use? -/
def State.thrUsed (s : State) (m : Nat) (upper : Bool) : Bool :=
  s.weirEn m && (if upper then upperUsed s.regs m else lowerUsed s.regs m)

/-- RB_CHECK: the oldest waiting result of a threshold is checked (R412). -/
def State.rbCheck (s : State) (m : Nat) (upper : Bool) : State :=
  let t := (s.weir m).thr upper
  match t.res with
  | [] => s
  | (u, start) :: rest =>
    if s.on WMN_RB_CFG_EN ∧ s.thrUsed m upper ∧ t.wr ≤ start then
      let code := s.get (if upper then WMN_WM_THR_HI m else WMN_WM_THR_LO m)
      let err := u - uExp code
      let s1 := s.modW m (fun w => { w.setThr upper { t with res := rest, chk := s.now, stale := false } with raised := false })
      let s2 := (s1.setI (if upper then WMN_WM_RB_ERR_HI_ERR m else WMN_WM_RB_ERR_LO_ERR m) (rha (err * 12500) (2 ^ 23))).staleShow m
      if rha (s.get WMN_RB_CFG_TOL * 2 ^ 23) 1250 < err.natAbs then
        let s3 := (s2.set (WMN_RB_STATUS_BAD.bit m) 1).ev WMN_EVENTS_RB_MISMATCH
        if s.get (WMN_WM_CFG_ROUTE m) = 0 then s3 else s3.present (90 + m)
      else s2.set (WMN_RB_STATUS_BAD.bit m) 0
    else s.modW m (fun w => w.setThr upper { t with res := rest })

/-- RB_STALE: no check of a threshold in use for PERIOD_MS (R413). -/
def State.rbStale (s : State) (m : Nat) (upper : Bool) : State :=
  let t := (s.weir m).thr upper
  if s.on WMN_RB_CFG_EN ∧ s.thrUsed m upper ∧ !t.stale ∧ t.chk + 1000000 * s.get WMN_RB_CFG_PERIOD_MS ≤ s.now then
    let s1 := ((s.modW m (fun w => w.setThr upper { t with stale := true })).staleShow m).ev WMN_EVENTS_RB_STALE
    if s.get (WMN_WM_CFG_ROUTE m) = 0 ∨ (s.weir m).raised then s1
    else (s1.modW m (fun w => { w with raised := true })).present 89
  else s

end Sys2Proof.Machine
end

