-- ==== Sys2Proof/Machine/Mode.lean ====
section
/-! DEFINITION. Modes and their transitions (R481 to R493), SENTINEL groups, and the power ladder's conditions (R494 to
R498). -/

namespace Sys2Proof.Machine

/-- Set the mode register, with PREV and the MODE_CHANGE event (R517). -/
def State.modeReg (s : State) (m : Nat) : State :=
  ((s.set PWR_MODE_PREV s.mode).set PWR_MODE_MODE m).ev PWR_EVENTS_MODE_CHANGE

/-- CHANGING: an armed fibre engine has yet to pass the boundary of a SENTINEL group (R486). -/
def State.changing (s : State) : Bool := s.fe.toList.any (fun f => f.due.any (fun d => d.sent.isSome))

/-- The internal GRID group of an entry to or exit from SENTINEL: t_b lies 20 µs after its processing, and every armed
fibre engine takes it at its first frame start or marker at or after t_b (R488, R490). -/
def State.sentGroup (s : State) (enter : Bool) : State :=
  let tb := s.gridOf s.now + 20000
  let s1 := { s with sch := { s.sch with sentTb := s.sch.sentTb ++ [tb], sentCount := s.sch.sentCount + 1 } }
  (List.range 4).foldl (fun s n =>
    (if s.lstate n = 2 then
      s.addDue n ⟨tb, none, true, [], [], some (if enter then some s.sentForm else none), 0⟩
    else s.modF n (fun f => { f with epoch := f.epoch + 1 })).dtsRestart n) s1

/-- What lasts only in TEST ends with it: the loop-back of the calibration DAC (R101). -/
def State.testModeEnd (s : State) : State := s.set ACQ_CALDAC_CFG_LOOP 0

/-- In COMMISSION with KEY_OK the Gnowa monitor raises the minimum SECURITY_VERSION of each image to the lower of the
versions that the last boot found in its slots (R507, log 95). -/
def State.raiseMin (s : State) : State :=
  { s with nvs := { s.nvs with minVer := Vector.ofFn (fun (k : Fin 2) =>
      max (vget 0 s.nvs.minVer k.val) (min (vget (0, 0) s.pwr.slotVer k.val).1 (vget (0, 0) s.pwr.slotVer k.val).2)) } }

/-- The write protection the Gnowa monitor sets in a mode (R513). -/
def State.setWp (s : State) : State :=
  s.set NVS_WP_WP (if (s.mode = 2 ∨ s.mode = 5) ∧ s.on PWR_MODE_KEY_OK then 0x1FC else 0x1F0)

/-- Modes in which a fibre engine may be armed (R78): COMMISSION, INTERROGATE, SENTINEL, TEST, RECOVERY. -/
def armMode (m : Nat) : Bool := decide (2 ≤ m ∧ m ≤ 6)

/-- Enter a mode, at the processing of its trigger (R84, R485, R486, R488, R513): KEY_OK lasts only in COMMISSION and TEST,
a mode in which nothing may be armed disarms, SENTINEL begins or ends by its internal group, and in DORMANT the monitor
converter stands (R389). Weirs that the new mode
routes to the trip path trip at once where their latches are set (R407, R409). -/
def State.enterMode (s : State) (m : Nat) : State :=
  let m0 := s.mode
  let s1 := s.modeReg m
  let s2 := if m = 2 ∨ m = 5 then s1 else s1.set PWR_MODE_KEY_OK 0
  let s3 := if m = 2 ∧ s2.on PWR_MODE_KEY_OK then s2.setWp.raiseMin else s2.setWp
  let s4 := if armMode m then s3
    else (List.range 4).foldl (fun s n => if s.busyFe n then s.disarmFe n none else s) s3
  let s5 := if m = 4 then s4.sentGroup true else if m0 = 4 then s4.sentGroup false else s4
  let s6 := if m0 = 5 ∧ m ≠ 5 then s5.testModeEnd else s5
  let s7 := if m = 0 then s6.pmcStopAll else s6
  s7.weirRoute m0

/-- Is a SET_MODE transition in R482, and does it need a key token? -/
def modeLegal (m0 m : Nat) : Bool :=
  (m0 == 1 && m == 0) || (decide (2 ≤ m0 ∧ m0 ≤ 6) && (m == 0 || m == 2 || m == 3 || m == 4 || m == 5 || m == 6))
def State.needsToken (s : State) (m : Nat) : Bool :=
  (m == 2 || m == 5) && !((s.mode == 2 || s.mode == 5) && s.on PWR_MODE_KEY_OK)

/-- The challenge and serial bytes of R484, as registers read them. -/
def State.challengeBytes (s : State) : List Byte :=
  (List.range 4).flatMap (fun i => leBytes 4 (Config.challenge s.pwr.chal i).toNat)
def serialBytes : List Byte := (List.range 4).flatMap (fun i => leBytes 4 (Config.serial i).toNat)

/-- Does a token pass R484? -/
def State.tokenOk (s : State) (k : TokenRead) : Bool :=
  k.signatureOk && k.bytes.take 32 == s.challengeBytes ++ serialBytes

/-- Verification of a token: KEY_OK is set or refused, and a new challenge is drawn (R484, R485). -/
def State.verifyToken (s : State) (k : TokenRead) : State :=
  let s1 := if s.tokenOk k then s.set PWR_MODE_KEY_OK 1 else s.ev PWR_EVENTS_KEY_FAIL
  { s1 with pwr := { s1.pwr with chal := s1.pwr.chal + 1 } }

/-! ### The ladder (R494 to R498) -/

/-- Entry time and exit latency of a ladder state in ns (R494). -/
def ladderEntryNs : Nat → Nat
  | 1 => 1000 | 2 => 20000 | 3 => 200000 | 4 => 2000000 | 5 => 20000000 | 6 => 20000000 | _ => 0
def ladderExitNs : Nat → Nat
  | 1 => 10000 | 2 => 100000 | 3 => 1000000 | 4 => 10000000 | 5 => 100000000 | 6 => 1000000000 | _ => 0

/-- The deepest state each mode permits (R495). -/
def modeDepth : Nat → Nat
  | 0 => 6 | 2 => 1 | 3 => 5 | 4 => 3 | 5 => 5 | _ => 0

/-- The deepest state whose exit latency a tolerance covers (R497, R498). -/
def tolDepth (tol : Nat) : Nat := ((List.range 7).filter (fun x => decide (ladderExitNs x ≤ tol))).foldl max 0

/-- A condition of R496 that requires L0. A fibre engine in external launch mode also holds L0 while SENTINEL is in force
for it (R490), and from a marker to its launch (log 22). -/
def State.holdL0 (s : State) : Bool :=
  s.fe.toList.any (fun f => !f.recs.isEmpty) || s.acq.cal.isSome || s.pmc.cal.isSome || s.nvs.wr.isSome
    || s.sch.loading.isSome || s.on MEM_TEST_CTL_BUSY || s.flt.window.isSome || !s.sch.sentTb.isEmpty
    || s.sch.groups.toList.any (fun g => match g with | some g => g.locked | none => false)
    || (List.range 4).any (fun n => s.lstate n == 2 && extOf s.regs n && ((s.f n).sent.isSome || (s.f n).marker.isSome))

/-- A condition of R496 that limits the ladder to L3; `cmds` says whether running commands count. -/
def State.holdL3 (s : State) (cmds : Bool) : Bool :=
  s.anyBusy || s.on PMC_CTL_EN || (List.range 16).any (fun m => s.on (WMN_WM_CFG_EN m))
    || (List.range 2).any (fun i => s.on (TRK_QIN_CFG_EN i)) || (List.range 2).any (fun p => s.on (TRK_SSI_CFG_EN p))
    || (List.range 8).any (fun c => s.on (TRK_CMP_CFG_EN c)) || (List.range 4).any (fun m => s.get (TRK_ENC_CFG_MODE m) != 0)
    || s.sch.groups.toList.any (·.isSome) || s.attach == 0 || s.attach == 2 || (cmds && s.anyRunning)

/-- A condition of R496 that limits the ladder to L4. -/
def State.holdL4 (s : State) : Bool := s.backlog || !s.mem.hist.isEmpty

/-- The deepest state that mode, conditions and tolerance permit (PWR.MODE.TARGET, R497). -/
def State.ladderTarget (s : State) (cmds : Bool) : Nat :=
  min (modeDepth s.mode) (min (tolDepth (s.get2 PWR_LAT_TOL_LO_NS PWR_LAT_TOL_HI_NS))
    (if s.holdL0 then 0 else if s.holdL3 cmds then 3 else if s.holdL4 then 4 else 6))

/-- The next scheduled instant that requires L0, as elapsed time: launches and gate openings of armed fibre engines, and
the locks of staged groups (R497). -/
def State.nextL0 (s : State) : Option Nat :=
  let fes := (List.range 4).filterMap (fun n =>
    (s.f n).next.map (fun x => s.elapsedOf (x.gt + startMin s.regs n)))
  let grp := s.sch.groups.toList.filterMap (fun g => match g with
    | some g => g.tb.map (fun b => s.elapsedOf (b - 10000))
    | none => none)
  (fes ++ grp).foldl (fun m x => some (match m with | some y => min y x | none => x)) none

/-- The state the ladder selects now (R497). -/
def State.ladderPick (s : State) : Nat :=
  let lim := s.ladderTarget true
  ((List.range 7).filter (fun x => decide (x ≤ lim) &&
    (match s.nextL0 with | some n => decide (s.now + ladderEntryNs x + ladderExitNs x ≤ n) | none => true))).foldl max 0

/-! ### Moving on the ladder (R20, R26, R232, R468, R500) -/

/-- Account for the time spent in the present ladder state (PWR.RES): whole ms, and the ns beyond them. L5 and L6 count only
while the RTC runs. -/
def State.resAcc (s : State) : State :=
  let x := s.ladder
  let ns := if 5 ≤ x ∧ s.pwr.rtcAt.isNone then 0 else s.now - s.pwr.since
  let tot := vget 0 s.pwr.resNs x + ns
  { s.addWrap (PWR_RES_MS x) (tot / 1000000) with
    pwr := { s.pwr with since := s.now, resNs := vset s.pwr.resNs x (tot % 1000000) } }

/-- Enter a ladder state from L0 to L4: L3 and L4 put the DRAM in self-refresh, and L4 the time base in FREE; accumulations of
disarmed fibre engines are discarded, and with them the background state of the channels (R128). -/
def State.ladderDown (s : State) (x : Nat) : State :=
  let s1 := (s.resAcc.set PWR_MODE_LADDER x).bgSyncAll
  let s2 := if 3 ≤ x then s1.srAll else s1
  if x = 4 then ((List.range 4).foldl (fun s n => s.dtsDiscard n none) s2.bgDiscard).clockFree else s2

/-- Does a kind of state of fibre engine n lie in Berm banks that L4 does not retain (R452)? -/
def State.unretained (s : State) (n : Nat) (k : MapKind) : Bool :=
  (s.images.flatMap (·.items)).any (fun i => i.berm && i.fe == n && i.kind == k &&
    (mapBanks i).any (fun b => !(s.get2 BRM_RETAIN_LO_BANKS BRM_RETAIN_HI_BANKS).testBit b))

/-- Kinds of pipeline state are written with zeros (R452). -/
def FeSt.bermZero (f : FeSt) (z : MapKind → Bool) : FeSt :=
  { f with
    phs := if z .phase then { f.phs with bins := f.phs.bins.map (fun _ => PhBin.empty), prev := Vector.replicate 4 none } else f.phs
    acf := if z .chain then { f.acf with bins := f.acf.bins.map (fun b =>
        ⟨0, 0, 0, b.int.map (fun _ => 0), b.comb.map (fun _ => 0), b.hist.map (fun _ => 0), false⟩) } else f.acf
    dts := if z .raman then { f.dts with cur := none, done := [] } else f.dts
    evt := if z .detector then { f.evt with
        bands := f.evt.bands.map (fun l => l.map (fun _ => ⟨0, 0, 0, 0, 0⟩)), faded := f.evt.faded.map (fun _ => false)
        bg := f.evt.bg.map (fun l => l.map (fun _ => 0)), rules := f.evt.rules.map (fun q => { q with hist := [], det := [] })
        tracks := f.evt.tracks.map (fun _ => none) } else f.evt }

/-- On the exit from L4 every bank that was not retained is written with zeros (R452). -/
def State.bermExit (s : State) : State :=
  (List.range 4).foldl (fun s n => s.modF n (fun f => f.bermZero (s.unretained n))) s

/-- Leave L1 to L4 for L0: the channels leave self-refresh; after L4 grid time resumes from a free value, the PLL relocks
towards a reference that is present (log 1), and banks that were not retained hold zeros. -/
def State.ladderUp (s : State) : State :=
  let x := s.ladder
  if x = 0 ∨ 5 ≤ x then s
  else
    let s1 := (s.resAcc.set PWR_MODE_LADDER 0).bgSyncAll
    let s2 := if 3 ≤ x then s1.srNone else s1
    if x = 4 then
      let s3 := { s2.bermExit.nextFree with gtOff := s2.gtOff + Config.freeInt s2.freeIdx }
      if s3.on TIM_STATUS_REF_PRESENT then s3.set TIM_STATUS_CLK_STATE 1 else s3
    else s2

/-- A capture by the fault collector wakes the device from L4 (R500); its window then holds L0 (R496). -/
def State.faultWake (s : State) : State := if s.ladder = 4 then (s.set PWR_WAKE_CAUSE_SOURCE 6).ladderUp else s

/-- LADDER_ENTRY: at L0, the device enters the state it selects (R497); L5 and L6 follow in the power domain. -/
def State.ladderEnter (s : State) : State :=
  let x := s.ladderPick
  if s.ladder = 0 ∧ 1 ≤ x ∧ x ≤ 4 then s.ladderDown x else s

/-- LADDER_EXIT: from L1 to L3, once the state held is deeper than what is permitted, or the exit latency before the next
instant that requires L0 has come (R497). -/
def State.ladderLeave (s : State) : State :=
  let x := s.ladder
  let due := decide (s.ladderTarget true < x) ||
    (match s.nextL0 with | some n => decide (n ≤ s.now + ladderExitNs x) | none => false)
  if 1 ≤ x ∧ x ≤ 3 ∧ due then s.ladderUp else s

/-- An access to configuration space, BAR0 or BAR2 brings the device from L1 to L3 to L0 (R499). -/
def State.accessWake (s : State) : State := if 1 ≤ s.ladder ∧ s.ladder ≤ 3 then s.ladderUp else s

end Sys2Proof.Machine
end

