-- ==== Sys2Proof/Machine/Fault.lean ====
section
/-! DEFINITION. The fault collector (chapter 12): sources, classes and scopes, capture, containment, the fatal sequence,
notification windows, recovery and injection. -/

namespace Sys2Proof.Machine

/-! ### The source table (R431) -/

/-- Class of a source: 0 C, 1 U, 2 F; 3 for the reserved sources. -/
def srcClass (i : Nat) : Nat :=
  if i ∈ [0, 1, 3, 4, 5, 6, 7, 8, 9, 10, 11, 13, 14] then 2
  else if i ∈ [22, 23, 79, 80, 85, 87, 114] ∨ (28 ≤ i ∧ i ≤ 35) ∨ (52 ≤ i ∧ i ≤ 67) ∨ (72 ≤ i ∧ i ≤ 75)
      ∨ (90 ≤ i ∧ i ≤ 113) then 1
  else if i ≤ 115 then 0 else 3

/-- May FAULT_INJECT drive a source? -/
def srcInjectable (i : Nat) : Bool := decide (i ≤ 115 ∧ i ≠ 5 ∧ i ≠ 6)

/-- The scopes a class U source contains (R422, R431); a WMN_RB_MISMATCH source contains every fibre engine in ROUTE. -/
def State.srcScopes (s : State) (i : Nat) : Nat :=
  if i = 22 ∨ i = 23 then 16
  else if i = 79 then 128
  else if i = 80 then 143
  else if i = 85 then 32
  else if i = 87 then 64
  else if i = 114 then 15
  else if 90 ≤ i ∧ i ≤ 105 then s.get (WMN_WM_CFG_ROUTE (i - 90))
  else if 106 ≤ i ∧ i ≤ 113 then 2 ^ ((i - 106) % 4)
  else if srcClass i = 1 then 2 ^ (i % 4)
  else 0

/-- Does a class U source contain its fibre engines under rule X (R424, R431)? -/
def srcRuleX (i : Nat) : Bool :=
  decide ((32 ≤ i ∧ i ≤ 35) ∨ (56 ≤ i ∧ i ≤ 67) ∨ i = 80 ∨ (110 ≤ i ∧ i ≤ 114))

/-! ### Containment (R422 to R427) -/

/-- One more than the last shot a fibre engine launched, or 0 when it has launched none since cold reset (R424). -/
def State.nextShotNo (s : State) (n : Nat) : Nat :=
  if s.on (TIM_FE_SHOT_HI_VALID n) then s.get2 (TIM_FE_SHOT_LO_SHOT n) (TIM_FE_SHOT_HI_SHOT n) + 1 else 0

/-- Is work of a shot itself unfinished: its processing, its accumulation, or an output that ends with it? -/
def FeSt.unfinished (f : FeSt) (r : Shot) : Bool :=
  !r.phsDone || (r.raman && !r.dtsDone) || f.acf.q.any (fun i => i.shot == r.shot) ||
    f.evt.q.any (fun x => match x with
      | .out y => y.newest == r.shot
      | .restart => false)

/-- The oldest shot of a fibre engine whose work is unfinished, or that follows the last it launched (R424). -/
def State.oldestUnfinished (s : State) (n : Nat) : Nat :=
  match (s.f n).recs.find? (s.f n).unfinished with
  | some r => r.shot
  | none => s.nextShotNo n

/-- The first shot whose range window contains a sample at or after an instant (R424, ACQ_CH_FAIL), a shot whose frame is
finished included. -/
def State.firstShotSince (s : State) (n since : Nat) : Nat :=
  let all := (s.f n).ends ++ (s.f n).recs.map (fun r => (r.shot, r.launch + winEndOf r.regs n))
  match all.find? (fun p => decide (since < p.2)) with
  | some p => p.1
  | none => s.nextShotNo n

/-- FIRST_SHOT of a rule X containment. -/
def State.firstShot (s : State) (n src : Nat) : Nat :=
  if 32 ≤ src ∧ src ≤ 35 then
    match (s.f n).chFailSince with
    | some t => s.firstShotSince n t
    | none => s.oldestUnfinished n
  else s.oldestUnfinished n

/-- Change the open window. -/
def State.modWin (s : State) (g : FltWin → FltWin) : State :=
  { s with flt := { s.flt with window := s.flt.window.map g } }

/-- What counts a shot at or after FIRST_SHOT is not produced: acoustic inputs, outputs and accumulations go, the shots are
not processed, and the frame that FIRST_SHOT stands in is lost whole (log 87). The shots stay for the settings that they
changed (R109, R134). -/
def FeSt.dropFrom (f : FeSt) (n first : Nat) : FeSt :=
  let hit := fun (frame : Nat) => f.recs.any (fun x => x.frame == frame && decide (first ≤ x.shot))
  { f with
    recs := f.recs.map (fun r =>
      let gone := decide (first ≤ r.shot)
      { r with
        lost := r.lost || hit r.frame, cut := r.cut || gone, phsDone := r.phsDone || gone, dtsDone := r.dtsDone || gone })
    acf := { f.acf with q := f.acf.q.filter (fun i => decide (i.shot < first)) }
    dts := { f.dts with
      cur := f.dts.cur.filter (fun a => decide (a.last.shot < first) && a.count == dtsShots a.last.regs n)
      done := f.dts.done.filter (fun a => decide (a.last.shot < first)) }
    evt := { f.evt with q := f.evt.q.takeWhile (fun x => match x with
      | .out y => decide (y.newest < first)
      | .restart => true) } }

/-- Rule X on a fibre engine: FIRST_SHOT is fixed and written, and the accumulation in progress discarded (R229, R424). -/
def State.applyRuleX (s : State) (n src : Nat) : State :=
  let first := s.firstShot n src
  let s1 := (s.set2 (FLT_FE_INVALID_LO_SHOT n) (FLT_FE_INVALID_HI_SHOT n) first).set (FLT_FE_INVALID_HI_VALID n) 1
  let s2 := ((s1.dtsDiscard n (some first)).modF n (fun f => f.dropFrom n first)).dropLost n
  s2.modWin (fun w => { w with invalid := w.invalid ++ [⟨n, src, first, s.gt⟩] })

/-- Containment of APP: running commands of application opcodes are abandoned, and the cores are held in reset (R425,
R426). RECOVER and FAULT_INJECT go on. -/
def State.containApp (s : State) : State :=
  let cmds := s.hif.rings.toList.flatMap (fun r => r.running.filter (fun c => c.opcode != 0x0403 && c.opcode != 0x0404))
  let s1 := cmds.foldl (fun s c => (s.abandon c).complete c 0xFFFF 0) s
  { s1 with pwr := { s1.pwr with appUp := false } }

/-- The effects of containing one scope (R422). -/
def State.containScope (s : State) (src : Nat) (sc : Nat) : State :=
  let s1 := s.set FLT_STATUS_CONTAINED (s.get FLT_STATUS_CONTAINED ||| 2 ^ sc)
  if sc < 4 then
    let s2 := if srcRuleX src then s1.applyRuleX sc src else s1
    (((s2.trip sc 8).dtsDiscard sc none).calAbandon (feChans sc)).modF sc (fun f => { f with chFailSince := none })
  else if sc = 4 then s1.containApp
  else if sc = 5 then s1.pmcStopAll
  else if sc = 6 then s1.trkContain
  else s1.spillClear

/-- Contain the scopes of a mask that are not contained yet (R433, R435); the always-on copy follows (R427). -/
def State.containMask (s : State) (src mask : Nat) : State :=
  let new := (List.range 8).filter (fun sc => mask.testBit sc && !s.contained sc)
  let s1 := new.foldl (fun s sc => s.containScope src sc) s
  let s2 := s1.modWin (fun w => { w with scopes := w.scopes ||| new.foldl (fun m sc => m + 2 ^ sc) 0 })
  { s2 with flt := { s2.flt with aonCopy := s2.get FLT_STATUS_CONTAINED } }

/-- Re-apply the containments of the always-on copy after a reset (R427): FAULT_U from then on, no FIRST_SHOT. -/
def State.recontain (s : State) : State :=
  let m := s.flt.aonCopy
  let s1 := s.set FLT_STATUS_CONTAINED m
  let s2 := (List.range 4).foldl (fun s n => if m.testBit n then s.trip n 8 else s) s1
  let s3 := if m.testBit 4 then { s2 with pwr := { s2.pwr with appUp := false } } else s2
  let s4 := if m.testBit 5 then s3.pmcStopAll else s3
  let s5 := if m.testBit 6 then s4.trkContain else s4
  if m.testBit 7 then s5.spillClear else s5

/-! ### The fatal sequence (R428 to R430, R359) -/

/-- The 64 bytes of a fatal record (R430). -/
def State.fatalRecord (s : State) (gt modeBefore : Nat) : List Byte :=
  (List.range 4).flatMap (fun w => leBytes 4 (s.reg (FLT_STICKY w)).toNat)
    ++ (List.range 4).flatMap (fun w => leBytes 4 (s.reg (FLT_WIRE w)).toNat)
    ++ leBytes 8 gt ++ leBytes 1 (s.get FLT_SH_CAUSE_SOURCE) ++ leBytes 1 modeBefore
    ++ leBytes 4 (s.get SCH_EPOCH_EPOCH) ++ leBytes 18 0

/-- The signal fabric stops: work in flight goes (R429, R509). -/
def State.fabricStop (s : State) : State :=
  { s with fe := s.fe.map (fun (f : FeSt) => { f with
      recs := [], ends := [], next := none, marker := none, due := [], acf := { f.acf with q := [] }
      dts := { f.dts with cur := none, done := [] }, evt := { f.evt with q := [] }, calPend := [] }) }

/-- Step 6 of a class F capture by source i (R428): the fatal record joins the last four, the newest last (R430), and the
reattach log is stored when the device was not attached (R359); neither where source 0, 1, 3 or 4 opened the fatal window.
-/
def State.fatalStore (s : State) (i gt m0 : Nat) : State :=
  if i = 0 ∨ i = 1 ∨ i = 3 ∨ i = 4 then s
  else
    let t := s.nvPut nvFatal (s.nvBytes (nvFatal + 64) 192 ++ s.fatalRecord gt m0)
    if t.attach = 0 then t else t.nvPut nvLog t.logBytes

/-- The open log record is closed at the entry to SAFE_HOLD, marked so where the device is not attached (R359). -/
def State.logShut (s : State) : State :=
  let t := if s.attach = 0 then s
    else s.logMod (fun r => { r with safeHold := true, reGt := 0, mode1 := 7, epoch1 := s.get SCH_EPOCH_EPOCH })
  { t with hif := { t.hif with logOpen := false } }

/-- Steps 1 to 6 of a class F capture by source i (R428): launch safe, FAULT_N, DMA stop, the latch and the mode, groups
aborted with FAULT, ERR_FATAL last, and the fatal record. A boot that runs ends. -/
def State.fatal (s : State) (i : Nat) : State :=
  let m0 := s.mode
  let gt := s.gt
  let s1 := (((s.set FLT_SH_CAUSE_SOURCE i).set FLT_SH_CAUSE_VALID 1).set FLT_STATUS_SAFE_HOLD 1).set FLT_STATUS_WINDOW_CLASS 2
  let s2 := (List.range 4).foldl (fun s n => s.trip n 4) s1
  let s3 := { s2 with flt := { s2.flt with faultN := true } }
  let s4 := s3.calFatal.fabricStop
  let t4 := if m0 = 5 then s4.testModeEnd else s4
  let s5 := (((t4.modeReg 7).weirRoute m0).set PWR_MODE_KEY_OK 0).groupsFault
  let s6 := s5.ladderUp.aer 2
  let s7 := s6.pmcSafeHold
  let s8 : State := { s7 with
    flt := { s7.flt with fatal := some ⟨s7.now, gt, m0, s7.nvBytes nvFatal 256, s7.nvBytes nvLog 9280⟩ }
    pwr := { s7.pwr with step := 0 } }
  s8.logShut.fatalStore i gt m0

/-- A class F source captured in the collector cycle of the capture that entered SAFE_HOLD, with a lower number: it is the
source that opened the fatal window, and decides step 6 (R428; a cycle is 4 ns, log 67). -/
def State.fatalAgain (s : State) (i : Nat) : State :=
  match s.flt.fatal with
  | some a =>
    if srcClass i = 2 ∧ a.t / 4 = s.now / 4 ∧ i < s.get FLT_SH_CAUSE_SOURCE then
      (((s.set FLT_SH_CAUSE_SOURCE i).nvPut nvFatal a.nv).nvPut nvLog a.log).fatalStore i a.gt a.mode
    else s
  | none => s

/-! ### Capture (R418, R419, R432, R433) -/

/-- The sticky bit and the count of a captured source (R418). -/
def State.captureMark (s : State) (i : Nat) : State :=
  (s.stickySet i).addSat (if i % 2 = 0 then FLT_CNT_EVEN (i / 2) else FLT_CNT_ODD (i / 2)) 1

/-- Is source i the one an injection drives now? -/
def State.injected (s : State) (i : Nat) : Bool :=
  match s.flt.inj with
  | some j => j.src == i && decide (s.now < j.start + j.dur + 1000)
  | none => false

/-- Open a notification window or merge the capture into the open one (R432, R433). A capture in SAFE_HOLD is merged
although a reset has ended the fatal window. -/
def State.windowTake (s : State) (i : Nat) (wire : Bool) : State :=
  let cls := srcClass i
  let inj := s.injected i
  match s.flt.window with
  | none =>
    if s.on FLT_STATUS_SAFE_HOLD then s.ev FLT_EVENTS_MERGED else
    let w : FltWin := ⟨cls, i, s.gt, s.now, s.get SCH_EPOCH_EPOCH, 0, wire, inj, false, false, 0, []⟩
    ({ s with flt := { s.flt with window := some w } }.set FLT_STATUS_WINDOW_OPEN 1).set FLT_STATUS_WINDOW_CLASS cls
  | some w =>
    let up := decide (w.cls < cls)
    let w2 : FltWin := { w with
      cls := max w.cls cls, merged := min 255 (w.merged + 1), wire := w.wire || wire
      injected := w.injected || inj, escalated := w.escalated || up }
    let s1 := ({ s with flt := { s.flt with window := some w2 } }.ev FLT_EVENTS_MERGED).set FLT_STATUS_WINDOW_CLASS w2.cls
    if up then s1.ev FLT_EVENTS_ESCALATED else s1

/-- The reaction of a captured source's class (R421, R428, R433). In SAFE_HOLD every capture is merged only (R432); DORMANT
is not left for it (R482). -/
def State.react (s : State) (i : Nat) : State :=
  match srcClass i with
  | 1 => s.containMask i (s.srcScopes i)
  | 2 => if s.mode = 0 then s else s.fatal i
  | _ => s

/-- AON_LATCH in L5: the island's own check latches Safe-Hold, and the next wake enters SAFE_HOLD (R502). -/
def State.aonLatch (s : State) : State :=
  if s.pwr.aon then
    let s1 := (s.set FLT_SH_CAUSE_SOURCE 6).set FLT_SH_CAUSE_VALID 1
    { s1 with flt := { s1.flt with faultN := true } }
  else s

/-- A capture of source i; in L4 it is the wake source, whatever its reaction (R500). -/
def State.captureSrc (s : State) (i : Nat) (wire : Bool) : State :=
  let safeHold := s.on FLT_STATUS_SAFE_HOLD
  let s1 := (s.captureMark i).windowTake i wire
  let s2 := if s1.ladder = 4 then s1.set PWR_WAKE_CAUSE_SOURCE 6 else s1
  if safeHold then s1.fatalAgain i else (s2.react i).faultWake

/-- A source's pair reads (1,0): it is captured when its pair has left (1,0) since the last capture (R418, R420). -/
def State.faultCapture (s : State) (i : Nat) : State :=
  if 116 ≤ i ∨ s.ladder ≥ 5 then s
  else if vget true s.flt.armed i then
    let s1 := { s with flt := { s.flt with
      rails := vset s.flt.rails i .err, armed := vset s.flt.armed i false, wireArmed := vset s.flt.wireArmed i true } }
    s1.captureSrc i false
  else
    { s with flt := { s.flt with rails := vset s.flt.rails i .err, wireArmed := vset s.flt.wireArmed i true } }

/-- A wire fault: WIRE and LIVE_WIRE, and a capture with the WIRE flag; the next (1,0) is a new capture (R418, R419). -/
def State.wireCapture (s : State) (i : Nat) : State :=
  if 116 ≤ i ∨ s.ladder ≥ 5 ∨ !vget true s.flt.wireArmed i then s
  else
    let w := i / 32
    let s1 := { s with flt := { s.flt with
      rails := vset s.flt.rails i .wire, armed := vset s.flt.armed i true, wireArmed := vset s.flt.wireArmed i false } }
    let s2 := s1.orReg (FLT_WIRE w) (2 ^ (i % 32))
    (s2.ev FLT_EVENTS_WIRE).captureSrc i true

/-! ### The end of a notification window (R434, R443) -/

/-- The records of a DIAG frame (R443). -/
def FltWin.diag (w : FltWin) (close : Nat) : List Byte :=
  leBytes 1 0 ++ leBytes 1 w.src ++ leBytes 1 w.cls ++ leBytes 1 w.merged
    ++ leBytes 1 ((if w.wire then 1 else 0) + (if w.injected then 2 else 0) + (if w.overlap then 4 else 0)
      + (if w.escalated then 8 else 0)) ++ leBytes 1 w.scopes ++ leBytes 2 0 ++ leBytes 8 w.gt ++ leBytes 8 close
    ++ leBytes 4 w.epoch ++ leBytes 4 0
    ++ w.invalid.flatMap (fun x => leBytes 1 1 ++ leBytes 1 x.fe ++ leBytes 1 x.src ++ leBytes 5 0
      ++ leBytes 8 (x.first % 2 ^ 48) ++ leBytes 8 x.gt ++ leBytes 8 0)

/-- The DIAG frame of a window (R443). -/
def State.diagFrame (s : State) (w : FltWin) : Frame :=
  ⟨17, 0, 255, 5, 0, false, false, false, false, false, 0, s.gt, s.get SCH_EPOCH_EPOCH, 0, 1 + w.invalid.length, 0,
    w.diag s.gt, none⟩

/-- The scopes of an OVERLAP that the window's own injection saw (R442, R443). -/
def State.winOverlap (s : State) (w : FltWin) : FltWin :=
  match s.flt.inj with
  | some j => { w with overlap := w.overlap || (w.injected && j.overlap) }
  | none => w

/-- Close the notification window: class C 1 µs after it opened, class U once its containments are complete; a fatal
window never closes (R432, R434). A completed containment of APP takes the device to RECOVERY (R482). -/
def State.windowClose (s : State) : State :=
  match s.flt.window with
  | none => s
  | some w0 =>
    if w0.cls = 2 ∨ (w0.cls = 0 ∧ s.now < w0.opened + 1000) then s
    else
      let w := s.winOverlap w0
      let s1 := ({ s with flt := { s.flt with window := none } }.set FLT_STATUS_WINDOW_OPEN 0).set FLT_STATUS_WINDOW_CLASS 0
      let s2 := s1.ev (if w.cls = 0 then FLT_EVENTS_C_RAISED else FLT_EVENTS_U_RAISED)
      let s3 := (s2.aer w.cls).stage (s2.diagFrame w)
      if w.scopes.testBit 4 ∧ (s.mode = 3 ∨ s.mode = 4 ∨ s.mode = 2) then s3.enterMode 6 else s3

/-! ### Sources that clear (R436, R437, R555) -/

/-- Does the state that raises a source last (R555)? Sources whose state the model does not hold end as the sender says. -/
def State.srcHolds (s : State) (i : Nat) : Bool :=
  if i = 16 then !s.on TIM_STATUS_REF_PRESENT
  else if i = 17 then
    s.get TIM_STATUS_CLK_STATE == 3 &&
      decide (s.tim.holdStart.getD s.now + 1000000000 * s.get TIM_REF_CFG_HOLD_LIMIT ≤ s.now)
  else if i = 18 then !s.on TIM_STATUS_PPS_PRESENT && s.tim.pps.seen.isSome
  else if i = 19 then !s.on TIM_STATUS_SYNC_PRESENT && s.tim.sync.seen.isSome
  else if i = 11 then decide (12500 ≤ s.getI PMC_DIE_TEMP_TEMP)
  else if i = 12 then decide ((s.get FLT_CFG_THERM_LIMIT : Int) ≤ s.getI PMC_DIE_TEMP_TEMP)
  else if 90 ≤ i ∧ i ≤ 105 then (s.get WMN_RB_STATUS_BAD).testBit (i - 90)
  else false

/-- Does an injection hold the source's pair (R440, R442)? -/
def State.injHolds (s : State) (i : Nat) : Bool :=
  match s.flt.inj with
  | some j => j.src == i && decide (s.now < j.start + j.dur)
  | none => false

/-- Drive a source's pair: kind 0 (1,0); with 1 and 2 it leaves (1,0), and is a wire fault from the third cycle on (R419). -/
def State.drive (s : State) (i kind : Nat) : State :=
  { s with flt := { s.flt with
      rails := vset s.flt.rails i (if kind = 0 then .err else .ok)
      armed := if kind = 0 then s.flt.armed else vset s.flt.armed i true } }

/-- The check of the source that the injection in progress drives no longer fails (R442). -/
def State.injReal (s : State) (b : Bool) : State :=
  { s with flt := { s.flt with inj := s.flt.inj.map (fun j => { j with real := b }) } }

/-- A source's check no longer fails: its pair returns to (0,1), unless its state holds it (R555); one that an injection
drives returns to the pair driven (R442). -/
def State.srcClear (s : State) (i : Nat) : State :=
  if s.srcHolds i then s
  else
    match s.flt.inj with
    | some j =>
      if j.src ≠ i then s.unpresent i
      else if s.injHolds i then (if j.real then s.drive i j.kind else s).injReal false
      else (s.unpresent i).injReal false
    | none => s.unpresent i

/-! ### Recovery (R438, R439) -/

/-- Is a source whose reaction names a scope of the mask live (R438)? -/
def State.scopeLive (s : State) (mask : Nat) : Bool :=
  (List.range 116).any (fun i => srcClass i == 1 && decide (s.srcScopes i &&& mask ≠ 0) && vget .ok s.flt.rails i != .ok)

/-- The refusal of RECOVER, in code order; 0 when it is accepted (R438). -/
def State.recoverCode (s : State) (mask : Nat) : Nat :=
  if s.mode ≠ 6 ∧ s.mode ≠ 5 then 1
  else if (List.range 8).any (fun sc => mask.testBit sc && !s.contained sc) then 2
  else if s.flt.window.isSome || s.scopeLive mask then 3
  else 0

/-- Remove scopes from containment: FAULT_U ends, INVALID is cleared, TRK resumes (R427, R439). -/
def State.uncontain (s : State) (mask : Nat) : State :=
  let s1 := s.set FLT_STATUS_CONTAINED (s.get FLT_STATUS_CONTAINED &&& (255 - mask))
  let s2 := { s1 with flt := { s1.flt with aonCopy := s1.get FLT_STATUS_CONTAINED } }
  let s3 := (List.range 4).foldl (fun s n =>
    if mask.testBit n then
      ((s.setReg (FLT_FE_INVALID_LO n) 0).setReg (FLT_FE_INVALID_HI n) 0).modF n (fun f => { f with overtop := false })
    else s) s2
  if mask.testBit 6 then s3.trkResume else s3

/-- RECOVER executes: every scope of the mask or none. With APP it completes when the cores are released (R439). -/
def State.recover (s : State) (c : Cmd) (mask : Nat) : State :=
  let code := s.recoverCode mask
  if code ≠ 0 then s.complete c code 0
  else
    let s1 := (s.uncontain mask).ev FLT_EVENTS_RECOVERED
    if mask.testBit 4 then { s1 with flt := { s1.flt with recover := some (c, mask) } } else s1.complete c 0 mask

/-- The application cores are released after RECOVER of APP: it completes, and the rings resume (R439). After a boot
with APP held the work of steps 9 and 10 comes first (R554). -/
def State.appReleased (s : State) : State :=
  match s.flt.recover with
  | none => s
  | some (c, mask) =>
    { s with
      flt := { s.flt with recover := none }
      pwr := { s.pwr with appUp := true, step := if s.pwr.skipped then 9 else s.pwr.step, skipped := false } }.complete c 0 mask

/-! ### Injection (R440 to R442) -/

/-- FAULT_INJECT executes (R440). A source that already reads (1,0) from a real failure overlaps, and keeps the error that the
failure presents (R442). -/
def State.inject (s : State) (c : Cmd) (src kind dur : Nat) : State :=
  if s.mode ≠ 5 then s.complete c 1 0
  else if !srcInjectable src then s.complete c 2 0
  else if s.flt.inj.isSome then s.complete c 3 0
  else
    let lap := vget .ok s.flt.rails src == .err
    let s1 := ((((s.set FLT_INJ_ACTIVE 1).set FLT_INJ_SOURCE src).set FLT_INJ_KIND kind).setB FLT_INJ_OVERLAP lap).set
      FLT_STATUS_INJ_ACTIVE 1
    let s2 := { s1 with flt := { s1.flt with inj := some ⟨c, src, kind, s.now, dur, lap, lap⟩ } }
    if lap then (s2.stickySet src).ev FLT_EVENTS_OVERLAP else s2.drive src kind

/-- The injection window ends: the command completes with the OVERLAP bit, which the open window keeps (R443); the pair
returns to (0,1), or reads (1,0) where a real failure persists (R440, R442). -/
def State.injEnd (s : State) (real : Bool) : State :=
  match s.flt.inj with
  | none => s
  | some j =>
    if s.now < j.start + j.dur + 1000 then s
    else
      let s0 := if real ∧ !j.overlap then s.present j.src else s
      let lap := real || j.overlap
      let s1 := s0.modWin (fun w => { w with overlap := w.overlap || (w.injected && lap) })
      let s2 := (({ s1 with flt := { s1.flt with inj := none } }.set FLT_INJ_ACTIVE 0).set FLT_STATUS_INJ_ACTIVE 0).ev
        FLT_EVENTS_INJ_DONE
      let s3 := if real ∨ j.real ∨ s.srcHolds j.src then s2.present j.src else s2.unpresent j.src
      s3.complete j.cmd 0 (if lap then 1 else 0)

end Sys2Proof.Machine
end

