-- ==== Sys2Proof/Machine/Detect.lean ====
section
/-! DEFINITION. Event detection and tracking (chapter 07, R234 to R259): band filters and energies, detection rules,
backgrounds, records and EVENT frames, clusters, tracks and TRACK frames. -/

namespace Sys2Proof.Machine

/-! ### Settings -/

def cellOf (r : Tab Word) (n : Nat) : Nat := max 1 (rget r (EVT_CFG_CELL n))

/-- History length and counts of a rule; the fields hold them less 1. -/
def ruleN (r : Tab Word) (n k : Nat) : Nat := rget r (EVT_RULE_CFG_N n k) + 1
def ruleOn (r : Tab Word) (n k : Nat) : Nat := rget r (EVT_RULE_CFG_ON_M n k) + 1
def ruleOff (r : Tab Word) (n k : Nat) : Nat := rget r (EVT_RULE_CFG_OFF_M n k) + 1
def ruleEn (r : Tab Word) (n k : Nat) : Bool := ron r (EVT_RULE_CFG_EN n k)
def ruleBand (r : Tab Word) (n k : Nat) : Nat := rget r (EVT_RULE_CFG_BAND n k)

/-- The settings whose change ends a rule's detections (R257). -/
def ruleKey (r : Tab Word) (n k : Nat) : List Nat :=
  [ruleBand r n k, rget r (EVT_RULE_Z0_Z0 n k), rget r (EVT_RULE_Z1_Z1 n k), rget r (EVT_RULE_CFG_MODE n k), ruleN r n k]

/-- The rules of R256 that settings alone decide; the map and the image's state are checked beside them. -/
def evtOk (r : Tab Word) (n : Nat) : Bool :=
  (List.range 16).all (fun k => !ruleEn r n k ||
    (decide (ruleBand r n k < nbandsOf r n) && decide (rget r (EVT_RULE_Z0_Z0 n k) < rget r (EVT_RULE_Z1_Z1 n k)) &&
      decide (ruleOff r n k ≤ ruleOn r n k ∧ ruleOn r n k ≤ ruleN r n k))) &&
  (rget r (EVT_MAP_CFG_NPTS n) != 1)

/-- RS strictly increases over the points in use (R256). -/
def mapOk (tabs : Tab Word) (r : Tab Word) (n : Nat) : Bool :=
  let rs := fun (k : Nat) => (tget 0 tabs (0x700000 + 0x8000 * n + 8 * k)).toNat
  (List.range (rget r (EVT_MAP_CFG_NPTS n) - 1)).all (fun k => decide (rs k < rs (k + 1)))

/-- The applied group delay limit of registration (R256): D2 ÷ 2 shots of spacing `num ÷ den` ns at most 200 ms. -/
def regOk (r : Tab Word) (n : Nat) : Bool :=
  !ron r (EVT_REG_CFG_EN n) || decide (d2Of r n * priOf r n ≤ 400000000 * tonesOf r n)

/-! ### Energies (R236 to R238) -/

/-- E of a band's accumulator. -/
def energyOf (acc ei : Nat) : Nat := min 0xFFFFFFFF (rha acc (2 ^ (16 + ei))).toNat

/-- A cell at the end of an interval: its bins, centre, energies per band, fade mark. -/
structure CellE where
  bins  : Nat
  zc    : Int
  e     : List Nat
  faded : Bool

/-- zc of a cell with its actual number of bins (R235). -/
def cellCentre (r : Tab Word) (n c bins : Nat) : Int :=
  256 * ((pStartOf r n : Int) + c * cellOf r n * binOf r n) + 128 * ((bins : Int) * binOf r n + gaugeOf r n)

/-- The cells of an interval (R234, R235, R238). -/
def EvtSt.cells (e : EvtSt) (r : Tab Word) (n : Nat) : List CellE :=
  (List.range (cdiv e.bands.length (cellOf r n))).map (fun c =>
    let l := (e.bands.drop (c * cellOf r n)).take (cellOf r n)
    let en := (List.range (nbandsOf r n)).map (fun b =>
      (rha ((l.map (fun x => energyOf (x.getD b ⟨0, 0, 0, 0, 0⟩).acc (eiLog2 r n))).foldl (· + ·) 0 : Nat) l.length).toNat)
    ⟨l.length, cellCentre r n c l.length, en, ((e.faded.drop (c * cellOf r n)).take (cellOf r n)).any id⟩)

/-! ### Detection rules (R239 to R243) -/

/-- Does a rule's time window contain t_I (R239)? -/
def timeActive (r : Tab Word) (n k : Nat) (tI : Int) : Bool :=
  let p := rget r (EVT_RULE_TW_PERIOD_PERIOD n k)
  if p = 0 then true
  else
    let w := tI % (p * 1000000000 : Nat)
    let a : Int := rget r (EVT_RULE_TW_START_START n k) * 1000000000
    let b : Int := rget r (EVT_RULE_TW_END_END n k) * 1000000000
    if a < b then decide (a ≤ w ∧ w < b) else if b < a then decide (a ≤ w ∨ w < b) else false

/-- Does a cell exceed in an active rule (R239, R240)? -/
def exceeds (r : Tab Word) (n k : Nat) (warm : Bool) (x : CellE) (bg : List Int) : Bool :=
  let b := ruleBand r n k
  let e := x.e.getD b 0
  let thr := rget r (EVT_RULE_THR_THR n k)
  decide (256 * (rget r (EVT_RULE_Z0_Z0 n k) : Int) ≤ x.zc ∧ x.zc < 256 * (rget r (EVT_RULE_Z1_Z1 n k) : Int)) &&
    (if rget r (EVT_RULE_CFG_MODE n k) = 0 then decide (thr < e)
     else !warm && decide ((thr : Int) * bg.getD b 0 < 16 * (e : Int)))

/-- The number of ones in the low bits of a history. -/
def popcount : Nat → Nat → Nat
  | 0, _ => 0
  | w + 1, x => x % 2 + popcount w (x / 2)

def RuleSt.empty : RuleSt := ⟨false, [], [], []⟩

/-- What an interval gives for a rule and a cell: kind 0 ONSET, 1 ACTIVE, 2 END. -/
structure Det where
  cell : Nat
  rule : Nat
  kind : Nat
  h    : Nat
deriving DecidableEq, Repr

/-- A rule through an interval: its new state and its detections (R242, R243, R257). -/
def ruleStep (r : Tab Word) (n k : Nat) (tI : Int) (warm : Bool) (cells : List CellE) (bg : List (List Int)) (q : RuleSt) :
    RuleSt × List Det :=
  let act := ruleEn r n k && timeActive r n k tI
  let clear := !act || (q.active && q.key != ruleKey r n k)
  let gone := if clear then
      (List.range q.det.length).filterMap (fun c => if q.det.getD c false then some (Det.mk c k 2 0) else none)
    else []
  let q1 := if clear then RuleSt.empty else q
  if !act then (RuleSt.empty, gone)
  else
    let w := ruleN r n k
    let steps := cells.zipIdx.map (fun x =>
      let hist := (2 * q1.hist.getD x.2 0 + (exceeds r n k warm x.1 (bg.getD x.2 [])).toNat) % 2 ^ w
      let h := popcount w hist
      let was := q1.det.getD x.2 false
      let now := if was then decide (ruleOff r n k ≤ h) else decide (ruleOn r n k ≤ h)
      (hist, now, if now && !was then some (Det.mk x.2 k 0 h) else if was && !now then some (Det.mk x.2 k 2 h)
        else if was then some (Det.mk x.2 k 1 h) else none))
    (⟨true, ruleKey r n k, steps.map (·.1), steps.map (·.2.1)⟩, gone ++ steps.filterMap (·.2.2))

/-- The backgrounds after an interval (R241). -/
def bgStep (r : Tab Word) (n : Nat) (cells : List CellE) (rules : List RuleSt) (bg : List (List Int)) : List (List Int) :=
  cells.zipIdx.map (fun x => x.1.e.zipIdx.map (fun e =>
    match (bg.getD x.2 [])[e.2]? with
    | none => (e.1 : Int)
    | some g =>
      let held := rules.zipIdx.any (fun q => q.1.det.getD x.2 false && rget r (EVT_RULE_CFG_MODE n q.2) == 1
        && ruleBand r n q.2 == e.2)
      if held then g else g + rha (e.1 - g) (2 ^ rget r (EVT_CFG_BG_SHIFT n))))

/-! ### Records and EVENT frames (R244 to R246) -/

/-- Detections in ascending order of cell and then rule. -/
def sortDets (cells : Nat) (l : List Det) : List Det :=
  (List.range cells).flatMap (fun c => (List.range 16).flatMap (fun k => l.filter (fun d => d.cell == c && d.rule == k)))

/-- The chainage of a position; without a map it is a free value in EVENT records (log 1). -/
def evtChainage (idx : Nat) (r map : Tab Word) (n : Nat) (z : Int) : Int :=
  let npts := rget r (EVT_MAP_CFG_NPTS n)
  if npts < 2 then Config.freeInt idx else (chainage map n npts z 0).1

/-- A record of a detection (R246). -/
def detBytes (idx : Nat) (r map : Tab Word) (n : Nat) (cells : List CellE) (d : Det) : List Byte :=
  let x := cells.getD d.cell ⟨0, 0, [], false⟩
  leBytes 4 d.cell ++ leBytes 1 d.kind ++ leBytes 1 d.rule ++ leBytes 1 (rget r (EVT_RULE_CFG_CLASS n d.rule)) ++ leBytes 1 d.h
    ++ leBytes 4 (x.e.getD (ruleBand r n d.rule) 0) ++ leBytes 4 (uenc (evtChainage idx r map n x.zc) 32)

/-- A SWITCH record. -/
def switchBytes (x : Nat × Bool × Nat) : List Byte :=
  leBytes 4 x.1 ++ leBytes 1 3 ++ leBytes 1 x.2.1.toNat ++ leBytes 2 0 ++ leBytes 8 x.2.2

/-- A RESTART record. -/
def restartBytes (r : Tab Word) (n : Nat) : List Byte :=
  leBytes 4 0 ++ leBytes 1 4 ++ leBytes 3 0 ++ leBytes 4 (rget r (PHS_RESTART_EPOCH_EPOCH n)) ++ leBytes 4 0

/-- The header values of an interval's last output, for both frames. -/
structure Stamp where
  shot  : Nat
  gt    : Int
  delay : Nat
  epoch : Nat
  frame : Nat
  sat   : Bool

/-- A frame of the detector: kind 2 EVENT on stream 8 + n, 3 TRACK on stream 12 + n (R245, R253). -/
def State.evtFrame (s : State) (n kind : Nat) (h : Stamp) (fade : Bool) (count : Nat) (payload : List Byte) : Frame :=
  ⟨8 + 4 * (kind - 2) + n, 0, n, kind, 0, s.frameLate n h.frame, h.sat, fade, false, false, h.shot,
    (h.gt % 2 ^ 64).toNat, h.epoch, 0, count, h.delay, payload, none⟩

/-- A frame goes to staging, unless a trip has lost the frame of shots it belongs to (R89). -/
def State.stageWhole (s : State) (n : Nat) (f : Frame) (work : Nat) : State :=
  if (s.f n).isLost work then s else s.stageFor f work

/-- The EVENT frame of an interval, where one is due. Switch edges accepted after the launch of the interval's newest shot
wait for a later frame, so that a late frame holds what the one on time does (R244, R255, log 60). -/
def State.eventOut (s : State) (r map : Tab Word) (n : Nat) (h : Stamp) (cells : List CellE) (dets : List Det) : State :=
  let e := (s.f n).evt
  let due := fun (x : (Nat × Bool × Nat) × Int) => decide (x.2 ≤ h.gt + h.delay)
  let fixed := (if e.restart then [restartBytes r n] else []) ++ (e.sw.filter due).map (fun x => switchBytes x.1)
  let edges := sortDets cells.length (dets.filter (fun d => d.kind != 1))
  let acts := if ron r (EVT_CFG_REPORT_ACTIVE n) then sortDets cells.length (dets.filter (fun d => d.kind == 1)) else []
  let maxRec := rget r (EVT_OUT_CFG_MAX_REC n)
  let keptE := edges.take (maxRec - fixed.length)
  let keptA := acts.take (maxRec - fixed.length - keptE.length)
  let drop := edges.length + acts.length - keptE.length - keptA.length
  let any := !(fixed.isEmpty && edges.isEmpty && acts.isEmpty)
  let out := any || decide (rget r (EVT_OUT_CFG_HEARTBEAT n) ≤ e.empty + 1)
  let s1 := if drop = 0 then s else (s.addSat (EVT_LOSS_CNT_REC n) drop).ev (EVT_EVENTS_REC_DROP n)
  let s2 := if dets.any (fun d => d.kind == 0) then s1.ev (EVT_EVENTS_ONSET n) else s1
  if !out then s2.modF n (fun f => { f with evt := { f.evt with empty := f.evt.empty + 1 } })
  else
    let recs := keptE ++ keptA
    let fade := recs.any (fun d => (cells.getD d.cell ⟨0, 0, [], false⟩).faded)
    let body := fixed.flatten ++ recs.flatMap (detBytes s.freeIdx r map n cells)
    let fr := s.evtFrame n 2 h fade (fixed.length + recs.length) body
    (s2.nextFree.modF n (fun f => { f with evt := { f.evt with
      empty := 0, restart := false, sw := f.evt.sw.filter (fun x => !due x) } })).stageWhole n fr h.frame

/-! ### Measurements (R249) -/

/-- A measurement: position, energy, class. -/
structure Meas where
  z   : Int
  e   : Nat
  cls : Nat
deriving DecidableEq, Repr

/-- A cell that a TRACK rule detects: its index, centre, highest energy, and the rule that gave it (the lowest on a tie). -/
structure Hit where
  cell : Nat
  zc   : Int
  e    : Nat
  rule : Nat

/-- The cells detected by TRACK rules. -/
def hitsOf (r : Tab Word) (n : Nat) (cells : List CellE) (rules : List RuleSt) : List Hit :=
  cells.zipIdx.filterMap (fun x =>
    let ks := (List.range 16).filter (fun k => ron r (EVT_RULE_CFG_TRACK n k) && (rules.getD k RuleSt.empty).det.getD x.2 false)
    ks.foldl (fun (m : Option Hit) k =>
      let e := x.1.e.getD (ruleBand r n k) 0
      match m with
      | none => some ⟨x.2, x.1.zc, e, k⟩
      | some h => if h.e < e then some ⟨x.2, x.1.zc, e, k⟩ else some h) none)

/-- Clusters: cells whose indices differ by at most MERGE + 1. -/
def clustersOf (gap : Nat) : List Hit → List (List Hit)
  | [] => []
  | h :: hs =>
    match clustersOf gap hs with
    | (g :: gs) :: rest => if g.cell ≤ h.cell + gap then (h :: g :: gs) :: rest else [h] :: (g :: gs) :: rest
    | rest => [h] :: rest

/-- The measurement of a cluster. -/
def measOf (r : Tab Word) (n : Nat) (l : List Hit) : Meas :=
  let e := (l.map (·.e)).foldl (· + ·) 0
  let z := if e = 0 then rha ((l.map (·.zc)).foldl (· + ·) 0) l.length
    else rha ((l.map (fun h => (h.e : Int) * h.zc)).foldl (· + ·) 0) e
  let best := l.foldl (fun (m : Option Hit) h =>
    match m with
    | none => some h
    | some b => if b.e < h.e ∨ (h.e = b.e ∧ h.rule < b.rule) then some h else some b) none
  ⟨z, min 0xFFFFFFFF e, match best with | some h => rget r (EVT_RULE_CFG_CLASS n h.rule) | none => 0⟩

/-! ### Tracks (R250 to R252) -/

/-- The nearest measurement within the gate, the lower z on a tie, and the rest. -/
def nearest (xp gate : Int) (ms : List Meas) : Option Meas :=
  ms.foldl (fun (m : Option Meas) x =>
    let d := ((x.z - xp).natAbs : Int)
    if gate < d then m
    else
      match m with
      | none => some x
      | some b =>
        let db := ((b.z - xp).natAbs : Int)
        if d < db ∨ (d = db ∧ x.z < b.z) then some x else some b) none

/-- Settings and interval duration for the tracker. -/
structure TrkCfg where
  dt      : Nat
  gate    : Int
  alpha   : Int
  beta    : Int
  qHit    : Nat
  qMiss   : Nat
  confirm : Nat
  coast   : Nat
  lo      : Int
  hi      : Int

/-- A track takes a measurement, or none (R250, R251). -/
def Track.step (t : Track) (c : TrkCfg) (m : Option Meas) : Track :=
  let xp := t.x + rha (t.v * c.dt) 1000000000
  let t1 := { t with age := min 0xFFFFFFFF (t.age + 1) }
  match m with
  | some z =>
    let e := z.z - xp
    let hits := t.hits + 1
    { t1 with
      x := xp + rha (c.alpha * e) 256
      v := t.v + rha (c.beta * e * 1000000000) (256 * c.dt)
      q := min 255 (t.q + c.qHit), misses := 0, hits := hits, cls := z.cls, energy := z.e
      state := if t.state = 1 ∧ hits < c.confirm then 1 else 2 }
  | none => { t1 with x := xp, q := t.q - c.qMiss, misses := t.misses + 1, state := if t.state = 1 then 1 else 3 }

/-- Is a track deleted after its update? -/
def Track.gone (t : Track) (c : TrkCfg) : Bool :=
  decide (c.coast < t.misses ∨ t.q = 0 ∨ (t.state = 1 ∧ 0 < t.misses) ∨ t.x < c.lo ∨ c.hi ≤ t.x)

/-- Insert a slot in the order of choice: decreasing quality, the lower slot first on a tie. -/
def slotIns (x : Nat × Track) : List (Nat × Track) → List (Nat × Track)
  | [] => [x]
  | y :: ys => if y.2.q < x.2.q then x :: y :: ys else y :: slotIns x ys

/-- Every track chooses in turn: the updated tracks, and the measurements not taken. -/
def assocRun (c : TrkCfg) : List (Nat × Track) → List Meas → List (Nat × Track) × List Meas
  | [], ms => ([], ms)
  | (k, t) :: rest, ms =>
    let m := nearest (t.x + rha (t.v * c.dt) 1000000000) c.gate ms
    let r := assocRun c rest (match m with | some z => ms.erase z | none => ms)
    ((k, t.step c m) :: r.1, r.2)

/-- Insert a measurement in decreasing order of energy. -/
def measIns (x : Meas) : List Meas → List Meas
  | [] => [x]
  | y :: ys => if y.e < x.e then x :: y :: ys else y :: measIns x ys

/-- The lowest free slot of 64. -/
def freeSlot (l : List (Nat × Track)) : Option Nat := (List.range 64).find? (fun k => !(l.any (fun p => p.1 == k)))

/-- New tracks from the measurements left: the tracks, the next ID, and the number refused (R251, R252). -/
def createRun (c : TrkCfg) : List Meas → List (Nat × Track) → Nat → List (Nat × Track) × Nat × Nat
  | [], l, id => (l, id, 0)
  | m :: ms, l, id =>
    match freeSlot l with
    | some k =>
      createRun c ms (l ++ [(k, ⟨id, if c.confirm ≤ 1 then 2 else 1, m.z, 0, c.qHit, 0, 1, m.cls, m.e, 0⟩)]) ((id + 1) % 2 ^ 32)
    | none => let r := createRun c ms l id; (r.1, r.2.1, r.2.2 + 1)

/-- The shot spacing of an output's form: PRI × STRIDE ÷ T (R250, R491). -/
def spacing (r : Tab Word) (n : Nat) (sent : Option SentForm) : Nat :=
  let p := formOf r n sent
  priOf r n * p.2 / p.1

/-- The tracker's settings for an interval. -/
def trkCfgOf (r : Tab Word) (n : Nat) (sent : Option SentForm) (cells : List CellE) : TrkCfg :=
  let cb : Int := cellOf r n * binOf r n
  let last := (cells.getLast?.map (·.zc)).getD 0
  ⟨2 ^ eiLog2 r n * ratioOf r n * spacing r n sent, 256 * rget r (EVT_TRK_CFG_GATE n), rget r (EVT_TRK_CFG_ALPHA n),
    rget r (EVT_TRK_CFG_BETA n), rget r (EVT_TRK_LIFE_Q_HIT n), rget r (EVT_TRK_LIFE_Q_MISS n),
    rget r (EVT_TRK_LIFE_CONFIRM n), rget r (EVT_TRK_LIFE_COAST_MAX n), 256 * (pStartOf r n : Int), last + 128 * cb⟩

/-! ### TRACK frames (R253, R254, R259, R267) -/

/-- Chainage and chainage speed fields of a position, and OUT_OF_MAP. -/
def chainFields (r map : Tab Word) (n : Nat) (x v : Int) : Nat × Nat × Bool :=
  let npts := rget r (EVT_MAP_CFG_NPTS n)
  if npts < 2 then (0x80000000, 0x80000000, false)
  else let c := chainage map n npts x v; (uenc c.1 32, uenc c.2.1 32, c.2.2)

/-- A track record in slot k with a state code. -/
def trackBytes (r map : Tab Word) (n k : Nat) (t : Track) (code : Nat) : List Byte :=
  let c := chainFields r map n t.x t.v
  leBytes 4 t.id ++ leBytes 1 k ++ leBytes 1 (code + if c.2.2 then 128 else 0) ++ leBytes 1 t.cls ++ leBytes 1 t.q
    ++ leBytes 4 (uenc t.x 32) ++ leBytes 4 (uenc t.v 32) ++ leBytes 4 c.1 ++ leBytes 4 c.2.1 ++ leBytes 4 t.energy
    ++ leBytes 4 t.age

/-- Count and speed of an encoder input at grid time t from its history, newest first, and QIN_STALE (R267). What the manual
leaves open, a time newer than the newest record and an empty history, is free (log 1). -/
def qinAt (idx : Nat) (t : Int) : List (Int × Nat × Int) → Int × Int × Bool
  | [] => (Config.freeInt idx, Config.freeInt (idx + 1), true)
  | (g, p, v) :: rest =>
    if g = t then (p, v, false)
    else if g < t then (Config.freeInt idx, Config.freeInt (idx + 1), false)
    else
      match rest with
      | [] => (p, v, true)
      | (g0, p0, v0) :: _ =>
        if g0 ≤ t then (rhaI ((p0 : Int) * (g - g0) + wrap32 ((p : Int) - p0) * (t - g0)) (g - g0), v0, false) else qinAt idx t rest

/-- The registration record of a track (R254, R259). -/
def State.regBytes (s : State) (r map : Tab Word) (n k : Nat) (t : Track) (tI : Int) : List Byte :=
  let i := rget r (EVT_REG_CFG_QIN n)
  let q := qinAt s.freeIdx tI (s.qin i).hist
  let c := chainFields r map n t.x t.v
  leBytes 4 t.id ++ leBytes 1 k ++ leBytes 1 8 ++ leBytes 1 i ++ leBytes 1 q.2.2.toNat ++ leBytes 4 (uenc t.x 32)
    ++ leBytes 4 (uenc t.v 32) ++ leBytes 4 (uenc q.1 32) ++ leBytes 4 (uenc q.2.1 32)
    ++ leBytes 4 (uenc (qinChainage r i (uenc q.1 32)) 32) ++ leBytes 4 c.1

/-- The TRACK frame of an interval, where one is due. -/
def State.trackOut (s : State) (r map : Tab Word) (n : Nat) (h : Stamp) (tracks gone : List (Nat × Track)) : State :=
  let e := (s.f n).evt
  let reg := if ron r (EVT_REG_CFG_EN n) then
      tracks.find? (fun p => p.2.id == rget r (EVT_REG_ID_ID n) && p.2.state == 2)
    else none
  let turn := decide (rget r (EVT_OUT_CFG_TRK_EVERY n) ≤ e.since + 1)
  let s1 := s.modF n (fun f => { f with evt := { f.evt with since := if turn then 0 else f.evt.since + 1 } })
  if turn || !gone.isEmpty || reg.isSome then
    let shown := tracks.filter (fun p => p.2.state != 1 || ron r (EVT_CFG_TENT_OUT n))
    let recs := (List.range 64).flatMap (fun k =>
      (gone.filter (fun p => p.1 == k)).map (fun p => trackBytes r map n k p.2 4)
        ++ (shown.filter (fun p => p.1 == k)).map (fun p => trackBytes r map n k p.2 p.2.state))
    let all := recs ++ (match reg with | some p => [s.regBytes r map n p.1 p.2 h.gt] | none => [])
    s1.nextFree.nextFree.stageWhole n (s.evtFrame n 3 h false all.length all.flatten) h.frame
  else s1

/-- The tracker runs at an interval. -/
def State.trackRun (s : State) (r map : Tab Word) (n : Nat) (h : Stamp) (sent : Option SentForm) (cells : List CellE)
    (rules : List RuleSt) : State :=
  let e := (s.f n).evt
  let c := trkCfgOf r n sent cells
  let ms := (clustersOf (rget r (EVT_TRK_LIFE_MERGE n) + 1) (hitsOf r n cells rules)).map (measOf r n)
  let old := e.tracks.zipIdx.filterMap (fun x => x.1.map (fun t => (x.2, t)))
  let res := assocRun c (old.foldl (fun l x => slotIns x l) []) ms
  let gone := res.1.filter (fun p => p.2.gone c)
  let kept := res.1.filter (fun p => !p.2.gone c)
  let made := createRun c (res.2.foldl (fun l m => measIns m l) []) kept (s.get (EVT_NEXT_ID_ID n))
  let now := made.1
  let conf := kept.any (fun p => p.2.state == 2 && old.any (fun o => o.1 == p.1 && o.2.state == 1))
    || (decide (c.confirm ≤ 1) && decide (kept.length < now.length))
  let flag := fun (b : Bool) (f : FRef) (s : State) => if b then s.ev f else s
  let s1 := (s.set (EVT_NEXT_ID_ID n) made.2.1).modF n (fun f => { f with evt := { f.evt with
    tI := h.gt
    tracks := (List.range 64).map (fun k => (now.find? (fun p => p.1 == k)).map (·.2)) } })
  let s2 := flag (decide (kept.length < now.length)) (EVT_EVENTS_TRACK_NEW n) s1
  let s3 := flag (!gone.isEmpty) (EVT_EVENTS_TRACK_DEL n) (flag conf (EVT_EVENTS_TRACK_CONF n) s2)
  let s4 := if made.2.2 = 0 then s3 else (s3.addSat (EVT_LOSS_CNT_FULL n) made.2.2).ev (EVT_EVENTS_TRACK_FULL n)
  s4.trackOut r map n h now gone

/-! ### ENERGY_INTERVAL_END -/

/-- A wake detection moves SENTINEL to INTERROGATE (R248, R487, R492). -/
def State.wakeDetect (s : State) (r : Tab Word) (n : Nat) (sent : Option SentForm) (dets : List Det) : State :=
  if s.mode = 4 ∧ s.on PWR_SENT_CFG_WAKE_EN ∧ !s.changing ∧ sent.isSome ∧
      dets.any (fun d => d.kind == 0 && ron r (EVT_RULE_CFG_WAKE n d.rule)) then
    (s.ev PWR_EVENTS_WAKE).enterMode 3
  else s

/-- The interval that ends with an output just taken is evaluated, with the settings and the map in force for it (R255,
R257). -/
def State.evtEval (s : State) (n : Nat) (x : EvtOut) : State :=
  let r := x.regs
  let h : Stamp := ⟨x.shot, x.gt, x.delay, x.epoch, x.frame, false⟩
  let e := (s.f n).evt
  let cells := e.cells r n
  let warm := decide (e.count < 2 ^ rget r (EVT_CFG_BG_SHIFT n))
  let res := (List.range 16).map (fun k => ruleStep r n k h.gt warm cells e.bg (e.rules.getD k RuleSt.empty))
  let rules := res.map (·.1)
  let dets := res.flatMap (·.2)
  let h1 := { h with sat := h.sat || e.sat }
  let s1 := s.modF n (fun f => { f with evt := { f.evt with
    bands := f.evt.bands.map (fun l => l.map (fun b => { b with acc := 0 }))
    faded := [], sat := false, rules := rules, bg := bgStep r n cells rules e.bg, count := f.evt.count + 1 } })
  let s2 := s1.eventOut r x.map n h1 cells dets
  let s3 := if ron r (EVT_CFG_TRK_EN n) then s2.trackRun r x.map n h1 x.sent cells rules else s2
  (((s3.evtShow n).encCheck n).wakeDetect r n x.sent dets)

/-- ENERGY_INTERVAL_END: the interval whose last output has been taken. -/
def State.energyEnd (s : State) (n : Nat) : State :=
  match (s.f n).evt.q with
  | .out x :: q => if s.stagingFull n x.frame then s else evtAdvance n q (s.evtEval n x)
  | _ => s

end Sys2Proof.Machine
end

