-- ==== Sys2Proof/Machine/Power.lean ====
section
/-! DEFINITION. Power and reset (chapters 00, 14, 15): the rails, cold and warm reset, power-down, SET_MODE, wake sources, the
always-on island, and the commands of the NV store. The steps of a boot stand in Boot.lean. -/

namespace Sys2Proof.Machine

/-! ### Is the main domain up? -/

/-- After a wake from L5 the rails are up, and step 5 decides how the device goes on (R500). -/
def State.resuming (s : State) : Bool := s.pwr.aon && !s.pwr.porst && decide (s.ladder = 5 ∧ s.pwr.step = 5)

/-- An event of the main domain at an instant: nothing happens while the domain is down. -/
def State.main (s : State) (t : Nat) (f : State → State) : State :=
  let s1 := s.at t
  if s1.mainUp then f s1 else s1

/-- An event of the signal fabric: it stands in SAFE_HOLD (R429). -/
def State.fabric (s : State) (t : Nat) (f : State → State) : State := s.main t (fun s => if s.mode = 7 then s else f s)

/-- Is the Safe-Hold latch set (R428)? -/
def State.latched (s : State) : Bool := s.flt.faultN

/-- Is FAULT_N driven low: as the latch sets it, and released while its supply VDD_AON is off (R527)? -/
def State.faultPin (s : State) : Bool := s.pwr.aon && s.latched

/-! ### Resets (R14, R509, R510, R548, R552) -/

/-- The register file after a reset that keeps some kinds of field. -/
def keepRegs (r : Tab Word) (p : Acc → Bool) : Tab Word :=
  r.foldl (fun t e =>
    match regAt e.1 with
    | some spec => tput (resetOf e.1) t e.1 (mergeWord (resetOf e.1) e.2 (spec.mask p))
    | none => t) []

/-- Field kinds a cold reset keeps, and those a warm reset keeps (R14, R503, R552). -/
def keptCold : Acc → Bool
  | .aon | .aonro => true
  | _ => false
def keptWarm : Acc → Bool
  | .rws | .rok | .aon | .aonro => true
  | _ => false

/-- SAFE_N follows its pin through every reset (R85). -/
def State.safeFollow (s : State) : State := if s.safeN then s.safeLow else s

/-- The sources of rails that are below their thresholds present (1,0) (R522, R555). -/
def State.railsHold (s : State) : State :=
  let s1 := if s.pwr.low.testBit 4 then s.present 9 else s
  if s.pwr.low % 16 = 0 then s1 else s1.present 10

/-- Cold reset of the main domain. The mode is the one given; the always-on island, the NV store, the Safe-Hold latch with
SH_CAUSE and the containment copy, host memory and the pins stay; a new challenge is drawn (R484); grid time is 0 (R14,
R59). -/
def State.coldReset (s0 : State) (mode : Nat) : State :=
  let s := s0.nvCut
  let s1 : State := { State.reset with
    pending := s.pending, now := s.now, gtOff := -(s.now : Int), freeIdx := s.freeIdx
    regs := keepRegs s.regs keptCold, hostMem := s.hostMem, outbox := s.outbox, safeN := s.safeN
    wmn := s.wmn.map (fun (w : WeirSt) => { WeirSt.init with level := w.level })
    flt := { FltSt.init with faultN := s.flt.faultN, fatal := s.flt.fatal, aonCopy := s.flt.aonCopy }
    pwr := { s.pwr with chal := s.pwr.chal + 1, appUp := false, bootFail := false, gnowaBad := false, step := 5, shown := false }
    nvs := s.nvs }
  ((s1.set PWR_MODE_MODE mode).setB FLT_STATUS_SAFE_HOLD s.latched).railsHold

/-- A fibre engine after a warm reset: it is stopped, and its anchor is fixed at its next arming in grid mode (R41, R552).
That REF_TEMP was written since the cold reset, and when last, is kept; its value is back at 0 (R14, R214, R215). -/
def FeSt.warm (f : FeSt) (epoch : Nat) : FeSt :=
  { FeSt.init with
    anchorS := f.anchorS, anchorT := f.anchorT, lastExt := f.lastExt, needAnchor := true, lastNum := f.lastNum
    gatePol := f.gatePol, dutyWin := f.dutyWin, syncAt := f.syncAt, clampWin := f.clampWin, epoch := epoch
    dts := { DtsSt.init with temps := (f.dts.temps.take 1).map (fun p => (p.1, 0)) } }

/-- Commands in work at a warm reset end without a completion; their ids stay in the duplicate windows with a free result
(R332, log 1). -/
def RingSt.warm (r : RingSt) (res : Nat) : RingSt :=
  { dup := r.dup.map (fun e => if e.done then e else ⟨e.id, res, 0, true, []⟩), running := [], fence := none, cleared := [] }

/-- Warm reset (R509): every fibre engine stops at once, work in flight is abandoned, staged frames and the spillway stay,
admitted images stay, and the boot runs from step 7, or goes on where step 6 is not complete, as it never is where both
slots of the Gnowa monitor failed (R508). In SAFE_HOLD every field takes its reset value too (R14), and the mode, the latch
and the trips stay (R429, R510); no boot follows. SYNC_OUT and LAUNCH_OUT are low in reset (R527). -/
def State.warmReset (s00 : State) (cause : Nat) : State :=
  if s00.mode = 0 then s00
  else
    let hold := s00.mode == 7
    let fail6 := s00.pwr.bootFail && s00.pwr.gnowaBad
    let early := s00.pwr.step == 5 || s00.pwr.step == 6 || fail6 || hold
    let s0 := s00.ladderUp.nvCut
    let old := s0.regs
    let m0 := s0.mode
    let s1 : State := { s0.nextFree with
      regs := keepRegs s0.regs keptWarm, snaps := []
      fe := s0.fe.map (fun f => f.warm (s0.get SCH_EPOCH_EPOCH))
      tim := { s0.tim with syncOutEnd := 0, launchOutEnd := 0 }
      acq := AcqSt.init, trk := TrkSt.init
      sch := { s0.sch with loading := none, groups := Vector.replicate 8 none, sentTb := [] }
      wmn := s0.wmn.map (fun (w : WeirSt) => { WeirSt.init with level := w.level })
      flt := { s0.flt with window := none, inj := none, recover := none }
      mem := { s0.mem with dump := none }
      hif := { s0.hif with
        rings := s0.hif.rings.map (fun (r : RingSt) => r.warm (Config.freeNat s0.freeIdx % 65536))
        strs := s0.hif.strs.map (fun (x : StrSt) => { x with descs := [], buf := none })
        intRing := Vector.replicate 4 [], diverted := Vector.replicate 4 false, detachCmd := [], dormCmd := none }
      pwr := { s0.pwr with
        appUp := false, bootFail := fail6, step := if early then s0.pwr.step else 7
        wakeAt := if early then s0.pwr.wakeAt else s0.now } }
    let s2 := (List.range 4).foldl (fun s w =>
      s.setReg (FLT_PREV_STICKY w) (tget (resetOf (FLT_STICKY w)) old (FLT_STICKY w))) s1
    let s3 := if hold then (s2.set PWR_MODE_MODE 7).setB FLT_STATUS_SAFE_HOLD s2.latched
      else (s2.set PWR_MODE_PREV m0).set PWR_MODE_MODE 1
    let s4 := if fail6 then (s3.set PWR_BOOT_STATUS_CODE 2).set NVS_WP_WP 0x030 else s3
    let s5 := (s4.set SYS_RESET_CAUSE_LAST cause).pmcWarm.recontain
    (if hold then (List.range 4).foldl (fun s n => s.trip n 4) s5 else s5).safeFollow

/-! ### The rails (R486, R499, R504, R524) -/

/-- Enables that are high: those of the steps begun, or all four of a main domain that is up (R504). PWR_EN0 waits for the
end of the hold of R525. -/
def State.enables (s : State) : Nat :=
  if 1 ≤ s.pwr.step ∧ s.pwr.step ≤ 4 then (if s.pwr.step = 1 ∧ s.now < s.pwr.stepAt then 0 else s.pwr.step)
  else if s.pwr.good = 15 then 4 else 0

/-- The instant from which the enables may rise after a power-down begun now, whose falls take `gap` ns from one to the next:
20 ms after the last of them (R504, R525; log 85). -/
def State.enableFrom (s : State) (gap : Nat) : Nat :=
  if s.enables = 0 then s.pwr.enableAt else s.now + (s.enables - 1) * gap + 20000000

/-- The main rails go off, into DORMANT: L6, with every enable low. What the main domain held is lost; the link goes with
it, and grid time resumes from an arbitrary value (R21, log 1). -/
def State.powerDown (s : State) : State :=
  let t : State := { s with pwr := { s.pwr with low := 0 } }
  let s0 := t.resAcc.coldReset 0
  let s1 := { s0.nextFree with gtOff := Config.freeInt s0.freeIdx }
  { (s1.set PWR_MODE_PREV s.mode).set PWR_MODE_LADDER 6 with
    pwr := { s1.pwr with step := 0, enableAt := s.enableFrom 1000000, good := 0 } }

/-- In DORMANT the power-down sequence begins once the completion of SET_MODE is confirmed and every disarm that waited has
taken effect: a fibre engine arming or armed holds L3 (R83, R486). -/
def State.dormGo (s : State) : State :=
  if s.mode = 0 ∧ s.hif.dormCmd.isNone ∧ !s.anyBusy then s.powerDown else s

/-- Entry to L5: the main rails go off, the mode stays, and the register snapshot is kept in the fast-boot region (R494,
R500). DRAM and Berm contents are lost, and with them the outputs that wait in staging (R452). -/
def State.enterL5 (s : State) : State :=
  let s1 := ((s.bgDiscard.resAcc.set PWR_MODE_LADDER 5).set MEM_STATUS_INIT_DONE 0).set BRM_STATUS_INIT_DONE 0
  { s1.clockFree with
    pwr := { s1.pwr with appUp := false, step := 0, enableAt := s.enableFrom 1000000, good := 0, low := 0 }
    mem := { MemSt.init with share := s.mem.share }
    fe := s1.fe.map (fun f => f.bermZero (fun _ => true)), hif := { s1.hif with staged := [] } }

/-- An entry of the ladder in a mode that has one (R495, R497). -/
def State.ladderSink (s : State) : State :=
  if s.ladder = 0 ∧ s.ladderPick = 5 then ((List.range 4).foldl (fun s n => s.dtsDiscard n none) s).enterL5 else s.ladderEnter

/-- LADDER_ENTRY, with L5 (R497), and in DORMANT with L6 (R486). -/
def State.ladderEntry (s : State) : State := if s.mode = 0 then s.dormGo else s.ladderSink

/-- The power-up sequence begins at a wake (R500, R506): DORMANT goes to BOOT, L5 keeps its mode. Its enables wait for the
end of the hold of R525. RESET_CAUSE shows a power-up of VDD_AON, or one of the main rails (R516). -/
def State.powerUp (s : State) (src : Nat) : State :=
  let s1 := s.set PWR_WAKE_CAUSE_SOURCE src
  let s2 := (if s.mode = 0 then ((s1.modeReg 1).resAcc).set PWR_MODE_LADDER 0 else s1).set SYS_RESET_CAUSE_LAST (if src = 0 then 0 else 1)
  { s2 with pwr := { s2.pwr with step := 1, wakeAt := s.now, stepAt := max s.now s.pwr.enableAt } }

/-- A wake source acts: in L4 the exit to L0, in L5 and in DORMANT the power-up sequence (R500). `l5` and `l6` say whether the
source wakes from there. -/
def State.wake (s : State) (src : Nat) (l5 l6 : Bool) : State :=
  if !s.pwr.aon ∨ 1 ≤ s.pwr.step then s
  else if s.mode = 0 then (if l6 && decide (s.ladder = 6) then s.powerUp src else s)
  else if s.ladder = 5 then (if l5 then s.powerUp src else s)
  else if s.ladder = 4 then (s.set PWR_WAKE_CAUSE_SOURCE src).ladderUp
  else s

/-- Ticks of the RTC since RTC_EN (R517). -/
def State.rtcTicks (s : State) : Nat :=
  match s.pwr.rtcAt with
  | some t => (s.now - t) * 32768 / 1000000000 % 2 ^ 64
  | none => 0

/-- RTC_ALARM: the alarm count is reached. -/
def State.rtcWake (s : State) : State :=
  if s.on PWR_WAKE_CFG_RTC_EN ∧ s.get2 PWR_ALARM_LO_TICKS PWR_ALARM_HI_TICKS ≤ s.rtcTicks then s.wake 2 true true else s

/-- A power step in ns. -/
def State.stepNs (s : State) : Nat := 1000000 * s.get PWR_SEQ_CFG_STEP_MS

/-- POWER_SEQUENCE_STEP: STEP_MS after a step its rails are checked; where they are good their monitors are armed and the next
enable follows (R504, R523). With the last the main domain is up, and SAFE_N asserts the trip inputs while it is low (R85). -/
def State.powerStep (s : State) (good : Bool) : State :=
  let k := s.pwr.step
  if s.pwr.aon ∧ 1 ≤ k ∧ k ≤ 4 ∧ good ∧ s.pwr.stepAt + s.stepNs ≤ s.now then
    let s1 : State := { s with pwr := { s.pwr with
      step := k + 1, stepAt := s.now, good := s.pwr.good ||| 2 ^ (k - 1), shown := true } }
    if k = 4 then s1.safeFollow else s1
  else s

/-- RAIL_FAIL: a rail misses its threshold 10 ms after its step (R505). -/
def State.railFail (s : State) : State :=
  let k := s.pwr.step
  if s.pwr.aon ∧ 1 ≤ k ∧ k ≤ 4 ∧ s.pwr.stepAt + 10000000 ≤ s.now then
    (s.powerDown.set PWR_BOOT_STATUS_CODE 1).set PWR_EVENTS_RAIL_FAIL 1
  else s

/-! ### PORST_N, PERST_N, VDD_AON (R8, R524, R528, R540) -/

/-- PORST_N goes low: a cold reset while the main rails are up, at step 5 of a wake from L5 too (R510, R528). -/
def State.porstLow (s : State) : State :=
  let up := s.pwr.aon && !s.pwr.porst && decide (s.pwr.good = 15) && !decide (1 ≤ s.pwr.step ∧ s.pwr.step ≤ 4)
  let s1 := if up then (s.resAcc.coldReset (if s.latched then 7 else 1)).set SYS_RESET_CAUSE_LAST 2 else s
  { s1 with pwr := { s1.pwr with porst := true, wakeAt := if up then s.now else s1.pwr.wakeAt } }

/-- PORST_N rises: step 5 may begin, and SAFE_N asserts the trip inputs of a main domain that is up while it is low (R85). -/
def State.porstHigh (s : State) : State :=
  let s1 := { s with pwr := { s.pwr with porst := false } }
  if s1.mainUp then s1.safeFollow else s1

/-- The level of PERST_N changes (R540). -/
def State.perstPin (s : State) (low : Bool) : State := { s with pwr := { s.pwr with perst := low } }

/-- PERST_N goes low: the LTSSM enters Detect, which ends the link; while ATTACHED a warm reset follows (R349, R352, R540). -/
def State.perstLow (s : State) : State :=
  let s1 := s.linkLost.detached 0
  if s.attach = 0 then s1.warmReset 3 else s1

/-- VDD_AON falls: the island is held in reset, and the enables drop without sequencing. -/
def State.aonFall (s : State) : State :=
  if s.pwr.aon then
    let s1 := s.powerDown
    { s1 with pwr := { s1.pwr with aon := false, enableAt := s.enableFrom 0 } }
  else s

/-- VDD_AON rises: the always-on registers take their reset values, and DORMANT is entered, or left at once with AUTO_BOOT
(R482, R503, R524). FLT.SH_CAUSE is held with the latch (R8). -/
def State.aonRise (s : State) : State :=
  if s.pwr.aon then s
  else
    let s1 := { s with
      regs := (keepRegs s.regs (fun _ => true)).filter (fun e => e.1 / 0x10000 != 1)
      pwr := { PwrSt.init with
        chal := s.pwr.chal, porst := s.pwr.porst, perst := s.pwr.perst, step := 0, since := s.now, wakeAt := s.now
        enableAt := s.pwr.enableAt } }
    let s2 := ((s1.set PWR_MODE_MODE 0).set PWR_MODE_LADDER 6).set SYS_RESET_CAUSE_LAST 0
    if s2.on PWR_WAKE_CFG_AUTO_BOOT then s2.powerUp 0 else s2

/-- VDD_AON has been below 0.5 V for 10 ms: the Safe-Hold latch, SH_CAUSE and the containment copy are cleared (R8, R427). -/
def State.safeHoldClear (s : State) : State :=
  if s.pwr.aon then s
  else
    { ((s.setReg FLT_SH_CAUSE 0).set FLT_STATUS_SAFE_HOLD 0) with flt := { s.flt with faultN := false, aonCopy := 0 } }

/-! ### SET_MODE, SET_LATENCY, DETACH (R353, R483, R486, R498) -/

/-- SET_MODE executes: the checks of R483 in order, then the transition; VALUE is the mode in force. DORMANT waits for the
confirmation of its completion and for disarms before power-down, and ends a boot (R83, R486). -/
def State.setMode (s : State) (c : Cmd) (m addr : Nat) (tok : Option TokenRead) : State :=
  let go := fun (s : State) =>
    let s1 := (s.enterMode m).complete c 0 m
    if m = 0 then
      let s2 := { s1 with pwr := { s1.pwr with step := 0 } }
      if c.ring < 16 then { s2 with hif := { s2.hif with dormCmd := some c } } else s2.dormGo
    else s1
  if m = s.mode then s.complete c 0 s.mode
  else if s.changing then s.complete c 3 s.mode
  else if !modeLegal s.mode m then s.complete c 1 s.mode
  else if s.needsToken m then
    if addr = 0 then s.complete c 2 s.mode
    else
      match tok with
      | none => s.complete c 4 s.mode
      | some k => if s.tokenOk k then go (s.verifyToken k) else (s.verifyToken k).complete c 2 s.mode
  else go s

/-- SET_LATENCY executes (R498). -/
def State.setLatency (s : State) (c : Cmd) (ns : Nat) : State :=
  (s.set2 PWR_LAT_TOL_LO_NS PWR_LAT_TOL_HI_NS ns).complete c 0 (tolDepth ns)

/-- DETACH executes: the device detaches once the completion is confirmed (R353). An internal ring's needs no confirmation. -/
def State.detachStart (s : State) (c : Cmd) : State :=
  let s1 := s.complete c 0 0
  if c.ring < 16 then { s1 with hif := { s1.hif with detachCmd := s1.hif.detachCmd ++ [c] } } else s1.detached 1

/-- COMPLETION_CONFIRMED: the confirming read of the oldest unconfirmed completion of ring k finishes (R341); DETACH detaches
and SET_MODE DORMANT powers down. -/
def State.confirmed (s : State) (k : Nat) : State :=
  match (s.cplRing k).unconf with
  | [] => s
  | x :: rest =>
    let s1 := s.setCplRing k { s.cplRing k with unconf := rest }
    if x.status ≠ 0 then s1
    else if s.hif.dormCmd = some x.cmd then { s1 with hif := { s1.hif with dormCmd := none } }.dormGo
    else if x.cmd ∈ s.hif.detachCmd then
      { s1 with hif := { s1.hif with detachCmd := s1.hif.detachCmd.filter (· != x.cmd) } }.detached 1
    else s1

/-! ### The NV store (R512 to R515) -/

/-- Offset and size of each region. -/
def nvRegions : List (Nat × Nat) :=
  [(0, 0x4000), (0x4000, 0x4000), (0x8000, 0x18000), (0x20000, 0x18000), (0x38000, 0x80000), (0xB8000, 0x80000),
    (0x138000, 0x4000), (0x13C000, 0x80000), (0x1BC000, 0x44000)]

/-- The region that holds a range. -/
def nvRegion (off len : Nat) : Option Nat :=
  (nvRegions.zipIdx.find? (fun r => decide (r.1.1 ≤ off ∧ off < r.1.1 + r.1.2 ∧ off + len ≤ r.1.1 + r.1.2))).map (·.2)

/-- The region an offset lies in, for NVS.LAST. -/
def nvRegionAt (off : Nat) : Nat := (nvRegion off 0).getD 0

/-- An NV command ends: LAST shows its code and region. -/
def State.nvEnd (s : State) (c : Cmd) (off code value : Nat) : State :=
  ((s.set NVS_LAST_CODE code).set NVS_LAST_REGION (nvRegionAt off)).complete c code value

/-- NV_WRITE executes: the checks of R514, then the write runs. -/
def State.nvWrite (s : State) (c : Cmd) (off len : Nat) (data : Option (List Byte)) : State :=
  match (if off % 8 = 0 then nvRegion off len else none) with
  | none => s.nvEnd c off 1 0
  | some r =>
    if !(s.get NVS_WP_WP).testBit r then (s.ev NVS_EVENTS_PROT).nvEnd c off 2 0
    else
      match data with
      | none => s.nvEnd c off 3 0
      | some d =>
        if s.nvs.wr.isSome then s.nvEnd c off 5 0
        else { s with nvs := { s.nvs with wr := some ⟨c, off, d.take len, s.now⟩ } }

/-- NV_WRITE_DONE: the write ends after 2 ms per KiB (R515). After a failed verification a free number of words is new
(log 1). -/
def State.nvDone (s : State) (ok : Bool) : State :=
  match s.nvs.wr with
  | none => s
  | some w =>
    if s.now < w.from_ + 2000000 * w.data.length / 1024 then s
    else if ok then
      let s1 := s.nvPut w.off w.data
      (({ s1 with nvs := { s1.nvs with wr := none } }.ev NVS_EVENTS_WR_DONE)).nvEnd w.cmd w.off 0 w.data.length
    else (s.nvCut.ev NVS_EVENTS_VERIFY_FAIL).nvEnd w.cmd w.off 4 (8 * (Config.freeNat s.freeIdx % (w.data.length / 8 + 1)))

/-- Corrected and uncorrectable reads of the store (R512). -/
def State.nvErrs (s : State) (corrected : Nat) (ue : Bool) : State :=
  let s1 := if corrected = 0 then s else ((s.addSat NVS_CE_CNT_COUNT corrected).ev NVS_EVENTS_CE).present 82
  if ue then ((s1.addSat NVS_UE_CNT_COUNT 1).ev NVS_EVENTS_UE).present 83 else s1

/-- NV_READ executes: an uncorrectable word ends it, with the words before it transferred (R514). -/
def State.nvRead (s : State) (c : Cmd) (addr off len : Nat) (dmaOk : Bool) (corrected : Nat) (bad : Option Nat) : State :=
  match (if off % 8 = 0 then nvRegion off len else none) with
  | none => s.nvEnd c off 1 0
  | some _ =>
    let n := match bad with | some w => min len (8 * w) | none => len
    let s1 := s.nvErrs corrected bad.isSome
    if !dmaOk then s1.nvEnd c off 3 0
    else (s1.dmaWrite addr (s1.nvBytes off n)).nvEnd c off (if bad.isSome then 6 else 0) n

/-- A rail dips below its falling threshold for 1 µs: a fault source, where the monitors of its group are armed (R522, R523);
its group is not good until the source clears. -/
def State.railDip (s : State) (rail : RailDip) : State :=
  let k := if rail.core then 0 else rail.group.val
  if s.pwr.aon && s.railGroup k then
    { s with pwr := { s.pwr with low := s.pwr.low ||| 2 ^ (if rail.core then 4 else k) } }.present (if rail.core then 9 else 10)
  else s

/-- SOURCE_CLEARED: a rail is good again, and the source clears (R522, R555). -/
def State.srcCleared (s : State) (i : Nat) : State :=
  let low := if i = 9 then s.pwr.low % 16 else if i = 10 then s.pwr.low - s.pwr.low % 16 else s.pwr.low
  { s with pwr := { s.pwr with low := low } }.srcClear i

end Sys2Proof.Machine
end

