-- ==== Sys2Proof/Machine/FaultCmds.lean ====
section
/-! DEFINITION. Events of the fault collector (chapter 12). -/

namespace Sys2Proof.Machine

/-- FAULT_CAPTURE (R418 to R435); in L5 only AON_LATCH is checked (R502). A capture of LNC_ENV_CLAMP finds the clamps counted
(log 76). -/
def execFaultCapture (t : Nat) (src : Fin 128) (s : State) : Host.Outcome State Fault Refusal :=
  .next (if src.val = 6 ∧ (s.at t).ladder = 5 then (s.at t).aonLatch else
    s.main t (fun s => ((if 24 ≤ src.val ∧ src.val < 28 then s.lncSync (src.val - 24) else s).faultCapture src)))

/-- WIRE_FAULT (R419). -/
def execWireFault (t : Nat) (src : Fin 128) (s : State) : Host.Outcome State Fault Refusal :=
  .next (s.main t (fun s => s.wireCapture src))

/-- WINDOW_CLOSE (R432, R434, R443). -/
def execWindowClose (t : Nat) (s : State) : Host.Outcome State Fault Refusal := .next (s.main t State.windowClose)

/-- INJECTION_WINDOW_END (R440, R442). -/
def execInjectionWindowEnd (t : Nat) (realError : Bool) (s : State) : Host.Outcome State Fault Refusal :=
  .next (s.main t (fun s => s.injEnd realError))

/-- FLT_SELFTEST: a failed self-test raises source 5 (R431). -/
def execFltSelftest (t : Nat) (pass : Bool) (s : State) : Host.Outcome State Fault Refusal :=
  .next (s.main t (fun s => if pass then s else s.present 5))

/-- POL_WDT raises source 4 (R431). -/
def execPolWdt (t : Nat) (s : State) : Host.Outcome State Fault Refusal := .next (s.main t (fun s => s.present 4))

/-- APP_WDT raises source 23 (R431). -/
def execAppWdt (t : Nat) (s : State) : Host.Outcome State Fault Refusal := .next (s.main t (fun s => s.present 23))

/-- SOURCE_CLEARED (R436, R437, R555). -/
def execSourceCleared (t : Nat) (src : Fin 128) (s : State) : Host.Outcome State Fault Refusal :=
  .next (s.main t (fun s => s.srcCleared src))

/-- APP_CORES_RELEASED (R439, R554). -/
def execAppCoresReleased (t : Nat) (s : State) : Host.Outcome State Fault Refusal := .next (s.main t State.appReleased)

end Sys2Proof.Machine
end

