-- ==== Sys2Proof/Machine/Sched.lean ====
section
/-! DEFINITION. Schedule images (R280 to R292, R448, R456 to R458): admission and release, the limits of the covering image;
lateness and the staging area (R293 to R298). -/

namespace Sys2Proof.Machine

/-! ### The contract record as bytes (R283, R284) -/

/-- The little-endian number in n bytes from offset o. -/
def fieldAt (b : List Byte) (o n : Nat) : Nat := leVal ((b.drop o).take n)

/-- The fibre engines of a mask, in ascending order. -/
def feList (mask : Nat) : List Nat := (List.range 4).filter (fun n => mask.testBit n)

/-- A fibre-engine part. -/
def partOf (fe : Nat) (b : List Byte) : FePart where
  fe := fe
  priMin := fieldAt b 0 4
  winMax := fieldAt b 4 4
  phsNbinsMax := fieldAt b 8 4
  nMax := fieldAt b 12 2
  tMax := fieldAt b 14 1
  nbMax := fieldAt b 15 1
  ratioMin := fieldAt b 16 1
  orderMax := fieldAt b 17 1
  ntapsMax := fieldAt b 18 2
  dtsNbinsMax := fieldAt b 20 4
  nbandsMax := fieldAt b 24 1
  rulesMax := fieldAt b 25 1
  tracker := fieldAt b 26 1
  lanesFe := fieldAt b 27 1
  w := fieldAt b 32 8
  c := fieldAt b 40 8
  freeboard := fieldAt b 48 4
  fNs := fieldAt b 52 4
  lMax := fieldAt b 56 4
  k := fieldAt b 60 1
  commitNs := fieldAt b 64 4
  boundNs := fieldAt b 68 4
  boundKNs := fieldAt b 72 4
  hostMbps := fieldAt b 76 4

/-- The image that an ImageRead describes. -/
def imageOf (i : ImageRead) : Image where
  feMask := fieldAt i.general 6 1
  refReserve := fieldAt i.general 7 1
  lanes := fieldAt i.general 8 12
  berm := fieldAt i.general 24 8
  dramShare := fieldAt i.general 32 2
  mtsMin := fieldAt i.general 34 2
  spillMbps := fieldAt i.general 36 4
  tool := fieldAt i.general 40 4
  parts := (List.zip (feList (fieldAt i.general 6 1)) i.parts).map (fun p => partOf p.1 p.2)
  bankFe := i.bankFe
  items := i.items
  slots := i.slots
  raw := i

/-- Do the reserved fields and listed values of a part hold? -/
def partFormatOk (b : List Byte) : Bool :=
  b.length == 96 && fieldAt b 28 4 == 0 && fieldAt b 61 3 == 0 && fieldAt b 80 16 == 0
    && (fieldAt b 17 1 == 3 || fieldAt b 17 1 == 4) && decide (fieldAt b 26 1 ≤ 1)

/-- Condition FORMAT of R286. -/
def formatOk (i : ImageRead) : Bool :=
  let g := i.general
  i.sectionsOk && g.length == 64 && fieldAt g 0 4 == 0x53485401 && fieldAt g 4 2 == 1 && decide (fieldAt g 6 1 < 16)
    && (fieldAt g 7 1 == 1 || fieldAt g 7 1 == 2) && fieldAt g 20 4 == 0 && fieldAt g 44 20 == 0
    && i.parts.length == (feList (fieldAt g 6 1)).length && i.parts.all partFormatOk

/-! ### Admission (R286 to R289, R448, R458) -/

/-- Conditions LANES (R280, R288). -/
def State.lanesOk (s : State) (x : Image) : Bool :=
  s.images.all (fun y => x.lanes &&& y.lanes == 0) &&
    (x.parts.map (·.lanesFe)).foldl (· + ·) 0 == popcount 96 x.lanes

/-- Conditions BERM (R280, R448, R556). -/
def State.bermOk (s : State) (x : Image) : Bool :=
  let items := x.items.filter (fun i => i.berm && i.size != 0)
  let owner := fun (k : Nat) => (x.bankFe.filter (fun p => p.1 == k)).map (·.2)
  s.images.all (fun y => x.berm &&& y.berm == 0) &&
  (List.range 64).all (fun k => !x.berm.testBit k ||
    (match owner k with
     | [n] => x.feMask.testBit n && items.any (fun i => (mapBanks i).contains k)
     | _ => false)) &&
  items.all (fun i => decide (i.base + i.size ≤ 64 * 1048576) && (mapBanks i).all (fun k => x.berm.testBit k && owner k == [i.fe]))

/-- Slots of one refresh window (R463). -/
def State.windowSlots (s : State) : Nat := cdiv (9 * s.get MEM_CFG_TRFC) 16 + 1

/-- The reserved windows of a REF_RESERVE (R457). -/
def windowStarts (reserve : Nat) : List Nat := if reserve = 2 then [0, 1024, 2048, 3072] else [0, 2048]

/-- The data rate in MT/s (R453). -/
def dataRate : Nat → Nat
  | 0 => 6400 | 1 => 7500 | _ => 8533

/-- Is every DRAM item of an image clear of the other regions and of its own (R456, R556)? -/
def State.dramItemsOk (s : State) (x : Image) : Bool :=
  let own := (x.items.filter (fun i => !i.berm)).map (fun i => (i.base, i.size))
  own.zipIdx.all (fun p => decide (p.1.1 % 128 = 0) &&
    s.regionOk p.1.1 p.1.2 (spillRegion s.regs :: histRegion s.regs :: (s.dramItems ++ own.eraseIdx p.2)))

/-- Conditions DRAM (R289, R458). -/
def State.dramOk (s : State) (x : Image) : Bool :=
  let all := x :: s.images
  let reserve := all.foldl (fun m y => max m y.refReserve) 0
  let w := s.windowSlots
  let sys := 2 + s.get MEM_SYS_SHARE_HIST + s.get MEM_SYS_SHARE_SPILL + s.get MEM_SYS_SHARE_DRAIN
  decide ((all.map (·.dramShare)).foldl (· + ·) 0 + (windowStarts reserve).length * w + sys ≤ 4096) &&
  all.all (fun y => decide (y.mtsMin ≤ dataRate (s.get MEM_CFG_RATE))) &&
  x.slots.all (fun p => s.images.all (fun y => !y.slots.any (fun q => q.1 == p.1 && q.2.1 == p.2.1)) &&
    (windowStarts reserve).all (fun a => decide (p.2.1 < a ∨ a + w ≤ p.2.1))) &&
  decide (2 * (all.map (·.spillMbps)).foldl (· + ·) 0 ≤ 125 * s.get MEM_SYS_SHARE_SPILL) &&
  s.dramItemsOk x

/-- The arithmetic of R287 for a part; `work` holds W and COMMIT_NS as recomputed. -/
def contractOk (p : FePart) (work : Nat × Nat) : Bool :=
  let free := (10000 * ((p.c : Int) - p.w)) / (p.c : Int)
  p.w == work.1 && p.c == p.lanesFe * p.priMin && decide ((p.freeboard : Int) = free ∧ 600 ≤ free) &&
  decide ((p.fNs : Int) = ((p.c : Int) - p.w) / (p.lanesFe : Int)) &&
  decide (1 ≤ p.k ∧ p.k ≤ 8 ∧ p.lMax ≤ p.k * p.fNs) &&
  p.commitNs == work.2 && decide (p.commitNs ≤ p.lMax + p.fNs) &&
  p.boundNs == 2 * p.priMin + 40000 && p.boundKNs == (2 + p.k) * p.priMin + 40000

/-- The bytes of the phase pipeline's state at the limits of a part (R172): both members of every pair, as many slots
staged, and the most sub-bands that NB_MAX admits (log 23). -/
def phaseBytes (p : FePart) : Nat :=
  let j := if 4 ≤ p.nbMax then 4 else if 2 ≤ p.nbMax then 2 else 1
  6 * p.phsNbinsMax + 4 * p.tMax * p.nbMax * p.phsNbinsMax + p.tMax * (6 * p.nbMax * cdiv p.winMax 4)
    + 2 * (4 * 8192 * 2 * p.tMax * (1 + j)) + 2 * (4 * p.nMax * (2 * p.tMax))

/-- Those of the acoustic chain (R202). -/
def chainBytes (p : FePart) : Nat := (14 + 16 * p.orderMax + 4 * p.ntapsMax) * p.phsNbinsMax

/-- Those of the Raman accumulators (R230), and of the detector and tracker (R256). -/
def ramanBytes (nbins : Nat) : Nat := 20 * nbins
def detectorBytes (nbins nbands cells rules : Nat) (tracker : Bool) : Nat :=
  20 * nbands * nbins + 16 * nbands * cells + 4 * cells * rules + if tracker then 64 * 64 else 0

/-- The bytes that items of a map hold for a kind of state of fibre engine n. -/
def mapBytes (l : List MapItem) (n : Nat) (k : MapKind) : Nat :=
  ((l.filter (fun i => i.fe == n && i.kind == k)).map (·.size)).foldl (· + ·) 0

/-- Does the map cover the state at the limits of a part (R172, R202, R230, R256)? Cells are at most the bins. -/
def stateCovered (l : List MapItem) (p : FePart) : Bool :=
  decide (phaseBytes p ≤ mapBytes l p.fe .phase ∧ chainBytes p ≤ mapBytes l p.fe .chain ∧
    ramanBytes p.dtsNbinsMax ≤ mapBytes l p.fe .raman ∧
    detectorBytes p.phsNbinsMax p.nbandsMax p.phsNbinsMax p.rulesMax (p.tracker == 1) ≤ mapBytes l p.fe .detector)

/-- The limits of a part keep R4 and the ranges of R162 (log 23). -/
def limitsLegal (p : FePart) : Bool :=
  decide (p.winMax ≤ 1048576 ∧ p.nMax ≤ 4096 ∧ 1 ≤ p.nbMax ∧ p.nbMax ≤ 8 ∧ 1 ≤ p.phsNbinsMax) && [1, 2, 4].contains p.tMax &&
    (decide (p.winMax ≤ 786432) || decide (p.tMax ≤ 2 ∧ p.nbMax ≤ 4)) &&
    decide (16 ≤ p.nMax ∧ 98 + 4 * p.phsNbinsMax + 4 * p.nMax ≤ p.winMax)

/-- Codes 3 to 12 of R286, in code order; 0 where the image is admitted. -/
def State.loadCode (s : State) (i : Option ImageRead) : Nat :=
  match i with
  | none => 3
  | some i =>
    let x := imageOf i
    if !formatOk i then 4
    else if !i.signatureOk then 5
    else if s.images.length = 4 ∨ s.images.any (fun y => x.feMask &&& y.feMask != 0) then 6
    else if (feList x.feMask).any (fun n => s.busyFe n) then 7
    else if !s.lanesOk x then 8
    else if !s.bermOk x then 9
    else if !s.dramOk x then 10
    else if i.work.length ≠ x.parts.length ∨ !(List.zip x.parts i.work).all (fun p => contractOk p.1 p.2) then 11
    else if !x.parts.all (fun p => limitsLegal p && stateCovered x.items p) then 12
    else 0

/-- The output bandwidth of the link as trained, in Mbit/s: 100 Gbit/s at 32 GT/s ×4, scaled (R315, log 24). -/
def State.linkMbps (s : State) : Nat :=
  let gt : Nat := match s.get HIF_STATUS_SPEED with | 1 => 25 | 2 => 50 | 3 => 80 | 4 => 160 | 5 => 320 | _ => 0
  100000 * gt * s.get HIF_STATUS_WIDTH / 1280

/-- Set one image slot; the system share is placed again (R457). -/
def State.setImg (s : State) (k : Nat) (x : Option Image) : State :=
  { s with sch := { s.sch with img := vset s.sch.img k x } }.setShare

/-- The owner of a DRAM slot (R282, R457). -/
inductive SlotOwner where
  | image (fe : Nat)
  | refresh
  | system
  | history
  | spillway
  | drain
  | idle
deriving DecidableEq, Repr

/-- The slots that are inside a reserved refresh window. -/
def State.refreshSlot (s : State) (k : Nat) : Bool :=
  (windowStarts (s.images.foldl (fun m y => max m y.refReserve) 0)).any (fun a => decide (a ≤ k ∧ k < a + s.windowSlots))

/-- The image slot that claims slot k of channel c. -/
def State.slotClaim (s : State) (c k : Nat) : Option Nat :=
  ((s.images.flatMap (·.slots)).find? (fun p => p.1 == c && p.2.1 == k)).map (·.2.2)

/-- The owner of slot k of channel c in a round: the system share stands in the lowest slots that are neither reserved nor
claimed, in the order system, history, spillway, drain (R457). -/
def State.slotOwner (s : State) (c k : Nat) : SlotOwner :=
  match s.slotClaim c k with
  | some n => .image n
  | none =>
    if s.refreshSlot k then .refresh
    else
      let i := ((List.range k).filter (fun j => (s.slotClaim c j).isNone && !s.refreshSlot j)).length
      let h := s.mem.share
      if i < 2 then .system
      else if i < 2 + h.1 then .history
      else if i < 2 + h.1 + h.2.1 then .spillway
      else if i < 2 + h.1 + h.2.1 + h.2.2 then .drain
      else .idle

/-- The lowest free slot. -/
def State.freeImg (s : State) : Nat :=
  ((List.range 4).find? (fun k => (vget none s.sch.img k).isNone)).getD 0

/-- An image that passed its checks is admitted (R285, R290). -/
def State.admitImage (s : State) (i : ImageRead) : State :=
  let k := s.freeImg
  let s1 := (((s.setImg k (some (imageOf i))).set SCH_LOAD_RESULT_CODE 0).set SCH_LOAD_RESULT_SLOT k).ev SCH_EVENTS_LOADED
  let sum := (s1.images.flatMap (·.parts)).foldl (fun m p => m + p.hostMbps) 0
  if s1.on HIF_STATUS_LINK_UP ∧ s1.linkMbps < sum then s1.ev SCH_EVENTS_LINK_SHORT else s1

/-- LOAD_SCHEDULE is refused with a code. -/
def State.loadRefuse (s : State) (code : Nat) : State := (s.set SCH_LOAD_RESULT_CODE code).ev SCH_EVENTS_LOAD_FAIL

/-- LOAD_SCHEDULE begins: MODE and BUSY at once, the other checks at its end. -/
def State.loadStart (s : State) (c : Cmd) (i : Option ImageRead) : State :=
  if s.mode = 0 ∨ s.mode = 7 then (s.loadRefuse 1).complete c 1 0
  else if s.sch.loading.isSome then (s.loadRefuse 2).complete c 2 0
  else { s with sch := { s.sch with loading := some ⟨c, true, i, 0⟩ } }

/-- UNLOAD_SCHEDULE ends with a code (R291). -/
def State.unloadEnd (s : State) (c : Cmd) (slot code : Nat) : State :=
  ((s.set SCH_LOAD_RESULT_CODE code).set SCH_LOAD_RESULT_SLOT slot).complete c code 0

/-- UNLOAD_SCHEDULE begins. -/
def State.unloadStart (s : State) (c : Cmd) (slot : Nat) : State :=
  if s.mode = 0 ∨ s.mode = 7 then s.unloadEnd c slot 1
  else if s.sch.loading.isSome then s.unloadEnd c slot 2
  else { s with sch := { s.sch with loading := some ⟨c, false, none, slot⟩ } }

/-- LOAD_SCHEDULE_DONE: admission or release finishes. A load waits for the Berm's INIT_DONE (R452). -/
def State.loadDone (s : State) : State :=
  match s.sch.loading with
  | none => s
  | some l =>
    if l.load ∧ !s.on BRM_STATUS_INIT_DONE then s
    else
      let s1 : State := { s with sch := { s.sch with loading := none } }
      if l.load then
        let code := if s.mode = 0 ∨ s.mode = 7 then 1 else s1.loadCode l.image
        match l.image, code with
        | some i, 0 => (s1.admitImage i).complete l.cmd 0 s1.freeImg
        | _, _ => (s1.loadRefuse code).complete l.cmd code 0
      else if s.mode = 0 ∨ s.mode = 7 then s1.unloadEnd l.cmd l.slot 1
      else
        match vget none s1.sch.img l.slot with
        | none => s1.unloadEnd l.cmd l.slot 13
        | some x =>
          if (feList x.feMask).any (fun n => s1.busyFe n) then s1.unloadEnd l.cmd l.slot 7
          else ((s1.setImg l.slot none).ev SCH_EVENTS_UNLOADED).unloadEnd l.cmd l.slot 0

/-! ### The limits of the covering image (R292) -/

/-- The slot, image and part that cover fibre engine n. -/
def State.covering (s : State) (n : Nat) : Option (Nat × FePart) :=
  (List.range 4).findSome? (fun k =>
    match vget none s.sch.img k with
    | some x => (x.parts.find? (fun p => p.fe == n)).map (fun p => (k, p))
    | none => none)

/-- The row of R292 for the acoustic chain, which is the last row of R200. -/
def chainLimitOk (p : FePart) (r : Tab Word) (n : Nat) : Bool :=
  decide (p.ratioMin ≤ ratioOf r n ∧ orderOf r n ≤ p.orderMax ∧ ntapsOf r n ≤ p.ntapsMax)

/-- The conditions of R292 on the settings of fibre engine n. -/
def limitOk (p : FePart) (r : Tab Word) (n : Nat) : Bool :=
  decide (p.priMin ≤ priOf r n ∧ tonesOf r n ≤ p.tMax ∧ winLenOf r n ≤ p.winMax) &&
  decide (branchesOf r n ≤ p.nbMax ∧ nMaxOf r n ≤ p.nMax ∧ nbinsOf r n ≤ p.phsNbinsMax) &&
  chainLimitOk p r n &&
  (!dtsOn r n || decide (p.dtsNbinsMax ≠ 0 ∧ dtsNbins r n ≤ p.dtsNbinsMax)) &&
  (!ron r (EVT_CFG_EN n) || decide (nbandsOf r n ≤ p.nbandsMax ∧
    ((List.range 16).filter (fun k => ruleEn r n k)).length ≤ p.rulesMax)) &&
  (!ron r (EVT_CFG_TRK_EN n) || p.tracker == 1) &&
  decide (rget r (SCH_FE_DIVERT_NS n) ≤ p.lMax + p.fNs)

/-- Does an admitted image provide for the settings? -/
def State.provided (s : State) (r : Tab Word) (n : Nat) : Bool :=
  match s.covering n with
  | some c => limitOk c.2 r n
  | none => false

/-- Does it provide for the acoustic chain (R200)? -/
def State.chainProvided (s : State) (r : Tab Word) (n : Nat) : Bool :=
  match s.covering n with
  | some c => chainLimitOk c.2 r n
  | none => false

/-- Do the maps of the admitted images hold the Raman accumulators (R230), and the state of detector and tracker (R256),
that the settings need? -/
def State.ramanHeld (s : State) (r : Tab Word) (n : Nat) : Bool :=
  !dtsOn r n || decide (ramanBytes (dtsNbins r n) ≤ mapBytes (s.images.flatMap (·.items)) n .raman)
def State.detectorHeld (s : State) (r : Tab Word) (n : Nat) : Bool :=
  !ron r (EVT_CFG_EN n) || decide (detectorBytes (nbinsOf r n) (nbandsOf r n) (cdiv (nbinsOf r n) (cellOf r n))
    ((List.range 16).filter (fun k => ruleEn r n k)).length (ron r (EVT_CFG_TRK_EN n)) ≤
      mapBytes (s.images.flatMap (·.items)) n .detector)

/-! ### Lateness (R293 to R298) -/

/-- The oldest frame of a fibre engine whose shots have all launched, or that a trip has lost, and whose outputs are all in
staging: its last shot. -/
def State.finishedFrame (s : State) (n : Nat) : Option Shot :=
  let f := s.f n
  match f.recs with
  | [] => none
  | r :: _ =>
    let own := f.recs.filter (fun x => x.frame == r.frame)
    let last := (own.getLast?).getD r
    let waits := f.acf.q.any (fun i => i.frame == r.frame && i.isOut n) ||
      f.evt.q.any (fun x => match x with
        | .out y => y.frame == r.frame && intervalEnd y.regs n y.num
        | .restart => false) ||
      f.dts.done.any (fun a => a.last.frame == r.frame) ||
      (match f.dts.cur with
       | some a => a.last.frame == r.frame && a.count == dtsShots a.last.regs n
       | none => false)
    if own.all (fun x => x.phsDone && (!x.raman || x.dtsDone)) && (last.tone + 1 == last.tones || f.isLost r.frame) && !waits then
      some last
    else none

/-- The lateness of a finished frame is recorded; late marks LATE, the first on time after it CAUGHT_UP (R293, R296). -/
def State.lateNote (s : State) (n lam : Nat) : State :=
  let s1 := (s.set (SCH_FE_LATENESS_NS n) (min lam (2 ^ 32 - 1))).modF n (fun f => { f with late := lam })
  if lam = 0 then (if (s.f n).late = 0 then s1 else s1.ev SCH_EVENTS_CAUGHT_UP)
  else
    let s2 := (s1.addSat (SCH_FE_LATE_FRAMES_COUNT n) 1).set (SCH_FE_LATE_MAX_NS n)
      (max (s.get (SCH_FE_LATE_MAX_NS n)) (min lam (2 ^ 32 - 1)))
    if (s.f n).late = 0 then s2.ev SCH_EVENTS_LATE else s2

/-- Lateness beyond L_MAX overtops (R298). -/
def State.overtopNote (s : State) (n lam : Nat) : State :=
  match s.covering n with
  | some c =>
    if c.2.lMax < lam then
      (((s.addSat (SCH_FE_OVERTOP_CNT_COUNT n) 1).ev SCH_EVENTS_OVERTOP).modF n (fun f => { f with overtop := true })).present
        (52 + n)
    else s
  | none => s

/-- A frame's shots leave the shots in work. Where a window ended in the last 2^18 ns, which
a run of 2^16 equal codes of one sub-ADC can take (R127), its end is kept for R424. -/
def FeSt.frameEnds (f : FeSt) (n now frame : Nat) : FeSt :=
  let own := (f.recs.filter (fun x => x.frame == frame)).map (fun x => (x.shot, x.launch + winEndOf x.regs n))
  { f with
    recs := f.recs.filter (fun x => x.frame != frame)
    ends := (f.ends ++ own).filter (fun p => decide (now < p.2 + 262144)) }

/-- Change the outputs that the device still holds: in staging, in the spillway, and sent and not released. -/
def State.mapHeld (s : State) (g : Frame → Frame) : State :=
  let sp := fun (x : SpillFrame) => { x with frame := g x.frame }
  { s with
    hif := { s.hif with staged := s.hif.staged.map (fun x => { x with frame := g x.frame }), inFlight := s.hif.inFlight.map g }
    spill := ⟨s.spill.general.map sp, s.spill.reserved.map sp⟩ }

/-- FRAME_WORK_DONE: the oldest frame's work is finished; outputs of it that the device still holds take its LATE flag. A
frame that a trip has lost has no lateness. After an overtopping every frame is LATE (R298). -/
def State.frameDone (s : State) (n : Nat) : State :=
  match s.finishedFrame n with
  | none => s
  | some r =>
    let lam := s.now - crestOf r.regs n r.launch
    let s1 := s.modF n (fun f => f.frameEnds n s.now r.frame)
    let s2 := s1.mapHeld (fun x =>
      if x.fe = n ∧ x.work = some r.frame then { x with late := decide (0 < lam) || (s.f n).overtop } else x)
    (if r.lost then s1 else (s2.lateNote n lam).overtopNote n lam).evtIdle n

/-! ### The staging area (R297, R338) -/

/-- A frame has left staging. -/
def State.unstage (s : State) (rest : List Staged) : State :=
  { s with hif := { s.hif with staged := headMarks s.now [] rest } }

/-- An output as it leaves staging: after its frame's crest it is late already (R293, R296). -/
def State.lateSoFar (s : State) (x : Frame) : Frame :=
  match x.work with
  | none => x
  | some w =>
    match ((s.f x.fe).recs.filter (fun r => r.frame == w)).getLast? with
    | some r => { x with late := x.late || decide (crestOf r.regs x.fe r.launch < s.now) }
    | none => x

/-- FRAME_DELIVER: the oldest staged frame of a stream leaves staging, unless it must wait there (R475). -/
def State.frameDeliver (s : State) (stream : Nat) : State :=
  match takeFirst (fun (x : Staged) => x.frame.stream == stream) s.hif.staged with
  | (some x, rest) => if s.stays x.frame then s else ((s.unstage rest).deliver (s.lateSoFar x.frame)).divertEnd
  | (none, _) => s

/-- DIVERT: the frame at the head of a fibre engine's staging has waited DIVERT ns; it and every later frame go to the
spillway until the backlog has gone. -/
def State.divertHead (s : State) (n : Nat) : State :=
  match takeFirst (fun (x : Staged) => x.frame.fe == n) s.hif.staged with
  | (some x, rest) =>
    if x.head.getD s.now + s.get (SCH_FE_DIVERT_NS n) ≤ s.now then
      let s1 := s.unstage rest
      let s2 := { s1 with hif := { s1.hif with diverted := vset s1.hif.diverted n true } }
      if s2.stays x.frame then s else (s2.deliver (s.lateSoFar x.frame)).divertEnd
    else s
  | (none, _) => s

/-! ### The SCH registers that show this state (R313) -/

/-- A bit for each fibre engine. -/
def feBits (p : Nat → Bool) : Nat := (List.range 4).foldl (fun m n => if p n then m + 2 ^ n else m) 0

/-- SCH.STATUS. -/
def State.schStatus (s : State) : Nat :=
  s.sch.loading.isSome.toNat + 2 * s.images.length + 16 * (s.sch.groups.toList.filterMap id).length
    + 256 * feBits (fun n => (s.f n).late != 0) + 4096 * feBits (fun n => (s.f n).overtop && s.contained n)

/-- Word w of an IMG register group. -/
def State.imgWord (s : State) (k w : Nat) : Nat :=
  match vget none s.sch.img k with
  | none => 0
  | some x =>
    match w with
    | 0 => x.tool
    | 1 => x.feMask + 16 * x.refReserve + 2 ^ 31
    | 2 => x.lanes
    | 3 => x.lanes / 2 ^ 32
    | 4 => x.lanes / 2 ^ 64
    | 5 => x.berm
    | _ => x.berm / 2 ^ 32

/-- The contract registers of fibre engine n at the PRI in force (R295, R313): word 0 IMAGE to 5 BOUND_K. -/
def State.feWord (s : State) (n w : Nat) : Nat :=
  match s.covering n with
  | none => 0
  | some (k, p) =>
    let pri := priOf s.regs n
    let c := p.lanesFe * pri
    match w with
    | 0 => k + 128 * p.k + 2 ^ 31
    | 1 => 10000 * (c - p.w) / c
    | 2 => (c - p.w) / p.lanesFe
    | 3 => p.lMax
    | 4 => 2 * pri + 40000
    | _ => (2 + p.k) * pri + 40000

end Sys2Proof.Machine
end

