-- ==== Sys2Proof/Machine/Commit.lean ====
section
/-! DEFINITION. Commit groups (R301 to R312): the list, the checks made at staging and at lock, the configuration that will
be in force at a boundary, and how a group takes effect. -/

namespace Sys2Proof.Machine

/-! ### The commit list (R301) -/

/-- A commit list as read. -/
structure CommitList where
  grid    : Bool
  refFe   : Nat
  bound   : Nat
  entries : List GEntry
deriving DecidableEq, Repr

/-- The words of a byte list. -/
def wordsOf : Nat → List Byte → List Word
  | 0, _ => []
  | k + 1, b => BitVec.ofNat 32 (leVal (b.take 4)) :: wordsOf k (b.drop 4)

/-- Entry i of the list; none where it is malformed. -/
def commitEntry (b : List Byte) (i : Nat) : Option GEntry :=
  let o := 16 + 16 * i
  let off := fieldAt b (o + 4) 4
  let v := fieldAt b (o + 8) 4
  let len := fieldAt b (o + 12) 4
  if fieldAt b (o + 1) 3 ≠ 0 then none
  else
    match fieldAt b o 1 with
    | 0 => if len = 0 then some (.write off (BitVec.ofNat 32 v)) else none
    | 1 =>
      if len ≠ 0 ∧ len % 4 = 0 ∧ v + len ≤ b.length then some (.table off (wordsOf (len / 4) (b.drop v))) else none
    | _ => none

/-- The list within its first `len` bytes; none where it is malformed. -/
def commitParse (len : Nat) (b0 : List Byte) : Option CommitList :=
  let b := b0.take len
  let n := fieldAt b 0 2
  let kind := fieldAt b 2 1
  let fe := fieldAt b 3 1
  let x := fieldAt b 8 8
  let es := (List.range n).map (commitEntry b)
  if b.length = len ∧ len ≤ 2097152 ∧ 1 ≤ n ∧ n ≤ 64 ∧ 16 + 16 * n ≤ len ∧ kind ≤ 1 ∧ (kind = 1 ∨ (fe ≤ 3 ∧ x < 2 ^ 48)) ∧
      fieldAt b 4 4 = 0 ∧ es.all (fun e => e.isSome) then
    some ⟨kind == 1, if kind = 1 then 0 else fe, x, es.filterMap id⟩
  else none

/-! ### Targets (R302, R303, R392) -/

/-- Has a register a field of one of these types? -/
def hasAcc (off : Nat) (p : Acc → Bool) : Bool :=
  match regAt off with
  | some r => r.fields.any (fun f => p f.acc)
  | none => false

/-- Types of R15 that R302 calls RW. -/
def accRw : Acc → Bool
  | .rw | .rws => true
  | _ => false

/-- RW and WO. -/
def accRwWo : Acc → Bool
  | .rw | .rws | .wo => true
  | _ => false

/-- May a WRITE entry target a register? -/
def committable (off : Nat) : Bool :=
  match off / 0x10000 with
  | 2 => decide (0x020100 ≤ off) && hasAcc off accRw
  | 3 => off % 0x4000 != 0x000C && hasAcc off accRw
  | 4 => isInst (ACQ_CCH_CFG 0) 0x10 16 off || isInst (ACQ_ICH_CFG 0) 0x10 8 off ||
    (List.range 4).any (fun n => off == ACQ_FE_DARK_START n || off == ACQ_FE_DARK_LEN n)
  | 5 | 6 | 8 => off % 0x4000 != 0x0108 && hasAcc off accRwWo
  | 7 => off % 0x100 != 0x48 && hasAcc off accRwWo
  | 9 => off != TRK_INT_EN && hasAcc off accRwWo
  | 12 => off == PMC_SEQ || off == PMC_GRID_PERIOD || off == PMC_GRID_OFS || off == PMC_EXC_CFG
    || isInst (PMC_SLOT_CFG 0) 0x10 64 off || isInst (PMC_SLOT_SETTLE 0) 0x10 64 off
    || isInst (PMC_INJ_CFG 0) 0x20 4 off || isInst (PMC_INJ_SETTLE 0) 0x20 4 off || isInst (PMC_INJ_TRIG 0) 0x20 4 off
  | _ => false

/-- Is an entry's target eligible? -/
def GEntry.eligible : GEntry → Bool
  | .write off _ => committable off
  | .table off ws =>
    off % 4 == 0 &&
    match tableAt off, tableAt (off + 4 * ws.length - 4) with
    | some (.ref n j), some t => t == .ref n j
    | some (.prof n), some t => t == .prof n
    | some (.map n), some t => t == .map n
    | _, _ => false

/-- The register writes of a list of entries, in order. -/
def entryWrites (l : List GEntry) : List (Nat × Word) :=
  l.filterMap (fun e => match e with | .write o v => some (o, v) | .table _ _ => none)

/-- The table loads, in order. -/
def entryLoads (l : List GEntry) : List (Nat × List Word) :=
  l.filterMap (fun e => match e with | .table o ws => some (o, ws) | .write _ _ => none)

/-- The spare copies that staging makes: each table loaded, as it is in force, with the loaded words written in order (R303;
log 74). -/
def State.spareOf (s0 : State) (l : List GEntry) : List TabLoad :=
  let loads := entryLoads l
  let new := (loads.foldl (fun (s : State) x => s.setTwords x.1 x.2) s0).tables
  loads.map (fun x => ⟨x.1, new.filter (fun p => tableAt p.1 == tableAt x.1)⟩)

/-- Those of one fibre engine. -/
def Group.writesOf (g : Group) (n : Nat) : List (Nat × Word) := (entryWrites g.entries).filter (fun w => regFe w.1 == some n)
def Group.loadsOf (g : Group) (n : Nat) : List TabLoad :=
  g.spare.filter (fun t => (tableAt t.off).map Table.fe == some n)

/-- The writes that belong to no fibre engine. -/
def Group.writesShared (g : Group) : List (Nat × Word) := (entryWrites g.entries).filter (fun w => regFe w.1 == none)

/-- The shot named, where n is REF_FE of a SHOT group. -/
def Group.shotFor (g : Group) (n : Nat) : Option Nat := if !g.grid && g.refFe == n then some g.shot else none

/-- Does the group touch fibre engine n? -/
def Group.touches (g : Group) (n : Nat) : Bool := !(g.writesOf n).isEmpty || !(g.loadsOf n).isEmpty

/-! ### Groups in order -/

/-- Insert by a rising key. -/
def insBy {α : Type} (k : α → Int) (x : α) : List α → List α
  | [] => [x]
  | y :: ys => if k x < k y then x :: y :: ys else y :: insBy k x ys

/-- Sort by a rising key. -/
def sortBy {α : Type} (k : α → Int) (l : List α) : List α := l.foldl (fun m x => insBy k x m) []

/-- Staged groups with their slots, in the order of their staging. -/
def State.groupList (s : State) : List (Nat × Group) :=
  sortBy (fun x => (x.2.order : Int)) ((List.range 8).filterMap (fun g => (s.group g).map (fun x => (g, x))))

/-! ### The configuration at a boundary (R307) -/

/-- A part as it will stand: the writes of a fibre engine, and its new anchor where they change PRI or TONES (R38). -/
def State.aheadFe (s : State) (n : Nat) (tb : Option Int) (shot : Option Nat) (ws : List (Nat × Word))
    (sent : Option (Option SentForm)) : State :=
  let r1 := rwrites s.regs ws
  let f := s.f n
  let start : Option NextShot := match shot, tb with
    | some x, _ => some ⟨x, f.instOf s.regs n x⟩
    | none, some b => some (f.frameShot s.regs n (f.frameAt (priOf s.regs n) b))
    | none, none => none
  let f1 := match start with
    | some x =>
      if (wordsDiffer s.regs r1 [TIM_FE_PRI n] || sent.isSome) && !extOf s.regs n then { f with anchorS := x.shot, anchorT := x.gt }
      else f
    | none => f
  ({ s with regs := r1 }).modF n (fun _ => { f1 with sent := sent.getD f1.sent })

/-- A group as it will stand. -/
def State.aheadGroup (s : State) (g : Group) : State :=
  let s1 : State := { s with regs := rwrites s.regs g.writesShared }
  (List.range 4).foldl (fun s n =>
    if g.taken.testBit n then s else ((s.aheadFe n g.tb (g.shotFor n) (g.writesOf n) none).tabLoads (g.loadsOf n))) s1

/-- The present configuration with every part that waits for its boundary, and every group staged before the given order,
applied in order. -/
def State.ahead (s : State) (order : Nat) : State :=
  let s1 := (List.range 4).foldl (fun s n =>
    (s.f n).due.foldl (fun s d => ((s.aheadFe n (some d.tb) d.shot d.writes d.sent).tabLoads d.tabs)) s) s
  (s.groupList.filter (fun x => decide (x.2.order < order))).foldl (fun s x => s.aheadGroup x.2) s1

/-! ### The checks CHECK and LIMIT (R306) -/

/-- The SRC and EN words of fibre engine n's channels. -/
def feChanRegs (n : Nat) : List Nat :=
  (List.range 4).map (fun c => ACQ_CCH_CFG (4 * n + c)) ++ (List.range 2).map (fun i => ACQ_ICH_CFG (2 * n + i))

/-- The number of a channel in a calibration mask (R112). -/
def chanOf (off : Nat) : Option Nat :=
  match instOf (ACQ_CCH_CFG 0) 0x10 16 off with
  | some c => some c
  | none => (instOf (ACQ_ICH_CFG 0) 0x10 8 off).map (fun i => i + 16)

/-- The channels a foreground calibration holds (R121). -/
def State.calHolds (s : State) (ch : Nat) : Bool :=
  match s.acq.cal with
  | some k => !k.saveOnly && k.live.testBit ch
  | none => false

/-- The checks of a group for fibre engine n from configuration a0 to a1: each with the CFG_ERR bits it sets on failing. -/
def State.feChecks (s a0 a1 : State) (g : Group) (n : Nat) : List (Bool × List FRef) :=
  let offs := (g.writesOf n).map (fun w => w.1)
  let r := a1.regs
  let blk := fun (b : Nat) => offs.any (fun o => o / 0x10000 == b)
  let has := fun (l : List Nat) => offs.any (fun o => l.contains o)
  let mapLoad := (g.loadsOf n).any (fun t => tableAt t.off == some (.map n))
  let e := effectsOf a0.regs r n (refsOf n (g.loadsOf n))
  [ (!blk 2 || windowOk r n, [TIM_EVENTS_CFG_ERR]),
    (!blk 3 || waveformOk r n, [LNC_EVENTS_CFG_ERR n]),
    (!(blk 3 || blk 2) || dutyOk r n, if blk 3 then [LNC_EVENTS_CFG_ERR n] else []),
    (!(blk 2 || has [ACQ_FE_DARK_START n, ACQ_FE_DARK_LEN n]) || darkOk r n, if blk 2 then [] else [ACQ_EVENTS_CFG_ERR]),
    (!(blk 5 || blk 3 || blk 2) || phaseOk r n, [PHS_EVENTS_CFG_ERR n]),
    (!has (feChanRegs n) || coherentOk r n, [ACQ_EVENTS_CFG_ERR, PHS_EVENTS_CFG_ERR n]),
    (!(blk 6 || has [TIM_FE_PRI n]) || acfOk r n, [ACF_EVENTS_CFG_ERR n]),
    (!(blk 7 || has [LNC_RAMAN_CFG n, TIM_FE_WIN_START n, TIM_FE_WIN_LEN n, TIM_FE_REF_OFS n]) || (dtsOk r n && s.ramanHeld r n),
      [DTS_EVENTS_CFG_ERR n]),
    (!(blk 8 || blk 6 || blk 5 || mapLoad) || (evtOk r n && mapOk a1.tables r n && regOk r n && s.detectorHeld r n), [EVT_EVENTS_CFG_ERR n]),
    (!(s.lstate n == 2 && extOf a0.regs n != extOf r n), []),
    (!(s.busyFe n && (feChanRegs n).any (fun o => (ACQ_CCH_CFG_EN 0).of (tget (resetOf o) a0.regs o) == 1 &&
      (ACQ_CCH_CFG_EN 0).of (tget (resetOf o) r o) == 0)), [ACQ_EVENTS_CFG_ERR]),
    (!(offs.any (fun o => ((chanOf o).map s.calHolds).getD false)), [ACQ_EVENTS_CFG_ERR]),
    (match g.shotFor n with
     | some x => !e.frame || extOf a0.regs n || (a0.f n).isStart a0.regs n x
     | none => true, [PHS_EVENTS_CFG_ERR n]) ]

/-- CHECK and LIMIT: the first code that fails (0 none), and the CFG_ERR bits set. -/
def State.groupCode (s : State) (g : Group) : Nat × List FRef :=
  let a0 := s.ahead g.order
  let a1 := a0.aheadGroup g
  let bad := (List.range 4).flatMap (fun n => (s.feChecks a0 a1 g n).filter (fun c => !c.1))
  if !bad.isEmpty then (6, bad.flatMap (fun c => c.2))
  else if (List.range 4).all (fun n => !g.touches n || s.provided a1.regs n) then (0, [])
  else (7, ((List.range 4).filter (fun n => g.touches n && !s.chainProvided a1.regs n)).map ACF_EVENTS_CFG_ERR)

/-- Set event bits. -/
def State.evs (s : State) (l : List FRef) : State := l.foldl State.ev s

/-! ### Staging (R306) -/

/-- A slot of SCH.CMT that is free. -/
def State.freeGroup (s : State) : Option Nat := (List.range 8).find? (fun g => (s.group g).isNone)

/-- Is the boundary a shot of a fibre engine in external launch mode, whose t_b its marker decides? -/
def State.extBoundary (a0 : State) (l : CommitList) : Bool := !l.grid && extOf a0.regs l.refFe

/-- t_b of a list, where staging knows it (R37, R304). -/
def State.boundaryOf (a0 : State) (l : CommitList) : Option Int :=
  if l.grid then some l.bound
  else if a0.extBoundary l then none
  else some ((a0.f l.refFe).instOf a0.regs l.refFe l.bound)

/-- ORDER: later than every group already staged, as far as their boundaries are known. -/
def State.orderOk (s : State) (l : CommitList) (tb : Option Int) : Bool :=
  s.groupList.all (fun x =>
    match x.2.tb, tb with
    | some a, some b => decide (a < b)
    | none, none => x.2.refFe != l.refFe || decide (x.2.shot < l.bound)
    | _, _ => true)

/-- LATE: t_b is within 10 µs, or the shot named has launched. -/
def State.lateOk (s a0 : State) (l : CommitList) (tb : Option Int) : Bool :=
  (match tb with | some b => decide (s.gridOf s.now + 10000 ≤ b) | none => true) &&
  (l.grid ||
    (let f := s.f l.refFe
     (match f.lastNum with | some x => decide (x < l.bound) | none => true) &&
     (match f.marker with | some m => decide (m.shot < l.bound) | none => true) &&
     (a0.extBoundary l || decide ((a0.f l.refFe).anchorS ≤ l.bound))))

/-- Are the values of a list within the legal settings of their fields, at the boundary (R18)? -/
def rangeOk (r : Tab Word) (ws : List (Nat × Word)) : Bool :=
  let r1 := rwrites r ws
  ws.all (fun w => (match regAt w.1 with | some spec => spec.legal w.2 | none => true) && crossOk r1 w.1)

/-- The segments a list of entries names for fibre engine n, with the settings that will be in force: those whose registers or
loaded reference it writes, those its TONE_SEG writes name, and those of the tones that its TONES puts in use (R62, R145). -/
def namedSegs (r : Tab Word) (n : Nat) (ws : List (Nat × Word)) (ts : List TabLoad) : List Nat :=
  (List.range 8).filter (fun j =>
    ws.any (fun w => (segRegs n j).contains w.1) || (refsOf n ts).contains j ||
    (ws.any (fun w => w.1 == TIM_FE_PRI n) && (segsInUse r n).contains j) ||
    (List.range 4).any (fun k => ws.any (fun w => w.1 == LNC_TONE_SEG n k) && (toneSegs r n k).contains j))

/-- Does a list of entries change the segment or the reference of a tone in use (R145)? -/
def refsChanged (r0 : Tab Word) (n : Nat) (ws : List (Nat × Word)) (ts : List TabLoad) : Bool :=
  let r := rwrites r0 ws
  (List.range (tonesOf r n)).any (fun k => toneSegs r0 n k != toneSegs r n k ||
    (toneSegs r n k).any (fun j => wordsDiffer r0 r (segRegs n j) || (refsOf n ts).contains j))

/-- Staging builds the references a group names (R145, R306); of a segment whose own settings or table the group writes, the
built reference becomes the current one only at the boundary. -/
def State.refsStaged (s : State) (g : Group) : State :=
  let r := (s.ahead (g.order + 1)).regs
  (List.range 4).foldl (fun s n =>
    let ws := g.writesOf n
    let ts := g.loadsOf n
    let js := (namedSegs r n ws ts).filter (fun j =>
      !ws.any (fun w => (segRegs n j).contains w.1) && !(refsOf n ts).contains j)
    s.modF n (fun f => { f with refValid := f.refValid ||| segMask js })) s

/-- The group a list would stage. -/
def State.groupOf (s a0 : State) (c : Cmd) (l : CommitList) : Group :=
  ⟨c, l.grid, l.refFe, l.bound, a0.boundaryOf l, l.entries, s.spareOf l.entries, a0.extBoundary l, s.sch.staged, 0, s.now⟩

/-- The code of COMMIT before CHECK and LIMIT, in the order of R306. -/
def State.commitPre (s a0 : State) (p : Option CommitList) : Nat :=
  if s.mode = 0 ∨ s.mode = 1 ∨ s.mode = 7 then 13
  else if s.freeGroup.isNone then 9
  else
    match p with
    | none => 3
    | some l =>
      if !l.entries.all GEntry.eligible then 4
      else if !rangeOk a0.regs (entryWrites l.entries) then 5
      else if !s.orderOk l (a0.boundaryOf l) then 8
      else 0

/-- COMMIT: stage a group, or complete with the first failing code. -/
def State.commitStage (s : State) (c : Cmd) (p : Option CommitList) : State :=
  let a0 := s.ahead s.sch.staged
  match s.commitPre a0 p, p, s.freeGroup with
  | 0, some l, some slot =>
    let g := s.groupOf a0 c l
    let r := s.groupCode g
    if r.1 ≠ 0 then (s.evs r.2).complete c r.1 0
    else if !s.lateOk a0 l g.tb then s.complete c 2 0
    else
      let s1 := (s.setGroup slot (some g)).refsStaged g
      ({ s1 with sch := { s1.sch with staged := s1.sch.staged + 1 } }.ev SCH_EVENTS_CMT_STAGED).complete c 0 slot
  | 0, _, _ => s.complete c 3 0
  | code, _, _ => s.complete c code 0

/-- COMMIT_CANCEL: a group of the same ring that is not locked is withdrawn (R309, R329); a group of another ring it does not find (log 49). -/
def State.commitCancel (s : State) (c : Cmd) (id : BitVec 32) : State :=
  match s.groupList.find? (fun x => x.2.cmd.ring == c.ring && x.2.cmd.reqId == id && !x.2.locked) with
  | some x => (s.groupEnd x.1 10).complete c 10 0
  | none => s.complete c 14 0

/-! ### Lock and boundary (R304, R308, R312) -/

/-- At t_b − 10 µs the group locks; the checks are repeated, and a failure aborts it (R308). -/
def State.commitLock (s : State) (k : Nat) : State :=
  match s.group k with
  | none => s
  | some g =>
    match g.tb with
    | none => s
    | some b =>
      if g.locked || decide (s.gridOf s.now + 10000 < b) then s
      else
        let r := s.groupCode g
        if r.1 ≠ 0 then (s.evs r.2).groupEnd k r.1 else s.setGroup k (some { g with locked := true })

/-- A write of a PMC register that acts beyond storing its fields: START, STOP (R373, R376, R377). -/
def State.pmcWritten (s : State) (off : Nat) (v : Word) : State :=
  if off = PMC_SEQ then
    let s1 := if PMC_SEQ_STOP.of v = 1 then s.seqStop else s
    if PMC_SEQ_START.of v = 1 then s1.seqStart else s1
  else
    match instOf (PMC_INJ_TRIG 0) 0x20 4 off with
    | some j => if (PMC_INJ_TRIG_START j).of v = 1 then s.injTrig j else s
    | none => s

/-- A write of a TRK register (R265, R269, R275, R276). -/
def State.trkWrite (s : State) (off : Nat) (v : Word) : State :=
  match instOf (TRK_QIN_LOAD 0) 0x40 2 off with
  | some i => s.qinLoad i v
  | none =>
    match instOf (TRK_CMP_VALUE 0) 0x10 8 off with
    | some c => s.cmpValue c v
    | none =>
      match instOf (TRK_ENC_TRACK_ID 0) 0x20 4 off with
      | some m => s.trackId m v
      | none => { s with regs := rwrite s.regs off v }.trkWritten off (s.reg off)

/-- A write at t_b of a register that belongs to no fibre engine: those a group may hold are of TRK and PMC (R302). -/
def State.sharedWrite (s : State) (off : Nat) (v : Word) : State :=
  if off / 0x10000 = 9 then s.trkHold.trkWrite off v
  else if off / 0x10000 = 12 then { s with regs := rwrite s.regs off v }.convRelatch.pmcWritten off v
  else s

/-- The part of a group for fibre engine n, with t_b known. -/
def State.partOfGroup (s : State) (g : Group) (n : Nat) (tb : Int) : DuePart :=
  let r0 := (s.f n).due.foldl (fun r d => rwrites r d.writes) s.regs
  let e := effectsOf r0 (rwrites r0 (g.writesOf n)) n (refsOf n (g.loadsOf n))
  ⟨tb, g.shotFor n, e.frame && (g.shotFor n).isNone, g.writesOf n, g.loadsOf n, none, g.order⟩

/-- References named by the part are built and current once it is in force (R145). -/
def State.refsBuilt (s : State) (n : Nat) (d : DuePart) : State :=
  s.modF n (fun f => { f with refValid := f.refValid ||| segMask (namedSegs (rwrites s.regs d.writes) n d.writes d.tabs) })

/-- A group's part for fibre engine n: an ARMED one takes it at its boundary shot, another at once. -/
def State.groupPart (s : State) (g : Group) (n : Nat) (tb : Int) : State :=
  if g.taken.testBit n then s
  else
    let d := s.partOfGroup g n tb
    if s.lstate n = 2 then (s.refsBuilt n d).addDue n d else (s.refsBuilt n d).applyPart n d none

/-- The group in slot k takes effect at its t_b. -/
def State.commitApply (s : State) (k : Nat) : State :=
  let due := fun (x : Option Group) => match x with
    | some g => (match g.tb with | some b => decide (b ≤ s.gridOf s.now) | none => false)
    | none => false
  if due (s.group k) then
    let s1 := s.commitLock k
    match s1.group k with
    | none => s1
    | some g =>
      let tb := g.tb.getD 0
      let s2 := g.writesShared.foldl (fun s w => s.sharedWrite w.1 w.2) (s1.addWrap SCH_EPOCH_EPOCH 1)
      let s3 := (List.range 4).foldl (fun s n => s.groupPart g n tb) s2
      s3.groupEnd k 1
  else s

/-- Every group whose t_b has come takes effect, in the order of t_b. -/
def State.commitsDue (s : State) : State :=
  let due := s.groupList.filter (fun x => match x.2.tb with | some b => decide (b ≤ s.gridOf s.now) | none => false)
  (sortBy (fun (x : Nat × Group) => x.2.tb.getD 0) due).foldl (fun s x => s.commitApply x.1) s

/-! ### External launch mode (R304, R145) -/

/-- The boundary of a SHOT group whose REF_FE is in external launch mode: t_b is the launch instant of shot s_b's marker, and
a change of a tone's segment or reference within 10 µs of staging aborts it (R145, R304). -/
def State.markerBound (s : State) (n shot : Nat) (tb : Int) : State :=
  (s.groupList.filter (fun x => !x.2.grid && x.2.refFe == n && x.2.tb.isNone && decide (x.2.shot ≤ shot))).foldl
    (fun s x =>
      let named := (List.range 4).any (fun m => refsChanged s.regs m (x.2.writesOf m) (x.2.loadsOf m))
      if named && decide (tb < s.gridOf x.2.since + 10000) then s.groupEnd x.1 2
      else s.setGroup x.1 (some { x.2 with tb := some tb })) s

/-- At an accepted marker, groups whose boundary is its shot take effect for the fibre engine (R304). -/
def State.markerParts (s : State) (n : Nat) (x : NextShot) : State :=
  let due := s.groupList.filter (fun y => match y.2.tb with | some b => decide (b ≤ x.gt) | none => false)
  due.foldl (fun s0 y =>
    let s := s0.commitLock y.1
    match s.group y.1 with
    | some g =>
      if g.taken.testBit n then s
      else
        let d := s.partOfGroup g n (g.tb.getD 0)
        ((s.refsBuilt n d).applyPart n d (some x)).setGroup y.1 (some { g with taken := g.taken ||| 2 ^ n })
    | none => s) s

/-! ### The registers and protections of staged groups (R62, R145, R187, R313) -/

/-- The words of SCH.CMT[k]: STATE, ID, BND_LO, BND_HI, TB_LO, TB_HI. -/
def State.cmtWord (s : State) (k w : Nat) : Nat :=
  match s.group k with
  | none => 0
  | some g =>
    let tb := ((g.tb.getD 0) % 2 ^ 64).toNat
    match w with
    | 0 => (if g.locked then 2 else 1) + 4 * g.grid.toNat + 8 * g.refFe + 256 * feBits g.touches + 65536 * g.entries.length
    | 1 => g.cmd.reqId.toNat
    | 2 => g.shot
    | 3 => g.shot / 2 ^ 32
    | 4 => tb
    | _ => tb / 2 ^ 32

/-- The segments of fibre engine n that staged groups name, with their extents at the boundary of each. -/
def State.stagedSegs (s : State) (n : Nat) : List (Nat × Nat × Nat) :=
  s.groupList.flatMap (fun x =>
    let a := s.ahead (x.2.order + 1)
    (namedSegs a.regs n (x.2.writesOf n) (x.2.loadsOf n)).map (fun j =>
      (j, rget a.regs (LNC_SEG_START_START n j), rget a.regs (LNC_SEG_LEN_LEN n j))))

end Sys2Proof.Machine
end

