-- ==== Sys2Proof/Machine/Shots.lean ====
section
/-! DEFINITION. Shots: the checks of an arming (R78), markers (R54 to R57, R490), launches (R37, R61, R67, R72, R489), segment
ends and gate windows (R69, R71), and LAUNCH_OUT (R53). -/

namespace Sys2Proof.Machine

/-! ### The checks of an arming (R78) -/

/-- Is a Weir routed to fibre engine n UNRESOLVED (R405)? -/
def State.weirUnresolved (s : State) (n : Nat) : Bool :=
  (List.range 16).any (fun m =>
    s.weirEn m && (s.get (WMN_WM_CFG_ROUTE m)).testBit n && s.on (WMN_STATUS_UNRESOLVED.bit m))

/-- Does a Weir's gate keep the external-mode limit of R402? -/
def State.weirGatesOk (s : State) (n : Nat) : Bool :=
  (List.range 16).all (fun m => !(s.weirEn m && s.on (WMN_WM_CFG_GATE_EN m) && s.get (WMN_WM_CFG_FE m) == n) ||
    decide (-40 ≤ s.getI (WMN_WM_GATE_START_START m)))

/-- The checks of R78 in code order, each with the CFG_ERR bits that its failing sets. Of the commands running, this ARM is
one: another holds the ladder (R497). -/
def State.armChecks (s : State) (n : Nat) : List (Nat × Bool × List FRef) :=
  let r := s.regs
  let ext := extOf r n
  [ (1, armMode s.mode, []),
    (2, !s.busyFe n, []),
    (3, decide (s.ladderTarget (decide (2 ≤ s.runningCount)) < 4), []),
    (4, s.on (LNC_ENV_CTL_VALID n), []),
    (5, !s.tripLive n, []),
    (6, !s.weirUnresolved n, []),
    (7, ext || (s.on TIM_STATUS_GT_VALID && decide (2 ≤ s.get TIM_STATUS_CLK_STATE)), []),
    (8, windowOk r n && darkOk r n, [TIM_EVENTS_CFG_ERR]),
    (8, !ext || s.weirGatesOk n, []),
    (9, waveformOk r n, [LNC_EVENTS_CFG_ERR n]),
    (10, dutyOk r n, []),
    (11, (s.covering n).isSome && phaseOk r n, []),
    (11, acfOk r n && s.chainProvided r n, [ACF_EVENTS_CFG_ERR n]),
    (11, dtsOk r n && s.ramanHeld r n, [DTS_EVENTS_CFG_ERR n]),
    (11, evtOk r n && mapOk s.tables r n && regOk r n && s.detectorHeld r n, [EVT_EVENTS_CFG_ERR n]),
    (11, s.provided r n, []) ]

/-- The lowest failing code (0: accepted) and the CFG_ERR bits of the checks that fail with it. -/
def State.armCode (s : State) (n : Nat) : Nat × List FRef :=
  let bad := (s.armChecks n).filter (fun c => !c.2.1)
  match bad with
  | c :: _ => (c.1, (bad.filter (fun d => d.1 == c.1)).flatMap (fun d => d.2.2))
  | [] => (0, [])

/-- ARM executes (R78, R79): refused with a code, or the sequence starts. -/
def State.armCmd (s : State) (n : Nat) (c : Cmd) : State :=
  let r := s.armCode n
  if r.1 = 0 then s.armStart n c
  else (((s.evs r.2).set (LNC_ARM_RESULT_CODE n) r.1).ev (LNC_EVENTS_ARM_FAIL n)).complete c r.1 0

/-! ### The settings of a shot to come (R71) -/

/-- A group that is locked, as a part with its boundary. -/
def State.lockedParts (s : State) (n : Nat) : List DuePart :=
  (s.groupList.filter (fun x => x.2.locked && x.2.tb.isSome && !x.2.taken.testBit n)).map
    (fun x => s.partOfGroup x.2 n (x.2.tb.getD 0))

/-- The boundary of a part under a grid. -/
def FeSt.partAt (f : FeSt) (r : Tab Word) (n : Nat) (d : DuePart) : Int :=
  match d.shot with
  | some x => f.instOf r n x
  | none => if d.frame then (f.frameShot r n (f.frameAt (priOf r n) d.tb)).gt else d.tb

/-- Registers and grid of fibre engine n as a launch at grid instant g will find them: parts that wait for their boundary and
groups locked by now, where their boundary lies at or before g. -/
def State.aheadTo (s : State) (n : Nat) (g : Int) : State :=
  ((s.f n).due ++ s.lockedParts n).foldl (fun s d =>
    if (s.f n).partAt s.regs n d ≤ g then s.aheadFe n (some d.tb) d.shot d.writes d.sent else s) s

/-- The shot that a grid instant is under the grid in force. -/
def FeSt.shotAt (f : FeSt) (r : Tab Word) (n : Nat) (g : Int) : NextShot :=
  let pri := priOf r n
  let t := (f.form r n).1
  let d := g - f.anchorT
  f.toneShot r n (d / pri).toNat ((d % pri).toNat / (pri / t))

/-! ### Raman shots and pairs (R67, R72) -/

/-- The Raman count at the frame of a shot of tone k: frames that launch are counted at their starts. `counted` says that the
start has been counted already. None: no frame has been counted since the count restarted. -/
def FeSt.ramanIdx (f : FeSt) (counted : Bool) : Option Nat :=
  if counted then (if f.ramanCnt = 0 then none else some (f.ramanCnt - 1)) else some f.ramanCnt

/-- Is a shot of tone k a Raman shot? -/
def FeSt.ramanShot (f : FeSt) (r : Tab Word) (n k : Nat) (counted : Bool) : Bool :=
  ron r (LNC_RAMAN_CFG_EN n) && f.sent.isNone && rget r (LNC_RAMAN_CFG_TONE n) == k &&
    (match f.ramanIdx counted with
     | some i => i % ramanEvery r n == 0
     | none => false)

/-- The pair member a tone plays next: 0 A, 1 B. -/
def FeSt.member (f : FeSt) (r : Tab Word) (n k : Nat) : Nat :=
  if ron r (LNC_TONE_SEG_PAIR n k) ∧ f.pairNext.testBit k then 1 else 0

/-- The segment a tone plays. -/
def segOf (r : Tab Word) (n k member : Nat) : Nat :=
  if member = 1 then rget r (LNC_TONE_SEG_SEG_B n k) else rget r (LNC_TONE_SEG_SEG_A n k)

/-! ### Gate windows (R69, R71) -/

/-- Does gate g fire for a shot of tone k? -/
def gateFires (r : Tab Word) (n g k : Nat) (raman : Bool) : Bool :=
  match gateMode r n g with
  | 2 => (rget r (LNC_GATE_CFG_TONE_MASK n g)).testBit k
  | 3 => raman
  | _ => false

/-- The windows of a launched shot that have still to open. -/
def State.planWins (s : State) (n k shot : Nat) (raman : Bool) : State :=
  s.modF n (fun f => { f with wins := f.wins ++ (List.range 4).filterMap (fun g =>
    let st := gateStart s.regs n g
    if gateFires s.regs n g k raman ∧ 0 ≤ st ∧ !f.wins.any (fun w => w.gate == g && w.shot == shot) then
      some ⟨g, shot, s.now + st.toNat, s.now + st.toNat + gateDur s.regs n g⟩
    else none) })

/-- The window of gate g that opens now for a launch to come, timed with the settings in force for it (R71). `st` is the START
under which now is its opening. -/
def State.winAhead (s : State) (n g : Nat) (st : Int) : Option GateWin :=
  let l := s.gridOf s.now - st
  let a := s.aheadTo n l
  let f := a.f n
  let r := a.regs
  if gateStart r n g = st ∧ s.gridOf s.now ≤ l ∧ a.launchAt n l then
    if extOf r n then
      match f.marker with
      | some m => if gateFires r n g 0 (f.ramanShot r n 0 false) then some ⟨g, m.shot, s.now, s.now + gateDur r n g⟩ else none
      | none => none
    else
      let x := f.shotAt r n l
      let k := (x.shot - f.anchorS) % (f.form r n).1
      let start := (f.toneShot r n ((x.shot - f.anchorS) / (f.form r n).1) 0).gt
      let counted := match f.next with | some y => decide (start < y.gt) | none => true
      let f1 := if fieldsDiffer s.regs r [LNC_RAMAN_CFG_EN n, LNC_RAMAN_CFG_TONE n, LNC_RAMAN_CFG_EVERY n] ||
          ((s.f n).sent.isSome && f.sent.isNone) then { f with ramanCnt := 0 }
        else match f.next with
          | some y => if y.gt < start ∧ (y.shot - f.anchorS) % (f.form r n).1 = 0 then { f with ramanCnt := f.ramanCnt + 1 } else f
          | none => f
      if gateFires r n g k (f1.ramanShot r n k counted) then some ⟨g, x.shot, s.now, s.now + gateDur r n g⟩ else none
  else none

/-- GATE_WINDOW_OPEN: a gate goes active for a launch to come, or as the window of a launched shot says. Windows open only
while the fibre engine is ARMED (R40, R82). -/
def State.gateOpen (s : State) (n g : Nat) : State :=
  if s.lstate n = 2 then
    let s1 := s.lncSync n
    let far := (s1.aheadTo n (s1.gridOf s1.now + 20000)).regs
    let w := match s1.winAhead n g (gateStart s1.regs n g) with
      | some w => some w
      | none => s1.winAhead n g (gateStart far n g)
    let s2 := match w with
      | some w => s1.modF n (fun f =>
          if f.wins.any (fun x => x.gate == g && x.shot == w.shot) then f else { f with wins := f.wins ++ [w] })
      | none => s1
    s2.gatesEval n
  else s

/-- GATE_WINDOW_CLOSE: windows that have ended leave; the gate stays active over the union of the others. -/
def State.gateClose (s : State) (n g : Nat) : State :=
  ((s.lncSync n).modF n (fun f => { f with
    wins := f.wins.filter (fun w => !(w.gate == g && decide (w.close ≤ s.now))) })).gatesEval n

/-! ### Launches -/

/-- A segment ends: the DACs return to the extinction codes (R61). -/
def State.segmentEnd (s : State) (n : Nat) : State :=
  match (s.f n).seg with
  | some g => if 2 * g.launch + g.len ≤ 2 * s.now then 
      (s.lncSync n).modF n (fun f => { f with past := f.retired s.now (s.get (LNC_ENV_PEAK_PEAK n)), seg := none })
    else s
  | none => s

/-- The launch record of shot x, tone k of a frame of t tones (R67, R72, R305). -/
def State.shotRec (s : State) (n : Nat) (x : NextShot) (k t : Nat) : Shot :=
  let f := s.f n
  let r := s.regs
  let m := f.member r n k
  let j := segOf r n k m
  let gap := k * (priOf r n / t)
  let raman := f.ramanShot r n k (k != 0)
  { shot := x.shot, tone := k, tones := t, frame := x.shot - k, frameL := s.now - gap, frameGt := x.gt - gap, member := m
    raman := raman, launch := s.now, gt := (x.gt % 2 ^ 64).toNat, seg := j, len := rget r (LNC_SEG_LEN_LEN n j), regs := r
    epoch := f.epoch, sent := f.sent, ext := extOf r n, idx := f.idx, armFirst := f.armFirst, phInit := f.phInit
    realign := f.phRe.testBit k, pairNew := f.pairNew.testBit k, acfRe := f.acfRe, evtRe := f.evtRe, swap := f.swap
    ref := s.refCoef r n j
    prof := if raman then s.tables.filter (fun p => tableAt p.1 == some (.prof n)) else []
    map := s.tables.filter (fun p => tableAt p.1 == some (.map n))
    phsDone := false, dtsDone := !raman || !dtsOn r n || s.mode == 4, cut := false, lost := f.poison }

/-- A shot launches now: waiting calibration changes take effect at a frame start (R42), its segment plays, its record is
made, its windows are planned (R44, R59, R61, R66, R67, R72). -/
def State.fire (s : State) (n : Nat) (x : NextShot) (k t : Nat) : State :=
  let s0 := s.lncSync n
  let s1 := if k = 0 then s0.bgFrameStart n else s0
  let rec_ := s1.shotRec n x k t
  let r := s1.regs
  let seg : Playing := ⟨rget r (LNC_SEG_START_START n rec_.seg), rec_.len, mixInc (toneKhz r n k), s1.now, x.shot⟩
  let s2 := s1.modF n (fun f => { f with
    past := f.retired s1.now (s1.get (LNC_ENV_PEAK_PEAK n)), seg := some seg, clampDone := 0, recs := f.recs ++ [rec_], marker := none
    lastNum := some x.shot, lastLaunch := some s1.now
    launches := s1.now :: f.launches.filter (fun l => decide (s1.now ≤ l + 200000))
    pairNext := if ron r (LNC_TONE_SEG_PAIR n k) then f.pairNext ^^^ 2 ^ k else f.pairNext
    ramanCnt := if k = 0 ∧ f.sent.isNone then f.ramanCnt + 1 else f.ramanCnt
    idx := f.idx + 1, armFirst := false, phInit := false, phRe := f.phRe - (f.phRe &&& 2 ^ k)
    pairNew := f.pairNew - (f.pairNew &&& 2 ^ k), acfRe := false, evtRe := false, swap := [] })
  let s3 := (s2.planWins n k x.shot rec_.raman).darkSpan n
  let s4 := (s3.set (TIM_FE_SHOT_LO_SHOT n) x.shot).set (TIM_FE_SHOT_HI_SHOT n) (x.shot / 2 ^ 32)
  let s5 := (s4.set (TIM_FE_SHOT_HI_VALID n) 1).set2 (TIM_FE_LAST_GT_LO_GT n) (TIM_FE_LAST_GT_HI_GT n) s4.gt
  let s6 := if k = 0 then s5.pmcEvent (8 + n) else s5
  if s6.launchOutSel n (k == 0) && (extOf r n || s6.get TIM_LAUNCH_OUT_CFG_ADV == 0) then s6.launchOut else s6

/-- A grid launch: parts reached take effect, the shot launches, and the next launch of the form in force is fixed (R37,
R489). -/
def State.launchGrid (s : State) (n : Nat) (x : NextShot) : State :=
  let s1 := s.applyReached n x ((s.f n).isStart s.regs n x.shot || (s.f n).rebased s.regs n)
  let f := s1.f n
  let t := (f.form s1.regs n).1
  let k := (x.shot - f.anchorS) % t
  (s1.fire n x k t).modF n (fun f =>
    FeSt.nextFix { f with next := some (f.following s1.regs n x.shot) } s1.regs n)

/-- LAUNCH: the shot whose instant is now launches, unless a pending disarm takes effect there (R82). -/
def State.launch (s0 : State) (n : Nat) : State :=
  let s := s0.commitsDue
  if s.lstate n ≠ 2 then s
  else if extOf s.regs n then
    match (s.f n).marker with
    | some m => if m.m + 48 = s.now then s.fire n ⟨m.shot, s.gridOf s.now⟩ 0 1 else s
    | none => s
  else
    match (s.f n).next with
    | some x =>
      if x.gt ≠ s.gridOf s.now then s
      else if s.disarmDue n then s.disarmEffect n
      else s.launchGrid n x
    | none => s

/-! ### Markers (R54 to R57, R490) -/

/-- An accepted marker at m = now takes the next shot number; groups whose boundary it is take effect; it launches, or not in
SENTINEL between strides. -/
def State.markerTake (s : State) (n : Nat) : State :=
  let shot := match (s.f n).lastNum with | some x => x + 1 | none => 0
  let x : NextShot := ⟨shot, s.gridOf s.now + 48⟩
  let s1 := ((s.applyReached n x true).markerBound n shot x.gt).markerParts n x
  let go := match (s1.f n).sent with | some z => z.count % z.stride == 0 | none => true
  s1.modF n (fun f => { f with
    lastNum := some shot, lateFrom := s.now + 48 + guardEndOf s1.regs n
    marker := if go then some ⟨s.now, shot⟩ else none
    sent := f.sent.map (fun z => { z with count := z.count + 1 }) })

/-- A LAUNCH_IN edge at fibre engine n: accepted, early, or ignored. -/
def State.marker (s : State) (n : Nat) : State :=
  if s.lstate n ≠ 2 ∨ !extOf s.regs n ∨ (s.f n).disarm.isSome then s
  else if s.now < (s.f n).lateFrom then
    (s.addSat (TIM_FE_EARLY_CNT_COUNT n) 1).ev (TIM_EVENTS_LAUNCH_EARLY.bit n)
  else s.markerTake n

/-- LAUNCH_IN_EDGE: the pin serves every fibre engine in external launch mode. -/
def State.launchIn (s : State) : State := (List.range 4).foldl (fun s n => s.marker n) s

/-- LAUNCH_LATE: an interval of LATE_TO µs has passed without an accepted marker (R56). -/
def State.launchLate (s : State) (n : Nat) : State :=
  let late := s.get (TIM_FE_LAUNCH_CTL_LATE_TO n)
  let f := s.f n
  if s.lstate n = 2 ∧ extOf s.regs n ∧ late ≠ 0 ∧ f.lateFrom + 1000 * late ≤ s.now then
    (((s.addSat (TIM_FE_LATE_CNT_COUNT n) 1).ev (TIM_EVENTS_LAUNCH_LATE.bit n))).modF n (fun f =>
      { f with lateFrom := f.lateFrom + 1000 * late })
  else s

/-- LAUNCH_OUT_RISE: in grid mode LAUNCH_OUT rises ADV ns before a launch of a selected fibre engine (R53). -/
def State.launchOutRise (s : State) (n : Nat) : State :=
  let l := s.gridOf s.now + s.get TIM_LAUNCH_OUT_CFG_ADV
  let a := s.aheadTo n l
  let f := a.f n
  if s.lstate n = 2 ∧ !extOf a.regs n ∧ a.launchAt n l then
    if s.launchOutSel n (f.isStart a.regs n (f.shotAt a.regs n l).shot) then s.launchOut else s
  else s

end Sys2Proof.Machine
end

