-- ==== Sys2Proof/Machine/RegView.lean ====
section
/-! DEFINITION. Register reads: the present value of every register (R15, R548), among them those that show state held
elsewhere, the snapshots of R551, and what a read does (R17, R265, R551). -/

namespace Sys2Proof.Machine

/-! ### Present values -/

/-- A number with bit i set where a predicate holds, for i below n. -/
def bitsOf (n : Nat) (p : Nat → Bool) : Nat := (List.range n).foldl (fun m i => if p i then m + 2 ^ i else m) 0

/-- The enable groups whose rails are above their thresholds now (R517, R522). -/
def State.railsGood (s : State) : Nat :=
  bitsOf 4 (fun k => s.railGroup k && !s.pwr.low.testBit k && !(k == 0 && s.pwr.low.testBit 4))

/-- Registers of SYS and PWR. After a cold reset STATUS reads its reset entry until a power step or boot step 5 (log 94); the
count of the present ladder state runs (R517). -/
def State.livePwr (s : State) (off : Nat) (w : Word) : Word :=
  match instOf (SYS_SERIAL 0) 4 4 off with
  | some i => Config.serial i
  | none =>
    match instOf (PWR_CHALLENGE 0) 4 4 off with
    | some i => Config.challenge s.pwr.chal i
    | none =>
      if off = PWR_MODE then PWR_MODE_TARGET.put (PWR_MODE_CHANGING.put w s.changing.toNat) (s.ladderTarget true)
      else if off = PWR_HOLD then
        BitVec.ofNat 32 (s.holdL0.toNat + 2 * (s.holdL3 true).toNat + 4 * s.holdL4.toNat + 8 * (s.mode != 3 && s.mode != 5).toNat)
      else if off = PWR_STATUS then
        PWR_STATUS_XTAL32.put (PWR_STATUS_PG.put w (if s.pwr.shown then s.railsGood else 0))
          (s.pwr.shown && s.pwr.aon && vget .ok s.flt.rails 115 == .ok).toNat
      else if off = PWR_RES s.ladder then s.resAcc.reg off
      else if off = PWR_RTC_LO then BitVec.ofNat 32 s.rtcTicks
      else if off = PWR_RTC_HI then BitVec.ofNat 32 (s.rtcTicks / 2 ^ 32)
      else w

/-- Registers of TIM. -/
def State.liveTim (s : State) (off : Nat) (w : Word) : Word :=
  if off = TIM_STATUS then TIM_STATUS_FE_ARMED.put w (feBits (fun n => s.lstate n == 2))
  else if off = TIM_GT_LO then BitVec.ofNat 32 s.gt
  else if off = TIM_GT_HI then BitVec.ofNat 32 (s.gt / 2 ^ 32)
  else w

/-- Registers of LNC and ACQ. -/
def State.liveLnc (s : State) (off : Nat) (w : Word) : Word :=
  match instOf (LNC_STATUS 0) 0x4000 4 off with
  | some n =>
    (LNC_STATUS_PAIR_NEXT n).put ((LNC_STATUS_SAFE_N_LIVE n).put ((LNC_STATUS_TRIP_LIVE n).put w (s.tripLive n).toNat)
      s.safeN.toNat) (if s.lstate n = 2 then (s.f n).member s.regs n 0 else 0)
  | none => w

def State.liveAcq (s : State) (off : Nat) (w : Word) : Word :=
  match instOf (ACQ_CCH_STAT 0) 0x10 16 off with
  | some c => (ACQ_CCH_STAT_BG_ACTIVE c).put w (s.bgCoh c).toNat
  | none =>
    match instOf (ACQ_ICH_STAT 0) 0x10 8 off with
    | some i => (ACQ_ICH_STAT_BG_ACTIVE i).put w (s.bgInt i).toNat
    | none => w

/-- PHS.STATUS: RUN, INIT_PENDING, NB, REALIGN. Branches are in use while the engine arms, is armed or has shots in work
(log 75). -/
def State.phsStatus (s : State) (n : Nat) : Nat :=
  let f := s.f n
  let wait := f.recs.filter (fun r => !r.phsDone)
  (!wait.isEmpty).toNat + 2 * (f.phInit || wait.any (·.phInit)).toNat + 4 * (if s.busyFe n || !wait.isEmpty then branchesOf s.regs n else 0)
    + 256 * (f.phRe ||| wait.foldl (fun m r => if r.realign then m ||| 2 ^ r.tone else m) 0)

/-- Registers of PHS. -/
def State.livePhs (s : State) (off : Nat) (w : Word) : Word :=
  let n := off % 0x10000 / 0x4000
  if off = PHS_STATUS n then BitVec.ofNat 32 (s.phsStatus n)
  else
    match instOf (PHS_REF_CFG n 0) 4 8 off with
    | some j => (PHS_REF_CFG_VALID n j).put w ((s.f n).refValid.testBit j).toNat
    | none => w

/-- Registers of ACF and DTS. -/
def State.liveAcf (s : State) (off : Nat) (w : Word) : Word :=
  match instOf (ACF_DELAY2 0) 0x4000 4 off with
  | some n => BitVec.ofNat 32 (d2Of s.regs n % 65536)
  | none => w

def State.liveDts (s : State) (off : Nat) (w : Word) : Word :=
  match instOf (DTS_STATUS 0) 0x100 4 off with
  | some n =>
    let d := (s.f n).dts
    let c := match d.cur with | some a => a.count | none => 0
    BitVec.ofNat 32 (d.cur.isSome.toNat + 2 * (!d.done.isEmpty).toNat + 4 * d.set.toNat + 16 * c)
  | none => w

/-- The head of the FIFO of the magnetic switches: the register, and its time. -/
def State.msHead (s : State) : Nat × Nat :=
  match s.trk.fifo with
  | e :: _ => (e.1 + 8 * e.2.1.toNat + 2 ^ 31, e.2.2)
  | [] => (0, 0)

/-- Registers of TRK. -/
def State.liveTrk (s : State) (off : Nat) (w : Word) : Word :=
  if off = TRK_MS_FIFO then BitVec.ofNat 32 s.msHead.1
  else if off = TRK_MS_GT_LO then BitVec.ofNat 32 s.msHead.2
  else if off = TRK_MS_GT_HI then BitVec.ofNat 32 (s.msHead.2 / 2 ^ 32)
  else
    match instOf (TRK_QIN_POS_SNAP 0) 0x40 2 off with
    | some i => BitVec.ofNat 32 (s.qinSnap i)
    | none =>
      match instOf (TRK_SSI_GT_LO 0) 0x20 2 off with
      | some p => BitVec.ofInt 32 (s.ssi p).dataGt
      | none =>
        match instOf (TRK_SSI_GT_HI 0) 0x20 2 off with
        | some p => BitVec.ofInt 32 ((s.ssi p).dataGt / 2 ^ 32)
        | none => w

/-- Registers of SCH. -/
def State.liveSch (s : State) (off : Nat) (w : Word) : Word :=
  if off = SCH_STATUS then BitVec.ofNat 32 s.schStatus
  else if 0x0A0100 ≤ off ∧ off < 0x0A0200 then BitVec.ofNat 32 (s.imgWord ((off - 0x0A0100) / 0x40) (off % 0x40 / 4))
  else if 0x0A0200 ≤ off ∧ off < 0x0A0300 ∧ off % 0x40 < 0x18 then
    BitVec.ofNat 32 (s.feWord ((off - 0x0A0200) / 0x40) (off % 0x40 / 4))
  else if 0x0A0300 ≤ off ∧ off < 0x0A0400 then BitVec.ofNat 32 (s.cmtWord ((off - 0x0A0300) / 0x20) (off % 0x20 / 4))
  else w

/-- Registers of HIF. -/
def State.liveHif (s : State) (off : Nat) (w : Word) : Word :=
  if off = HIF_STATUS then
    HIF_STATUS_DRAINING.put (HIF_STATUS_SPILL_BACKLOG.put w s.backlog.toNat)
      (s.backlog && s.attach == 0 && s.on HIF_CFG_AUTO_DRAIN && s.mode != 7).toNat
  else if off = HIF_SPILL_USED then BitVec.ofNat 32 (cdiv (spillBytes s.spill.general + spillBytes s.spill.reserved) 1024)
  else if off = HIF_HELD_CNT then BitVec.ofNat 32 s.hif.heldCpl.length
  else
    match instOf (HIF_CPL_HELD 0) 0x40 16 off with
    | some k => BitVec.ofNat 32 (s.hif.heldCpl.filter (fun c => c.ring == k)).length
    | none => w

/-- PMC.STATUS. -/
def State.pmcStatus (s : State) : Nat :=
  let p := s.pmc
  let inj := bitsOf 4 (fun j => decide (0 < vget 0 p.wait j))
  let run := match p.conv with
    | some c => if c.slot < 64 then 256 * c.slot else 128 + 16384 * (c.slot - 64)
    | none => 0
  p.pass.toNat + 2 * p.cal.isSome.toNat + 4 * p.pend.toNat + 8 * inj + run + 65536 * s.pmcMeasuring.toNat
    + 131072 * p.refOk.toNat

/-- Registers of PMC. -/
def State.livePmc (s : State) (off : Nat) (w : Word) : Word :=
  if off = PMC_STATUS then BitVec.ofNat 32 s.pmcStatus
  else
    match instOf (PMC_INJ_GT_LO 0) 0x20 4 off with
    | some j => BitVec.ofNat 32 (vget 0 s.pmc.injGt j)
    | none =>
      match instOf (PMC_INJ_GT_HI 0) 0x20 4 off with
      | some j => BitVec.ofNat 32 (vget 0 s.pmc.injGt j / 2 ^ 32)
      | none => w

/-- Registers of WMN. -/
def State.liveWmn (s : State) (off : Nat) (w : Word) : Word :=
  if off = WMN_STATUS then WMN_STATUS_TRIP_ROUTING.put w (routesTrip s.mode).toNat
  else if off = WMN_LIVE then BitVec.ofNat 32 (bitsOf 16 (fun m => s.weirOut m))
  else w

/-- Registers of FLT. -/
def State.liveFlt (s : State) (off : Nat) (w : Word) : Word :=
  match instOf (FLT_LIVE 0) 4 4 off with
  | some k => BitVec.ofNat 32 (bitsOf 32 (fun b => vget .ok s.flt.rails (32 * k + b) == .err))
  | none =>
    match instOf (FLT_LIVE_WIRE 0) 4 4 off with
    | some k => BitVec.ofNat 32 (bitsOf 32 (fun b => vget .ok s.flt.rails (32 * k + b) == .wire))
    | none => w

/-- Registers of BRM and NVS. -/
def State.liveBrm (s : State) (off : Nat) (w : Word) : Word :=
  if off = BRM_STATUS then BRM_STATUS_SCRUB_ACTIVE.put w (s.on BRM_SCRUB_CFG_EN && s.on BRM_STATUS_INIT_DONE).toNat
  else w

def State.liveNvs (s : State) (off : Nat) (w : Word) : Word :=
  if off = NVS_STATUS then NVS_STATUS_BUSY.put w s.nvs.wr.isSome.toNat else w

/-- A word of configuration space beside MSI-X, at the place that log 20 gives it; the IDs and the class code are those of
SYS.ID and SYS.CLASS (R1). -/
def PciSt.word (p : PciSt) (a : Nat) : Word :=
  match a with
  | 4 => BitVec.ofNat 32 p.pm
  | 8 => BitVec.ofNat 32 (2 ^ 5 * p.mps + 2 ^ 12 * p.mrrs)
  | 12 => BitVec.ofNat 32 p.unc
  | 16 => BitVec.ofNat 32 p.sev
  | 20 => BitVec.ofNat 32 p.cor
  | 24 => vget 0 p.bars 0
  | 28 => vget 0 p.bars 1
  | 32 => vget 0 p.bars 2
  | 36 => vget 0 p.bars 3
  | 40 => 0x4080C4A7
  | 44 => 0x118000B0
  | 48 => BitVec.ofNat 32 (2 * p.aspm.toNat)
  | _ => 0

/-- A word of BAR2 (R317, R319, R547): doorbells read the index as last accepted, then the MSI-X table and pending bits.
BAR2 is addressed from 0x100_0000 on, and configuration space from 0x200_0000 on (log 20). -/
def State.liveBar2 (s : State) (a : Nat) : Word :=
  if a % 0x40 = 0 ∧ a < 0x400 then BitVec.ofNat 32 (s.get (HIF_CMD_TAIL_INDEX (a / 0x40)))
  else if a % 0x40 = 0 ∧ a < 0x800 then BitVec.ofNat 32 (s.get (HIF_CPL_HEAD_INDEX ((a - 0x400) / 0x40)))
  else if a % 0x40 = 0 ∧ a < 0x1000 then BitVec.ofNat 32 (s.get (HIF_STR_TAIL_INDEX ((a - 0x800) / 0x40)))
  else if 0x8000 ≤ a ∧ a < 0x8400 then s.msixWord ((a - 0x8000) / 4)
  else if 0x9000 ≤ a ∧ a < 0x9008 then BitVec.ofNat 32 (s.hif.pba / 2 ^ (8 * (a - 0x9000)))
  else if a = 0x1000000 then BitVec.ofNat 32 (2 ^ 31 * s.hif.msixEn.toNat + 2 ^ 30 * s.hif.msixMask.toNat)
  else if 0x1000000 ≤ a then s.hif.pci.word (a - 0x1000000)
  else 0

/-- The present value of a register at its offset; unassigned offsets read 0 (R13). Table words read as they are stored. -/
def State.live (s : State) (off : Nat) : Word :=
  if 0x1000000 ≤ off then s.liveBar2 (off - 0x1000000)
  else if 0x400000 ≤ off then (if (tableAt off).isSome then s.tword off else 0)
  else if (regAt off).isNone then 0
  else
    let w := s.reg off
    match off / 0x10000 with
    | 0 | 1 => s.livePwr off w
    | 2 => s.liveTim off w
    | 3 => s.liveLnc off w
    | 4 => s.liveAcq off w
    | 5 => s.livePhs off w
    | 6 => s.liveAcf off w
    | 7 => s.liveDts off w
    | 9 => s.trkView.liveTrk off (s.trkView.reg off)
    | 10 => s.liveSch off w
    | 11 => s.liveHif off w
    | 12 => s.livePmc off w
    | 13 => s.liveWmn off w
    | 14 => s.liveFlt off w
    | 16 => s.liveBrm off w
    | 17 => s.liveNvs off w
    | _ => w

/-! ### Snapshots (R32, R551) -/

/-- The registers that a read of a register captures. -/
def captures (off : Nat) : List Nat :=
  let inst := fun (base stride count : Nat) => isInst base stride count off
  if off = TIM_GT_LO ∨ off = PWR_LAT_TOL_LO ∨ off = PWR_RTC_LO ∨ off = HIF_DETACH_GT_LO ∨ off = HIF_REATTACH_GT_LO ∨ off = PMC_PASS_GT_LO then
    [off + 4]
  else if inst (TIM_FE_SHOT_LO 0) 0x100 4 then [off + 4, off + 8, off + 12]
  else if inst (LNC_TRIP_GT_LO 0) 0x4000 4 || inst (PHS_LAST_SHOT_LO 0) 0x4000 4 || inst (ACF_DELAY_LO 0) 0x4000 4
      || inst (ACF_LAST_OUT_LO 0) 0x4000 4 || inst (DTS_LAST_SHOT_LO 0) 0x100 4 || inst (TRK_QIN_POS 0) 0x40 2
      || inst (SCH_CMT_BND_LO 0) 0x20 8 || inst (SCH_CMT_TB_LO 0) 0x20 8 || inst (WMN_WM_SET_GT_LO 0) 0x20 16
      || inst (FLT_FE_INVALID_LO 0) 8 4 then [off + 4]
  else if off = TRK_MS_FIFO ∨ inst (TRK_SSI_DATA 0) 0x20 2 ∨ inst (PMC_INJ_RESULT 0) 0x20 4 then [off + 4, off + 8]
  else []

/-- Is a register captured by a read of another? -/
def captured (off : Nat) : Bool :=
  (captures (off - 4)).contains off || (captures (off - 8)).contains off || (captures (off - 12)).contains off

/-- The number of a master in the snapshot table. -/
def masterIdx : Master → Nat
  | .polder => 0
  | .app => 1
  | .host => 2
  | .spi => 3
  | .jtag _ => 4

/-- The key of a captured register in the snapshots of a master. -/
def snapKey (m : Master) (off : Nat) : Nat := masterIdx m * 2 ^ 25 + off

/-- What a master reads from a register (R15, R551). A management SPI read outside the PMC returns 0 (R387). -/
def State.regView (s : State) (m : Master) (off : Nat) : Word :=
  if m = .spi ∧ off / 0x10000 ≠ 12 then 0
  else if captured off then tget 0 s.snaps (snapKey m off) else s.live off

/-! ### What a read does -/

/-- Capture the paired registers into the master's snapshot. -/
def State.capture (s : State) (m : Master) (off : Nat) : State :=
  { s with snaps := (captures off).foldl (fun t y => tput 0 t (snapKey m y) (s.live y)) s.snaps }

/-- Clear the RC fields of a register (R17). -/
def State.rcClear (s : State) (off : Nat) : State :=
  match regAt off with
  | some r => s.setReg off (s.reg off &&& ~~~ BitVec.ofNat 32 (r.mask (fun a => a == .rc)))
  | none => s

/-- A read of one register by a master. -/
def State.readWord (s : State) (m : Master) (off : Nat) : State :=
  if m = .spi ∧ off / 0x10000 ≠ 12 then s
  else
    let s1 := s.capture m off
    let s2 := match instOf (TRK_QIN_POS 0) 0x40 2 off with
      | some i => s1.qinPosRead i
      | none => s1
    if m = .jtag true then s2
    else
      let s3 := s2.rcClear off
      if off = TRK_MS_FIFO then s3.setTrk { s3.trk with fifo := s3.trk.fifo.drop 1 } else s3

/-- Counts that move with time come up to date before they are read (R74, R76). -/
def State.readSync (s : State) (off : Nat) : State := if off / 0x10000 = 3 then s.lncSync (off % 0x10000 / 0x4000) else s

/-- May a master reach the registers now: the main domain is up and not deeper than L3, where the access itself starts the
exit (R494, R499)? -/
def State.busUp (s : State) : Bool := s.mainUp && decide (s.ladder ≤ 3)

/-- The words that a read of consecutive registers returns: each is read in turn, the lower first (R12). -/
def State.readWords (s : State) (m : Master) (off : Nat) : Nat → List Word
  | 0 => []
  | k + 1 =>
    let s1 := s.readSync off
    s1.regView m off :: (s1.readWord m off).readWords m (off + 4) k

/-- The bytes that a read of any width and alignment returns, little-endian (R12). -/
def State.readBytes (s : State) (m : Master) (off bytes : Nat) : List Byte :=
  let first := off / 4
  let ws := s.readWords m (4 * first) ((off + bytes - 1) / 4 + 1 - first)
  ((ws.flatMap (fun w => leBytes 4 w.toNat)).drop (off % 4)).take bytes

/-- What a read of BAR0 or BAR2 returns to its master; none where the access does not complete. -/
def State.busData (s0 : State) (b : Bus) (off bytes : Nat) : Option (List Byte) :=
  let s := s0.at b.t
  if s.busUp then some (s.accessWake.readBytes b.m off bytes) else none

/-- A read of `bytes` bytes at any offset is a read of every register it addresses, the lower first (R12). -/
def State.busRead (s0 : State) (b : Bus) (off bytes : Nat) : State :=
  let s := s0.at b.t
  if s.busUp then
    let s1 := s.accessWake
    let first := off / 4
    let last := (off + bytes - 1) / 4
    (List.range (last + 1 - first)).foldl (fun s i => (s.readSync (4 * (first + i))).readWord b.m (4 * (first + i))) s1
  else s

end Sys2Proof.Machine
end

