-- ==== Sys2Proof/Machine/RegAccess.lean ====
section
/-! DEFINITION. Register and table writes (R12, R13, R15, R18, R545 to R549): which writes are ignored, which are refused with
CFG_ERR, what a stored word does beyond its storing, the writes of BAR2, and the management SPI (R386, R387). -/

namespace Sys2Proof.Machine

/-! ### CFG_ERR of a block -/

/-- The CFG_ERR bit of the block that holds an offset (R18). -/
def cfgErrOf (off : Nat) : FRef :=
  let n := off % 0x10000 / 0x4000
  match off / 0x10000 with
  | 0 => SYS_EVENTS_CFG_ERR
  | 1 => PWR_EVENTS_CFG_ERR
  | 2 => TIM_EVENTS_CFG_ERR
  | 3 => LNC_EVENTS_CFG_ERR n
  | 4 => ACQ_EVENTS_CFG_ERR
  | 5 => PHS_EVENTS_CFG_ERR n
  | 6 => ACF_EVENTS_CFG_ERR n
  | 7 => DTS_EVENTS_CFG_ERR (off % 0x10000 / 0x100)
  | 8 => EVT_EVENTS_CFG_ERR n
  | 9 => TRK_EVENTS_CFG_ERR
  | 10 => SCH_EVENTS_CFG_ERR
  | 11 => HIF_EVENTS_CFG_ERR
  | 12 => PMC_EVENTS_CFG_ERR
  | 13 => WMN_EVENTS_CFG_ERR
  | 14 => FLT_EVENTS_CFG_ERR
  | 15 => MEM_EVENTS_CFG_ERR
  | 16 => BRM_EVENTS_CFG_ERR
  | _ => NVS_EVENTS_CFG_ERR

/-- A refused write. -/
def State.cfgErr (s : State) (off : Nat) : State := s.ev (cfgErrOf off)

/-! ### Locks: legal writes that are refused with CFG_ERR -/

/-- Direct writes to the registers of an arming or armed fibre engine (R39, R94, R108, R164, R204, R231, R257). -/
def State.lockFe (s : State) (off : Nat) : Bool :=
  match regFe off with
  | some n => s.busyFe n &&
    (match off / 0x10000 with
     | 2 => true
     | 3 => off % 0x4000 != 0x000C && hasAcc off accRw
     | 4 => hasAcc off accRw
     | 5 | 8 => off % 0x4000 != 0x0108 && hasAcc off accRw
     | 6 => off % 0x4000 != 0x0108 && hasAcc off accRwWo
     | 7 => off % 0x100 != 0x48 && off % 0x100 != 0x24 && hasAcc off accRw
     | _ => false)
  | none => false

/-- TIM (R34, R35, R59), with FREQ refused as a whole write (log 30). ARM and ABORT act for themselves. -/
def State.lockTim (s : State) (off : Nat) (v : Word) : Bool :=
  if off = TIM_REF_CFG then s.anyBusy && TIM_REF_CFG_FREQ.of v != s.get TIM_REF_CFG_FREQ
  else (off == TIM_EPOCH_LO || off == TIM_EPOCH_HI) && s.anyBusy

/-- ACQ (R100, R101). -/
def State.lockAcq (s : State) (off : Nat) (v : Word) : Bool :=
  ((off == ACQ_CALDAC_CFG || off == ACQ_CALDAC_FREQ) && s.acq.cal.isSome) ||
    (off == ACQ_CALDAC_CFG && ACQ_CALDAC_CFG_LOOP.of v == 1 && s.mode != 5)

/-- The ring of a ring register, and the register's place in it. -/
def ringOf (off : Nat) : Option (RingKind × Nat × Nat) :=
  if 0x0B1000 ≤ off ∧ off < 0x0B1400 then some (.cmd, (off - 0x0B1000) / 0x40, off % 0x40)
  else if 0x0B1400 ≤ off ∧ off < 0x0B1800 then some (.cpl, (off - 0x0B1400) / 0x40, off % 0x40)
  else if 0x0B2000 ≤ off ∧ off < 0x0B2800 then some (.str, (off - 0x0B2000) / 0x40, off % 0x40)
  else none

/-- HIF (R320, R360, R361, R456). -/
def State.lockHif (s : State) (off : Nat) (v : Word) : Bool :=
  match ringOf off with
  | some (kind, k, o) =>
    let st := s.get (ringState kind k)
    if o = 0 ∨ o = 4 then st != 0
    else if o = 8 then
      if st = 0 then (ringEn kind k).of v == 1 && ringBase s kind k % 64 != 0
      else (ringSize kind k).of v != s.get (ringSize kind k)
    else false
  | none =>
    (off == HIF_SPILL_BASE_LO || off == HIF_SPILL_BASE_HI || off == HIF_SPILL_SIZE) &&
      (let r := rwrite s.regs off v
       s.backlog || !s.regionsOk r || decide (rget r HIF_SPILL_SIZE_SIZE_MIB < rget r HIF_SPILL_SIZE_RESERVE_MIB))

/-- PMC (R379, R383). -/
def State.lockPmc (s : State) (off : Nat) (v : Word) : Bool :=
  (decide (PMC_CALF_OFS 0 ≤ off ∧ off < PMC_CALF_OFS 0 + 64) && s.pmc.cal.isSome) ||
    (off == PMC_CAL_CTL && PMC_CAL_CTL_START.of v == 1 && PMC_CAL_CTL_MASK.of v == 0 && PMC_CAL_CTL_SAVE_ONLY.of v == 0)

/-- Is a register a delay word of the band in use (R471)? -/
def State.dlyInUse (s : State) (off : Nat) : Bool :=
  (List.range 4).any (fun c => isInst (MEM_CH_DLY c (s.get MEM_STATUS_BAND) 0) 4 23 off)

/-- MEM (R456, R459, R471, R473, R477, R478). -/
def State.lockMem (s : State) (off : Nat) (v : Word) : Bool :=
  if off = MEM_CFG then s.on MEM_STATUS_INIT_DONE
  else if off = MEM_CTL then MEM_CTL_INIT.of v == 1 && s.get MEM_BAND_STAT_VALID != 7
  else if off = MEM_SYS_SHARE then s.anyImage
  else if off = MEM_HIST_BASE_LO ∨ off = MEM_HIST_BASE_HI ∨ off = MEM_HIST_SIZE then !s.regionsOk (rwrite s.regs off v)
  else if off = MEM_HIST_CTL then MEM_HIST_CTL_DUMP.of v == 1 && s.mem.dump.isSome
  else if off = MEM_TEST_CTL then MEM_TEST_CTL_START.of v == 1 && !s.testOk
  else s.dlyInUse off && s.anyImage

/-- Is a legal write of a word refused now? -/
def State.locked (s : State) (off : Nat) (v : Word) : Bool :=
  s.lockFe off ||
  match off / 0x10000 with
  | 1 => off == PWR_SENT_CFG && (s.mode == 4 || s.changing)
  | 2 => s.lockTim off v
  | 4 => s.lockAcq off v
  | 6 => isInst (ACF_FIR_SWAP 0) 0x4000 4 off
  | 10 => (List.range 4).any (fun n => off == SCH_FE_DIVERT n && s.busyFe n)
  | 11 => s.lockHif off v
  | 12 => s.lockPmc off v
  | 15 => s.lockMem off v
  | _ => false

/-! ### What a stored word does (by block); `w` is the word before, `v` the word written -/

/-- A reference built from waveform memory, or loaded, is no longer current (R145, R146). -/
def State.refStale (s : State) (n : Nat) (js : List Nat) : State :=
  s.modF n (fun f => { f with refValid := f.refValid - (f.refValid &&& segMask js) })

/-- PWR: the RTC runs from the write that sets RTC_EN (R517). -/
def State.wrotePwr (s : State) (off : Nat) (w : Word) : State :=
  if off = PWR_WAKE_CFG then
    let was := PWR_WAKE_CFG_RTC_EN.of w == 1
    if s.on PWR_WAKE_CFG_RTC_EN then (if was then s else { s with pwr := { s.pwr with rtcAt := some s.now } })
    else { s with pwr := { s.pwr with rtcAt := none } }
  else s

/-- TIM: MEASURE keeps TRIM at 0 (R28), ARM and then ABORT (R33, R34, log 69), the epoch (R35), IN_EN = 0 (R50), and the
grid of a disarmed fibre engine (R557). -/
def State.wroteTim (s : State) (off : Nat) (r0 : Tab Word) (v : Word) : State :=
  if off = TIM_REF_CFG then (if s.get TIM_REF_CFG_DISC = 0 then s.set TIM_TRIM_TRIM 0 else s)
  else if off = TIM_ALIGN then
    let s1 := if TIM_ALIGN_ARM.of v = 1 then s.alignSet else s
    if TIM_ALIGN_ABORT.of v = 1 then s1.alignAbort else s1
  else if off = TIM_EPOCH_HI then s.setEpoch v
  else if off = TIM_SYNC_CFG then (if s.on TIM_SYNC_CFG_IN_EN then s else s.syncOff)
  else
    match instOf (TIM_FE_PRI 0) 0x100 4 off with
    | some n =>
      if wordsDiffer r0 s.regs [off] then s.modF n (fun f => f.reanchored r0 n (s.gridOf s.now)) else s
    | none => s

/-- LNC and PHS: a reference whose segment or source changes is built anew (R145). -/
def State.wroteLnc (s : State) (off : Nat) : State :=
  let n := off % 0x10000 / 0x4000
  match (List.range 8).find? (fun j => (segRegs n j).contains off) with
  | some j => s.refStale n [j]
  | none => s.gatePols n [off]

/-- ACQ: a direct write of a factor restarts its drift sum (R124); background calibration follows CAL_CTL (R122). -/
def State.wroteAcq (s : State) (off : Nat) : State :=
  if off = ACQ_CAL_CTL then s.bgSyncAll
  else s.setAcq { s.acq with drift := s.acq.drift.filter (fun p => decide (p.1 / 32 ≠ off)) }

/-- DTS: REF_TEMP is in force from its write on (R213, R228). -/
def State.wroteDts (s : State) (off : Nat) : State :=
  match instOf (DTS_REF_TEMP 0) 0x100 4 off with
  | some n => s.modF n (fun f => { f with dts := { f.dts with
      temps := (s.gridOf s.now, s.get (DTS_REF_TEMP_TEMP n)) :: f.dts.temps } })
  | none => s

/-- CLEAR_IDS empties the window of a ring; the duplicates that wait for a command still running are answered as it ends
(R331, R332). -/
def State.clearIds (s : State) (k : Nat) : State :=
  let r := s.ring k
  s.setRing k { r with dup := [], cleared := r.cleared ++ r.dup.filter (fun e => !e.done) }

/-- EVT: the settings of R257 restart the detector of a fibre engine that launches nothing. -/
def State.wroteEvt (s : State) (off : Nat) (r0 : Tab Word) : State :=
  let n := off % 0x10000 / 0x4000
  if (effectsOf r0 s.regs n []).evt then (s.modF n (fun f => { f with evtRe := true })).evtIdle n else s

/-- HIF: EN and CLEAR_IDS of a ring (R320, R321, R332). A ring that enters STOPPING closes its open buffer (R339). -/
def State.wroteHif (s : State) (off : Nat) (v : Word) : State :=
  match ringOf off with
  | some (kind, k, 8) =>
    let st := s.get (ringState kind k)
    let s1 := if kind = .cmd ∧ (HIF_CMD_CTL_CLEAR_IDS k).of v = 1 then
        (if st = 0 then s.clearIds k else s) else s
    if (ringEn kind k).of v = 1 then (if st = 0 then s1.ringRun kind k else s1)
    else if st = 1 then
      let s2 := s1.set (ringState kind k) 2
      if kind = .str then s2.bufFlush k else s2
    else if st = 4 then s1.set (ringState kind k) 0
    else s1
  | _ => s

/-- Does a write of a register do anything: has it a field that a write may change (R15)? -/
def RegSpec.writable (spec : RegSpec) : Bool :=
  spec.fields.any (fun f => f.acc == .rw || f.acc == .rws || f.acc == .wo || f.acc == .w1c || f.acc == .w1s || f.acc == .aon)

/-- PMC: EN (R373, R376), START and STOP, CAL_CTL.START (R379). A write that may change no field does nothing (R15). -/
def State.wrotePmc (s : State) (off : Nat) (w v : Word) : State :=
  if off = PMC_CTL then
    if !s.on PMC_CTL_EN then s.pmcStopAll
    else if PMC_CTL_EN.of w = 0 then
      (s.setPmc { s.pmc with cont := s.get PMC_SEQ_TRIG == 1 }).pmcTrigger .continuous
    else s
  else if off = PMC_CAL_CTL then
    if PMC_CAL_CTL_START.of v = 1 then
      s.pmcCalStart none (s.get PMC_CAL_CTL_MASK) (s.on PMC_CAL_CTL_NV) (s.on PMC_CAL_CTL_SAVE_ONLY)
    else s
  else if (match regAt off with | some spec => spec.writable | none => false) then s.convRelatch.pmcWritten off v
  else s

/-- MEM: INIT, START, DUMP, the delays in use (R471, R473, R477); a history ring that moves starts empty (log 31); a system
share is placed as it is written, with no image admitted (R457, R459, log 51). -/
def State.wroteMem (s : State) (off : Nat) (v w : Word) : State :=
  if off = MEM_CTL then (if MEM_CTL_INIT.of v = 1 then s.memInitStart else s)
  else if off = MEM_TEST_CTL then (if MEM_TEST_CTL_START.of v = 1 then s.set MEM_TEST_CTL_BUSY 1 else s)
  else if off = MEM_HIST_CTL then
    let s1 := s.histFrom (if MEM_HIST_CTL_EN.of w = 1 then MEM_HIST_CTL_FE_MASK.of w else 0)
    if MEM_HIST_CTL_DUMP.of v = 1 then s1.dumpStart else s1
  else if off = MEM_HIST_BASE_LO ∨ off = MEM_HIST_BASE_HI ∨ off = MEM_HIST_SIZE then
    (if s.reg off = w then s else s.setMem { s.mem with hist := [] })
  else if off = MEM_SYS_SHARE then s.setShare
  else if s.dlyInUse off && s.on MEM_STATUS_INIT_DONE then
    s.setMem { s.mem with dlyDue := s.mem.dlyDue ||| 2 ^ ((off - MEM_CH_STATUS 0) / 0x400) }
  else s

/-- Clear the W1C bits that a word names (R15), but for those that their sources have set in this cycle (R16). -/
def State.w1c (s : State) (off : Nat) (v : Word) : State :=
  match regAt off with
  | some r =>
    let gone := v &&& BitVec.ofNat 32 (r.mask (fun a => a == .w1c)) &&& ~~~ BitVec.ofNat 32 (s.freshBits off)
    s.setReg off (s.reg off &&& ~~~ gone)
  | none => s

/-- An accepted write: W1C bits clear, storing fields store, and the block acts. -/
def State.wrote (s0 : State) (off : Nat) (v : Word) : State :=
  if off = WMN_LATCH then s0.latchWrite v.toNat
  else if off / 0x10000 = 9 then (s0.trkHold.w1c off v).trkWrite off v
  else
    let w := s0.reg off
    let s1 := s0.w1c off v
    let s : State := { s1 with regs := rwrite s1.regs off v }
    match off / 0x10000 with
    | 1 => s.wrotePwr off w
    | 2 => s.wroteTim off s1.regs v
    | 3 | 5 => s.wroteLnc off
    | 4 => s.wroteAcq off
    | 7 => s.wroteDts off
    | 8 => s.wroteEvt off s1.regs
    | 11 => s.wroteHif off v
    | 12 => s.wrotePmc off w v
    | 15 => s.wroteMem off v w
    | _ => s

/-! ### RWP registers (R15, R73, R95, R398, R406, R410, R445, R513) -/

/-- The Polder stores an RWP record in the NV store. -/
def State.nvRecord (s : State) (off : Nat) (v : Word) : State :=
  { s with nvs := { s.nvs with records := s.nvs.records.filter (fun p => p.1 != off) ++ [(off, v)] } }

/-- A Polder write of an RWP register that its block permits; a change made in COMMISSION goes to the NV store too (R410,
log 84). -/
def State.polderStore (s : State) (off : Nat) (v : Word) : State :=
  let s1 := if off / 0x10000 = 13 then s.weirWrite off v
    else if !wordOkP s.regs off v then s.cfgErr off
    else { s with regs := rwriteP s.regs off v }
  if s.mode = 2 ∧ s1.reg off ≠ s.reg off then s1.nvRecord off v else s1

/-- The Polder writes RWP records at the restore of BOOT, and in COMMISSION with the key (log 32). A write to a Weir while
an engine of its ROUTE is arming or armed sets CFG_ERR at any time (R410). -/
def State.polderWrite (s : State) (off : Nat) (v : Word) : State :=
  if (match weirOf off with | some m => s.weirBusy (rwriteP s.regs off v) m | none => false) then s.ev WMN_EVENTS_CFG_ERR
  else if !s.weirOpen || (off / 0x10000 == 3 && s.busyFe (off % 0x10000 / 0x4000)) then s
  else s.polderStore off v

/-! ### Table words (R62, R145, R146, R187, R221, R257, R546) -/

/-- The segments of fibre engine n whose extent holds a word, built from waveform memory or loaded (R143, R144). -/
def State.segsHolding (s : State) (n w : Nat) : List Nat :=
  (List.range 8).filter (fun j => decide (s.get (LNC_SEG_START_START n j) ≤ w ∧
    w < s.get (LNC_SEG_START_START n j) + s.get (LNC_SEG_LEN_LEN n j)))

/-- A waveform word. -/
def State.waveWrite (s : State) (n off : Nat) (v : Word) : State :=
  let w := (off - 0x400000) % 0x40000 / 4
  let own := s.segsHolding n w
  if (s.stagedSegs n).any (fun x => decide (x.2.1 ≤ w ∧ w < x.2.1 + x.2.2)) then
    (s.ev (LNC_EVENTS_CFG_ERR n)).ev (PHS_EVENTS_CFG_ERR n)
  else if s.busyFe n && own.any (fun j => (segsInUse s.regs n).contains j) then s.ev (LNC_EVENTS_CFG_ERR n)
  else (s.setTword off (v &&& 0x0FFF0FFF)).refStale n (own.filter (fun j => s.get (PHS_REF_CFG_SRC n j) == 0))

/-- A loaded reference word of segment j. -/
def State.refWrite (s : State) (n j off : Nat) (v : Word) : State :=
  if (s.stagedSegs n).any (fun x => x.1 == j) then (s.ev (LNC_EVENTS_CFG_ERR n)).ev (PHS_EVENTS_CFG_ERR n)
  else if s.busyFe n && (segsInUse s.regs n).contains j then s.ev (PHS_EVENTS_CFG_ERR n)
  else
    let s1 := s.setTword off v
    if s.on (PHS_REF_CFG_SRC n j) then s1.refStale n [j] else s1

/-- The protected banks of fibre engine n (R187). From the arming to the first output's restart BANK names the active bank
(log 33). -/
def State.protectedBanks (s : State) (n : Nat) : List Bool :=
  let f := s.f n
  let a := f.acf
  let arming := s.lstate n == 1 || f.armFirst || f.recs.any (·.armFirst)
  a.active :: (if arming then [s.on (ACF_FIR_CFG_BANK n)] else []) ++
    (match a.xf with | some x => [a.active, x.target] | none => []) ++ a.held.toList ++
    s.groupList.filterMap (fun x => swapOf n (x.2.writesOf n))

/-- A write of a table word; CFG_ERR follows the rule of each table. -/
def State.tableWrite (s : State) (off : Nat) (v : Word) : State :=
  match tableAt off with
  | none => s
  | some (.wave n) => s.waveWrite n off v
  | some (.ref n j) => s.refWrite n j off v
  | some (.fir n b) =>
    if (s.protectedBanks n).contains b then s.ev (ACF_EVENTS_CFG_ERR n) else s.setTword off (v &&& 0x3FFFF)
  | some (.prof n) =>
    if s.on (DTS_CFG_EN n) && s.busyFe n then s.ev (DTS_EVENTS_CFG_ERR n) else s.setTword off v
  | some (.map n) => if s.busyFe n then s.ev (EVT_EVENTS_CFG_ERR n) else s.setTword off v

/-! ### One register write -/

/-- May the management SPI write a register (R387)? -/
def State.spiMay (s : State) (off : Nat) : Bool :=
  off / 0x10000 == 12 && off != PMC_SPI_CFG && s.on PMC_SPI_CFG_WR_EN

/-- SYS.RESET (R516). -/
def State.sysReset (s : State) (v : Word) : State :=
  if SYS_RESET_WARM.of v = 1 ∧ SYS_RESET_CODE.of v = 0x5245 then s.warmReset 4 else s.ev SYS_EVENTS_CFG_ERR

/-- A write of a word to BAR0 by a master. -/
def State.writeWord (s : State) (m : Master) (off : Nat) (v : Word) : State :=
  if s.mode = 7 ∨ (m = .spi ∧ !s.spiMay off) then s
  else if 0x400000 ≤ off then s.tableWrite off v
  else if off = SYS_RESET then s.sysReset v
  else
    match regAt off with
    | none => s
    | some spec =>
      if hasAcc off (fun a => a == .rwp) then (if m = .polder then s.polderWrite off v else s)
      else if !spec.legal v || !crossOk (rwrite s.regs off v) off || s.locked off v then s.cfgErr off
      else s.wrote off v

/-! ### BAR2 (R317 to R319, R348) -/

/-- A write of a word of configuration space beside MSI-X (R314, R316, log 20): the power states D0 and D3hot, payload up to
512 and read requests up to 4,096 bytes, AER status bits that a 1 clears, 16 MiB and 64 KiB BARs of 64 bits, ASPM L1 enabled
or not. -/
def PciSt.write (p : PciSt) (a : Nat) (v : Word) : PciSt :=
  let n := v.toNat
  match a with
  | 4 => if n % 4 = 0 ∨ n % 4 = 3 then { p with pm := n % 4 } else p
  | 8 => { p with
      mps := if n / 2 ^ 5 % 8 ≤ 2 then n / 2 ^ 5 % 8 else p.mps
      mrrs := if n / 2 ^ 12 % 8 ≤ 5 then n / 2 ^ 12 % 8 else p.mrrs }
  | 12 => { p with unc := p.unc - (p.unc &&& n) }
  | 16 => { p with sev := n }
  | 20 => { p with cor := p.cor - (p.cor &&& n) }
  | 48 => { p with aspm := n.testBit 1 }
  | 24 => { p with bars := vset p.bars 0 (v &&& 0xFF000000 ||| 4) }
  | 28 => { p with bars := vset p.bars 1 v }
  | 32 => { p with bars := vset p.bars 2 (v &&& 0xFFFF0000 ||| 4) }
  | 36 => { p with bars := vset p.bars 3 v }
  | _ => p

/-- A write of a word to BAR2, or beyond it to configuration space (log 20). -/
def State.writeBar2 (s : State) (a : Nat) (v : Word) : State :=
  if s.mode = 7 then s
  else if a % 0x40 = 0 ∧ a < 0x400 then s.cmdDb (a / 0x40) v.toNat
  else if a % 0x40 = 0 ∧ a < 0x800 then s.cplDb ((a - 0x400) / 0x40) v.toNat
  else if a % 0x40 = 0 ∧ a < 0x1000 then s.strDb ((a - 0x800) / 0x40) v.toNat []
  else if 0x8000 ≤ a ∧ a < 0x8400 then
    let i := (a - 0x8000) / 4
    { s with hif := { s.hif with msixTable := tput (msixReset i) s.hif.msixTable i v } }.msixFlush
  else if a = 0x1000000 then
    { s with hif := { s.hif with msixEn := v.toNat.testBit 31, msixMask := v.toNat.testBit 30 } }.msixFlush
  else if 0x1000000 ≤ a then { s with hif := { s.hif with pci := s.hif.pci.write (a - 0x1000000) v } }
  else s

/-! ### Bus writes (R12, R319, R499) -/

/-- A write of `bytes` bytes: 32 bits or 64 bits at a multiple of 4 act, in BAR2 32 bits only; every other is discarded
whole. Counts that move with time come up to date first. -/
def State.busWrite (s0 : State) (b : Bus) (off bytes : Nat) (v : BitVec 64) : State :=
  let s := s0.at b.t
  if s.busUp then
    let s1 := s.accessWake
    if off % 4 ≠ 0 then s1
    else if 0x1000000 ≤ off then (if bytes = 4 ∧ b.m = .host then s1.writeBar2 (off - 0x1000000) (v.setWidth 32) else s1)
    else if bytes = 4 then (s1.readSync off).writeWord b.m off (v.setWidth 32)
    else if bytes = 8 then
      ((s1.readSync off).writeWord b.m off (v.setWidth 32)).writeWord b.m (off + 4) ((v >>> 32).setWidth 32)
    else s1
  else s

/-- A 32-bit write of a register. -/
def State.busWord (s : State) (b : Bus) (off : Nat) (v : Word) : State := s.busWrite b off 4 (v.setWidth 64)

/-- A doorbell: the host's write of BAR2, acting as given. -/
def State.doorbell (s0 : State) (b : Bus) (act : State → State) : State :=
  let s := s0.at b.t
  if s.busUp then
    let s1 := s.accessWake
    if s1.mode = 7 ∨ b.m ≠ .host then s1 else act s1
  else s

/-! ### The management SPI (R386 to R388) -/

/-- The BAR0 offset of register i of a transaction at a byte address of the PMC block. -/
def spiOff (addr : Nat) (inc : Bool) (i : Nat) : Nat := 0x0C0000 + (if inc then addr + 4 * i else addr) % 0x10000

/-- Words read in a transaction, in order. -/
def State.spiReads (s : State) (addr : Nat) (inc : Bool) (n : Nat) : State :=
  (List.range n).foldl (fun s i => s.readWord .spi (spiOff addr inc i)) s

/-- Is a word written over the SPI taken: permitted (R387), at a register (R13) that a write may change (R15), and legal
(R18)? -/
def State.spiTakes (s : State) (off : Nat) (v : Word) : Bool :=
  s.spiMay off && s.mode != 7 &&
  (match regAt off with
   | some spec => spec.writable && spec.legal v && crossOk (rwrite s.regs off v) off && !s.locked off v
   | none => false)

/-- Words written in a transaction; LAST_ERR stays set once a write is ignored, which shows in CFG_ERR too where R18 says
so. -/
def State.spiWrites (s : State) (addr : Nat) (inc : Bool) (ws : List Word) : State :=
  ws.zipIdx.foldl (fun s w =>
    let off := spiOff addr inc w.2
    let s1 := if s.spiTakes off w.1 then s else s.setPmc { s.pmc with spiErr := true }
    s1.writeWord .spi off w.1) s

/-- SPI_TRANSACTION. MCS_N low wakes the device from L4 and deeper (R500); the registers answer from L0 to L3 (R390). -/
def State.spiRun (s0 : State) (t : Nat) (cmd : BitVec 8) (addr : BitVec 16) (data : List Word) (reads : Nat) : State :=
  let s := s0.at t
  if s.mainUp && decide (s.ladder ≤ 3) then
    let s1 := s.setPmc { s.pmc with spiErr := false }
    let inc := cmd.toNat.testBit 6
    if cmd.toNat % 64 ≠ 0 ∨ addr.toNat % 4 ≠ 0 then s.setPmc { s.pmc with spiErr := true }
    else if cmd.toNat.testBit 7 then s1.spiReads addr.toNat inc reads
    else s1.spiWrites addr.toNat inc data
  else if s.on PWR_WAKE_CFG_SPI_EN then s.wake 3 true true
  else s

/-- The status byte that MSDO carries (R386); READY once firmware has enabled the supply, and from L0 to L3 (R389, R390, log
83). -/
def State.spiStatus (s : State) : Nat :=
  (s.mainUp && decide (s.ladder ≤ 3) && s.pmc.ready).toNat + 2 * s.get PMC_SPI_CFG_WR_EN + 4 * (s.mode == 7).toNat + 8 * s.flt.faultN.toNat + 16 * s.mint.toNat
    + 32 * s.pmc.spiErr.toNat

end Sys2Proof.Machine
end

