-- ==== Sys2Proof/Machine/Boot.lean ====
section
/-! DEFINITION. The boot (R482, R500, R506 to R510, R554): the work of each step from 5 to 11 as BOOT_STEP_DONE reports it. -/

namespace Sys2Proof.Machine

/-- The next step of the boot. -/
def State.bootTo (s : State) (k : Nat) : State := { s with pwr := { s.pwr with step := k } }

/-- What the reads of the NV store in a step met (R512): an uncorrectable one fails the step. -/
def State.bootNv (s : State) (i : BootInfo) : State :=
  let s1 := s.nvErrs i.nvCe i.nvUe
  if i.nvUe then s1.set PWR_BOOT_STATUS_CODE 4 else s1

/-- The slot an image is started from: the higher SECURITY_VERSION first, slot A on a tie, of those that verify and are not
below the minimum (R507); true is slot B. -/
def slotPick (low : Nat) (i : BootInfo) : Option Bool :=
  let a := (false, i.slotAOk && decide (low ≤ i.versionA))
  let b := (true, i.slotBOk && decide (low ≤ i.versionB))
  ((if i.versionB ≤ i.versionA then [a, b] else [b, a]).find? (·.2)).map (·.1)

/-- The minimum SECURITY_VERSION of image k (0 Gnowa monitor, 1 application), and the versions found in its slots. -/
def State.minVer (s : State) (k : Nat) : Nat := vget 0 s.nvs.minVer k
def State.slotsSeen (s : State) (k : Nat) (i : BootInfo) : State :=
  { s with pwr := { s.pwr with slotVer := vset s.pwr.slotVer k (i.versionA, i.versionB) } }

/-- The SECURITY_VERSION of a slot. -/
def slotVersion (i : BootInfo) (b : Bool) : Nat := if b then i.versionB else i.versionA

/-- Both slots of an image fail, or the step that reads them does: the device stays in BOOT (R508, R512, R513; log 18).
`gnowa` says that step 6 is not complete. -/
def State.bootFails (s : State) (code : Nat) (gnowa : Bool) : State :=
  let s1 := ((s.ev PWR_EVENTS_BOOT_FAIL).set PWR_BOOT_STATUS_CODE code).set NVS_WP_WP 0x030
  { s1 with pwr := { s1.pwr with bootFail := true, gnowaBad := gnowa, step := 0 } }

/-- BOOT_STATUS.MS: the time from the wake; how it is rounded is not stated (log 1). -/
def State.bootMs (s : State) : State :=
  s.nextFree.set PWR_BOOT_STATUS_MS (freeQuot s.freeIdx (s.now - s.pwr.wakeAt : Nat) 1000000).toNat

/-- The write of an RWP record at the restore: stored where its value is legal. -/
def State.polderRestore (s : State) (off : Nat) (v : Word) : State :=
  if off / 0x10000 = 13 then s.weirWrite off v
  else if hasAcc off (fun a => a == .rwp) then
    (if wordOkP s.regs off v then { s with regs := rwriteP s.regs off v } else s.cfgErr off)
  else s

/-- A word of the NV store. -/
def State.nvWord (s : State) (off : Nat) : Word :=
  BitVec.ofNat 32 ((List.range 4).foldr (fun i v => (tget 0 s.nvs.bytes (off + i)).toNat + 256 * v) 0)

/-- A register takes the word that its record in the NV store holds. -/
def State.nvReg (s : State) (reg off : Nat) : State :=
  match regAt reg with
  | some r => s.setReg reg (s.nvWord off &&& BitVec.ofNat 32 (r.mask (fun _ => true)))
  | none => s

/-- Has a record of the NV store been written? -/
def State.nvHas (s : State) (off len : Nat) : Bool := s.nvs.bytes.any (fun p => decide (off ≤ p.1 ∧ p.1 < off + len))

/-- Application firmware restores the CALF words of ACQ and PMC and the IQ factors from their copies in the NV store, where
there is one (R114, R128, R380, R383, R390, R506). -/
def State.calfRestore (s : State) : State :=
  let s1 := if s.nvHas nvAcqCal 1600 then
      (List.range 8).foldl (fun s p =>
        (s.nvReg (ACQ_IQ_A p) (nvAcqCal + 1536 + 8 * p)).nvReg (ACQ_IQ_B p) (nvAcqCal + 1540 + 8 * p))
        ((List.range 384).foldl (fun s i => s.nvReg (calfOff (i / 16) (i % 16)) (nvAcqCal + 4 * i)) s)
    else s
  if s1.nvHas nvPmcCal 64 then
    (List.range 8).foldl (fun s g =>
      (s.nvReg (PMC_CALF_OFS g) (nvPmcCal + 8 * g)).nvReg (PMC_CALF_GAIN g) (nvPmcCal + 8 * g + 4)) s1
  else s1

/-- The delay words in the order of the record: channel, band, word (log 92). -/
def dlyWords : List Nat :=
  (List.range 4).flatMap (fun c => (List.range 3).flatMap (fun b => (List.range 23).map (fun w => MEM_CH_DLY c b w)))

/-- A nominal delay word: 32 in every delay, and the read gates that the application image gives for the data rate (R472). -/
def State.dlyNominal (s : State) (w : Nat) : Word :=
  let d := fun k => if w % 23 = 22 then Config.readGate (s.get MEM_CFG_RATE) k % 512 else 32
  BitVec.ofNat 32 (d 0 + 65536 * d 1)

/-- Before INIT_DONE application firmware writes the band words: those of the delay record in the NV store, or the nominal
delays where there is none; then VALID and MEASURED, of which the record's MEASURED has no stated place and is free (R471,
R472, log 1, 92). -/
def State.delayRestore (s : State) : State :=
  if s.on MEM_STATUS_INIT_DONE then s
  else if s.nvHas nvDelays 1104 then
    let s1 := dlyWords.zipIdx.foldl (fun s x => s.nvReg x.1 (nvDelays + 4 * x.2)) s
    ((s1.set MEM_BAND_STAT_VALID 7).set MEM_BAND_STAT_MEASURED (Config.freeNat s.freeIdx)).nextFree
  else
    let s1 := dlyWords.zipIdx.foldl (fun s x => s.setReg x.1 (s.dlyNominal x.2)) s
    (s1.set MEM_BAND_STAT_VALID 7).set MEM_BAND_STAT_MEASURED 0

/-- Application firmware restores its registers and tables (R506): the copies of the calibration, the DRAM delays, and what
else it writes. -/
def State.appRestore (s : State) (l : List (Nat × Word)) : State :=
  l.foldl (fun s w => s.writeWord .app w.1 w.2) s.calfRestore.delayRestore

/-- Firmware has enabled the supply of the monitor converter (R389): by the end of step 9, or of the boot (log 83). -/
def State.pmcReady (s : State) : State := s.setPmc { s.pmc with ready := true }

/-- A stored image: kept where an identical one is admitted, else admitted or refused; a refusal sets SCHED_FAIL (R506,
R509). -/
def State.bootImage (s : State) (i : ImageRead) : State :=
  if s.images.any (fun x => x.raw == i) then s
  else if s.loadCode (some i) = 0 then s.admitImage i
  else s.set PWR_BOOT_STATUS_SCHED_FAIL 1

/-! ### Fast resume from L5 (R500, R128, R390, R406, R448, R471) -/

/-- Registers that L5 loses: ACQ, PMC, WMN (R128, R390, R406), and the state of the DRAM channels (R478). -/
def lostInL5 (off : Nat) : Bool := [4, 0xC, 0xD].contains (off / 0x10000) || isInst (MEM_CH_STATUS 0) 0x400 4 off

/-- The state a fast resume starts from: the register snapshot is back; what L5 loses is at its reset values; grid time is
free. Results of the monitor converter from before L5 are forgotten (R215, log 92). -/
def State.snapshotBack (s : State) : State :=
  { s with
    regs := s.regs.filter (fun e => !lostInL5 e.1)
    tables := s.tables.filter (fun e => !(decide (0x600000 ≤ e.1) && decide (e.1 < 0x720000)))
    acq := AcqSt.init, pmc := PmcSt.init
    wmn := s.wmn.map (fun (w : WeirSt) => { WeirSt.init with level := w.level })
    gtOff := s.gtOff + Config.freeInt s.freeIdx, freeIdx := s.freeIdx + 1 }

/-- The fast resume: firmware restores what was lost, and the device is at L0 in its mode. SAFE_N asserts the trip inputs
while it is low (R85). -/
def State.fastResume (s : State) (i : BootInfo) : State :=
  let s1 := s.resAcc.snapshotBack.set PWR_MODE_LADDER 0
  let s2 := if s1.on TIM_STATUS_REF_PRESENT then s1.set TIM_STATUS_CLK_STATE 1 else s1
  let s3 : State := { s2 with pwr := { s2.pwr with appUp := !s2.contained 4, step := 0 } }
  let s4 := (i.records ++ s.nvs.records).foldl (fun s w => s.polderRestore w.1 w.2) s3.bermInit
  ((s4.appRestore i.restores).pmcReady.set PWR_BOOT_STATUS_FAST 1).bootMs.safeFollow

/-! ### The steps -/

/-- Step 5: the Polder is released from ROM; at a wake from L5 the fast-boot region decides (R500). -/
def State.boot5 (s0 : State) (i : BootInfo) : State :=
  let s : State := { s0 with pwr := { s0.pwr with shown := true } }
  if s.pwr.porst then s0
  else if s.ladder = 5 then
    if i.digestOk ∧ !s.latched then (s.set NVS_STATUS_READY 1).fastResume i
    else
      let t := (((s.resAcc.coldReset 1).safeFollow).set SYS_RESET_CAUSE_LAST 1).set NVS_STATUS_READY 1
      { t with pwr := { t.pwr with shown := true } }.bootTo 6
  else (s.set NVS_STATUS_READY 1).bootTo 6

/-- Step 6: the Safe-Hold latch, or the Gnowa monitor (R502, R507, R510). -/
def State.boot6 (s0 : State) (i : BootInfo) : State :=
  let s := s0.bootNv i
  if s.latched then
    let s1 := (if s.mode = 7 then s else (s.modeReg 7).weirRoute s.mode).set FLT_STATUS_SAFE_HOLD 1
    ((List.range 4).foldl (fun s n => s.trip n 4) s1).bootTo 0
  else
    match slotPick (s.minVer 0) i with
    | some b =>
      if i.nvUe then s.bootFails 4 true
      else (((s.slotsSeen 0 i).set SYS_FW_VER_GNOWA (slotVersion i b)).setB PWR_BOOT_STATUS_GNOWA_SLOT b).bootTo 7
    | none => s.bootFails (if i.nvUe then 4 else 2) true

/-- Step 7: Polder records, write protection, containment (R406, R427, R445, R513). -/
def State.boot7 (s : State) (i : BootInfo) : State :=
  let s1 := s.bootNv i
  let s2 := if i.nvUe then s1 else (i.records ++ s.nvs.records).foldl (fun s w => s.polderRestore w.1 w.2) s1
  s2.setWp.recontain.bootTo 8

/-- Step 8: the application image; its cores stay in reset while APP is held (R507, R554). -/
def State.boot8 (s0 : State) (i : BootInfo) : State :=
  let s := s0.bootNv i
  match slotPick (s.minVer 1) i with
  | some b =>
    let s1 := ((s.slotsSeen 1 i).set SYS_FW_VER_APP (slotVersion i b)).setB PWR_BOOT_STATUS_APP_SLOT b
    if i.nvUe then s.bootFails 4 false
    else if s1.contained 4 then { s1 with pwr := { s1.pwr with step := 11, skipped := true } }
    else { s1 with pwr := { s1.pwr with step := 9, appUp := true } }
  | none => s.bootFails (if i.nvUe then 4 else 3) false

/-- Step 9: application firmware restores; a failed DRAM initialisation shows in CODE. -/
def State.boot9 (s : State) (i : BootInfo) : State :=
  let s1 := s.bootNv i
  let s2 := if i.nvUe then s1 else s1.appRestore i.restores
  (if i.dramOk then s2.pmcReady else s2.pmcReady.set PWR_BOOT_STATUS_CODE 5).bootTo 10

/-- Step 10: stored images. After RECOVER of APP the work of R554 ends here. -/
def State.boot10 (s : State) (i : BootInfo) : State :=
  let s1 := s.bootNv i
  let s2 := if i.nvUe then s1 else i.images.foldl (fun s x => s.bootImage x) s1
  s2.bootTo (if s.mode = 1 then 11 else 0)

/-- Step 11: the boot target mode, or RECOVERY while APP is held (R482, R554). A failure of the rails that an earlier
power-up left in CODE is over. -/
def State.boot11 (s0 : State) (i : BootInfo) : State :=
  let s := if s0.get PWR_BOOT_STATUS_CODE = 1 then s0.set PWR_BOOT_STATUS_CODE 0 else s0
  let target := if s.contained 4 then 6 else if i.target = 3 ∨ i.target = 4 ∨ i.target = 6 then i.target else 2
  ((s.bootNv i).bootMs.pmcReady.enterMode target).bootTo 0

/-- BOOT_STEP_DONE: the step that runs now is complete. -/
def State.bootStep (s : State) (i : BootInfo) : State :=
  match s.pwr.step with
  | 5 => s.boot5 i
  | 6 => s.boot6 i
  | 7 => s.boot7 i
  | 8 => s.boot8 i
  | 9 => s.boot9 i
  | 10 => s.boot10 i
  | 11 => s.boot11 i
  | _ => s

end Sys2Proof.Machine
end

