-- ==== Sys2Proof/Machine/HostCmds.lean ====
section
/-! DEFINITION. Events of the schedule and of the host interface (chapters 08 and 09). -/

namespace Sys2Proof.Machine

/-- FRAME_WORK_DONE (R293 to R298). -/
def execFrameWorkDone (t : Nat) (n : Fin 4) (s : State) : Host.Outcome State Fault Refusal :=
  .next (s.fabric t (fun s => s.frameDone n))

/-- DIVERT (R297). -/
def execDivert (t : Nat) (n : Fin 4) (s : State) : Host.Outcome State Fault Refusal :=
  .next (s.fabric t (fun s => s.divertHead n))

/-- COMMIT_LOCK (R308). -/
def execCommitLock (t : Nat) (g : Fin 8) (s : State) : Host.Outcome State Fault Refusal :=
  .next (s.fabric t (fun s => s.commitLock g))

/-- COMMIT_APPLY (R304, R312). -/
def execCommitApply (t : Nat) (g : Fin 8) (s : State) : Host.Outcome State Fault Refusal :=
  .next (s.fabric t (fun s => s.commitApply g))

/-- FRAME_DELIVER (R294, R338). No stream write is made in SAFE_HOLD (R428). -/
def execFrameDeliver (t : Nat) (stream : Fin 18) (s : State) : Host.Outcome State Fault Refusal :=
  .next (s.fabric t (fun s => s.frameDeliver stream))

/-- FRAME_RELEASE (R341). -/
def execFrameRelease (t : Nat) (stream : Fin 18) (s : State) : Host.Outcome State Fault Refusal :=
  .next (s.fabric t (fun s => s.frameReleased stream))

/-- A frame is read in the DRAM with the errors met, and moves; where a word of it is poisoned it stays as it is, for none of
its values may reach a frame (R346, R347, R450, R455). -/
def State.drainRead (s : State) (errs : List MemErr) : State :=
  let s1 := errs.foldl (fun s e => s.memErr none e) s
  if errs.any MemErr.poisons then s1.memUsed 15 else s1.drainOne

/-- DRAIN_FRAME: errors met while the spillway is read, then one frame moves (R346, R347, R455). -/
def execDrainFrame (t : Nat) (errs : List MemErr) (s : State) : Host.Outcome State Fault Refusal :=
  .next (s.fabric t (fun s => s.drainRead errs))

/-- COAL_US have passed since the first unsignalled completion of ring k (R348). -/
def State.coalesceEnd (s : State) (k : Nat) : State :=
  match (s.cplRing k).firstAt with
  | some f => if f + 1000 * s.get (HIF_CPL_COAL_US_US k) ≤ s.now then s.cplSignal k else s
  | none => s

/-- COALESCE_TIMEOUT (R348). -/
def execCoalesceTimeout (t : Nat) (k : Fin 16) (s : State) : Host.Outcome State Fault Refusal :=
  .next (s.fabric t (fun s => s.coalesceEnd k))

/-- A DMA read of a RUNNING ring fails: the ring enters ERROR, source 20 is raised (R321, R431), and AER logs an Unexpected
Completion or a Completion Timeout; which one the spec leaves to PCIe, and it is free here (R316, log 20). -/
def State.ringFail (s : State) (kind : RingKind) (k : Nat) : State :=
  if ringOk kind k && s.get (ringState kind k) == 1 then
    let s1 := s.nextFree.aerUnc (if Config.freeNat s.freeIdx % 2 = 0 then 16 else 14)
    ((s1.set (ringState kind k) 4).ev HIF_EVENTS_FETCH_ERR).present 20
  else s

/-- FETCH_ERROR (R321). -/
def execFetchError (t : Nat) (kind : RingKind) (k : Nat) (s : State) : Host.Outcome State Fault Refusal :=
  .next (s.fabric t (fun s => s.ringFail kind k))

/-- LINK_DOWN (R349). -/
def execLinkDown (t : Nat) (s : State) : Host.Outcome State Fault Refusal :=
  .next (s.main t (fun s => s.linkLost.detached 0))

/-- Link-up: the speed is at most MAX_SPEED, the width one of 1, 2 and 4; from DETACHED the device enters HOLD (R314, R354,
R360). -/
def State.linkUp (s : State) (speed width : Nat) : State :=
  let s1 := ((s.set HIF_STATUS_LINK_UP 1).set HIF_STATUS_SPEED (max 1 (min speed (s.get HIF_CFG_MAX_SPEED)))).set HIF_STATUS_WIDTH
    (if 4 ≤ width then 4 else if 2 ≤ width then 2 else 1)
  if s.attach = 1 then s1.hold else s1

/-- LINK_UP (R354). -/
def execLinkUp (t : Nat) (speed width : Nat) (s : State) : Host.Outcome State Fault Refusal :=
  .next (s.main t (fun s => if s.pwr.perst then s else s.linkUp speed width))

/-- PERST_N_ASSERT (R352, R540). -/
def execPerstNAssert (t : Nat) (s : State) : Host.Outcome State Fault Refusal :=
  let s1 := (s.at t).perstPin true
  .next (if s1.mainUp then s1.perstLow else s1)

/-- COMPLETION_CONFIRMED (R341, R353, R486). -/
def execCompletionConfirmed (t : Nat) (k : Fin 16) (s : State) : Host.Outcome State Fault Refusal :=
  .next ((s.at t).confirmed k)

/-- LOAD_SCHEDULE_DONE (R285 to R291). -/
def execLoadScheduleDone (t : Nat) (s : State) : Host.Outcome State Fault Refusal := .next (s.main t State.loadDone)

end Sys2Proof.Machine
end

