-- ==== Sys2Proof/Machine/LaunchCmds.lean ====
section
/-! DEFINITION. Events of the launch engine (chapter 02). -/

namespace Sys2Proof.Machine

/-- LAUNCH (R37, R44, R59, R61, R66, R67, R72). -/
def execLaunch (t : Nat) (n : Fin 4) (s : State) : Host.Outcome State Fault Refusal := .next (s.fabric t (fun s => s.launch n))

/-- SEGMENT_END (R61). -/
def execSegmentEnd (t : Nat) (n : Fin 4) (s : State) : Host.Outcome State Fault Refusal :=
  .next (s.fabric t (fun s => s.segmentEnd n))

/-- GATE_WINDOW_OPEN (R69, R71). -/
def execGateWindowOpen (t : Nat) (n g : Fin 4) (s : State) : Host.Outcome State Fault Refusal :=
  .next (s.fabric t (fun s => s.gateOpen n g))

/-- GATE_WINDOW_CLOSE (R69). -/
def execGateWindowClose (t : Nat) (n g : Fin 4) (s : State) : Host.Outcome State Fault Refusal :=
  .next (s.fabric t (fun s => s.gateClose n g))

/-- ENV_EXCEED (R76). -/
def execEnvExceed (t : Nat) (n : Fin 4) (s : State) : Host.Outcome State Fault Refusal :=
  .next (s.fabric t (fun s => s.envExceed n))

/-- DUTY_WINDOW_END (R76). -/
def execDutyWindowEnd (t : Nat) (n : Fin 4) (s : State) : Host.Outcome State Fault Refusal :=
  .next (s.fabric t (fun s => s.lncSync n))

/-- ARM_SELFTEST_DONE (R79, R80). -/
def execArmSelftestDone (t : Nat) (n : Fin 4) (pass : Bool) (s : State) : Host.Outcome State Fault Refusal :=
  .next (s.fabric t (fun s => s.selfTest n pass))

/-- ARMED_ENTRY (R40, R79). -/
def execArmedEntry (t : Nat) (n : Fin 4) (s : State) : Host.Outcome State Fault Refusal :=
  .next (s.fabric t (fun s => s.armedEntry n))

/-- DISARM_TAKE_EFFECT (R82); the last disarm that DORMANT waited for lets it power down (R83). -/
def execDisarmTakeEffect (t : Nat) (n : Fin 4) (s : State) : Host.Outcome State Fault Refusal :=
  .next (s.fabric t (fun s => (s.disarmEffect n).dormGo))

/-- SAFE_N_FALL (R85): the pin stands low whether or not the main domain is up. -/
def execSafeNFall (t : Nat) (s : State) : Host.Outcome State Fault Refusal :=
  .next (if (s.at t).mainUp then (s.at t).safeLow else { s.at t with safeN := true })

/-- SAFE_N_RISE (R85): the contribution ends; engines that tripped stay TRIPPED. -/
def execSafeNRise (t : Nat) (s : State) : Host.Outcome State Fault Refusal := .next { s.at t with safeN := false }

/-- LAUNCH_OUT_RISE (R53). -/
def execLaunchOutRise (t : Nat) (n : Fin 4) (s : State) : Host.Outcome State Fault Refusal :=
  .next (s.fabric t (fun s => s.launchOutRise n))

end Sys2Proof.Machine
end

