-- ==== Sys2Proof/Machine/MemoryCmds.lean ====
section
/-! DEFINITION. Events of the DRAM and of Berm (chapter 13). -/

namespace Sys2Proof.Machine

/-- REFRESH_TICK (R460). -/
def execRefreshTick (t : Nat) (c : Fin 4) (s : State) : Host.Outcome State Fault Refusal :=
  .next (s.main t (fun s => s.refreshTick c))

/-- REFRESH_WINDOW (R460, R470). -/
def execRefreshWindow (t : Nat) (c : Fin 4) (s : State) : Host.Outcome State Fault Refusal :=
  .next (s.main t (fun s => s.refreshWindow c))

/-- MR4_POLL (R461, R462). -/
def execMr4Poll (t : Nat) (c : Fin 4) (field : BitVec 5) (s : State) : Host.Outcome State Fault Refusal :=
  .next (s.main t (fun s => s.mr4Poll c field.toNat))

/-- SR_ENTER (R464 to R466). -/
def execSrEnter (t : Nat) (c : Fin 4) (s : State) : Host.Outcome State Fault Refusal :=
  .next (s.main t (fun s => s.srEnter c))

/-- SR_EXIT (R466). -/
def execSrExit (t : Nat) (c : Fin 4) (beforeSre : Bool) (issued : Nat) (s : State) : Host.Outcome State Fault Refusal :=
  .next (s.main t (fun s => s.srExit c beforeSre issued))

/-- EYE_MONITOR_ROUND (R474). -/
def execEyeMonitorRound (t : Nat) (c : Fin 4) (pass : Bool) (s : State) : Host.Outcome State Fault Refusal :=
  .next (s.main t (fun s => s.eyeRound c pass))

/-- SCRUB_PASS (R449, R451). -/
def execScrubPass (t : Nat) (errs : List MemErr) (s : State) : Host.Outcome State Fault Refusal :=
  .next (s.main t (fun s => s.scrubPass errs))

/-- BERM_INIT_DONE (R452). -/
def execBermInitDone (t : Nat) (s : State) : Host.Outcome State Fault Refusal := .next (s.main t State.bermInit)

/-- MEM_INIT_DONE (R471). -/
def execMemInitDone (t : Nat) (s : State) : Host.Outcome State Fault Refusal := .next (s.main t State.memInitEnd)

/-- TEST_RUN_DONE (R473). -/
def execTestRunDone (t : Nat) (fail : BitVec 26) (s : State) : Host.Outcome State Fault Refusal :=
  .next (s.main t (fun s => s.testEnd fail.toNat))

/-- HIST_DONE (R477). -/
def execHistDone (t : Nat) (s : State) : Host.Outcome State Fault Refusal := .next (s.main t State.dumpEnd)

end Sys2Proof.Machine
end

