-- ==== Sys2Proof/Machine/MonitorCmds.lean ====
section
/-! DEFINITION. Events of the monitor converter (chapter 10) and of the Weirs (chapter 11). -/

namespace Sys2Proof.Machine

/-- PMC_TRIGGER (R373 to R375). -/
def execPmcTrigger (t : Nat) (trig : PmcTrig) (s : State) : Host.Outcome State Fault Refusal :=
  .next (s.main t (fun s => s.pmcTrigger trig))

/-- PMC_RESULT (R367 to R372). -/
def execPmcResult (t : Nat) (outs : List FiltOut) (s : State) : Host.Outcome State Fault Refusal :=
  .next (s.main t (fun s => s.pmcResult outs))

/-- PMC_INJ_HW_TRIGGER (R374, R377). -/
def execPmcInjHwTrigger (t : Nat) (j : Fin 4) (src : Nat) (s : State) : Host.Outcome State Fault Refusal :=
  .next (s.main t (fun s => s.injHw j src))

/-- PMC_INJ_RESULT (R377). -/
def execPmcInjResult (t : Nat) (outs : List FiltOut) (s : State) : Host.Outcome State Fault Refusal :=
  .next (s.main t (fun s => s.injResult outs))

/-- PMC_CAL_DONE (R380 to R382). -/
def execPmcCalDone (t : Nat) (r : List PgaMeas) (nvOk : Bool) (s : State) : Host.Outcome State Fault Refusal :=
  .next (s.main t (fun s => s.pmcCalDone r nvOk))

/-- REF_FAIL (R364): the reference leaves its limits or returns within them. -/
def execRefFail (t : Nat) (outside : Bool) (s : State) : Host.Outcome State Fault Refusal :=
  .next (s.main t (fun s => s.refMove outside))

/-- DIE_TEMP_UPDATE (R393, R431, R461, R470). -/
def execDieTempUpdate (t : Nat) (temp : Int) (s : State) : Host.Outcome State Fault Refusal :=
  .next (s.main t (fun s => s.dieTemp temp))

/-- WEIR_CROSSING (R397, R399). The level at the input holds whether or not the main domain is up. -/
def execWeirCrossing (t : Nat) (m : Fin 16) (uV : Int) (s : State) : Host.Outcome State Fault Refusal :=
  .next (if (s.at t).mainUp then (s.at t).weirCross m uV else (s.at t).modW m (fun w => { w with level := uV }))

/-- WEIR_AUTO_CLEAR (R400, R401), under the grid in force now. -/
def execWeirAutoClear (t : Nat) (m : Fin 16) (s : State) : Host.Outcome State Fault Refusal :=
  .next (s.main t (fun s =>
    let n := s.get (WMN_WM_CFG_FE m)
    s.weirAuto m ((s.aheadTo n (s.gridOf s.now)).frameNow n)))

/-- WEIR_SETTLE_END (R404): sampling begins 10 µs after the entry to UNRESOLVED; RESOLVED counts from that instant, so only
time passes. -/
def execWeirSettleEnd (t : Nat) (_m : Fin 16) (s : State) : Host.Outcome State Fault Refusal := .next (s.main t (fun s => s))

/-- RESOLVED (R404). -/
def execResolved (t : Nat) (m : Fin 16) (uV : Int) (s : State) : Host.Outcome State Fault Refusal :=
  .next (s.main t (fun s => s.weirResolved m uV))

/-- RB_CHECK (R411, R412). -/
def execRbCheck (t : Nat) (m : Fin 16) (upper : Bool) (s : State) : Host.Outcome State Fault Refusal :=
  .next (s.main t (fun s => s.rbCheck m upper))

/-- RB_STALE (R413). -/
def execRbStale (t : Nat) (m : Fin 16) (upper : Bool) (s : State) : Host.Outcome State Fault Refusal :=
  .next (s.main t (fun s => s.rbStale m upper))

/-- VDD_A18_RETURN (R403). -/
def execVddA18Return (t : Nat) (s : State) : Host.Outcome State Fault Refusal := .next (s.main t State.vddA18)

/-- WEIR_GATE_OPEN (R399, R402): the launch is that of the fibre engine in FE, under the settings in force at it. -/
def execWeirGateOpen (t : Nat) (m : Fin 16) (s : State) : Host.Outcome State Fault Refusal :=
  .next (s.main t (fun s =>
    s.weirGateOpen m ((s.aheadTo (s.get (WMN_WM_CFG_FE m)) (s.weirLaunch m)).launchAt (s.get (WMN_WM_CFG_FE m))
      (s.weirLaunch m))))

end Sys2Proof.Machine
end

