-- ==== Sys2Proof/Machine/Source.lean ====
section
/-! DEFINITION. What the crossbar brings to each channel (R97, R99 to R101): the calibration DAC in its modes and as the
launch loopback, RAMP, NOISE and GND, and what the calibration engine selects in each of its phases (R114). Levels are
fractions of the full scale of the receiving channel at 0 dB gain. -/

namespace Sys2Proof.Machine

/-- An input of the crossbar (R97). -/
inductive Source where
  | pin (k : Nat)
  | calI
  | calQ
  | ramp
  | noise
  | gnd
deriving DecidableEq, Repr

/-- The input that a value of SRC selects. -/
def sourceOf (src : Nat) : Source :=
  match src with
  | 16 => .calI
  | 17 => .calQ
  | 18 => .ramp
  | 19 => .noise
  | 20 => .gnd
  | k => .pin k

/-- The setting of the calibration DAC: MODE, LEVEL in FS ÷ 32,768, tone in kHz (R99). -/
structure CalDac where
  mode  : Nat
  level : Int
  khz   : Nat
deriving DecidableEq, Repr

/-- The DC level of coarse stage k in phase GAIN, before its sign (R114). -/
def gainLevel (k : Nat) : Int := rha 14746 (2 ^ k)

/-- The setting of the calibration DAC in a phase of the coherent group (R114): GAIN steps through the coarse stages in an
order that is free (log 72); SKEW at −1 dBFS and IQ at −3 dBFS. -/
def phaseDac (t ph : Nat) : CalDac :=
  match ph with
  | 2 =>
    let l := gainLevel (Config.calStep t % 7)
    ⟨1, if Config.calStep t % 2 = 0 then l else -l, 0⟩
  | 4 => ⟨2, 29205, 487500⟩
  | 5 => ⟨3, 23198, 100000⟩
  | _ => ⟨0, 0, 0⟩

/-- The setting of the calibration DAC in force: the calibration engine's while a CALIBRATE runs (R100), the registers'. With
SAVE_ONLY, and in phases that use no level of the DAC, the engine puts its outputs at zero (log 90). -/
def State.calDac (s : State) : CalDac :=
  match s.acq.cal with
  | some c => if c.saveOnly then ⟨0, 0, 0⟩ else phaseDac s.now (min c.phC c.phI)
  | none => ⟨s.get ACQ_CALDAC_CFG_MODE, s.getI ACQ_CALDAC_CFG_LEVEL, s.get ACQ_CALDAC_FREQ_FREQ_KHZ⟩

/-- Cosine and sine of the calibration tone now, × 2^96. Its phase is free (log 72). -/
def State.calTone (s : State) (d : CalDac) : Int × Int :=
  cosSin (d.khz * s.now + Config.calPhase d.khz) 1000000

/-- A DAC output as a 16-bit code of FS ÷ 32,768: |LEVEL| × x. -/
def calCode (d : CalDac) (x : Int) : Int := rha (d.level.natAbs * x) (2 ^ 96)

/-- The launch loopback (R101): the probe DAC codes of LOOP_FE 1,000 ns before now, within ±2 ns (log 72). -/
def State.loopCode (s : State) (half : Nat) : Nat × Nat :=
  s.dacAt (s.get ACQ_CALDAC_CFG_LOOP_FE) (s.now - (998 + Config.loopLag % 5)) half

/-- CAL_I and CAL_Q in a half of the present nanosecond, in FS ÷ 32,768 (R99, R101); while a CALIBRATE runs the calibration
engine drives the DAC, whatever LOOP says (R100, log 72). -/
def State.calOut (s : State) (half : Nat) : Int × Int :=
  if s.on ACQ_CALDAC_CFG_LOOP && s.acq.cal.isNone then
    let c := s.loopCode half
    (8 * ((c.1 : Int) - 2048), 8 * ((c.2 : Int) - 2048))
  else
    let d := s.calDac
    let cs := s.calTone d
    match d.mode with
    | 1 => (d.level, d.level)
    | 2 => (calCode d cs.2, 0)
    | 3 => (calCode d cs.2, calCode d (-cs.1))
    | _ => (0, 0)

/-- RAMP now as a fraction of FS over 100 × 2^20: −0.98 to 0.98 over 2^20 ns, and back over 2^20 ns (R99). Its phase is free
(log 72). -/
def State.rampOut (s : State) : Int :=
  let x : Int := ((s.now + Config.rampPhase) % 2 ^ 21 : Nat)
  if x < 2 ^ 20 then -98 * 2 ^ 20 + 196 * x else 98 * 2 ^ 20 - 196 * (x - 2 ^ 20)

/-- What an internal source carries now: numerator and denominator of a fraction of FS; none for a pin. NOISE is free. -/
def State.sourceLevel (s : State) (x : Source) (half : Nat) : Option (Int × Nat) :=
  match x with
  | .pin _ => none
  | .calI => some ((s.calOut half).1, 32768)
  | .calQ => some ((s.calOut half).2, 32768)
  | .ramp => some (s.rampOut, 100 * 2 ^ 20)
  | .noise => some (Config.noise (2 * s.now + half), 32768)
  | .gnd => some (0, 1)

/-- The source of a phase of a group (R114): in phase IQ the in-phase channel of a pair takes CAL_I, the other CAL_Q. -/
def phaseSource (ch ph : Nat) : Source :=
  match ph with
  | 1 => .gnd
  | 2 => .calI
  | 3 => .ramp
  | 4 => .calI
  | 5 => if ch % 2 = 0 then .calI else .calQ
  | _ => .noise

/-- The input of a channel now: what the calibration engine selects for a channel under calibration (R100), or SRC. -/
def State.chanSource (s : State) (ch : Nat) : Source :=
  match s.acq.cal with
  | some c =>
    let ph := if ch < 16 then c.phC else c.phI
    if !c.saveOnly && c.live.testBit ch && ph != 8 then phaseSource ch ph else sourceOf (s.get (chSrc ch))
  | none => sourceOf (s.get (chSrc ch))

/-- What a channel's input carries now, where an internal source feeds it (R97, R99, R101). -/
def State.chanInput (s : State) (ch half : Nat) : Option (Int × Nat) := s.sourceLevel (s.chanSource ch) half

end Sys2Proof.Machine
end

