-- ==== Sys2Proof/Machine/PathCmds.lean ====
section
/-! DEFINITION. Events of the acquisition array (chapter 03) and of the signal path (chapters 04 to 07). -/

namespace Sys2Proof.Machine

/-- ACQ_CAL_PHASE_END (R114). -/
def execAcqCalPhaseEnd (t : Nat) (coherent : Bool) (s : State) : Host.Outcome State Fault Refusal :=
  .next (s.fabric t (fun s => s.calPhaseEnd coherent))

/-- ACQ_CAL_DONE (R113, R115, R116). -/
def execAcqCalDone (t : Nat) (r : AcqMeas) (s : State) : Host.Outcome State Fault Refusal :=
  .next (s.fabric t (fun s => s.calDone r))

/-- BG_CAL_BLOCK_END (R122, R124). -/
def execBgCalBlockEnd (t : Nat) (c : Fin 16) (raw : List Int) (s : State) : Host.Outcome State Fault Refusal :=
  .next (s.fabric t (fun s => s.bgBlock c raw))

/-- IQ_BLIND_BLOCK_END (R125): the oldest ended block of the pair, whose sums the command carries, is taken up (log 70). -/
def execIqBlindBlockEnd (t : Nat) (p : Fin 8) (sumII sumQQ sumIQ : Int) (s : State) : Host.Outcome State Fault Refusal :=
  .next (s.fabric t (fun s => if (s.blind p).full.head? = some (sumII, sumQQ, sumIQ) then s.blindBlock p else s))

/-- DARK_BLOCK_END (R126). -/
def execDarkBlockEnd (t : Nat) (i : Fin 8) (raw : List Int) (s : State) : Host.Outcome State Fault Refusal :=
  .next (s.fabric t (fun s => s.darkBlock i raw))

/-- ACQ_CH_FAIL (R127, R424). -/
def execAcqChFail (t : Nat) (ch : Fin 24) (since : Nat) (s : State) : Host.Outcome State Fault Refusal :=
  .next (s.fabric t (fun s => s.chanFail ch since))

/-- A poisoned word was read for the oldest shot that waits for the pipeline: from its frame on nothing of the engine
reaches a frame, until the engine is armed again (R450, R455, log 89). -/
def FeSt.poisoned (f : FeSt) : FeSt :=
  match f.recs.find? (fun r => !r.phsDone) with
  | none => { f with poison := true }
  | some r =>
    { f with poison := true, recs := f.recs.map (fun x => if r.frame ≤ x.frame then { x with lost := true } else x) }

/-- The errors met while engine n reads a shot's data (R449, R450, R455). -/
def State.shotErrs (s : State) (n : Nat) (errs : List MemErr) : State :=
  let s1 := errs.foldl (fun s e => (s.memErr (some n) e).accPoison e) s
  if errs.any MemErr.poisons then (s1.modF n FeSt.poisoned).dropLost n else s1

/-- SHOT_PROCESSED: errors met while the shot's data is read, then the pipeline (R133, R449, R450, R455). -/
def execShotProcessed (t : Nat) (n : Fin 4) (raw : List Raw4) (errs : List MemErr) (s : State) :
    Host.Outcome State Fault Refusal :=
  .next (s.fabric t (fun s => (s.shotErrs n errs).shotProcess n raw))

/-- ACF_OUTPUT (R179). -/
def execAcfOutput (t : Nat) (n : Fin 4) (s : State) : Host.Outcome State Fault Refusal :=
  .next (s.fabric t (fun s => s.acfOutput n))

/-- RAMAN_SHOT_ACCUMULATE (R208). -/
def execRamanShotAccumulate (t : Nat) (n : Fin 4) (stokes anti : List Int) (s : State) : Host.Outcome State Fault Refusal :=
  .next (s.fabric t (fun s => s.ramanTake n stokes anti))

/-- ACCUMULATION_END (R209, R210). -/
def execAccumulationEnd (t : Nat) (n : Fin 4) (s : State) : Host.Outcome State Fault Refusal :=
  .next (s.fabric t (fun s => s.dtsSwap n))

/-- DTS_END_COMPUTATION (R217). -/
def execDtsEndComputation (t : Nat) (n : Fin 4) (s : State) : Host.Outcome State Fault Refusal :=
  .next (s.fabric t (fun s => s.dtsEnd n))

/-- ENERGY_INTERVAL_END (R237). -/
def execEnergyIntervalEnd (t : Nat) (n : Fin 4) (s : State) : Host.Outcome State Fault Refusal :=
  .next (s.fabric t (fun s => s.energyEnd n))

end Sys2Proof.Machine
end

