-- ==== Sys2Proof/Machine/PowerCmds.lean ====
section
/-! DEFINITION. Events of the modes, the power ladder and the boot (chapters 14 and 15). -/

namespace Sys2Proof.Machine

/-- LADDER_ENTRY (R497). -/
def execLadderEntry (t : Nat) (s : State) : Host.Outcome State Fault Refusal := .next (s.main t State.ladderEntry)

/-- LADDER_EXIT (R497). -/
def execLadderExit (t : Nat) (s : State) : Host.Outcome State Fault Refusal := .next (s.main t State.ladderLeave)

/-- BAR_ACCESS_WAKE (R499). -/
def execBarAccessWake (t : Nat) (s : State) : Host.Outcome State Fault Refusal := .next (s.main t State.accessWake)

/-- WAKE_N (R500). -/
def execWakeN (t : Nat) (s : State) : Host.Outcome State Fault Refusal := .next ((s.at t).wake 1 true true)

/-- RTC_ALARM (R500). -/
def execRtcAlarm (t : Nat) (s : State) : Host.Outcome State Fault Refusal := .next (s.at t).rtcWake

/-- POWER_SEQUENCE_STEP (R504). -/
def execPowerSequenceStep (t : Nat) (railsGood : Bool) (s : State) : Host.Outcome State Fault Refusal :=
  .next ((s.at t).powerStep railsGood)

/-- RAIL_FAIL (R505). -/
def execRailFail (t : Nat) (s : State) : Host.Outcome State Fault Refusal := .next (s.at t).railFail

/-- BOOT_STEP_DONE (R500, R506 to R508, R554). -/
def execBootStepDone (t : Nat) (info : BootInfo) (s : State) : Host.Outcome State Fault Refusal :=
  .next (if (s.at t).resuming then (s.at t).bootStep info else s.main t (fun s => s.bootStep info))

/-- PORST_N_ASSERT (R510, R528). -/
def execPorstNAssert (t : Nat) (s : State) : Host.Outcome State Fault Refusal := .next (s.at t).porstLow

/-- PORST_N_RELEASE (R528). -/
def execPorstNRelease (t : Nat) (s : State) : Host.Outcome State Fault Refusal := .next (s.at t).porstHigh

/-- VDD_AON_RISE (R482, R503, R524). -/
def execVddAonRise (t : Nat) (s : State) : Host.Outcome State Fault Refusal := .next (s.at t).aonRise

/-- VDD_AON_FALL (R524). -/
def execVddAonFall (t : Nat) (s : State) : Host.Outcome State Fault Refusal := .next (s.at t).aonFall

/-- SAFE_HOLD_CLEAR (R8). -/
def execSafeHoldClear (t : Nat) (s : State) : Host.Outcome State Fault Refusal := .next (s.at t).safeHoldClear

/-- PWR_UV_RAIL (R522, R523). -/
def execPwrUvRail (t : Nat) (rail : RailDip) (s : State) : Host.Outcome State Fault Refusal := .next ((s.at t).railDip rail)

/-- PERST_N_RELEASE (R500, R540). -/
def execPerstNRelease (t : Nat) (s : State) : Host.Outcome State Fault Refusal := .next (((s.at t).perstPin false).wake 5 true false)

/-- PCIE_RECEIVER_DETECTED (R500). -/
def execPcieReceiverDetected (t : Nat) (s : State) : Host.Outcome State Fault Refusal :=
  .next ((s.at t).wake 4 false false)

/-- NV_WRITE_DONE (R514, R515). -/
def execNvWriteDone (t : Nat) (verifyOk : Bool) (s : State) : Host.Outcome State Fault Refusal :=
  .next (s.main t (fun s => s.nvDone verifyOk))

end Sys2Proof.Machine
end

