-- ==== Sys2Proof/Machine/RegCmds.lean ====
section
/-! DEFINITION. Register actions: writes and reads of BAR0, doorbells of BAR2, and the management SPI. Each row that names one
register is a bus access at that register's offset; what the access does stands in RegAccess.lean and RegView.lean. -/

namespace Sys2Proof.Machine

/-- WARM_RESET: a write of SYS.RESET (R509, R516). -/
def execWarmReset (b : Bus) (v : Word) (s : State) : Host.Outcome State Fault Refusal :=
  .next (s.busWord b SYS_RESET v)

/-- ALIGN_ARM: a write of TIM.ALIGN (R33). -/
def execAlignArm (b : Bus) (v : Word) (s : State) : Host.Outcome State Fault Refusal :=
  .next (s.busWord b TIM_ALIGN v)

/-- ALIGN_ABORT: a write of TIM.ALIGN (R34). -/
def execAlignAbort (b : Bus) (v : Word) (s : State) : Host.Outcome State Fault Refusal :=
  .next (s.busWord b TIM_ALIGN v)

/-- QIN_LOAD: a write of TRK.QIN[i].LOAD (R265). -/
def execQinLoad (b : Bus) (i : Fin 2) (v : Word) (s : State) : Host.Outcome State Fault Refusal :=
  .next (s.busWord b (TRK_QIN_LOAD i) v)

/-- CLEAR_IDS: a write of the CTL register of command ring k (R332). -/
def execClearIds (b : Bus) (k : Fin 16) (v : Word) (s : State) : Host.Outcome State Fault Refusal :=
  .next (s.busWord b (HIF_CMD_CTL k) v)

/-- PMC_SEQ_START: a write of PMC.SEQ (R373). -/
def execPmcSeqStart (b : Bus) (v : Word) (s : State) : Host.Outcome State Fault Refusal :=
  .next (s.busWord b PMC_SEQ v)

/-- PMC_SEQ_STOP: a write of PMC.SEQ (R376). -/
def execPmcSeqStop (b : Bus) (v : Word) (s : State) : Host.Outcome State Fault Refusal :=
  .next (s.busWord b PMC_SEQ v)

/-- PMC_INJ_START: a write of the TRIG register of INJ[j] (R377). -/
def execPmcInjStart (b : Bus) (j : Fin 4) (v : Word) (s : State) : Host.Outcome State Fault Refusal :=
  .next (s.busWord b (PMC_INJ_TRIG j) v)

/-- PMC_CAL_START: a write of PMC.CAL_CTL (R379). -/
def execPmcCalStart (b : Bus) (v : Word) (s : State) : Host.Outcome State Fault Refusal :=
  .next (s.busWord b PMC_CAL_CTL v)

/-- WEIR_LATCH_CLEAR: a write of WMN.LATCH (R400, R401). -/
def execWeirLatchClear (b : Bus) (v : Word) (s : State) : Host.Outcome State Fault Refusal :=
  .next (s.busWord b WMN_LATCH v)

/-- MEM_INIT: a write of MEM.CTL (R471). -/
def execMemInit (b : Bus) (v : Word) (s : State) : Host.Outcome State Fault Refusal :=
  .next (s.busWord b MEM_CTL v)

/-- MEM_TEST_START: a write of MEM.TEST_CTL (R473). -/
def execMemTestStart (b : Bus) (v : Word) (s : State) : Host.Outcome State Fault Refusal :=
  .next (s.busWord b MEM_TEST_CTL v)

/-- HIST_DUMP: a write of MEM.HIST_CTL (R477). -/
def execHistDump (b : Bus) (v : Word) (s : State) : Host.Outcome State Fault Refusal :=
  .next (s.busWord b MEM_HIST_CTL v)

/-- EPOCH_LO_WRITE: a write of TIM.EPOCH_LO (R35). -/
def execEpochLoWrite (b : Bus) (v : Word) (s : State) : Host.Outcome State Fault Refusal :=
  .next (s.busWord b TIM_EPOCH_LO v)

/-- EPOCH_HI_WRITE: a write of TIM.EPOCH_HI (R35). -/
def execEpochHiWrite (b : Bus) (v : Word) (s : State) : Host.Outcome State Fault Refusal :=
  .next (s.busWord b TIM_EPOCH_HI v)

/-- SNAPSHOT_READ: a 32-bit read of a register that captures others (R32, R551). -/
def execSnapshotRead (b : Bus) (off : Nat) (s : State) : Host.Outcome State Fault Refusal :=
  .next (s.busRead b off 4)

/-- READ_CLEAR: a read that clears RC fields (R17). -/
def execReadClear (b : Bus) (off bytes : Nat) (s : State) : Host.Outcome State Fault Refusal :=
  .next (s.busRead b off bytes)

/-- QIN_POS_READ: a read of TRK.QIN[i].POS (R265). -/
def execQinPosRead (b : Bus) (i : Fin 2) (s : State) : Host.Outcome State Fault Refusal :=
  .next (s.busRead b (TRK_QIN_POS i) 4)

/-- MS_FIFO_READ: a read of TRK.MS_FIFO (R271). -/
def execMsFifoRead (b : Bus) (s : State) : Host.Outcome State Fault Refusal :=
  .next (s.busRead b TRK_MS_FIFO 4)

/-- SYNC_IN_DISABLE: a write of TIM.SYNC_CFG (R50). -/
def execSyncInDisable (b : Bus) (v : Word) (s : State) : Host.Outcome State Fault Refusal :=
  .next (s.busWord b TIM_SYNC_CFG v)

/-- TRACK_ID_WRITE: a write of TRK.ENC[m].TRACK_ID (R275). -/
def execTrackIdWrite (b : Bus) (m : Fin 4) (v : Word) (s : State) : Host.Outcome State Fault Refusal :=
  .next (s.busWord b (TRK_ENC_TRACK_ID m) v)

/-- CMP_VALUE_WRITE: a write of TRK.CMP[c].VALUE (R269). -/
def execCmpValueWrite (b : Bus) (c : Fin 8) (v : Word) (s : State) : Host.Outcome State Fault Refusal :=
  .next (s.busWord b (TRK_CMP_VALUE c) v)

/-- WEIR_CONFIG_WRITE: a write of WMN.WM[m].THR or WMN.WM[m].CFG (R398, R403, R410). -/
def execWeirConfigWrite (b : Bus) (m : Fin 16) (thr : Bool) (v : Word) (s : State) : Host.Outcome State Fault Refusal :=
  .next (s.busWord b (if thr then WMN_WM_THR m else WMN_WM_CFG m) v)

/-- PMC_DISABLE: a write of PMC.CTL (R376). -/
def execPmcDisable (b : Bus) (v : Word) (s : State) : Host.Outcome State Fault Refusal :=
  .next (s.busWord b PMC_CTL v)

/-- The CTL register of a ring. -/
def ringCtl : RingKind → Nat → Nat
  | .cmd, k => HIF_CMD_CTL k
  | .cpl, k => HIF_CPL_CTL k
  | .str, k => HIF_STR_CTL k

/-- RING_ENABLE: a write of the CTL register of a ring (R320, R355). -/
def execRingEnable (b : Bus) (kind : RingKind) (k : Nat) (v : Word) (s : State) : Host.Outcome State Fault Refusal :=
  .next (if ringOk kind k then s.busWord b (ringCtl kind k) v else s.at b.t)

/-- RING_DISABLE: a write of the CTL register of a ring (R321, R339). -/
def execRingDisable (b : Bus) (kind : RingKind) (k : Nat) (v : Word) (s : State) : Host.Outcome State Fault Refusal :=
  .next (if ringOk kind k then s.busWord b (ringCtl kind k) v else s.at b.t)

/-- A STOPPING ring is DISABLED once what it had in work has ended: the commands of a command ring, the completions
already due to a completion ring (R321). -/
def State.ringStop (s : State) (kind : RingKind) (k : Nat) : State :=
  let idle := match kind with
    | .cmd => (s.ring k).running.isEmpty
    | .cpl => !s.hif.heldCpl.any (fun c => c.ring == k)
    | .str => true
  if ringOk kind k && s.get (ringState kind k) == 2 && idle then s.set (ringState kind k) 0 else s

/-- RING_STOPPED (R321). -/
def execRingStopped (t : Nat) (kind : RingKind) (k : Nat) (s : State) : Host.Outcome State Fault Refusal :=
  .next (s.main t (fun s => s.ringStop kind k))

/-- CMD_DOORBELL (R318). -/
def execCmdDoorbell (b : Bus) (k : Fin 16) (v : Word) (s : State) : Host.Outcome State Fault Refusal :=
  .next (s.doorbell b (fun s => s.cmdDb k v.toNat))

/-- CPL_DOORBELL (R318, R334). -/
def execCplDoorbell (b : Bus) (k : Fin 16) (v : Word) (s : State) : Host.Outcome State Fault Refusal :=
  .next (s.doorbell b (fun s => s.cplDb k v.toNat))

/-- STR_DOORBELL (R318, R336). -/
def execStrDoorbell (b : Bus) (m : Fin 32) (v : Word) (descs : List BufDesc) (s : State) :
    Host.Outcome State Fault Refusal :=
  .next (s.doorbell b (fun s => s.strDb m v.toNat descs))

/-- REGISTER_WRITE (R12 to R18). -/
def execRegisterWrite (b : Bus) (off bytes : Nat) (v : BitVec 64) (s : State) : Host.Outcome State Fault Refusal :=
  .next (s.busWrite b off bytes v)

/-- SPI_TRANSACTION (R386, R387). -/
def execSpiTransaction (t : Nat) (cmd : BitVec 8) (addr : BitVec 16) (data : List Word) (reads : Nat) (s : State) :
    Host.Outcome State Fault Refusal :=
  .next (s.spiRun t cmd addr data reads)

end Sys2Proof.Machine
end

