-- ==== Sys2Proof/Machine/RingCmds.lean ====
section
/-! DEFINITION. The commands of the descriptor rings (R328). Each starts through `State.ringStart`: the descriptor is
fetched or not, answered as a duplicate, rejected with the code given here (1 OPCODE, 2 RESERVED, 3 PARAM, 4 ALIGN), or
executed. -/

namespace Sys2Proof.Machine

/-- NOP completes with result 0; an opcode of no command is rejected (R325, R328). -/
def execNop (h : Hdr) (opcode : Nat) (s : State) : Host.Outcome State Fault Refusal :=
  .next (s.ringStart h opcode (if opcode = 0 then none else some 1) (fun c s => s.complete c 0 0))

/-- ARM (R78, R79). -/
def execArm (h : Hdr) (fe : Nat) (s : State) : Host.Outcome State Fault Refusal :=
  .next (s.ringStart h 0x0101 (if fe ≤ 3 then none else some 3) (fun c s => s.armCmd fe c))

/-- DISARM (R82, R87). -/
def execDisarm (h : Hdr) (fe : Nat) (s : State) : Host.Outcome State Fault Refusal :=
  .next (s.ringStart h 0x0102 (if fe ≤ 3 then none else some 3) (fun c s => s.disarmFe fe (some c)))

/-- ACQ_CALIBRATE (R112, R113): mask bits 24 to 31 are reserved. -/
def execAcqCalibrate (h : Hdr) (mask : Nat) (nv saveOnly : Bool) (s : State) : Host.Outcome State Fault Refusal :=
  .next (s.ringStart h 0x0201 (if mask < 2 ^ 24 then none else some 2) (fun c s => s.calStart c mask nv saveOnly))

/-- PMC_CALIBRATE (R379). -/
def execPmcCalibrate (h : Hdr) (mask : Nat) (nv saveOnly : Bool) (s : State) : Host.Outcome State Fault Refusal :=
  .next (s.ringStart h 0x0202 (if 256 ≤ mask then some 2 else if mask = 0 ∧ !saveOnly then some 3 else none)
    (fun c s => s.pmcCalStart (some c) mask nv saveOnly))

/-- A length that is not a multiple of 64, or above 16 MiB, makes an image fail its format check (R285, R286). -/
def ImageRead.withLen (i : ImageRead) (len : Nat) : ImageRead :=
  { i with sectionsOk := i.sectionsOk && decide (len % 64 = 0 ∧ len ≤ 16777216) }

/-- LOAD_SCHEDULE (R285, R286). -/
def execLoadSchedule (h : Hdr) (addr len : Nat) (img : Option ImageRead) (s : State) : Host.Outcome State Fault Refusal :=
  .next (s.ringStart h 0x0301 (badAddr addr false) (fun c s => s.loadStart c (img.map (fun i => ImageRead.withLen i len))))

/-- UNLOAD_SCHEDULE (R291). -/
def execUnloadSchedule (h : Hdr) (slot : Nat) (s : State) : Host.Outcome State Fault Refusal :=
  .next (s.ringStart h 0x0302 (if slot ≤ 3 then none else some 3) (fun c s => s.unloadStart c slot))

/-- COMMIT (R301, R306). -/
def execCommit (h : Hdr) (addr len : Nat) (list : Option (List Byte)) (s : State) : Host.Outcome State Fault Refusal :=
  .next (s.ringStart h 0x0303 (badAddr addr false) (fun c s => s.commitStage c (list.bind (commitParse len))))

/-- COMMIT_CANCEL (R309, R329). -/
def execCommitCancel (h : Hdr) (target : BitVec 32) (s : State) : Host.Outcome State Fault Refusal :=
  .next (s.ringStart h 0x0304 none (fun c s => s.commitCancel c target))

/-- SET_MODE (R483). -/
def execSetMode (h : Hdr) (mode : Nat) (tokenAddr : Nat) (token : Option TokenRead) (s : State) :
    Host.Outcome State Fault Refusal :=
  .next (s.ringStart h 0x0401 (badAddr tokenAddr (decide (7 < mode))) (fun c s => s.setMode c mode tokenAddr token))

/-- SET_LATENCY (R498). -/
def execSetLatency (h : Hdr) (ns : BitVec 64) (s : State) : Host.Outcome State Fault Refusal :=
  .next (s.ringStart h 0x0402 none (fun c s => s.setLatency c ns.toNat))

/-- RECOVER (R438, R439). -/
def execRecover (h : Hdr) (mask : Nat) (s : State) : Host.Outcome State Fault Refusal :=
  .next (s.ringStart h 0x0403 (if 1 ≤ mask ∧ mask < 256 then none else some 3) (fun c s => s.recover c mask))

/-- The parameters of FAULT_INJECT (R440). -/
def injectParams (src kind dur : Nat) : Bool :=
  decide (src ≤ 127 ∧ kind ≤ 2 ∧ 12 ≤ dur ∧ dur ≤ 1000000 ∧ dur % 4 = 0)

/-- FAULT_INJECT (R440). -/
def execFaultInject (h : Hdr) (src kind durNs : Nat) (s : State) : Host.Outcome State Fault Refusal :=
  .next (s.ringStart h 0x0404 (if injectParams src kind durNs then none else some 3) (fun c s => s.inject c src kind durNs))

/-- The length of an NV command: a multiple of 8, at most 256 KiB (R514). -/
def nvLenBad (len : Nat) : Bool := !decide (len % 8 = 0 ∧ len ≤ 262144)

/-- NV_WRITE (R514). -/
def execNvWrite (h : Hdr) (addr off len : Nat) (data : Option (List Byte)) (s : State) : Host.Outcome State Fault Refusal :=
  .next (s.ringStart h 0x0501 (badAddr addr (nvLenBad len)) (fun c s => s.nvWrite c off len data))

/-- NV_READ (R514). -/
def execNvRead (h : Hdr) (addr off len : Nat) (dmaOk : Bool) (corrected : Nat) (badWord : Option Nat) (s : State) :
    Host.Outcome State Fault Refusal :=
  .next (s.ringStart h 0x0502 (badAddr addr (nvLenBad len)) (fun c s => s.nvRead c addr off len dmaOk corrected badWord))

/-- READ_REATTACH_LOG executes (R358). -/
def State.readLog (s : State) (c : Cmd) (addr len : Nat) : State :=
  if len < 9280 then s.complete c 1 0 else (s.dmaWrite addr s.logBytes).complete c 0 9280

/-- READ_REATTACH_LOG. -/
def execReadReattachLog (h : Hdr) (addr len : Nat) (s : State) : Host.Outcome State Fault Refusal :=
  .next (s.ringStart h 0x0601 (badAddr addr false) (fun c s => s.readLog c addr len))

/-- SPILL_DRAIN executes (R356): in HOLD the device becomes ATTACHED, the log is emptied, and with nothing to drain
DRAIN_DONE is set at once (R346). -/
def State.spillDrain (s : State) (c : Cmd) : State :=
  if s.attach = 2 then
    let s1 := (s.set HIF_STATUS_ATTACH 0).set HIF_STATUS_PERST_GATED 0
    let s2 : State := { s1 with hif := { s1.hif with log := [], logOpen := false } }
    (if s2.backlog then s2 else s2.ev HIF_EVENTS_DRAIN_DONE).complete c 0 0
  else s.complete c 1 0

/-- SPILL_DRAIN. -/
def execSpillDrain (h : Hdr) (s : State) : Host.Outcome State Fault Refusal :=
  .next (s.ringStart h 0x0602 none (fun c s => s.spillDrain c))

/-- DETACH (R353). -/
def execDetach (h : Hdr) (s : State) : Host.Outcome State Fault Refusal :=
  .next (s.ringStart h 0x0603 none (fun c s => s.detachStart c))

/-- STREAM_FLUSH executes: the open buffers of the selected rings close (R339). -/
def State.streamFlush (s : State) (mask : Nat) : State :=
  (List.range 32).foldl (fun s m => if mask.testBit m then s.bufFlush m else s) s

/-- STREAM_FLUSH. -/
def execStreamFlush (h : Hdr) (mask : BitVec 32) (s : State) : Host.Outcome State Fault Refusal :=
  .next (s.ringStart h 0x0604 none (fun c s => (s.streamFlush mask.toNat).complete c 0 0))

end Sys2Proof.Machine
end

