-- ==== Sys2Proof/Machine/TimeCmds.lean ====
section
/-! DEFINITION. Events of the time base (chapter 01): the reference, the two reference inputs, SYNC_OUT, and LAUNCH_IN. -/

namespace Sys2Proof.Machine

/-- REFCLK_LOSS (R22, R34). -/
def execRefclkLoss (t : Nat) (s : State) : Host.Outcome State Fault Refusal := .next (s.main t State.refLoss)

/-- REFCLK_RETURN (R20). -/
def execRefclkReturn (t : Nat) (s : State) : Host.Outcome State Fault Refusal := .next (s.main t State.refReturn)

/-- PLL_LOCK (R20, R24). -/
def execPllLock (t : Nat) (s : State) : Host.Outcome State Fault Refusal := .next (s.main t State.pllLock)

/-- TIM_PLL_FAIL raises source 8 (R25). -/
def execTimPllFail (t : Nat) (s : State) : Host.Outcome State Fault Refusal := .next (s.main t (fun s => s.present 8))

/-- HOLD_EXPIRED (R23). -/
def execHoldExpired (t : Nat) (s : State) : Host.Outcome State Fault Refusal := .next (s.main t State.holdExpire)

/-- An edge that may align grid time: where the grid steps, the conversion in progress restarts (R371). -/
def State.edgeStep (s : State) (f : State → State) : State := if (f s).gtOff = s.gtOff then f s else (f s).pmcRestart

/-- PPS_IN_EDGE (R27, R30, R33). -/
def execPpsInEdge (t : Nat) (falling : Bool) (s : State) : Host.Outcome State Fault Refusal :=
  .next (s.main t (fun s => s.edgeStep (fun s => s.ppsEdge falling)))

/-- PPS_LOSS (R31). -/
def execPpsLoss (t : Nat) (s : State) : Host.Outcome State Fault Refusal := .next (s.main t State.ppsLost)

/-- SYNC_IN_EDGE (R30, R33, R50). -/
def execSyncInEdge (t : Nat) (falling : Bool) (s : State) : Host.Outcome State Fault Refusal :=
  .next (s.main t (fun s => s.edgeStep (fun s => s.syncEdge falling)))

/-- SYNC_LOSS (R50). -/
def execSyncLoss (t : Nat) (s : State) : Host.Outcome State Fault Refusal := .next (s.main t State.syncLost)

/-- SYNC_OUT_PULSE (R49). -/
def execSyncOutPulse (t : Nat) (s : State) : Host.Outcome State Fault Refusal := .next (s.main t State.syncOut)

/-- LAUNCH_IN_EDGE (R54, R55, R490). -/
def execLaunchInEdge (t : Nat) (s : State) : Host.Outcome State Fault Refusal := .next (s.fabric t State.launchIn)

/-- LAUNCH_LATE (R56). -/
def execLaunchLate (t : Nat) (n : Fin 4) (s : State) : Host.Outcome State Fault Refusal :=
  .next (s.fabric t (fun s => s.launchLate n))

end Sys2Proof.Machine
end

