-- ==== Sys2Proof/Machine/TrackCmds.lean ====
section
/-! DEFINITION. Events of the track interface (chapter 07). -/

namespace Sys2Proof.Machine

/-- ENCODER_EDGE (R260 to R264, R268). -/
def execEncoderEdge (t : Nat) (i : Fin 2) (qa qb : Bool) (s : State) : Host.Outcome State Fault Refusal :=
  .next (s.main t (fun s => s.encoderEdge i qa qb))

/-- CMP_PULSE_END (R268). -/
def execCmpPulseEnd (t : Nat) (pin : Fin 12) (s : State) : Host.Outcome State Fault Refusal :=
  .next (s.main t (fun s => s.cmpPulseEnd pin))

/-- INDEX_PULSE (R266). -/
def execIndexPulse (t : Nat) (i : Fin 2) (level : Bool) (s : State) : Host.Outcome State Fault Refusal :=
  .next (s.main t (fun s => s.indexPulse i level))

/-- ENCODER_STALL (R263). -/
def execEncoderStall (t : Nat) (i : Fin 2) (s : State) : Host.Outcome State Fault Refusal :=
  .next (s.main t (fun s => s.encoderStall i))

/-- COUNT_HISTORY_RECORD (R267). -/
def execCountHistoryRecord (t : Nat) (i : Fin 2) (s : State) : Host.Outcome State Fault Refusal :=
  .next (s.main t (fun s => s.historyRecord i))

/-- MS_EDGE (R271). -/
def execMsEdge (t : Nat) (m : Fin 8) (falling : Bool) (stamp : Nat) (s : State) : Host.Outcome State Fault Refusal :=
  .next (s.main t (fun s => s.msEdge m falling stamp))

/-- SSI_FRAME_START (R272). -/
def execSsiFrameStart (t : Nat) (p : Fin 2) (datLow : Bool) (s : State) : Host.Outcome State Fault Refusal :=
  .next (s.main t (fun s => s.ssiStart p datLow))

/-- SSI_FRAME_END (R272). -/
def execSsiFrameEnd (t : Nat) (p : Fin 2) (bits : BitVec 32) (end_ : SsiEnd) (s : State) :
    Host.Outcome State Fault Refusal :=
  .next (s.main t (fun s => s.ssiEnd p bits.toNat end_.datLow end_.high))

/-- ENC_TARGET_UPDATE (R274, R275). -/
def execEncTargetUpdate (t : Nat) (m : Fin 4) (s : State) : Host.Outcome State Fault Refusal :=
  .next (s.main t (fun s => s.encUpdate m))

/-- ENC_STEP (R274). -/
def execEncStep (t : Nat) (m : Fin 4) (s : State) : Host.Outcome State Fault Refusal := .next (s.main t (fun s => s.encStep m))

end Sys2Proof.Machine
end

