-- ==== Sys2Proof/Machine/Dispatch.lean ====
section
/-! DEFINITION. One arm per command: each calls that command's meaning. -/

namespace Sys2Proof.Machine

/-- The effect of a command on everything but the queue. -/
def exec (i : Instr) (s : State) : Host.Outcome State Fault Refusal :=
  match i with
  | .nop h opcode => Sys2Proof.Machine.execNop h opcode s
  | .arm h fe => Sys2Proof.Machine.execArm h fe s
  | .disarm h fe => Sys2Proof.Machine.execDisarm h fe s
  | .acqCalibrate h mask nv saveOnly => Sys2Proof.Machine.execAcqCalibrate h mask nv saveOnly s
  | .pmcCalibrate h mask nv saveOnly => Sys2Proof.Machine.execPmcCalibrate h mask nv saveOnly s
  | .loadSchedule h addr len img => Sys2Proof.Machine.execLoadSchedule h addr len img s
  | .unloadSchedule h slot => Sys2Proof.Machine.execUnloadSchedule h slot s
  | .commit h addr len list => Sys2Proof.Machine.execCommit h addr len list s
  | .commitCancel h target => Sys2Proof.Machine.execCommitCancel h target s
  | .setMode h mode tokenAddr token => Sys2Proof.Machine.execSetMode h mode tokenAddr token s
  | .setLatency h ns => Sys2Proof.Machine.execSetLatency h ns s
  | .recover h mask => Sys2Proof.Machine.execRecover h mask s
  | .faultInject h src kind durNs => Sys2Proof.Machine.execFaultInject h src kind durNs s
  | .nvWrite h addr off len data => Sys2Proof.Machine.execNvWrite h addr off len data s
  | .nvRead h addr off len dmaOk corrected badWord => Sys2Proof.Machine.execNvRead h addr off len dmaOk corrected badWord s
  | .readReattachLog h addr len => Sys2Proof.Machine.execReadReattachLog h addr len s
  | .spillDrain h => Sys2Proof.Machine.execSpillDrain h s
  | .detach h => Sys2Proof.Machine.execDetach h s
  | .streamFlush h mask => Sys2Proof.Machine.execStreamFlush h mask s
  | .warmReset b v => Sys2Proof.Machine.execWarmReset b v s
  | .alignArm b v => Sys2Proof.Machine.execAlignArm b v s
  | .alignAbort b v => Sys2Proof.Machine.execAlignAbort b v s
  | .qinLoad b k v => Sys2Proof.Machine.execQinLoad b k v s
  | .clearIds b k v => Sys2Proof.Machine.execClearIds b k v s
  | .pmcSeqStart b v => Sys2Proof.Machine.execPmcSeqStart b v s
  | .pmcSeqStop b v => Sys2Proof.Machine.execPmcSeqStop b v s
  | .pmcInjStart b j v => Sys2Proof.Machine.execPmcInjStart b j v s
  | .pmcCalStart b v => Sys2Proof.Machine.execPmcCalStart b v s
  | .weirLatchClear b v => Sys2Proof.Machine.execWeirLatchClear b v s
  | .memInit b v => Sys2Proof.Machine.execMemInit b v s
  | .memTestStart b v => Sys2Proof.Machine.execMemTestStart b v s
  | .histDump b v => Sys2Proof.Machine.execHistDump b v s
  | .epochLoWrite b v => Sys2Proof.Machine.execEpochLoWrite b v s
  | .epochHiWrite b v => Sys2Proof.Machine.execEpochHiWrite b v s
  | .snapshotRead b off => Sys2Proof.Machine.execSnapshotRead b off s
  | .readClear b off bytes => Sys2Proof.Machine.execReadClear b off bytes s
  | .qinPosRead b k => Sys2Proof.Machine.execQinPosRead b k s
  | .msFifoRead b => Sys2Proof.Machine.execMsFifoRead b s
  | .syncInDisable b v => Sys2Proof.Machine.execSyncInDisable b v s
  | .trackIdWrite b m v => Sys2Proof.Machine.execTrackIdWrite b m v s
  | .cmpValueWrite b c v => Sys2Proof.Machine.execCmpValueWrite b c v s
  | .weirConfigWrite b m thr v => Sys2Proof.Machine.execWeirConfigWrite b m thr v s
  | .pmcDisable b v => Sys2Proof.Machine.execPmcDisable b v s
  | .ringEnable b kind k v => Sys2Proof.Machine.execRingEnable b kind k v s
  | .ringDisable b kind k v => Sys2Proof.Machine.execRingDisable b kind k v s
  | .ringStopped t kind k => Sys2Proof.Machine.execRingStopped t kind k s
  | .cmdDoorbell b k v => Sys2Proof.Machine.execCmdDoorbell b k v s
  | .cplDoorbell b k v => Sys2Proof.Machine.execCplDoorbell b k v s
  | .strDoorbell b m v descs => Sys2Proof.Machine.execStrDoorbell b m v descs s
  | .registerWrite b off bytes v => Sys2Proof.Machine.execRegisterWrite b off bytes v s
  | .spiTransaction t cmd addr data reads => Sys2Proof.Machine.execSpiTransaction t cmd addr data reads s
  | .refclkLoss t => Sys2Proof.Machine.execRefclkLoss t s
  | .refclkReturn t => Sys2Proof.Machine.execRefclkReturn t s
  | .pllLock t => Sys2Proof.Machine.execPllLock t s
  | .timPllFail t => Sys2Proof.Machine.execTimPllFail t s
  | .holdExpired t => Sys2Proof.Machine.execHoldExpired t s
  | .ppsInEdge t falling => Sys2Proof.Machine.execPpsInEdge t falling s
  | .ppsLoss t => Sys2Proof.Machine.execPpsLoss t s
  | .syncInEdge t falling => Sys2Proof.Machine.execSyncInEdge t falling s
  | .syncLoss t => Sys2Proof.Machine.execSyncLoss t s
  | .syncOutPulse t => Sys2Proof.Machine.execSyncOutPulse t s
  | .launchInEdge t => Sys2Proof.Machine.execLaunchInEdge t s
  | .launchLate t n => Sys2Proof.Machine.execLaunchLate t n s
  | .launch t n => Sys2Proof.Machine.execLaunch t n s
  | .segmentEnd t n => Sys2Proof.Machine.execSegmentEnd t n s
  | .gateWindowOpen t n g => Sys2Proof.Machine.execGateWindowOpen t n g s
  | .gateWindowClose t n g => Sys2Proof.Machine.execGateWindowClose t n g s
  | .envExceed t n => Sys2Proof.Machine.execEnvExceed t n s
  | .dutyWindowEnd t n => Sys2Proof.Machine.execDutyWindowEnd t n s
  | .armSelftestDone t n pass => Sys2Proof.Machine.execArmSelftestDone t n pass s
  | .armedEntry t n => Sys2Proof.Machine.execArmedEntry t n s
  | .disarmTakeEffect t n => Sys2Proof.Machine.execDisarmTakeEffect t n s
  | .safeNFall t => Sys2Proof.Machine.execSafeNFall t s
  | .safeNRise t => Sys2Proof.Machine.execSafeNRise t s
  | .acqCalPhaseEnd t coherent => Sys2Proof.Machine.execAcqCalPhaseEnd t coherent s
  | .acqCalDone t r => Sys2Proof.Machine.execAcqCalDone t r s
  | .bgCalBlockEnd t c raw => Sys2Proof.Machine.execBgCalBlockEnd t c raw s
  | .iqBlindBlockEnd t p sumII sumQQ sumIQ => Sys2Proof.Machine.execIqBlindBlockEnd t p sumII sumQQ sumIQ s
  | .darkBlockEnd t k raw => Sys2Proof.Machine.execDarkBlockEnd t k raw s
  | .acqChFail t ch since => Sys2Proof.Machine.execAcqChFail t ch since s
  | .shotProcessed t n raw errs => Sys2Proof.Machine.execShotProcessed t n raw errs s
  | .acfOutput t n => Sys2Proof.Machine.execAcfOutput t n s
  | .ramanShotAccumulate t n stokes anti => Sys2Proof.Machine.execRamanShotAccumulate t n stokes anti s
  | .accumulationEnd t n => Sys2Proof.Machine.execAccumulationEnd t n s
  | .dtsEndComputation t n => Sys2Proof.Machine.execDtsEndComputation t n s
  | .energyIntervalEnd t n => Sys2Proof.Machine.execEnergyIntervalEnd t n s
  | .encoderEdge t k qa qb => Sys2Proof.Machine.execEncoderEdge t k qa qb s
  | .cmpPulseEnd t pin => Sys2Proof.Machine.execCmpPulseEnd t pin s
  | .indexPulse t k level => Sys2Proof.Machine.execIndexPulse t k level s
  | .encoderStall t k => Sys2Proof.Machine.execEncoderStall t k s
  | .countHistoryRecord t k => Sys2Proof.Machine.execCountHistoryRecord t k s
  | .msEdge t m falling stamp => Sys2Proof.Machine.execMsEdge t m falling stamp s
  | .ssiFrameStart t p datLow => Sys2Proof.Machine.execSsiFrameStart t p datLow s
  | .ssiFrameEnd t p bits end_ => Sys2Proof.Machine.execSsiFrameEnd t p bits end_ s
  | .encTargetUpdate t m => Sys2Proof.Machine.execEncTargetUpdate t m s
  | .encStep t m => Sys2Proof.Machine.execEncStep t m s
  | .frameWorkDone t n => Sys2Proof.Machine.execFrameWorkDone t n s
  | .divert t n => Sys2Proof.Machine.execDivert t n s
  | .commitLock t g => Sys2Proof.Machine.execCommitLock t g s
  | .commitApply t g => Sys2Proof.Machine.execCommitApply t g s
  | .frameDeliver t stream => Sys2Proof.Machine.execFrameDeliver t stream s
  | .frameRelease t stream => Sys2Proof.Machine.execFrameRelease t stream s
  | .drainFrame t errs => Sys2Proof.Machine.execDrainFrame t errs s
  | .coalesceTimeout t k => Sys2Proof.Machine.execCoalesceTimeout t k s
  | .fetchError t kind k => Sys2Proof.Machine.execFetchError t kind k s
  | .linkDown t => Sys2Proof.Machine.execLinkDown t s
  | .linkUp t speed width => Sys2Proof.Machine.execLinkUp t speed width s
  | .perstNAssert t => Sys2Proof.Machine.execPerstNAssert t s
  | .pmcTrigger t trig => Sys2Proof.Machine.execPmcTrigger t trig s
  | .pmcResult t outs => Sys2Proof.Machine.execPmcResult t outs s
  | .pmcInjHwTrigger t j src => Sys2Proof.Machine.execPmcInjHwTrigger t j src s
  | .pmcInjResult t outs => Sys2Proof.Machine.execPmcInjResult t outs s
  | .pmcCalDone t r nvOk => Sys2Proof.Machine.execPmcCalDone t r nvOk s
  | .refFail t outside => Sys2Proof.Machine.execRefFail t outside s
  | .dieTempUpdate t temp => Sys2Proof.Machine.execDieTempUpdate t temp s
  | .weirCrossing t m uV => Sys2Proof.Machine.execWeirCrossing t m uV s
  | .weirAutoClear t m => Sys2Proof.Machine.execWeirAutoClear t m s
  | .weirSettleEnd t m => Sys2Proof.Machine.execWeirSettleEnd t m s
  | .resolved t m uV => Sys2Proof.Machine.execResolved t m uV s
  | .rbCheck t m upper => Sys2Proof.Machine.execRbCheck t m upper s
  | .rbStale t m upper => Sys2Proof.Machine.execRbStale t m upper s
  | .vddA18Return t => Sys2Proof.Machine.execVddA18Return t s
  | .faultCapture t src => Sys2Proof.Machine.execFaultCapture t src s
  | .wireFault t src => Sys2Proof.Machine.execWireFault t src s
  | .windowClose t => Sys2Proof.Machine.execWindowClose t s
  | .injectionWindowEnd t realError => Sys2Proof.Machine.execInjectionWindowEnd t realError s
  | .fltSelftest t pass => Sys2Proof.Machine.execFltSelftest t pass s
  | .polWdt t => Sys2Proof.Machine.execPolWdt t s
  | .appWdt t => Sys2Proof.Machine.execAppWdt t s
  | .refreshTick t c => Sys2Proof.Machine.execRefreshTick t c s
  | .refreshWindow t c => Sys2Proof.Machine.execRefreshWindow t c s
  | .mr4Poll t c field => Sys2Proof.Machine.execMr4Poll t c field s
  | .srEnter t c => Sys2Proof.Machine.execSrEnter t c s
  | .srExit t c beforeSre issued => Sys2Proof.Machine.execSrExit t c beforeSre issued s
  | .eyeMonitorRound t c pass => Sys2Proof.Machine.execEyeMonitorRound t c pass s
  | .scrubPass t errs => Sys2Proof.Machine.execScrubPass t errs s
  | .bermInitDone t => Sys2Proof.Machine.execBermInitDone t s
  | .memInitDone t => Sys2Proof.Machine.execMemInitDone t s
  | .testRunDone t fail => Sys2Proof.Machine.execTestRunDone t fail s
  | .histDone t => Sys2Proof.Machine.execHistDone t s
  | .ladderEntry t => Sys2Proof.Machine.execLadderEntry t s
  | .ladderExit t => Sys2Proof.Machine.execLadderExit t s
  | .barAccessWake t => Sys2Proof.Machine.execBarAccessWake t s
  | .wakeN t => Sys2Proof.Machine.execWakeN t s
  | .rtcAlarm t => Sys2Proof.Machine.execRtcAlarm t s
  | .powerSequenceStep t railsGood => Sys2Proof.Machine.execPowerSequenceStep t railsGood s
  | .railFail t => Sys2Proof.Machine.execRailFail t s
  | .bootStepDone t info => Sys2Proof.Machine.execBootStepDone t info s
  | .porstNAssert t => Sys2Proof.Machine.execPorstNAssert t s
  | .porstNRelease t => Sys2Proof.Machine.execPorstNRelease t s
  | .vddAonRise t => Sys2Proof.Machine.execVddAonRise t s
  | .vddAonFall t => Sys2Proof.Machine.execVddAonFall t s
  | .safeHoldClear t => Sys2Proof.Machine.execSafeHoldClear t s
  | .pwrUvRail t core => Sys2Proof.Machine.execPwrUvRail t core s
  | .weirGateOpen t m => Sys2Proof.Machine.execWeirGateOpen t m s
  | .sourceCleared t src => Sys2Proof.Machine.execSourceCleared t src s
  | .perstNRelease t => Sys2Proof.Machine.execPerstNRelease t s
  | .pcieReceiverDetected t => Sys2Proof.Machine.execPcieReceiverDetected t s
  | .nvWriteDone t verifyOk => Sys2Proof.Machine.execNvWriteDone t verifyOk s
  | .loadScheduleDone t => Sys2Proof.Machine.execLoadScheduleDone t s
  | .completionConfirmed t k => Sys2Proof.Machine.execCompletionConfirmed t k s
  | .appCoresReleased t => Sys2Proof.Machine.execAppCoresReleased t s
  | .launchOutRise t n => Sys2Proof.Machine.execLaunchOutRise t n s

end Sys2Proof.Machine
end

