-- ==== Sys2Proof/Safety.lean ====
section
/-! DEFINITION. What counts as safe: the canonical form of the sparse tables; and the words in which frames are stated: the
components of the state, and two states that agree but for some of them. -/

namespace Sys2Proof.Machine

/-- The canonical form of the register file, the table words, and both byte memories. -/
def State.wf (s : State) : Bool :=
  twf resetOf s.regs && twf tableReset s.tables && twf (fun _ => 0) s.hostMem && twf (fun _ => 0) s.nvs.bytes

/-- The components of the state: one for each field of `State`. -/
inductive Comp where
  | pending
  | now
  | gtOff
  | regs
  | tables
  | hostMem
  | outbox
  | freeIdx
  | safeN
  | snaps
  | hif
  | spill
  | tim
  | fe
  | acq
  | trk
  | sch
  | pmc
  | wmn
  | flt
  | mem
  | pwr
  | nvs
deriving DecidableEq, Repr

/-- Is a component the same in two states? -/
def Comp.same (c : Comp) (s t : State) : Prop :=
  match c with
  | .pending => t.pending = s.pending
  | .now => t.now = s.now
  | .gtOff => t.gtOff = s.gtOff
  | .regs => t.regs = s.regs
  | .tables => t.tables = s.tables
  | .hostMem => t.hostMem = s.hostMem
  | .outbox => t.outbox = s.outbox
  | .freeIdx => t.freeIdx = s.freeIdx
  | .safeN => t.safeN = s.safeN
  | .snaps => t.snaps = s.snaps
  | .hif => t.hif = s.hif
  | .spill => t.spill = s.spill
  | .tim => t.tim = s.tim
  | .fe => t.fe = s.fe
  | .acq => t.acq = s.acq
  | .trk => t.trk = s.trk
  | .sch => t.sch = s.sch
  | .pmc => t.pmc = s.pmc
  | .wmn => t.wmn = s.wmn
  | .flt => t.flt = s.flt
  | .mem => t.mem = s.mem
  | .pwr => t.pwr = s.pwr
  | .nvs => t.nvs = s.nvs

/-- Two states agree in every component that is not listed: what a command may change is what its list names. -/
def Only (l : List Comp) (s t : State) : Prop := ∀ c, c ∉ l → c.same s t

/-- Every register outside the listed blocks (R543) is the same in two states. -/
def Kept (l : List Nat) (s t : State) : Prop := ∀ off, off / 65536 ∉ l → t.reg off = s.reg off

/-- Every register but those listed is the same in two states. -/
def KeptBut (l : List Nat) (s t : State) : Prop := ∀ off, off ∉ l → t.reg off = s.reg off

/-! ### When an event acts -/

/-- The main domain is up at an instant: its events act. -/
def State.upAt (s : State) (t : Nat) : Bool := (s.at t).mainUp && (s.at t).mode != 0

/-- The main domain is up and the mode is not SAFE_HOLD: the events of the signal fabric act (R429). -/
def State.awakeAt (s : State) (t : Nat) : Bool := (s.at t).mainUp && (s.at t).mode != 0 && (s.at t).mode != 7

/-- Source i reads (1,0). -/
def State.raised (s : State) (i : Nat) : Prop := vget .ok s.flt.rails i = .err

/-! ### Register accesses -/

/-- Is bit i of a register in a field of some kinds? -/
def fieldBit (off : Nat) (p : Acc → Bool) (i : Nat) : Bool :=
  match regAt off with
  | some r => (r.mask p).testBit i
  | none => false

/-- An access reaches the registers at once: the main domain is up and at L0, out of SAFE_HOLD; and the master is one that
every register answers (all but the management SPI). -/
def State.reaches (s : State) (b : Bus) : Prop :=
  (s.at b.t).mainUp = true ∧ (s.at b.t).ladder = 0 ∧ (s.at b.t).mode ≠ 7 ∧ b.m ≠ .spi

/-- A write of a word is legal (R18) and not locked now. -/
def State.writable (s : State) (off : Nat) (v : Word) : Bool :=
  match regAt off with
  | some r => !hasAcc off (fun a => a == .rwp) && r.legal v && crossOk (rwrite s.regs off v) off && !s.locked off v
  | none => false

/-- The state that an access meets: at its instant, with the counts of time that LNC shows brought up to date. -/
def State.seenAt (s : State) (b : Bus) (off : Nat) : State := (s.at b.t).readSync off

/-- A register takes a written word. -/
def State.takes (s : State) (b : Bus) (off : Nat) (v : Word) : Prop := s.reaches b ∧ (s.seenAt b off).writable off v = true

/-! ### Ring commands -/

/-- The command of a descriptor. -/
def cmdOf (h : Hdr) (op : Nat) : Cmd := ⟨h.ring, h.reqId, op, h.cookie, h.irq⟩

/-- The state after a descriptor is fetched, at its instant. -/
def State.fetchedAt (s : State) (h : Hdr) : State := (s.at h.t).fetched h.ring

/-- The window entry of a request at its ring (R331). -/
def State.entry (s : State) (h : Hdr) : Option DupEnt := (s.ring h.ring).dup.find? (fun e => e.id == h.reqId)

/-- A descriptor is fetched and starts to execute: the device may start it, its request is not in the window, and it is not
malformed (R325, R326, R331). -/
def State.starts (s : State) (h : Hdr) (op : Nat) (bad : Option Nat) : Prop :=
  (s.at h.t).canStart h op = true ∧ (s.fetchedAt h).entry h = none ∧ (s.fetchedAt h).rejectCode h op bad = none

/-- The state in which a descriptor that starts executes. -/
def State.begun (s : State) (h : Hdr) (op : Nat) : State := (s.fetchedAt h).enroll (cmdOf h op)

/-- The newest entry of the window holds the completion of a request. -/
def State.answered (s : State) (h : Hdr) (result value : Nat) : Prop :=
  (s.ring h.ring).dup.head? = some ⟨h.reqId, result, value, true, []⟩

/-- A command is among the running ones of its ring. -/
def State.runs (s : State) (c : Cmd) : Prop := c ∈ (s.ring c.ring).running

/-- The descriptor of a ring command: its header, its opcode (R328) and the code with which its parameters reject it (R325).
-/
def descOf : Instr → Option (Hdr × Nat × Option Nat)
  | .nop h op => some (h, op, if op = 0 then none else some 1)
  | .arm h fe => some (h, 0x0101, if fe ≤ 3 then none else some 3)
  | .disarm h fe => some (h, 0x0102, if fe ≤ 3 then none else some 3)
  | .acqCalibrate h mask _ _ => some (h, 0x0201, if mask < 2 ^ 24 then none else some 2)
  | .pmcCalibrate h mask _ saveOnly =>
    some (h, 0x0202, if 256 ≤ mask then some 2 else if mask = 0 ∧ !saveOnly then some 3 else none)
  | .loadSchedule h addr _ _ => some (h, 0x0301, badAddr addr false)
  | .unloadSchedule h slot => some (h, 0x0302, if slot ≤ 3 then none else some 3)
  | .commit h addr _ _ => some (h, 0x0303, badAddr addr false)
  | .commitCancel h _ => some (h, 0x0304, none)
  | .setMode h mode tokenAddr _ => some (h, 0x0401, badAddr tokenAddr (decide (7 < mode)))
  | .setLatency h _ => some (h, 0x0402, none)
  | .recover h mask => some (h, 0x0403, if 1 ≤ mask ∧ mask < 256 then none else some 3)
  | .faultInject h src kind dur => some (h, 0x0404, if injectParams src kind dur then none else some 3)
  | .nvWrite h addr _ len _ => some (h, 0x0501, badAddr addr (nvLenBad len))
  | .nvRead h addr _ len _ _ _ => some (h, 0x0502, badAddr addr (nvLenBad len))
  | .readReattachLog h addr _ => some (h, 0x0601, badAddr addr false)
  | .spillDrain h => some (h, 0x0602, none)
  | .detach h => some (h, 0x0603, none)
  | .streamFlush h _ => some (h, 0x0604, none)
  | _ => none

/-! ### Host memory -/

/-- Does a byte of host memory lie in the entries of a ring (R318)? -/
def State.inRing (s : State) (kind : RingKind) (k a : Nat) : Bool :=
  decide (ringBase s kind k ≤ a ∧ a < ringBase s kind k + 32 * s.ringEntries kind k)

/-- Does it lie in the open buffer, or in one that waits, of stream ring m (R336)? -/
def State.inBuffers (s : State) (m a : Nat) : Bool :=
  (match (s.strRing m).buf with | some b => decide (b.addr ≤ a ∧ a < b.addr + b.len) | none => false) ||
    (s.strRing m).descs.any (fun d => decide (d.addr ≤ a ∧ a < d.addr + d.len))

/-! ### Frames -/

/-- The commands with which DORMANT powers the device down (R83, R486) find another mode. -/
def State.staysUp (s : State) : Instr → Prop
  | .disarmTakeEffect t _ | .ladderEntry t => (s.at t).mode ≠ 0
  | _ => True

/-- What a command may change at most where it stays up: the components of the state, and the blocks of its registers (R543).
None: the command may change every component (a reset, a mode change), or its frame is that of a register access. -/
def frameOf : Instr → Option (List Comp × List Nat)
  | .nop .. | .loadSchedule .. | .unloadSchedule .. | .commitCancel .. | .readReattachLog .. | .spillDrain ..
  | .streamFlush .. =>
    some ([.now, .regs, .hostMem, .outbox, .hif, .sch], [10, 11])
  | .loadScheduleDone .. =>
    some ([.now, .regs, .hostMem, .outbox, .hif, .sch, .mem], [10, 11])
  | .arm .. =>
    some ([.now, .regs, .hostMem, .outbox, .hif, .fe, .acq, .sch], [2, 3, 4, 6, 7, 8, 10, 11])
  | .disarm .. | .envExceed .. | .disarmTakeEffect .. =>
    some ([.now, .regs, .tables, .hostMem, .outbox, .hif, .fe, .acq, .trk, .sch, .flt], [2, 3, 4, 5, 6, 7, 8, 9, 10, 11,
      14])
  | .acqCalibrate .. =>
    some ([.now, .regs, .hostMem, .outbox, .hif, .acq, .sch], [4, 10, 11])
  | .pmcCalibrate .. =>
    some ([.now, .regs, .hostMem, .outbox, .hif, .sch, .pmc], [10, 11, 12])
  | .commit .. =>
    some ([.now, .regs, .hostMem, .outbox, .hif, .fe, .sch], [2, 3, 4, 5, 6, 7, 8, 10, 11])
  | .commitLock .. =>
    some ([.now, .regs, .hostMem, .outbox, .hif, .sch], [2, 3, 4, 5, 6, 7, 8, 10, 11])
  | .setLatency .. =>
    some ([.now, .regs, .hostMem, .outbox, .hif, .sch], [1, 10, 11])
  | .recover .. =>
    some ([.now, .regs, .hostMem, .outbox, .hif, .fe, .trk, .sch, .flt], [9, 10, 11, 14])
  | .faultInject .. | .injectionWindowEnd .. =>
    some ([.now, .regs, .hostMem, .outbox, .hif, .sch, .flt], [10, 11, 14])
  | .nvWrite .. =>
    some ([.now, .regs, .hostMem, .outbox, .hif, .sch, .nvs], [10, 11, 17])
  | .nvRead .. =>
    some ([.now, .regs, .hostMem, .outbox, .hif, .sch, .flt], [10, 11, 14, 17])
  | .detach .. | .divert .. | .frameDeliver .. =>
    some ([.now, .regs, .hostMem, .outbox, .hif, .spill, .sch, .mem], [8, 10, 11])
  | .ringStopped .. =>
    some ([.now, .regs, .sch], [10, 11])
  | .cmdDoorbell .. =>
    some ([.now, .gtOff, .regs, .outbox, .freeIdx, .hif, .fe, .acq, .sch, .mem, .pwr], [1, 2, 10, 11, 15])
  | .strDoorbell .. | .cplDoorbell .. =>
    some ([.now, .gtOff, .regs, .hostMem, .outbox, .freeIdx, .hif, .fe, .acq, .sch, .mem, .pwr], [1, 2, 10, 11, 15])
  | .refclkLoss .. | .ppsLoss .. | .syncLoss .. =>
    some ([.now, .regs, .outbox, .hif, .tim, .sch, .flt], [2, 10, 14])
  | .refclkReturn .. =>
    some ([.now, .regs, .tim, .sch], [2, 10])
  | .pllLock .. =>
    some ([.now, .regs, .outbox, .hif, .tim, .sch], [2, 10])
  | .timPllFail .. | .fltSelftest .. | .polWdt .. | .appWdt .. =>
    some ([.now, .regs, .outbox, .hif, .sch, .flt], [10, 14])
  | .pwrUvRail .. =>
    some ([.now, .regs, .outbox, .hif, .sch, .flt, .pwr], [10, 14])
  | .holdExpired .. =>
    some ([.now, .regs, .outbox, .hif, .sch, .flt], [2, 10, 14])
  | .ppsInEdge .. | .syncInEdge .. =>
    some ([.now, .gtOff, .regs, .outbox, .hif, .tim, .sch, .pmc], [2, 10])
  | .syncOutPulse .. | .launchOutRise .. =>
    some ([.now, .regs, .tim, .sch], [10])
  | .launchInEdge .. =>
    some ([.now, .regs, .tables, .hostMem, .outbox, .hif, .fe, .acq, .trk, .sch], [2, 3, 4, 5, 6, 7, 8, 9, 10, 11])
  | .launchLate .. =>
    some ([.now, .regs, .outbox, .hif, .fe, .sch], [2, 10])
  | .launch .. =>
    some ([.now, .regs, .tables, .hostMem, .outbox, .hif, .tim, .fe, .acq, .trk, .sch, .pmc, .flt], [2, 3, 4, 5, 6, 7, 8,
      9, 10, 11, 12, 14])
  | .segmentEnd .. | .gateWindowOpen .. | .gateWindowClose .. | .dutyWindowEnd .. =>
    some ([.now, .regs, .outbox, .hif, .fe, .sch, .flt], [3, 10, 14])
  | .armSelftestDone .. =>
    some ([.now, .regs, .hostMem, .outbox, .hif, .fe, .sch, .flt], [3, 10, 11, 14])
  | .armedEntry .. =>
    some ([.now, .regs, .hostMem, .outbox, .hif, .fe, .acq, .sch], [3, 5, 6, 7, 10, 11])
  | .safeNFall .. =>
    some ([.now, .regs, .tables, .hostMem, .outbox, .safeN, .hif, .fe, .acq, .trk, .sch, .flt], [2, 3, 4, 5, 6, 7, 8, 9,
      10, 11, 14])
  | .safeNRise .. =>
    some ([.now, .regs, .safeN, .sch], [10])
  | .acqCalPhaseEnd .. =>
    some ([.now, .regs, .acq, .sch], [4, 10])
  | .acqCalDone .. =>
    some ([.now, .regs, .hostMem, .outbox, .hif, .acq, .sch, .nvs], [4, 10, 11])
  | .bgCalBlockEnd .. | .darkBlockEnd .. =>
    some ([.now, .regs, .outbox, .freeIdx, .hif, .fe, .acq, .sch, .flt], [4, 10, 14])
  | .accumulationEnd .. =>
    some ([.now, .regs, .fe, .sch], [10])
  | .iqBlindBlockEnd .. =>
    some ([.now, .regs, .outbox, .freeIdx, .hif, .fe, .acq, .sch], [4, 10])
  | .acqChFail .. =>
    some ([.now, .regs, .outbox, .hif, .fe, .sch, .flt], [4, 10, 14])
  | .shotProcessed .. =>
    some ([.now, .regs, .outbox, .hif, .fe, .acq, .trk, .sch, .flt, .mem], [4, 5, 6, 7, 8, 9, 10, 14, 15, 16])
  | .acfOutput .. =>
    some ([.now, .regs, .outbox, .hif, .fe, .trk, .sch, .flt, .mem], [6, 8, 9, 10, 14, 15])
  | .ramanShotAccumulate .. =>
    some ([.now, .regs, .outbox, .hif, .fe, .acq, .sch, .flt, .mem], [4, 7, 10, 14])
  | .dtsEndComputation .. =>
    some ([.now, .regs, .outbox, .hif, .fe, .sch, .flt], [7, 10, 14])
  | .energyIntervalEnd .. =>
    some ([.now, .regs, .tables, .hostMem, .outbox, .freeIdx, .hif, .fe, .acq, .trk, .sch, .pmc, .flt, .nvs], [1, 2, 3, 4,
      5, 6, 7, 8, 9, 10, 11, 12, 14, 17])
  | .encoderEdge .. =>
    some ([.now, .regs, .outbox, .hif, .trk, .sch, .pmc, .flt], [9, 10, 12, 14])
  | .cmpPulseEnd .. | .countHistoryRecord .. =>
    some ([.now, .regs, .trk, .sch], [10])
  | .indexPulse .. | .ssiFrameStart .. | .ssiFrameEnd .. | .encTargetUpdate .. =>
    some ([.now, .regs, .outbox, .hif, .trk, .sch], [9, 10])
  | .encoderStall .. | .encStep .. =>
    some ([.now, .regs, .trk, .sch], [9, 10])
  | .msEdge .. =>
    some ([.now, .regs, .outbox, .hif, .fe, .trk, .sch], [9, 10])
  | .frameWorkDone .. =>
    some ([.now, .regs, .outbox, .hif, .spill, .fe, .trk, .sch, .flt], [8, 9, 10, 14])
  | .commitApply .. =>
    some ([.now, .regs, .tables, .hostMem, .outbox, .hif, .fe, .acq, .trk, .sch, .pmc], [2, 3, 4, 5, 6, 7, 8, 9, 10, 11,
      12])
  | .frameRelease .. =>
    some ([.now, .regs, .outbox, .hif, .spill, .sch], [10, 11])
  | .drainFrame .. =>
    some ([.now, .regs, .hostMem, .outbox, .hif, .spill, .sch, .flt, .mem], [10, 11, 14, 15, 16])
  | .coalesceTimeout .. =>
    some ([.now, .regs, .outbox, .hif, .sch], [10])
  | .fetchError .. =>
    some ([.now, .regs, .outbox, .freeIdx, .hif, .sch, .flt], [10, 11, 14])
  | .linkDown .. =>
    some ([.now, .regs, .outbox, .hif, .spill, .sch, .mem], [8, 10, 11])
  | .linkUp .. =>
    some ([.now, .regs, .outbox, .hif, .sch], [10, 11])
  | .pmcTrigger .. | .pmcInjHwTrigger .. =>
    some ([.now, .regs, .outbox, .hif, .sch, .pmc], [10, 12])
  | .pmcResult .. | .pmcInjResult .. =>
    some ([.now, .regs, .outbox, .hif, .sch, .pmc, .wmn], [10, 12])
  | .pmcCalDone .. =>
    some ([.now, .regs, .hostMem, .outbox, .freeIdx, .hif, .sch, .pmc, .nvs], [10, 11, 12])
  | .refFail .. =>
    some ([.now, .regs, .outbox, .hif, .sch, .pmc, .flt], [10, 12, 14])
  | .dieTempUpdate .. =>
    some ([.now, .regs, .outbox, .hif, .sch, .flt, .mem], [10, 12, 14, 15])
  | .weirCrossing .. | .resolved .. | .weirGateOpen .. =>
    some ([.now, .regs, .tables, .hostMem, .outbox, .hif, .fe, .acq, .trk, .sch, .pmc, .wmn, .flt], [2, 3, 4, 5, 6, 7, 8,
      9, 10, 11, 12, 13, 14])
  | .vddA18Return .. =>
    some ([.now, .regs, .tables, .hostMem, .outbox, .hif, .fe, .acq, .trk, .sch, .wmn, .flt], [2, 3, 4, 5, 6, 7, 8, 9, 10,
      11, 13, 14])
  | .weirAutoClear .. =>
    some ([.now, .regs, .outbox, .hif, .sch, .wmn], [10, 13])
  | .weirSettleEnd .. =>
    some ([.now, .regs, .sch], [10])
  | .rbCheck .. | .rbStale .. =>
    some ([.now, .regs, .outbox, .hif, .sch, .wmn, .flt], [10, 13, 14])
  | .faultCapture .. | .wireFault .. =>
    some ([.now, .gtOff, .regs, .tables, .hostMem, .outbox, .freeIdx, .hif, .spill, .fe, .acq, .trk, .sch, .pmc, .flt,
      .mem, .pwr, .nvs], [1, 2, 3, 4, 5, 6, 7, 8, 9, 10, 11, 12, 14, 15])
  | .windowClose .. =>
    some ([.now, .regs, .tables, .hostMem, .outbox, .hif, .fe, .acq, .trk, .sch, .pmc, .flt, .nvs], [1, 2, 3, 4, 5, 6, 7,
      8, 9, 10, 11, 12, 14, 17])
  | .refreshTick .. =>
    some ([.now, .regs, .outbox, .hif, .sch, .flt, .mem], [10, 14, 15])
  | .refreshWindow .. | .mr4Poll .. | .srExit .. | .memInitDone .. | .histDone .. =>
    some ([.now, .regs, .outbox, .hif, .sch, .mem], [10, 15])
  | .srEnter .. =>
    some ([.now, .regs, .outbox, .hif, .sch], [10, 15])
  | .eyeMonitorRound .. =>
    some ([.now, .regs, .outbox, .hif, .sch, .flt], [10, 14, 15])
  | .scrubPass .. =>
    some ([.now, .regs, .outbox, .hif, .fe, .sch, .flt, .mem], [7, 10, 14, 15, 16])
  | .bermInitDone .. =>
    some ([.now, .regs, .sch], [10, 16])
  | .testRunDone .. =>
    some ([.now, .regs, .sch, .mem], [10, 15])
  | .ladderEntry .. =>
    some ([.now, .regs, .outbox, .hif, .tim, .fe, .acq, .sch, .mem, .pwr], [1, 2, 7, 10, 15, 16])
  | .ladderExit .. | .barAccessWake .. =>
    some ([.now, .gtOff, .regs, .outbox, .freeIdx, .hif, .fe, .acq, .sch, .mem, .pwr], [1, 2, 10, 15])
  | .wakeN .. | .rtcAlarm .. | .perstNRelease .. | .pcieReceiverDetected .. =>
    some ([.now, .gtOff, .regs, .outbox, .freeIdx, .hif, .fe, .acq, .sch, .mem, .pwr], [0, 1, 2, 10, 15])
  | .powerSequenceStep .. | .porstNRelease .. =>
    some ([.now, .regs, .tables, .hostMem, .outbox, .safeN, .hif, .fe, .acq, .trk, .sch, .flt, .pwr], [2, 3, 4, 5, 6, 7, 8,
      9, 10, 11, 14])
  | .sourceCleared .. =>
    some ([.now, .regs, .sch, .flt, .pwr], [10])
  | .nvWriteDone .. =>
    some ([.now, .regs, .hostMem, .outbox, .freeIdx, .hif, .sch, .nvs], [10, 11, 17])
  | .appCoresReleased .. =>
    some ([.now, .regs, .hostMem, .outbox, .hif, .sch, .flt, .pwr], [10, 11])
  | _ => none

/-- The registers that taking a source to (1,0) may change: while an injection drives that source it marks the overlap
(R440). -/
def srcRegs (i : Nat) : List Nat := [FLT_STICKY (i / 32), FLT_INJ, FLT_EVENTS]

/-- The registers that a command of few effects may change, beside SCH.EPOCH, which shows the epoch as time passes. None:
its frame is told by `frameOf` only. -/
def regFrameOf : Instr → Option (List Nat)
  | .syncOutPulse .. | .launchOutRise .. | .safeNRise .. | .accumulationEnd .. | .countHistoryRecord .. | .cmpPulseEnd ..
  | .coalesceTimeout .. | .weirSettleEnd .. | .sourceCleared .. =>
    some []
  | .refclkLoss _ => some ([TIM_STATUS, TIM_EVENTS, TIM_ALIGN] ++ srcRegs 16)
  | .refclkReturn _ => some [TIM_STATUS]
  | .pllLock _ => some [TIM_STATUS, TIM_EVENTS]
  | .holdExpired _ => some (TIM_EVENTS :: srcRegs 17)
  | .ppsLoss _ => some ([TIM_STATUS, TIM_EVENTS] ++ srcRegs 18)
  | .syncLoss _ => some ([TIM_STATUS, TIM_EVENTS] ++ srcRegs 19)
  | .launchLate _ n => some [TIM_FE_LATE_CNT n, TIM_EVENTS]
  | .acqCalPhaseEnd .. => some [ACQ_STATUS]
  | .encoderStall _ i => some [TRK_QIN_STATUS i, TRK_QIN_SPEED i]
  | .msEdge .. => some [TRK_EVENTS]
  | .ssiFrameStart _ p _ => some [TRK_SSI_STATUS p, TRK_EVENTS]
  | .ssiFrameEnd _ p .. => some [TRK_SSI_STATUS p, TRK_SSI_DATA p, TRK_EVENTS]
  | .encTargetUpdate _ m => some [TRK_ENC_STATUS m, TRK_EVENTS]
  | .encStep _ m => some [TRK_ENC_COUNT m]
  | .refFail .. => some (PMC_EVENTS :: srcRegs 84)
  | .rbCheck _ m _ => some ([WMN_WM_RB_ERR m, WMN_RB_STATUS, WMN_EVENTS] ++ srcRegs (90 + m))
  | .rbStale .. => some ([WMN_RB_STATUS, WMN_EVENTS] ++ srcRegs 89)
  | .weirAutoClear .. => some [WMN_LATCH, WMN_EVENTS]
  | .timPllFail _ => some (srcRegs 8)
  | .fltSelftest .. => some (srcRegs 5)
  | .polWdt _ => some (srcRegs 4)
  | .appWdt _ => some (srcRegs 23)
  | .pwrUvRail _ rail => some (srcRegs (if rail.core then 9 else 10))
  | .refreshTick _ c => some ([MEM_CH_STATUS c, MEM_CH_REF_CNT c, MEM_EVENTS] ++ srcRegs 80)
  | .refreshWindow _ c | .mr4Poll _ c _ => some [MEM_CH_STATUS c, MEM_CH_REF_CNT c, MEM_STATUS, MEM_EVENTS]
  | .srEnter _ c | .srExit _ c .. => some [MEM_CH_STATUS c, MEM_CH_REF_CNT c, MEM_CH_SR_CNT c, MEM_STATUS, MEM_EVENTS]
  | .eyeMonitorRound .. => some (MEM_EVENTS :: srcRegs 81)
  | .bermInitDone _ => some [BRM_STATUS]
  | .testRunDone .. => some [MEM_TEST_FAIL, MEM_TEST_CTL]
  | _ => none

/-- The register blocks that a write of one register of a block may change: its own, SCH (the epoch shows as time passes),
and those on which the write acts. -/
def writeBlocks (k : Nat) : List Nat :=
  k :: 10 :: (match k with | 3 => [14] | 8 => [9] | 12 => [11] | 13 => [2, 3, 4, 5, 6, 7, 8, 9, 11, 12, 14] | _ => [])

/-- The components of the state that a write of one register of a block may change. -/
def writeComps (k : Nat) : List Comp :=
  [.now, .regs, .outbox, .hif, .sch, .nvs] ++ (match k with
    | 1 => [.pwr]
    | 2 => [.tim, .fe]
    | 3 => [.fe, .flt]
    | 5 | 7 => [.fe]
    | 4 => [.acq]
    | 8 => [.fe, .trk]
    | 9 => [.trk]
    | 11 => [.hostMem]
    | 12 => [.hostMem, .pmc]
    | 13 => [.tables, .hostMem, .fe, .acq, .trk, .pmc, .wmn, .flt]
    | 15 => [.mem]
    | _ => [])

end Sys2Proof.Machine
end

