-- ==== Sys2Proof/WellFormed.lean ====
section
/-! DEFINITION. Well-formed commands: the operands lie within what their row allows. A register action carries the bit that
makes it its row, a descriptor's fields have their widths, and what was read has the size the chapters give. Every meaning is
total and is defined on ill-formed commands too. -/

namespace Sys2Proof

open Machine

/-- A descriptor names one of the twenty rings (R317, R330). -/
def Hdr.wf (h : Hdr) : Bool := decide (h.ring < 20)

/-- The opcodes of R328. -/
def knownOpcodes : List Nat :=
  [0, 0x0101, 0x0102, 0x0201, 0x0202, 0x0301, 0x0302, 0x0303, 0x0304, 0x0401, 0x0402, 0x0403, 0x0404, 0x0501, 0x0502,
    0x0601, 0x0602, 0x0603, 0x0604]

/-- A host address and a length as a descriptor carries them. -/
def hostRange (addr len : Nat) : Bool := decide (addr < 2 ^ 64 ∧ len < 2 ^ 32)

/-- A contract record has a 64-byte general part and 96-byte parts, each with its recomputed work (R283, R284). -/
def ImageRead.wf (i : ImageRead) : Bool :=
  i.general.length == 64 && i.parts.all (fun p => p.length == 96) && i.work.length == i.parts.length &&
    i.bankFe.all (fun b => decide (b.2 < 4)) && i.items.all (fun x => decide (x.fe < 4))

/-- A token is read with its first 32 bytes (R484). -/
def TokenRead.wf (k : TokenRead) : Bool := k.bytes.length == 32

/-- An access of 1 to 8 bytes in BAR0, BAR2, or configuration space. -/
def accessOk (off bytes : Nat) : Bool := decide (1 ≤ bytes ∧ bytes ≤ 8 ∧ off + bytes ≤ 0x2000028)

/-- A converter code of w bits (R103). -/
def codeOk (w : Nat) (x : Int) : Bool := decide (-(2 ^ (w - 1) : Int) ≤ x ∧ x < 2 ^ (w - 1))

/-- Memory errors name an existing channel, bank and line. -/
def MemErr.wf : MemErr → Bool
  | .bermSingle b l => decide (b < 64 ∧ l < 16384)
  | .bermDouble b l => decide (b < 64 ∧ l < 16384)
  | .dramSingle c => decide (c < 4)
  | .dramDouble c => decide (c < 4)
  | .linkEcc c => decide (c < 4)
  | .lineWritten b l => decide (b < 64 ∧ l < 16384)

/-- A word written to a register has a bit set. -/
def bit1 (f : FRef) (v : Word) : Bool := f.of v == 1

/-- The EN bit of a ring's CTL register. -/
def ringBit (kind : RingKind) (k : Nat) (v : Word) (x : Nat) : Bool := ringOk kind k && (ringEn kind k).of v == x

/-- Is a command well formed? -/
def Instr.wf : Instr → Bool
  | .nop h op => h.wf && decide (op < 65536) && (op == 0 || !knownOpcodes.contains op)
  | .arm h fe => h.wf && decide (fe < 256)
  | .disarm h fe => h.wf && decide (fe < 256)
  | .acqCalibrate h mask _ _ => h.wf && decide (mask < 2 ^ 32)
  | .pmcCalibrate h mask _ _ => h.wf && decide (mask < 256)
  | .loadSchedule h addr len img => h.wf && hostRange addr len && img.all ImageRead.wf
  | .unloadSchedule h slot => h.wf && decide (slot < 256)
  | .commit h addr len l => h.wf && hostRange addr len && l.all (fun b => b.length == len)
  | .commitCancel h _ => h.wf
  | .setMode h mode addr tok => h.wf && decide (mode < 256) && hostRange addr 0 && tok.all TokenRead.wf
  | .setLatency h _ => h.wf
  | .recover h mask => h.wf && decide (mask < 2 ^ 32)
  | .faultInject h src kind dur => h.wf && decide (src < 256 ∧ kind < 256 ∧ dur < 2 ^ 32)
  | .nvWrite h addr off len data => h.wf && hostRange addr len && decide (off < 2 ^ 32) && data.all (fun b => b.length == len)
  | .nvRead h addr off len _ _ bad => h.wf && hostRange addr len && decide (off < 2 ^ 32) && bad.all (fun w => decide (8 * w < len))
  | .readReattachLog h addr len => h.wf && hostRange addr len
  | .spillDrain h => h.wf
  | .detach h => h.wf
  | .streamFlush h _ => h.wf
  | .warmReset _ v => bit1 SYS_RESET_WARM v
  | .alignArm _ v => bit1 TIM_ALIGN_ARM v
  | .alignAbort _ v => bit1 TIM_ALIGN_ABORT v
  | .qinLoad _ _ _ => true
  | .clearIds _ k v => bit1 (HIF_CMD_CTL_CLEAR_IDS k) v
  | .pmcSeqStart _ v => bit1 PMC_SEQ_START v
  | .pmcSeqStop _ v => bit1 PMC_SEQ_STOP v
  | .pmcInjStart _ j v => bit1 (PMC_INJ_TRIG_START j) v
  | .pmcCalStart _ v => bit1 PMC_CAL_CTL_START v
  | .weirLatchClear _ v => decide (v.toNat < 65536 ∧ v ≠ 0)
  | .memInit _ v => bit1 MEM_CTL_INIT v
  | .memTestStart _ v => bit1 MEM_TEST_CTL_START v
  | .histDump _ v => bit1 MEM_HIST_CTL_DUMP v
  | .epochLoWrite _ _ => true
  | .epochHiWrite _ _ => true
  | .snapshotRead _ off => !(captures off).isEmpty
  | .readClear _ off bytes => accessOk off bytes
  | .qinPosRead _ _ => true
  | .msFifoRead _ => true
  | .syncInDisable _ v => !bit1 TIM_SYNC_CFG_IN_EN v
  | .trackIdWrite _ _ _ => true
  | .cmpValueWrite _ _ _ => true
  | .weirConfigWrite _ _ _ _ => true
  | .pmcDisable _ v => !bit1 PMC_CTL_EN v
  | .ringEnable _ kind k v => ringBit kind k v 1
  | .ringDisable _ kind k v => ringBit kind k v 0
  | .ringStopped _ kind k => ringOk kind k
  | .cmdDoorbell _ _ _ => true
  | .cplDoorbell _ _ _ => true
  | .strDoorbell _ _ _ descs => decide (descs.length ≤ 65535)
  | .registerWrite _ off bytes _ => accessOk off bytes
  | .spiTransaction _ cmd _ data reads => if cmd.toNat.testBit 7 then data.isEmpty else reads == 0
  | .refclkLoss _ => true
  | .refclkReturn _ => true
  | .pllLock _ => true
  | .timPllFail _ => true
  | .holdExpired _ => true
  | .ppsInEdge _ _ => true
  | .ppsLoss _ => true
  | .syncInEdge _ _ => true
  | .syncLoss _ => true
  | .syncOutPulse _ => true
  | .launchInEdge _ => true
  | .launchLate _ _ => true
  | .launch _ _ => true
  | .segmentEnd _ _ => true
  | .gateWindowOpen _ _ _ => true
  | .gateWindowClose _ _ _ => true
  | .envExceed _ _ => true
  | .dutyWindowEnd _ _ => true
  | .armSelftestDone _ _ _ => true
  | .armedEntry _ _ => true
  | .disarmTakeEffect _ _ => true
  | .safeNFall _ => true
  | .safeNRise _ => true
  | .acqCalPhaseEnd _ _ => true
  | .acqCalDone _ r => r.chans.all (fun c => decide (c.1 < 24) && c.2.words.length == 16) && r.pairs.all (fun p => decide (p.1 < 8))
  | .bgCalBlockEnd _ _ raw => raw.all (codeOk 14)
  | .iqBlindBlockEnd _ _ _ _ _ => true
  | .darkBlockEnd _ _ raw => raw.all (codeOk 16)
  | .acqChFail t _ since => decide (since ≤ t)
  | .shotProcessed _ _ _ errs => errs.all MemErr.wf
  | .acfOutput _ _ => true
  | .ramanShotAccumulate _ _ stokes anti => stokes.length == anti.length
  | .accumulationEnd _ _ => true
  | .dtsEndComputation _ _ => true
  | .energyIntervalEnd _ _ => true
  | .encoderEdge _ _ _ _ => true
  | .cmpPulseEnd _ _ => true
  | .indexPulse _ _ _ => true
  | .encoderStall _ _ => true
  | .countHistoryRecord _ _ => true
  | .msEdge t _ _ stamp => decide (stamp ≤ t)
  | .ssiFrameStart _ _ _ => true
  | .ssiFrameEnd _ _ _ _ => true
  | .encTargetUpdate _ _ => true
  | .encStep _ _ => true
  | .frameWorkDone _ _ => true
  | .divert _ _ => true
  | .commitLock _ _ => true
  | .commitApply _ _ => true
  | .frameDeliver _ _ => true
  | .frameRelease _ _ => true
  | .drainFrame _ errs => errs.all MemErr.wf
  | .coalesceTimeout _ _ => true
  | .fetchError _ kind k => ringOk kind k
  | .linkDown _ => true
  | .linkUp _ speed width => decide (speed < 8 ∧ width < 8)
  | .perstNAssert _ => true
  | .pmcTrigger _ _ => true
  | .pmcResult _ _ => true
  | .pmcInjHwTrigger _ _ _ => true
  | .pmcInjResult _ _ => true
  | .pmcCalDone _ r _ => r.all (fun m => decide (m.g < 8))
  | .refFail _ _ => true
  | .dieTempUpdate _ _ => true
  | .weirCrossing _ _ _ => true
  | .weirAutoClear _ _ => true
  | .weirSettleEnd _ _ => true
  | .resolved _ _ _ => true
  | .rbCheck _ _ _ => true
  | .rbStale _ _ _ => true
  | .vddA18Return _ => true
  | .faultCapture _ _ => true
  | .wireFault _ _ => true
  | .windowClose _ => true
  | .injectionWindowEnd _ _ => true
  | .fltSelftest _ _ => true
  | .polWdt _ => true
  | .appWdt _ => true
  | .refreshTick _ _ => true
  | .refreshWindow _ _ => true
  | .mr4Poll _ _ _ => true
  | .srEnter _ _ => true
  | .srExit _ _ _ issued => decide (issued ≤ 8)
  | .eyeMonitorRound _ _ _ => true
  | .scrubPass _ errs => errs.all MemErr.wf
  | .bermInitDone _ => true
  | .memInitDone _ => true
  | .testRunDone _ _ => true
  | .histDone _ => true
  | .ladderEntry _ => true
  | .ladderExit _ => true
  | .barAccessWake _ => true
  | .wakeN _ => true
  | .rtcAlarm _ => true
  | .powerSequenceStep _ _ => true
  | .railFail _ => true
  | .bootStepDone _ info => info.images.all ImageRead.wf && decide (info.target < 8)
  | .porstNAssert _ => true
  | .porstNRelease _ => true
  | .vddAonRise _ => true
  | .vddAonFall _ => true
  | .safeHoldClear _ => true
  | .pwrUvRail _ _ => true
  | .weirGateOpen _ _ => true
  | .sourceCleared _ _ => true
  | .perstNRelease _ => true
  | .pcieReceiverDetected _ => true
  | .nvWriteDone _ _ => true
  | .loadScheduleDone _ => true
  | .completionConfirmed _ _ => true
  | .appCoresReleased _ => true
  | .launchOutRise _ _ => true

end Sys2Proof
end

