-- ==== Sys2Proof/Certificates/Slice0/Obligations.lean ====
section
/-! DEFINITION. The statements for the provers, family by family. Each says that a command answers a next state under
conditions on the state and the operands alone, and what that state holds; or what a command leaves as it was. -/

open Sys2Proof Sys2Proof.Machine

/-! ### The queue and the whole machine -/

/-- A step runs the command at the front of the queue with the queue's rest; on an empty queue it idles (the model's choice,
log 2). -/
def Obligations.StepRunsFrontCommand : Prop :=
  ∀ (s : State) (c : Instr) (rest : List Instr),
    (s.pending = c :: rest → step s = exec c { s with pending := rest }) ∧ (s.pending = [] → step s = .next s)

/-- Every step keeps the canonical form of the register file, the table words and both byte memories. -/
def Obligations.StepKeepsCanonicalForm : Prop :=
  ∀ s t : State, s.wf = true → step s = .next t → t.wf = true

/-- The state after reset has the canonical form. -/
def Obligations.ResetIsCanonical : Prop := State.reset.wf = true ∧ State.reset.pending = []

/-- Every step answers a next state; it takes exactly one command off the queue, and neither the clock, nor the index of the
free values, nor the count of challenges falls. -/
def Obligations.StepAlwaysAnswersAndTakesOne : Prop :=
  ∀ s : State, ∃ t : State, step s = .next t ∧ t.pending = s.pending.tail ∧ s.now ≤ t.now ∧ s.freeIdx ≤ t.freeIdx ∧
    s.pwr.chal ≤ t.pwr.chal

/-- Only SAFE_HOLD_CLEAR ends the Safe-Hold latch (R8): no other command clears it. -/
def Obligations.LatchLeftOnlyByClear : Prop :=
  (∀ (s t : State) (c : Instr) (rest : List Instr), s.pending = c :: rest → (∀ x, c ≠ .safeHoldClear x) →
    step s = .next t → s.latched = true → t.latched = true) ∧
  (∀ (s : State) (x : Nat), (s.at x).pwr.aon = false → ∃ t, exec (.safeHoldClear x) s = .next t ∧ t.latched = false) ∧
  (∀ (s : State) (x : Nat), (s.at x).pwr.aon = true → exec (.safeHoldClear x) s = .next (s.at x))

/-- In SAFE_HOLD a register write by any master, and a doorbell, changes only the clock and what the clock drives (R428); an
access to LNC brings its counts of time up to date. -/
def Obligations.SafeHoldIgnoresWrites : Prop :=
  ∀ (s : State) (b : Bus), (s.at b.t).mode = 7 → (s.at b.t).ladder = 0 →
    (∀ off bytes v, off / 65536 ≠ 3 → exec (.registerWrite b off bytes v) s = .next (s.at b.t)) ∧
    (∀ off bytes v, off / 65536 = 3 → ∃ t, exec (.registerWrite b off bytes v) s = .next t ∧
      (t = s.at b.t ∨ t = (s.at b.t).readSync off)) ∧
    (∀ k v, exec (.cmdDoorbell b k v) s = .next (s.at b.t)) ∧
    (∀ k v, exec (.cplDoorbell b k v) s = .next (s.at b.t)) ∧
    (∀ m v d, exec (.strDoorbell b m v d) s = .next (s.at b.t)) ∧
    (∀ v, exec (.epochLoWrite b v) s = .next (s.at b.t)) ∧
    (∀ v, exec (.warmReset b v) s = .next (s.at b.t))

/-! ### Descriptor rings (R321 to R331) -/

/-- A descriptor that the device may not start now (its ring, the mode, the slots, FENCE: R321, R326, R334, R359) is not
fetched, and no register, window or running command changes; a FENCE descriptor that waits for its ring's commands marks the
ring (R326), and while the mark stands no other descriptor of the ring starts. -/
def Obligations.UnstartableDescriptorWaits : Prop :=
  ∀ (c : Instr) (h : Hdr) (op : Nat) (bad : Option Nat) (s : State), descOf c = some (h, op, bad) →
    ((s.at h.t).canStart h op = false → h.fence = false → exec c s = .next (s.at h.t)) ∧
    ((s.at h.t).canStart h op = false → ∃ t, exec c s = .next t ∧ Only [.now, .regs, .hif, .sch] s t ∧ KeptBut [SCH_EPOCH] s t ∧
      ∀ r, (t.ring r).dup = (s.ring r).dup ∧ (t.ring r).running = (s.ring r).running) ∧
    (h.fence = true → (s.at h.t).ringReady h = true → (s.ring h.ring).fence = none → (s.ring h.ring).running ≠ [] →
      ∃ t, exec c s = .next t ∧ (t.ring h.ring).fence = some h.reqId ∧ (t.ring h.ring).running = (s.ring h.ring).running) ∧
    (∀ id, (s.ring h.ring).fence = some id → id ≠ h.reqId → exec c s = .next (s.at h.t))

/-- A request whose identifier is in its ring's window is not executed again (R331): once answered, its completion is posted
again with STATUS DUPLICATE; while it runs, the duplicate waits for it. That a malformed duplicate is answered so too is the
model's choice (log 21). Windows, running commands and everything but the completion stay. -/
def Obligations.DuplicateIsAnsweredFromTheWindow : Prop :=
  ∀ (c : Instr) (h : Hdr) (op : Nat) (bad : Option Nat) (s : State) (e : DupEnt), descOf c = some (h, op, bad) →
    (s.at h.t).canStart h op = true → (s.fetchedAt h).entry h = some e →
    (e.done = true → ∃ t, exec c s = .next t ∧ t = (s.fetchedAt h).post ((s.fetchedAt h).mkCpl (cmdOf h op) 1 e.result e.value) ∧
      t.hif.rings = (s.fetchedAt h).hif.rings ∧ Only [.now, .regs, .hostMem, .outbox, .hif, .sch] s t) ∧
    (e.done = false → ∃ t, exec c s = .next t ∧ (t.ring h.ring).running = (s.ring h.ring).running ∧
      (t.ring h.ring).dup = (s.ring h.ring).dup.map
        (fun d => if d.id = h.reqId then { d with waiting := d.waiting ++ [cmdOf h op] } else d) ∧
      Only [.now, .regs, .hif, .sch] s t)

/-- A malformed descriptor is rejected with its code (R325) and executes nothing. -/
def Obligations.MalformedDescriptorIsRejected : Prop :=
  ∀ (c : Instr) (h : Hdr) (op : Nat) (bad : Option Nat) (s : State) (code : Nat), descOf c = some (h, op, bad) →
    (s.at h.t).canStart h op = true → (s.fetchedAt h).entry h = none → (s.fetchedAt h).rejectCode h op bad = some code →
    ∃ t, exec c s = .next t ∧ t = (s.fetchedAt h).post ((s.fetchedAt h).mkCpl (cmdOf h op) 2 code 0) ∧
      t.hif.rings = (s.fetchedAt h).hif.rings ∧ Only [.now, .regs, .hostMem, .outbox, .hif, .sch] s t

/-- NOP, SET_LATENCY, READ_REATTACH_LOG, DETACH, STREAM_FLUSH and SPILL_DRAIN complete where they start, with these results;
in HOLD SPILL_DRAIN attaches the device again (R356), and out of it completes with 1. READ_REATTACH_LOG with room writes the
log (R358); DETACH of a host's ring waits for its completion's confirmation, of the device's own detaches at once (R353). -/
def Obligations.ImmediateCommandsComplete : Prop :=
  ∀ (s : State) (h : Hdr),
    (s.starts h 0 none → ∃ t, exec (.nop h 0) s = .next t ∧ t.answered h 0 0) ∧
    (∀ ns : BitVec 64, s.starts h 0x0402 none → ∃ t, exec (.setLatency h ns) s = .next t ∧
      t.get2 PWR_LAT_TOL_LO_NS PWR_LAT_TOL_HI_NS = ns.toNat ∧ t.answered h 0 (tolDepth ns.toNat)) ∧
    (∀ addr len, addr % 64 = 0 → 9280 ≤ len → s.starts h 0x0601 none → ∃ t, exec (.readReattachLog h addr len) s = .next t ∧
      t.answered h 0 9280 ∧ t = ((s.begun h 0x0601).dmaWrite addr (s.begun h 0x0601).logBytes).complete (cmdOf h 0x0601) 0 9280) ∧
    (∀ addr len, addr % 64 = 0 → len < 9280 → s.starts h 0x0601 none → ∃ t, exec (.readReattachLog h addr len) s = .next t ∧
      t.answered h 1 0) ∧
    (s.starts h 0x0603 none → h.ring < 16 → ∃ t, exec (.detach h) s = .next t ∧ t.answered h 0 0 ∧
      t.hif.detachCmd = s.hif.detachCmd ++ [cmdOf h 0x0603]) ∧
    (s.starts h 0x0603 none → 16 ≤ h.ring → ∃ t, exec (.detach h) s = .next t ∧ t.answered h 0 0 ∧ t.attach = 1) ∧
    (∀ mask : BitVec 32, s.starts h 0x0604 none → ∃ t, exec (.streamFlush h mask) s = .next t ∧ t.answered h 0 0 ∧
      ∀ m < 32, mask.toNat.testBit m = true → s.get (HIF_STR_CTL_STATE m) = 1 ∨ s.get (HIF_STR_CTL_STATE m) = 2 →
        ∀ b, (t.strRing m).buf = some b → b.used = 0) ∧
    (s.starts h 0x0602 none → s.attach = 2 → ∃ t, exec (.spillDrain h) s = .next t ∧ t.attach = 0 ∧ t.hif.log = [] ∧
      t.answered h 0 0) ∧
    (s.starts h 0x0602 none → s.attach ≠ 2 → ∃ t, exec (.spillDrain h) s = .next t ∧ t.attach = s.attach ∧ t.answered h 1 0)

/-- ARM of an engine that passes every check of R78 makes it ARMING and runs until the self-test (R79); otherwise it
completes with the lowest failing code, which ARM_RESULT shows with ARM_FAIL. DISARM of a SAFE or a TRIPPED engine completes
at once, and the engine is SAFE, as is an ARMING one; of an ARMED one it waits for its instant, or joins the disarm that is
pending (R82, R87). -/
def Obligations.ArmAndDisarmActOrComplete : Prop :=
  ∀ (s : State) (h : Hdr) (fe : Nat), fe ≤ 3 →
    (s.starts h 0x0101 none → ((s.begun h 0x0101).armCode fe).1 = 0 → ∃ t, exec (.arm h fe) s = .next t ∧ t.lstate fe = 1 ∧
      ∃ a, (t.f fe).arm = some a ∧ a.cmd = cmdOf h 0x0101) ∧
    (s.starts h 0x0101 none → ((s.begun h 0x0101).armCode fe).1 ≠ 0 → ∃ t, exec (.arm h fe) s = .next t ∧
      t.get (LNC_ARM_RESULT_CODE fe) = ((s.begun h 0x0101).armCode fe).1 ∧ t.get (LNC_EVENTS_ARM_FAIL fe) = 1 ∧
      t.lstate fe = (s.begun h 0x0101).lstate fe ∧ t.answered h ((s.begun h 0x0101).armCode fe).1 0) ∧
    (s.starts h 0x0102 none → s.lstate fe = 0 → ∃ t, exec (.disarm h fe) s = .next t ∧ t.lstate fe = 0 ∧ t.answered h 0 0) ∧
    (s.starts h 0x0102 none → s.lstate fe = 1 → ∃ t, exec (.disarm h fe) s = .next t ∧ t.lstate fe = 0 ∧
      t.get (LNC_EVENTS_DISARMED fe) = 1) ∧
    (s.starts h 0x0102 none → s.lstate fe = 3 → ∃ t, exec (.disarm h fe) s = .next t ∧ t.lstate fe = 0 ∧
      t.get (LNC_EVENTS_DISARMED fe) = 1 ∧ t.answered h 0 0) ∧
    (∀ d, s.starts h 0x0102 none → s.lstate fe = 2 → (s.f fe).disarm = some d → ∃ t, exec (.disarm h fe) s = .next t ∧
      (t.f fe).disarm = some ⟨d.cmds ++ [cmdOf h 0x0102], d.due⟩ ∧ t.lstate fe = 2) ∧
    (s.starts h 0x0102 none → s.lstate fe = 2 → (s.f fe).disarm = none → ∃ t, exec (.disarm h fe) s = .next t ∧
      ((t.lstate fe = 0 ∧ t.get (LNC_EVENTS_DISARMED fe) = 1 ∧ t.answered h 0 0) ∨
        (t.lstate fe = 2 ∧ (t.f fe).disarm = some ⟨[cmdOf h 0x0102], (s.begun h 0x0102).disarmAt fe⟩)))

/-- ACQ_CALIBRATE starts where no calibration runs and no engine of its channels is arming or armed, and is refused with
code 3 or 4 otherwise (R112, R113); PMC_CALIBRATE starts with the converter on and no calibration running, and is refused
with codes 2 and 3 otherwise (R379). -/
def Obligations.CalibrationsStartOrAreRefused : Prop :=
  ∀ (s : State) (h : Hdr) (mask : Nat) (nv saveOnly : Bool),
    (mask < 2 ^ 24 → s.starts h 0x0201 none → s.acq.cal = none → (∀ ch ∈ chansOf mask, s.busyFe (chanFe ch) = false) →
      ∃ t, exec (.acqCalibrate h mask nv saveOnly) s = .next t ∧ t.get ACQ_STATUS_CAL_BUSY = 1 ∧ t.runs (cmdOf h 0x0201) ∧
        (t.reg ACQ_CAL_FAIL) = 0 ∧ ∃ k, t.acq.cal = some k ∧ k.cmd = cmdOf h 0x0201 ∧ k.mask = mask ∧ k.nv = nv ∧
          k.saveOnly = saveOnly ∧ k.start = t.now) ∧
    (mask < 2 ^ 24 → s.starts h 0x0201 none → s.acq.cal.isSome = true →
      ∃ t, exec (.acqCalibrate h mask nv saveOnly) s = .next t ∧ t.get ACQ_CAL_RESULT_CODE = 3 ∧ t.acq = s.acq ∧ t.answered h 3 0) ∧
    (mask < 2 ^ 24 → s.starts h 0x0201 none → s.acq.cal = none → (∃ ch ∈ chansOf mask, s.busyFe (chanFe ch) = true) →
      ∃ t, exec (.acqCalibrate h mask nv saveOnly) s = .next t ∧ t.get ACQ_CAL_RESULT_CODE = 4 ∧ t.acq = s.acq ∧ t.answered h 4 0) ∧
    (mask < 256 → (mask = 0 → saveOnly = true) → s.starts h 0x0202 none → (s.begun h 0x0202).pmcOn = true → s.pmc.cal = none →
      ∃ t, exec (.pmcCalibrate h mask nv saveOnly) s = .next t ∧ t.runs (cmdOf h 0x0202) ∧
        ∃ k, t.pmc.cal = some k ∧ k.cmd = some (cmdOf h 0x0202) ∧ k.mask = mask ∧ k.nv = nv ∧ k.saveOnly = saveOnly) ∧
    (mask < 256 → (mask = 0 → saveOnly = true) → s.starts h 0x0202 none → (s.begun h 0x0202).pmcOn = false →
      ∃ t, exec (.pmcCalibrate h mask nv saveOnly) s = .next t ∧ t.get PMC_CAL_RESULT_CODE = 2 ∧ t.pmc = s.pmc ∧ t.answered h 2 0) ∧
    (mask < 256 → (mask = 0 → saveOnly = true) → s.starts h 0x0202 none → (s.begun h 0x0202).pmcOn = true → s.pmc.cal.isSome = true →
      ∃ t, exec (.pmcCalibrate h mask nv saveOnly) s = .next t ∧ t.get PMC_CAL_RESULT_CODE = 3 ∧ t.pmc = s.pmc ∧ t.answered h 3 0)

/-- LOAD_SCHEDULE and UNLOAD_SCHEDULE start where no other load or unload runs, and complete with code 2 otherwise (R285,
R291). -/
def Obligations.ScheduleCommandsStart : Prop :=
  ∀ (s : State) (h : Hdr),
    (∀ addr len img, addr % 64 = 0 → s.starts h 0x0301 none → s.sch.loading = none →
      ∃ t, exec (.loadSchedule h addr len img) s = .next t ∧ t.runs (cmdOf h 0x0301) ∧ t.sch.img = s.sch.img ∧
        ∃ l, t.sch.loading = some l ∧ l.cmd = cmdOf h 0x0301 ∧ l.load = true) ∧
    (∀ addr len img, addr % 64 = 0 → s.starts h 0x0301 none → s.sch.loading.isSome = true →
      ∃ t, exec (.loadSchedule h addr len img) s = .next t ∧ t.sch.loading = s.sch.loading ∧ t.get SCH_LOAD_RESULT_CODE = 2 ∧
        t.get SCH_EVENTS_LOAD_FAIL = 1 ∧ t.answered h 2 0) ∧
    (∀ slot ≤ 3, s.starts h 0x0302 none → s.sch.loading = none → ∃ t, exec (.unloadSchedule h slot) s = .next t ∧
      t.runs (cmdOf h 0x0302) ∧ t.sch.img = s.sch.img ∧
        ∃ l, t.sch.loading = some l ∧ l.cmd = cmdOf h 0x0302 ∧ l.load = false ∧ l.slot = slot) ∧
    (∀ slot ≤ 3, s.starts h 0x0302 none → s.sch.loading.isSome = true → ∃ t, exec (.unloadSchedule h slot) s = .next t ∧
      t.sch.loading = s.sch.loading ∧ t.get SCH_LOAD_RESULT_CODE = 2 ∧ t.answered h 2 0)

/-- COMMIT stages a list that passes the checks of R306 in a free slot, and completes with that slot; otherwise it completes
with the first failing code and stages nothing. COMMIT_CANCEL withdraws a staged group of its own ring that is not locked,
and completes with result 10; with no such group it completes with 14 (R309). That a group of another ring counts as none
is the model's choice (log 49). -/
def Obligations.CommitStagesAndCancelWithdraws : Prop :=
  (∀ (s : State) (h : Hdr) (addr len : Nat) (list : Option (List Byte)), addr % 64 = 0 → s.starts h 0x0303 none →
    (let b := s.begun h 0x0303
     let a := b.ahead b.sch.staged
     let p := list.bind (commitParse len)
     (∀ l slot, b.commitPre a p = 0 → p = some l → b.freeGroup = some slot → (b.groupCode (b.groupOf a (cmdOf h 0x0303) l)).1 = 0 →
       b.lateOk a l (b.groupOf a (cmdOf h 0x0303) l).tb = true → ∃ t, exec (.commit h addr len list) s = .next t ∧
       t.group slot = some (b.groupOf a (cmdOf h 0x0303) l) ∧ t.get SCH_EVENTS_CMT_STAGED = 1 ∧ t.answered h 0 slot) ∧
     (b.commitPre a p ≠ 0 → ∃ t, exec (.commit h addr len list) s = .next t ∧ t.answered h (b.commitPre a p) 0 ∧ t.sch = b.sch) ∧
     (∀ l slot, b.commitPre a p = 0 → p = some l → b.freeGroup = some slot → (b.groupCode (b.groupOf a (cmdOf h 0x0303) l)).1 ≠ 0 →
       ∃ t, exec (.commit h addr len list) s = .next t ∧
        t.answered h (b.groupCode (b.groupOf a (cmdOf h 0x0303) l)).1 0 ∧ t.sch = b.sch) ∧
     (∀ l slot, b.commitPre a p = 0 → p = some l → b.freeGroup = some slot → (b.groupCode (b.groupOf a (cmdOf h 0x0303) l)).1 = 0 →
       b.lateOk a l (b.groupOf a (cmdOf h 0x0303) l).tb = false → ∃ t, exec (.commit h addr len list) s = .next t ∧
       t.answered h 2 0 ∧ t.sch = b.sch))) ∧
  (∀ (s : State) (h : Hdr) (target : BitVec 32), s.starts h 0x0304 none →
    (let b := s.begun h 0x0304
     let p := fun (x : Nat × Group) => x.2.cmd.ring == h.ring && x.2.cmd.reqId == target && !x.2.locked
     (∀ x, b.groupList.find? p = some x → ∃ t, exec (.commitCancel h target) s = .next t ∧ t.group x.1 = none ∧
       t.get SCH_CMT_LAST_CODE = 10 ∧ t.answered h 10 0) ∧
     (b.groupList.find? p = none → ∃ t, exec (.commitCancel h target) s = .next t ∧ t.sch = b.sch ∧ t.answered h 14 0)))

/-- RECOVER ends the containment of the scopes where none of the reasons of R438 stands, and completes with its mask, with
scope APP once the cores are released (R439); otherwise it completes with the first code that applies. FAULT_INJECT in TEST,
of an injectable source and with none running, drives the source for its duration; otherwise it completes with code 1, 2 or
3 (R440). -/
def Obligations.RecoverAndFaultInjectAct : Prop :=
  (∀ (s : State) (h : Hdr) (mask : Nat), 1 ≤ mask → mask < 256 → s.starts h 0x0403 none →
    ((s.begun h 0x0403).recoverCode mask = 0 → mask.testBit 4 = false → ∃ t, exec (.recover h mask) s = .next t ∧
      t.get FLT_EVENTS_RECOVERED = 1 ∧ (∀ k < 8, mask.testBit k = true → t.contained k = false) ∧ t.answered h 0 mask) ∧
    ((s.begun h 0x0403).recoverCode mask = 0 → mask.testBit 4 = true → ∃ t, exec (.recover h mask) s = .next t ∧
      t.get FLT_EVENTS_RECOVERED = 1 ∧ (∀ k < 8, mask.testBit k = true → t.contained k = false) ∧ t.runs (cmdOf h 0x0403) ∧
      t.flt.recover = some (cmdOf h 0x0403, mask)) ∧
    ((s.begun h 0x0403).recoverCode mask ≠ 0 → ∃ t, exec (.recover h mask) s = .next t ∧
      t.answered h ((s.begun h 0x0403).recoverCode mask) 0 ∧ t.get FLT_STATUS_CONTAINED = (s.begun h 0x0403).get FLT_STATUS_CONTAINED)) ∧
  (∀ (s : State) (h : Hdr) (src kind dur : Nat), injectParams src kind dur = true → s.starts h 0x0404 none →
    (let b := s.begun h 0x0404
     (b.mode = 5 → srcInjectable src = true → b.flt.inj = none → ∃ t, exec (.faultInject h src kind dur) s = .next t ∧
       t.get FLT_INJ_ACTIVE = 1 ∧ t.get FLT_INJ_SOURCE = src ∧ t.runs (cmdOf h 0x0404) ∧
       ∃ j, t.flt.inj = some j ∧ j.cmd = cmdOf h 0x0404 ∧ j.src = src ∧ j.dur = dur) ∧
     (b.mode ≠ 5 → ∃ t, exec (.faultInject h src kind dur) s = .next t ∧ t.answered h 1 0 ∧ t.flt = b.flt) ∧
     (b.mode = 5 → srcInjectable src = false → ∃ t, exec (.faultInject h src kind dur) s = .next t ∧ t.answered h 2 0 ∧ t.flt = b.flt) ∧
     (b.mode = 5 → srcInjectable src = true → b.flt.inj.isSome = true → ∃ t, exec (.faultInject h src kind dur) s = .next t ∧
       t.answered h 3 0 ∧ t.flt = b.flt)))

/-- NV_WRITE of writable bytes starts where no other write runs; outside a region, or in a protected one, it completes with
code 1 or 2 (R514). Its end, after 2 ms per KiB: verified, the bytes are in the store, with code 0 and WR_DONE; failed, code
4 and VERIFY_FAIL (R515). NV_READ completes with the length read, with code 6 where a word was bad and 3 where the DMA
failed. Which code comes first where several apply is the model's choice (log 62). -/
def Obligations.NvCommandsAnswer : Prop :=
  (∀ (s : State) (h : Hdr) (addr off len : Nat) (data : Option (List Byte)), addr % 64 = 0 → len % 8 = 0 → len ≤ 262144 →
    s.starts h 0x0501 none →
    (let b := s.begun h 0x0501
     (∀ r d, off % 8 = 0 → nvRegion off len = some r → (b.get NVS_WP_WP).testBit r = true → data = some d → b.nvs.wr = none →
       ∃ t, exec (.nvWrite h addr off len data) s = .next t ∧ t.nvs.wr = some ⟨cmdOf h 0x0501, off, d.take len, b.now⟩ ∧
         t.runs (cmdOf h 0x0501)) ∧
     (nvRegion off len = none ∨ off % 8 ≠ 0 → ∃ t, exec (.nvWrite h addr off len data) s = .next t ∧ t.get NVS_LAST_CODE = 1 ∧
       t.nvs = b.nvs ∧ t.answered h 1 0) ∧
     (∀ r, off % 8 = 0 → nvRegion off len = some r → (b.get NVS_WP_WP).testBit r = false →
       ∃ t, exec (.nvWrite h addr off len data) s = .next t ∧ t.get NVS_LAST_CODE = 2 ∧ t.get NVS_EVENTS_PROT = 1 ∧ t.nvs = b.nvs ∧
         t.answered h 2 0) ∧
     (∀ r, off % 8 = 0 → nvRegion off len = some r → (b.get NVS_WP_WP).testBit r = true → data = none →
       ∃ t, exec (.nvWrite h addr off len data) s = .next t ∧ t.get NVS_LAST_CODE = 3 ∧ t.nvs = b.nvs ∧ t.answered h 3 0) ∧
     (∀ r d, off % 8 = 0 → nvRegion off len = some r → (b.get NVS_WP_WP).testBit r = true → data = some d → b.nvs.wr.isSome = true →
       ∃ t, exec (.nvWrite h addr off len data) s = .next t ∧ t.get NVS_LAST_CODE = 5 ∧ t.nvs = b.nvs ∧ t.answered h 5 0))) ∧
  (∀ (s : State) (h : Hdr) (addr off len corr : Nat) (bad : Option Nat), addr % 64 = 0 → len % 8 = 0 → len ≤ 262144 →
    s.starts h 0x0502 none →
    (∀ r, off % 8 = 0 → nvRegion off len = some r → bad = none → ∃ t, exec (.nvRead h addr off len true corr bad) s = .next t ∧
      t.get NVS_LAST_CODE = 0 ∧ t.nvs = s.nvs ∧ t.answered h 0 len) ∧
    (∀ r w, off % 8 = 0 → nvRegion off len = some r → bad = some w → ∃ t, exec (.nvRead h addr off len true corr bad) s = .next t ∧
      t.get NVS_LAST_CODE = 6 ∧ t.nvs = s.nvs ∧ t.answered h 6 (min len (8 * w))) ∧
    (∀ r, off % 8 = 0 → nvRegion off len = some r → ∃ t, exec (.nvRead h addr off len false corr bad) s = .next t ∧
      t.get NVS_LAST_CODE = 3 ∧ t.nvs = s.nvs ∧ t.answered h 3 0) ∧
    (∀ ok, nvRegion off len = none ∨ off % 8 ≠ 0 → ∃ t, exec (.nvRead h addr off len ok corr bad) s = .next t ∧
      t.get NVS_LAST_CODE = 1 ∧ t.nvs = s.nvs ∧ t.answered h 1 0)) ∧
  (∀ (s : State) (x : Nat) (w : NvWrite), s.upAt x = true → (s.at x).nvs.wr = some w → w.cmd.ring < 20 →
    ((s.at x).now < w.from_ + 2000000 * w.data.length / 1024 → ∀ ok, exec (.nvWriteDone x ok) s = .next (s.at x)) ∧
    (w.from_ + 2000000 * w.data.length / 1024 ≤ (s.at x).now →
      (∃ t, exec (.nvWriteDone x true) s = .next t ∧ t.nvs.wr = none ∧ t.nvBytes w.off w.data.length = w.data ∧
        t.get NVS_LAST_CODE = 0 ∧ t.get NVS_EVENTS_WR_DONE = 1 ∧ ¬ t.runs w.cmd ∧
        ∀ a, a < w.off ∨ w.off + w.data.length ≤ a → tget 0 t.nvs.bytes a = tget 0 s.nvs.bytes a) ∧
      (∃ t, exec (.nvWriteDone x false) s = .next t ∧ t.nvs.wr = none ∧ t.get NVS_LAST_CODE = 4 ∧ t.get NVS_EVENTS_VERIFY_FAIL = 1 ∧
        ¬ t.runs w.cmd)))

/-- SET_MODE to an allowed mode, with a valid token where it needs one, enters the mode (R483, R484); to the present mode it
completes with it; a transition that R482 does not allow completes with code 1, one that needs a token and has none or a
false one with code 2, one while the SENTINEL exit group waits with code 3, one whose token cannot be read with code 4, and
none of these changes the mode. -/
def Obligations.SetModeEntersTheMode : Prop :=
  ∀ (s : State) (h : Hdr) (m addr : Nat) (tok : Option TokenRead), addr % 64 = 0 → m ≤ 7 → s.starts h 0x0401 none →
    (let b := s.begun h 0x0401
     (m ≠ b.mode → b.changing = false → modeLegal b.mode m = true → b.needsToken m = false →
       ∃ t, exec (.setMode h m addr tok) s = .next t ∧ (m ≠ 0 ∨ h.ring < 16 → t.answered h 0 m) ∧ t.mode = m) ∧
     (∀ k, m ≠ b.mode → b.changing = false → modeLegal b.mode m = true → b.needsToken m = true → addr ≠ 0 → tok = some k →
       b.tokenOk k = true → ∃ t, exec (.setMode h m addr tok) s = .next t ∧ t.mode = m ∧ t.on PWR_MODE_KEY_OK = true ∧
         t.answered h 0 m) ∧
     (m = b.mode → ∃ t, exec (.setMode h m addr tok) s = .next t ∧ t.mode = b.mode ∧ t.answered h 0 b.mode) ∧
     (m ≠ b.mode → b.changing = false → modeLegal b.mode m = false → ∃ t, exec (.setMode h m addr tok) s = .next t ∧
       t.mode = b.mode ∧ t.answered h 1 b.mode) ∧
     (m ≠ b.mode → b.changing = true → ∃ t, exec (.setMode h m addr tok) s = .next t ∧ t.mode = b.mode ∧ t.answered h 3 b.mode) ∧
     (m ≠ b.mode → b.changing = false → modeLegal b.mode m = true → b.needsToken m = true → addr = 0 →
       ∃ t, exec (.setMode h m addr tok) s = .next t ∧ t.mode = b.mode ∧ t.answered h 2 b.mode) ∧
     (m ≠ b.mode → b.changing = false → modeLegal b.mode m = true → b.needsToken m = true → addr ≠ 0 → tok = none →
       ∃ t, exec (.setMode h m addr tok) s = .next t ∧ t.mode = b.mode ∧ t.answered h 4 b.mode) ∧
     (∀ k, m ≠ b.mode → b.changing = false → modeLegal b.mode m = true → b.needsToken m = true → addr ≠ 0 → tok = some k →
       b.tokenOk k = false → ∃ t, exec (.setMode h m addr tok) s = .next t ∧ t.mode = b.mode ∧ t.get PWR_EVENTS_KEY_FAIL = 1 ∧
         t.answered h 2 b.mode))

/-! ### Register accesses (R12 to R18, R32, R551) -/

/-- A legal 32-bit write stores the bits of storing fields, clears the W1C bits written 1 that are not set in the same
cycle, and leaves every other bit and every other register (R12, R13, R15, R16; a cycle is one ns, log 67); of the blocks
whose registers change no other register: all but TIM, TRK, HIF, PMC, WMN and MEM, which have statements of their own; a
write of EVT on an engine that is not armed may restart its detection, which EVT.STATUS and TRK show (R257, R275). An RWP
register outside WMN takes the Polder's write in the restore of BOOT and, with the key, in COMMISSION (log 32). -/
def Obligations.LegalWriteStores : Prop :=
  (∀ (s : State) (b : Bus) (off : Nat) (v : Word), off % 4 = 0 → off ≠ SYS_RESET →
    off / 65536 ∈ [0, 1, 3, 4, 5, 6, 7, 8, 10, 14, 16, 17] → s.takes b off v →
    ∃ t, exec (.registerWrite b off 4 (v.setWidth 64)) s = .next t ∧
      (∀ i < 32, (t.reg off).getLsbD i =
        if fieldBit off accStores i then v.getLsbD i
        else ((s.seenAt b off).reg off).getLsbD i &&
          !(fieldBit off (fun a => a == .w1c) i && v.getLsbD i && !((s.seenAt b off).freshBits off).testBit i)) ∧
      (∀ o, o ≠ off → (off / 65536 = 8 → (s.seenAt b off).busyFe (off % 65536 / 16384) = true ∨
          (o ≠ EVT_STATUS (off % 65536 / 16384) ∧ o / 65536 ≠ 9)) → t.reg o = (s.seenAt b off).reg o) ∧
      Only (writeComps (off / 65536)) s t) ∧
  (∀ (s : State) (b : Bus) (off : Nat) (v : Word), off % 4 = 0 → off < 0x400000 → off / 65536 ≠ 13 → s.reaches b →
    hasAcc off (fun a => a == .rwp) = true → b.m = .polder → (s.seenAt b off).weirOpen = true →
    (off / 65536 = 3 → (s.seenAt b off).busyFe (off % 65536 / 16384) = false) → wordOkP (s.seenAt b off).regs off v = true →
    ∃ t, exec (.registerWrite b off 4 (v.setWidth 64)) s = .next t ∧
      t.reg off = tget (resetOf off) (rwriteP (s.seenAt b off).regs off v) off ∧
      ∀ o, o ≠ off → t.reg o = (s.seenAt b off).reg o)

/-- A write of a reserved or unlisted value, one that breaks a condition between fields, and one that a lock refuses change
no register but the CFG_ERR bit of the block, which they set (R18); a write of another size or alignment changes nothing
(R12), and so does a write of a read-only RWP register by a master other than the Polder. An access to LNC brings its counts
of time up to date. -/
def Obligations.IllegalWriteIsRefused : Prop :=
  ∀ (s : State) (b : Bus) (off : Nat) (v : Word), off < 0x400000 → off ≠ SYS_RESET → s.reaches b →
    (off % 4 = 0 → hasAcc off (fun a => a == .rwp) = false → (regAt off).isSome = true → (s.seenAt b off).writable off v = false →
      ∃ t, exec (.registerWrite b off 4 (v.setWidth 64)) s = .next t ∧ t.get (cfgErrOf off) = 1 ∧
        (∀ o, o ≠ (cfgErrOf off).off → t.reg o = (s.seenAt b off).reg o) ∧
        Only ([.now, .regs, .outbox, .hif, .sch] ++ if off / 65536 = 3 then [.fe, .flt] else []) s t) ∧
    (∀ bytes x, off % 4 ≠ 0 ∨ (bytes ≠ 4 ∧ bytes ≠ 8) → exec (.registerWrite b off bytes x) s = .next (s.at b.t)) ∧
    (off % 4 = 0 → hasAcc off (fun a => a == .rwp) = true → b.m ≠ .polder →
      exec (.registerWrite b off 4 (v.setWidth 64)) s = .next (s.seenAt b off))

/-- Reads: a read clears the RC fields of its register and no other bit (R17); it captures the registers paired with its own
for its master, which reads them so until its next capture (R32, R551); a read of POS clears the live bits of its input
(R265), and a read of MS_FIFO takes its oldest entry (R271). JTAG reads under boundary scan clear and take nothing. A read
of n bytes at any offset within a word returns those bytes of the word (R12). -/
def Obligations.ReadsClearAndCapture : Prop :=
  ∀ (s : State) (b : Bus), s.reaches b →
    (∀ off, off % 4 = 0 → off / 65536 ∉ [3, 9] → b.m ≠ .jtag true → ∃ t, exec (.readClear b off 4) s = .next t ∧
      (∀ i < 32, (t.reg off).getLsbD i = (((s.at b.t).reg off).getLsbD i && !fieldBit off (fun a => a == .rc) i)) ∧
      (∀ o, o ≠ off → t.reg o = (s.at b.t).reg o) ∧ Only [.now, .regs, .snaps, .sch] s t) ∧
    (∀ off, off % 4 = 0 → ∃ t, exec (.snapshotRead b off) s = .next t ∧
      ∀ y ∈ captures off, t.regView b.m y = (s.seenAt b off).live y) ∧
    (∀ off n, off % 4 + n ≤ 4 → 0 < n → s.busData b off n =
      some (((leBytes 4 ((s.seenAt b (off / 4 * 4)).regView b.m (off / 4 * 4)).toNat).drop (off % 4)).take n)) ∧
    (∀ i : Fin 2, ∃ t, exec (.qinPosRead b i) s = .next t ∧ (t.qin i).up = false ∧ (t.qin i).dn = false ∧ (t.qin i).reach = false ∧
      t.get (TRK_QIN_POS_POS i) = (s.at b.t).get (TRK_QIN_POS_POS i) ∧
      t.regView b.m (TRK_QIN_POS_SNAP i) = BitVec.ofNat 32 (s.qinSnap i)) ∧
    (∃ t, exec (.msFifoRead b) s = .next t ∧ t.trk.fifo = (if b.m = .jtag true then s.trk.fifo else s.trk.fifo.drop 1) ∧
      t.regView b.m TRK_MS_GT_LO = BitVec.ofNat 32 s.msHead.2)

/-- TIM writes: ARM arms an alignment, and is refused while a fibre engine is arming or armed; ABORT withdraws one and
leaves grid time (R33, R34); EPOCH_LO alone changes no epoch, EPOCH_HI takes both halves and makes every anchor (0, epoch),
and both are ignored with CFG_ERR while an engine is arming or armed (R35); IN_EN = 0 ends SYNC_PRESENT (R50). -/
def Obligations.TimeWritesAct : Prop :=
  ∀ (s : State) (b : Bus) (v : Word),
    (s.takes b TIM_ALIGN v → TIM_ALIGN_ARM.of v = 1 → TIM_ALIGN_ABORT.of v = 0 → (s.at b.t).anyBusy = false →
      ∃ t, exec (.alignArm b v) s = .next t ∧ t.get TIM_ALIGN_ARM = 1 ∧ t.get TIM_STATUS_ALIGN_PENDING = 1 ∧
        t.get TIM_ALIGN_SRC = TIM_ALIGN_SRC.of v) ∧
    (s.takes b TIM_ALIGN v → TIM_ALIGN_ARM.of v = 1 → TIM_ALIGN_ABORT.of v = 0 → (s.at b.t).anyBusy = true →
      ∃ t, exec (.alignArm b v) s = .next t ∧ t.get TIM_EVENTS_CFG_ERR = 1 ∧ t.get TIM_ALIGN_ARM = (s.at b.t).get TIM_ALIGN_ARM) ∧
    (s.takes b TIM_ALIGN v → TIM_ALIGN_ARM.of v = 0 → TIM_ALIGN_ABORT.of v = 1 → (s.at b.t).get TIM_ALIGN_ARM = 1 →
      ∃ t, exec (.alignAbort b v) s = .next t ∧ t.get TIM_ALIGN_ARM = 0 ∧ t.get TIM_STATUS_ALIGN_PENDING = 0 ∧
        t.get TIM_EVENTS_ALIGN_ABORT = 1 ∧ t.gtOff = s.gtOff) ∧
    (s.takes b TIM_EPOCH_LO v → ∃ t, exec (.epochLoWrite b v) s = .next t ∧ t.get TIM_EPOCH_LO_EPOCH = v.toNat ∧ t.tim = s.tim ∧
      t.fe = s.fe) ∧
    (s.takes b TIM_EPOCH_HI v → ∃ t, exec (.epochHiWrite b v) s = .next t ∧
      t.tim.epoch = (s.at b.t).get TIM_EPOCH_LO_EPOCH + 2 ^ 32 * v.toNat ∧ t.get TIM_EPOCH_HI_EPOCH = v.toNat ∧
      ∀ n < 4, (t.f n).anchorS = 0 ∧ (t.f n).anchorT = t.tim.epoch) ∧
    (s.takes b TIM_SYNC_CFG v → TIM_SYNC_CFG_IN_EN.of v = 0 → ∃ t, exec (.syncInDisable b v) s = .next t ∧
      t.get TIM_SYNC_CFG_IN_EN = 0 ∧ t.get TIM_STATUS_SYNC_PRESENT = 0) ∧
    (s.reaches b → (s.at b.t).anyBusy = true →
      (∃ t, exec (.epochLoWrite b v) s = .next t ∧ t.get TIM_EVENTS_CFG_ERR = 1 ∧ t.tim = s.tim ∧ t.fe = s.fe ∧
        t.get TIM_EPOCH_LO_EPOCH = (s.at b.t).get TIM_EPOCH_LO_EPOCH ∧ t.get TIM_EPOCH_HI_EPOCH = (s.at b.t).get TIM_EPOCH_HI_EPOCH) ∧
      (∃ t, exec (.epochHiWrite b v) s = .next t ∧ t.get TIM_EVENTS_CFG_ERR = 1 ∧ t.tim = s.tim ∧ t.fe = s.fe ∧
        t.get TIM_EPOCH_LO_EPOCH = (s.at b.t).get TIM_EPOCH_LO_EPOCH ∧ t.get TIM_EPOCH_HI_EPOCH = (s.at b.t).get TIM_EPOCH_HI_EPOCH))

/-- TRK and MEM writes: LOAD moves POS to the value written and counts the move (R265); VALUE is stored, and of a moving
input it sets BEHIND with the distance where the position has passed it (R269); TRACK_ID is stored and clears SRC_LOST, and
in TRACK mode an emulator whose track exists goes on, one whose track does not holds with SRC_LOST (R275); INIT starts an
initialisation, START a test run, DUMP a dump of the frames of its span (R471, R473, R477). -/
def Obligations.TrackAndMemoryWritesAct : Prop :=
  ∀ (s : State) (b : Bus) (v : Word),
    (∀ i : Fin 2, s.takes b (TRK_QIN_LOAD i) v → ∃ t, exec (.qinLoad b i v) s = .next t ∧ t.get (TRK_QIN_POS_POS i) = v.toNat ∧
      (t.qin i).net = (s.qin i).net + wrap32 ((v.toNat : Int) - (s.at b.t).get (TRK_QIN_POS_POS i))) ∧
    (∀ c : Fin 8, s.takes b (TRK_CMP_VALUE c) v → ∃ t, exec (.cmpValueWrite b c v) s = .next t ∧
      t.get (TRK_CMP_VALUE_VALUE c) = v.toNat) ∧
    (∀ c : Fin 8, s.takes b (TRK_CMP_VALUE c) v →
      (let i := c.val / 4
       let d := wrap32 ((v.toNat : Int) - (s.at b.t).get (TRK_QIN_POS_POS i))
       (s.at b.t).on (TRK_QIN_STATUS_MOVING i) = true →
        (if (s.at b.t).on (TRK_QIN_STATUS_DIR i) = true then 0 ≤ d else d ≤ 0) → ∃ t, exec (.cmpValueWrite b c v) s = .next t ∧
        t.get TRK_EVENTS_CMP_BEHIND = 1 ∧ t.get (TRK_CMP_DIST_DIST c) = d.natAbs % 2 ^ 32 ∧
          (t.get TRK_CMP_EVENTS_BEHIND).testBit c = true)) ∧
    (∀ m : Fin 4, s.takes b (TRK_ENC_TRACK_ID m) v → (s.at b.t).get (TRK_ENC_CFG_MODE m) ≠ 1 →
      ∃ t, exec (.trackIdWrite b m v) s = .next t ∧ t.get (TRK_ENC_TRACK_ID_ID m) = (TRK_ENC_TRACK_ID_ID m).of v ∧
        t.get (TRK_ENC_STATUS_SRC_LOST m) = 0) ∧
    (∀ m : Fin 4, s.takes b (TRK_ENC_TRACK_ID m) v → (s.at b.t).get (TRK_ENC_CFG_MODE m) = 1 →
      (∃ k ∈ ((s.f ((s.at b.t).get (TRK_ENC_CFG_FE m))).evt.tracks.filterMap id), k.id = (TRK_ENC_TRACK_ID_ID m).of v) →
      ∃ t, exec (.trackIdWrite b m v) s = .next t ∧ t.get (TRK_ENC_TRACK_ID_ID m) = (TRK_ENC_TRACK_ID_ID m).of v ∧
        t.get (TRK_ENC_STATUS_SRC_LOST m) = 0) ∧
    (∀ m : Fin 4, s.takes b (TRK_ENC_TRACK_ID m) v → (s.at b.t).get (TRK_ENC_CFG_MODE m) = 1 →
      (∀ k ∈ ((s.f ((s.at b.t).get (TRK_ENC_CFG_FE m))).evt.tracks.filterMap id), k.id ≠ (TRK_ENC_TRACK_ID_ID m).of v) →
      ∃ t, exec (.trackIdWrite b m v) s = .next t ∧ t.get (TRK_ENC_TRACK_ID_ID m) = (TRK_ENC_TRACK_ID_ID m).of v ∧
        t.get (TRK_ENC_STATUS_SRC_LOST m) = 1 ∧ t.get (TRK_ENC_STATUS_HOLD m) = 1) ∧
    (s.takes b MEM_CTL v → MEM_CTL_INIT.of v = 1 → ∃ t, exec (.memInit b v) s = .next t ∧ t.mem = { s.mem with initRun := true }) ∧
    (s.takes b MEM_TEST_CTL v → MEM_TEST_CTL_START.of v = 1 → ∃ t, exec (.memTestStart b v) s = .next t ∧
      t.get MEM_TEST_CTL_BUSY = 1 ∧ t.mem = s.mem) ∧
    (s.takes b MEM_HIST_CTL v → MEM_HIST_CTL_DUMP.of v = 1 → ∃ t, exec (.histDump b v) s = .next t ∧
      (let lo := (s.at b.t).get MEM_HIST_FROM_LO_GT + 2 ^ 32 * (s.at b.t).get MEM_HIST_FROM_HI_GT
       ∃ d, t.mem.dump = some d ∧ d.ring = MEM_HIST_CTL_RING.of v ∧
        d.todo = s.mem.hist.filter (fun f => decide (lo ≤ f.gt ∧ f.gt < lo + (s.at b.t).get MEM_HIST_SPAN_MS * 1000000))))

/-- PMC writes: START of a sequence starts a pass on an idle converter, at the first modulator edge with its first enabled
slot, and waits behind a pass that has begun, with TRIG_OVR where one waits (R373 to R375); STOP and EN = 0 abandon (R376),
and that EN = 0 ends a calibration too is the model's choice (log 50); START of an injected conversion starts it on an idle
converter (R377); CAL_CTL.START gives the codes of R379 or starts. -/
def Obligations.PmcWritesAct : Prop :=
  ∀ (s : State) (b : Bus) (v : Word),
    (∀ k rest, s.takes b PMC_SEQ v → PMC_SEQ_START.of v = 1 → PMC_SEQ_STOP.of v = 0 → PMC_SEQ_TRIG.of v = 0 →
      s.pmc.pass = false → s.pmc.conv = none → s.pmc.cal = none → (s.at b.t).pmcOn = true →
      (List.range (PMC_SEQ_LEN.of v)).filter (fun k => cfgEn ((s.at b.t).reg (PMC_SLOT_CFG k))) = k :: rest →
      ∃ t, exec (.pmcSeqStart b v) s = .next t ∧ t.pmc.pass = true ∧ t.pmc.slot = k ∧
        ∃ c, t.pmc.conv = some c ∧ c.slot = k ∧ c.x = edgeUp (s.at b.t).pmcNow * 15625 ∧ c.cfg = (s.at b.t).reg (PMC_SLOT_CFG k)) ∧
    (s.takes b PMC_SEQ v → PMC_SEQ_START.of v = 1 → PMC_SEQ_STOP.of v = 0 → s.pmc.pass = true → s.pmc.trig = 0 →
      s.pmc.begin_ ≤ (s.at b.t).pmcNow → (s.at b.t).pmcOn = true → s.pmc.pend = false → ∃ t, exec (.pmcSeqStart b v) s = .next t ∧
        t.pmc.pend = true ∧ t.pmc.pass = true ∧ t.pmc.slot = s.pmc.slot ∧ t.pmc.conv.isSome = s.pmc.conv.isSome) ∧
    (s.takes b PMC_SEQ v → PMC_SEQ_START.of v = 1 → PMC_SEQ_STOP.of v = 0 → s.pmc.pass = true → s.pmc.trig = 0 →
      s.pmc.begin_ ≤ (s.at b.t).pmcNow → (s.at b.t).pmcOn = true → s.pmc.pend = true → ∃ t, exec (.pmcSeqStart b v) s = .next t ∧
        t.pmc.pend = true ∧ t.pmc.pass = true ∧ t.pmc.slot = s.pmc.slot ∧ t.get PMC_EVENTS_TRIG_OVR = 1) ∧
    (s.takes b PMC_SEQ v → PMC_SEQ_START.of v = 0 → PMC_SEQ_STOP.of v = 1 → ∃ t, exec (.pmcSeqStop b v) s = .next t ∧
      t.pmc.pass = false ∧ t.pmc.pend = false ∧
      (s.pmc.begin_ ≤ (s.at b.t).pmcNow → t.get PMC_PASS_CNT_COUNT = (s.at b.t).get PMC_PASS_CNT_COUNT) ∧
      ∀ c, t.pmc.conv = some c → 64 ≤ c.slot) ∧
    (∀ j : Fin 4, s.takes b (PMC_INJ_TRIG j) v → (PMC_INJ_TRIG_START j).of v = 1 → (s.at b.t).pmcOn = true →
      cfgEn ((s.at b.t).reg (PMC_INJ_CFG j)) = true → s.pmc.conv = none → s.pmc.cal = none → (∀ i < 4, vget 0 s.pmc.wait i = 0) →
      ∃ t, exec (.pmcInjStart b j v) s = .next t ∧ ∃ c, t.pmc.conv = some c ∧ c.slot = 64 + j ∧ c.x = (s.at b.t).pmcNow ∧
        c.cfg = (s.at b.t).reg (PMC_INJ_CFG j)) ∧
    (s.takes b PMC_CAL_CTL v → PMC_CAL_CTL_START.of v = 1 → (s.at b.t).pmcOn = true → (s.at b.t).mode ≠ 0 → s.pmc.cal = none →
      ∃ t, exec (.pmcCalStart b v) s = .next t ∧ ∃ k, t.pmc.cal = some k ∧ k.cmd = none ∧ k.mask = PMC_CAL_CTL_MASK.of v ∧
        k.saveOnly = decide (PMC_CAL_CTL_SAVE_ONLY.of v = 1)) ∧
    (s.takes b PMC_CAL_CTL v → PMC_CAL_CTL_START.of v = 1 → (s.at b.t).pmcOn = false → ∃ t, exec (.pmcCalStart b v) s = .next t ∧
      t.get PMC_CAL_RESULT_CODE = 2 ∧ t.pmc = s.pmc) ∧
    (s.takes b PMC_CAL_CTL v → PMC_CAL_CTL_START.of v = 1 → (s.at b.t).pmcOn = true → (s.at b.t).mode ≠ 0 → s.pmc.cal.isSome = true →
      ∃ t, exec (.pmcCalStart b v) s = .next t ∧ t.get PMC_CAL_RESULT_CODE = 3 ∧ t.pmc = s.pmc) ∧
    (s.takes b PMC_CTL v → PMC_CTL_EN.of v = 0 → ∃ t, exec (.pmcDisable b v) s = .next t ∧ t.pmc.conv = none ∧
      t.pmc.pass = false ∧ t.pmc.pend = false ∧ t.pmc.cal = none ∧ ∀ j < 4, vget 0 t.pmc.wait j = 0)

/-- The management SPI: a command byte or an address that R386 does not allow sets the error bit and changes no register; a
word that R387, R13 or R18 ignores sets the error bit and changes no register but CFG_ERR; a permitted write of one register
is the register write of any master; several words are written in order, each as if it were alone, to one address or with INC
to rising ones, and the error bit tells of any; a read clears the error bit and changes what reads change. -/
def Obligations.SpiWritesOnlyThePmc : Prop :=
  ∀ (s : State) (x : Nat) (cmd : BitVec 8) (addr : BitVec 16) (w : Word), (s.at x).mainUp = true → (s.at x).ladder = 0 →
    (cmd.toNat % 64 ≠ 0 ∨ addr.toNat % 4 ≠ 0 → ∀ data reads, ∃ t, exec (.spiTransaction x cmd addr data reads) s = .next t ∧
      t.pmc.spiErr = true ∧ ∀ o, t.reg o = (s.at x).reg o) ∧
    (cmd.toNat = 0 → addr.toNat % 4 = 0 → (s.at x).spiMay (0x0C0000 + addr.toNat) = false ∨ (s.at x).mode = 7 →
      ∃ t, exec (.spiTransaction x cmd addr [w] 0) s = .next t ∧ t.pmc.spiErr = true ∧ ∀ o, t.reg o = (s.at x).reg o) ∧
    (cmd.toNat = 0 → addr.toNat % 4 = 0 → hasAcc (0x0C0000 + addr.toNat) (fun a => a == .rwp) = false →
      (s.at x).spiTakes (0x0C0000 + addr.toNat) w = false → ∃ t, exec (.spiTransaction x cmd addr [w] 0) s = .next t ∧
        t.pmc.spiErr = true ∧ ∀ o, o ≠ PMC_EVENTS → t.reg o = (s.at x).reg o) ∧
    (cmd.toNat = 0 → addr.toNat % 4 = 0 → (s.at x).spiTakes (0x0C0000 + addr.toNat) w = true →
      (s.at x).pmc.spiErr = false → ∃ t, exec (.spiTransaction x cmd addr [w] 0) s = .next t ∧
        exec (.registerWrite ⟨x, .host⟩ (0x0C0000 + addr.toNat) 4 (w.setWidth 64)) s = .next t) ∧
    (cmd.toNat = 128 ∨ cmd.toNat = 192 → addr.toNat % 4 = 0 → ∀ data reads, ∃ t, exec (.spiTransaction x cmd addr data reads) s = .next t ∧
      t.pmc = { s.pmc with spiErr := false } ∧ Only [.now, .regs, .snaps, .sch, .pmc] s t) ∧
    (cmd.toNat = 0 ∨ cmd.toNat = 64 → addr.toNat % 4 = 0 → ∀ ws, ∃ u t, exec (.spiTransaction x cmd addr ws 0) s = .next u ∧
      exec (.spiTransaction x cmd addr (ws ++ [w]) 0) s = .next t ∧
      (let off := 0x0C0000 + (if cmd.toNat = 64 then addr.toNat + 4 * ws.length else addr.toNat) % 0x10000
       (u.spiTakes off w = true → t = u.writeWord .spi off w) ∧
       (u.spiTakes off w = false → t.pmc.spiErr = true ∧ ∀ o, o ≠ PMC_EVENTS → t.reg o = u.reg o)))

/-- A write of LATCH clears the latch of each Weir named that is set, resolved and quiet; where OUT is 1 the latch stays,
with CLR_DENIED; a latch that is not named stays (R400, R401). Weir thresholds and configuration change only by the Polder,
in the restore of BOOT or in COMMISSION with the key, of a Weir none of whose fibre engines is arming or armed, which is
refused with CFG_ERR at any time; a changed, enabled Weir enters UNRESOLVED with its latch set, and so does one that is turned
on; one that is turned off is neither (R398, R403, R406, R410). -/
def Obligations.WeirWritesAct : Prop :=
  (∀ (s : State) (b : Bus) (v : Word), s.takes b WMN_LATCH v → ∃ t, exec (.weirLatchClear b v) s = .next t ∧
    ∀ m < 16, (v.toNat.testBit m = false → t.get (latchBit m) = (s.at b.t).get (latchBit m)) ∧
      (v.toNat.testBit m = true → (s.at b.t).weirOut m = false → (s.weir m).unres = none → (s.weir m).actAt ≠ some (s.at b.t).now →
        t.get (latchBit m) = 0) ∧
      (v.toNat.testBit m = true → (s.at b.t).get (latchBit m) = 1 → (s.at b.t).weirOut m = true →
        t.get (latchBit m) = 1 ∧ t.get WMN_EVENTS_CLR_DENIED = 1)) ∧
  (∀ (s : State) (b : Bus) (m : Fin 16) (thr : Bool) (v : Word), s.reaches b →
    (let u := s.at b.t
     let off := if thr then WMN_WM_THR m else WMN_WM_CFG m
     let r := rwriteP u.regs off v
     (b.m ≠ .polder → exec (.weirConfigWrite b m thr v) s = .next u) ∧
     (b.m = .polder → u.weirBusy r m = true → ∃ t, exec (.weirConfigWrite b m thr v) s = .next t ∧ t.get WMN_EVENTS_CFG_ERR = 1 ∧
       ∀ o, o ≠ WMN_EVENTS_CFG_ERR.off → t.reg o = u.reg o) ∧
     (b.m = .polder → u.weirBusy r m = false → u.weirOpen = false → exec (.weirConfigWrite b m thr v) s = .next u) ∧
     (b.m = .polder → u.weirBusy r m = false → u.weirOpen = true → wordOkP u.regs off v = false ∨ weirCfgOk r m off = false →
       ∃ t, exec (.weirConfigWrite b m thr v) s = .next t ∧ t.get WMN_EVENTS_CFG_ERR = 1 ∧
        ∀ o, o ≠ WMN_EVENTS_CFG_ERR.off → t.reg o = u.reg o) ∧
     (b.m = .polder → u.weirBusy r m = false → u.weirOpen = true → wordOkP u.regs off v = true → weirCfgOk r m off = true →
       ∃ t, exec (.weirConfigWrite b m thr v) s = .next t ∧ t.reg off = tget (resetOf off) r off) ∧
     (b.m = .polder → u.weirBusy r m = false → u.weirOpen = true → wordOkP u.regs off v = true → weirCfgOk r m off = true →
       ron r (WMN_WM_CFG_EN m) = true →
       fieldsDiffer u.regs r [WMN_WM_THR_HI m, WMN_WM_THR_LO m, WMN_WM_CFG_HYST m, WMN_WM_CFG_MODE m] = true →
       ∃ t, exec (.weirConfigWrite b m thr v) s = .next t ∧ t.get (WMN_STATUS_UNRESOLVED.bit m) = 1 ∧ t.get (latchBit m) = 1 ∧
        (t.weir m).unres = some t.now) ∧
     (b.m = .polder → u.weirBusy r m = false → u.weirOpen = true → wordOkP u.regs off v = true → weirCfgOk r m off = true →
       u.weirEn m = true → ron r (WMN_WM_CFG_EN m) = false → ∃ t, exec (.weirConfigWrite b m thr v) s = .next t ∧
        t.get (WMN_STATUS_UNRESOLVED.bit m) = 0 ∧ t.get (latchBit m) = 0 ∧ (t.weir m).unres = none) ∧
     (b.m = .polder → u.weirBusy r m = false → u.weirOpen = true → wordOkP u.regs off v = true → weirCfgOk r m off = true →
       u.weirEn m = false → ron r (WMN_WM_CFG_EN m) = true → ∃ t, exec (.weirConfigWrite b m thr v) s = .next t ∧
        t.get (WMN_STATUS_UNRESOLVED.bit m) = 1 ∧ t.get (latchBit m) = 1 ∧ (t.weir m).unres = some t.now)))

/-- A ring is enabled from DISABLED with its indices 0; disabled, a running one stops and a failed one is DISABLED at once; a
stopping ring with nothing in work is DISABLED (R320, R321). CLEAR_IDS empties the window of a DISABLED ring (R332). -/
def Obligations.RingsStartAndStop : Prop :=
  ∀ (s : State) (b : Bus) (v : Word),
    (∀ kind k, k < ringCount kind → s.takes b (ringCtl kind k) v → (ringEn kind k).of v = 1 →
      (s.at b.t).get (ringState kind k) = 0 → ∃ t, exec (.ringEnable b kind k v) s = .next t ∧
        t.get (ringState kind k) = 1 ∧ (kind ≠ .cpl → t.get (ringHead kind k) = 0 ∧ t.get (ringTail kind k) = 0)) ∧
    (∀ kind k, k < ringCount kind → s.takes b (ringCtl kind k) v → (ringEn kind k).of v = 0 →
      (s.at b.t).get (ringState kind k) = 1 → ∃ t, exec (.ringDisable b kind k v) s = .next t ∧ t.get (ringState kind k) = 2) ∧
    (∀ kind k, k < ringCount kind → s.takes b (ringCtl kind k) v → (ringEn kind k).of v = 0 →
      (s.at b.t).get (ringState kind k) = 4 → ∃ t, exec (.ringDisable b kind k v) s = .next t ∧ t.get (ringState kind k) = 0) ∧
    (∀ x kind k, s.upAt x = true → k < ringCount kind → (s.at x).get (ringState kind k) = 2 → (kind = .cmd → (s.ring k).running = []) →
      (kind = .cpl → ∀ c ∈ s.hif.heldCpl, c.ring ≠ k) → ∃ t, exec (.ringStopped x kind k) s = .next t ∧
        t.get (ringState kind k) = 0) ∧
    (∀ k : Fin 16, s.takes b (HIF_CMD_CTL k) v → (HIF_CMD_CTL_CLEAR_IDS k).of v = 1 → (HIF_CMD_CTL_EN k).of v = 0 →
      (s.at b.t).get (HIF_CMD_CTL_STATE k) = 0 → ∃ t, exec (.clearIds b k v) s = .next t ∧ (t.ring k).dup = [])

/-- A doorbell of a running ring with an index that its ring allows becomes the ring's index (R318); any other sets DB_ERR
and leaves the index. A completion doorbell frees entries; a stream doorbell supplies buffers, of which a bad one with no
buffer open before it is closed at once (R337, log 82). -/
def Obligations.DoorbellsMoveIndices : Prop :=
  ∀ (s : State) (x : Nat) (v : Word), s.reaches ⟨x, .host⟩ →
    (∀ k : Fin 16,
      (let ok := (s.at x).get (HIF_CMD_CTL_STATE k) = 1 ∧ dbAccept ((s.at x).get (HIF_CMD_HEAD_INDEX k))
        ((s.at x).get (HIF_CMD_TAIL_INDEX k)) ((s.at x).ringEntries .cmd k) v.toNat = true
       (ok → ∃ t, exec (.cmdDoorbell ⟨x, .host⟩ k v) s = .next t ∧ t.get (HIF_CMD_TAIL_INDEX k) = v.toNat) ∧
       (¬ ok → ∃ t, exec (.cmdDoorbell ⟨x, .host⟩ k v) s = .next t ∧ t.get HIF_EVENTS_DB_ERR = 1 ∧
        t.get (HIF_CMD_TAIL_INDEX k) = (s.at x).get (HIF_CMD_TAIL_INDEX k)))) ∧
    (∀ k : Fin 16,
      (let ok := (s.at x).get (HIF_CPL_CTL_STATE k) = 1 ∧ v.toNat < 65536 ∧
        idxSub v.toNat ((s.at x).get (HIF_CPL_HEAD_INDEX k)) ≤ (s.at x).ringUsed .cpl k
       (ok → ∃ t, exec (.cplDoorbell ⟨x, .host⟩ k v) s = .next t ∧ t.get (HIF_CPL_HEAD_INDEX k) = v.toNat) ∧
       (¬ ok → ∃ t, exec (.cplDoorbell ⟨x, .host⟩ k v) s = .next t ∧ t.get HIF_EVENTS_DB_ERR = 1 ∧
        t.get (HIF_CPL_HEAD_INDEX k) = (s.at x).get (HIF_CPL_HEAD_INDEX k)))) ∧
    (∀ (m : Fin 32) (d : List BufDesc),
      (let ok := (s.at x).get (HIF_STR_CTL_STATE m) = 1 ∧ dbAccept ((s.at x).get (HIF_STR_HEAD_INDEX m))
        ((s.at x).get (HIF_STR_TAIL_INDEX m)) ((s.at x).ringEntries .str m) v.toNat = true
       (ok → ∃ t, exec (.strDoorbell ⟨x, .host⟩ m v d) s = .next t ∧ t.get (HIF_STR_TAIL_INDEX m) = v.toNat) ∧
       (ok → d.length = idxSub v.toNat ((s.at x).get (HIF_STR_TAIL_INDEX m)) →
        ∃ t, exec (.strDoorbell ⟨x, .host⟩ m v d) s = .next t ∧ (t.strRing m).descs =
          if (s.strRing m).buf.isSome = true then (s.strRing m).descs ++ d
          else ((s.strRing m).descs ++ d).dropWhile (fun y => !bufDescOk y)) ∧
       (¬ ok → ∃ t, exec (.strDoorbell ⟨x, .host⟩ m v d) s = .next t ∧ t.get HIF_EVENTS_DB_ERR = 1 ∧ t.strRing m = s.strRing m)))

/-- A warm reset needs its code (R516): with it the device is in BOOT at step 7, steps 7 to 11 of a boot included, with the
cause, the prior mode, and no alignment, load of an image, commit group or command left; admitted images and the Safe-Hold
latch stay, and, where no containment is in force and SAFE_N is high, every fibre engine is SAFE and the spillway and host
memory stay (R509, R510). One met at boot step 5 or 6 goes on from that step; that its cause is 4 there too is the model's
choice (log 59). Without the code, CFG_ERR. -/
def Obligations.WarmResetRestartsTheBoot : Prop :=
  ∀ (s : State) (b : Bus) (v : Word), s.reaches b →
    (SYS_RESET_WARM.of v = 1 → SYS_RESET_CODE.of v = 0x5245 → (s.at b.t).pwr.step ≠ 5 → (s.at b.t).pwr.step ≠ 6 →
      (s.pwr.bootFail && s.pwr.gnowaBad) = false → (s.at b.t).mode ≠ 0 → ∃ t, exec (.warmReset b v) s = .next t ∧
      t.get TIM_ALIGN_ARM = 0 ∧ t.get TIM_STATUS_ALIGN_PENDING = 0 ∧ t.sch.loading = none ∧ (∀ g < 8, t.group g = none) ∧
      t.mode = 1 ∧ t.pwr.step = 7 ∧ t.get PWR_MODE_PREV = (s.at b.t).mode ∧ t.get SYS_RESET_CAUSE_LAST = 4 ∧
      (∀ r < 20, (t.ring r).running = []) ∧ t.sch.img = s.sch.img ∧ t.latched = s.latched ∧
      (s.flt.aonCopy = 0 → s.safeN = false → (∀ n < 4, t.lstate n = 0) ∧ t.spill = s.spill ∧ t.hostMem = s.hostMem)) ∧
    (SYS_RESET_WARM.of v = 1 → SYS_RESET_CODE.of v = 0x5245 → (s.at b.t).pwr.step = 5 ∨ (s.at b.t).pwr.step = 6 → (s.at b.t).mode ≠ 0 →
      ∃ t, exec (.warmReset b v) s = .next t ∧ t.mode = 1 ∧ t.pwr.step = s.pwr.step ∧ t.get SYS_RESET_CAUSE_LAST = 4) ∧
    (¬ (SYS_RESET_WARM.of v = 1 ∧ SYS_RESET_CODE.of v = 0x5245) → ∃ t, exec (.warmReset b v) s = .next t ∧
      t.get SYS_EVENTS_CFG_ERR = 1 ∧ t.mode = (s.at b.t).mode)

/-! ### The time base (R20 to R57) -/

/-- The clock states: loss of REFCLK enters HOLDOVER from lock, FREE without one, raises source 16 and ends an armed
alignment (R22, R34); its return enters ACQUIRING, phase lock LOCKED (R20); the holdover limit raises source 17 (R23), and a
failed PLL source 8 (R25). -/
def Obligations.ClockStatesFollowTheReference : Prop :=
  ∀ (s : State) (x : Nat), s.upAt x = true →
    (let b := s.at x
     let clk := b.get TIM_STATUS_CLK_STATE
     (∃ t, exec (.refclkLoss x) s = .next t ∧ t.get TIM_STATUS_REF_PRESENT = 0 ∧ t.get TIM_EVENTS_REF_LOSS = 1 ∧ t.raised 16 ∧
      t.get TIM_ALIGN_ARM = 0) ∧
     (clk = 2 ∨ (clk = 1 ∧ b.tim.locked = true) → ∃ t, exec (.refclkLoss x) s = .next t ∧ t.get TIM_STATUS_CLK_STATE = 3 ∧
      t.tim.holdStart = some t.now) ∧
     (clk = 1 → b.tim.locked = false → ∃ t, exec (.refclkLoss x) s = .next t ∧ t.get TIM_STATUS_CLK_STATE = 0 ∧
      t.get TIM_STATUS_GT_VALID = 0) ∧
     (clk = 0 ∨ clk = 3 → ∃ t, exec (.refclkLoss x) s = .next t ∧ t.get TIM_STATUS_CLK_STATE = clk) ∧
     (∃ t, exec (.refclkReturn x) s = .next t ∧ t.get TIM_STATUS_REF_PRESENT = 1 ∧
      t.get TIM_STATUS_CLK_STATE = if clk = 0 ∨ clk = 3 then 1 else clk) ∧
     (clk = 1 → ∃ t, exec (.pllLock x) s = .next t ∧ t.get TIM_STATUS_CLK_STATE = 2 ∧ t.get TIM_EVENTS_LOCK = 1) ∧
     (∀ h, clk = 3 → b.tim.holdStart = some h → h + 1000000000 * b.get TIM_REF_CFG_HOLD_LIMIT ≤ b.now →
      ∃ t, exec (.holdExpired x) s = .next t ∧ t.get TIM_EVENTS_HOLD_EXPIRED = 1 ∧ t.raised 17 ∧ srcClass 17 = 0 ∧
        t.get TIM_STATUS_CLK_STATE = 3 ∧ t.get TIM_STATUS_GT_VALID = b.get TIM_STATUS_GT_VALID ∧ t.fe = b.fe) ∧
     (∃ t, exec (.timPllFail x) s = .next t ∧ t.raised 8 ∧ srcClass 8 = 2))

/-- The reference inputs: every PPS_IN edge shows that the input is there (R31); an edge of the selected direction is
measured (R27, R50); accepted, it steers the trim by R29; while an alignment of its source is armed and ready it steps grid
time to the instant of R33 and completes it. Their absence raises 18 and 19 (R31, R50). SYNC_OUT rises for 100 ns at its
multiples (R49). -/
def Obligations.ReferenceInputsSteerAndAlign : Prop :=
  ∀ (s : State) (x : Nat), s.upAt x = true →
    (let b := s.at x
     let g := b.gridOf b.now
     let next := b.get2 TIM_GT_NEXT_LO_GT_NEXT TIM_GT_NEXT_HI_GT_NEXT
     let y := g - b.get TIM_SYNC_DELAY_DELAY
     let m := nearestMul y b.syncPeriod
     (∀ f, f = b.on TIM_REF_CFG_PPS_EDGE → b.alignReady 0 = true → ∃ t, exec (.ppsInEdge x f) s = .next t ∧
      t.get TIM_STATUS_PPS_PRESENT = 1 ∧ t.gridOf t.now = next ∧ t.get TIM_ALIGN_ARM = 0 ∧ t.get TIM_STATUS_GT_VALID = 1 ∧
        t.get TIM_EVENTS_ALIGN_DONE = 1 ∧ t.get TIM_TRIM_TRIM = 0) ∧
     (∀ f, f = b.on TIM_REF_CFG_PPS_EDGE → b.alignReady 0 = false → ∃ t, exec (.ppsInEdge x f) s = .next t ∧
      t.get TIM_STATUS_PPS_PRESENT = 1 ∧ t.gtOff = b.gtOff ∧ t.get TIM_PPS_ERR_ERR = uenc (errHalfUp g 1000000000) 32) ∧
     (∀ f, f = b.on TIM_REF_CFG_PPS_EDGE → b.alignReady 0 = false → b.tim.pps.last = none → b.get TIM_REF_CFG_DISC = 1 →
      ∃ t, exec (.ppsInEdge x f) s = .next t ∧
        t.get TIM_TRIM_TRIM = uenc (steerTrim (errHalfUp g 1000000000) (b.get TIM_REF_CFG_SLEW) 1000000) 16) ∧
     (∀ f, f ≠ b.on TIM_REF_CFG_PPS_EDGE → ∃ t, exec (.ppsInEdge x f) s = .next t ∧ t.get TIM_STATUS_PPS_PRESENT = 1 ∧
      t.tim.pps.seen = some b.now ∧ t.gtOff = b.gtOff ∧ t.get TIM_PPS_ERR_ERR = b.get TIM_PPS_ERR_ERR) ∧
     (∀ f, b.on TIM_SYNC_CFG_IN_EN = true → f = b.on TIM_SYNC_CFG_IN_EDGE → b.alignReady 1 = true →
      ∃ t, exec (.syncInEdge x f) s = .next t ∧ t.get TIM_STATUS_SYNC_PRESENT = 1 ∧ t.gtOff = b.gtOff + (m - y) ∧
        t.get TIM_ALIGN_ARM = 0 ∧ t.get TIM_SYNC_ERR_ERR = 0) ∧
     (∀ f, b.on TIM_SYNC_CFG_IN_EN = true → f = b.on TIM_SYNC_CFG_IN_EDGE → b.alignReady 1 = false →
      ∃ t, exec (.syncInEdge x f) s = .next t ∧ t.get TIM_STATUS_SYNC_PRESENT = 1 ∧ t.gtOff = b.gtOff ∧
        t.get TIM_SYNC_ERR_ERR = uenc (y - m) 32) ∧
     (∀ f, b.on TIM_SYNC_CFG_IN_EN = true → f = b.on TIM_SYNC_CFG_IN_EDGE → b.alignReady 1 = false → b.tim.sync.last = none →
      b.get TIM_REF_CFG_DISC = 2 → ∃ t, exec (.syncInEdge x f) s = .next t ∧ t.get TIM_TRIM_TRIM =
          uenc (steerTrim (y - m) (b.get TIM_REF_CFG_SLEW) (b.get TIM_SYNC_CFG_PERIOD)) 16) ∧
     (b.on TIM_STATUS_PPS_PRESENT = true → b.tim.pps.seen.getD 0 + 1100000000 ≤ b.now → ∃ t, exec (.ppsLoss x) s = .next t ∧
      t.get TIM_STATUS_PPS_PRESENT = 0 ∧ t.get TIM_EVENTS_PPS_LOSS = 1 ∧ t.raised 18) ∧
     (b.on TIM_STATUS_SYNC_PRESENT = true → b.tim.sync.seen.getD 0 + 2 * b.syncPeriod ≤ b.now →
      ∃ t, exec (.syncLoss x) s = .next t ∧ t.get TIM_STATUS_SYNC_PRESENT = 0 ∧ t.get TIM_EVENTS_SYNC_LOSS = 1 ∧ t.raised 19) ∧
     (b.on TIM_SYNC_CFG_OUT_EN = true → b.on TIM_STATUS_GT_VALID = true → g % b.syncPeriod = 0 →
      ∃ t, exec (.syncOutPulse x) s = .next t ∧ t.tim.syncOutEnd = t.now + 100) ∧
     (b.on TIM_STATUS_GT_VALID = false → exec (.syncOutPulse x) s = .next b))

/-! ### Launches (R40 to R92) -/

/-- LAUNCH_IN at an ARMED fibre engine in external launch mode (the others not ARMED): before the guard has passed it counts
as early and launches nothing; else it takes the next shot number, and launches 48 ns later (R54, R55). A missing marker
counts as late (R56). LAUNCH_OUT rises ADV before a selected grid launch (R53). -/
def Obligations.MarkersTakeShotNumbers : Prop :=
  ∀ (s : State) (x : Nat) (n : Fin 4), s.awakeAt x = true → (s.at x).lstate n = 2 →
    (let b := s.at x
     let f := b.f n
     let late := b.get (TIM_FE_LAUNCH_CTL_LATE_TO n)
     let l := b.gridOf b.now + b.get TIM_LAUNCH_OUT_CFG_ADV
     let a := b.aheadTo n l
     (extOf b.regs n = true → (∀ k < 4, k ≠ n.val → b.lstate k ≠ 2) → f.disarm = none → b.now < f.lateFrom →
      ∃ t, exec (.launchInEdge x) s = .next t ∧ t.get (TIM_EVENTS_LAUNCH_EARLY.bit n) = 1 ∧ t.fe = b.fe) ∧
     (extOf b.regs n = true → (∀ k < 4, k ≠ n.val → b.lstate k ≠ 2) → f.disarm = none → f.lateFrom ≤ b.now →
      ∃ t, exec (.launchInEdge x) s = .next t ∧ (t.f n).lastNum = some (match f.lastNum with | some k => k + 1 | none => 0)) ∧
     (extOf b.regs n = true → (∀ k < 4, k ≠ n.val → b.lstate k ≠ 2) → f.disarm = none → f.lateFrom ≤ b.now → f.sent = none → f.due = [] →
      ∃ t, exec (.launchInEdge x) s = .next t ∧ ∃ m, (t.f n).marker = some m ∧ m.m = b.now ∧
        m.shot = (match f.lastNum with | some k => k + 1 | none => 0)) ∧
     (extOf b.regs n = true → late ≠ 0 → f.lateFrom + 1000 * late ≤ b.now → ∃ t, exec (.launchLate x n) s = .next t ∧
      t.get (TIM_EVENTS_LAUNCH_LATE.bit n) = 1 ∧ (t.f n).lateFrom = f.lateFrom + 1000 * late) ∧
     (extOf a.regs n = false → a.launchAt n l = true → b.launchOutSel n ((a.f n).isStart a.regs n ((a.f n).shotAt a.regs n l).shot) = true →
      ∃ t, exec (.launchOutRise x n) s = .next t ∧
        t.tim.launchOutEnd = max b.tim.launchOutEnd (b.now + b.get TIM_LAUNCH_OUT_CFG_WIDTH)))

/-- A launch at its instant plays its segment, records its shot, and shows its number and time (R37, R44, R59); at the end
of the segment the DAC codes are the extinction codes (R61). A gate with a window that holds now is active, one whose
windows have ended and which is not STATIC is not (R69, R71); the duty counts come up to date at the end of a duty window
(R76). -/
def Obligations.LaunchesPlayAndGatesFollow : Prop :=
  (∀ (s : State) (x : Nat) (n : Fin 4), s.awakeAt x = true →
    (let u := (s.at x).commitsDue
     (∀ sh, u.lstate n = 2 → extOf u.regs n = false → (u.f n).next = some sh → sh.gt = u.gridOf u.now → u.disarmDue n = false →
      ∃ t, exec (.launch x n) s = .next t ∧ (∃ r ∈ (t.f n).recs, r.shot = sh.shot ∧ r.launch = u.now) ∧ (t.f n).lastNum = some sh.shot ∧
        (∃ g, (t.f n).seg = some g ∧ g.launch = u.now ∧ g.shot = sh.shot) ∧
        t.get (TIM_FE_SHOT_LO_SHOT n) = sh.shot % 2 ^ 32 ∧ t.get (TIM_FE_SHOT_HI_VALID n) = 1) ∧
     (∀ m, u.lstate n = 2 → extOf u.regs n = true → (u.f n).marker = some m → m.m + 48 = u.now → ∃ t, exec (.launch x n) s = .next t ∧
      (∃ r ∈ (t.f n).recs, r.shot = m.shot ∧ r.launch = u.now) ∧ (t.f n).marker = none ∧ (t.f n).lastNum = some m.shot)) ∧
    (∀ g, ((s.at x).f n).seg = some g → 2 * g.launch + g.len ≤ 2 * (s.at x).now → ∃ t, exec (.segmentEnd x n) s = .next t ∧
      (t.f n).seg = none ∧ ∀ half, t.dac n half = ((s.at x).get (LNC_EXT_CODE_EXT_I n), (s.at x).get (LNC_EXT_CODE_EXT_Q n)))) ∧
  (∀ (s : State) (x : Nat) (n g : Fin 4), s.awakeAt x = true →
    (let b := s.at x
     (b.lstate n = 2 → (∃ w ∈ (b.f n).wins, w.gate = g.val ∧ w.open_ ≤ b.now ∧ b.now < w.close) →
      ∃ t, exec (.gateWindowOpen x n g) s = .next t ∧ (t.f n).gateActive g = true) ∧
     ((∀ w ∈ (b.f n).wins, w.gate = g.val → w.close ≤ b.now) → vget false (b.f n).staticOn g = false →
      ∃ t, exec (.gateWindowClose x n g) s = .next t ∧ (t.f n).gateActive g = false ∧
        ∀ w ∈ (b.f n).wins, w.gate ≠ g.val → w ∈ (t.f n).wins) ∧
     (∃ t, exec (.dutyWindowEnd x n) s = .next t ∧ (t.f n).dutyWin = b.dutyWinAt b.now ∧ (t.f n).syncAt = b.now)))

/-- The self-test ends 2 us into an arming: passed, the STATIC gates may go active; failed, the engine is SAFE with code 12
and source 13 (R79, R80). LEAD after it the engine is ARMED and ARM completes. A disarm whose instant has come makes it SAFE
(R82). -/
def Obligations.ArmingEndsArmedOrSafe : Prop :=
  ∀ (s : State) (x : Nat) (n : Fin 4), s.awakeAt x = true →
    (let b := s.at x
     (∀ a, (b.f n).arm = some a → a.p + 2000 ≤ b.now → a.static = false →
      (∃ t, exec (.armSelftestDone x n true) s = .next t ∧ (t.f n).arm = some { a with static := true } ∧ t.lstate n = b.lstate n ∧
        ∀ g < 4, gateMode b.regs n g = 1 → (t.f n).gateActive g = true) ∧
      (∃ t, exec (.armSelftestDone x n false) s = .next t ∧ (t.f n).arm = none ∧ t.lstate n = 0 ∧
        t.get (LNC_ARM_RESULT_CODE n) = 12 ∧ t.raised 13 ∧ srcClass 13 = 2)) ∧
     (∀ a, (b.f n).arm = some a → a.static = true → a.p + 2000 + 1000 * b.get (LNC_ARM_CFG_LEAD n) ≤ b.now → a.cmd.ring < 20 →
      ∃ t, exec (.armedEntry x n) s = .next t ∧ t.lstate n = 2 ∧ (t.f n).arm = none ∧ t.get (LNC_EVENTS_ARMED n) = 1 ∧
        ¬ t.runs a.cmd) ∧
     (b.lstate n = 2 → b.disarmDue n = true → ∃ t, exec (.disarmTakeEffect x n) s = .next t ∧ t.lstate n = 0 ∧
      (t.f n).next = none ∧ (t.f n).disarm = none ∧ t.get (LNC_EVENTS_DISARMED n) = 1))

/-- SAFE_N low asserts every trip input, trips every fibre engine with its cause and stops every segment and window; SAFE_N
high trips nothing (R85, R86); an exceeded duty limit trips its engine and raises LNC_ENV_EXCEED (R76). -/
def Obligations.TripsGoSafeAtOnce : Prop :=
  ∀ (s : State) (x : Nat),
    (s.upAt x = true → ∃ t, exec (.safeNFall x) s = .next t ∧ t.safeN = true ∧ ∀ n < 4,
      t.tripLive n = true ∧ (t.reg (LNC_TRIP_CAUSE n)).getLsbD 1 = true ∧
      (((s.at x).f n).disarm = none → t.lstate n = 3) ∧
      ((s.at x).lstate n ≠ 3 → (t.f n).seg = none ∧ (t.f n).wins = [] ∧ (t.f n).next = none)) ∧
    ((s.at x).mainUp = false → ∃ t, exec (.safeNFall x) s = .next t ∧ t.safeN = true ∧ Only [.now, .regs, .sch, .safeN] s t) ∧
    (∃ t, exec (.safeNRise x) s = .next t ∧ t.safeN = false ∧ ∀ n < 4, t.lstate n = (s.at x).lstate n) ∧
    (∀ n : Fin 4, s.awakeAt x = true → (((s.at x).lncSync n).envOver n).1 ≠ 0 ∨ (((s.at x).lncSync n).envOver n).2 ≠ 0 →
      ((s.at x).f n).disarm = none → ∃ t, exec (.envExceed x n) s = .next t ∧ t.lstate n = 3 ∧ t.raised (28 + n))

/-! ### Acquisition and the signal paths (R112 to R262) -/

/-- A calibration steps through its phases at their times, coherent and intensity channels apart, and its end writes the
factors of the channels that passed, marks the failed ones, and completes ACQ_CALIBRATE (R114 to R117), with code 6 where
the NV copy failed, which wins over failed channels by the model's choice (log 68), and 0 where a copy alone was asked for and
made. -/
def Obligations.AcqCalibrationRunsItsPhases : Prop :=
  ∀ (s : State) (x : Nat), s.awakeAt x = true →
    (let b := s.at x
     (∀ c coh, b.acq.cal = some c → c.saveOnly = false → (if coh then c.phC else c.phI) ≠ 8 →
      c.start + 1000000 * calEndMs coh (if coh then c.phC else c.phI) ≤ b.now → ∃ t, exec (.acqCalPhaseEnd x coh) s = .next t ∧
        t.acq.cal = some (if coh then { c with phC := calNext true c.phC } else { c with phI := calNext false c.phI }) ∧
        t.get ACQ_STATUS_CAL_BUSY = 1) ∧
     (∀ c r, b.acq.cal = some c → (c.saveOnly = true ∨ (c.phC = 8 ∧ c.phI = 8)) → c.cmd.ring < 20 →
      ∃ t, exec (.acqCalDone x r) s = .next t ∧ t.acq.cal = none ∧ t.get ACQ_STATUS_CAL_BUSY = 0 ∧ ¬ t.runs c.cmd) ∧
     (∀ c r, b.acq.cal = some c → (c.saveOnly = true ∨ (c.phC = 8 ∧ c.phI = 8)) → c.cmd.ring < 20 → (c.saveOnly || c.nv) = true →
      r.nvOk = false → ∃ t, exec (.acqCalDone x r) s = .next t ∧ t.get ACQ_CAL_RESULT_CODE = 6 ∧ t.nvs = b.nvs) ∧
     (∀ c r, b.acq.cal = some c → c.saveOnly = true → c.cmd.ring < 20 → r.nvOk = true → ∃ t, exec (.acqCalDone x r) s = .next t ∧
      t.get ACQ_CAL_RESULT_CODE = 0 ∧ t.get ACQ_EVENTS_NV_FAIL = b.get ACQ_EVENTS_NV_FAIL) ∧
     (∀ c r ch m spec, b.acq.cal = some c → c.saveOnly = false → c.phC = 8 → c.phI = 8 → c.cmd.ring < 20 → ch ∈ chansOf c.live →
      (r.chans.find? (fun p => p.1 == ch)).map (·.2) = some m → ∀ i < 15, regAt (calfOff ch i) = some spec →
      ∃ t, exec (.acqCalDone x r) s = .next t ∧
        (calPass ch m = true → t.reg (calfOff ch i) = (m.words.getD i 0 &&& BitVec.ofNat 32 (spec.mask (fun _ => true))) ∧
          t.get ACQ_EVENTS_CAL_DONE = 1) ∧
        (calPass ch m = false → t.reg (calfOff ch i) = b.reg (calfOff ch i) ∧ t.get (chFail ch) = 1 ∧
          t.get ⟨ACQ_CAL_FAIL, ch, 1⟩ = 1)))

/-- Background calibration: in an ARMED engine at L0 the end of a full block gives updates that wait for the next frame
(R119 to R127), each within its step: one unit, four for a dark block, 2^-12 of itself for A (R125), and 64 LSB for B, which
is the model's choice (log 53); before a block is full nothing happens; a channel that fails in use raises its source
(R127). -/
def Obligations.BackgroundBlocksQueueUpdates : Prop :=
  ∀ (s : State) (x : Nat), s.awakeAt x = true →
    (let b := s.at x
     (∀ (c : Fin 16) raw, b.bgCoh c = true → ((b.blkAt c).take bgLen).length = bgLen → ∃ t, exec (.bgCalBlockEnd x c raw) s = .next t ∧
      ∃ l : List CalUpd, (t.f (c.val / 4)).calPend = (b.f (c.val / 4)).calPend ++ l ∧ l.length = 12 ∧
        ∀ u ∈ l, u.ch = c.val ∧ u.d.natAbs ≤ 1) ∧
     (∀ (c : Fin 16) raw, ((b.blkAt c).take bgLen).length ≠ bgLen → exec (.bgCalBlockEnd x c raw) s = .next b) ∧
     (∀ (p : Fin 8) i q c rest, b.blindOn p = true → (b.blind p).full = (i, q, c) :: rest →
      ∃ t, exec (.iqBlindBlockEnd x p i q c) s = .next t ∧ (t.blind p).full = rest ∧
      ∃ u v : CalUpd, (t.f (p.val / 2)).calPend = (b.f (p.val / 2)).calPend ++ [u, v] ∧ u.fld = .iqA p ∧ v.fld = .iqB p ∧
        v.d.natAbs ≤ 64 ∧ (0 ≤ b.getI (ACQ_IQ_A_A p) → u.d.natAbs * 4096 ≤ (b.getI (ACQ_IQ_A_A p)).natAbs)) ∧
     (∀ (i : Fin 8) raw, b.bgInt i = true → ((b.blkAt (16 + i)).take darkLen).length = darkLen →
      ((b.blkAt (16 + i)).take darkLen).getLastD 0 ≤ b.now →
      (∃ y ∈ b.bgSamples (16 + i) raw ((b.blkAt (16 + i)).take darkLen), y.ovr = false) → ∃ t, exec (.darkBlockEnd x i raw) s = .next t ∧
      ∃ u : CalUpd, (t.f (i.val / 2)).calPend = (b.f (i.val / 2)).calPend ++ [u] ∧ u.fld = .intOfs i ∧ u.d.natAbs ≤ 4) ∧
     (∀ (ch : Fin 24) since, b.on (chEn ch) = true → srcIsPin ch (b.get (chSrc ch)) = true → b.lstate (chanFe ch) = 2 →
      ∃ t, exec (.acqChFail x ch since) s = .next t ∧ t.get ACQ_EVENTS_CH_FAIL = 1 ∧ t.raised (32 + chanFe ch) ∧
        (t.f (chanFe ch)).chFailSince = some since))

/-- The signal path: the oldest shot whose window and segment have ended is processed once, and hands its phases on (R137);
the filters of ACF take every input up to the next output and produce it (R180); the detectors every output up to the end of
an interval (R234, R237). Work that finds staging full of two other frames waits (R297, log 88). -/
def Obligations.ShotsBecomeOutputs : Prop :=
  ∀ (s : State) (x : Nat) (n : Fin 4), s.awakeAt x = true →
    (let b := s.at x
     (∀ r raw errs, (b.f n).recs.find? (fun r => !r.phsDone) = some r → r.launch + winEndOf r.regs n ≤ b.now →
      r.launch + cdiv r.len 2 ≤ b.now → ∃ t, exec (.shotProcessed x n raw errs) s = .next t ∧
        (∀ q ∈ (t.f n).recs, q.shot = r.shot → q.phsDone = true) ∧ t.get (PHS_LAST_SHOT_LO_SHOT n) = r.shot % 2 ^ 32) ∧
     (∀ r raw errs, (b.f n).recs.find? (fun r => !r.phsDone) = some r → r.launch + winEndOf r.regs n ≤ b.now →
      r.launch + cdiv r.len 2 ≤ b.now → (b.f n).acf.q ≠ [] → ∃ t, exec (.shotProcessed x n raw errs) s = .next t ∧
        ∃ i, (t.f n).acf.q = (b.f n).acf.q ++ [i] ∧ i.shot = r.shot) ∧
     (∀ r raw errs, (b.f n).recs.find? (fun r => !r.phsDone) = some r → r.launch + winEndOf r.regs n ≤ b.now →
      r.launch + cdiv r.len 2 ≤ b.now → (b.f n).acf.q = [] →
      (if r.sent.isSome then r.idx else r.shot) % ratioOf r.regs n = acfPhaseOf r.regs n →
      ∃ t, exec (.shotProcessed x n raw errs) s = .next t ∧ ∃ i, (t.f n).acf.q = [i] ∧ i.shot = r.shot) ∧
     (∀ i q, (b.f n).acf.q = i :: q → b.stagingFull n i.frame = false → ∃ t, exec (.acfOutput x n) s = .next t ∧
      (t.f n).acf.q.length < (b.f n).acf.q.length ∧ t.get (ACF_LAST_OUT_LO_SHOT n) = i.shot % 2 ^ 32) ∧
     (∀ i q, (b.f n).acf.q = i :: q → b.stagingFull n i.frame = true → exec (.acfOutput x n) s = .next b) ∧
     (∀ y q, (b.f n).evt.q = .out y :: q → b.stagingFull n y.frame = false → ∃ t, exec (.energyIntervalEnd x n) s = .next t ∧
      (t.f n).evt.q.length < (b.f n).evt.q.length) ∧
     (∀ y q, (b.f n).evt.q = .out y :: q → b.stagingFull n y.frame = true → exec (.energyIntervalEnd x n) s = .next b))

/-- The Raman path: the oldest waiting Raman shot joins the accumulation (R208); a full one makes way for the other set
(R210); the oldest finished one is computed, counted and staged (R217, R223), but waits where staging is full of two other
frames (R297, log 88). -/
def Obligations.RamanShotsAccumulate : Prop :=
  ∀ (s : State) (x : Nat) (n : Fin 4), s.awakeAt x = true →
    (let b := s.at x
     (∀ r rest u v, (b.f n).ramanWait = r :: rest → r.launch + winEndOf r.regs n ≤ b.now → r.launch + cdiv r.len 2 ≤ b.now →
      ∃ t, exec (.ramanShotAccumulate x n u v) s = .next t ∧ (∃ a, (t.f n).dts.cur = some a ∧ a.last = r) ∧
        t.get (DTS_LAST_SHOT_LO_SHOT n) = r.shot % 2 ^ 32) ∧
     (∀ a, (b.f n).dts.cur = some a → a.count = dtsShots a.last.regs n → ∃ t, exec (.accumulationEnd x n) s = .next t ∧
      (t.f n).dts.cur = none ∧ (t.f n).dts.done = (b.f n).dts.done ++ [a] ∧ (t.f n).dts.set = !(b.f n).dts.set) ∧
     (∀ a rest, (b.f n).dts.done = a :: rest → (b.f n).dts.cur = none → b.stagingFull n a.last.frame = false →
      ∃ t, exec (.dtsEndComputation x n) s = .next t ∧
      (t.f n).dts.done = rest ∧ t.get (DTS_EVENTS_DONE n) = 1 ∧ t.get (DTS_TREF_LAST_TREF n) = uenc (b.refTemp n a).tref 18 ∧
      t.get (DTS_DONE_CNT_COUNT n) = (b.get (DTS_DONE_CNT_COUNT n) + 1) % 2 ^ 32 ∧
      (b.on (HIF_SMAP_EN (4 + n)) = true → ∃ y : Frame, t.hif.staged.map (·.frame) = b.hif.staged.map (·.frame) ++ [y] ∧
        y.stream = 4 + n ∧ y.fe = n ∧ y.kind = 1 ∧ y.shot = a.mid0.1 ∧ y.work = some a.last.frame)) ∧
     (∀ a rest, (b.f n).dts.done = a :: rest → (b.f n).dts.cur = none → b.stagingFull n a.last.frame = true →
      exec (.dtsEndComputation x n) s = .next b))


/-! ### Encoders, switches, SSI, emulators (R260 to R276) -/

/-- Encoder inputs: an edge of one line counts up by one in the order 00, 10, 11, 01 of the lines A and B, down against it, or
the other way round with INV, and moves (R260, R263); both at once are ILLEGAL and count
nothing (R261); an accepted index captures POS (R266); STALL without an edge ends MOVING with speed 0 (R263); the history
takes a record at multiples of 2^16 ns (R267). -/
def Obligations.EncoderInputsCount : Prop :=
  ∀ (s : State) (x : Nat) (i : Fin 2), s.upAt x = true →
    (let b := s.at x
     let l := b.get (TRK_QIN_STATUS_LINES i)
     let pos := b.get (TRK_QIN_POS_POS i)
     (∀ qa qb, b.on (TRK_QIN_CFG_EN i) = true → ∃ t, exec (.encoderEdge x i qa qb) s = .next t ∧
      t.get (TRK_QIN_STATUS_LINES i) % 4 = qa.toNat + 2 * qb.toNat) ∧
     (∀ qa qb, b.on (TRK_QIN_CFG_EN i) = true → (l.testBit 0 != qa) = true → (l.testBit 1 != qb) = true →
      ∃ t, exec (.encoderEdge x i qa qb) s = .next t ∧ t.get (TRK_QIN_STATUS_ILLEGAL i) = 1 ∧ t.get TRK_EVENTS_ILLEGAL = 1 ∧
        t.get (TRK_QIN_POS_POS i) = pos) ∧
     (∀ qa qb, b.on (TRK_QIN_CFG_EN i) = true → ((l.testBit 0 != qa) != (l.testBit 1 != qb)) = true →
      ∃ t, exec (.encoderEdge x i qa qb) s = .next t ∧ t.get (TRK_QIN_STATUS_MOVING i) = 1 ∧
        (let up := decide (((l.testBit 0, l.testBit 1), (qa, qb)) ∈ [((false, false), (true, false)), ((true, false), (true, true)),
          ((true, true), (false, true)), ((false, true), (false, false))]) != b.on (TRK_QIN_CFG_INV i)
         let d : Int := if up then 1 else -1
         t.get (TRK_QIN_POS_POS i) = uenc (pos + d) 32 ∧ (t.qin i).net = (b.qin i).net + d ∧
          t.get (TRK_QIN_STATUS_DIR i) = (!up).toNat)) ∧
     (∀ qa qb, b.on (TRK_QIN_CFG_EN i) = false → ∃ t, exec (.encoderEdge x i qa qb) s = .next t ∧
      t.get (TRK_QIN_STATUS_LINES i) % 4 = qa.toNat + 2 * qb.toNat ∧ t.get (TRK_QIN_POS_POS i) = pos ∧ t.trk.qin = b.trk.qin) ∧
     (∀ e, (b.qin i).lastCnt = some e → b.on (TRK_QIN_STATUS_MOVING i) = true → e + 1000 * b.get (TRK_QIN_TIMING_STALL i) ≤ b.now →
      ∃ t, exec (.encoderStall x i) s = .next t ∧ t.get (TRK_QIN_STATUS_MOVING i) = 0 ∧ t.get (TRK_QIN_SPEED_SPEED i) = 0) ∧
     (∀ v, b.on (TRK_QIN_CFG_EN i) = true → (l.testBit 2 != v) = true → (v != b.on (TRK_QIN_CFG_IDX_POL i)) = true →
      b.on (TRK_QIN_CFG_IDX_GATE i) = false ∨ l % 4 = 3 → ∃ t, exec (.indexPulse x i v) s = .next t ∧
        t.get (TRK_QIN_IDX_CAP_CAP i) = pos ∧ t.get (TRK_QIN_STATUS_INDEX_SEEN i) = 1) ∧
     (b.gridOf b.now % 65536 = 0 → ∃ t, exec (.countHistoryRecord x i) s = .next t ∧
      (t.qin i).hist.head? = some (b.gridOf b.now, pos, b.getI (TRK_QIN_SPEED_SPEED i)) ∧ (t.qin i).hist.length ≤ 4096))

/-- A debounced edge of an enabled switch enters the FIFO with its grid time, or sets MS_OVF where 32 wait (R271); SSI
transfers start at multiples of PERIOD where the port is idle and the line high; an early start is an OVR, one with the line
low a START_ERR. A transfer whose line is low half a period after its last edge and high within MONO delivers DATA with the
start's time; any other is an END_ERR (R272). -/
def Obligations.SwitchesAndSsiPorts : Prop :=
  ∀ (s : State) (x : Nat), s.upAt x = true →
    (let b := s.at x
     (∀ (m : Fin 8) fall st, (b.get TRK_MS_CFG_EN).testBit m = true → st + 1000 * b.get TRK_MS_CFG_DEBOUNCE ≤ b.now →
      b.trk.fifo.length < 32 → ∃ t, exec (.msEdge x m fall st) s = .next t ∧ t.get TRK_EVENTS_MS_EDGE = 1 ∧
        ∃ e, t.trk.fifo = b.trk.fifo ++ [e] ∧ e.1 = m.val ∧ (e.2.2 : Int) = b.gridOf (b.sampleAt4 st) % 2 ^ 64) ∧
     (∀ (m : Fin 8) fall st, (b.get TRK_MS_CFG_EN).testBit m = true → st + 1000 * b.get TRK_MS_CFG_DEBOUNCE ≤ b.now →
      32 ≤ b.trk.fifo.length → ∃ t, exec (.msEdge x m fall st) s = .next t ∧ t.trk.fifo = b.trk.fifo ∧
        t.get TRK_EVENTS_MS_EDGE = 1 ∧ t.get TRK_EVENTS_MS_OVF = 1) ∧
     (∀ (p : Fin 2) low, b.on (TRK_SSI_CFG_EN p) = true → b.gridOf b.now % (1000 * b.get (TRK_SSI_TIMING_PERIOD p)) = 0 →
      (b.ssi p).open_ = true ∨ b.now < (b.ssi p).busy → ∃ t, exec (.ssiFrameStart x p low) s = .next t ∧
        t.get (TRK_SSI_STATUS_OVR p) = 1 ∧ t.get TRK_EVENTS_SSI_OVR = 1) ∧
     (∀ (p : Fin 2), b.on (TRK_SSI_CFG_EN p) = true → b.gridOf b.now % (1000 * b.get (TRK_SSI_TIMING_PERIOD p)) = 0 →
      (b.ssi p).open_ = false → (b.ssi p).busy ≤ b.now → ∃ t, exec (.ssiFrameStart x p true) s = .next t ∧
        t.get (TRK_SSI_STATUS_START_ERR p) = 1 ∧ t.get TRK_EVENTS_SSI_ERR = 1 ∧ (t.ssi p).open_ = false) ∧
     (∀ (p : Fin 2), b.on (TRK_SSI_CFG_EN p) = true → b.gridOf b.now % (1000 * b.get (TRK_SSI_TIMING_PERIOD p)) = 0 →
      (b.ssi p).open_ = false → (b.ssi p).busy ≤ b.now → ∃ t, exec (.ssiFrameStart x p false) s = .next t ∧
        (t.ssi p).open_ = true ∧ (t.ssi p).gt = b.gridOf b.now) ∧
     (∀ (p : Fin 2) bits high, (b.ssi p).open_ = true → b.on (TRK_SSI_CFG_EN p) = true →
      high ≤ 1000 * b.get (TRK_SSI_TIMING_MONO p) → ∃ t, exec (.ssiFrameEnd x p bits ⟨true, high⟩) s = .next t ∧
        (t.ssi p).open_ = false ∧ t.get (TRK_SSI_STATUS_VALID p) = 1 ∧ (t.ssi p).dataGt = (b.ssi p).gt ∧
        t.get (TRK_SSI_DATA_DATA p) = (if b.on (TRK_SSI_CFG_GRAY p) then grayToBin 6 (bits.toNat % 2 ^ b.get (TRK_SSI_CFG_BITS p))
          else bits.toNat % 2 ^ b.get (TRK_SSI_CFG_BITS p)) % 2 ^ 32) ∧
     (∀ (p : Fin 2) bits low high, (b.ssi p).open_ = true → b.on (TRK_SSI_CFG_EN p) = true →
      low = false ∨ 1000 * b.get (TRK_SSI_TIMING_MONO p) < high → ∃ t, exec (.ssiFrameEnd x p bits ⟨low, high⟩) s = .next t ∧
        (t.ssi p).open_ = false ∧ t.get (TRK_SSI_STATUS_END_ERR p) = 1 ∧
        t.get (TRK_SSI_DATA_DATA p) = b.get (TRK_SSI_DATA_DATA p)))

/-- Emulators: at multiples of 1 us the target follows the source: QIN, or a track until it is lost, with which a TRACK
emulator holds its count (R274, R275); one of MODE 0 or 3 neither runs nor holds. A step moves the count one towards the
target, MIN_GAP after the last (R274); compare pulses end at their time (R268). -/
def Obligations.EmulatorsFollowTheirSource : Prop :=
  ∀ (s : State) (x : Nat), s.upAt x = true →
    (let b := s.at x
     (∀ (m : Fin 4) ch, b.gridOf b.now % 1000 = 0 → b.get (TRK_ENC_CFG_MODE m) = 2 ∨
        (b.get (TRK_ENC_CFG_MODE m) = 1 ∧ (b.enc m).lost = false) → b.encSrc m = .at_ ch →
      ∃ t, exec (.encTargetUpdate x m) s = .next t ∧ (t.enc m).target = rha (ch * b.get (TRK_ENC_CPM_CPM m)) 1000 ∧
        t.get (TRK_ENC_STATUS_RUN m) = 1 ∧ t.get (TRK_ENC_STATUS_HOLD m) = 0) ∧
     (∀ m : Fin 4, b.gridOf b.now % 1000 = 0 → b.get (TRK_ENC_CFG_MODE m) = 1 → (b.enc m).gone = false → b.encSrc m = .lost →
      ∃ t, exec (.encTargetUpdate x m) s = .next t ∧ (t.enc m).lost = true ∧ t.get (TRK_ENC_STATUS_HOLD m) = 1 ∧
        t.get (TRK_ENC_STATUS_SRC_LOST m) = 1 ∧ t.get TRK_EVENTS_ENC_SRC_LOST = 1) ∧
     (∀ m : Fin 4, b.gridOf b.now % 1000 = 0 → b.get (TRK_ENC_CFG_MODE m) = 1 → b.encSrc m = .held ∨ (b.enc m).lost = true →
      ∃ t, exec (.encTargetUpdate x m) s = .next t ∧ (t.enc m).lost = true ∧ (t.enc m).target = (b.enc m).target ∧
        t.get (TRK_ENC_STATUS_HOLD m) = 1 ∧ t.get (TRK_ENC_STATUS_RUN m) = 0) ∧
     (∀ m : Fin 4, b.gridOf b.now % 1000 = 0 → b.get (TRK_ENC_CFG_MODE m) = 0 ∨ b.get (TRK_ENC_CFG_MODE m) = 3 →
      ∃ t, exec (.encTargetUpdate x m) s = .next t ∧ t.get (TRK_ENC_STATUS_RUN m) = 0 ∧ t.get (TRK_ENC_STATUS_HOLD m) = 0) ∧
     (∀ m : Fin 4, (let d := wrap32 ((b.enc m).target - b.get (TRK_ENC_COUNT_COUNT m))
      b.get (TRK_ENC_CFG_MODE m) = 1 ∨ b.get (TRK_ENC_CFG_MODE m) = 2 → b.on (TRK_ENC_STATUS_RUN m) = true →
      b.contained 6 = false → d ≠ 0 → (b.enc m).stepAt + b.get (TRK_ENC_CPM_MIN_GAP m) ≤ b.now →
      ∃ t, exec (.encStep x m) s = .next t ∧ (t.enc m).stepAt = b.now ∧
        t.get (TRK_ENC_COUNT_COUNT m) = uenc (b.get (TRK_ENC_COUNT_COUNT m) + (if 0 < d then 1 else -1)) 32)) ∧
     (∀ p : Fin 12, vget 0 b.trk.pulse p ≤ b.now → ∃ t, exec (.cmpPulseEnd x p) s = .next t ∧ vget 0 t.trk.pulse p = 0))

/-! ### Frames, groups, the link (R293 to R357) -/

/-- The oldest frame of shots whose work is finished leaves with its lateness, which marks its outputs LATE and overtops
beyond L_MAX (R293, R298); a frame in which a shot was cut leaves without. An output leaves staging for the buffers of its
ring, and is held until it is confirmed, or for its area of the spillway, or is discarded where its stream asks for that; one
of an engine that waited too long goes to the spillway and makes its engine's outputs divert (R297); a confirmed frame is
released (R341), and where the DRAIN slots exist the drain writes one frame of the spillway to its ring, reserved before
general (R346). -/
def Obligations.FramesLeaveTheirStages : Prop :=
  ∀ (s : State) (x : Nat), s.awakeAt x = true →
    (let b := s.at x
     let inArea := fun (b t : State) (f : Frame) =>
      let z : SpillFrame := ⟨{ f with spilled := true }, false⟩
      b.contained 7 = false →
      (f.kind = 2 ∨ f.kind = 3 → spillBytes b.spill.reserved + f.size ≤ b.spillCap f →
        t.spill = { b.spill with reserved := b.spill.reserved ++ [z] }) ∧
      (f.kind ≠ 2 → f.kind ≠ 3 → f.size ≤ b.spillCap f → t.spill.reserved = b.spill.reserved ∧
        ∃ l, l <:+ b.spill.general ∧ t.spill.general = l ++ [z])
     (∀ (n : Fin 4) r, b.finishedFrame n = some r → ∃ t, exec (.frameWorkDone x n) s = .next t ∧
      (t.f n).recs = (b.f n).recs.filter (fun y => y.frame != r.frame)) ∧
     (∀ (n : Fin 4) r, b.finishedFrame n = some r → r.lost = false → ∃ t, exec (.frameWorkDone x n) s = .next t ∧
      (t.f n).late = b.now - crestOf r.regs n r.launch ∧ ∀ y ∈ t.hif.staged.map (·.frame) ++ t.hif.inFlight ++
        (t.spill.general ++ t.spill.reserved).map (·.frame), y.fe = n → y.work = some r.frame →
        y.late = (decide (0 < b.now - crestOf r.regs n r.launch) || (b.f n).overtop)) ∧
     (∀ (n : Fin 4) r c, b.finishedFrame n = some r → r.lost = false → b.covering n = some c →
      c.2.lMax < b.now - crestOf r.regs n r.launch → ∃ t, exec (.frameWorkDone x n) s = .next t ∧ (t.f n).overtop = true ∧
        t.get SCH_EVENTS_OVERTOP = 1 ∧ t.raised (52 + n)) ∧
     (∀ (k : Fin 18) y rest, takeFirst (fun (y : Staged) => y.frame.stream == k.val) b.hif.staged = (some y, rest) →
      (let f := b.lateSoFar y.frame
       let gone := b.attach ≠ 0 ∧ b.on (HIF_SMAP_UNATT_DISCARD k) = true
       let sent := (b.unstage rest).frameWrite (b.get (HIF_SMAP_RING k)) f
       (b.stays y.frame = true → exec (.frameDeliver x k) s = .next b) ∧
       (b.stays y.frame = false → ∃ t, exec (.frameDeliver x k) s = .next t ∧ t.hif.staged.map (·.frame) = rest.map (·.frame) ∧
        (gone → t.spill = b.spill ∧ t.hif.inFlight = b.hif.inFlight) ∧
        (¬ gone → b.mustSpill y.frame = false → t.spill = b.spill ∧ t.hif.inFlight = b.hif.inFlight ++ [f] ∧
          t.hostMem = sent.hostMem ∧ t.hif.strs = sent.hif.strs) ∧
        (¬ gone → b.mustSpill y.frame = true → inArea b t f)))) ∧
     (∀ (n : Fin 4) y rest, takeFirst (fun (y : Staged) => y.frame.fe == n.val) b.hif.staged = (some y, rest) →
      y.head.getD b.now + b.get (SCH_FE_DIVERT_NS n) ≤ b.now → b.spillWaits y.frame = false →
      (b.attach = 0 ∨ b.on (HIF_SMAP_UNATT_DISCARD y.frame.stream) = false) → ∃ t, exec (.divert x n) s = .next t ∧
        t.hif.staged.map (·.frame) = rest.map (·.frame) ∧ inArea b t (b.lateSoFar y.frame) ∧
        ((t.spill.general ++ t.spill.reserved).any (fun z => z.frame.fe == n.val) = true → vget false t.hif.diverted n = true)) ∧
     (∀ (k : Fin 18) f rest, takeFirst (fun (f : Frame) => f.stream == k.val) b.hif.inFlight = (some f, rest) →
      ∃ t, exec (.frameRelease x k) s = .next t ∧ t.hif.inFlight = rest ∧ t.spill = b.spill) ∧
     (∀ errs f l, (let u := errs.foldl (fun (s : State) e => s.memErr none e) b
      let sent := (u.memUsed 15).frameWrite (u.get (HIF_SMAP_RING f.stream)) f
      errs.any MemErr.poisons = false → u.mem.share.2.2 ≠ 0 → (u.mem.dump.map (·.turn)).getD false = false →
      u.attach = 0 → u.on HIF_CFG_AUTO_DRAIN = true → drainPick u u.spill.reserved = (some f, l) →
      ∃ t, exec (.drainFrame x errs) s = .next t ∧ t.spill.reserved = l ∧ t.spill.general = u.spill.general ∧
        t.hostMem = sent.hostMem ∧ t.hif.strs = sent.hif.strs)) ∧
     (∀ errs f l l', (let u := errs.foldl (fun (s : State) e => s.memErr none e) b
      let sent := (u.memUsed 15).frameWrite (u.get (HIF_SMAP_RING f.stream)) f
      errs.any MemErr.poisons = false → u.mem.share.2.2 ≠ 0 → (u.mem.dump.map (·.turn)).getD false = false →
      u.attach = 0 → u.on HIF_CFG_AUTO_DRAIN = true → drainPick u u.spill.reserved = (none, l') →
      drainPick u u.spill.general = (some f, l) →
      ∃ t, exec (.drainFrame x errs) s = .next t ∧ t.spill.general = l ∧ t.spill.reserved = u.spill.reserved ∧
        t.hostMem = sent.hostMem ∧ t.hif.strs = sent.hif.strs)))

/-- Commit groups: at its lock a group whose conditions hold is locked and one whose do not ends with their code (R308); at
its boundary it applies once: EPOCH goes up by one (R312), its writes of TIM are in force at once for a fibre engine that is
not ARMED, all its writes and table loads wait in order for the boundary shot of one that is and are in force with the
launch of that shot, and the group ends with outcome 1 and its request in CMT_LAST, its slot free (R309). A load ends with
its admission or its code (R285, R286), an unload with the slot free, or with code 13 or 7 (R291). -/
def Obligations.GroupsLockAndApply : Prop :=
  ∀ (s : State) (x : Nat), s.awakeAt x = true →
    (let b := s.at x
     (∀ (k : Fin 8) g tb, b.group k = some g → g.tb = some tb → g.locked = false → tb ≤ b.gridOf b.now + 10000 →
      (b.groupCode g).1 = 0 → ∃ t, exec (.commitLock x k) s = .next t ∧ t.group k = some { g with locked := true }) ∧
     (∀ (k : Fin 8) g tb, b.group k = some g → g.tb = some tb → g.locked = false → tb ≤ b.gridOf b.now + 10000 →
      (b.groupCode g).1 ≠ 0 → ∃ t, exec (.commitLock x k) s = .next t ∧ t.group k = none ∧
        t.get SCH_CMT_LAST_CODE = (b.groupCode g).1 ∧ t.get SCH_EVENTS_CMT_ABORT = 1) ∧
     (∀ (k : Fin 8) g tb, b.group k = some g → g.tb = some tb → g.locked = true ∨ (b.groupCode g).1 = 0 → tb ≤ b.gridOf b.now →
      ∃ t, exec (.commitApply x k) s = .next t ∧ t.group k = none ∧ t.get SCH_CMT_LAST_CODE = 1 ∧ t.get SCH_EVENTS_CMT_APPLIED = 1 ∧
        t.get SCH_CMT_LAST_ID_ID = g.cmd.reqId.toNat ∧ t.get SCH_EPOCH_EPOCH = (b.get SCH_EPOCH_EPOCH + 1) % 2 ^ 32 ∧
        ∀ n < 4, g.taken.testBit n = false →
          (b.lstate n ≠ 2 → ∀ off, off / 65536 = 2 → regFe off = some n →
            t.reg off = tget (resetOf off) (rwrites b.regs (g.writesOf n)) off) ∧
          (b.lstate n = 2 → ∃ d, (t.f n).due = (b.f n).due ++ [d] ∧ d.tb = tb ∧ d.writes = g.writesOf n ∧ d.tabs = g.loadsOf n)) ∧
     (∀ (n : Fin 4) sh d, (let u := b.commitsDue
      u.lstate n = 2 → extOf u.regs n = false → (u.f n).next = some sh → sh.gt = u.gridOf u.now → u.disarmDue n = false →
      (u.f n).due = [d] → d.reached sh ((u.f n).isStart u.regs n sh.shot || (u.f n).rebased u.regs n) = true →
      ∃ t, exec (.launch x n) s = .next t ∧ (t.f n).due = [] ∧
        t.reg (TIM_FE_PRI n) = tget (resetOf (TIM_FE_PRI n)) (rwrites u.regs (d.own n)) (TIM_FE_PRI n))) ∧
     (∀ l i, b.sch.loading = some l → l.load = true → b.on BRM_STATUS_INIT_DONE = true → l.cmd.ring < 20 → l.image = some i →
      b.loadCode (some i) = 0 → ∃ t, exec (.loadScheduleDone x) s = .next t ∧ t.sch.loading = none ∧ ¬ t.runs l.cmd ∧
        t.get SCH_LOAD_RESULT_CODE = 0 ∧ t.get SCH_EVENTS_LOADED = 1 ∧ vget none t.sch.img b.freeImg = some (imageOf i)) ∧
     (∀ l, b.sch.loading = some l → l.load = true → b.on BRM_STATUS_INIT_DONE = true → l.cmd.ring < 20 → b.loadCode l.image ≠ 0 →
      ∃ t, exec (.loadScheduleDone x) s = .next t ∧ t.sch.loading = none ∧ ¬ t.runs l.cmd ∧ t.get SCH_EVENTS_LOAD_FAIL = 1 ∧
        t.get SCH_LOAD_RESULT_CODE = b.loadCode l.image ∧ t.sch.img = b.sch.img) ∧
     (∀ l, b.sch.loading = some l → l.load = false → l.cmd.ring < 20 → vget none b.sch.img l.slot = none →
      ∃ t, exec (.loadScheduleDone x) s = .next t ∧ t.sch.loading = none ∧ ¬ t.runs l.cmd ∧ t.get SCH_LOAD_RESULT_CODE = 13) ∧
     (∀ l i, b.sch.loading = some l → l.load = false → l.cmd.ring < 20 → vget none b.sch.img l.slot = some i →
      (feList i.feMask).any (fun n => b.busyFe n) = true → ∃ t, exec (.loadScheduleDone x) s = .next t ∧ t.sch.loading = none ∧
        ¬ t.runs l.cmd ∧ t.get SCH_LOAD_RESULT_CODE = 7 ∧ t.sch.img = b.sch.img) ∧
     (∀ l i, b.sch.loading = some l → l.load = false → l.cmd.ring < 20 → vget none b.sch.img l.slot = some i →
      (feList i.feMask).any (fun n => b.busyFe n) = false → ∃ t, exec (.loadScheduleDone x) s = .next t ∧ t.sch.loading = none ∧
        ¬ t.runs l.cmd ∧ t.get SCH_LOAD_RESULT_CODE = 0 ∧ t.get SCH_EVENTS_UNLOADED = 1 ∧ vget none t.sch.img l.slot = none))

/-- The link: its loss detaches and marks the rings, what completions were not confirmed are held again before those held, and
what frames were not confirmed, drained or staged are in the spillway in order (R349, R350); its return enters HOLD with every
ring DISABLED (R354), at no more than MAX_SPEED, where PERST_N is high (the model's choice, log 19); PERST_N low ends it too,
with a warm reset while attached (R352, R540). A confirmed completion leaves its ring's list (R341); that of DETACH detaches,
that of SET_MODE DORMANT powers down, unless an engine is still arming or armed (R353, R486, R83). A coalescing time that has
passed sends the ring's message or sets its pending bit (R348), and a failed descriptor read fails its ring with source 20
(R321, R431). -/
def Obligations.LinkLossDetaches : Prop :=
  (∀ (s : State) (x : Nat) (k : Fin 16) c rest, (s.at x).mode = 0 → ((s.at x).cplRing k).unconf = c :: rest → c.status = 0 →
    (s.at x).hif.dormCmd = some c.cmd → ∃ t, exec (.completionConfirmed x k) s = .next t ∧ t.mode = 0 ∧
      ((s.at x).anyBusy = true → (t.cplRing k).unconf = rest ∧ t.ladder = (s.at x).ladder) ∧ ((s.at x).anyBusy = false → t.ladder = 6)) ∧
  ∀ (s : State) (x : Nat), s.upAt x = true →
    (let b := s.at x
     (b.attach ≠ 1 → ∃ t, exec (.linkDown x) s = .next t ∧ t.attach = 1 ∧ t.get HIF_STATUS_LINK_UP = 0 ∧ t.get HIF_EVENTS_LINK_DOWN = 1 ∧
      t.get HIF_STATUS_SPEED = 0 ∧ t.get HIF_STATUS_WIDTH = 0 ∧ t.hif.inFlight = [] ∧ (b.mem.share.2.1 ≠ 0 → t.hif.staged = []) ∧
      t.hif.heldCpl = (List.range 16).flatMap (fun k => (b.cplRing k).unconf) ++ b.hif.heldCpl ∧
      (let fresh := fun (f : Frame) => SpillFrame.mk { f with spilled := true } false
       let undo := fun (z : SpillFrame) => { z with sent := false }
       let all := b.hif.inFlight ++ b.hif.staged.map (·.frame)
       b.mem.share.2.1 ≠ 0 → b.contained 7 = false → (∀ f ∈ all, f.kind ≠ 2 ∧ f.kind ≠ 3) →
       spillBytes b.spill.general + (all.map (·.size)).foldl (· + ·) 0 ≤
        (b.get HIF_SPILL_SIZE_SIZE_MIB - b.get HIF_SPILL_SIZE_RESERVE_MIB) * 1048576 →
       t.spill.general = b.hif.inFlight.map fresh ++ b.spill.general.map undo ++ (b.hif.staged.map (·.frame)).map fresh ∧
       t.spill.reserved = b.spill.reserved.map undo) ∧
      ∀ k < 16, b.get (HIF_CMD_CTL_STATE k) = 1 ∨ b.get (HIF_CMD_CTL_STATE k) = 2 → t.get (HIF_CMD_CTL_STATE k) = 3) ∧
     (∀ sp w, b.pwr.perst = false → ∃ t, exec (.linkUp x sp w) s = .next t ∧ t.get HIF_STATUS_LINK_UP = 1 ∧
      (b.attach ≠ 1 → t.attach = b.attach)) ∧
     (∀ sp w, b.pwr.perst = false → b.attach = 1 → ∃ t, exec (.linkUp x sp w) s = .next t ∧ t.attach = 2 ∧
      t.get HIF_STATUS_LINK_UP = 1 ∧ t.get HIF_STATUS_SPEED ≤ max 1 (b.get HIF_CFG_MAX_SPEED) ∧ t.get HIF_EVENTS_LINK_UP = 1 ∧
      t.hif.msixEn = false ∧ t.hif.msixTable = [] ∧ (∀ k < 16, t.get (HIF_CMD_CTL_STATE k) = 0 ∧ t.get (HIF_CPL_CTL_STATE k) = 0) ∧
      ∀ m < 32, t.get (HIF_STR_CTL_STATE m) = 0) ∧
     (∀ sp w, b.pwr.perst = true → exec (.linkUp x sp w) s = .next b) ∧
     (b.attach ≠ 0 → ∃ t, exec (.perstNAssert x) s = .next t ∧ t.attach = 1 ∧ t.get HIF_STATUS_LINK_UP = 0 ∧ t.mode = b.mode ∧
      t.pwr.perst = true) ∧
     (b.attach = 0 → ∃ t, exec (.perstNAssert x) s = .next t ∧ t.mode = (if b.mode = 7 then 7 else 1) ∧
      t.get SYS_RESET_CAUSE_LAST = 3 ∧ t.pwr.perst = true) ∧
     (∀ (k : Fin 16) c rest, (b.cplRing k).unconf = c :: rest → (c.status = 0 → c.cmd ∉ b.hif.detachCmd ∧
        b.hif.dormCmd ≠ some c.cmd) → ∃ t, exec (.completionConfirmed x k) s = .next t ∧ (t.cplRing k).unconf = rest ∧
          Only [.now, .regs, .hif, .sch] s t) ∧
     (∀ (k : Fin 16) c rest, (b.cplRing k).unconf = c :: rest → c.status = 0 → c.cmd ∈ b.hif.detachCmd →
      b.hif.dormCmd ≠ some c.cmd → ∃ t, exec (.completionConfirmed x k) s = .next t ∧ t.attach = 1) ∧
     (∀ kind k, k < ringCount kind → b.get (ringState kind k) = 1 → b.mode ≠ 7 → ∃ t, exec (.fetchError x kind k) s = .next t ∧
      t.get (ringState kind k) = 4 ∧ t.get HIF_EVENTS_FETCH_ERR = 1 ∧ t.raised 20) ∧
     (∀ (k : Fin 16) f, (b.cplRing k).firstAt = some f → f + 1000 * b.get (HIF_CPL_COAL_US_US k) ≤ b.now → b.mode ≠ 7 →
      (let v := b.get (HIF_CPL_CTL_VEC k)
       ∃ t, exec (.coalesceTimeout x k) s = .next t ∧ (t.cplRing k).firstAt = none ∧ (t.cplRing k).unsig = 0 ∧
        (b.msixOpen v = true → t.outbox = b.outbox ++ [.msix v ((b.msixWord (4 * v)).toNat + 2 ^ 32 * (b.msixWord (4 * v + 1)).toNat)
          (b.msixWord (4 * v + 2)).toNat]) ∧
        (b.msixOpen v = false → t.outbox = b.outbox ∧ t.hif.pba = b.hif.pba ||| 2 ^ v))))

/-! ### The converter and the Weirs (R364 to R413) -/

/-- A trigger of the sequence starts a pass at the first modulator edge with its first enabled slot, or waits one deep
behind a running one (R373 to R375); an injected trigger starts its conversion on an idle converter (R377). The hardware
sources that a command presents are the pins 28 to 30 (log 78). -/
def Obligations.PmcTriggersStartConversions : Prop :=
  ∀ (s : State) (x : Nat), s.upAt x = true → (s.at x).pmcOn = true →
    (let b := s.at x
     let idle := b.pmc.conv = none ∧ b.pmc.pass = false ∧ b.pmc.cal = none
     let slots := (List.range (b.get PMC_SEQ_LEN)).filter (fun k => cfgEn (b.reg (PMC_SLOT_CFG k)))
     let begins := fun (t : State) (k : Nat) => t.pmc.pass = true ∧
      ∃ c, t.pmc.conv = some c ∧ c.slot = k ∧ c.x = edgeUp b.pmcNow * 15625 ∧ c.cfg = b.reg (PMC_SLOT_CFG k)
     (∀ src k rest, 28 ≤ src → src ≤ 30 → b.pmcTrigMode = 3 → b.pmcHwSrc = src → idle → slots = k :: rest →
      ∃ t, exec (.pmcTrigger x (.hw src)) s = .next t ∧ begins t k) ∧
     (∀ src, 28 ≤ src → src ≤ 30 → b.pmcTrigMode = 3 → b.pmcHwSrc = src → b.pmc.pass = true → b.pmc.pend = false →
      ∃ t, exec (.pmcTrigger x (.hw src)) s = .next t ∧ t.pmc = { b.pmc with pend := true }) ∧
     (∀ src, 28 ≤ src → src ≤ 30 → b.pmcTrigMode = 3 → b.pmcHwSrc = src → b.pmc.pass = true → b.pmc.pend = true →
      ∃ t, exec (.pmcTrigger x (.hw src)) s = .next t ∧ t.pmc = b.pmc ∧ t.get PMC_EVENTS_TRIG_OVR = 1) ∧
     (∀ k rest, b.pmcTrigMode = 2 → (b.gridOf b.now - 1000 * b.get PMC_GRID_OFS_US) % (1000 * b.get PMC_GRID_PERIOD_US : Nat) = 0 →
      idle → slots = k :: rest → ∃ t, exec (.pmcTrigger x .grid) s = .next t ∧ begins t k) ∧
     (∀ k rest, b.contDue = true → idle → (∀ i < 4, vget 0 b.pmc.wait i = 0) → slots = k :: rest →
      ∃ t, exec (.pmcTrigger x .continuous) s = .next t ∧ begins t k) ∧
     (∀ (j : Fin 4) src, 28 ≤ src → src ≤ 30 → b.on (PMC_INJ_TRIG_MODE j) = true → b.get (PMC_INJ_TRIG_HW_SRC j) = src →
      cfgEn (b.reg (PMC_INJ_CFG j)) = true → idle → (∀ i < 4, vget 0 b.pmc.wait i = 0) →
      ∃ t, exec (.pmcInjHwTrigger x j src) s = .next t ∧ ∃ c, t.pmc.conv = some c ∧ c.slot = 64 + j ∧ c.x = b.pmcNow))

/-- A completed conversion writes its result (R367, R368): a slot to its register, the last of a pass with PASS_DONE (R372);
an injected one to its own with INJ_DONE (R377). A calibration ends, with code 4 where its NV copy failed, which wins over
failed gains by the model's choice (R379, log 50). The reference leaving its limits raises 84 (R364), a die temperature at
its limits 12 and 11 (R431). -/
def Obligations.PmcResultsAreWritten : Prop :=
  ∀ (s : State) (x : Nat), s.upAt x = true →
    (let b := s.at x
     (∀ c outs, b.pmc.conv = some c → c.slot < 64 → b.convReady c outs = true → ∃ t, exec (.pmcResult x outs) s = .next t ∧
      (t.reg (PMC_SLOT_RESULT c.slot)).toNat % 2 ^ 24 = uenc (convCode c outs).1 24 ∧
      (b.slotsFrom (c.slot + 1) = [] → t.get PMC_EVENTS_PASS_DONE = 1) ∧ ((convCode c outs).2 = true → t.get PMC_EVENTS_OVR = 1)) ∧
     (∀ c outs, b.pmc.conv = some c → 64 ≤ c.slot → c.slot < 68 → b.convReady c outs = true →
      ∃ t, exec (.pmcInjResult x outs) s = .next t ∧
      (t.reg (PMC_INJ_RESULT (c.slot - 64))).toNat % 2 ^ 24 = uenc (convCode c outs).1 24 ∧ t.get PMC_EVENTS_INJ_DONE = 1) ∧
     (∀ c r ok, b.pmc.cal = some c → c.saveOnly = true ∨ b.pmcMeasuring = true → ∃ t, exec (.pmcCalDone x r ok) s = .next t ∧
      t.pmc.cal = none) ∧
     (∀ c r, b.pmc.cal = some c → c.saveOnly = true ∨ b.pmcMeasuring = true → (c.nv || c.saveOnly) = true →
      ∃ t, exec (.pmcCalDone x r false) s = .next t ∧ t.get PMC_CAL_RESULT_CODE = 4 ∧ t.nvs = b.nvs) ∧
     (∀ c r ok, b.pmc.cal = some c → b.pmcMeasuring = true → (c.nv || c.saveOnly) = false →
      ∃ t, exec (.pmcCalDone x r ok) s = .next t ∧ t.get PMC_CAL_RESULT_CODE = if t.get PMC_CAL_RESULT_FAIL = 0 then 0 else 1) ∧
     (∀ o, ∃ t, exec (.refFail x o) s = .next t ∧ t.pmc.refBad = o ∧ t.pmc.refOk = !o) ∧
     (b.get PMC_EVENTS_REF_FAIL = 0 → ∃ t, exec (.refFail x true) s = .next t ∧ t.get PMC_EVENTS_REF_FAIL = 1 ∧ t.raised 84) ∧
     (∀ v : Int, ∃ t, exec (.dieTempUpdate x v) s = .next t ∧ t.get PMC_DIE_TEMP_TEMP = uenc v 16 ∧ t.get PMC_DIE_TEMP_VALID = 1 ∧
      ((t.get FLT_CFG_THERM_LIMIT : Int) ≤ t.getI PMC_DIE_TEMP_TEMP → t.raised 12) ∧
      (12500 ≤ t.getI PMC_DIE_TEMP_TEMP → t.raised 11)))

/-- Weirs: an input that crosses a used, gated threshold sets the latch (R397, R399); a gate window of a launch opens for
its duration, one that opens before its launch with that launch (R402, log 52); AUTO_CLR clears a quiet latch at frame starts
(R400), those of the settings that a group brings before then included; the return of VDD_A18 makes every enabled Weir
UNRESOLVED with its latch set (R403), and a Weir safe for long enough resolves, its latch staying (R404). The end of a
settle time changes only the time. -/
def Obligations.WeirsLatchAndResolve : Prop :=
  ∀ (s : State) (x : Nat) (m : Fin 16), s.upAt x = true →
    (let b := s.at x
     (∀ v, ∃ t, exec (.weirCrossing x m v) s = .next t ∧ (t.weir m).level = v) ∧
     (∀ v, b.weirEn m = true → (b.weir m).unres = none → upperUsed b.regs m = true → weirHi b.regs m < v → b.weirGate m = true →
      (b.weir m).act = false → ∃ t, exec (.weirCrossing x m v) s = .next t ∧ t.get (latchBit m) = 1 ∧
        t.get (WMN_EVENTS_SET.bit m) = 1) ∧
     (∀ v, b.weirEn m = true → (b.weir m).unres = none → lowerUsed b.regs m = true → v < weirLo b.regs m → b.weirGate m = true →
      (b.weir m).act = false → ∃ t, exec (.weirCrossing x m v) s = .next t ∧ t.get (latchBit m) = 1 ∧
        t.get (WMN_EVENTS_SET.bit m) = 1) ∧
     (b.on (WMN_WM_CFG_GATE_EN m) = true →
      (b.aheadTo (b.get (WMN_WM_CFG_FE m)) (b.weirLaunch m)).launchAt (b.get (WMN_WM_CFG_FE m)) (b.weirLaunch m) = true →
      ∃ t, exec (.weirGateOpen x m) s = .next t ∧
        (b.gridOf b.now < b.weirLaunch m → (b.weirLaunch m, b.now + b.get (WMN_WM_GATE_DUR_DUR m)) ∈ (t.weir m).gNext) ∧
        (b.weirLaunch m ≤ b.gridOf b.now → (t.weir m).gEnd = max ((b.weirSync m).weir m).gEnd (b.now + b.get (WMN_WM_GATE_DUR_DUR m)))) ∧
     ((b.aheadTo (b.get (WMN_WM_CFG_FE m)) (b.gridOf b.now)).frameNow (b.get (WMN_WM_CFG_FE m)) = false →
      exec (.weirAutoClear x m) s = .next b) ∧
     (b.weirEn m = true → b.on (WMN_WM_CFG_AUTO_CLR m) = true →
      (b.aheadTo (b.get (WMN_WM_CFG_FE m)) (b.gridOf b.now)).frameNow (b.get (WMN_WM_CFG_FE m)) = true →
      b.weirOut m = false → (b.weir m).unres = none → (b.weir m).actAt ≠ some b.now →
      ∃ t, exec (.weirAutoClear x m) s = .next t ∧ t.get (latchBit m) = 0) ∧
     (∃ t, exec (.vddA18Return x) s = .next t ∧ ∀ k < 16, b.weirEn k = true →
      t.get (WMN_STATUS_UNRESOLVED.bit k) = 1 ∧ t.get (latchBit k) = 1) ∧
     (∀ e, (b.weir m).unres = some e → b.weirSafe m (b.weir m).level = true → b.resolvedAt m e ≤ b.now →
      ∃ t, exec (.resolved x m (b.weir m).level) s = .next t ∧ (t.weir m).unres = none ∧ t.get (WMN_STATUS_UNRESOLVED.bit m) = 0 ∧
        t.get WMN_EVENTS_RESOLVED = 1 ∧ t.get (latchBit m) = b.get (latchBit m)) ∧
     exec (.weirSettleEnd x m) s = .next b)

/-- Threshold readback: the oldest result, started after the threshold was written, is checked against it; an error beyond
TOL is BAD, with source 90 + m where the Weir has a route (R411, R412); a threshold not checked for PERIOD_MS is STALE, with
source 89 (R413). -/
def Obligations.ThresholdsAreReadBack : Prop :=
  ∀ (s : State) (x : Nat) (m : Fin 16) (up : Bool), s.upAt x = true →
    (let b := s.at x
     let th := (b.weir m).thr up
     b.on WMN_RB_CFG_EN = true → b.thrUsed m up = true →
     (∀ u st rest, th.res = (u, st) :: rest → th.wr ≤ st →
      (let err := u - uExp (b.get (if up then WMN_WM_THR_HI m else WMN_WM_THR_LO m))
       let far := decide (rha (b.get WMN_RB_CFG_TOL * 2 ^ 23) 1250 < err.natAbs)
       (∃ t, exec (.rbCheck x m up) s = .next t ∧ ((t.weir m).thr up).res = rest ∧ ((t.weir m).thr up).stale = false ∧
        ((t.weir m).thr up).chk = b.now ∧ t.get (WMN_RB_STATUS_BAD.bit m) = far.toNat) ∧
       (far = true → ∃ t, exec (.rbCheck x m up) s = .next t ∧ t.get WMN_EVENTS_RB_MISMATCH = 1 ∧
        (b.get (WMN_WM_CFG_ROUTE m) ≠ 0 → t.raised (90 + m))))) ∧
     (∀ u st rest, th.res = (u, st) :: rest → st < th.wr → ∃ t, exec (.rbCheck x m up) s = .next t ∧
      ((t.weir m).thr up).res = rest ∧ ((t.weir m).thr up).chk = th.chk ∧ t.regs = b.regs) ∧
     (th.stale = false → th.chk + 1000000 * b.get WMN_RB_CFG_PERIOD_MS ≤ b.now → ∃ t, exec (.rbStale x m up) s = .next t ∧
      ((t.weir m).thr up).stale = true ∧ t.get WMN_EVENTS_RB_STALE = 1 ∧ t.get (WMN_RB_STATUS_STALE.bit m) = 1 ∧
      (b.get (WMN_WM_CFG_ROUTE m) ≠ 0 → (b.weir m).raised = false → t.raised 89)))

/-! ### Faults (R418 to R443, R554, R555) -/

/-- A capture marks its source; out of SAFE_HOLD it opens or joins the notification window (R418, R432), a class U source
contains its scopes (R422) and a class F source latches SAFE_HOLD with its cause, the lowest number of those captured in one
collector cycle (R428; a cycle is 4 ns, log 67). A source that has not left (1,0) is not captured again (R418). A wire fault
marks WIRE and is a capture (R419). Before a capture of sources 24 to 27 the clamps of their engine are accounted (log 76).
-/
def Obligations.CapturesReactByClass : Prop :=
  ∀ (s : State) (x : Nat) (i : Fin 128), s.upAt x = true → i.val < 116 →
    (let a := s.at x
     let b := if 24 ≤ i.val ∧ i.val < 28 then a.lncSync (i.val - 24) else a
     let bit := fun (w : Word) => w.getLsbD (i.val % 32)
     (vget true b.flt.armed i = true → ∃ t, exec (.faultCapture x i) s = .next t ∧ bit (t.reg (FLT_STICKY (i.val / 32))) = true ∧
      vget true t.flt.armed i = false ∧ t.raised i) ∧
     (vget true b.flt.armed i = true → b.on FLT_STATUS_SAFE_HOLD = false → srcClass i = 0 →
      ∃ t, exec (.faultCapture x i) s = .next t ∧ t.flt.window.isSome = true ∧ t.mode = b.mode ∧
        t.get FLT_STATUS_CONTAINED = b.get FLT_STATUS_CONTAINED) ∧
     (vget true b.flt.armed i = true → b.on FLT_STATUS_SAFE_HOLD = false → srcClass i = 1 →
      ∃ t, exec (.faultCapture x i) s = .next t ∧ t.flt.window.isSome = true ∧
        ∀ k < 8, (b.srcScopes i).testBit k = true → t.contained k = true) ∧
     (vget true b.flt.armed i = true → b.on FLT_STATUS_SAFE_HOLD = false → srcClass i = 2 →
      ∃ t, exec (.faultCapture x i) s = .next t ∧ t.mode = 7 ∧ t.latched = true ∧ t.get FLT_SH_CAUSE_SOURCE = i ∧
        ∀ n < 4, (t.reg (LNC_TRIP_CAUSE n)).getLsbD 2 = true) ∧
     (∀ a, vget true b.flt.armed i = true → b.on FLT_STATUS_SAFE_HOLD = true → srcClass i = 2 → b.flt.fatal = some a →
      ∃ t, exec (.faultCapture x i) s = .next t ∧ t.get FLT_SH_CAUSE_SOURCE =
        if a.t / 4 = b.now / 4 ∧ i.val < b.get FLT_SH_CAUSE_SOURCE then i.val else b.get FLT_SH_CAUSE_SOURCE) ∧
     (vget true b.flt.armed i = false → ∃ t, exec (.faultCapture x i) s = .next t ∧ t.raised i ∧ t.flt.window = b.flt.window ∧
      ∀ o, t.reg o = b.reg o) ∧
     (vget true a.flt.wireArmed i = true → ∃ t, exec (.wireFault x i) s = .next t ∧ bit (t.reg (FLT_STICKY (i.val / 32))) = true ∧
      bit (t.reg (FLT_WIRE (i.val / 32))) = true ∧ t.get FLT_EVENTS_WIRE = 1) ∧
     (vget true a.flt.wireArmed i = true → a.on FLT_STATUS_SAFE_HOLD = false → srcClass i = 2 →
      ∃ t, exec (.wireFault x i) s = .next t ∧ t.mode = 7 ∧ t.latched = true ∧ t.get FLT_SH_CAUSE_SOURCE = i))

/-- A window closes with C_RAISED after 1 us or with U_RAISED, and a containment of APP takes a live mode to RECOVERY (R434,
R482); an injection ends with its command (R440); a source whose state is gone returns to (0,1), or to the pair that an
injection drives, and may be captured again (R437, R442, R555; which event clears it is the model's choice, log 86); the
cores' release completes RECOVER (R439). -/
def Obligations.WindowsAndInjectionsEnd : Prop :=
  ∀ (s : State) (x : Nat), s.upAt x = true →
    (let b := s.at x
     (∀ w, b.flt.window = some w → w.cls = 0 → w.opened + 1000 ≤ b.now → ∃ t, exec (.windowClose x) s = .next t ∧
      t.flt.window = none ∧ t.get FLT_STATUS_WINDOW_OPEN = 0 ∧ t.get FLT_EVENTS_C_RAISED = 1) ∧
     (∀ w, b.flt.window = some w → w.cls = 1 → ∃ t, exec (.windowClose x) s = .next t ∧ t.flt.window = none ∧
      t.get FLT_STATUS_WINDOW_OPEN = 0 ∧ t.get FLT_EVENTS_U_RAISED = 1) ∧
     (∀ w, b.flt.window = some w → w.cls = 1 → w.scopes.testBit 4 = true → b.mode = 2 ∨ b.mode = 3 ∨ b.mode = 4 →
      ∃ t, exec (.windowClose x) s = .next t ∧ t.flt.window = none ∧ t.mode = 6) ∧
     (∀ w, b.flt.window = some w → w.cls = 2 ∨ (w.cls = 0 ∧ b.now < w.opened + 1000) → exec (.windowClose x) s = .next b) ∧
     (∀ j real, b.flt.inj = some j → j.start + j.dur + 1000 ≤ b.now → j.cmd.ring < 20 →
      ∃ t, exec (.injectionWindowEnd x real) s = .next t ∧ t.flt.inj = none ∧ t.get FLT_INJ_ACTIVE = 0 ∧
        t.get FLT_EVENTS_INJ_DONE = 1 ∧ ¬ t.runs j.cmd) ∧
     (∀ i : Fin 128, (b.srcHolds i || b.injHolds i) = false → ∃ t, exec (.sourceCleared x i) s = .next t ∧
      vget .ok t.flt.rails i = .ok ∧ vget true t.flt.armed i = true) ∧
     (∀ i : Fin 128, i.val ≠ 9 → i.val ≠ 10 → b.srcHolds i = true → exec (.sourceCleared x i) s = .next b) ∧
     (∀ (i : Fin 128) j, i.val ≠ 9 → i.val ≠ 10 → b.srcHolds i = false → b.injHolds i = true → b.flt.inj = some j → j.real = false →
      exec (.sourceCleared x i) s = .next b) ∧
     (∀ (i : Fin 128) j, b.srcHolds i = false → b.injHolds i = true → b.flt.inj = some j → j.real = true →
      ∃ t, exec (.sourceCleared x i) s = .next t ∧ vget .ok t.flt.rails i = (if j.kind = 0 then .err else .ok) ∧
        t.flt.inj = some { j with real := false }) ∧
     (∀ c mask, b.flt.recover = some (c, mask) → c.ring < 20 → ∃ t, exec (.appCoresReleased x) s = .next t ∧
      t.flt.recover = none ∧ t.pwr.appUp = true ∧ ¬ t.runs c))

/-- The monitors raise their sources: a failed self-test of the collector 5, the watchdogs 4 and 23, a dipping rail whose
group is good 9 or 10 (R431, R523); a passed self-test changes nothing, nor does a dip of a group whose monitors are not
armed. -/
def Obligations.MonitorsRaiseTheirSources : Prop :=
  ∀ (s : State) (x : Nat), s.upAt x = true →
    (∃ t, exec (.fltSelftest x false) s = .next t ∧ t.raised 5) ∧ exec (.fltSelftest x true) s = .next (s.at x) ∧
    (∃ t, exec (.polWdt x) s = .next t ∧ t.raised 4) ∧ (∃ t, exec (.appWdt x) s = .next t ∧ t.raised 23) ∧
    (∀ rail : RailDip, (s.at x).pwr.aon = true → (s.at x).railGroup (if rail.core then 0 else rail.group) = true →
      ∃ t, exec (.pwrUvRail x rail) s = .next t ∧ t.raised (if rail.core then 9 else 10)) ∧
    (∀ rail : RailDip, (s.at x).railGroup (if rail.core then 0 else rail.group) = false →
      exec (.pwrUvRail x rail) s = .next (s.at x))

/-! ### Memory (R449 to R477) -/

/-- Refresh: a tick owes one more, or is missed at eight with source 80 (R460); a window issues what is owed and one more,
at most nine (R460); an MR4 field that calls for it doubles the rate, and is shown (R461, R462). Self-refresh counts its
entries, which wait for IDLE_US without an access, and an exit owes nothing (R464 to R466). Which MR4 codes double
the rate is presumed (log 11), and which accesses a command stands for is the model's choice (log 51). -/
def Obligations.RefreshKeepsItsCount : Prop :=
  ∀ (s : State) (x : Nat) (c : Fin 4), s.upAt x = true →
    (let b := s.at x
     let o := b.getI (MEM_CH_STATUS_OWED c)
     (b.refreshing c = true → o ≠ 8 → ∃ t, exec (.refreshTick x c) s = .next t ∧ t.get (MEM_CH_STATUS_OWED c) = uenc (o + 1) 6) ∧
     (b.refreshing c = true → o = 8 → ∃ t, exec (.refreshTick x c) s = .next t ∧ t.getI (MEM_CH_STATUS_OWED c) = 8 ∧
      t.get MEM_EVENTS_REF_MISS = 1 ∧ t.raised 80) ∧
     (b.refreshing c = true → ∃ t, exec (.refreshWindow x c) s = .next t ∧
      t.get (MEM_CH_STATUS_OWED c) = uenc (o - min 9 (o + 1).toNat) 6 ∧
      t.get (MEM_CH_REF_CNT_COUNT c) = (b.get (MEM_CH_REF_CNT_COUNT c) + min 9 (o + 1).toNat) % 2 ^ 32) ∧
     (∀ f : BitVec 5, b.refreshing c = true → ∃ t, exec (.mr4Poll x c f) s = .next t ∧ t.get (MEM_CH_STATUS_MR4 c) = f.toNat) ∧
     (∀ f : BitVec 5, b.refreshing c = true → b.get (MEM_CH_STATUS_DOUBLED c) = 0 → 0x0B ≤ f.toNat →
      ∃ t, exec (.mr4Poll x c f) s = .next t ∧ t.get (MEM_CH_STATUS_DOUBLED c) = 1 ∧ t.get MEM_EVENTS_RATE_DOUBLE = 1) ∧
     (b.refreshing c = true → b.on MEM_CTL_SR_EN = true → b.srInhibit c = false → b.srIdle c = true →
      ∃ t, exec (.srEnter x c) s = .next t ∧ t.get (MEM_CH_STATUS_SR c) = 1 ∧ t.get MEM_EVENTS_SR_ENTER = 1 ∧
        t.get (MEM_CH_SR_CNT_COUNT c) = (b.get (MEM_CH_SR_CNT_COUNT c) + 1) % 2 ^ 32) ∧
     (b.srIdle c = false → exec (.srEnter x c) s = .next b) ∧
     (∀ k, b.refreshing c = true → ∃ t, exec (.srExit x c true k) s = .next t ∧ t.get MEM_EVENTS_SR_ABANDON = 1 ∧
      t.get (MEM_CH_STATUS_SR c) = b.get (MEM_CH_STATUS_SR c)) ∧
     (∀ k, b.inSr c = true → ∃ t, exec (.srExit x c false k) s = .next t ∧ t.get (MEM_CH_STATUS_SR c) = 0 ∧
      t.get (MEM_CH_STATUS_OWED c) = 0 ∧ vget none t.mem.srExit c = some b.now))

/-- The memory units: an eye case that fails raises 81 once (R474); a scrub pass is counted (R451); Berm and DRAM
initialisation set INIT_DONE, the DRAM's with the capacity (R452, R471); a test run ends with its failing lines (R473), a
dump with HIST_DONE once its frames have room, or where its ring does not run (R477). -/
def Obligations.MemoryUnitsFinish : Prop :=
  ∀ (s : State) (x : Nat), s.upAt x = true →
    (let b := s.at x
     (∀ c : Fin 4, b.on MEM_CTL_EYE_EN = true → b.refreshing c = true → b.get MEM_EVENTS_EYE_LOW = 0 →
      ∃ t, exec (.eyeMonitorRound x c false) s = .next t ∧ t.get MEM_EVENTS_EYE_LOW = 1 ∧ t.raised 81) ∧
     (∀ errs, b.on BRM_SCRUB_CFG_EN = true → b.ladder ≤ 3 → ∃ t, exec (.scrubPass x errs) s = .next t ∧
      t.get BRM_PASS_CNT_COUNT = (b.get BRM_PASS_CNT_COUNT + 1) % 2 ^ BRM_PASS_CNT_COUNT.w ∧ t.get BRM_EVENTS_SCRUB_PASS = 1) ∧
     (∃ t, exec (.bermInitDone x) s = .next t ∧ t.get BRM_STATUS_INIT_DONE = 1) ∧
     (b.mem.initRun = true → ∃ t, exec (.memInitDone x) s = .next t ∧ t.get MEM_STATUS_INIT_DONE = 1 ∧ t.mem.initRun = false ∧
      t.get MEM_EVENTS_INITED = 1 ∧ t.get MEM_CAP_MIB = b.capMib % 2 ^ MEM_CAP_MIB.w) ∧
     (∀ f : BitVec 26, b.on MEM_TEST_CTL_BUSY = true → ∃ t, exec (.testRunDone x f) s = .next t ∧ t.get MEM_TEST_CTL_BUSY = 0 ∧
      (t.reg MEM_TEST_FAIL).toNat = f.toNat) ∧
     (∀ d, b.mem.dump = some d → d.todo = [] → ∃ t, exec (.histDone x) s = .next t ∧ t.mem.dump = none ∧
      t.get MEM_EVENTS_HIST_DONE = 1 ∧ t.mem.hist = b.mem.hist) ∧
     (∀ d, b.mem.dump = some d → d.todo ≠ [] → exec (.histDone x) s = .next b))

/-! ### Power, boot, reset, the NV store (R482 to R540) -/

/-- The ladder goes down where it picks a state and up where its work is due or a register is read (R497, R499). From L4
WAKE_N, the alarm, MCS_N low, the receiver, PERST_N rising and a fault capture lead to L0, from L5 all of these but the
receiver and the capture start the power-up, from DORMANT WAKE_N, the alarm and MCS_N do (R500); each names itself in
WAKE_CAUSE. Entries and exits take no time of their own here (the model's choice, log 60). In L5 a disagreement of the
latch's copies latches Safe-Hold with its cause (R502). Step 5 after L5 resumes the mode at L0 where the digest holds and no
Safe-Hold is latched, and else goes on to step 6 in BOOT (R500); registers that firmware then writes are left to their
writes. -/
def Obligations.LadderAndWakes : Prop :=
  ∀ (s : State) (x : Nat),
    (let b := s.at x
     let alarm := b.on PWR_WAKE_CFG_RTC_EN = true ∧ b.get2 PWR_ALARM_LO_TICKS PWR_ALARM_HI_TICKS ≤ b.rtcTicks
     let mcs := b.on PWR_WAKE_CFG_SPI_EN = true
     let ready := b.pwr.aon = true ∧ b.pwr.step = 0
     let up := fun (t : State) (n : Nat) => t.ladder = 0 ∧ t.get PWR_WAKE_CAUSE_SOURCE = n ∧ t.mode = b.mode
     let powers := fun (t : State) (n : Nat) => t.pwr.step = 1 ∧ t.pwr.wakeAt = b.now ∧ t.get PWR_WAKE_CAUSE_SOURCE = n ∧
      t.mode = if b.mode = 0 then 1 else b.mode
     (b.mainUp = true → b.mode ≠ 0 → b.ladder = 0 → 1 ≤ b.ladderPick → b.ladderPick ≤ 5 → ∃ t, exec (.ladderEntry x) s = .next t ∧
      t.ladder = b.ladderPick) ∧
     (b.mainUp = true → 1 ≤ b.ladder → b.ladder ≤ 3 → b.ladderTarget true < b.ladder → ∃ t, exec (.ladderExit x) s = .next t ∧
      t.ladder = 0) ∧
     (b.mainUp = true → 1 ≤ b.ladder → b.ladder ≤ 3 → ∃ t, exec (.barAccessWake x) s = .next t ∧ t.ladder = 0) ∧
     (ready → b.mode ≠ 0 → b.ladder = 4 → (∃ t, exec (.wakeN x) s = .next t ∧ up t 1) ∧
      (alarm → ∃ t, exec (.rtcAlarm x) s = .next t ∧ up t 2) ∧ (∃ t, exec (.pcieReceiverDetected x) s = .next t ∧ up t 4) ∧
      (∃ t, exec (.perstNRelease x) s = .next t ∧ up t 5 ∧ t.pwr.perst = false) ∧ (mcs → ∀ c a d r,
        ∃ t, exec (.spiTransaction x c a d r) s = .next t ∧ up t 3)) ∧
     (∀ i : Fin 128, s.upAt x = true → b.ladder = 4 → i.val < 116 → vget true b.flt.armed i = true →
      b.on FLT_STATUS_SAFE_HOLD = false → ∃ t, exec (.faultCapture x i) s = .next t ∧ t.ladder = 0 ∧ t.get PWR_WAKE_CAUSE_SOURCE = 6) ∧
     (ready → b.mode ≠ 0 → b.ladder = 5 → (∃ t, exec (.wakeN x) s = .next t ∧ powers t 1) ∧
      (alarm → ∃ t, exec (.rtcAlarm x) s = .next t ∧ powers t 2) ∧ exec (.pcieReceiverDetected x) s = .next b ∧
      (∃ t, exec (.perstNRelease x) s = .next t ∧ powers t 5 ∧ t.pwr.perst = false) ∧ (mcs → ∀ c a d r,
        ∃ t, exec (.spiTransaction x c a d r) s = .next t ∧ powers t 3)) ∧
     (ready → b.mode = 0 → b.ladder = 6 → (∃ t, exec (.wakeN x) s = .next t ∧ powers t 1 ∧ t.ladder = 0) ∧
      (alarm → ∃ t, exec (.rtcAlarm x) s = .next t ∧ powers t 2 ∧ t.ladder = 0) ∧ (mcs → b.mainUp = false → ∀ c a d r,
        ∃ t, exec (.spiTransaction x c a d r) s = .next t ∧ powers t 3 ∧ t.ladder = 0)) ∧
     (b.mode = 0 → exec (.pcieReceiverDetected x) s = .next b ∧
      exec (.perstNRelease x) s = .next { b with pwr := { b.pwr with perst := false } }) ∧
     (b.pwr.aon = true → b.ladder = 5 → ∃ t, exec (.faultCapture x 6) s = .next t ∧ t.latched = true ∧
      t.get FLT_SH_CAUSE_SOURCE = 6 ∧ t.mode = b.mode) ∧
     (∀ i : BootInfo, b.pwr.aon = true → b.ladder = 5 → b.pwr.step = 5 → b.pwr.porst = false → i.digestOk = true → b.latched = false →
      i.records = [] → i.restores = [] → b.nvs.records = [] → ∃ t, exec (.bootStepDone x i) s = .next t ∧ t.ladder = 0 ∧
        t.mode = b.mode ∧ t.pwr.step = 0 ∧ t.get PWR_BOOT_STATUS_FAST = 1) ∧
     (∀ i : BootInfo, b.pwr.aon = true → b.ladder = 5 → b.pwr.step = 5 → b.pwr.porst = false → i.digestOk = false ∨ b.latched = true →
      ∃ t, exec (.bootStepDone x i) s = .next t ∧ t.ladder = 0 ∧ t.mode = 1 ∧ t.pwr.step = 6))

/-- The rails come up one step at a time, each STEP_MS after the last was driven, with their good bit (R504); a rail that
misses its threshold powers the device down to DORMANT with RAIL_FAIL, no sooner than 10 ms after its step (R505; what a
power-down leaves is the model's choice, log 85). The boot then runs its steps (R506 to R508): the NV store is ready at 5; 6
finds SAFE_HOLD latched, or an image whose version is permitted, or fails with code 2; 8 starts the application, or fails with
code 3; a word that cannot be read fails both with code 4 (log 18); 11 enters the boot target mode (R482). -/
def Obligations.RailsAndBootSteps : Prop :=
  ∀ (s : State) (x : Nat),
    (let b := s.at x
     let k := b.pwr.step
     (b.pwr.aon = true → 1 ≤ k → k ≤ 4 → b.pwr.stepAt + b.stepNs ≤ b.now →
      ∃ t, exec (.powerSequenceStep x true) s = .next t ∧ t.pwr.step = k + 1 ∧ t.pwr.stepAt = b.now ∧ t.pwr.good.testBit (k - 1) = true ∧
        (b.pwr.low = 0 → (PWR_STATUS_PG.of (t.live PWR_STATUS)).testBit (k - 1) = true)) ∧
     (b.now < b.pwr.stepAt + b.stepNs → ∀ g, exec (.powerSequenceStep x g) s = .next b) ∧
     (b.pwr.aon = true → 1 ≤ k → k ≤ 4 → b.pwr.stepAt + 10000000 ≤ b.now →
      ∃ t, exec (.railFail x) s = .next t ∧ t.pwr.step = 0 ∧ t.mode = 0 ∧ t.ladder = 6 ∧ t.pwr.good = 0 ∧
        PWR_STATUS_PG.of (t.live PWR_STATUS) = 0 ∧
        t.get PWR_BOOT_STATUS_CODE = 1 ∧ t.get PWR_EVENTS_RAIL_FAIL = 1) ∧
     (b.pwr.aon = true → 1 ≤ k → k ≤ 4 → b.now < b.pwr.stepAt + 10000000 → exec (.railFail x) s = .next b) ∧
     (b.mainUp = true → ∀ i : BootInfo,
      (k = 0 → exec (.bootStepDone x i) s = .next b) ∧
      (k = 5 → ∃ t, exec (.bootStepDone x i) s = .next t ∧ t.pwr.step = 6 ∧ t.get NVS_STATUS_READY = 1) ∧
      (k = 6 → b.latched = true → ∃ t, exec (.bootStepDone x i) s = .next t ∧ t.mode = 7 ∧ t.pwr.step = 0 ∧
        t.get FLT_STATUS_SAFE_HOLD = 1) ∧
      (k = 6 → b.latched = false → slotPick (b.minVer 0) i = none ∨ i.nvUe = true → ∃ t, exec (.bootStepDone x i) s = .next t ∧ t.pwr.step = 0 ∧
        t.pwr.bootFail = true ∧ t.get PWR_BOOT_STATUS_CODE = (if i.nvUe then 4 else 2) ∧ t.get PWR_EVENTS_BOOT_FAIL = 1) ∧
      (∀ v, k = 6 → b.latched = false → slotPick (b.minVer 0) i = some v → i.nvUe = false → ∃ t, exec (.bootStepDone x i) s = .next t ∧ t.pwr.step = 7 ∧
        t.get PWR_BOOT_STATUS_GNOWA_SLOT = v.toNat) ∧
      (k = 7 → ∃ t, exec (.bootStepDone x i) s = .next t ∧ t.pwr.step = 8) ∧
      (k = 8 → slotPick (b.minVer 1) i = none ∨ i.nvUe = true → ∃ t, exec (.bootStepDone x i) s = .next t ∧ t.pwr.step = 0 ∧
        t.pwr.bootFail = true ∧ t.get PWR_BOOT_STATUS_CODE = (if i.nvUe then 4 else 3) ∧ t.get PWR_EVENTS_BOOT_FAIL = 1) ∧
      (∀ v, k = 8 → slotPick (b.minVer 1) i = some v → i.nvUe = false → b.contained 4 = false → ∃ t, exec (.bootStepDone x i) s = .next t ∧ t.pwr.step = 9 ∧
        t.pwr.appUp = true) ∧
      (k = 9 → ∃ t, exec (.bootStepDone x i) s = .next t ∧ t.pwr.step = 10) ∧
      (k = 10 → b.mode = 1 → ∃ t, exec (.bootStepDone x i) s = .next t ∧ t.pwr.step = 11) ∧
      (k = 11 → b.contained 4 = false → ∃ t, exec (.bootStepDone x i) s = .next t ∧ t.pwr.step = 0 ∧
        t.mode = (if i.target = 3 ∨ i.target = 4 ∨ i.target = 6 then i.target else 2))))

/-- PORST_N low resets an up main domain cold, to BOOT, or SAFE_HOLD where it is latched, and holds it until it rises (R510,
R528); with its rise SAFE_N asserts the trip inputs again while it is low (R85). Without VDD_AON the device is off, and with
its return the always-on island starts as at reset (R503, R524). -/
def Obligations.PowerOnResets : Prop :=
  ∀ (s : State) (x : Nat),
    (let b := s.at x
     (∃ t, exec (.porstNAssert x) s = .next t ∧ t.pwr.porst = true ∧ t.mainUp = false) ∧
     (b.mainUp = true → b.pwr.good = 15 → ∃ t, exec (.porstNAssert x) s = .next t ∧ t.mode = (if b.latched then 7 else 1) ∧ t.pwr.step = 5 ∧
      t.get SYS_RESET_CAUSE_LAST = 2 ∧ t.hostMem = b.hostMem ∧ t.latched = b.latched) ∧
     (∃ t, exec (.porstNRelease x) s = .next t ∧ t.pwr = { b.pwr with porst := false } ∧
      (b.safeN = false → Only [.now, .regs, .sch, .pwr] s t)) ∧
     (b.safeN = true → ∃ t, exec (.porstNRelease x) s = .next t ∧
      (t.mainUp = true → ∀ n < 4, (t.reg (LNC_TRIP_CAUSE n)).getLsbD 1 = true ∧ t.lstate n ≠ 2)) ∧
     (b.pwr.aon = true → ∃ t, exec (.vddAonFall x) s = .next t ∧ t.pwr.aon = false ∧ t.mode = 0 ∧ t.latched = b.latched) ∧
     (b.pwr.aon = false → ∃ t, exec (.vddAonRise x) s = .next t ∧ t.pwr.aon = true ∧ t.mode = 1 ∧ t.pwr.step = 1 ∧ t.latched = b.latched))

/-! ### Frames -/

/-- What commands leave as it was: of every command with a frame, the components of the state and the register blocks (R543)
outside it; all of host memory where the frame does not name it. Two commands power the device down in DORMANT, and keep the
rest in every other mode. -/
def Obligations.CommandsKeepTheRest : Prop :=
  ∀ (c : Instr) (s t : State) (cs : List Comp) (bs : List Nat), frameOf c = some (cs, bs) → s.staysUp c → exec c s = .next t →
    Only cs s t ∧ Kept bs s t

/-- The commands of few effects change no register but those of their list, and SCH.EPOCH as time passes. -/
def Obligations.SmallCommandsKeepOtherRegisters : Prop :=
  ∀ (c : Instr) (s t : State) (l : List Nat), regFrameOf c = some l → exec c s = .next t → KeptBut (SCH_EPOCH :: l) s t

/-- A write of one register, taken or refused, leaves the register blocks and the components of the state on which its block
does not act; and the rows that name a register are the writes of that register. -/
def Obligations.RegisterWritesKeepTheRest : Prop :=
  (∀ (s : State) (b : Bus) (off : Nat) (v : Word), off < 0x400000 → off ≠ SYS_RESET → s.reaches b →
    ∃ t, exec (.registerWrite b off 4 (v.setWidth 64)) s = .next t ∧ Kept (writeBlocks (off / 65536)) s t ∧
      Only (writeComps (off / 65536)) s t) ∧
  (∀ (s : State) (b : Bus) (v : Word) (c : Instr) (off : Nat), (c, off) ∈ [(Instr.alignArm b v, TIM_ALIGN),
      (.alignAbort b v, TIM_ALIGN), (.epochLoWrite b v, TIM_EPOCH_LO), (.epochHiWrite b v, TIM_EPOCH_HI),
      (.syncInDisable b v, TIM_SYNC_CFG), (.pmcSeqStart b v, PMC_SEQ), (.pmcSeqStop b v, PMC_SEQ), (.pmcCalStart b v, PMC_CAL_CTL),
      (.pmcDisable b v, PMC_CTL), (.weirLatchClear b v, WMN_LATCH), (.memInit b v, MEM_CTL), (.memTestStart b v, MEM_TEST_CTL),
      (.histDump b v, MEM_HIST_CTL), (.warmReset b v, SYS_RESET)] →
    exec c s = exec (.registerWrite b off 4 (v.setWidth 64)) s) ∧
  (∀ (s : State) (b : Bus) (v : Word) (c : Instr) (off : Nat), (∃ i, c = .qinLoad b i v ∧ off = TRK_QIN_LOAD i) ∨
      (∃ i, c = .cmpValueWrite b i v ∧ off = TRK_CMP_VALUE i) ∨ (∃ i, c = .trackIdWrite b i v ∧ off = TRK_ENC_TRACK_ID i) ∨
      (∃ i, c = .pmcInjStart b i v ∧ off = PMC_INJ_TRIG i) ∨ (∃ i, c = .clearIds b i v ∧ off = HIF_CMD_CTL i) ∨
      (∃ i, c = .weirConfigWrite b i true v ∧ off = WMN_WM_THR i) ∨ (∃ i, c = .weirConfigWrite b i false v ∧ off = WMN_WM_CFG i) ∨
      (∃ kind i, i < ringCount kind ∧ (c = .ringEnable b kind i v ∨ c = .ringDisable b kind i v) ∧ off = ringCtl kind i) →
    exec c s = exec (.registerWrite b off 4 (v.setWidth 64)) s)

/-- Host memory. The completion of NOP: where its ring is open, has room and holds none back, its 32 bytes are in the slot of
the tail, the tail has moved on, and every other byte of host memory is as it was (R328, R330); otherwise it is held and host
memory is as it was. The end of an NV write, of a PMC calibration, and a Weir's crossing write nothing but completions, in
entries of the completion rings; the frame writers nothing but the buffers and the descriptors of a stream ring; the log
writer its 9,280 bytes and a completion. -/
def Obligations.CompletionsFillOneSlot : Prop :=
  (∀ (s t : State) (x a : Nat), (∀ k < 16, (s.at x).inRing .cpl k a = false) →
    (∀ ok, exec (.nvWriteDone x ok) s = .next t → tget 0 t.hostMem a = tget 0 s.hostMem a) ∧
    (∀ r ok, exec (.pmcCalDone x r ok) s = .next t → tget 0 t.hostMem a = tget 0 s.hostMem a) ∧
    (∀ m v, exec (.weirCrossing x m v) s = .next t → tget 0 t.hostMem a = tget 0 s.hostMem a)) ∧
  (∀ (s t : State) (x a : Nat), (∀ m < 32, (s.at x).inRing .str m a = false ∧ (s.at x).inBuffers m a = false) →
    (∀ k, exec (.frameDeliver x k) s = .next t → tget 0 t.hostMem a = tget 0 s.hostMem a) ∧
    (∀ errs, exec (.drainFrame x errs) s = .next t → tget 0 t.hostMem a = tget 0 s.hostMem a)) ∧
  (∀ (s t : State) (h : Hdr) (addr len a : Nat), (∀ k < 16, (s.at h.t).inRing .cpl k a = false) → a < addr ∨ addr + 9280 ≤ a →
    exec (.readReattachLog h addr len) s = .next t → tget 0 t.hostMem a = tget 0 s.hostMem a) ∧
  ∀ (s : State) (h : Hdr), s.starts h 0 none → ∃ t, exec (.nop h 0) s = .next t ∧
    (let b := s.begun h 0
     let c := b.mkCpl (cmdOf h 0) 0 0 0
     let i := b.get (HIF_CPL_TAIL_INDEX c.ring)
     let n := b.ringEntries .cpl c.ring
     let a := ringBase b .cpl c.ring + 32 * (i % n)
     h.ring < 16 →
     (b.cplOpen c.ring = true → (∀ d ∈ b.hif.heldCpl, d.ring ≠ c.ring) → b.cplRoom c.ring = true →
       t.get (HIF_CPL_TAIL_INDEX c.ring) = (i + 1) % 2 ^ 16 ∧
       ∀ x, tget 0 t.hostMem x = if a ≤ x ∧ x < a + 32 then (cplBytes c i n).getD (x - a) 0 else tget 0 s.hostMem x) ∧
     (b.cplOpen c.ring = false ∨ (∃ d ∈ b.hif.heldCpl, d.ring = c.ring) ∨ b.cplRoom c.ring = false →
       t.hostMem = s.hostMem ∧ t.hif.heldCpl = b.hif.heldCpl ++ [c]))
end

