-- ==== Sys2Proof/Laws/Tab.lean ====
section
/-! SUPPORT. Laws of the sparse tables and of the register file: a read after a write, the canonical form, and the fields of
a word. -/

namespace Sys2Proof.Machine

-- One proof at a time: in parallel the package as one text would need too many threads.
set_option Elab.async false

variable {α : Type}

/-! ### Tables -/

theorem tget_tins_same (d : α) (t : Tab α) (k : Nat) (v : α) (h : ∀ p ∈ t, p.1 ≠ k) : tget d (tins t k v) k = v := by
  induction t with
  | nil => simp [tins, tget]
  | cons p r ih =>
    obtain ⟨a, b⟩ := p
    unfold tins
    split
    · simp [tget]
    · have ha : a ≠ k := h (a, b) (by simp)
      simp only [tget, ha, if_false]
      exact ih (fun p hp => h p (by simp [hp]))

theorem tget_tins_ne (d : α) (t : Tab α) (k j : Nat) (v : α) (h : j ≠ k) : tget d (tins t k v) j = tget d t j := by
  induction t with
  | nil => simp [tins, tget, h.symm]
  | cons p r ih =>
    obtain ⟨a, b⟩ := p
    unfold tins
    split
    · simp [tget, h.symm]
    · simp only [tget]
      split
      · rfl
      · exact ih

theorem tget_tdel_same (d : α) (t : Tab α) (k : Nat) : tget d (tdel t k) k = d := by
  induction t with
  | nil => rfl
  | cons p r ih =>
    obtain ⟨a, b⟩ := p
    by_cases h : a = k
    · simp only [tdel, h, ne_eq, not_true, decide_false, Bool.false_eq_true, not_false_eq_true, List.filter_cons_of_neg]
      exact ih
    · simp only [tdel, ne_eq, h, not_false_eq_true, decide_true, List.filter_cons_of_pos, tget, if_false]
      exact ih

theorem tget_tdel_ne (d : α) (t : Tab α) (k j : Nat) (h : j ≠ k) : tget d (tdel t k) j = tget d t j := by
  induction t with
  | nil => rfl
  | cons p r ih =>
    obtain ⟨a, b⟩ := p
    by_cases ha : a = k
    · simp only [tdel, ha, ne_eq, not_true, decide_false, Bool.false_eq_true, not_false_eq_true, List.filter_cons_of_neg, tget,
        h.symm, if_false]
      exact ih
    · simp only [tdel, ne_eq, ha, not_false_eq_true, decide_true, List.filter_cons_of_pos, tget]
      split
      · rfl
      · exact ih

variable [DecidableEq α]

/-- A read after a write to the same key gives the value written. -/
@[simp] theorem tget_tput_same (d : α) (t : Tab α) (k : Nat) (v : α) : tget d (tput d t k v) k = v := by
  unfold tput
  split
  · rw [tget_tdel_same]; exact Eq.symm ‹_›
  · exact tget_tins_same d _ k v (by intro p hp; simp [tdel] at hp; exact hp.2)

/-- A write leaves every other key alone. -/
theorem tget_tput_ne (d e : α) (t : Tab α) (k j : Nat) (v : α) (h : j ≠ k) : tget e (tput d t k v) j = tget e t j := by
  unfold tput
  split
  · exact tget_tdel_ne e t k j h
  · rw [tget_tins_ne e _ k j v h, tget_tdel_ne e t k j h]

theorem twf_filter (d : Nat → α) (p : Nat × α → Bool) (t : Tab α) (h : twf d t = true) : twf d (t.filter p) = true := by
  induction t with
  | nil => rfl
  | cons q r ih =>
    obtain ⟨a, b⟩ := q
    simp only [twf, Bool.and_eq_true, decide_eq_true_eq, List.all_eq_true] at h
    by_cases hp : p (a, b) = true
    · simp only [List.filter_cons_of_pos hp, twf, Bool.and_eq_true, decide_eq_true_eq, List.all_eq_true]
      exact ⟨⟨h.1.1, fun x hx => h.1.2 x (List.mem_filter.1 hx).1⟩, ih h.2⟩
    · rw [List.filter_cons_of_neg hp]
      exact ih h.2

theorem twf_tins (d : Nat → α) (t : Tab α) (k : Nat) (v : α) (h : twf d t = true) (hk : ∀ p ∈ t, p.1 ≠ k) (hv : v ≠ d k) :
    twf d (tins t k v) = true ∧ ∀ x ∈ tins t k v, x = (k, v) ∨ x ∈ t := by
  induction t with
  | nil => simp [tins, twf, hv]
  | cons q r ih =>
    obtain ⟨a, b⟩ := q
    have hw := h
    simp only [twf, Bool.and_eq_true, decide_eq_true_eq, List.all_eq_true] at h
    have ha : a ≠ k := hk (a, b) (by simp)
    unfold tins
    split
    · rename_i hlt
      refine ⟨?_, by simp⟩
      rw [twf]
      simp only [Bool.and_eq_true, decide_eq_true_eq, List.all_eq_true]
      refine ⟨⟨hv, fun x hx => ?_⟩, hw⟩
      rcases List.mem_cons.1 hx with rfl | hx
      · exact hlt
      · exact lt_trans hlt (h.1.2 x hx)
    · rename_i hge
      obtain ⟨i1, i2⟩ := ih h.2 (fun p hp => hk p (by simp [hp]))
      refine ⟨?_, fun x hx => ?_⟩
      · simp only [twf, Bool.and_eq_true, decide_eq_true_eq, List.all_eq_true]
        refine ⟨⟨h.1.1, fun x hx => ?_⟩, i1⟩
        rcases i2 x hx with rfl | hx
        · simp only; omega
        · exact h.1.2 x hx
      · rcases List.mem_cons.1 hx with rfl | hx
        · exact Or.inr (by simp)
        · rcases i2 x hx with rfl | hx
          · exact Or.inl rfl
          · exact Or.inr (by simp [hx])

/-- A write keeps the canonical form. -/
theorem twf_tput (d : Nat → α) (t : Tab α) (k : Nat) (v : α) (h : twf d t = true) : twf d (tput (d k) t k v) = true := by
  unfold tput
  split
  · exact twf_filter d _ t h
  · exact (twf_tins d _ k v (twf_filter d _ t h) (by intro p hp; simp at hp; exact hp.2) ‹_›).1

/-! ### Vectors -/

omit [DecidableEq α] in
theorem vget_vset_same {n : Nat} (d : α) (v : Vector α n) (i : Nat) (x : α) (h : i < n) : vget d (vset v i x) i = x := by
  simp [vget, vset, h]

omit [DecidableEq α] in
theorem vget_vset_ne {n : Nat} (d : α) (v : Vector α n) (i j : Nat) (x : α) (h : j ≠ i) : vget d (vset v i x) j = vget d v j := by
  by_cases hj : j < n
  · simp [vget, vset, hj, h.symm]
  · simp [vget, vset, hj]

end Sys2Proof.Machine
end

