-- ==== Sys2Proof/Laws/Reg.lean ====
section
/-! SUPPORT. Laws of register fields: reading a field after a field is written, in the same word or another. -/

namespace Sys2Proof.Machine

-- One proof at a time: in parallel the package as one text would need too many threads.
set_option Elab.async false

/-- A natural split at a field: the bits above, the field, the bits below. -/
theorem field_split (a lo w : Nat) :
    a = a / 2 ^ (lo + w) * 2 ^ (lo + w) + a / 2 ^ lo % 2 ^ w * 2 ^ lo + a % 2 ^ lo := by
  have h1 := Nat.div_add_mod a (2 ^ lo)
  have h2 := Nat.div_add_mod (a / 2 ^ lo) (2 ^ w)
  rw [Nat.div_div_eq_div_mul, ← pow_add] at h2
  conv_lhs => rw [← h1, ← h2]
  rw [pow_add]; ring

/-- A field and the bits below it fit under the bits above. -/
theorem low_lt (y l lo w : Nat) (hy : y < 2 ^ w) (hl : l < 2 ^ lo) : y * 2 ^ lo + l < 2 ^ (lo + w) := by
  have h : (y + 1) * 2 ^ lo ≤ 2 ^ w * 2 ^ lo := Nat.mul_le_mul_right _ hy
  rw [pow_add, Nat.mul_comm (2 ^ lo)]
  rw [add_mul, one_mul] at h
  omega

/-- The word that `put` makes, as a number. -/
theorem put_toNat (f : FRef) (w : Word) (x : Nat) (h : f.lo + f.w ≤ 32) :
    (f.put w x).toNat = w.toNat / 2 ^ (f.lo + f.w) * 2 ^ (f.lo + f.w) + x % 2 ^ f.w * 2 ^ f.lo + w.toNat % 2 ^ f.lo := by
  have hs := field_split w.toNat f.lo f.w
  have hx : x % 2 ^ f.w < 2 ^ f.w := Nat.mod_lt _ (by positivity)
  have hl : w.toNat % 2 ^ f.lo < 2 ^ f.lo := Nat.mod_lt _ (by positivity)
  have hp : (2 : Nat) ^ (f.lo + f.w) = 2 ^ f.lo * 2 ^ f.w := pow_add 2 _ _
  have h32 : (2 : Nat) ^ 32 = 2 ^ (f.lo + f.w) * 2 ^ (32 - (f.lo + f.w)) := by rw [← pow_add]; congr 1; omega
  have hh : w.toNat / 2 ^ (f.lo + f.w) < 2 ^ (32 - (f.lo + f.w)) := by
    apply Nat.div_lt_of_lt_mul; rw [← h32]; exact w.isLt
  have e : w.toNat - f.of w * 2 ^ f.lo + x % 2 ^ f.w * 2 ^ f.lo
      = w.toNat / 2 ^ (f.lo + f.w) * 2 ^ (f.lo + f.w) + x % 2 ^ f.w * 2 ^ f.lo + w.toNat % 2 ^ f.lo := by
    unfold FRef.of; omega
  have b : w.toNat / 2 ^ (f.lo + f.w) * 2 ^ (f.lo + f.w) + x % 2 ^ f.w * 2 ^ f.lo + w.toNat % 2 ^ f.lo < 2 ^ 32 := by
    have h3 : x % 2 ^ f.w * 2 ^ f.lo + w.toNat % 2 ^ f.lo < 2 ^ (f.lo + f.w) := low_lt _ _ _ _ hx hl
    have h4 : (w.toNat / 2 ^ (f.lo + f.w) + 1) * 2 ^ (f.lo + f.w) ≤ 2 ^ 32 := by
      rw [h32, mul_comm]; exact Nat.mul_le_mul_left _ hh
    rw [add_mul, one_mul] at h4
    omega
  unfold FRef.put
  rw [BitVec.toNat_ofNat, e, Nat.mod_eq_of_lt b]

/-- A field reads back what was put into it. -/
theorem of_put_same (f : FRef) (w : Word) (x : Nat) (h : f.lo + f.w ≤ 32) : f.of (f.put w x) = x % 2 ^ f.w := by
  have hx : x % 2 ^ f.w < 2 ^ f.w := Nat.mod_lt _ (by positivity)
  have hl : w.toNat % 2 ^ f.lo < 2 ^ f.lo := Nat.mod_lt _ (by positivity)
  unfold FRef.of
  rw [put_toNat f w x h, pow_add]
  have e : w.toNat / (2 ^ f.lo * 2 ^ f.w) * (2 ^ f.lo * 2 ^ f.w) + x % 2 ^ f.w * 2 ^ f.lo + w.toNat % 2 ^ f.lo
      = 2 ^ f.lo * (w.toNat / (2 ^ f.lo * 2 ^ f.w) * 2 ^ f.w + x % 2 ^ f.w) + w.toNat % 2 ^ f.lo := by ring
  rw [e, Nat.mul_add_div (by positivity), Nat.div_eq_of_lt hl, add_zero, Nat.mul_comm _ (2 ^ f.w), Nat.mul_add_mod,
    Nat.mod_eq_of_lt hx]

/-- A field of a word is untouched by a write of another field of it. -/
theorem of_put_ne (f g : FRef) (w : Word) (x : Nat) (h : f.lo + f.w ≤ 32) (d : f.lo + f.w ≤ g.lo ∨ g.lo + g.w ≤ f.lo) :
    g.of (f.put w x) = g.of w := by
  have hx : x % 2 ^ f.w < 2 ^ f.w := Nat.mod_lt _ (by positivity)
  have hm : w.toNat / 2 ^ f.lo % 2 ^ f.w < 2 ^ f.w := Nat.mod_lt _ (by positivity)
  have hl : w.toNat % 2 ^ f.lo < 2 ^ f.lo := Nat.mod_lt _ (by positivity)
  have hs := field_split w.toNat f.lo f.w
  have low : ∀ y, y < 2 ^ f.w → y * 2 ^ f.lo + w.toNat % 2 ^ f.lo < 2 ^ (f.lo + f.w) := by
    intro y hy; exact low_lt _ _ _ _ hy hl
  unfold FRef.of
  rw [put_toNat f w x h]
  rcases d with d | d
  · obtain ⟨k, hk⟩ := Nat.exists_eq_add_of_le d
    have go : ∀ y, y < 2 ^ f.w →
        (w.toNat / 2 ^ (f.lo + f.w) * 2 ^ (f.lo + f.w) + y * 2 ^ f.lo + w.toNat % 2 ^ f.lo) / 2 ^ g.lo
          = w.toNat / 2 ^ (f.lo + f.w) / 2 ^ k := by
      intro y hy
      rw [hk, pow_add 2 (f.lo + f.w) k, ← Nat.div_div_eq_div_mul]
      congr 1
      rw [Nat.add_assoc, Nat.mul_comm (w.toNat / 2 ^ (f.lo + f.w)), Nat.mul_add_div (by positivity),
        Nat.div_eq_of_lt (low y hy), add_zero]
    rw [go _ hx]
    conv_rhs => rw [hs]
    rw [go _ hm]
  · obtain ⟨k, hk⟩ := Nat.exists_eq_add_of_le d
    have e1 : (2 : Nat) ^ f.lo = 2 ^ g.lo * 2 ^ g.w * 2 ^ k := by rw [hk, pow_add, pow_add]
    have go : ∀ q y l : Nat, (q * 2 ^ (f.lo + f.w) + y * 2 ^ f.lo + l) / 2 ^ g.lo % 2 ^ g.w = l / 2 ^ g.lo % 2 ^ g.w := by
      intro q y l
      have e : q * 2 ^ (f.lo + f.w) + y * 2 ^ f.lo + l = 2 ^ g.lo * (2 ^ g.w * (2 ^ k * (q * 2 ^ f.w + y))) + l := by
        rw [pow_add, e1]; ring
      rw [e, Nat.mul_add_div (by positivity), Nat.mul_add_mod]
    rw [go]
    conv_rhs => rw [hs]
    rw [go]

/-! ### Fields of the register file -/

theorem reg_setReg_same (s : State) (off : Nat) (v : Word) : (s.setReg off v).reg off = v := tget_tput_same _ _ _ _

theorem reg_setReg_ne (s : State) (off o : Nat) (v : Word) (h : o ≠ off) : (s.setReg off v).reg o = s.reg o :=
  tget_tput_ne _ _ _ _ _ _ h

theorem get_eq (s : State) (f : FRef) : s.get f = f.of (s.reg f.off) := rfl

/-- A field of a word that is not written keeps its value. -/
theorem get_setReg_ne (s : State) (off : Nat) (v : Word) (f : FRef) (h : f.off ≠ off) : (s.setReg off v).get f = s.get f := by
  rw [get_eq, get_eq, reg_setReg_ne s off f.off v h]

theorem get_setReg_same (s : State) (off : Nat) (v : Word) (f : FRef) (h : f.off = off) : (s.setReg off v).get f = f.of v := by
  rw [get_eq, h, reg_setReg_same]

/-- A field reads back what the device wrote to it. -/
theorem get_set_same (s : State) (f : FRef) (x : Nat) (h : f.lo + f.w ≤ 32) : (s.set f x).get f = x % 2 ^ f.w := by
  unfold State.set
  rw [get_setReg_same s f.off _ f rfl, of_put_same f _ x h]

/-- A field of another register keeps its value. -/
theorem get_set_ne (s : State) (f g : FRef) (x : Nat) (h : g.off ≠ f.off) : (s.set f x).get g = s.get g :=
  get_setReg_ne s f.off _ g h

/-- Another field of the same register keeps its value. -/
theorem get_set_disj (s : State) (f g : FRef) (x : Nat) (h : f.lo + f.w ≤ 32) (d : f.lo + f.w ≤ g.lo ∨ g.lo + g.w ≤ f.lo) :
    (s.set f x).get g = s.get g := by
  by_cases o : g.off = f.off
  · unfold State.set
    rw [get_setReg_same s f.off _ g o, of_put_ne f g _ x h d, get_eq, o]
  · exact get_set_ne s f g x o

/-- Whether the fields lie in one register or in two: both ways in which a write leaves a field alone. -/
theorem get_set_other (s : State) (f g : FRef) (x : Nat) (h : f.lo + f.w ≤ 32)
    (d : g.off ≠ f.off ∨ f.lo + f.w ≤ g.lo ∨ g.lo + g.w ≤ f.lo) : (s.set f x).get g = s.get g := by
  rcases d with d | d
  · exact get_set_ne s f g x d
  · exact get_set_disj s f g x h d

end Sys2Proof.Machine
end

