-- ==== Sys2Proof/Laws/State.lean ====
section
/-! SUPPORT. What each elementary update of the state leaves alone: one lemma for each field and update, true by `rfl`. -/

namespace Sys2Proof.Machine

-- One proof at a time: in parallel the package as one text would need too many threads.
set_option Elab.async false

variable (s : State)

/-! ### `State.setReg` changes `regs` only -/

@[simp] theorem setReg_pending (off : Nat) (v : Word) : (s.setReg off v).pending = s.pending := rfl
@[simp] theorem setReg_now (off : Nat) (v : Word) : (s.setReg off v).now = s.now := rfl
@[simp] theorem setReg_gtOff (off : Nat) (v : Word) : (s.setReg off v).gtOff = s.gtOff := rfl
@[simp] theorem setReg_tables (off : Nat) (v : Word) : (s.setReg off v).tables = s.tables := rfl
@[simp] theorem setReg_hostMem (off : Nat) (v : Word) : (s.setReg off v).hostMem = s.hostMem := rfl
@[simp] theorem setReg_outbox (off : Nat) (v : Word) : (s.setReg off v).outbox = s.outbox := rfl
@[simp] theorem setReg_freeIdx (off : Nat) (v : Word) : (s.setReg off v).freeIdx = s.freeIdx := rfl
@[simp] theorem setReg_safeN (off : Nat) (v : Word) : (s.setReg off v).safeN = s.safeN := rfl
@[simp] theorem setReg_snaps (off : Nat) (v : Word) : (s.setReg off v).snaps = s.snaps := rfl
@[simp] theorem setReg_hif (off : Nat) (v : Word) : (s.setReg off v).hif = s.hif := rfl
@[simp] theorem setReg_spill (off : Nat) (v : Word) : (s.setReg off v).spill = s.spill := rfl
@[simp] theorem setReg_tim (off : Nat) (v : Word) : (s.setReg off v).tim = s.tim := rfl
@[simp] theorem setReg_fe (off : Nat) (v : Word) : (s.setReg off v).fe = s.fe := rfl
@[simp] theorem setReg_acq (off : Nat) (v : Word) : (s.setReg off v).acq = s.acq := rfl
@[simp] theorem setReg_trk (off : Nat) (v : Word) : (s.setReg off v).trk = s.trk := rfl
@[simp] theorem setReg_sch (off : Nat) (v : Word) : (s.setReg off v).sch = s.sch := rfl
@[simp] theorem setReg_pmc (off : Nat) (v : Word) : (s.setReg off v).pmc = s.pmc := rfl
@[simp] theorem setReg_wmn (off : Nat) (v : Word) : (s.setReg off v).wmn = s.wmn := rfl
@[simp] theorem setReg_flt (off : Nat) (v : Word) : (s.setReg off v).flt = s.flt := rfl
@[simp] theorem setReg_mem (off : Nat) (v : Word) : (s.setReg off v).mem = s.mem := rfl
@[simp] theorem setReg_pwr (off : Nat) (v : Word) : (s.setReg off v).pwr = s.pwr := rfl
@[simp] theorem setReg_nvs (off : Nat) (v : Word) : (s.setReg off v).nvs = s.nvs := rfl

/-! ### `State.set` changes `regs` only -/

@[simp] theorem set_pending (f : FRef) (x : Nat) : (s.set f x).pending = s.pending := rfl
@[simp] theorem set_now (f : FRef) (x : Nat) : (s.set f x).now = s.now := rfl
@[simp] theorem set_gtOff (f : FRef) (x : Nat) : (s.set f x).gtOff = s.gtOff := rfl
@[simp] theorem set_tables (f : FRef) (x : Nat) : (s.set f x).tables = s.tables := rfl
@[simp] theorem set_hostMem (f : FRef) (x : Nat) : (s.set f x).hostMem = s.hostMem := rfl
@[simp] theorem set_outbox (f : FRef) (x : Nat) : (s.set f x).outbox = s.outbox := rfl
@[simp] theorem set_freeIdx (f : FRef) (x : Nat) : (s.set f x).freeIdx = s.freeIdx := rfl
@[simp] theorem set_safeN (f : FRef) (x : Nat) : (s.set f x).safeN = s.safeN := rfl
@[simp] theorem set_snaps (f : FRef) (x : Nat) : (s.set f x).snaps = s.snaps := rfl
@[simp] theorem set_hif (f : FRef) (x : Nat) : (s.set f x).hif = s.hif := rfl
@[simp] theorem set_spill (f : FRef) (x : Nat) : (s.set f x).spill = s.spill := rfl
@[simp] theorem set_tim (f : FRef) (x : Nat) : (s.set f x).tim = s.tim := rfl
@[simp] theorem set_fe (f : FRef) (x : Nat) : (s.set f x).fe = s.fe := rfl
@[simp] theorem set_acq (f : FRef) (x : Nat) : (s.set f x).acq = s.acq := rfl
@[simp] theorem set_trk (f : FRef) (x : Nat) : (s.set f x).trk = s.trk := rfl
@[simp] theorem set_sch (f : FRef) (x : Nat) : (s.set f x).sch = s.sch := rfl
@[simp] theorem set_pmc (f : FRef) (x : Nat) : (s.set f x).pmc = s.pmc := rfl
@[simp] theorem set_wmn (f : FRef) (x : Nat) : (s.set f x).wmn = s.wmn := rfl
@[simp] theorem set_flt (f : FRef) (x : Nat) : (s.set f x).flt = s.flt := rfl
@[simp] theorem set_mem (f : FRef) (x : Nat) : (s.set f x).mem = s.mem := rfl
@[simp] theorem set_pwr (f : FRef) (x : Nat) : (s.set f x).pwr = s.pwr := rfl
@[simp] theorem set_nvs (f : FRef) (x : Nat) : (s.set f x).nvs = s.nvs := rfl

/-! ### `State.setI` changes `regs` only -/

@[simp] theorem setI_pending (f : FRef) (x : Int) : (s.setI f x).pending = s.pending := rfl
@[simp] theorem setI_now (f : FRef) (x : Int) : (s.setI f x).now = s.now := rfl
@[simp] theorem setI_gtOff (f : FRef) (x : Int) : (s.setI f x).gtOff = s.gtOff := rfl
@[simp] theorem setI_tables (f : FRef) (x : Int) : (s.setI f x).tables = s.tables := rfl
@[simp] theorem setI_hostMem (f : FRef) (x : Int) : (s.setI f x).hostMem = s.hostMem := rfl
@[simp] theorem setI_outbox (f : FRef) (x : Int) : (s.setI f x).outbox = s.outbox := rfl
@[simp] theorem setI_freeIdx (f : FRef) (x : Int) : (s.setI f x).freeIdx = s.freeIdx := rfl
@[simp] theorem setI_safeN (f : FRef) (x : Int) : (s.setI f x).safeN = s.safeN := rfl
@[simp] theorem setI_snaps (f : FRef) (x : Int) : (s.setI f x).snaps = s.snaps := rfl
@[simp] theorem setI_hif (f : FRef) (x : Int) : (s.setI f x).hif = s.hif := rfl
@[simp] theorem setI_spill (f : FRef) (x : Int) : (s.setI f x).spill = s.spill := rfl
@[simp] theorem setI_tim (f : FRef) (x : Int) : (s.setI f x).tim = s.tim := rfl
@[simp] theorem setI_fe (f : FRef) (x : Int) : (s.setI f x).fe = s.fe := rfl
@[simp] theorem setI_acq (f : FRef) (x : Int) : (s.setI f x).acq = s.acq := rfl
@[simp] theorem setI_trk (f : FRef) (x : Int) : (s.setI f x).trk = s.trk := rfl
@[simp] theorem setI_sch (f : FRef) (x : Int) : (s.setI f x).sch = s.sch := rfl
@[simp] theorem setI_pmc (f : FRef) (x : Int) : (s.setI f x).pmc = s.pmc := rfl
@[simp] theorem setI_wmn (f : FRef) (x : Int) : (s.setI f x).wmn = s.wmn := rfl
@[simp] theorem setI_flt (f : FRef) (x : Int) : (s.setI f x).flt = s.flt := rfl
@[simp] theorem setI_mem (f : FRef) (x : Int) : (s.setI f x).mem = s.mem := rfl
@[simp] theorem setI_pwr (f : FRef) (x : Int) : (s.setI f x).pwr = s.pwr := rfl
@[simp] theorem setI_nvs (f : FRef) (x : Int) : (s.setI f x).nvs = s.nvs := rfl

/-! ### `State.setB` changes `regs` only -/

@[simp] theorem setB_pending (f : FRef) (b : Bool) : (s.setB f b).pending = s.pending := rfl
@[simp] theorem setB_now (f : FRef) (b : Bool) : (s.setB f b).now = s.now := rfl
@[simp] theorem setB_gtOff (f : FRef) (b : Bool) : (s.setB f b).gtOff = s.gtOff := rfl
@[simp] theorem setB_tables (f : FRef) (b : Bool) : (s.setB f b).tables = s.tables := rfl
@[simp] theorem setB_hostMem (f : FRef) (b : Bool) : (s.setB f b).hostMem = s.hostMem := rfl
@[simp] theorem setB_outbox (f : FRef) (b : Bool) : (s.setB f b).outbox = s.outbox := rfl
@[simp] theorem setB_freeIdx (f : FRef) (b : Bool) : (s.setB f b).freeIdx = s.freeIdx := rfl
@[simp] theorem setB_safeN (f : FRef) (b : Bool) : (s.setB f b).safeN = s.safeN := rfl
@[simp] theorem setB_snaps (f : FRef) (b : Bool) : (s.setB f b).snaps = s.snaps := rfl
@[simp] theorem setB_hif (f : FRef) (b : Bool) : (s.setB f b).hif = s.hif := rfl
@[simp] theorem setB_spill (f : FRef) (b : Bool) : (s.setB f b).spill = s.spill := rfl
@[simp] theorem setB_tim (f : FRef) (b : Bool) : (s.setB f b).tim = s.tim := rfl
@[simp] theorem setB_fe (f : FRef) (b : Bool) : (s.setB f b).fe = s.fe := rfl
@[simp] theorem setB_acq (f : FRef) (b : Bool) : (s.setB f b).acq = s.acq := rfl
@[simp] theorem setB_trk (f : FRef) (b : Bool) : (s.setB f b).trk = s.trk := rfl
@[simp] theorem setB_sch (f : FRef) (b : Bool) : (s.setB f b).sch = s.sch := rfl
@[simp] theorem setB_pmc (f : FRef) (b : Bool) : (s.setB f b).pmc = s.pmc := rfl
@[simp] theorem setB_wmn (f : FRef) (b : Bool) : (s.setB f b).wmn = s.wmn := rfl
@[simp] theorem setB_flt (f : FRef) (b : Bool) : (s.setB f b).flt = s.flt := rfl
@[simp] theorem setB_mem (f : FRef) (b : Bool) : (s.setB f b).mem = s.mem := rfl
@[simp] theorem setB_pwr (f : FRef) (b : Bool) : (s.setB f b).pwr = s.pwr := rfl
@[simp] theorem setB_nvs (f : FRef) (b : Bool) : (s.setB f b).nvs = s.nvs := rfl

/-! ### `State.set2` changes `regs` only -/

@[simp] theorem set2_pending (lo hi : FRef) (v : Nat) : (s.set2 lo hi v).pending = s.pending := rfl
@[simp] theorem set2_now (lo hi : FRef) (v : Nat) : (s.set2 lo hi v).now = s.now := rfl
@[simp] theorem set2_gtOff (lo hi : FRef) (v : Nat) : (s.set2 lo hi v).gtOff = s.gtOff := rfl
@[simp] theorem set2_tables (lo hi : FRef) (v : Nat) : (s.set2 lo hi v).tables = s.tables := rfl
@[simp] theorem set2_hostMem (lo hi : FRef) (v : Nat) : (s.set2 lo hi v).hostMem = s.hostMem := rfl
@[simp] theorem set2_outbox (lo hi : FRef) (v : Nat) : (s.set2 lo hi v).outbox = s.outbox := rfl
@[simp] theorem set2_freeIdx (lo hi : FRef) (v : Nat) : (s.set2 lo hi v).freeIdx = s.freeIdx := rfl
@[simp] theorem set2_safeN (lo hi : FRef) (v : Nat) : (s.set2 lo hi v).safeN = s.safeN := rfl
@[simp] theorem set2_snaps (lo hi : FRef) (v : Nat) : (s.set2 lo hi v).snaps = s.snaps := rfl
@[simp] theorem set2_hif (lo hi : FRef) (v : Nat) : (s.set2 lo hi v).hif = s.hif := rfl
@[simp] theorem set2_spill (lo hi : FRef) (v : Nat) : (s.set2 lo hi v).spill = s.spill := rfl
@[simp] theorem set2_tim (lo hi : FRef) (v : Nat) : (s.set2 lo hi v).tim = s.tim := rfl
@[simp] theorem set2_fe (lo hi : FRef) (v : Nat) : (s.set2 lo hi v).fe = s.fe := rfl
@[simp] theorem set2_acq (lo hi : FRef) (v : Nat) : (s.set2 lo hi v).acq = s.acq := rfl
@[simp] theorem set2_trk (lo hi : FRef) (v : Nat) : (s.set2 lo hi v).trk = s.trk := rfl
@[simp] theorem set2_sch (lo hi : FRef) (v : Nat) : (s.set2 lo hi v).sch = s.sch := rfl
@[simp] theorem set2_pmc (lo hi : FRef) (v : Nat) : (s.set2 lo hi v).pmc = s.pmc := rfl
@[simp] theorem set2_wmn (lo hi : FRef) (v : Nat) : (s.set2 lo hi v).wmn = s.wmn := rfl
@[simp] theorem set2_flt (lo hi : FRef) (v : Nat) : (s.set2 lo hi v).flt = s.flt := rfl
@[simp] theorem set2_mem (lo hi : FRef) (v : Nat) : (s.set2 lo hi v).mem = s.mem := rfl
@[simp] theorem set2_pwr (lo hi : FRef) (v : Nat) : (s.set2 lo hi v).pwr = s.pwr := rfl
@[simp] theorem set2_nvs (lo hi : FRef) (v : Nat) : (s.set2 lo hi v).nvs = s.nvs := rfl

/-! ### `State.addSat` changes `regs` only -/

@[simp] theorem addSat_pending (f : FRef) (n : Nat) : (s.addSat f n).pending = s.pending := rfl
@[simp] theorem addSat_now (f : FRef) (n : Nat) : (s.addSat f n).now = s.now := rfl
@[simp] theorem addSat_gtOff (f : FRef) (n : Nat) : (s.addSat f n).gtOff = s.gtOff := rfl
@[simp] theorem addSat_tables (f : FRef) (n : Nat) : (s.addSat f n).tables = s.tables := rfl
@[simp] theorem addSat_hostMem (f : FRef) (n : Nat) : (s.addSat f n).hostMem = s.hostMem := rfl
@[simp] theorem addSat_outbox (f : FRef) (n : Nat) : (s.addSat f n).outbox = s.outbox := rfl
@[simp] theorem addSat_freeIdx (f : FRef) (n : Nat) : (s.addSat f n).freeIdx = s.freeIdx := rfl
@[simp] theorem addSat_safeN (f : FRef) (n : Nat) : (s.addSat f n).safeN = s.safeN := rfl
@[simp] theorem addSat_snaps (f : FRef) (n : Nat) : (s.addSat f n).snaps = s.snaps := rfl
@[simp] theorem addSat_hif (f : FRef) (n : Nat) : (s.addSat f n).hif = s.hif := rfl
@[simp] theorem addSat_spill (f : FRef) (n : Nat) : (s.addSat f n).spill = s.spill := rfl
@[simp] theorem addSat_tim (f : FRef) (n : Nat) : (s.addSat f n).tim = s.tim := rfl
@[simp] theorem addSat_fe (f : FRef) (n : Nat) : (s.addSat f n).fe = s.fe := rfl
@[simp] theorem addSat_acq (f : FRef) (n : Nat) : (s.addSat f n).acq = s.acq := rfl
@[simp] theorem addSat_trk (f : FRef) (n : Nat) : (s.addSat f n).trk = s.trk := rfl
@[simp] theorem addSat_sch (f : FRef) (n : Nat) : (s.addSat f n).sch = s.sch := rfl
@[simp] theorem addSat_pmc (f : FRef) (n : Nat) : (s.addSat f n).pmc = s.pmc := rfl
@[simp] theorem addSat_wmn (f : FRef) (n : Nat) : (s.addSat f n).wmn = s.wmn := rfl
@[simp] theorem addSat_flt (f : FRef) (n : Nat) : (s.addSat f n).flt = s.flt := rfl
@[simp] theorem addSat_mem (f : FRef) (n : Nat) : (s.addSat f n).mem = s.mem := rfl
@[simp] theorem addSat_pwr (f : FRef) (n : Nat) : (s.addSat f n).pwr = s.pwr := rfl
@[simp] theorem addSat_nvs (f : FRef) (n : Nat) : (s.addSat f n).nvs = s.nvs := rfl

/-! ### `State.addWrap` changes `regs` only -/

@[simp] theorem addWrap_pending (f : FRef) (n : Nat) : (s.addWrap f n).pending = s.pending := rfl
@[simp] theorem addWrap_now (f : FRef) (n : Nat) : (s.addWrap f n).now = s.now := rfl
@[simp] theorem addWrap_gtOff (f : FRef) (n : Nat) : (s.addWrap f n).gtOff = s.gtOff := rfl
@[simp] theorem addWrap_tables (f : FRef) (n : Nat) : (s.addWrap f n).tables = s.tables := rfl
@[simp] theorem addWrap_hostMem (f : FRef) (n : Nat) : (s.addWrap f n).hostMem = s.hostMem := rfl
@[simp] theorem addWrap_outbox (f : FRef) (n : Nat) : (s.addWrap f n).outbox = s.outbox := rfl
@[simp] theorem addWrap_freeIdx (f : FRef) (n : Nat) : (s.addWrap f n).freeIdx = s.freeIdx := rfl
@[simp] theorem addWrap_safeN (f : FRef) (n : Nat) : (s.addWrap f n).safeN = s.safeN := rfl
@[simp] theorem addWrap_snaps (f : FRef) (n : Nat) : (s.addWrap f n).snaps = s.snaps := rfl
@[simp] theorem addWrap_hif (f : FRef) (n : Nat) : (s.addWrap f n).hif = s.hif := rfl
@[simp] theorem addWrap_spill (f : FRef) (n : Nat) : (s.addWrap f n).spill = s.spill := rfl
@[simp] theorem addWrap_tim (f : FRef) (n : Nat) : (s.addWrap f n).tim = s.tim := rfl
@[simp] theorem addWrap_fe (f : FRef) (n : Nat) : (s.addWrap f n).fe = s.fe := rfl
@[simp] theorem addWrap_acq (f : FRef) (n : Nat) : (s.addWrap f n).acq = s.acq := rfl
@[simp] theorem addWrap_trk (f : FRef) (n : Nat) : (s.addWrap f n).trk = s.trk := rfl
@[simp] theorem addWrap_sch (f : FRef) (n : Nat) : (s.addWrap f n).sch = s.sch := rfl
@[simp] theorem addWrap_pmc (f : FRef) (n : Nat) : (s.addWrap f n).pmc = s.pmc := rfl
@[simp] theorem addWrap_wmn (f : FRef) (n : Nat) : (s.addWrap f n).wmn = s.wmn := rfl
@[simp] theorem addWrap_flt (f : FRef) (n : Nat) : (s.addWrap f n).flt = s.flt := rfl
@[simp] theorem addWrap_mem (f : FRef) (n : Nat) : (s.addWrap f n).mem = s.mem := rfl
@[simp] theorem addWrap_pwr (f : FRef) (n : Nat) : (s.addWrap f n).pwr = s.pwr := rfl
@[simp] theorem addWrap_nvs (f : FRef) (n : Nat) : (s.addWrap f n).nvs = s.nvs := rfl

/-! ### `State.setTword` changes `tables` only -/

@[simp] theorem setTword_pending (off : Nat) (v : Word) : (s.setTword off v).pending = s.pending := rfl
@[simp] theorem setTword_now (off : Nat) (v : Word) : (s.setTword off v).now = s.now := rfl
@[simp] theorem setTword_gtOff (off : Nat) (v : Word) : (s.setTword off v).gtOff = s.gtOff := rfl
@[simp] theorem setTword_regs (off : Nat) (v : Word) : (s.setTword off v).regs = s.regs := rfl
@[simp] theorem setTword_hostMem (off : Nat) (v : Word) : (s.setTword off v).hostMem = s.hostMem := rfl
@[simp] theorem setTword_outbox (off : Nat) (v : Word) : (s.setTword off v).outbox = s.outbox := rfl
@[simp] theorem setTword_freeIdx (off : Nat) (v : Word) : (s.setTword off v).freeIdx = s.freeIdx := rfl
@[simp] theorem setTword_safeN (off : Nat) (v : Word) : (s.setTword off v).safeN = s.safeN := rfl
@[simp] theorem setTword_snaps (off : Nat) (v : Word) : (s.setTword off v).snaps = s.snaps := rfl
@[simp] theorem setTword_hif (off : Nat) (v : Word) : (s.setTword off v).hif = s.hif := rfl
@[simp] theorem setTword_spill (off : Nat) (v : Word) : (s.setTword off v).spill = s.spill := rfl
@[simp] theorem setTword_tim (off : Nat) (v : Word) : (s.setTword off v).tim = s.tim := rfl
@[simp] theorem setTword_fe (off : Nat) (v : Word) : (s.setTword off v).fe = s.fe := rfl
@[simp] theorem setTword_acq (off : Nat) (v : Word) : (s.setTword off v).acq = s.acq := rfl
@[simp] theorem setTword_trk (off : Nat) (v : Word) : (s.setTword off v).trk = s.trk := rfl
@[simp] theorem setTword_sch (off : Nat) (v : Word) : (s.setTword off v).sch = s.sch := rfl
@[simp] theorem setTword_pmc (off : Nat) (v : Word) : (s.setTword off v).pmc = s.pmc := rfl
@[simp] theorem setTword_wmn (off : Nat) (v : Word) : (s.setTword off v).wmn = s.wmn := rfl
@[simp] theorem setTword_flt (off : Nat) (v : Word) : (s.setTword off v).flt = s.flt := rfl
@[simp] theorem setTword_mem (off : Nat) (v : Word) : (s.setTword off v).mem = s.mem := rfl
@[simp] theorem setTword_pwr (off : Nat) (v : Word) : (s.setTword off v).pwr = s.pwr := rfl
@[simp] theorem setTword_nvs (off : Nat) (v : Word) : (s.setTword off v).nvs = s.nvs := rfl

/-! ### `State.dmaWrite` changes `hostMem` only -/

@[simp] theorem dmaWrite_pending (a : Nat) (bs : List Byte) : (s.dmaWrite a bs).pending = s.pending := rfl
@[simp] theorem dmaWrite_now (a : Nat) (bs : List Byte) : (s.dmaWrite a bs).now = s.now := rfl
@[simp] theorem dmaWrite_gtOff (a : Nat) (bs : List Byte) : (s.dmaWrite a bs).gtOff = s.gtOff := rfl
@[simp] theorem dmaWrite_regs (a : Nat) (bs : List Byte) : (s.dmaWrite a bs).regs = s.regs := rfl
@[simp] theorem dmaWrite_tables (a : Nat) (bs : List Byte) : (s.dmaWrite a bs).tables = s.tables := rfl
@[simp] theorem dmaWrite_outbox (a : Nat) (bs : List Byte) : (s.dmaWrite a bs).outbox = s.outbox := rfl
@[simp] theorem dmaWrite_freeIdx (a : Nat) (bs : List Byte) : (s.dmaWrite a bs).freeIdx = s.freeIdx := rfl
@[simp] theorem dmaWrite_safeN (a : Nat) (bs : List Byte) : (s.dmaWrite a bs).safeN = s.safeN := rfl
@[simp] theorem dmaWrite_snaps (a : Nat) (bs : List Byte) : (s.dmaWrite a bs).snaps = s.snaps := rfl
@[simp] theorem dmaWrite_hif (a : Nat) (bs : List Byte) : (s.dmaWrite a bs).hif = s.hif := rfl
@[simp] theorem dmaWrite_spill (a : Nat) (bs : List Byte) : (s.dmaWrite a bs).spill = s.spill := rfl
@[simp] theorem dmaWrite_tim (a : Nat) (bs : List Byte) : (s.dmaWrite a bs).tim = s.tim := rfl
@[simp] theorem dmaWrite_fe (a : Nat) (bs : List Byte) : (s.dmaWrite a bs).fe = s.fe := rfl
@[simp] theorem dmaWrite_acq (a : Nat) (bs : List Byte) : (s.dmaWrite a bs).acq = s.acq := rfl
@[simp] theorem dmaWrite_trk (a : Nat) (bs : List Byte) : (s.dmaWrite a bs).trk = s.trk := rfl
@[simp] theorem dmaWrite_sch (a : Nat) (bs : List Byte) : (s.dmaWrite a bs).sch = s.sch := rfl
@[simp] theorem dmaWrite_pmc (a : Nat) (bs : List Byte) : (s.dmaWrite a bs).pmc = s.pmc := rfl
@[simp] theorem dmaWrite_wmn (a : Nat) (bs : List Byte) : (s.dmaWrite a bs).wmn = s.wmn := rfl
@[simp] theorem dmaWrite_flt (a : Nat) (bs : List Byte) : (s.dmaWrite a bs).flt = s.flt := rfl
@[simp] theorem dmaWrite_mem (a : Nat) (bs : List Byte) : (s.dmaWrite a bs).mem = s.mem := rfl
@[simp] theorem dmaWrite_pwr (a : Nat) (bs : List Byte) : (s.dmaWrite a bs).pwr = s.pwr := rfl
@[simp] theorem dmaWrite_nvs (a : Nat) (bs : List Byte) : (s.dmaWrite a bs).nvs = s.nvs := rfl

/-! ### `State.nvPut` changes `nvs` only -/

@[simp] theorem nvPut_pending (off : Nat) (bs : List Byte) : (s.nvPut off bs).pending = s.pending := rfl
@[simp] theorem nvPut_now (off : Nat) (bs : List Byte) : (s.nvPut off bs).now = s.now := rfl
@[simp] theorem nvPut_gtOff (off : Nat) (bs : List Byte) : (s.nvPut off bs).gtOff = s.gtOff := rfl
@[simp] theorem nvPut_regs (off : Nat) (bs : List Byte) : (s.nvPut off bs).regs = s.regs := rfl
@[simp] theorem nvPut_tables (off : Nat) (bs : List Byte) : (s.nvPut off bs).tables = s.tables := rfl
@[simp] theorem nvPut_hostMem (off : Nat) (bs : List Byte) : (s.nvPut off bs).hostMem = s.hostMem := rfl
@[simp] theorem nvPut_outbox (off : Nat) (bs : List Byte) : (s.nvPut off bs).outbox = s.outbox := rfl
@[simp] theorem nvPut_freeIdx (off : Nat) (bs : List Byte) : (s.nvPut off bs).freeIdx = s.freeIdx := rfl
@[simp] theorem nvPut_safeN (off : Nat) (bs : List Byte) : (s.nvPut off bs).safeN = s.safeN := rfl
@[simp] theorem nvPut_snaps (off : Nat) (bs : List Byte) : (s.nvPut off bs).snaps = s.snaps := rfl
@[simp] theorem nvPut_hif (off : Nat) (bs : List Byte) : (s.nvPut off bs).hif = s.hif := rfl
@[simp] theorem nvPut_spill (off : Nat) (bs : List Byte) : (s.nvPut off bs).spill = s.spill := rfl
@[simp] theorem nvPut_tim (off : Nat) (bs : List Byte) : (s.nvPut off bs).tim = s.tim := rfl
@[simp] theorem nvPut_fe (off : Nat) (bs : List Byte) : (s.nvPut off bs).fe = s.fe := rfl
@[simp] theorem nvPut_acq (off : Nat) (bs : List Byte) : (s.nvPut off bs).acq = s.acq := rfl
@[simp] theorem nvPut_trk (off : Nat) (bs : List Byte) : (s.nvPut off bs).trk = s.trk := rfl
@[simp] theorem nvPut_sch (off : Nat) (bs : List Byte) : (s.nvPut off bs).sch = s.sch := rfl
@[simp] theorem nvPut_pmc (off : Nat) (bs : List Byte) : (s.nvPut off bs).pmc = s.pmc := rfl
@[simp] theorem nvPut_wmn (off : Nat) (bs : List Byte) : (s.nvPut off bs).wmn = s.wmn := rfl
@[simp] theorem nvPut_flt (off : Nat) (bs : List Byte) : (s.nvPut off bs).flt = s.flt := rfl
@[simp] theorem nvPut_mem (off : Nat) (bs : List Byte) : (s.nvPut off bs).mem = s.mem := rfl
@[simp] theorem nvPut_pwr (off : Nat) (bs : List Byte) : (s.nvPut off bs).pwr = s.pwr := rfl

/-! ### `State.nextFree` changes `freeIdx` only -/

@[simp] theorem nextFree_pending : (s.nextFree).pending = s.pending := rfl
@[simp] theorem nextFree_now : (s.nextFree).now = s.now := rfl
@[simp] theorem nextFree_gtOff : (s.nextFree).gtOff = s.gtOff := rfl
@[simp] theorem nextFree_regs : (s.nextFree).regs = s.regs := rfl
@[simp] theorem nextFree_tables : (s.nextFree).tables = s.tables := rfl
@[simp] theorem nextFree_hostMem : (s.nextFree).hostMem = s.hostMem := rfl
@[simp] theorem nextFree_outbox : (s.nextFree).outbox = s.outbox := rfl
@[simp] theorem nextFree_safeN : (s.nextFree).safeN = s.safeN := rfl
@[simp] theorem nextFree_snaps : (s.nextFree).snaps = s.snaps := rfl
@[simp] theorem nextFree_hif : (s.nextFree).hif = s.hif := rfl
@[simp] theorem nextFree_spill : (s.nextFree).spill = s.spill := rfl
@[simp] theorem nextFree_tim : (s.nextFree).tim = s.tim := rfl
@[simp] theorem nextFree_fe : (s.nextFree).fe = s.fe := rfl
@[simp] theorem nextFree_acq : (s.nextFree).acq = s.acq := rfl
@[simp] theorem nextFree_trk : (s.nextFree).trk = s.trk := rfl
@[simp] theorem nextFree_sch : (s.nextFree).sch = s.sch := rfl
@[simp] theorem nextFree_pmc : (s.nextFree).pmc = s.pmc := rfl
@[simp] theorem nextFree_wmn : (s.nextFree).wmn = s.wmn := rfl
@[simp] theorem nextFree_flt : (s.nextFree).flt = s.flt := rfl
@[simp] theorem nextFree_mem : (s.nextFree).mem = s.mem := rfl
@[simp] theorem nextFree_pwr : (s.nextFree).pwr = s.pwr := rfl
@[simp] theorem nextFree_nvs : (s.nextFree).nvs = s.nvs := rfl

/-! ### `State.withPending` changes `pending` only -/

@[simp] theorem withPending_now (q : List Instr) : (s.withPending q).now = s.now := rfl
@[simp] theorem withPending_gtOff (q : List Instr) : (s.withPending q).gtOff = s.gtOff := rfl
@[simp] theorem withPending_regs (q : List Instr) : (s.withPending q).regs = s.regs := rfl
@[simp] theorem withPending_tables (q : List Instr) : (s.withPending q).tables = s.tables := rfl
@[simp] theorem withPending_hostMem (q : List Instr) : (s.withPending q).hostMem = s.hostMem := rfl
@[simp] theorem withPending_outbox (q : List Instr) : (s.withPending q).outbox = s.outbox := rfl
@[simp] theorem withPending_freeIdx (q : List Instr) : (s.withPending q).freeIdx = s.freeIdx := rfl
@[simp] theorem withPending_safeN (q : List Instr) : (s.withPending q).safeN = s.safeN := rfl
@[simp] theorem withPending_snaps (q : List Instr) : (s.withPending q).snaps = s.snaps := rfl
@[simp] theorem withPending_hif (q : List Instr) : (s.withPending q).hif = s.hif := rfl
@[simp] theorem withPending_spill (q : List Instr) : (s.withPending q).spill = s.spill := rfl
@[simp] theorem withPending_tim (q : List Instr) : (s.withPending q).tim = s.tim := rfl
@[simp] theorem withPending_fe (q : List Instr) : (s.withPending q).fe = s.fe := rfl
@[simp] theorem withPending_acq (q : List Instr) : (s.withPending q).acq = s.acq := rfl
@[simp] theorem withPending_trk (q : List Instr) : (s.withPending q).trk = s.trk := rfl
@[simp] theorem withPending_sch (q : List Instr) : (s.withPending q).sch = s.sch := rfl
@[simp] theorem withPending_pmc (q : List Instr) : (s.withPending q).pmc = s.pmc := rfl
@[simp] theorem withPending_wmn (q : List Instr) : (s.withPending q).wmn = s.wmn := rfl
@[simp] theorem withPending_flt (q : List Instr) : (s.withPending q).flt = s.flt := rfl
@[simp] theorem withPending_mem (q : List Instr) : (s.withPending q).mem = s.mem := rfl
@[simp] theorem withPending_pwr (q : List Instr) : (s.withPending q).pwr = s.pwr := rfl
@[simp] theorem withPending_nvs (q : List Instr) : (s.withPending q).nvs = s.nvs := rfl

/-! ### `State.setTim` changes `tim` only -/

@[simp] theorem setTim_pending (x : TimSt) : (s.setTim x).pending = s.pending := rfl
@[simp] theorem setTim_now (x : TimSt) : (s.setTim x).now = s.now := rfl
@[simp] theorem setTim_gtOff (x : TimSt) : (s.setTim x).gtOff = s.gtOff := rfl
@[simp] theorem setTim_regs (x : TimSt) : (s.setTim x).regs = s.regs := rfl
@[simp] theorem setTim_tables (x : TimSt) : (s.setTim x).tables = s.tables := rfl
@[simp] theorem setTim_hostMem (x : TimSt) : (s.setTim x).hostMem = s.hostMem := rfl
@[simp] theorem setTim_outbox (x : TimSt) : (s.setTim x).outbox = s.outbox := rfl
@[simp] theorem setTim_freeIdx (x : TimSt) : (s.setTim x).freeIdx = s.freeIdx := rfl
@[simp] theorem setTim_safeN (x : TimSt) : (s.setTim x).safeN = s.safeN := rfl
@[simp] theorem setTim_snaps (x : TimSt) : (s.setTim x).snaps = s.snaps := rfl
@[simp] theorem setTim_hif (x : TimSt) : (s.setTim x).hif = s.hif := rfl
@[simp] theorem setTim_spill (x : TimSt) : (s.setTim x).spill = s.spill := rfl
@[simp] theorem setTim_fe (x : TimSt) : (s.setTim x).fe = s.fe := rfl
@[simp] theorem setTim_acq (x : TimSt) : (s.setTim x).acq = s.acq := rfl
@[simp] theorem setTim_trk (x : TimSt) : (s.setTim x).trk = s.trk := rfl
@[simp] theorem setTim_sch (x : TimSt) : (s.setTim x).sch = s.sch := rfl
@[simp] theorem setTim_pmc (x : TimSt) : (s.setTim x).pmc = s.pmc := rfl
@[simp] theorem setTim_wmn (x : TimSt) : (s.setTim x).wmn = s.wmn := rfl
@[simp] theorem setTim_flt (x : TimSt) : (s.setTim x).flt = s.flt := rfl
@[simp] theorem setTim_mem (x : TimSt) : (s.setTim x).mem = s.mem := rfl
@[simp] theorem setTim_pwr (x : TimSt) : (s.setTim x).pwr = s.pwr := rfl
@[simp] theorem setTim_nvs (x : TimSt) : (s.setTim x).nvs = s.nvs := rfl

/-! ### `State.setAcq` changes `acq` only -/

@[simp] theorem setAcq_pending (x : AcqSt) : (s.setAcq x).pending = s.pending := rfl
@[simp] theorem setAcq_now (x : AcqSt) : (s.setAcq x).now = s.now := rfl
@[simp] theorem setAcq_gtOff (x : AcqSt) : (s.setAcq x).gtOff = s.gtOff := rfl
@[simp] theorem setAcq_regs (x : AcqSt) : (s.setAcq x).regs = s.regs := rfl
@[simp] theorem setAcq_tables (x : AcqSt) : (s.setAcq x).tables = s.tables := rfl
@[simp] theorem setAcq_hostMem (x : AcqSt) : (s.setAcq x).hostMem = s.hostMem := rfl
@[simp] theorem setAcq_outbox (x : AcqSt) : (s.setAcq x).outbox = s.outbox := rfl
@[simp] theorem setAcq_freeIdx (x : AcqSt) : (s.setAcq x).freeIdx = s.freeIdx := rfl
@[simp] theorem setAcq_safeN (x : AcqSt) : (s.setAcq x).safeN = s.safeN := rfl
@[simp] theorem setAcq_snaps (x : AcqSt) : (s.setAcq x).snaps = s.snaps := rfl
@[simp] theorem setAcq_hif (x : AcqSt) : (s.setAcq x).hif = s.hif := rfl
@[simp] theorem setAcq_spill (x : AcqSt) : (s.setAcq x).spill = s.spill := rfl
@[simp] theorem setAcq_tim (x : AcqSt) : (s.setAcq x).tim = s.tim := rfl
@[simp] theorem setAcq_fe (x : AcqSt) : (s.setAcq x).fe = s.fe := rfl
@[simp] theorem setAcq_trk (x : AcqSt) : (s.setAcq x).trk = s.trk := rfl
@[simp] theorem setAcq_sch (x : AcqSt) : (s.setAcq x).sch = s.sch := rfl
@[simp] theorem setAcq_pmc (x : AcqSt) : (s.setAcq x).pmc = s.pmc := rfl
@[simp] theorem setAcq_wmn (x : AcqSt) : (s.setAcq x).wmn = s.wmn := rfl
@[simp] theorem setAcq_flt (x : AcqSt) : (s.setAcq x).flt = s.flt := rfl
@[simp] theorem setAcq_mem (x : AcqSt) : (s.setAcq x).mem = s.mem := rfl
@[simp] theorem setAcq_pwr (x : AcqSt) : (s.setAcq x).pwr = s.pwr := rfl
@[simp] theorem setAcq_nvs (x : AcqSt) : (s.setAcq x).nvs = s.nvs := rfl

/-! ### `State.setMem` changes `mem` only -/

@[simp] theorem setMem_pending (x : MemSt) : (s.setMem x).pending = s.pending := rfl
@[simp] theorem setMem_now (x : MemSt) : (s.setMem x).now = s.now := rfl
@[simp] theorem setMem_gtOff (x : MemSt) : (s.setMem x).gtOff = s.gtOff := rfl
@[simp] theorem setMem_regs (x : MemSt) : (s.setMem x).regs = s.regs := rfl
@[simp] theorem setMem_tables (x : MemSt) : (s.setMem x).tables = s.tables := rfl
@[simp] theorem setMem_hostMem (x : MemSt) : (s.setMem x).hostMem = s.hostMem := rfl
@[simp] theorem setMem_outbox (x : MemSt) : (s.setMem x).outbox = s.outbox := rfl
@[simp] theorem setMem_freeIdx (x : MemSt) : (s.setMem x).freeIdx = s.freeIdx := rfl
@[simp] theorem setMem_safeN (x : MemSt) : (s.setMem x).safeN = s.safeN := rfl
@[simp] theorem setMem_snaps (x : MemSt) : (s.setMem x).snaps = s.snaps := rfl
@[simp] theorem setMem_hif (x : MemSt) : (s.setMem x).hif = s.hif := rfl
@[simp] theorem setMem_spill (x : MemSt) : (s.setMem x).spill = s.spill := rfl
@[simp] theorem setMem_tim (x : MemSt) : (s.setMem x).tim = s.tim := rfl
@[simp] theorem setMem_fe (x : MemSt) : (s.setMem x).fe = s.fe := rfl
@[simp] theorem setMem_acq (x : MemSt) : (s.setMem x).acq = s.acq := rfl
@[simp] theorem setMem_trk (x : MemSt) : (s.setMem x).trk = s.trk := rfl
@[simp] theorem setMem_sch (x : MemSt) : (s.setMem x).sch = s.sch := rfl
@[simp] theorem setMem_pmc (x : MemSt) : (s.setMem x).pmc = s.pmc := rfl
@[simp] theorem setMem_wmn (x : MemSt) : (s.setMem x).wmn = s.wmn := rfl
@[simp] theorem setMem_flt (x : MemSt) : (s.setMem x).flt = s.flt := rfl
@[simp] theorem setMem_pwr (x : MemSt) : (s.setMem x).pwr = s.pwr := rfl
@[simp] theorem setMem_nvs (x : MemSt) : (s.setMem x).nvs = s.nvs := rfl

/-! ### `State.setPmc` changes `pmc` only -/

@[simp] theorem setPmc_pending (x : PmcSt) : (s.setPmc x).pending = s.pending := rfl
@[simp] theorem setPmc_now (x : PmcSt) : (s.setPmc x).now = s.now := rfl
@[simp] theorem setPmc_gtOff (x : PmcSt) : (s.setPmc x).gtOff = s.gtOff := rfl
@[simp] theorem setPmc_regs (x : PmcSt) : (s.setPmc x).regs = s.regs := rfl
@[simp] theorem setPmc_tables (x : PmcSt) : (s.setPmc x).tables = s.tables := rfl
@[simp] theorem setPmc_hostMem (x : PmcSt) : (s.setPmc x).hostMem = s.hostMem := rfl
@[simp] theorem setPmc_outbox (x : PmcSt) : (s.setPmc x).outbox = s.outbox := rfl
@[simp] theorem setPmc_freeIdx (x : PmcSt) : (s.setPmc x).freeIdx = s.freeIdx := rfl
@[simp] theorem setPmc_safeN (x : PmcSt) : (s.setPmc x).safeN = s.safeN := rfl
@[simp] theorem setPmc_snaps (x : PmcSt) : (s.setPmc x).snaps = s.snaps := rfl
@[simp] theorem setPmc_hif (x : PmcSt) : (s.setPmc x).hif = s.hif := rfl
@[simp] theorem setPmc_spill (x : PmcSt) : (s.setPmc x).spill = s.spill := rfl
@[simp] theorem setPmc_tim (x : PmcSt) : (s.setPmc x).tim = s.tim := rfl
@[simp] theorem setPmc_fe (x : PmcSt) : (s.setPmc x).fe = s.fe := rfl
@[simp] theorem setPmc_acq (x : PmcSt) : (s.setPmc x).acq = s.acq := rfl
@[simp] theorem setPmc_trk (x : PmcSt) : (s.setPmc x).trk = s.trk := rfl
@[simp] theorem setPmc_sch (x : PmcSt) : (s.setPmc x).sch = s.sch := rfl
@[simp] theorem setPmc_wmn (x : PmcSt) : (s.setPmc x).wmn = s.wmn := rfl
@[simp] theorem setPmc_flt (x : PmcSt) : (s.setPmc x).flt = s.flt := rfl
@[simp] theorem setPmc_mem (x : PmcSt) : (s.setPmc x).mem = s.mem := rfl
@[simp] theorem setPmc_pwr (x : PmcSt) : (s.setPmc x).pwr = s.pwr := rfl
@[simp] theorem setPmc_nvs (x : PmcSt) : (s.setPmc x).nvs = s.nvs := rfl

/-! ### `State.setTrk` changes `trk` only -/

@[simp] theorem setTrk_pending (x : TrkSt) : (s.setTrk x).pending = s.pending := rfl
@[simp] theorem setTrk_now (x : TrkSt) : (s.setTrk x).now = s.now := rfl
@[simp] theorem setTrk_gtOff (x : TrkSt) : (s.setTrk x).gtOff = s.gtOff := rfl
@[simp] theorem setTrk_regs (x : TrkSt) : (s.setTrk x).regs = s.regs := rfl
@[simp] theorem setTrk_tables (x : TrkSt) : (s.setTrk x).tables = s.tables := rfl
@[simp] theorem setTrk_hostMem (x : TrkSt) : (s.setTrk x).hostMem = s.hostMem := rfl
@[simp] theorem setTrk_outbox (x : TrkSt) : (s.setTrk x).outbox = s.outbox := rfl
@[simp] theorem setTrk_freeIdx (x : TrkSt) : (s.setTrk x).freeIdx = s.freeIdx := rfl
@[simp] theorem setTrk_safeN (x : TrkSt) : (s.setTrk x).safeN = s.safeN := rfl
@[simp] theorem setTrk_snaps (x : TrkSt) : (s.setTrk x).snaps = s.snaps := rfl
@[simp] theorem setTrk_hif (x : TrkSt) : (s.setTrk x).hif = s.hif := rfl
@[simp] theorem setTrk_spill (x : TrkSt) : (s.setTrk x).spill = s.spill := rfl
@[simp] theorem setTrk_tim (x : TrkSt) : (s.setTrk x).tim = s.tim := rfl
@[simp] theorem setTrk_fe (x : TrkSt) : (s.setTrk x).fe = s.fe := rfl
@[simp] theorem setTrk_acq (x : TrkSt) : (s.setTrk x).acq = s.acq := rfl
@[simp] theorem setTrk_sch (x : TrkSt) : (s.setTrk x).sch = s.sch := rfl
@[simp] theorem setTrk_pmc (x : TrkSt) : (s.setTrk x).pmc = s.pmc := rfl
@[simp] theorem setTrk_wmn (x : TrkSt) : (s.setTrk x).wmn = s.wmn := rfl
@[simp] theorem setTrk_flt (x : TrkSt) : (s.setTrk x).flt = s.flt := rfl
@[simp] theorem setTrk_mem (x : TrkSt) : (s.setTrk x).mem = s.mem := rfl
@[simp] theorem setTrk_pwr (x : TrkSt) : (s.setTrk x).pwr = s.pwr := rfl
@[simp] theorem setTrk_nvs (x : TrkSt) : (s.setTrk x).nvs = s.nvs := rfl

/-! ### `State.modF` changes `fe` only -/

@[simp] theorem modF_pending (n : Nat) (g : FeSt → FeSt) : (s.modF n g).pending = s.pending := rfl
@[simp] theorem modF_now (n : Nat) (g : FeSt → FeSt) : (s.modF n g).now = s.now := rfl
@[simp] theorem modF_gtOff (n : Nat) (g : FeSt → FeSt) : (s.modF n g).gtOff = s.gtOff := rfl
@[simp] theorem modF_regs (n : Nat) (g : FeSt → FeSt) : (s.modF n g).regs = s.regs := rfl
@[simp] theorem modF_tables (n : Nat) (g : FeSt → FeSt) : (s.modF n g).tables = s.tables := rfl
@[simp] theorem modF_hostMem (n : Nat) (g : FeSt → FeSt) : (s.modF n g).hostMem = s.hostMem := rfl
@[simp] theorem modF_outbox (n : Nat) (g : FeSt → FeSt) : (s.modF n g).outbox = s.outbox := rfl
@[simp] theorem modF_freeIdx (n : Nat) (g : FeSt → FeSt) : (s.modF n g).freeIdx = s.freeIdx := rfl
@[simp] theorem modF_safeN (n : Nat) (g : FeSt → FeSt) : (s.modF n g).safeN = s.safeN := rfl
@[simp] theorem modF_snaps (n : Nat) (g : FeSt → FeSt) : (s.modF n g).snaps = s.snaps := rfl
@[simp] theorem modF_hif (n : Nat) (g : FeSt → FeSt) : (s.modF n g).hif = s.hif := rfl
@[simp] theorem modF_spill (n : Nat) (g : FeSt → FeSt) : (s.modF n g).spill = s.spill := rfl
@[simp] theorem modF_tim (n : Nat) (g : FeSt → FeSt) : (s.modF n g).tim = s.tim := rfl
@[simp] theorem modF_acq (n : Nat) (g : FeSt → FeSt) : (s.modF n g).acq = s.acq := rfl
@[simp] theorem modF_trk (n : Nat) (g : FeSt → FeSt) : (s.modF n g).trk = s.trk := rfl
@[simp] theorem modF_sch (n : Nat) (g : FeSt → FeSt) : (s.modF n g).sch = s.sch := rfl
@[simp] theorem modF_pmc (n : Nat) (g : FeSt → FeSt) : (s.modF n g).pmc = s.pmc := rfl
@[simp] theorem modF_wmn (n : Nat) (g : FeSt → FeSt) : (s.modF n g).wmn = s.wmn := rfl
@[simp] theorem modF_flt (n : Nat) (g : FeSt → FeSt) : (s.modF n g).flt = s.flt := rfl
@[simp] theorem modF_mem (n : Nat) (g : FeSt → FeSt) : (s.modF n g).mem = s.mem := rfl
@[simp] theorem modF_pwr (n : Nat) (g : FeSt → FeSt) : (s.modF n g).pwr = s.pwr := rfl
@[simp] theorem modF_nvs (n : Nat) (g : FeSt → FeSt) : (s.modF n g).nvs = s.nvs := rfl

/-! ### `State.modW` changes `wmn` only -/

@[simp] theorem modW_pending (m : Nat) (g : WeirSt → WeirSt) : (s.modW m g).pending = s.pending := rfl
@[simp] theorem modW_now (m : Nat) (g : WeirSt → WeirSt) : (s.modW m g).now = s.now := rfl
@[simp] theorem modW_gtOff (m : Nat) (g : WeirSt → WeirSt) : (s.modW m g).gtOff = s.gtOff := rfl
@[simp] theorem modW_regs (m : Nat) (g : WeirSt → WeirSt) : (s.modW m g).regs = s.regs := rfl
@[simp] theorem modW_tables (m : Nat) (g : WeirSt → WeirSt) : (s.modW m g).tables = s.tables := rfl
@[simp] theorem modW_hostMem (m : Nat) (g : WeirSt → WeirSt) : (s.modW m g).hostMem = s.hostMem := rfl
@[simp] theorem modW_outbox (m : Nat) (g : WeirSt → WeirSt) : (s.modW m g).outbox = s.outbox := rfl
@[simp] theorem modW_freeIdx (m : Nat) (g : WeirSt → WeirSt) : (s.modW m g).freeIdx = s.freeIdx := rfl
@[simp] theorem modW_safeN (m : Nat) (g : WeirSt → WeirSt) : (s.modW m g).safeN = s.safeN := rfl
@[simp] theorem modW_snaps (m : Nat) (g : WeirSt → WeirSt) : (s.modW m g).snaps = s.snaps := rfl
@[simp] theorem modW_hif (m : Nat) (g : WeirSt → WeirSt) : (s.modW m g).hif = s.hif := rfl
@[simp] theorem modW_spill (m : Nat) (g : WeirSt → WeirSt) : (s.modW m g).spill = s.spill := rfl
@[simp] theorem modW_tim (m : Nat) (g : WeirSt → WeirSt) : (s.modW m g).tim = s.tim := rfl
@[simp] theorem modW_fe (m : Nat) (g : WeirSt → WeirSt) : (s.modW m g).fe = s.fe := rfl
@[simp] theorem modW_acq (m : Nat) (g : WeirSt → WeirSt) : (s.modW m g).acq = s.acq := rfl
@[simp] theorem modW_trk (m : Nat) (g : WeirSt → WeirSt) : (s.modW m g).trk = s.trk := rfl
@[simp] theorem modW_sch (m : Nat) (g : WeirSt → WeirSt) : (s.modW m g).sch = s.sch := rfl
@[simp] theorem modW_pmc (m : Nat) (g : WeirSt → WeirSt) : (s.modW m g).pmc = s.pmc := rfl
@[simp] theorem modW_flt (m : Nat) (g : WeirSt → WeirSt) : (s.modW m g).flt = s.flt := rfl
@[simp] theorem modW_mem (m : Nat) (g : WeirSt → WeirSt) : (s.modW m g).mem = s.mem := rfl
@[simp] theorem modW_pwr (m : Nat) (g : WeirSt → WeirSt) : (s.modW m g).pwr = s.pwr := rfl
@[simp] theorem modW_nvs (m : Nat) (g : WeirSt → WeirSt) : (s.modW m g).nvs = s.nvs := rfl

/-! ### `State.setRing` changes `hif` only -/

@[simp] theorem setRing_pending (r : Nat) (x : RingSt) : (s.setRing r x).pending = s.pending := rfl
@[simp] theorem setRing_now (r : Nat) (x : RingSt) : (s.setRing r x).now = s.now := rfl
@[simp] theorem setRing_gtOff (r : Nat) (x : RingSt) : (s.setRing r x).gtOff = s.gtOff := rfl
@[simp] theorem setRing_regs (r : Nat) (x : RingSt) : (s.setRing r x).regs = s.regs := rfl
@[simp] theorem setRing_tables (r : Nat) (x : RingSt) : (s.setRing r x).tables = s.tables := rfl
@[simp] theorem setRing_hostMem (r : Nat) (x : RingSt) : (s.setRing r x).hostMem = s.hostMem := rfl
@[simp] theorem setRing_outbox (r : Nat) (x : RingSt) : (s.setRing r x).outbox = s.outbox := rfl
@[simp] theorem setRing_freeIdx (r : Nat) (x : RingSt) : (s.setRing r x).freeIdx = s.freeIdx := rfl
@[simp] theorem setRing_safeN (r : Nat) (x : RingSt) : (s.setRing r x).safeN = s.safeN := rfl
@[simp] theorem setRing_snaps (r : Nat) (x : RingSt) : (s.setRing r x).snaps = s.snaps := rfl
@[simp] theorem setRing_spill (r : Nat) (x : RingSt) : (s.setRing r x).spill = s.spill := rfl
@[simp] theorem setRing_tim (r : Nat) (x : RingSt) : (s.setRing r x).tim = s.tim := rfl
@[simp] theorem setRing_fe (r : Nat) (x : RingSt) : (s.setRing r x).fe = s.fe := rfl
@[simp] theorem setRing_acq (r : Nat) (x : RingSt) : (s.setRing r x).acq = s.acq := rfl
@[simp] theorem setRing_trk (r : Nat) (x : RingSt) : (s.setRing r x).trk = s.trk := rfl
@[simp] theorem setRing_sch (r : Nat) (x : RingSt) : (s.setRing r x).sch = s.sch := rfl
@[simp] theorem setRing_pmc (r : Nat) (x : RingSt) : (s.setRing r x).pmc = s.pmc := rfl
@[simp] theorem setRing_wmn (r : Nat) (x : RingSt) : (s.setRing r x).wmn = s.wmn := rfl
@[simp] theorem setRing_flt (r : Nat) (x : RingSt) : (s.setRing r x).flt = s.flt := rfl
@[simp] theorem setRing_mem (r : Nat) (x : RingSt) : (s.setRing r x).mem = s.mem := rfl
@[simp] theorem setRing_pwr (r : Nat) (x : RingSt) : (s.setRing r x).pwr = s.pwr := rfl
@[simp] theorem setRing_nvs (r : Nat) (x : RingSt) : (s.setRing r x).nvs = s.nvs := rfl

/-! ### `State.setCplRing` changes `hif` only -/

@[simp] theorem setCplRing_pending (k : Nat) (x : CplSt) : (s.setCplRing k x).pending = s.pending := rfl
@[simp] theorem setCplRing_now (k : Nat) (x : CplSt) : (s.setCplRing k x).now = s.now := rfl
@[simp] theorem setCplRing_gtOff (k : Nat) (x : CplSt) : (s.setCplRing k x).gtOff = s.gtOff := rfl
@[simp] theorem setCplRing_regs (k : Nat) (x : CplSt) : (s.setCplRing k x).regs = s.regs := rfl
@[simp] theorem setCplRing_tables (k : Nat) (x : CplSt) : (s.setCplRing k x).tables = s.tables := rfl
@[simp] theorem setCplRing_hostMem (k : Nat) (x : CplSt) : (s.setCplRing k x).hostMem = s.hostMem := rfl
@[simp] theorem setCplRing_outbox (k : Nat) (x : CplSt) : (s.setCplRing k x).outbox = s.outbox := rfl
@[simp] theorem setCplRing_freeIdx (k : Nat) (x : CplSt) : (s.setCplRing k x).freeIdx = s.freeIdx := rfl
@[simp] theorem setCplRing_safeN (k : Nat) (x : CplSt) : (s.setCplRing k x).safeN = s.safeN := rfl
@[simp] theorem setCplRing_snaps (k : Nat) (x : CplSt) : (s.setCplRing k x).snaps = s.snaps := rfl
@[simp] theorem setCplRing_spill (k : Nat) (x : CplSt) : (s.setCplRing k x).spill = s.spill := rfl
@[simp] theorem setCplRing_tim (k : Nat) (x : CplSt) : (s.setCplRing k x).tim = s.tim := rfl
@[simp] theorem setCplRing_fe (k : Nat) (x : CplSt) : (s.setCplRing k x).fe = s.fe := rfl
@[simp] theorem setCplRing_acq (k : Nat) (x : CplSt) : (s.setCplRing k x).acq = s.acq := rfl
@[simp] theorem setCplRing_trk (k : Nat) (x : CplSt) : (s.setCplRing k x).trk = s.trk := rfl
@[simp] theorem setCplRing_sch (k : Nat) (x : CplSt) : (s.setCplRing k x).sch = s.sch := rfl
@[simp] theorem setCplRing_pmc (k : Nat) (x : CplSt) : (s.setCplRing k x).pmc = s.pmc := rfl
@[simp] theorem setCplRing_wmn (k : Nat) (x : CplSt) : (s.setCplRing k x).wmn = s.wmn := rfl
@[simp] theorem setCplRing_flt (k : Nat) (x : CplSt) : (s.setCplRing k x).flt = s.flt := rfl
@[simp] theorem setCplRing_mem (k : Nat) (x : CplSt) : (s.setCplRing k x).mem = s.mem := rfl
@[simp] theorem setCplRing_pwr (k : Nat) (x : CplSt) : (s.setCplRing k x).pwr = s.pwr := rfl
@[simp] theorem setCplRing_nvs (k : Nat) (x : CplSt) : (s.setCplRing k x).nvs = s.nvs := rfl

/-! ### `State.setStrRing` changes `hif` only -/

@[simp] theorem setStrRing_pending (m : Nat) (x : StrSt) : (s.setStrRing m x).pending = s.pending := rfl
@[simp] theorem setStrRing_now (m : Nat) (x : StrSt) : (s.setStrRing m x).now = s.now := rfl
@[simp] theorem setStrRing_gtOff (m : Nat) (x : StrSt) : (s.setStrRing m x).gtOff = s.gtOff := rfl
@[simp] theorem setStrRing_regs (m : Nat) (x : StrSt) : (s.setStrRing m x).regs = s.regs := rfl
@[simp] theorem setStrRing_tables (m : Nat) (x : StrSt) : (s.setStrRing m x).tables = s.tables := rfl
@[simp] theorem setStrRing_hostMem (m : Nat) (x : StrSt) : (s.setStrRing m x).hostMem = s.hostMem := rfl
@[simp] theorem setStrRing_outbox (m : Nat) (x : StrSt) : (s.setStrRing m x).outbox = s.outbox := rfl
@[simp] theorem setStrRing_freeIdx (m : Nat) (x : StrSt) : (s.setStrRing m x).freeIdx = s.freeIdx := rfl
@[simp] theorem setStrRing_safeN (m : Nat) (x : StrSt) : (s.setStrRing m x).safeN = s.safeN := rfl
@[simp] theorem setStrRing_snaps (m : Nat) (x : StrSt) : (s.setStrRing m x).snaps = s.snaps := rfl
@[simp] theorem setStrRing_spill (m : Nat) (x : StrSt) : (s.setStrRing m x).spill = s.spill := rfl
@[simp] theorem setStrRing_tim (m : Nat) (x : StrSt) : (s.setStrRing m x).tim = s.tim := rfl
@[simp] theorem setStrRing_fe (m : Nat) (x : StrSt) : (s.setStrRing m x).fe = s.fe := rfl
@[simp] theorem setStrRing_acq (m : Nat) (x : StrSt) : (s.setStrRing m x).acq = s.acq := rfl
@[simp] theorem setStrRing_trk (m : Nat) (x : StrSt) : (s.setStrRing m x).trk = s.trk := rfl
@[simp] theorem setStrRing_sch (m : Nat) (x : StrSt) : (s.setStrRing m x).sch = s.sch := rfl
@[simp] theorem setStrRing_pmc (m : Nat) (x : StrSt) : (s.setStrRing m x).pmc = s.pmc := rfl
@[simp] theorem setStrRing_wmn (m : Nat) (x : StrSt) : (s.setStrRing m x).wmn = s.wmn := rfl
@[simp] theorem setStrRing_flt (m : Nat) (x : StrSt) : (s.setStrRing m x).flt = s.flt := rfl
@[simp] theorem setStrRing_mem (m : Nat) (x : StrSt) : (s.setStrRing m x).mem = s.mem := rfl
@[simp] theorem setStrRing_pwr (m : Nat) (x : StrSt) : (s.setStrRing m x).pwr = s.pwr := rfl
@[simp] theorem setStrRing_nvs (m : Nat) (x : StrSt) : (s.setStrRing m x).nvs = s.nvs := rfl

/-! ### `State.setGroup` changes `sch` only -/

@[simp] theorem setGroup_pending (g : Nat) (x : Option Group) : (s.setGroup g x).pending = s.pending := rfl
@[simp] theorem setGroup_now (g : Nat) (x : Option Group) : (s.setGroup g x).now = s.now := rfl
@[simp] theorem setGroup_gtOff (g : Nat) (x : Option Group) : (s.setGroup g x).gtOff = s.gtOff := rfl
@[simp] theorem setGroup_regs (g : Nat) (x : Option Group) : (s.setGroup g x).regs = s.regs := rfl
@[simp] theorem setGroup_tables (g : Nat) (x : Option Group) : (s.setGroup g x).tables = s.tables := rfl
@[simp] theorem setGroup_hostMem (g : Nat) (x : Option Group) : (s.setGroup g x).hostMem = s.hostMem := rfl
@[simp] theorem setGroup_outbox (g : Nat) (x : Option Group) : (s.setGroup g x).outbox = s.outbox := rfl
@[simp] theorem setGroup_freeIdx (g : Nat) (x : Option Group) : (s.setGroup g x).freeIdx = s.freeIdx := rfl
@[simp] theorem setGroup_safeN (g : Nat) (x : Option Group) : (s.setGroup g x).safeN = s.safeN := rfl
@[simp] theorem setGroup_snaps (g : Nat) (x : Option Group) : (s.setGroup g x).snaps = s.snaps := rfl
@[simp] theorem setGroup_hif (g : Nat) (x : Option Group) : (s.setGroup g x).hif = s.hif := rfl
@[simp] theorem setGroup_spill (g : Nat) (x : Option Group) : (s.setGroup g x).spill = s.spill := rfl
@[simp] theorem setGroup_tim (g : Nat) (x : Option Group) : (s.setGroup g x).tim = s.tim := rfl
@[simp] theorem setGroup_fe (g : Nat) (x : Option Group) : (s.setGroup g x).fe = s.fe := rfl
@[simp] theorem setGroup_acq (g : Nat) (x : Option Group) : (s.setGroup g x).acq = s.acq := rfl
@[simp] theorem setGroup_trk (g : Nat) (x : Option Group) : (s.setGroup g x).trk = s.trk := rfl
@[simp] theorem setGroup_pmc (g : Nat) (x : Option Group) : (s.setGroup g x).pmc = s.pmc := rfl
@[simp] theorem setGroup_wmn (g : Nat) (x : Option Group) : (s.setGroup g x).wmn = s.wmn := rfl
@[simp] theorem setGroup_flt (g : Nat) (x : Option Group) : (s.setGroup g x).flt = s.flt := rfl
@[simp] theorem setGroup_mem (g : Nat) (x : Option Group) : (s.setGroup g x).mem = s.mem := rfl
@[simp] theorem setGroup_pwr (g : Nat) (x : Option Group) : (s.setGroup g x).pwr = s.pwr := rfl
@[simp] theorem setGroup_nvs (g : Nat) (x : Option Group) : (s.setGroup g x).nvs = s.nvs := rfl

/-! ### `State.setImg` changes `sch`, and in `mem` the shares -/

@[simp] theorem setImg_pending (k : Nat) (x : Option Image) : (s.setImg k x).pending = s.pending := rfl
@[simp] theorem setImg_now (k : Nat) (x : Option Image) : (s.setImg k x).now = s.now := rfl
@[simp] theorem setImg_gtOff (k : Nat) (x : Option Image) : (s.setImg k x).gtOff = s.gtOff := rfl
@[simp] theorem setImg_regs (k : Nat) (x : Option Image) : (s.setImg k x).regs = s.regs := rfl
@[simp] theorem setImg_tables (k : Nat) (x : Option Image) : (s.setImg k x).tables = s.tables := rfl
@[simp] theorem setImg_hostMem (k : Nat) (x : Option Image) : (s.setImg k x).hostMem = s.hostMem := rfl
@[simp] theorem setImg_outbox (k : Nat) (x : Option Image) : (s.setImg k x).outbox = s.outbox := rfl
@[simp] theorem setImg_freeIdx (k : Nat) (x : Option Image) : (s.setImg k x).freeIdx = s.freeIdx := rfl
@[simp] theorem setImg_safeN (k : Nat) (x : Option Image) : (s.setImg k x).safeN = s.safeN := rfl
@[simp] theorem setImg_snaps (k : Nat) (x : Option Image) : (s.setImg k x).snaps = s.snaps := rfl
@[simp] theorem setImg_hif (k : Nat) (x : Option Image) : (s.setImg k x).hif = s.hif := rfl
@[simp] theorem setImg_spill (k : Nat) (x : Option Image) : (s.setImg k x).spill = s.spill := rfl
@[simp] theorem setImg_tim (k : Nat) (x : Option Image) : (s.setImg k x).tim = s.tim := rfl
@[simp] theorem setImg_fe (k : Nat) (x : Option Image) : (s.setImg k x).fe = s.fe := rfl
@[simp] theorem setImg_acq (k : Nat) (x : Option Image) : (s.setImg k x).acq = s.acq := rfl
@[simp] theorem setImg_trk (k : Nat) (x : Option Image) : (s.setImg k x).trk = s.trk := rfl
@[simp] theorem setImg_pmc (k : Nat) (x : Option Image) : (s.setImg k x).pmc = s.pmc := rfl
@[simp] theorem setImg_wmn (k : Nat) (x : Option Image) : (s.setImg k x).wmn = s.wmn := rfl
@[simp] theorem setImg_flt (k : Nat) (x : Option Image) : (s.setImg k x).flt = s.flt := rfl
@[simp] theorem setImg_pwr (k : Nat) (x : Option Image) : (s.setImg k x).pwr = s.pwr := rfl
@[simp] theorem setImg_nvs (k : Nat) (x : Option Image) : (s.setImg k x).nvs = s.nvs := rfl

/-! ### What an update writes -/

@[simp] theorem setReg_regs (off : Nat) (v : Word) : (s.setReg off v).regs = tput (resetOf off) s.regs off v := rfl
@[simp] theorem setTword_tables (off : Nat) (v : Word) :
    (s.setTword off v).tables = tput (tableReset off) s.tables off v := rfl
@[simp] theorem withPending_pending (q : List Instr) : (s.withPending q).pending = q := rfl
@[simp] theorem nextFree_freeIdx : s.nextFree.freeIdx = s.freeIdx + 1 := rfl
@[simp] theorem setTim_tim (x : TimSt) : (s.setTim x).tim = x := rfl
@[simp] theorem setAcq_acq (x : AcqSt) : (s.setAcq x).acq = x := rfl
@[simp] theorem setMem_mem (x : MemSt) : (s.setMem x).mem = x := rfl
@[simp] theorem setPmc_pmc (x : PmcSt) : (s.setPmc x).pmc = x := rfl
@[simp] theorem setTrk_trk (x : TrkSt) : (s.setTrk x).trk = x := rfl
@[simp] theorem modF_fe (n : Nat) (g : FeSt → FeSt) : (s.modF n g).fe = vset s.fe n (g (s.f n)) := rfl
@[simp] theorem modW_wmn (m : Nat) (g : WeirSt → WeirSt) : (s.modW m g).wmn = vset s.wmn m (g (s.weir m)) := rfl

end Sys2Proof.Machine
end

