-- ==== Sys2Proof/Laws/KeepsCore.lean ====
section
/-! SUPPORT. What every operation of the block keeps: the queue, the direction of time and of the free values, the Safe-Hold
latch and the canonical form of the sparse tables. One lemma for each operation; Machine/Ops.lean and Machine/Hif.lean. -/

namespace Sys2Proof.Machine

set_option Elab.async false
set_option linter.unusedSimpArgs false
set_option linter.unusedVariables false

/-- What every operation but SAFE_HOLD_CLEAR keeps between two states. -/
structure Keeps (s t : State) : Prop where
  pending : t.pending = s.pending
  now : s.now ≤ t.now
  free : s.freeIdx ≤ t.freeIdx
  chal : s.pwr.chal ≤ t.pwr.chal
  latch : s.flt.faultN = true → t.flt.faultN = true
  wf : s.wf = true → t.wf = true

theorem Keeps.refl (s : State) : Keeps s s := ⟨rfl, le_refl _, le_refl _, le_refl _, id, id⟩

theorem Keeps.trans {a b c : State} (h : Keeps a b) (g : Keeps b c) : Keeps a c :=
  ⟨g.1.trans h.1, h.2.trans g.2, h.3.trans g.3, h.4.trans g.4, fun x => g.5 (h.5 x), fun x => g.6 (h.6 x)⟩

variable {base s : State}

/-- An update of fields that none of the kept facts is about. -/
theorem Keeps_mk (h : Keeps base s) {g o sn sp hif spl ti fe ac tr sc pm wm f me p nv}
    (hf : f.faultN = s.flt.faultN) (hp : p.chal = s.pwr.chal) (hn : nv.bytes = s.nvs.bytes) :
    Keeps base ⟨s.pending, s.now, g, s.regs, s.tables, s.hostMem, o, s.freeIdx, sn, sp, hif, spl, ti, fe, ac, tr, sc, pm, wm, f, me,
      p, nv⟩ := by
  obtain ⟨h1, h2, h3, h4, h5, h6⟩ := h
  refine ⟨h1, h2, h3, by simpa [hp] using h4, by simpa [hf] using h5, fun x => ?_⟩
  have := h6 x
  simpa [State.wf, hn] using this

/-- The same, where new free values or challenges are drawn, or the latch is set. -/
theorem Keeps_draw (h : Keeps base s) {g o n sn sp hif spl ti fe ac tr sc pm wm f me p nv}
    (hn : s.freeIdx ≤ n) (hf : s.flt.faultN = true → f.faultN = true) (hp : s.pwr.chal ≤ p.chal) (hb : nv.bytes = s.nvs.bytes) :
    Keeps base ⟨s.pending, s.now, g, s.regs, s.tables, s.hostMem, o, n, sn, sp, hif, spl, ti, fe, ac, tr, sc, pm, wm, f, me,
      p, nv⟩ := by
  obtain ⟨h1, h2, h3, h4, h5, h6⟩ := h
  refine ⟨h1, h2, le_trans h3 hn, le_trans h4 hp, fun x => hf (h5 x), fun x => ?_⟩
  have := h6 x
  simpa [State.wf, hb] using this

theorem ite_keeps {c : Prop} [Decidable c] {x y : State} (hx : Keeps base x) (hy : Keeps base y) : Keeps base (if c then x else y) := by
  split <;> assumption

theorem foldl_keeps {α : Type} {f : State → α → State} {l : List α} (hs : Keeps base s)
    (hf : ∀ t x, Keeps base t → Keeps base (f t x)) : Keeps base (l.foldl f s) := by
  induction l generalizing s with
  | nil => exact hs
  | cons x l ih => exact ih (hf s x hs)

/-- A register file replaced by another in canonical form. -/
theorem withRegs_keeps (h : Keeps base s) (r : Tab Word) (hr : twf resetOf s.regs = true → twf resetOf r = true) :
    Keeps base { s with regs := r } := by
  obtain ⟨h1, h2, h3, h4, h5, h6⟩ := h
  refine ⟨h1, h2, h3, h4, h5, fun x => ?_⟩
  have := h6 x
  simp only [State.wf, Bool.and_eq_true] at this ⊢
  exact ⟨⟨⟨hr this.1.1.1, this.1.1.2⟩, this.1.2⟩, this.2⟩

theorem setReg_keeps (h : Keeps base s) (off : Nat) (v : Word) : Keeps base (s.setReg off v) := by
  obtain ⟨h1, h2, h3, h4, h5, h6⟩ := h
  refine ⟨h1, h2, h3, h4, h5, fun x => ?_⟩
  have := h6 x
  simp only [State.wf, Bool.and_eq_true] at this ⊢
  exact ⟨⟨⟨twf_tput _ _ _ _ this.1.1.1, this.1.1.2⟩, this.1.2⟩, this.2⟩

/-! ### Machine/Ops.lean -/

-- none

theorem set_keeps (hk : Keeps base s) (f : FRef) (x : Nat) : Keeps base (s.set f x) := by
  unfold State.set
  simp +contextual (maxDischargeDepth := 99) only [hk, Keeps_mk, ite_keeps, setReg_keeps]

theorem setI_keeps (hk : Keeps base s) (f : FRef) (x : Int) : Keeps base (s.setI f x) := by
  unfold State.setI
  simp +contextual (maxDischargeDepth := 99) only [hk, Keeps_mk, ite_keeps, set_keeps]

theorem setB_keeps (hk : Keeps base s) (f : FRef) (b : Bool) : Keeps base (s.setB f b) := by
  unfold State.setB
  simp +contextual (maxDischargeDepth := 99) only [hk, Keeps_mk, ite_keeps, set_keeps]

theorem set2_keeps (hk : Keeps base s) (lo hi : FRef) (v : Nat) : Keeps base (s.set2 lo hi v) := by
  unfold State.set2
  simp +contextual (maxDischargeDepth := 99) only [hk, Keeps_mk, ite_keeps, set_keeps]

theorem addSat_keeps (hk : Keeps base s) (f : FRef) (n : Nat) : Keeps base (s.addSat f n) := by
  unfold State.addSat
  simp +contextual (maxDischargeDepth := 99) only [hk, Keeps_mk, ite_keeps, set_keeps]

theorem addWrap_keeps (hk : Keeps base s) (f : FRef) (n : Nat) : Keeps base (s.addWrap f n) := by
  unfold State.addWrap
  simp +contextual (maxDischargeDepth := 99) only [hk, Keeps_mk, ite_keeps, set_keeps]

theorem at_keeps (hk : Keeps base s) (t : Nat) : Keeps base (s.at t) := by
  have h1 : Keeps base { s with now := max s.now t } :=
    ⟨hk.1, le_trans hk.2 (le_max_left _ _), hk.3, hk.4, hk.5, hk.6⟩
  unfold State.at
  exact ite_keeps h1 (Keeps_mk (setReg_keeps h1 _ _) rfl rfl rfl)

theorem setTword_keeps (hk : Keeps base s) (off : Nat) (v : Word) : Keeps base (s.setTword off v) := by
  obtain ⟨h1, h2, h3, h4, h5, h6⟩ := hk
  refine ⟨h1, h2, h3, h4, h5, fun x => ?_⟩
  have := h6 x
  simp only [State.wf, Bool.and_eq_true] at this ⊢
  exact ⟨⟨⟨this.1.1.1, twf_tput _ _ _ _ this.1.1.2⟩, this.1.2⟩, this.2⟩

theorem setTwords_keeps (hk : Keeps base s) (off : Nat) (l : List Word) : Keeps base (s.setTwords off l) := by
  induction l generalizing s off with
  | nil => exact hk
  | cons v vs ih => exact ih (setTword_keeps hk off v) (off + 4)

theorem nextFree_keeps (hk : Keeps base s) : Keeps base s.nextFree :=
  ⟨hk.1, hk.2, Nat.le_succ_of_le hk.3, hk.4, hk.5, hk.6⟩

theorem writeBytes_wf (m : Tab Byte) (a : Nat) (bs : List Byte) (h : twf (fun _ => (0 : Byte)) m = true) :
    twf (fun _ => (0 : Byte)) (writeBytes m a bs) = true := by
  induction bs generalizing m a with
  | nil => exact h
  | cons x bs ih => exact ih _ _ (twf_tput (fun _ => 0) _ _ _ h)

theorem dmaWrite_keeps (hk : Keeps base s) (addr : Nat) (bs : List Byte) : Keeps base (s.dmaWrite addr bs) := by
  obtain ⟨h1, h2, h3, h4, h5, h6⟩ := hk
  refine ⟨h1, h2, h3, h4, h5, fun x => ?_⟩
  have := h6 x
  simp only [State.wf, Bool.and_eq_true, dmaWrite_regs, dmaWrite_tables, dmaWrite_nvs] at this ⊢
  refine ⟨⟨this.1.1, ?_⟩, this.2⟩
  unfold State.dmaWrite
  dsimp only
  split
  · exact this.1.2
  · exact writeBytes_wf _ _ _ this.1.2

theorem nvPut_keeps (hk : Keeps base s) (off : Nat) (bs : List Byte) : Keeps base (s.nvPut off bs) := by
  obtain ⟨h1, h2, h3, h4, h5, h6⟩ := hk
  refine ⟨h1, h2, h3, h4, h5, fun x => ?_⟩
  have := h6 x
  simp only [State.wf, Bool.and_eq_true] at this ⊢
  exact ⟨this.1, writeBytes_wf _ _ _ this.2⟩

theorem note_keeps (hk : Keeps base s) (off m : Nat) :
    Keeps base (s.note off m) := by
  unfold State.note
  simp +contextual (maxDischargeDepth := 99) only [hk, Keeps_mk, ite_keeps]

theorem set1_keeps (hk : Keeps base s) (f : FRef) :
    Keeps base (s.set1 f) := by
  unfold State.set1
  simp +contextual (maxDischargeDepth := 99) only [hk, Keeps_mk, ite_keeps, set_keeps, note_keeps]

theorem orReg_keeps (hk : Keeps base s) (off m : Nat) :
    Keeps base (s.orReg off m) := by
  unfold State.orReg
  simp +contextual (maxDischargeDepth := 99) only [hk, Keeps_mk, ite_keeps, setReg_keeps, note_keeps]

theorem msix_keeps (hk : Keeps base s) (vec : Nat) : Keeps base (s.msix vec) := by
  unfold State.msix
  simp +contextual (maxDischargeDepth := 99) only [hk, Keeps_mk, ite_keeps]

theorem msixFlush_keeps (hk : Keeps base s) : Keeps base (s.msixFlush) := by
  unfold State.msixFlush
  simp +contextual (maxDischargeDepth := 99) only [hk, Keeps_mk, ite_keeps, msix_keeps, foldl_keeps, implies_true]

theorem ev_keeps (hk : Keeps base s) (f : FRef) :
    Keeps base (s.ev f) := by
  unfold State.ev
  simp +contextual (maxDischargeDepth := 99) only [hk, Keeps_mk, ite_keeps, note_keeps, set1_keeps, msix_keeps]

theorem aerUnc_keeps (hk : Keeps base s) (bit : Nat) :
    Keeps base (s.aerUnc bit) := by
  unfold State.aerUnc
  simp +contextual (maxDischargeDepth := 99) only [hk, Keeps_mk, ite_keeps]

theorem aer_keeps (hk : Keeps base s) (cls : Nat) :
    Keeps base (s.aer cls) := by
  unfold State.aer
  simp +contextual (maxDischargeDepth := 99) only [hk, Keeps_mk, ite_keeps, aerUnc_keeps]

theorem logMod_keeps (hk : Keeps base s) (f : LogRec → LogRec) : Keeps base (s.logMod f) := by
  unfold State.logMod
  try dsimp only
  repeat' split
  all_goals simp +contextual (maxDischargeDepth := 99) only [hk, Keeps_mk, ite_keeps]

theorem stickySet_keeps (hk : Keeps base s) (i : Nat) :
    Keeps base (s.stickySet i) := by
  unfold State.stickySet
  simp +contextual (maxDischargeDepth := 99) only [hk, Keeps_mk, ite_keeps, orReg_keeps, logMod_keeps]

theorem present_keeps (hk : Keeps base s) (src : Nat) :
    Keeps base (s.present src) := by
  unfold State.present
  try dsimp only
  repeat' split
  all_goals simp +contextual (maxDischargeDepth := 99) only [hk, Keeps_mk, ite_keeps, set_keeps, ev_keeps, stickySet_keeps]

theorem unpresent_keeps (hk : Keeps base s) (src : Nat) : Keeps base (s.unpresent src) := by
  unfold State.unpresent
  simp +contextual (maxDischargeDepth := 99) only [hk, Keeps_mk, ite_keeps]

theorem memUsed_keeps (hk : Keeps base s) (mask : Nat) :
    Keeps base (s.memUsed mask) := by
  unfold State.memUsed
  simp +contextual (maxDischargeDepth := 99) only [hk, Keeps_mk, ite_keeps]

/-! ### Machine/Hif.lean -/

theorem setRing_keeps (hk : Keeps base s) (r : Nat) (x : RingSt) : Keeps base (s.setRing r x) := by
  unfold State.setRing
  simp +contextual (maxDischargeDepth := 99) only [hk, Keeps_mk, ite_keeps]

theorem setCplRing_keeps (hk : Keeps base s) (k : Nat) (x : CplSt) : Keeps base (s.setCplRing k x) := by
  unfold State.setCplRing
  simp +contextual (maxDischargeDepth := 99) only [hk, Keeps_mk, ite_keeps]

theorem setStrRing_keeps (hk : Keeps base s) (m : Nat) (x : StrSt) : Keeps base (s.setStrRing m x) := by
  unfold State.setStrRing
  simp +contextual (maxDischargeDepth := 99) only [hk, Keeps_mk, ite_keeps]

theorem logStream_keeps (hk : Keeps base s) (st : Nat) (f : LogStream → LogStream) : Keeps base (s.logStream st f) := by
  unfold State.logStream
  simp +contextual (maxDischargeDepth := 99) only [hk, Keeps_mk, ite_keeps, logMod_keeps]

theorem markLoss_keeps (hk : Keeps base s) (st : Nat) : Keeps base (s.markLoss st) := by
  unfold State.markLoss
  simp +contextual (maxDischargeDepth := 99) only [hk, Keeps_mk, ite_keeps, setStrRing_keeps]

theorem logDiscard_keeps (hk : Keeps base s) (f : Frame) :
    Keeps base (s.logDiscard f) := by
  unfold State.logDiscard
  simp +contextual (maxDischargeDepth := 99) only [hk, Keeps_mk, ite_keeps, logStream_keeps, markLoss_keeps]

theorem logOverwrite_keeps (hk : Keeps base s) (f : Frame) : Keeps base (s.logOverwrite f) := by
  unfold State.logOverwrite
  simp +contextual (maxDischargeDepth := 99) only [hk, Keeps_mk, ite_keeps, logStream_keeps, markLoss_keeps]

theorem cplSignal_keeps (hk : Keeps base s) (k : Nat) : Keeps base (s.cplSignal k) := by
  unfold State.cplSignal
  simp +contextual (maxDischargeDepth := 99) only [hk, Keeps_mk, ite_keeps, setCplRing_keeps, msix_keeps]

theorem cplCoalesce_keeps (hk : Keeps base s) (k : Nat) (irq : Bool) : Keeps base (s.cplCoalesce k irq) := by
  unfold State.cplCoalesce
  simp +contextual (maxDischargeDepth := 99) only [hk, Keeps_mk, ite_keeps, cplSignal_keeps, setCplRing_keeps]

theorem cplCount_keeps (hk : Keeps base s) (c : Cpl) : Keeps base (s.cplCount c) := by
  unfold State.cplCount
  simp +contextual (maxDischargeDepth := 99) only [hk, Keeps_mk, ite_keeps, addSat_keeps, ev_keeps]

theorem cplWrite_keeps (hk : Keeps base s) (c : Cpl) : Keeps base (s.cplWrite c) := by
  unfold State.cplWrite
  simp +contextual (maxDischargeDepth := 99) only [hk, Keeps_mk, ite_keeps, dmaWrite_keeps, set_keeps, setCplRing_keeps,
    cplCount_keeps, cplCoalesce_keeps]

theorem cplHold_keeps (hk : Keeps base s) (c : Cpl) :
    Keeps base (s.cplHold c) := by
  unfold State.cplHold
  simp +contextual (maxDischargeDepth := 99) only [hk, Keeps_mk, ite_keeps, logMod_keeps]

theorem post_keeps (hk : Keeps base s) (c : Cpl) :
    Keeps base (s.post c) := by
  unfold State.post
  simp +contextual (maxDischargeDepth := 99) only [hk, Keeps_mk, ite_keeps, ev_keeps, cplWrite_keeps, cplHold_keeps]

theorem flushHeld_keeps (hk : Keeps base s) (k : Nat) (mark : Bool) (l : List Cpl) : Keeps base (flushHeld k mark l s) := by
  induction l generalizing s with
  | nil => exact hk
  | cons c cs ih =>
    unfold flushHeld
    split
    · exact ih (cplWrite_keeps hk _)
    · exact ih (Keeps_mk hk rfl rfl rfl)

theorem cplRelease_keeps (hk : Keeps base s) (k : Nat) (mark : Bool) :
    Keeps base (s.cplRelease k mark) := by
  unfold State.cplRelease
  simp +contextual (maxDischargeDepth := 99) only [hk, Keeps_mk, ite_keeps, ev_keeps, flushHeld_keeps]

theorem complete_keeps (hk : Keeps base s) (c : Cmd) (result value : Nat) :
    Keeps base (s.complete c result value) := by
  unfold State.complete
  simp +contextual (maxDischargeDepth := 99) only [hk, Keeps_mk, ite_keeps, setRing_keeps, post_keeps, foldl_keeps,
      implies_true]

theorem outcome_keeps (hk : Keeps base s) (c : Cmd) (code value : Nat) : Keeps base (s.outcome c code value) := by
  unfold State.outcome
  simp +contextual (maxDischargeDepth := 99) only [hk, Keeps_mk, ite_keeps, post_keeps]

theorem fetched_keeps (hk : Keeps base s) (r : Nat) :
    Keeps base (s.fetched r) := by
  unfold State.fetched
  simp +contextual (maxDischargeDepth := 99) only [hk, Keeps_mk, ite_keeps, addWrap_keeps, setRing_keeps]

theorem fenceWait_keeps (hk : Keeps base s) (h : Hdr) :
    Keeps base (s.fenceWait h) := by
  unfold State.fenceWait
  simp +contextual (maxDischargeDepth := 99) only [hk, Keeps_mk, ite_keeps, setRing_keeps]

theorem enroll_keeps (hk : Keeps base s) (c : Cmd) :
    Keeps base (s.enroll c) := by
  unfold State.enroll
  simp +contextual (maxDischargeDepth := 99) only [hk, Keeps_mk, ite_keeps, setRing_keeps]

/-- A ring command keeps what its execution keeps. -/
theorem ringStart_keeps (hk : Keeps base s) (h : Hdr) (op : Nat) (bad : Option Nat) (body : Cmd → State → State)
    (hb : ∀ c t, Keeps base t → Keeps base (body c t))  :
    Keeps base (s.ringStart h op bad body) := by
  have h1 := at_keeps hk h.t
  have h2 := fetched_keeps h1 h.ring
  unfold State.ringStart
  dsimp only
  repeat' split
  · exact post_keeps h2 _
  · exact setRing_keeps h2 _ _
  · exact post_keeps h2 _
  · exact hb _ _ (enroll_keeps h2 _)
  · exact fenceWait_keeps h1 _

theorem cmdDb_keeps (hk : Keeps base s) (k v : Nat) : Keeps base (s.cmdDb k v) := by
  unfold State.cmdDb
  simp +contextual (maxDischargeDepth := 99) only [hk, Keeps_mk, ite_keeps, set_keeps, ev_keeps]

theorem cplDb_keeps (hk : Keeps base s) (k v : Nat) :
    Keeps base (s.cplDb k v) := by
  unfold State.cplDb
  simp +contextual (maxDischargeDepth := 99) only [hk, Keeps_mk, ite_keeps, set_keeps, ev_keeps, cplRelease_keeps]

theorem ringRun_keeps (hk : Keeps base s) (kind : RingKind) (k : Nat) :
    Keeps base (s.ringRun kind k) := by
  unfold State.ringRun
  try dsimp only
  repeat' split
  all_goals simp +contextual (maxDischargeDepth := 99) only [hk, Keeps_mk, ite_keeps, set_keeps, setRing_keeps,
      setCplRing_keeps, setStrRing_keeps, cplRelease_keeps]

theorem descWrite_keeps (hk : Keeps base s) (m : Nat) (b : Buf) (done bad : Bool) :
    Keeps base (s.descWrite m b done bad) := by
  unfold State.descWrite
  simp +contextual (maxDischargeDepth := 99) only [hk, Keeps_mk, ite_keeps, dmaWrite_keeps]

theorem bufSkip_keeps (hk : Keeps base s) (m : Nat) (l : List BufDesc) : Keeps base (bufSkip m l s) := by
  induction l generalizing s with
  | nil => exact setStrRing_keeps hk _ _
  | cons d ds ih =>
    unfold bufSkip
    split
    · exact setStrRing_keeps hk _ _
    · exact ih (ev_keeps (addSat_keeps (addWrap_keeps (descWrite_keeps hk _ _ _ _) _ _) _ _) _)

theorem bufTrim_keeps (hk : Keeps base s) (m : Nat) :
    Keeps base (s.bufTrim m) := by
  unfold State.bufTrim
  simp +contextual (maxDischargeDepth := 99) only [hk, Keeps_mk, ite_keeps, bufSkip_keeps]

theorem bufClose_keeps (hk : Keeps base s) (m : Nat) :
    Keeps base (s.bufClose m) := by
  unfold State.bufClose
  try dsimp only
  repeat' split
  all_goals simp +contextual (maxDischargeDepth := 99) only [hk, Keeps_mk, ite_keeps, addWrap_keeps, msix_keeps,
      setStrRing_keeps, descWrite_keeps, bufTrim_keeps]

theorem bufFlush_keeps (hk : Keeps base s) (m : Nat) :
    Keeps base (s.bufFlush m) := by
  unfold State.bufFlush
  try dsimp only
  repeat' split
  all_goals simp +contextual (maxDischargeDepth := 99) only [hk, Keeps_mk, ite_keeps, bufClose_keeps]

theorem bufNext_keeps (hk : Keeps base s) (m : Nat) :
    Keeps base (s.bufNext m) := by
  unfold State.bufNext
  try dsimp only
  repeat' split
  all_goals simp +contextual (maxDischargeDepth := 99) only [hk, Keeps_mk, ite_keeps, setStrRing_keeps]

theorem strDb_keeps (hk : Keeps base s) (m v : Nat) (descs : List BufDesc) :
    Keeps base (s.strDb m v descs) := by
  unfold State.strDb
  simp +contextual (maxDischargeDepth := 99) only [hk, Keeps_mk, ite_keeps, set_keeps, ev_keeps, setStrRing_keeps,
      bufTrim_keeps]

theorem writeChunks_keeps (hk : Keeps base s) (m : Nat) (start spilled : Bool) (fuel : Nat) (bs : List Byte) :
    Keeps base (writeChunks m start spilled fuel bs s) := by
  induction fuel generalizing s start bs with
  | zero => exact hk
  | succ fuel ih =>
    have h1 := bufNext_keeps hk m
    unfold writeChunks
    dsimp only
    split
    · exact h1
    · split
      · simp +contextual (maxDischargeDepth := 99) only [h1, ite_keeps, bufClose_keeps, msix_keeps, descWrite_keeps,
          setStrRing_keeps, dmaWrite_keeps]
      · exact ih (bufClose_keeps (setStrRing_keeps (dmaWrite_keeps h1 _ _) _ _) _) _ _

theorem frameWrite_keeps (hk : Keeps base s) (m : Nat) (f : Frame) : Keeps base (s.frameWrite m f) := by
  unfold State.frameWrite
  simp +contextual (maxDischargeDepth := 99) only [hk, Keeps_mk, ite_keeps, writeChunks_keeps]

theorem spillGeneral_keeps (hk : Keeps base s) (l : List SpillFrame) : Keeps base (s.spillGeneral l) := by
  unfold State.spillGeneral
  simp +contextual (maxDischargeDepth := 99) only [hk, Keeps_mk, ite_keeps]

theorem spillReserved_keeps (hk : Keeps base s) (l : List SpillFrame) : Keeps base (s.spillReserved l) := by
  unfold State.spillReserved
  simp +contextual (maxDischargeDepth := 99) only [hk, Keeps_mk, ite_keeps]

theorem spillLost_keeps (hk : Keeps base s) : Keeps base (s.spillLost) := by
  unfold State.spillLost
  simp +contextual (maxDischargeDepth := 99) only [hk, Keeps_mk, ite_keeps, addSat_keeps, ev_keeps]

theorem spillFit_keeps (hk : Keeps base s) (cap need : Nat) (l : List SpillFrame) : Keeps base (spillFit cap need l s) := by
  induction l generalizing s with
  | nil => exact spillGeneral_keeps hk _
  | cons x xs ih =>
    unfold spillFit
    split
    · exact spillGeneral_keeps hk _
    · exact ih (spillLost_keeps (logOverwrite_keeps hk _))

theorem spillDrop_keeps (hk : Keeps base s) (f : Frame) :
    Keeps base (s.spillDrop f) := by
  unfold State.spillDrop
  simp +contextual (maxDischargeDepth := 99) only [hk, Keeps_mk, ite_keeps, addSat_keeps, ev_keeps, logDiscard_keeps,
      spillLost_keeps]

theorem spillIn_keeps (hk : Keeps base s) (f0 : Frame) :
    Keeps base (s.spillIn f0) := by
  unfold State.spillIn
  simp +contextual (maxDischargeDepth := 99) only [hk, Keeps_mk, ite_keeps, memUsed_keeps, logStream_keeps,
      spillGeneral_keeps, spillReserved_keeps, spillFit_keeps, spillDrop_keeps]

theorem spillClear_keeps (hk : Keeps base s) : Keeps base (s.spillClear) := by
  unfold State.spillClear
  simp +contextual (maxDischargeDepth := 99) only [hk, Keeps_mk, ite_keeps, logOverwrite_keeps, spillLost_keeps,
    spillGeneral_keeps, spillReserved_keeps, foldl_keeps, implies_true]

theorem spillBack_keeps (hk : Keeps base s) (l : List Frame) :
    Keeps base (s.spillBack l) := by
  unfold State.spillBack
  simp +contextual (maxDischargeDepth := 99) only [hk, Keeps_mk, ite_keeps, memUsed_keeps, logStream_keeps,
      spillReserved_keeps, spillFit_keeps, spillDrop_keeps, foldl_keeps, implies_true]

theorem nextSeq_keeps (hk : Keeps base s) (st : Nat) : Keeps base (s.nextSeq st) := by
  unfold State.nextSeq
  simp +contextual (maxDischargeDepth := 99) only [hk, Keeps_mk, ite_keeps]

theorem stageWork_keeps (hk : Keeps base s) (f : Frame) (work : Option Nat) :
    Keeps base (s.stageWork f work) := by
  unfold State.stageWork
  simp +contextual (maxDischargeDepth := 99) only [hk, Keeps_mk, ite_keeps, nextSeq_keeps]

theorem stage_keeps (hk : Keeps base s) (f : Frame) : Keeps base (s.stage f) := by
  unfold State.stage
  simp +contextual (maxDischargeDepth := 99) only [hk, Keeps_mk, ite_keeps, stageWork_keeps]

theorem stageFor_keeps (hk : Keeps base s) (f : Frame) (work : Nat) : Keeps base (s.stageFor f work) := by
  unfold State.stageFor
  simp +contextual (maxDischargeDepth := 99) only [hk, Keeps_mk, ite_keeps, stageWork_keeps]

theorem deliver_keeps (hk : Keeps base s) (f : Frame) :
    Keeps base (s.deliver f) := by
  unfold State.deliver
  simp +contextual (maxDischargeDepth := 99) only [hk, Keeps_mk, ite_keeps, logDiscard_keeps, frameWrite_keeps, spillIn_keeps]

theorem divertEnd_keeps (hk : Keeps base s) : Keeps base (s.divertEnd) := by
  unfold State.divertEnd
  simp +contextual (maxDischargeDepth := 99) only [hk, Keeps_mk, ite_keeps]

theorem frameReleased_keeps (hk : Keeps base s) (st : Nat) : Keeps base (s.frameReleased st) := by
  unfold State.frameReleased
  try dsimp only
  repeat' split
  all_goals simp +contextual (maxDischargeDepth := 99) only [hk, Keeps_mk, ite_keeps, spillReserved_keeps,
    spillGeneral_keeps, divertEnd_keeps, ev_keeps]

theorem modDump_keeps (hk : Keeps base s) (g : Dump → Dump) :
    Keeps base (s.modDump g) := by
  unfold State.modDump
  simp +contextual (maxDischargeDepth := 99) only [hk, Keeps_mk, ite_keeps]

theorem drainNext_keeps (hk : Keeps base s) {f : Frame} {t : State} (e : s.drainNext = some (f, t))  : Keeps base t := by
  unfold State.drainNext at e
  repeat' split at e
  all_goals first | cases e; done | skip
  · cases e; exact spillReserved_keeps hk _
  · cases e; exact spillGeneral_keeps hk _

theorem dumpNext_keeps (hk : Keeps base s) {t : State} (e : s.dumpNext = some t)  : Keeps base t := by
  unfold State.dumpNext at e
  dsimp only at e
  repeat' split at e
  all_goals first | cases e; done | skip
  · cases e; exact addSat_keeps (modDump_keeps hk _) _ _
  · cases e; exact frameWrite_keeps (memUsed_keeps (modDump_keeps hk _) _) _ _

theorem drainSpill_keeps (hk : Keeps base s) {t : State} (e : s.drainSpill = some t)  : Keeps base t := by
  unfold State.drainSpill at e
  split at e
  · cases e
  · cases e; exact frameWrite_keeps (modDump_keeps (memUsed_keeps (drainNext_keeps hk (by assumption)) _) _) _ _

theorem orElse_keeps (hk : Keeps base s) {x y : Option State} (hx : ∀ t, x = some t → Keeps base t) (hy : ∀ t,
    y = some t → Keeps base t) :
    Keeps base ((x.orElse (fun _ => y)).getD s) := by
  cases x with
  | some t => exact hx t rfl
  | none =>
    cases y with
    | some t => exact hy t rfl
    | none => exact hk

theorem drainOne_keeps (hk : Keeps base s)  : Keeps base s.drainOne :=
  ite_keeps hk (ite_keeps (orElse_keeps hk (fun _ e => dumpNext_keeps hk e) (fun _ e => drainSpill_keeps hk e))
    (orElse_keeps hk (fun _ e => drainSpill_keeps hk e) (fun _ e => dumpNext_keeps hk e)))

theorem logDetach_keeps (hk : Keeps base s) (cause : Nat) : Keeps base (s.logDetach cause) := by
  unfold State.logDetach
  simp +contextual (maxDischargeDepth := 99) only [hk, Keeps_mk, ite_keeps, logMod_keeps]

theorem ringsTo_keeps (hk : Keeps base s) (kind : RingKind) (p : Nat → Bool) (x : Nat) : Keeps base (s.ringsTo kind p x) := by
  unfold State.ringsTo
  simp +contextual (maxDischargeDepth := 99) only [hk, Keeps_mk, ite_keeps, set_keeps, foldl_keeps, implies_true]

theorem reholdCpls_keeps (hk : Keeps base s) : Keeps base s.reholdCpls := by
  unfold State.reholdCpls
  exact logMod_keeps (Keeps_mk (foldl_keeps hk (fun t x ht => setCplRing_keeps ht _ _)) rfl rfl rfl) _

theorem refile_keeps (hk : Keeps base s) :
    Keeps base (s.refile) := by
  unfold State.refile
  simp +contextual (maxDischargeDepth := 99) only [hk, Keeps_mk, ite_keeps, spillIn_keeps, spillBack_keeps, divertEnd_keeps,
      foldl_keeps, implies_true]

theorem detached_keeps (hk : Keeps base s) (cause : Nat) :
    Keeps base (s.detached cause) := by
  unfold State.detached
  simp +contextual (maxDischargeDepth := 99) only [hk, Keeps_mk, ite_keeps, set_keeps, set2_keeps, addWrap_keeps, ev_keeps,
      logDetach_keeps, ringsTo_keeps, reholdCpls_keeps, refile_keeps]

theorem linkLost_keeps (hk : Keeps base s) :
    Keeps base (s.linkLost) := by
  unfold State.linkLost
  simp +contextual (maxDischargeDepth := 99) only [hk, Keeps_mk, ite_keeps, set_keeps]

theorem hold_keeps (hk : Keeps base s) :
    Keeps base (s.hold) := by
  unfold State.hold
  simp +contextual (maxDischargeDepth := 99) only [hk, Keeps_mk, ite_keeps, set_keeps, set2_keeps, ev_keeps, logMod_keeps,
      ringsTo_keeps]

end Sys2Proof.Machine
end

