-- ==== Sys2Proof/Laws/KeepsTime.lean ====
section
/-! SUPPORT. Kept facts: the time base, the acquisition array, memory, and the signal path. -/

namespace Sys2Proof.Machine

set_option Elab.async false
set_option linter.unusedSimpArgs false
set_option linter.unusedVariables false

variable {base s : State}

/-! ### Machine/Timebase.lean -/

theorem setTim_keeps (hk : Keeps base s) (x : TimSt) : Keeps base (s.setTim x) := by
  unfold State.setTim
  simp +contextual (maxDischargeDepth := 99) only [hk, Keeps_mk, ite_keeps]

theorem modF_keeps (hk : Keeps base s) (n : Nat) (g : FeSt → FeSt) : Keeps base (s.modF n g) := by
  unfold State.modF
  simp +contextual (maxDischargeDepth := 99) only [hk, Keeps_mk, ite_keeps]

theorem clockFree_keeps (hk : Keeps base s) : Keeps base (s.clockFree) := by
  unfold State.clockFree
  simp +contextual (maxDischargeDepth := 99) only [hk, Keeps_mk, ite_keeps, set_keeps, setTim_keeps]

theorem clockHold_keeps (hk : Keeps base s) : Keeps base (s.clockHold) := by
  unfold State.clockHold
  simp +contextual (maxDischargeDepth := 99) only [hk, Keeps_mk, ite_keeps, set_keeps, setTim_keeps]

theorem alignAbort_keeps (hk : Keeps base s) : Keeps base (s.alignAbort) := by
  unfold State.alignAbort
  simp +contextual (maxDischargeDepth := 99) only [hk, Keeps_mk, ite_keeps, set_keeps, ev_keeps]

theorem refLoss_keeps (hk : Keeps base s) : Keeps base (s.refLoss) := by
  unfold State.refLoss
  try dsimp only
  repeat' split
  all_goals simp +contextual (maxDischargeDepth := 99) only [hk, Keeps_mk, ite_keeps, set_keeps, clockHold_keeps,
    clockFree_keeps, ev_keeps, present_keeps, alignAbort_keeps]

theorem refReturn_keeps (hk : Keeps base s) : Keeps base (s.refReturn) := by
  unfold State.refReturn
  simp +contextual (maxDischargeDepth := 99) only [hk, Keeps_mk, ite_keeps, set_keeps, setTim_keeps]

theorem pllLock_keeps (hk : Keeps base s) : Keeps base (s.pllLock) := by
  unfold State.pllLock
  simp +contextual (maxDischargeDepth := 99) only [hk, Keeps_mk, ite_keeps, set_keeps, setTim_keeps, ev_keeps]

theorem holdExpire_keeps (hk : Keeps base s) : Keeps base (s.holdExpire) := by
  unfold State.holdExpire
  try dsimp only
  repeat' split
  all_goals simp +contextual (maxDischargeDepth := 99) only [hk, Keeps_mk, ite_keeps, ev_keeps, present_keeps]

theorem alignDone_keeps (hk : Keeps base s) (d : Int) : Keeps base (s.alignDone d) := by
  unfold State.alignDone
  simp +contextual (maxDischargeDepth := 99) only [hk, Keeps_mk, ite_keeps, set_keeps, ev_keeps, setTim_keeps]

theorem ppsEdge_keeps (hk : Keeps base s) (falling : Bool) :
    Keeps base (s.ppsEdge falling) := by
  unfold State.ppsEdge
  simp +contextual (maxDischargeDepth := 99) only [hk, Keeps_mk, ite_keeps, set_keeps, setI_keeps, ev_keeps, setTim_keeps,
      alignDone_keeps]

theorem syncEdge_keeps (hk : Keeps base s) (falling : Bool) :
    Keeps base (s.syncEdge falling) := by
  unfold State.syncEdge
  simp +contextual (maxDischargeDepth := 99) only [hk, Keeps_mk, ite_keeps, set_keeps, setI_keeps, ev_keeps, setTim_keeps,
      alignDone_keeps]

theorem ppsLost_keeps (hk : Keeps base s) :
    Keeps base (s.ppsLost) := by
  unfold State.ppsLost
  simp +contextual (maxDischargeDepth := 99) only [hk, Keeps_mk, ite_keeps, set_keeps, ev_keeps, present_keeps, setTim_keeps]

theorem syncGone_keeps (hk : Keeps base s) :
    Keeps base (s.syncGone) := by
  unfold State.syncGone
  simp +contextual (maxDischargeDepth := 99) only [hk, Keeps_mk, ite_keeps, set_keeps, setTim_keeps]

theorem syncOff_keeps (hk : Keeps base s) :
    Keeps base (s.syncOff) := by
  unfold State.syncOff
  simp +contextual (maxDischargeDepth := 99) only [hk, Keeps_mk, ite_keeps, setTim_keeps, syncGone_keeps]

theorem syncLost_keeps (hk : Keeps base s) :
    Keeps base (s.syncLost) := by
  unfold State.syncLost
  simp +contextual (maxDischargeDepth := 99) only [hk, Keeps_mk, ite_keeps, ev_keeps, present_keeps, syncGone_keeps]

theorem syncOut_keeps (hk : Keeps base s) : Keeps base (s.syncOut) := by
  unfold State.syncOut
  simp +contextual (maxDischargeDepth := 99) only [hk, Keeps_mk, ite_keeps, setTim_keeps]

theorem launchOut_keeps (hk : Keeps base s) : Keeps base (s.launchOut) := by
  unfold State.launchOut
  simp +contextual (maxDischargeDepth := 99) only [hk, Keeps_mk, ite_keeps, setTim_keeps]

theorem alignSet_keeps (hk : Keeps base s) : Keeps base (s.alignSet) := by
  unfold State.alignSet
  simp +contextual (maxDischargeDepth := 99) only [hk, Keeps_mk, ite_keeps, ev_keeps, set_keeps]

theorem setEpoch_keeps (hk : Keeps base s) (hi : Word) : Keeps base (s.setEpoch hi) := by
  unfold State.setEpoch
  simp +contextual (maxDischargeDepth := 99) only [hk, Keeps_mk, ite_keeps, set_keeps, setTim_keeps]

/-! ### Machine/Acq.lean -/

theorem overrange_keeps (hk : Keeps base s) (ch t : Nat) :
    Keeps base (s.overrange ch t) := by
  unfold State.overrange
  simp +contextual (maxDischargeDepth := 99) only [hk, Keeps_mk, ite_keeps, addSat_keeps, set1_keeps, ev_keeps, present_keeps]

theorem setAcq_keeps (hk : Keeps base s) (x : AcqSt) : Keeps base (s.setAcq x) := by
  unfold State.setAcq
  simp +contextual (maxDischargeDepth := 99) only [hk, Keeps_mk, ite_keeps]

theorem calShow_keeps (hk : Keeps base s) : Keeps base (s.calShow) := by
  unfold State.calShow
  try dsimp only
  repeat' split
  all_goals simp +contextual (maxDischargeDepth := 99) only [hk, Keeps_mk, ite_keeps, set_keeps]

theorem calStart_keeps (hk : Keeps base s) (c : Cmd) (mask : Nat) (nv saveOnly : Bool) :
    Keeps base (s.calStart c mask nv saveOnly) := by
  unfold State.calStart
  simp +contextual (maxDischargeDepth := 99) only [hk, Keeps_mk, ite_keeps, setReg_keeps, set_keeps, complete_keeps,
      setAcq_keeps, calShow_keeps, foldl_keeps, implies_true]

theorem calPhaseEnd_keeps (hk : Keeps base s) (coherent : Bool) : Keeps base (s.calPhaseEnd coherent) := by
  unfold State.calPhaseEnd
  try dsimp only
  repeat' split
  all_goals simp +contextual (maxDischargeDepth := 99) only [hk, Keeps_mk, ite_keeps, setAcq_keeps, calShow_keeps]

theorem calEnd_keeps (hk : Keeps base s) (c : AcqCal) (code : Nat) : Keeps base (s.calEnd c code) := by
  unfold State.calEnd
  simp +contextual (maxDischargeDepth := 99) only [hk, Keeps_mk, ite_keeps, setAcq_keeps, calShow_keeps, set_keeps,
    complete_keeps]

theorem calAbandon_keeps (hk : Keeps base s) (mask : Nat) : Keeps base (s.calAbandon mask) := by
  unfold State.calAbandon
  try dsimp only
  repeat' split
  all_goals simp +contextual (maxDischargeDepth := 99) only [hk, Keeps_mk, ite_keeps, set_keeps, ev_keeps, setAcq_keeps,
    calEnd_keeps, foldl_keeps, implies_true]

theorem calFatal_keeps (hk : Keeps base s) :
    Keeps base (s.calFatal) := by
  unfold State.calFatal
  try dsimp only
  repeat' split
  all_goals simp +contextual (maxDischargeDepth := 99) only [hk, Keeps_mk, ite_keeps, calEnd_keeps, calAbandon_keeps]

theorem calWrite_keeps (hk : Keeps base s) (ch : Nat) (m : ChanMeas) : Keeps base (s.calWrite ch m) := by
  unfold State.calWrite
  refine setAcq_keeps (setReg_keeps (foldl_keeps hk (fun t i ht => ?_)) _ _) _
  split
  · exact setReg_keeps ht _ _
  · exact ht

theorem calDone_keeps (hk : Keeps base s) (r : AcqMeas)  :
    Keeps base (s.calDone r) := by
  unfold State.calDone
  split
  · exact hk
  · split
    · exact hk
    · extract_lets live meas ok bad s1 s2 s3 s4 partly copy s5 code s6
      have h1 : Keeps base s1 := foldl_keeps hk (fun t ch ht => by
        split
        · exact calWrite_keeps ht _ _
        · exact ht)
      have h2 : Keeps base s2 :=
        foldl_keeps h1 (fun t p ht => ite_keeps (set_keeps (setI_keeps (setI_keeps ht _ _) _ _) _ _) ht)
      have h3 : Keeps base s3 := foldl_keeps h2 (fun t ch ht => set_keeps (set_keeps ht _ _) _ _)
      have h4 : Keeps base s4 := ite_keeps h3 (ev_keeps (set_keeps h3 _ _) _)
      have h5 : Keeps base s5 := ite_keeps (nvPut_keeps h4 _ _) h4
      exact calEnd_keeps (ite_keeps (ev_keeps h5 _) (ite_keeps (ev_keeps h5 _) h5)) _ _

theorem bgQueue_keeps (hk : Keeps base s) (n : Nat) (l : List CalUpd) : Keeps base (s.bgQueue n l) := by
  unfold State.bgQueue
  simp +contextual (maxDischargeDepth := 99) only [hk, Keeps_mk, ite_keeps, modF_keeps]

theorem bgApply_keeps (hk : Keeps base s) (u : CalUpd) :
    Keeps base (s.bgApply u) := by
  unfold State.bgApply
  simp +contextual (maxDischargeDepth := 99) only [hk, Keeps_mk, ite_keeps, setI_keeps, set1_keeps, ev_keeps, present_keeps,
      setAcq_keeps]

theorem setBlk_keeps (hk : Keeps base s) (ch : Nat) (b : BgBlk) :
    Keeps base (s.setBlk ch b) := by
  unfold State.setBlk
  simp +contextual (maxDischargeDepth := 99) only [hk, Keeps_mk, ite_keeps, setAcq_keeps]

theorem bgFrameStart_keeps (hk : Keeps base s) (n : Nat) :
    Keeps base (s.bgFrameStart n) := by
  unfold State.bgFrameStart
  simp +contextual (maxDischargeDepth := 99) only [hk, Keeps_mk, ite_keeps, modF_keeps, bgApply_keeps, setBlk_keeps,
      foldl_keeps, implies_true]

theorem bgSync_keeps (hk : Keeps base s) (c : Nat) :
    Keeps base (s.bgSync c) := by
  unfold State.bgSync
  try dsimp only
  repeat' split
  all_goals simp +contextual (maxDischargeDepth := 99) only [hk, Keeps_mk, ite_keeps, setBlk_keeps]

theorem bgSyncInt_keeps (hk : Keeps base s) (i : Nat) :
    Keeps base (s.bgSyncInt i) := by
  unfold State.bgSyncInt
  simp +contextual (maxDischargeDepth := 99) only [hk, Keeps_mk, ite_keeps, setBlk_keeps]

theorem bgSyncFe_keeps (hk : Keeps base s) (n : Nat) :
    Keeps base (s.bgSyncFe n) := by
  unfold State.bgSyncFe
  simp +contextual (maxDischargeDepth := 99) only [hk, Keeps_mk, ite_keeps, bgSync_keeps, bgSyncInt_keeps, foldl_keeps,
      implies_true]

theorem bgSyncAll_keeps (hk : Keeps base s) :
    Keeps base (s.bgSyncAll) := by
  unfold State.bgSyncAll
  simp +contextual (maxDischargeDepth := 99) only [hk, Keeps_mk, ite_keeps, bgSyncFe_keeps, foldl_keeps, implies_true]

theorem bgRestart_keeps (hk : Keeps base s) (ch at_ : Nat) :
    Keeps base (s.bgRestart ch at_) := by
  unfold State.bgRestart
  simp +contextual (maxDischargeDepth := 99) only [hk, Keeps_mk, ite_keeps, setBlk_keeps]

theorem darkSpan_keeps (hk : Keeps base s) (n : Nat) :
    Keeps base (s.darkSpan n) := by
  unfold State.darkSpan
  simp +contextual (maxDischargeDepth := 99) only [hk, Keeps_mk, ite_keeps, setBlk_keeps, foldl_keeps, implies_true]

theorem blkSeen_keeps (hk : Keeps base s) (ch a b : Nat) :
    Keeps base (s.blkSeen ch a b) := by
  unfold State.blkSeen
  simp +contextual (maxDischargeDepth := 99) only [hk, Keeps_mk, ite_keeps, setBlk_keeps]

theorem bgDiscard_keeps (hk : Keeps base s) :
    Keeps base (s.bgDiscard) := by
  unfold State.bgDiscard
  simp +contextual (maxDischargeDepth := 99) only [hk, Keeps_mk, ite_keeps, modF_keeps, setAcq_keeps, foldl_keeps,
      implies_true]

theorem bgNext_keeps (hk : Keeps base s) (ch : Nat) (l : List BgSample) (last : Nat) :
    Keeps base (s.bgNext ch l last) := by
  unfold State.bgNext
  simp +contextual (maxDischargeDepth := 99) only [hk, Keeps_mk, ite_keeps, overrange_keeps, setAcq_keeps, setBlk_keeps,
      foldl_keeps, implies_true]

theorem bgBlock_keeps (hk : Keeps base s) (c : Nat) (raw : List Int) :
    Keeps base (s.bgBlock c raw) := by
  unfold State.bgBlock
  simp +contextual (maxDischargeDepth := 99) only [hk, Keeps_mk, ite_keeps, nextFree_keeps, bgQueue_keeps, bgNext_keeps]

theorem darkBlock_keeps (hk : Keeps base s) (i : Nat) (raw : List Int) :
    Keeps base (s.darkBlock i raw) := by
  unfold State.darkBlock
  simp +contextual (maxDischargeDepth := 99) only [hk, Keeps_mk, ite_keeps, nextFree_keeps, bgQueue_keeps, bgNext_keeps,
      foldl_keeps, implies_true]

theorem blindAdd_keeps (hk : Keeps base s) (p : Nat) (l : List (Int × Int)) :
    Keeps base (s.blindAdd p l) := by
  unfold State.blindAdd
  simp +contextual (maxDischargeDepth := 99) only [hk, Keeps_mk, ite_keeps, setAcq_keeps, foldl_keeps, implies_true]

theorem blindBlock_keeps (hk : Keeps base s) (p : Nat) :
    Keeps base (s.blindBlock p) := by
  unfold State.blindBlock
  try dsimp only
  repeat' split
  all_goals simp +contextual (maxDischargeDepth := 99) only [hk, Keeps_mk, ite_keeps, set_keeps, nextFree_keeps, ev_keeps,
      setAcq_keeps, bgQueue_keeps]

theorem chanFail_keeps (hk : Keeps base s) (ch since : Nat) : Keeps base (s.chanFail ch since) := by
  unfold State.chanFail
  simp +contextual (maxDischargeDepth := 99) only [hk, Keeps_mk, ite_keeps, modF_keeps, ev_keeps, present_keeps]

/-! ### Machine/Mem.lean -/

theorem setMem_keeps (hk : Keeps base s) (x : MemSt) : Keeps base (s.setMem x) := by
  unfold State.setMem
  simp +contextual (maxDischargeDepth := 99) only [hk, Keeps_mk, ite_keeps]

theorem setShare_keeps (hk : Keeps base s) :
    Keeps base (s.setShare) := by
  unfold State.setShare
  simp +contextual (maxDischargeDepth := 99) only [hk, Keeps_mk, ite_keeps, setMem_keeps]

theorem writeBack_keeps (hk : Keeps base s) (bank line : Nat) : Keeps base (s.writeBack bank line) := by
  unfold State.writeBack
  simp +contextual (maxDischargeDepth := 99) only [hk, Keeps_mk, ite_keeps, setMem_keeps, foldl_keeps, implies_true]

theorem memErr_keeps (hk : Keeps base s) (owner : Option Nat) (e : MemErr) :
    Keeps base (s.memErr owner e) := by
  unfold State.memErr
  try dsimp only
  repeat' split
  all_goals simp +contextual (maxDischargeDepth := 99) only [hk, Keeps_mk, ite_keeps, addSat_keeps, ev_keeps, present_keeps,
      setMem_keeps, writeBack_keeps]

theorem memWork_keeps (hk : Keeps base s) (n : Nat) :
    Keeps base (s.memWork n) := by
  unfold State.memWork
  simp +contextual (maxDischargeDepth := 99) only [hk, Keeps_mk, ite_keeps, memUsed_keeps, foldl_keeps, implies_true]

theorem refab_keeps (hk : Keeps base s) (c n : Nat) : Keeps base (s.refab c n) := by
  unfold State.refab
  simp +contextual (maxDischargeDepth := 99) only [hk, Keeps_mk, ite_keeps, addWrap_keeps]

theorem tickRestart_keeps (hk : Keeps base s) (c : Nat) : Keeps base (s.tickRestart c) := by
  unfold State.tickRestart
  simp +contextual (maxDischargeDepth := 99) only [hk, Keeps_mk, ite_keeps, setMem_keeps]

theorem refreshTick_keeps (hk : Keeps base s) (c : Nat) : Keeps base (s.refreshTick c) := by
  unfold State.refreshTick
  simp +contextual (maxDischargeDepth := 99) only [hk, Keeps_mk, ite_keeps, tickRestart_keeps, refab_keeps, ev_keeps,
    present_keeps, setI_keeps]

theorem takeDelays_keeps (hk : Keeps base s) (c : Nat) : Keeps base (s.takeDelays c) := by
  unfold State.takeDelays
  simp +contextual (maxDischargeDepth := 99) only [hk, Keeps_mk, ite_keeps, setMem_keeps, ev_keeps, foldl_keeps, implies_true]

theorem refreshWindow_keeps (hk : Keeps base s) (c : Nat) : Keeps base (s.refreshWindow c) := by
  unfold State.refreshWindow
  simp +contextual (maxDischargeDepth := 99) only [hk, Keeps_mk, ite_keeps, refab_keeps, setI_keeps, takeDelays_keeps]

theorem setDoubled_keeps (hk : Keeps base s) (c : Nat) (b : Bool) : Keeps base (s.setDoubled c b) := by
  unfold State.setDoubled
  simp +contextual (maxDischargeDepth := 99) only [hk, Keeps_mk, ite_keeps, setB_keeps]

theorem rateDouble_keeps (hk : Keeps base s) (c : Nat) : Keeps base (s.rateDouble c) := by
  unfold State.rateDouble
  simp +contextual (maxDischargeDepth := 99) only [hk, Keeps_mk, ite_keeps, setDoubled_keeps, ev_keeps, tickRestart_keeps,
    refab_keeps, setI_keeps]

theorem rateBase_keeps (hk : Keeps base s) (c : Nat) : Keeps base (s.rateBase c) := by
  unfold State.rateBase
  simp +contextual (maxDischargeDepth := 99) only [hk, Keeps_mk, ite_keeps, setDoubled_keeps, ev_keeps, setI_keeps,
    tickRestart_keeps]

theorem rateEval_keeps (hk : Keeps base s) (c : Nat) : Keeps base (s.rateEval c) := by
  unfold State.rateEval
  simp +contextual (maxDischargeDepth := 99) only [hk, Keeps_mk, ite_keeps, rateDouble_keeps, rateBase_keeps]

theorem mr4Poll_keeps (hk : Keeps base s) (c field : Nat) : Keeps base (s.mr4Poll c field) := by
  unfold State.mr4Poll
  simp +contextual (maxDischargeDepth := 99) only [hk, Keeps_mk, ite_keeps, set_keeps, ev_keeps, rateEval_keeps]

theorem bandEval_keeps (hk : Keeps base s) : Keeps base (s.bandEval) := by
  unfold State.bandEval
  simp +contextual (maxDischargeDepth := 99) only [hk, Keeps_mk, ite_keeps, set_keeps, setMem_keeps]

theorem srIn_keeps (hk : Keeps base s) (c : Nat) : Keeps base (s.srIn c) := by
  unfold State.srIn
  simp +contextual (maxDischargeDepth := 99) only [hk, Keeps_mk, ite_keeps, refab_keeps, setI_keeps, set_keeps,
    addWrap_keeps, ev_keeps]

theorem srOut_keeps (hk : Keeps base s) (c : Nat) :
    Keeps base (s.srOut c) := by
  unfold State.srOut
  simp +contextual (maxDischargeDepth := 99) only [hk, Keeps_mk, ite_keeps, set_keeps, setI_keeps, setMem_keeps,
      tickRestart_keeps, takeDelays_keeps]

theorem srEnter_keeps (hk : Keeps base s) (c : Nat) :
    Keeps base (s.srEnter c) := by
  unfold State.srEnter
  simp +contextual (maxDischargeDepth := 99) only [hk, Keeps_mk, ite_keeps, srIn_keeps]

theorem srExit_keeps (hk : Keeps base s) (c : Nat) (beforeSre : Bool) (issued : Nat) :
    Keeps base (s.srExit c beforeSre issued) := by
  unfold State.srExit
  simp +contextual (maxDischargeDepth := 99) only [hk, Keeps_mk, ite_keeps, setI_keeps, ev_keeps, memUsed_keeps, refab_keeps,
      srOut_keeps]

theorem srAll_keeps (hk : Keeps base s) : Keeps base (s.srAll) := by
  unfold State.srAll
  simp +contextual (maxDischargeDepth := 99) only [hk, Keeps_mk, ite_keeps, srIn_keeps, foldl_keeps, implies_true]

theorem srNone_keeps (hk : Keeps base s) : Keeps base (s.srNone) := by
  unfold State.srNone
  simp +contextual (maxDischargeDepth := 99) only [hk, Keeps_mk, ite_keeps, srOut_keeps, foldl_keeps, implies_true]

theorem bermInit_keeps (hk : Keeps base s) : Keeps base (s.bermInit) := by
  unfold State.bermInit
  simp +contextual (maxDischargeDepth := 99) only [hk, Keeps_mk, ite_keeps, set_keeps]

theorem memInitStart_keeps (hk : Keeps base s) : Keeps base (s.memInitStart) := by
  unfold State.memInitStart
  simp +contextual (maxDischargeDepth := 99) only [hk, Keeps_mk, ite_keeps, setMem_keeps, ev_keeps]

theorem memInitEnd_keeps (hk : Keeps base s) : Keeps base (s.memInitEnd) := by
  unfold State.memInitEnd
  simp +contextual (maxDischargeDepth := 99) only [hk, Keeps_mk, ite_keeps, set_keeps, setMem_keeps, takeDelays_keeps,
    tickRestart_keeps, ev_keeps, foldl_keeps, implies_true]

theorem eyeRound_keeps (hk : Keeps base s) (c : Nat) (pass : Bool) : Keeps base (s.eyeRound c pass) := by
  unfold State.eyeRound
  simp +contextual (maxDischargeDepth := 99) only [hk, Keeps_mk, ite_keeps, ev_keeps, present_keeps]

theorem testEnd_keeps (hk : Keeps base s) (fail : Nat) :
    Keeps base (s.testEnd fail) := by
  unfold State.testEnd
  simp +contextual (maxDischargeDepth := 99) only [hk, Keeps_mk, ite_keeps, setReg_keeps, set_keeps, memUsed_keeps]

theorem histLost_keeps (hk : Keeps base s) (f : Frame) :
    Keeps base (s.histLost f) := by
  unfold State.histLost
  try dsimp only
  repeat' split
  all_goals simp +contextual (maxDischargeDepth := 99) only [hk, Keeps_mk, ite_keeps, addSat_keeps]

theorem histFit_keeps (hk : Keeps base s) (cap need : Nat) (l : List Frame)  :
    Keeps base (histFit cap need l s) := by
  induction l generalizing s with
  | nil => exact setMem_keeps hk _
  | cons f fs ih => exact ite_keeps (setMem_keeps hk _) (ih (histLost_keeps hk _))

theorem histPut_keeps (hk : Keeps base s) (f : Frame) :
    Keeps base (s.histPut f) := by
  unfold State.histPut
  simp +contextual (maxDischargeDepth := 99) only [hk, Keeps_mk, ite_keeps, memUsed_keeps, setMem_keeps, histFit_keeps]

theorem histRecord_keeps (hk : Keeps base s) (n : Nat) (frames : List Frame) :
    Keeps base (s.histRecord n frames) := by
  unfold State.histRecord
  simp +contextual (maxDischargeDepth := 99) only [hk, Keeps_mk, ite_keeps, setMem_keeps, histPut_keeps, foldl_keeps,
      implies_true]

theorem histFrom_keeps (hk : Keeps base s) (old : Nat) :
    Keeps base (s.histFrom old) := by
  unfold State.histFrom
  simp +contextual (maxDischargeDepth := 99) only [hk, Keeps_mk, ite_keeps, setMem_keeps, foldl_keeps, implies_true]

theorem dumpStart_keeps (hk : Keeps base s) :
    Keeps base (s.dumpStart) := by
  unfold State.dumpStart
  simp +contextual (maxDischargeDepth := 99) only [hk, Keeps_mk, ite_keeps, setMem_keeps]

theorem dumpEnd_keeps (hk : Keeps base s) :
    Keeps base (s.dumpEnd) := by
  unfold State.dumpEnd
  try dsimp only
  repeat' split
  all_goals simp +contextual (maxDischargeDepth := 99) only [hk, Keeps_mk, ite_keeps, ev_keeps, setMem_keeps]

/-! ### Machine/Pmc.lean -/

theorem setPmc_keeps (hk : Keeps base s) (x : PmcSt) : Keeps base (s.setPmc x) := by
  unfold State.setPmc
  simp +contextual (maxDischargeDepth := 99) only [hk, Keeps_mk, ite_keeps]

theorem convStart_keeps (hk : Keeps base s) (k : Nat) (x : Int) (precal : Bool) : Keeps base (s.convStart k x precal) := by
  unfold State.convStart
  simp +contextual (maxDischargeDepth := 99) only [hk, Keeps_mk, ite_keeps, setPmc_keeps]

theorem pmcFrameClose_keeps (hk : Keeps base s) :
    Keeps base (s.pmcFrameClose) := by
  unfold State.pmcFrameClose
  try dsimp only
  repeat' split
  all_goals simp +contextual (maxDischargeDepth := 99) only [hk, Keeps_mk, ite_keeps, stage_keeps, setPmc_keeps]

theorem pmcRecord_keeps (hk : Keeps base s) (gt : Nat) (ovr precal : Bool) (r : List Byte) :
    Keeps base (s.pmcRecord gt ovr precal r) := by
  unfold State.pmcRecord
  try dsimp only
  repeat' split
  all_goals simp +contextual (maxDischargeDepth := 99) only [hk, Keeps_mk, ite_keeps, setPmc_keeps, pmcFrameClose_keeps]

theorem passEnd_keeps (hk : Keeps base s) (x : Int) :
    Keeps base (s.passEnd x) := by
  unfold State.passEnd
  simp +contextual (maxDischargeDepth := 99) only [hk, Keeps_mk, ite_keeps, set2_keeps, addWrap_keeps, ev_keeps,
      setPmc_keeps, pmcFrameClose_keeps]

theorem slotGo_keeps (hk : Keeps base s) (i : Nat) (x : Int) : Keeps base (s.slotGo i x) := by
  unfold State.slotGo
  try dsimp only
  repeat' split
  all_goals simp +contextual (maxDischargeDepth := 99) only [hk, Keeps_mk, ite_keeps, passEnd_keeps, setPmc_keeps,
    convStart_keeps]

theorem passLatch_keeps (hk : Keeps base s) :
    Keeps base (s.passLatch) := by
  unfold State.passLatch
  simp +contextual (maxDischargeDepth := 99) only [hk, Keeps_mk, ite_keeps, setPmc_keeps, slotGo_keeps]

theorem passStart_keeps (hk : Keeps base s) (x : Int) :
    Keeps base (s.passStart x) := by
  unfold State.passStart
  simp +contextual (maxDischargeDepth := 99) only [hk, Keeps_mk, ite_keeps, setPmc_keeps, passLatch_keeps]

theorem convRelatch_keeps (hk : Keeps base s) :
    Keeps base (s.convRelatch) := by
  unfold State.convRelatch
  try dsimp only
  repeat' split
  all_goals simp +contextual (maxDischargeDepth := 99) only [hk, Keeps_mk, ite_keeps, setPmc_keeps, convStart_keeps,
      passLatch_keeps]

theorem injGo_keeps (hk : Keeps base s) (j : Nat) (x : Int) : Keeps base (s.injGo j x) := by
  unfold State.injGo
  simp +contextual (maxDischargeDepth := 99) only [hk, Keeps_mk, ite_keeps, setPmc_keeps, convStart_keeps]

theorem pmcKick_keeps (hk : Keeps base s) (x : Int) :
    Keeps base (s.pmcKick x) := by
  unfold State.pmcKick
  try dsimp only
  repeat' split
  all_goals simp +contextual (maxDischargeDepth := 99) only [hk, Keeps_mk, ite_keeps, slotGo_keeps, passStart_keeps,
      injGo_keeps]

theorem pmcTrig_keeps (hk : Keeps base s) : Keeps base (s.pmcTrig) := by
  unfold State.pmcTrig
  simp +contextual (maxDischargeDepth := 99) only [hk, Keeps_mk, ite_keeps, addSat_keeps, ev_keeps, setPmc_keeps,
    passStart_keeps]

theorem seqStart_keeps (hk : Keeps base s) : Keeps base (s.seqStart) := by
  unfold State.seqStart
  simp +contextual (maxDischargeDepth := 99) only [hk, Keeps_mk, ite_keeps, pmcTrig_keeps]

theorem pmcTrigger_keeps (hk : Keeps base s) (t : PmcTrig) :
    Keeps base (s.pmcTrigger t) := by
  unfold State.pmcTrigger
  try dsimp only
  repeat' split
  all_goals simp +contextual (maxDischargeDepth := 99) only [hk, Keeps_mk, ite_keeps, pmcKick_keeps, pmcTrig_keeps]

theorem preempt_keeps (hk : Keeps base s) : Keeps base (s.preempt) := by
  unfold State.preempt
  try dsimp only
  repeat' split
  all_goals simp +contextual (maxDischargeDepth := 99) only [hk, Keeps_mk, ite_keeps, setPmc_keeps, ev_keeps]

theorem injTrig_keeps (hk : Keeps base s) (j : Nat) : Keeps base (s.injTrig j) := by
  unfold State.injTrig
  try dsimp only
  repeat' split
  all_goals simp +contextual (maxDischargeDepth := 99) only [hk, Keeps_mk, ite_keeps, addSat_keeps, ev_keeps, setPmc_keeps,
    preempt_keeps, pmcKick_keeps]

theorem pmcEvent_keeps (hk : Keeps base s) (src : Nat) :
    Keeps base (s.pmcEvent src) := by
  unfold State.pmcEvent
  simp +contextual (maxDischargeDepth := 99) only [hk, Keeps_mk, ite_keeps, pmcTrig_keeps, injTrig_keeps, foldl_keeps,
      implies_true]

theorem injHw_keeps (hk : Keeps base s) (j src : Nat) : Keeps base (s.injHw j src) := by
  unfold State.injHw
  simp +contextual (maxDischargeDepth := 99) only [hk, Keeps_mk, ite_keeps, injTrig_keeps]

theorem readback_keeps (hk : Keeps base s) (c : Conv) (u : Int) (ovr : Bool) :
    Keeps base (s.readback c u ovr) := by
  unfold State.readback
  simp +contextual (maxDischargeDepth := 99) only [hk, Keeps_mk, ite_keeps]

theorem convWrite_keeps (hk : Keeps base s) (c : Conv) (outs : List FiltOut) : Keeps base (s.convWrite c outs) := by
  unfold State.convWrite
  simp +contextual (maxDischargeDepth := 99) only [hk, Keeps_mk, ite_keeps, setReg_keeps, addSat_keeps, ev_keeps,
    readback_keeps, pmcRecord_keeps, setPmc_keeps, pmcFrameClose_keeps]

theorem pmcResult_keeps (hk : Keeps base s) (outs : List FiltOut) :
    Keeps base (s.pmcResult outs) := by
  unfold State.pmcResult
  try dsimp only
  repeat' split
  all_goals simp +contextual (maxDischargeDepth := 99) only [hk, Keeps_mk, ite_keeps, setPmc_keeps, passEnd_keeps,
      pmcKick_keeps, convWrite_keeps]

theorem injResult_keeps (hk : Keeps base s) (outs : List FiltOut) :
    Keeps base (s.injResult outs) := by
  unfold State.injResult
  try dsimp only
  repeat' split
  all_goals simp +contextual (maxDischargeDepth := 99) only [hk, Keeps_mk, ite_keeps, pmcKick_keeps, convWrite_keeps]

theorem seqStop_keeps (hk : Keeps base s) :
    Keeps base (s.seqStop) := by
  unfold State.seqStop
  simp +contextual (maxDischargeDepth := 99) only [hk, Keeps_mk, ite_keeps, setPmc_keeps, pmcFrameClose_keeps, pmcKick_keeps]

theorem pmcCalEnd_keeps (hk : Keeps base s) (c : PmcCal) (code value : Nat) : Keeps base (s.pmcCalEnd c code value) := by
  unfold State.pmcCalEnd
  try dsimp only
  repeat' split
  all_goals simp +contextual (maxDischargeDepth := 99) only [hk, Keeps_mk, ite_keeps, setPmc_keeps, set_keeps, complete_keeps]

theorem pmcStopAll_keeps (hk : Keeps base s) :
    Keeps base (s.pmcStopAll) := by
  unfold State.pmcStopAll
  try dsimp only
  repeat' split
  all_goals simp +contextual (maxDischargeDepth := 99) only [hk, Keeps_mk, ite_keeps, setPmc_keeps, pmcFrameClose_keeps,
      pmcCalEnd_keeps]

theorem pmcSafeHold_keeps (hk : Keeps base s) : Keeps base (s.pmcSafeHold) := by
  unfold State.pmcSafeHold
  simp +contextual (maxDischargeDepth := 99) only [hk, Keeps_mk, ite_keeps, setPmc_keeps]

theorem pmcRestart_keeps (hk : Keeps base s) :
    Keeps base (s.pmcRestart) := by
  unfold State.pmcRestart
  try dsimp only
  repeat' split
  all_goals simp +contextual (maxDischargeDepth := 99) only [hk, Keeps_mk, ite_keeps, setPmc_keeps, convStart_keeps]

theorem pmcCalStart_keeps (hk : Keeps base s) (cmd : Option Cmd) (mask : Nat) (nv saveOnly : Bool) :
    Keeps base (s.pmcCalStart cmd mask nv saveOnly) := by
  unfold State.pmcCalStart
  try dsimp only
  repeat' split
  all_goals simp +contextual (maxDischargeDepth := 99) only [hk, Keeps_mk, ite_keeps, set_keeps, complete_keeps,
    setPmc_keeps, pmcKick_keeps]

theorem pmcCalDone_keeps (hk : Keeps base s) (r : List PgaMeas) (nvOk : Bool)  :
    Keeps base (s.pmcCalDone r nvOk) := by
  unfold State.pmcCalDone
  split
  · exact hk
  · split
    · exact hk
    · extract_lets want fac ok fail applied s1 s2 s3 copy s4 code s5 s6
      have h1 : Keeps base s1 := foldl_keeps (nextFree_keeps hk) (fun t p ht => setI_keeps (setI_keeps ht _ _) _ _)
      have h2 : Keeps base s2 := set_keeps h1 _ _
      have h3 : Keeps base s3 := ite_keeps h2 (ev_keeps (set_keeps h2 _ _) _)
      have h4 : Keeps base s4 := ite_keeps (nvPut_keeps h3 _ _) h3
      have h5 : Keeps base s5 := ite_keeps (ev_keeps h4 _) (ite_keeps (ev_keeps h4 _) h4)
      have h6 : Keeps base s6 := pmcCalEnd_keeps h5 _ _ _
      exact ite_keeps h6 (pmcKick_keeps h6 _)

theorem pmcWarm_keeps (hk : Keeps base s) :
    Keeps base (s.pmcWarm) := by
  unfold State.pmcWarm
  simp +contextual (maxDischargeDepth := 99) only [hk, Keeps_mk, ite_keeps, setPmc_keeps, pmcKick_keeps]

theorem refMove_keeps (hk : Keeps base s) (outside : Bool) :
    Keeps base (s.refMove outside) := by
  unfold State.refMove
  simp +contextual (maxDischargeDepth := 99) only [hk, Keeps_mk, ite_keeps, ev_keeps, present_keeps, setPmc_keeps]

theorem dieTemp_keeps (hk : Keeps base s) (t : Int) : Keeps base (s.dieTemp t) := by
  unfold State.dieTemp
  simp +contextual (maxDischargeDepth := 99) only [hk, Keeps_mk, ite_keeps, setI_keeps, set_keeps, present_keeps,
    rateEval_keeps, bandEval_keeps, foldl_keeps, implies_true]

/-! ### Machine/Phase.lean -/

theorem phsSat_keeps (hk : Keeps base s) (n k : Nat) (ev : FRef) : Keeps base (s.phsSat n k ev) := by
  unfold State.phsSat
  simp +contextual (maxDischargeDepth := 99) only [hk, Keeps_mk, ite_keeps, addSat_keeps, ev_keeps, modF_keeps, present_keeps]

theorem ovrScan_keeps (hk : Keeps base s) (n : Nat) (r : Shot) (raw : List Raw4) :
    Keeps base (s.ovrScan n r raw) := by
  unfold State.ovrScan
  simp +contextual (maxDischargeDepth := 99) only [hk, Keeps_mk, ite_keeps, modF_keeps, overrange_keeps, blkSeen_keeps,
      foldl_keeps, implies_true]

theorem blindScan_keeps (hk : Keeps base s) (n : Nat) (r : Shot) (raw : List Raw4) :
    Keeps base (s.blindScan n r raw) := by
  unfold State.blindScan
  simp +contextual (maxDischargeDepth := 99) only [hk, Keeps_mk, ite_keeps, modF_keeps, blindAdd_keeps, foldl_keeps,
      implies_true]

theorem phaseShot_keeps (hk : Keeps base s) (n : Nat) (r : Shot) (raw : List Raw4) :
    Keeps base (s.phaseShot n r raw) := by
  unfold State.phaseShot
  simp +contextual (maxDischargeDepth := 99) only [hk, Keeps_mk, ite_keeps, set_keeps, set2_keeps, addSat_keeps, ev_keeps,
      modF_keeps, phsSat_keeps, ovrScan_keeps, blindScan_keeps, foldl_keeps, implies_true]

/-! ### Machine/Track.lean -/

theorem setTrk_keeps (hk : Keeps base s) (x : TrkSt) : Keeps base (s.setTrk x) := by
  unfold State.setTrk
  simp +contextual (maxDischargeDepth := 99) only [hk, Keeps_mk, ite_keeps]

theorem modQin_keeps (hk : Keeps base s) (i : Nat) (g : QinSt → QinSt) : Keeps base (s.modQin i g) := by
  unfold State.modQin
  simp +contextual (maxDischargeDepth := 99) only [hk, Keeps_mk, ite_keeps, setTrk_keeps]

theorem trkHold_keeps (hk : Keeps base s) :
    Keeps base (s.trkHold) := by
  unfold State.trkHold
  try dsimp only
  repeat' split
  all_goals simp +contextual (maxDischargeDepth := 99) only [hk, Keeps_mk, ite_keeps, setTrk_keeps]

theorem qinMove_keeps (hk : Keeps base s) (i : Nat) (d : Int) : Keeps base (s.qinMove i d) := by
  unfold State.qinMove
  simp +contextual (maxDischargeDepth := 99) only [hk, Keeps_mk, ite_keeps, set_keeps, modQin_keeps]

theorem qinSpeed_keeps (hk : Keeps base s) (i : Nat) : Keeps base (s.qinSpeed i) := by
  unfold State.qinSpeed
  simp +contextual (maxDischargeDepth := 99) only [hk, Keeps_mk, ite_keeps, setI_keeps, setB_keeps, foldl_keeps, implies_true]

theorem qinEdgeErr_keeps (hk : Keeps base s) (i : Nat) : Keeps base (s.qinEdgeErr i) := by
  unfold State.qinEdgeErr
  simp +contextual (maxDischargeDepth := 99) only [hk, Keeps_mk, ite_keeps, modQin_keeps, present_keeps]

theorem cmpPulse_keeps (hk : Keeps base s) (c : Nat) : Keeps base (s.cmpPulse c) := by
  unfold State.cmpPulse
  try dsimp only
  repeat' split
  all_goals simp +contextual (maxDischargeDepth := 99) only [hk, Keeps_mk, ite_keeps, setTrk_keeps]

theorem cmpFire_keeps (hk : Keeps base s) (c : Nat) :
    Keeps base (s.cmpFire c) := by
  unfold State.cmpFire
  simp +contextual (maxDischargeDepth := 99) only [hk, Keeps_mk, ite_keeps, set_keeps, addWrap_keeps, set1_keeps, ev_keeps,
      pmcEvent_keeps, cmpPulse_keeps]

theorem cmpCheck_keeps (hk : Keeps base s) (i : Nat) (down : Bool) : Keeps base (s.cmpCheck i down) := by
  unfold State.cmpCheck
  simp +contextual (maxDischargeDepth := 99) only [hk, Keeps_mk, ite_keeps, cmpFire_keeps, foldl_keeps, implies_true]

theorem cmpValue_keeps (hk : Keeps base s) (c : Nat) (v : Word) :
    Keeps base (s.cmpValue c v) := by
  unfold State.cmpValue
  simp +contextual (maxDischargeDepth := 99) only [hk, Keeps_mk, ite_keeps, set_keeps, set1_keeps, ev_keeps]

theorem qinCount_keeps (hk : Keeps base s) (i st : Nat) (down lineA : Bool) :
    Keeps base (s.qinCount i st down lineA) := by
  unfold State.qinCount
  try dsimp only
  repeat' split
  all_goals simp +contextual (maxDischargeDepth := 99) only [hk, Keeps_mk, ite_keeps, set_keeps, setB_keeps, addSat_keeps,
      set1_keeps, ev_keeps, modQin_keeps, qinMove_keeps, qinSpeed_keeps, qinEdgeErr_keeps, cmpCheck_keeps]

theorem qinIllegal_keeps (hk : Keeps base s) (i st : Nat) :
    Keeps base (s.qinIllegal i st) := by
  unfold State.qinIllegal
  simp +contextual (maxDischargeDepth := 99) only [hk, Keeps_mk, ite_keeps, addSat_keeps, set1_keeps, ev_keeps, modQin_keeps,
      qinEdgeErr_keeps]

theorem encoderEdge_keeps (hk : Keeps base s) (i : Nat) (qa qb : Bool) :
    Keeps base (s.encoderEdge i qa qb) := by
  unfold State.encoderEdge
  simp +contextual (maxDischargeDepth := 99) only [hk, Keeps_mk, ite_keeps, set_keeps, trkHold_keeps, qinCount_keeps,
      qinIllegal_keeps]

theorem encoderStall_keeps (hk : Keeps base s) (i : Nat) : Keeps base (s.encoderStall i) := by
  unfold State.encoderStall
  try dsimp only
  repeat' split
  all_goals simp +contextual (maxDischargeDepth := 99) only [hk, Keeps_mk, ite_keeps, modQin_keeps, qinSpeed_keeps, set_keeps]

theorem qinLoad_keeps (hk : Keeps base s) (i : Nat) (v : Word) : Keeps base (s.qinLoad i v) := by
  unfold State.qinLoad
  simp +contextual (maxDischargeDepth := 99) only [hk, Keeps_mk, ite_keeps, qinMove_keeps]

theorem qinPosRead_keeps (hk : Keeps base s) (i : Nat) : Keeps base (s.qinPosRead i) := by
  unfold State.qinPosRead
  simp +contextual (maxDischargeDepth := 99) only [hk, Keeps_mk, ite_keeps, modQin_keeps]

theorem indexTake_keeps (hk : Keeps base s) (i : Nat) :
    Keeps base (s.indexTake i) := by
  unfold State.indexTake
  simp +contextual (maxDischargeDepth := 99) only [hk, Keeps_mk, ite_keeps, set_keeps, setI_keeps, set1_keeps, ev_keeps,
      modQin_keeps, qinMove_keeps]

theorem indexPulse_keeps (hk : Keeps base s) (i : Nat) (level : Bool) :
    Keeps base (s.indexPulse i level) := by
  unfold State.indexPulse
  simp +contextual (maxDischargeDepth := 99) only [hk, Keeps_mk, ite_keeps, set_keeps, trkHold_keeps, indexTake_keeps]

theorem historyRecord_keeps (hk : Keeps base s) (i : Nat) : Keeps base (s.historyRecord i) := by
  unfold State.historyRecord
  simp +contextual (maxDischargeDepth := 99) only [hk, Keeps_mk, ite_keeps, modQin_keeps]

theorem msEdge_keeps (hk : Keeps base s) (m : Nat) (falling : Bool) (stamp : Nat) :
    Keeps base (s.msEdge m falling stamp) := by
  unfold State.msEdge
  simp +contextual (maxDischargeDepth := 99) only [hk, Keeps_mk, ite_keeps, ev_keeps, modF_keeps, setTrk_keeps]

theorem setSsi_keeps (hk : Keeps base s) (p : Nat) (x : SsiSt) : Keeps base (s.setSsi p x) := by
  unfold State.setSsi
  simp +contextual (maxDischargeDepth := 99) only [hk, Keeps_mk, ite_keeps, setTrk_keeps]

theorem ssiStart_keeps (hk : Keeps base s) (p : Nat) (datLow : Bool) :
    Keeps base (s.ssiStart p datLow) := by
  unfold State.ssiStart
  simp +contextual (maxDischargeDepth := 99) only [hk, Keeps_mk, ite_keeps, set1_keeps, ev_keeps, setSsi_keeps]

theorem ssiEnd_keeps (hk : Keeps base s) (p : Nat) (bits : Nat) (datLow : Bool) (high : Nat) :
    Keeps base (s.ssiEnd p bits datLow high) := by
  unfold State.ssiEnd
  simp +contextual (maxDischargeDepth := 99) only [hk, Keeps_mk, ite_keeps, set_keeps, set1_keeps, ev_keeps, setSsi_keeps]

theorem modEnc_keeps (hk : Keeps base s) (m : Nat) (g : EncSt → EncSt) : Keeps base (s.modEnc m g) := by
  unfold State.modEnc
  simp +contextual (maxDischargeDepth := 99) only [hk, Keeps_mk, ite_keeps, setTrk_keeps]

theorem encHold_keeps (hk : Keeps base s) (m : Nat) (gone : Bool) :
    Keeps base (s.encHold m gone) := by
  unfold State.encHold
  simp +contextual (maxDischargeDepth := 99) only [hk, Keeps_mk, ite_keeps, set_keeps, set1_keeps, ev_keeps, modEnc_keeps]

theorem encTarget_keeps (hk : Keeps base s) (m : Nat) :
    Keeps base (s.encTarget m) := by
  unfold State.encTarget
  try dsimp only
  repeat' split
  all_goals simp +contextual (maxDischargeDepth := 99) only [hk, Keeps_mk, ite_keeps, set_keeps, set1_keeps, ev_keeps,
      modEnc_keeps, encHold_keeps]

theorem encUpdate_keeps (hk : Keeps base s) (m : Nat) : Keeps base (s.encUpdate m) := by
  unfold State.encUpdate
  simp +contextual (maxDischargeDepth := 99) only [hk, Keeps_mk, ite_keeps, encTarget_keeps]

theorem encStep_keeps (hk : Keeps base s) (m : Nat) :
    Keeps base (s.encStep m) := by
  unfold State.encStep
  simp +contextual (maxDischargeDepth := 99) only [hk, Keeps_mk, ite_keeps, set_keeps, modEnc_keeps]

theorem encResume_keeps (hk : Keeps base s) (m : Nat) :
    Keeps base (s.encResume m) := by
  unfold State.encResume
  try dsimp only
  repeat' split
  all_goals simp +contextual (maxDischargeDepth := 99) only [hk, Keeps_mk, ite_keeps, set_keeps, setI_keeps, modEnc_keeps,
      encTarget_keeps]

theorem encCheck_keeps (hk : Keeps base s) (n : Nat)  :
    Keeps base (s.encCheck n) := by
  refine foldl_keeps hk (fun t m ht => ite_keeps ?_ ht)
  split
  · exact encHold_keeps ht _ _
  · exact encHold_keeps ht _ _
  · exact ht

theorem trackId_keeps (hk : Keeps base s) (m : Nat) (v : Word) :
    Keeps base (s.trackId m v) := by
  unfold State.trackId
  simp +contextual (maxDischargeDepth := 99) only [hk, Keeps_mk, ite_keeps, set_keeps, modEnc_keeps, encResume_keeps]

theorem trkContain_keeps (hk : Keeps base s) : Keeps base (s.trkContain) := by
  unfold State.trkContain
  simp +contextual (maxDischargeDepth := 99) only [hk, Keeps_mk, ite_keeps, setTrk_keeps]

theorem trkResume_keeps (hk : Keeps base s) : Keeps base (s.trkResume) := by
  unfold State.trkResume
  simp +contextual (maxDischargeDepth := 99) only [hk, Keeps_mk, ite_keeps, encResume_keeps, foldl_keeps, implies_true]

theorem cmpPulseEnd_keeps (hk : Keeps base s) (pin : Nat) : Keeps base (s.cmpPulseEnd pin) := by
  unfold State.cmpPulseEnd
  simp +contextual (maxDischargeDepth := 99) only [hk, Keeps_mk, ite_keeps, setTrk_keeps]

theorem trkWritten_keeps (hk : Keeps base s) (off : Nat) (old : Word) : Keeps base (s.trkWritten off old) := by
  unfold State.trkWritten
  try dsimp only
  repeat' split
  all_goals simp +contextual (maxDischargeDepth := 99) only [hk, Keeps_mk, ite_keeps, modQin_keeps, set_keeps, setSsi_keeps]

/-! ### Machine/Acoustic.lean -/

theorem swapReq_keeps (hk : Keeps base s) (n log2 : Nat) (target : Bool) : Keeps base (s.swapReq n log2 target) := by
  unfold State.swapReq
  try dsimp only
  repeat' split
  all_goals simp +contextual (maxDischargeDepth := 99) only [hk, Keeps_mk, ite_keeps, modF_keeps, ev_keeps]

theorem swapsRun_keeps (hk : Keeps base s) (n log2 : Nat) : Keeps base (s.swapsRun n log2) := by
  unfold State.swapsRun
  try dsimp only
  repeat' split
  all_goals simp +contextual (maxDischargeDepth := 99) only [hk, Keeps_mk, ite_keeps, modF_keeps, swapReq_keeps, foldl_keeps,
    implies_true]

theorem xfStep_keeps (hk : Keeps base s) (n : Nat) : Keeps base (s.xfStep n) := by
  unfold State.xfStep
  try dsimp only
  repeat' split
  all_goals simp +contextual (maxDischargeDepth := 99) only [hk, Keeps_mk, ite_keeps, set_keeps, modF_keeps, ev_keeps]

theorem acfShow_keeps (hk : Keeps base s) (n : Nat) : Keeps base (s.acfShow n) := by
  unfold State.acfShow
  simp +contextual (maxDischargeDepth := 99) only [hk, Keeps_mk, ite_keeps, setB_keeps]

theorem swapsSettle_keeps (hk : Keeps base s) (n : Nat) (i : AcfIn) :
    Keeps base (s.swapsSettle n i) := by
  unfold State.swapsSettle
  simp +contextual (maxDischargeDepth := 99) only [hk, Keeps_mk, ite_keeps, ev_keeps, modF_keeps]

theorem acfLim_keeps (hk : Keeps base s) (n k : Nat) : Keeps base (s.acfLim n k) := by
  unfold State.acfLim
  simp +contextual (maxDischargeDepth := 99) only [hk, Keeps_mk, ite_keeps, addSat_keeps, ev_keeps]

theorem acfSat_keeps (hk : Keeps base s) (n k : Nat) : Keeps base (s.acfSat n k) := by
  unfold State.acfSat
  simp +contextual (maxDischargeDepth := 99) only [hk, Keeps_mk, ite_keeps, addSat_keeps, ev_keeps, modF_keeps, present_keeps]

theorem evtTake_keeps (hk : Keeps base s) (n : Nat) (x : EvtOut) :
    Keeps base (s.evtTake n x) := by
  unfold State.evtTake
  simp +contextual (maxDischargeDepth := 99) only [hk, Keeps_mk, ite_keeps, modF_keeps, acfLim_keeps, foldl_keeps,
      implies_true]

theorem evtShow_keeps (hk : Keeps base s) (n : Nat) : Keeps base (s.evtShow n) := by
  unfold State.evtShow
  simp +contextual (maxDischargeDepth := 99) only [hk, Keeps_mk, ite_keeps, set_keeps, setB_keeps]

theorem evtReset_keeps (hk : Keeps base s) (n : Nat) :
    Keeps base (s.evtReset n) := by
  unfold State.evtReset
  simp +contextual (maxDischargeDepth := 99) only [hk, Keeps_mk, ite_keeps, modF_keeps, encCheck_keeps, evtShow_keeps]

theorem evtIdle_keeps (hk : Keeps base s) (n : Nat) :
    Keeps base (s.evtIdle n) := by
  unfold State.evtIdle
  simp +contextual (maxDischargeDepth := 99) only [hk, Keeps_mk, ite_keeps, modF_keeps, evtReset_keeps]

theorem evtAdvance_keeps (hk : Keeps base s) (n : Nat) (q : List EvtIn)  :
    Keeps base (evtAdvance n q s) := by
  induction q generalizing s with
  | nil => exact modF_keeps hk _ _
  | cons x q ih =>
    cases x with
    | restart => exact ih (evtReset_keeps hk _)
    | out x => exact ite_keeps (modF_keeps (evtTake_keeps hk _ _) _ _) (ih (evtTake_keeps hk _ _))

theorem evtPush_keeps (hk : Keeps base s) (n : Nat) (x : EvtIn) :
    Keeps base (s.evtPush n x) := by
  unfold State.evtPush
  simp +contextual (maxDischargeDepth := 99) only [hk, Keeps_mk, ite_keeps, modF_keeps, evtAdvance_keeps]

theorem evtFeed_keeps (hk : Keeps base s) (n : Nat) (x : EvtOut) :
    Keeps base (s.evtFeed n x) := by
  unfold State.evtFeed
  simp +contextual (maxDischargeDepth := 99) only [hk, Keeps_mk, ite_keeps, evtPush_keeps]

theorem acfTake_keeps (hk : Keeps base s) (n : Nat) (i : AcfIn) :
    Keeps base (s.acfTake n i) := by
  unfold State.acfTake
  simp +contextual (maxDischargeDepth := 99) only [hk, Keeps_mk, ite_keeps, set_keeps, ev_keeps, modF_keeps, acfShow_keeps,
      swapsSettle_keeps, acfLim_keeps, foldl_keeps, implies_true]

theorem acfEmit_keeps (hk : Keeps base s) (n : Nat) (i : AcfIn)  :
    Keeps base (s.acfEmit n i) := by
  unfold State.acfEmit
  extract_lets r s1 a dec bins coefs old new outs s2 s3 st sd s4 lost s5 frames num s6 kept
  have h1 : Keeps base s1 := swapsRun_keeps hk _ _
  have h3 : Keeps base s3 := acfSat_keeps (acfLim_keeps (modF_keeps h1 _ _) _ _) _ _
  have hd : Keeps base sd := ite_keeps (set2_keeps h3 _ _ _) h3
  have h4 : Keeps base s4 := acfShow_keeps (xfStep_keeps (set2_keeps hd _ _ _) _) _
  have h5 : Keeps base s5 := ite_keeps (ev_keeps (set_keeps h4 _ _) _) h4
  have h6 : Keeps base s6 := ite_keeps h5 (foldl_keeps h5 (fun t f ht => stageFor_keeps ht _ _))
  exact ite_keeps h4 (histRecord_keeps (evtFeed_keeps h6 _ _) _ _)

theorem acfStart_keeps (hk : Keeps base s) (n : Nat) (i : AcfIn) :
    Keeps base (s.acfStart n i) := by
  unfold State.acfStart
  simp +contextual (maxDischargeDepth := 99) only [hk, Keeps_mk, ite_keeps, evtPush_keeps, acfTake_keeps]

theorem acfAdvance_keeps (hk : Keeps base s) (n : Nat) (q : List AcfIn)  :
    Keeps base (acfAdvance n q s) := by
  induction q generalizing s with
  | nil => exact modF_keeps hk _ _
  | cons i q ih => exact ite_keeps (modF_keeps (acfStart_keeps hk _ _) _ _) (ih (acfStart_keeps hk _ _))

theorem acfPush_keeps (hk : Keeps base s) (n : Nat) (i : AcfIn) :
    Keeps base (s.acfPush n i) := by
  unfold State.acfPush
  simp +contextual (maxDischargeDepth := 99) only [hk, Keeps_mk, ite_keeps, modF_keeps, acfAdvance_keeps]

theorem acfOutput_keeps (hk : Keeps base s) (n : Nat) :
    Keeps base (s.acfOutput n) := by
  unfold State.acfOutput
  try dsimp only
  repeat' split
  all_goals simp +contextual (maxDischargeDepth := 99) only [hk, Keeps_mk, ite_keeps, memWork_keeps, acfEmit_keeps,
      acfAdvance_keeps]

theorem shotProcess_keeps (hk : Keeps base s) (n : Nat) (raw : List Raw4) :
    Keeps base (s.shotProcess n raw) := by
  unfold State.shotProcess
  try dsimp only
  repeat' split
  all_goals simp +contextual (maxDischargeDepth := 99) only [hk, Keeps_mk, ite_keeps, memWork_keeps, phaseShot_keeps,
      acfPush_keeps]

/-! ### Machine/Raman.lean -/

theorem ramanOvr_keeps (hk : Keeps base s) (n c : Nat) (r : Shot) (xs : List (Int × Bool)) :
    Keeps base (s.ramanOvr n c r xs) := by
  unfold State.ramanOvr
  simp +contextual (maxDischargeDepth := 99) only [hk, Keeps_mk, ite_keeps, overrange_keeps, blkSeen_keeps, foldl_keeps,
      implies_true]

theorem modDts_keeps (hk : Keeps base s) (n : Nat) (g : DtsSt → DtsSt) : Keeps base (s.modDts n g) := by
  unfold State.modDts
  simp +contextual (maxDischargeDepth := 99) only [hk, Keeps_mk, ite_keeps, modF_keeps]

theorem dtsSwap_keeps (hk : Keeps base s) (n : Nat) : Keeps base (s.dtsSwap n) := by
  unfold State.dtsSwap
  try dsimp only
  repeat' split
  all_goals simp +contextual (maxDischargeDepth := 99) only [hk, Keeps_mk, ite_keeps, modDts_keeps, set_keeps]

theorem ramanMark_keeps (hk : Keeps base s) (n : Nat) (l : List Nat) : Keeps base (s.ramanMark n l) := by
  unfold State.ramanMark
  simp +contextual (maxDischargeDepth := 99) only [hk, Keeps_mk, ite_keeps, modF_keeps]

theorem ramanTake_keeps (hk : Keeps base s) (n : Nat) (stokes anti : List Int) :
    Keeps base (s.ramanTake n stokes anti) := by
  unfold State.ramanTake
  try dsimp only
  repeat' split
  all_goals simp +contextual (maxDischargeDepth := 99) only [hk, Keeps_mk, ite_keeps, set2_keeps, memWork_keeps,
      ramanOvr_keeps, modDts_keeps, dtsSwap_keeps, ramanMark_keeps]

theorem dtsDrop_keeps (hk : Keeps base s) (n : Nat) (first : Option Nat)  :
    Keeps base (s.dtsDrop n first).1 := by
  unfold State.dtsDrop
  exact ite_keeps (modDts_keeps (ramanMark_keeps hk _ _) _ _) (ramanMark_keeps hk _ _)

theorem dtsRestart_keeps (hk : Keeps base s) (n : Nat)  :
    Keeps base (s.dtsRestart n) := ev_keeps (dtsDrop_keeps hk n _) _

theorem dtsDiscard_keeps (hk : Keeps base s) (n : Nat) (first : Option Nat)  :
    Keeps base (s.dtsDiscard n first) :=
  ite_keeps (ev_keeps (addSat_keeps (dtsDrop_keeps hk n _) _ _) _) hk

theorem accPoison_keeps (hk : Keeps base s) (e : MemErr) :
    Keeps base (s.accPoison e) := by
  unfold State.accPoison
  try dsimp only
  repeat' split
  all_goals simp +contextual (maxDischargeDepth := 99) only [hk, Keeps_mk, ite_keeps, addSat_keeps, ev_keeps, modDts_keeps,
      foldl_keeps, implies_true]

theorem scrubPass_keeps (hk : Keeps base s) (errs : List MemErr) :
    Keeps base (s.scrubPass errs) := by
  unfold State.scrubPass
  simp +contextual (maxDischargeDepth := 99) only [hk, Keeps_mk, ite_keeps, addWrap_keeps, ev_keeps, memErr_keeps,
      accPoison_keeps, foldl_keeps, implies_true]

theorem dtsEnd_keeps (hk : Keeps base s) (n : Nat) :
    Keeps base (s.dtsEnd n) := by
  unfold State.dtsEnd
  try dsimp only
  repeat' split
  all_goals simp +contextual (maxDischargeDepth := 99) only [hk, Keeps_mk, ite_keeps, set_keeps, addWrap_keeps, ev_keeps,
      present_keeps, stageFor_keeps, modDts_keeps, dtsSwap_keeps, foldl_keeps, implies_true]

end Sys2Proof.Machine
end

