-- ==== Sys2Proof/Laws/KeepsUnits.lean ====
section
/-! SUPPORT. Kept facts: the monitor converter, the track interface, restarts, the launch engine and the Weirs. -/

namespace Sys2Proof.Machine

set_option Elab.async false
set_option linter.unusedSimpArgs false
set_option linter.unusedVariables false

variable {base s : State}

theorem rwrite_wf (r : Tab Word) (off : Nat) (v : Word) (h : twf resetOf r = true) : twf resetOf (rwrite r off v) = true := by
  unfold rwrite
  split
  · exact h
  · exact twf_tput resetOf _ _ _ h

theorem rwrites_wf (r : Tab Word) (l : List (Nat × Word)) (h : twf resetOf r = true) : twf resetOf (rwrites r l) = true := by
  induction l generalizing r with
  | nil => exact h
  | cons x l ih => exact ih _ (rwrite_wf _ _ _ h)

theorem rwriteP_wf (r : Tab Word) (off : Nat) (v : Word) (h : twf resetOf r = true) : twf resetOf (rwriteP r off v) = true := by
  unfold rwriteP
  split
  · exact h
  · exact twf_tput resetOf _ _ _ h

theorem rwriteRegs_keeps (h : Keeps base s) (off : Nat) (v : Word) : Keeps base { s with regs := rwrite s.regs off v } :=
  withRegs_keeps h _ (rwrite_wf _ _ _)

theorem rwritePRegs_keeps (h : Keeps base s) (off : Nat) (v : Word) : Keeps base { s with regs := rwriteP s.regs off v } :=
  withRegs_keeps h _ (rwriteP_wf _ _ _)

/-! ### Machine/Duty.lean -/

theorem clampMark_keeps (hk : Keeps base s) (n : Nat) (w : Int) : Keeps base (s.clampMark n w) := by
  unfold State.clampMark
  simp +contextual (maxDischargeDepth := 99) only [hk, Keeps_mk, ite_keeps, modF_keeps, present_keeps]

theorem dutySync_keeps (hk : Keeps base s) (n : Nat) :
    Keeps base (s.dutySync n) := by
  unfold State.dutySync
  try dsimp only
  repeat' split
  all_goals simp +contextual (maxDischargeDepth := 99) only [hk, Keeps_mk, ite_keeps, set_keeps, modF_keeps]

theorem clampSync_keeps (hk : Keeps base s) (n : Nat) : Keeps base (s.clampSync n) := by
  unfold State.clampSync
  try dsimp only
  repeat' split
  all_goals simp +contextual (maxDischargeDepth := 99) only [hk, Keeps_mk, ite_keeps, modF_keeps, addSat_keeps, ev_keeps,
    clampMark_keeps, foldl_keeps, implies_true]

theorem lncSync_keeps (hk : Keeps base s) (n : Nat) : Keeps base (s.lncSync n) := by
  unfold State.lncSync
  simp +contextual (maxDischargeDepth := 99) only [hk, Keeps_mk, ite_keeps, clampSync_keeps, dutySync_keeps]

theorem gatesEval_keeps (hk : Keeps base s) (n : Nat) : Keeps base (s.gatesEval n) := by
  unfold State.gatesEval
  simp +contextual (maxDischargeDepth := 99) only [hk, Keeps_mk, ite_keeps, modF_keeps]

theorem staticSet_keeps (hk : Keeps base s) (n : Nat) :
    Keeps base (s.staticSet n) := by
  unfold State.staticSet
  simp +contextual (maxDischargeDepth := 99) only [hk, Keeps_mk, ite_keeps, modF_keeps, gatesEval_keeps]

theorem staticUp_keeps (hk : Keeps base s) (n : Nat) :
    Keeps base (s.staticUp n) := by
  unfold State.staticUp
  simp +contextual (maxDischargeDepth := 99) only [hk, Keeps_mk, ite_keeps, lncSync_keeps, staticSet_keeps]

theorem gatePols_keeps (hk : Keeps base s) (n : Nat) (offs : List Nat) :
    Keeps base (s.gatePols n offs) := by
  unfold State.gatePols
  simp +contextual (maxDischargeDepth := 99) only [hk, Keeps_mk, ite_keeps, modF_keeps]

theorem staticDown_keeps (hk : Keeps base s) (n : Nat) : Keeps base (s.staticDown n) := by
  unfold State.staticDown
  simp +contextual (maxDischargeDepth := 99) only [hk, Keeps_mk, ite_keeps, lncSync_keeps, modF_keeps, gatesEval_keeps]

/-! ### Machine/Restart.lean -/

theorem dcbSet_keeps (hk : Keeps base s) (n : Nat) : Keeps base (s.dcbSet n) := by
  unfold State.dcbSet
  simp +contextual (maxDischargeDepth := 99) only [hk, Keeps_mk, ite_keeps, set_keeps]

theorem restartNote_keeps (hk : Keeps base s) (n : Nat) : Keeps base (s.restartNote n) := by
  unfold State.restartNote
  simp +contextual (maxDischargeDepth := 99) only [hk, Keeps_mk, ite_keeps, set_keeps, ev_keeps]

theorem tabSwitch_keeps (hk : Keeps base s) (t : TabLoad) : Keeps base (s.tabSwitch t) := by
  refine foldl_keeps ?_ (fun t p ht => setTword_keeps ht _ _)
  obtain ⟨h1, h2, h3, h4, h5, h6⟩ := hk
  refine ⟨h1, h2, h3, h4, h5, fun x => ?_⟩
  have := h6 x
  simp only [State.wf, Bool.and_eq_true] at this ⊢
  exact ⟨⟨⟨this.1.1.1, twf_filter _ _ _ this.1.1.2⟩, this.1.2⟩, this.2⟩

theorem tabLoads_keeps (hk : Keeps base s) (l : List TabLoad) :
    Keeps base (s.tabLoads l) := by
  unfold State.tabLoads
  simp +contextual (maxDischargeDepth := 99) only [hk, Keeps_mk, ite_keeps, tabSwitch_keeps, foldl_keeps, implies_true]

theorem bgSwitch_keeps (hk : Keeps base s) (n : Nat) (r0 : Tab Word) (start : Option NextShot) :
    Keeps base (s.bgSwitch n r0 start) := by
  unfold State.bgSwitch
  try dsimp only
  repeat' split
  all_goals simp +contextual (maxDischargeDepth := 99) only [hk, Keeps_mk, ite_keeps, bgRestart_keeps, foldl_keeps,
      implies_true]

theorem applyPart_keeps (hk : Keeps base s) (n : Nat) (d : DuePart) (start : Option NextShot) :
    Keeps base (s.applyPart n d start) := by
  unfold State.applyPart
  extract_lets r0 r1 e g moved sd sg s1 s2 s3 s4
  have hd : Keeps base sd := ite_keeps (dutySync_keeps hk _) hk
  have hg : Keeps base sg := modF_keeps (tabLoads_keeps (withRegs_keeps hd _ (rwrites_wf _ _)) _) _ _
  have h1 : Keeps base s1 := bgSyncFe_keeps
      (bgSwitch_keeps (gatePols_keeps (ite_keeps (staticSet_keeps hg _) hg) _ _) _ _ _) _
  have h2 : Keeps base s2 := ite_keeps (dcbSet_keeps h1 _) h1
  have h3 : Keeps base s3 := ite_keeps (restartNote_keeps h2 _) h2
  have h4 : Keeps base s4 := ite_keeps (dtsRestart_keeps h3 _) h3
  exact encCheck_keeps (ite_keeps (evtIdle_keeps h4 _) h4) _

theorem applyReached_keeps (hk : Keeps base s) (n : Nat) (x : NextShot) (isStart : Bool) :
    Keeps base (s.applyReached n x isStart) := by
  unfold State.applyReached
  simp +contextual (maxDischargeDepth := 99) only [hk, Keeps_mk, ite_keeps, applyPart_keeps, modF_keeps, foldl_keeps,
    implies_true]

theorem addDue_keeps (hk : Keeps base s) (n : Nat) (d : DuePart) : Keeps base (s.addDue n d) := by
  unfold State.addDue
  simp +contextual (maxDischargeDepth := 99) only [hk, Keeps_mk, ite_keeps, modF_keeps]

theorem setGroup_keeps (hk : Keeps base s) (g : Nat) (x : Option Group) : Keeps base (s.setGroup g x) := by
  unfold State.setGroup
  simp +contextual (maxDischargeDepth := 99) only [hk, Keeps_mk, ite_keeps]

theorem groupEnd_keeps (hk : Keeps base s) (g code : Nat) : Keeps base (s.groupEnd g code) := by
  unfold State.groupEnd
  try dsimp only
  repeat' split
  all_goals simp +contextual (maxDischargeDepth := 99) only [hk, Keeps_mk, ite_keeps, setGroup_keeps, set_keeps, ev_keeps,
    outcome_keeps]

theorem groupsEnd_keeps (hk : Keeps base s) (p : Group → Bool) (code : Nat) : Keeps base (s.groupsEnd p code) := by
  unfold State.groupsEnd
  refine foldl_keeps hk (fun t g ht => ?_)
  split
  · exact ite_keeps (groupEnd_keeps ht _ _) ht
  · exact ht

theorem groupsFault_keeps (hk : Keeps base s) :
    Keeps base (s.groupsFault) := by
  unfold State.groupsFault
  try dsimp only
  repeat' split
  all_goals simp +contextual (maxDischargeDepth := 99) only [hk, Keeps_mk, ite_keeps, groupsEnd_keeps]

theorem stopped_keeps (hk : Keeps base s) (n : Nat) (tripped : Bool) :
    Keeps base (s.stopped n tripped) := by
  unfold State.stopped
  simp +contextual (maxDischargeDepth := 99) only [hk, Keeps_mk, ite_keeps, modF_keeps, bgSyncFe_keeps, encCheck_keeps,
      dtsDiscard_keeps, applyPart_keeps, groupsEnd_keeps, foldl_keeps, implies_true]

theorem nvCut_keeps (hk : Keeps base s) : Keeps base (s.nvCut) := by
  unfold State.nvCut
  try dsimp only
  repeat' split
  all_goals simp +contextual (maxDischargeDepth := 99) only [hk, Keeps_mk, ite_keeps, nextFree_keeps, nvPut_keeps]

theorem abandon_keeps (hk : Keeps base s) (c : Cmd) :
    Keeps base (s.abandon c) := by
  unfold State.abandon
  try dsimp only
  repeat' split
  all_goals simp +contextual (maxDischargeDepth := 99) only [hk, Keeps_mk, ite_keeps, setAcq_keeps, calShow_keeps,
      setPmc_keeps, pmcKick_keeps, nvCut_keeps]

/-! ### Machine/Launch.lean -/

theorem armEnd_keeps (hk : Keeps base s) (n : Nat) (code : Nat) : Keeps base (s.armEnd n code) := by
  unfold State.armEnd
  try dsimp only
  repeat' split
  all_goals simp +contextual (maxDischargeDepth := 99) only [hk, Keeps_mk, ite_keeps, set_keeps, ev_keeps, modF_keeps,
    complete_keeps]

theorem outputsSafe_keeps (hk : Keeps base s) (n : Nat) :
    Keeps base (s.outputsSafe n) := by
  unfold State.outputsSafe
  simp +contextual (maxDischargeDepth := 99) only [hk, Keeps_mk, ite_keeps, modF_keeps, lncSync_keeps]

theorem dropLost_keeps (hk : Keeps base s) (n : Nat) :
    Keeps base (s.dropLost n) := by
  unfold State.dropLost
  try dsimp only
  repeat' split
  all_goals simp +contextual (maxDischargeDepth := 99) only [hk, Keeps_mk, ite_keeps]

theorem disarmDone_keeps (hk : Keeps base s) (n : Nat) : Keeps base (s.disarmDone n) := by
  unfold State.disarmDone
  try dsimp only
  repeat' split
  all_goals simp +contextual (maxDischargeDepth := 99) only [hk, Keeps_mk, ite_keeps, modF_keeps, ev_keeps, complete_keeps,
    foldl_keeps, implies_true]

theorem trip_keeps (hk : Keeps base s) (n cause : Nat) :
    Keeps base (s.trip n cause) := by
  unfold State.trip
  simp +contextual (maxDischargeDepth := 99) only [hk, Keeps_mk, ite_keeps, set_keeps, set2_keeps, orReg_keeps, ev_keeps,
      modF_keeps, stopped_keeps, armEnd_keeps, outputsSafe_keeps, dropLost_keeps, disarmDone_keeps]

theorem safeLow_keeps (hk : Keeps base s) : Keeps base (s.safeLow) := by
  unfold State.safeLow
  simp +contextual (maxDischargeDepth := 99) only [hk, Keeps_mk, ite_keeps, trip_keeps, foldl_keeps, implies_true]

theorem envExceed_keeps (hk : Keeps base s) (n : Nat) :
    Keeps base (s.envExceed n) := by
  unfold State.envExceed
  simp +contextual (maxDischargeDepth := 99) only [hk, Keeps_mk, ite_keeps, present_keeps, modF_keeps, lncSync_keeps,
      trip_keeps]

theorem gridStart_keeps (hk : Keeps base s) (n : Nat) (a : Int) :
    Keeps base (s.gridStart n a) := by
  unfold State.gridStart
  try dsimp only
  repeat' split
  all_goals simp +contextual (maxDischargeDepth := 99) only [hk, Keeps_mk, ite_keeps, modF_keeps]

theorem armStart_keeps (hk : Keeps base s) (n : Nat) (c : Cmd) :
    Keeps base (s.armStart n c) := by
  unfold State.armStart
  simp +contextual (maxDischargeDepth := 99) only [hk, Keeps_mk, ite_keeps, set_keeps, modF_keeps, alignAbort_keeps,
      calAbandon_keeps]

theorem selfTest_keeps (hk : Keeps base s) (n : Nat) (pass : Bool) : Keeps base (s.selfTest n pass) := by
  unfold State.selfTest
  try dsimp only
  repeat' split
  all_goals simp +contextual (maxDischargeDepth := 99) only [hk, Keeps_mk, ite_keeps, modF_keeps, staticUp_keeps, set_keeps,
    armEnd_keeps, present_keeps]

theorem armedEntry_keeps (hk : Keeps base s) (n : Nat) :
    Keeps base (s.armedEntry n) := by
  unfold State.armedEntry
  try dsimp only
  repeat' split
  all_goals simp +contextual (maxDischargeDepth := 99) only [hk, Keeps_mk, ite_keeps, set_keeps, ev_keeps, complete_keeps,
      modF_keeps, bgSyncFe_keeps, dtsRestart_keeps, dcbSet_keeps, restartNote_keeps, gridStart_keeps]

theorem disarmEffect_keeps (hk : Keeps base s) (n : Nat) : Keeps base (s.disarmEffect n) := by
  unfold State.disarmEffect
  simp +contextual (maxDischargeDepth := 99) only [hk, Keeps_mk, ite_keeps, staticDown_keeps, set_keeps, modF_keeps,
    disarmDone_keeps, stopped_keeps]

theorem disarmFe_keeps (hk : Keeps base s) (n : Nat) (c : Option Cmd) :
    Keeps base (s.disarmFe n c) := by
  unfold State.disarmFe
  try dsimp only
  repeat' split
  all_goals simp +contextual (maxDischargeDepth := 99) only [hk, Keeps_mk, ite_keeps, set_keeps, ev_keeps, complete_keeps,
      modF_keeps, staticDown_keeps, stopped_keeps, armEnd_keeps, disarmEffect_keeps]

/-! ### Machine/Weir.lean -/

theorem modW_keeps (hk : Keeps base s) (m : Nat) (g : WeirSt → WeirSt) : Keeps base (s.modW m g) := by
  unfold State.modW
  simp +contextual (maxDischargeDepth := 99) only [hk, Keeps_mk, ite_keeps]

theorem weirSync_keeps (hk : Keeps base s) (m : Nat) :
    Keeps base (s.weirSync m) := by
  unfold State.weirSync
  simp +contextual (maxDischargeDepth := 99) only [hk, Keeps_mk, ite_keeps, modW_keeps]

theorem weirAssert_keeps (hk : Keeps base s) (m : Nat) : Keeps base (s.weirAssert m) := by
  unfold State.weirAssert
  simp +contextual (maxDischargeDepth := 99) only [hk, Keeps_mk, ite_keeps, trip_keeps, foldl_keeps, implies_true]

theorem weirSet_keeps (hk : Keeps base s) (m : Nat) :
    Keeps base (s.weirSet m) := by
  unfold State.weirSet
  simp +contextual (maxDischargeDepth := 99) only [hk, Keeps_mk, ite_keeps, set_keeps, set2_keeps, addSat_keeps, ev_keeps,
      present_keeps, pmcEvent_keeps, modW_keeps, weirAssert_keeps]

theorem weirEval_keeps (hk : Keeps base s) (m : Nat) : Keeps base (s.weirEval m) := by
  unfold State.weirEval
  simp +contextual (maxDischargeDepth := 99) only [hk, Keeps_mk, ite_keeps, modW_keeps, weirSet_keeps]

theorem weirClear_keeps (hk : Keeps base s) (m : Nat) :
    Keeps base (s.weirClear m) := by
  unfold State.weirClear
  simp +contextual (maxDischargeDepth := 99) only [hk, Keeps_mk, ite_keeps, set_keeps, ev_keeps, modW_keeps]

theorem latchWrite_keeps (hk : Keeps base s) (v : Nat) : Keeps base (s.latchWrite v) := by
  unfold State.latchWrite
  simp +contextual (maxDischargeDepth := 99) only [hk, Keeps_mk, ite_keeps, weirClear_keeps, foldl_keeps, implies_true]

theorem weirRoute_keeps (hk : Keeps base s) (m0 : Nat) : Keeps base (s.weirRoute m0) := by
  unfold State.weirRoute
  simp +contextual (maxDischargeDepth := 99) only [hk, Keeps_mk, ite_keeps, weirAssert_keeps, foldl_keeps, implies_true]

theorem weirGateOpen_keeps (hk : Keeps base s) (m : Nat) (launch : Bool) :
    Keeps base (s.weirGateOpen m launch) := by
  unfold State.weirGateOpen
  simp +contextual (maxDischargeDepth := 99) only [hk, Keeps_mk, ite_keeps, modW_keeps, weirSync_keeps, weirEval_keeps]

theorem weirAuto_keeps (hk : Keeps base s) (m : Nat) (start : Bool) :
    Keeps base (s.weirAuto m start) := by
  unfold State.weirAuto
  simp +contextual (maxDischargeDepth := 99) only [hk, Keeps_mk, ite_keeps, weirClear_keeps]

theorem weirCross_keeps (hk : Keeps base s) (m : Nat) (uV : Int) :
    Keeps base (s.weirCross m uV) := by
  unfold State.weirCross
  simp +contextual (maxDischargeDepth := 99) only [hk, Keeps_mk, ite_keeps, modW_keeps, weirEval_keeps]

theorem weirUnres_keeps (hk : Keeps base s) (m : Nat) : Keeps base (s.weirUnres m) := by
  unfold State.weirUnres
  simp +contextual (maxDischargeDepth := 99) only [hk, Keeps_mk, ite_keeps, modW_keeps, set_keeps, weirAssert_keeps]

theorem weirResolved_keeps (hk : Keeps base s) (m : Nat) (uV : Int) : Keeps base (s.weirResolved m uV) := by
  unfold State.weirResolved
  try dsimp only
  repeat' split
  all_goals simp +contextual (maxDischargeDepth := 99) only [hk, Keeps_mk, ite_keeps, weirCross_keeps, modW_keeps, set_keeps,
    ev_keeps]

theorem vddA18_keeps (hk : Keeps base s) : Keeps base (s.vddA18) := by
  unfold State.vddA18
  simp +contextual (maxDischargeDepth := 99) only [hk, Keeps_mk, ite_keeps, weirUnres_keeps, foldl_keeps, implies_true]

theorem weirOff_keeps (hk : Keeps base s) (m : Nat) : Keeps base (s.weirOff m) := by
  unfold State.weirOff
  simp +contextual (maxDischargeDepth := 99) only [hk, Keeps_mk, ite_keeps, set_keeps, modW_keeps]

theorem staleShow_keeps (hk : Keeps base s) (m : Nat) : Keeps base (s.staleShow m) := by
  unfold State.staleShow
  simp +contextual (maxDischargeDepth := 99) only [hk, Keeps_mk, ite_keeps, setB_keeps]

theorem weirApply_keeps (hk : Keeps base s) (m : Nat) (r : Tab Word) (thr : Bool)
    (hr : twf resetOf s.regs = true → twf resetOf r = true) : Keeps base (s.weirApply m r thr) := by
  unfold State.weirApply
  extract_lets r0 was changed src s1 wins stamp en s2
  have h2 : Keeps base s2 := staleShow_keeps (modW_keeps (withRegs_keeps (weirSync_keeps hk m) r hr) _ _) _
  exact ite_keeps (ite_keeps (weirOff_keeps h2 _) h2) (ite_keeps (weirUnres_keeps h2 _) (weirEval_keeps h2 _))

theorem weirWrite_keeps (hk : Keeps base s) (off : Nat) (v : Word) : Keeps base (s.weirWrite off v) := by
  unfold State.weirWrite
  extract_lets r
  split
  · exact ite_keeps (ev_keeps hk _) (weirApply_keeps hk _ _ _ (rwriteP_wf _ _ _))
  · refine ite_keeps (ev_keeps hk _) ?_
    exact ite_keeps (foldl_keeps (Keeps_mk (withRegs_keeps hk _ (rwriteP_wf _ _ _)) rfl rfl rfl)
        (fun t m ht => staleShow_keeps ht _)) (Keeps_mk (withRegs_keeps hk _ (rwriteP_wf _ _ _)) rfl rfl rfl)

theorem rbCheck_keeps (hk : Keeps base s) (m : Nat) (upper : Bool) :
    Keeps base (s.rbCheck m upper) := by
  unfold State.rbCheck
  try dsimp only
  repeat' split
  all_goals simp +contextual (maxDischargeDepth := 99) only [hk, Keeps_mk, ite_keeps, set_keeps, setI_keeps, ev_keeps,
      present_keeps, modW_keeps, staleShow_keeps]

theorem rbStale_keeps (hk : Keeps base s) (m : Nat) (upper : Bool) : Keeps base (s.rbStale m upper) := by
  unfold State.rbStale
  simp +contextual (maxDischargeDepth := 99) only [hk, Keeps_mk, ite_keeps, modW_keeps, staleShow_keeps, ev_keeps,
    present_keeps]

end Sys2Proof.Machine
end

