-- ==== Sys2Proof/Laws/KeepsMode.lean ====
section
/-! SUPPORT. Kept facts: modes, faults, the detector, and power. -/

namespace Sys2Proof.Machine

set_option Elab.async false
set_option linter.unusedSimpArgs false
set_option linter.unusedVariables false

variable {base s : State}

/-! ### Machine/Mode.lean -/

theorem modeReg_keeps (hk : Keeps base s) (m : Nat) : Keeps base (s.modeReg m) := by
  unfold State.modeReg
  simp +contextual (maxDischargeDepth := 99) only [hk, Keeps_mk, ite_keeps, set_keeps, ev_keeps]

theorem sentGroup_keeps (hk : Keeps base s) (enter : Bool) :
    Keeps base (s.sentGroup enter) := by
  unfold State.sentGroup
  simp +contextual (maxDischargeDepth := 99) only [hk, Keeps_mk, ite_keeps, modF_keeps, dtsRestart_keeps, addDue_keeps,
      foldl_keeps, implies_true]

theorem testModeEnd_keeps (hk : Keeps base s) : Keeps base (s.testModeEnd) := by
  unfold State.testModeEnd
  simp +contextual (maxDischargeDepth := 99) only [hk, Keeps_mk, ite_keeps, set_keeps]

theorem raiseMin_keeps (hk : Keeps base s) :
    Keeps base (s.raiseMin) := by
  unfold State.raiseMin
  simp +contextual (maxDischargeDepth := 99) only [hk, Keeps_mk, ite_keeps]

theorem setWp_keeps (hk : Keeps base s) : Keeps base (s.setWp) := by
  unfold State.setWp
  simp +contextual (maxDischargeDepth := 99) only [hk, Keeps_mk, ite_keeps, set_keeps]

theorem enterMode_keeps (hk : Keeps base s) (m : Nat)  :
    Keeps base (s.enterMode m) := by
  unfold State.enterMode
  extract_lets m0 s1 s2 s3 s4 s5 s6 s7
  have h1 : Keeps base s1 := modeReg_keeps hk _
  have h2 : Keeps base s2 := ite_keeps h1 (set_keeps h1 _ _)
  have h3 : Keeps base s3 := ite_keeps (raiseMin_keeps (setWp_keeps h2)) (setWp_keeps h2)
  have h4 : Keeps base s4 := ite_keeps h3 (foldl_keeps h3 (fun t n ht => ite_keeps (disarmFe_keeps ht _ _) ht))
  have h5 : Keeps base s5 := ite_keeps (sentGroup_keeps h4 _) (ite_keeps (sentGroup_keeps h4 _) h4)
  have h6 : Keeps base s6 := ite_keeps (testModeEnd_keeps h5) h5
  exact weirRoute_keeps (ite_keeps (pmcStopAll_keeps h6) h6) _

theorem verifyToken_keeps (hk : Keeps base s) (k : TokenRead) : Keeps base (s.verifyToken k) := by
  unfold State.verifyToken
  exact Keeps_draw (ite_keeps (set_keeps hk _ _) (ev_keeps hk _)) (le_refl _) id (Nat.le_succ _) rfl

theorem resAcc_keeps (hk : Keeps base s) : Keeps base s.resAcc := by
  unfold State.resAcc
  exact Keeps_mk (addWrap_keeps hk _ _) rfl rfl rfl

theorem ladderDown_keeps (hk : Keeps base s) (x : Nat) :
    Keeps base (s.ladderDown x) := by
  unfold State.ladderDown
  simp +contextual (maxDischargeDepth := 99) only [hk, Keeps_mk, ite_keeps, set_keeps, clockFree_keeps, bgSyncAll_keeps,
      bgDiscard_keeps, srAll_keeps, dtsDiscard_keeps, resAcc_keeps, foldl_keeps, implies_true]

theorem bermExit_keeps (hk : Keeps base s) :
    Keeps base (s.bermExit) := by
  unfold State.bermExit
  simp +contextual (maxDischargeDepth := 99) only [hk, Keeps_mk, ite_keeps, modF_keeps, foldl_keeps, implies_true]

theorem ladderUp_keeps (hk : Keeps base s) :
    Keeps base (s.ladderUp) := by
  unfold State.ladderUp
  simp +contextual (maxDischargeDepth := 99) only [hk, Keeps_mk, ite_keeps, set_keeps, nextFree_keeps, bgSyncAll_keeps,
      srNone_keeps, resAcc_keeps, bermExit_keeps]

theorem faultWake_keeps (hk : Keeps base s) : Keeps base (s.faultWake) := by
  unfold State.faultWake
  simp +contextual (maxDischargeDepth := 99) only [hk, Keeps_mk, ite_keeps, set_keeps, ladderUp_keeps]

theorem ladderEnter_keeps (hk : Keeps base s) : Keeps base (s.ladderEnter) := by
  unfold State.ladderEnter
  simp +contextual (maxDischargeDepth := 99) only [hk, Keeps_mk, ite_keeps, ladderDown_keeps]

theorem ladderLeave_keeps (hk : Keeps base s) : Keeps base (s.ladderLeave) := by
  unfold State.ladderLeave
  try dsimp only
  repeat' split
  all_goals simp +contextual (maxDischargeDepth := 99) only [hk, Keeps_mk, ite_keeps, ladderUp_keeps]

theorem accessWake_keeps (hk : Keeps base s) : Keeps base (s.accessWake) := by
  unfold State.accessWake
  simp +contextual (maxDischargeDepth := 99) only [hk, Keeps_mk, ite_keeps, ladderUp_keeps]

/-! ### Machine/Fault.lean -/

theorem modWin_keeps (hk : Keeps base s) (g : FltWin → FltWin) : Keeps base (s.modWin g) := by
  unfold State.modWin
  simp +contextual (maxDischargeDepth := 99) only [hk, Keeps_mk, ite_keeps]

theorem applyRuleX_keeps (hk : Keeps base s) (n src : Nat) :
    Keeps base (s.applyRuleX n src) := by
  unfold State.applyRuleX
  simp +contextual (maxDischargeDepth := 99) only [hk, Keeps_mk, ite_keeps, set_keeps, set2_keeps, modF_keeps,
      dtsDiscard_keeps, dropLost_keeps, modWin_keeps]

theorem containApp_keeps (hk : Keeps base s) : Keeps base (s.containApp) := by
  unfold State.containApp
  simp +contextual (maxDischargeDepth := 99) only [hk, Keeps_mk, ite_keeps, abandon_keeps, complete_keeps, foldl_keeps,
    implies_true]

theorem containScope_keeps (hk : Keeps base s) (src : Nat) (sc : Nat) :
    Keeps base (s.containScope src sc) := by
  unfold State.containScope
  simp +contextual (maxDischargeDepth := 99) only [hk, Keeps_mk, ite_keeps, set_keeps, spillClear_keeps, modF_keeps,
      calAbandon_keeps, pmcStopAll_keeps, trkContain_keeps, dtsDiscard_keeps, trip_keeps, applyRuleX_keeps, containApp_keeps]

theorem containMask_keeps (hk : Keeps base s) (src mask : Nat) : Keeps base (s.containMask src mask) := by
  unfold State.containMask
  simp +contextual (maxDischargeDepth := 99) only [hk, Keeps_mk, ite_keeps, containScope_keeps, modWin_keeps, foldl_keeps,
    implies_true]

theorem recontain_keeps (hk : Keeps base s) : Keeps base (s.recontain) := by
  unfold State.recontain
  simp +contextual (maxDischargeDepth := 99) only [hk, Keeps_mk, ite_keeps, set_keeps, trip_keeps, pmcStopAll_keeps,
    trkContain_keeps, spillClear_keeps, foldl_keeps, implies_true]

theorem fabricStop_keeps (hk : Keeps base s) :
    Keeps base (s.fabricStop) := by
  unfold State.fabricStop
  simp +contextual (maxDischargeDepth := 99) only [hk, Keeps_mk, ite_keeps]

theorem fatalStore_keeps (hk : Keeps base s) (i gt m0 : Nat) :
    Keeps base (s.fatalStore i gt m0) := by
  unfold State.fatalStore
  simp +contextual (maxDischargeDepth := 99) only [hk, Keeps_mk, ite_keeps, nvPut_keeps]

theorem logShut_keeps (hk : Keeps base s) :
    Keeps base (s.logShut) := by
  unfold State.logShut
  simp +contextual (maxDischargeDepth := 99) only [hk, Keeps_mk, ite_keeps, logMod_keeps]

theorem fatal_keeps (hk : Keeps base s) (i : Nat) : Keeps base (s.fatal i) := by
  unfold State.fatal
  extract_lets m0 gt s1 s2 fl s3 s4 t4 s5 s6 s7 fl8 pw8 s8
  have h1 : Keeps base s1 := set_keeps (set_keeps (set_keeps (set_keeps hk _ _) _ _) _ _) _ _
  have h2 : Keeps base s2 := foldl_keeps h1 (fun t n ht => trip_keeps ht _ _)
  have h3 : Keeps base s3 := Keeps_draw h2 (le_refl _) (fun _ => rfl) (le_refl _) rfl
  have h4 : Keeps base s4 := fabricStop_keeps (calFatal_keeps h3)
  have ht : Keeps base t4 := ite_keeps (testModeEnd_keeps h4) h4
  have h5 : Keeps base s5 := groupsFault_keeps (set_keeps (weirRoute_keeps (modeReg_keeps ht _) _) _ _)
  have h7 : Keeps base s7 := pmcSafeHold_keeps (aer_keeps (ladderUp_keeps h5) _)
  have h8 : Keeps base s8 := Keeps_mk h7 rfl rfl rfl
  exact fatalStore_keeps (logShut_keeps h8) _ _ _

theorem fatalAgain_keeps (hk : Keeps base s) (i : Nat)  :
    Keeps base (s.fatalAgain i) := by
  unfold State.fatalAgain
  split
  · exact ite_keeps (fatalStore_keeps (nvPut_keeps (nvPut_keeps (set_keeps hk _ _) _ _) _ _) _ _ _) hk
  · exact hk

theorem captureMark_keeps (hk : Keeps base s) (i : Nat) :
    Keeps base (s.captureMark i) := by
  unfold State.captureMark
  simp +contextual (maxDischargeDepth := 99) only [hk, Keeps_mk, ite_keeps, addSat_keeps, stickySet_keeps]

theorem windowTake_keeps (hk : Keeps base s) (i : Nat) (wire : Bool) :
    Keeps base (s.windowTake i wire) := by
  unfold State.windowTake
  try dsimp only
  repeat' split
  all_goals simp +contextual (maxDischargeDepth := 99) only [hk, Keeps_mk, ite_keeps, set_keeps, ev_keeps]

theorem react_keeps (hk : Keeps base s) (i : Nat) : Keeps base (s.react i) := by
  unfold State.react
  try dsimp only
  repeat' split
  all_goals simp +contextual (maxDischargeDepth := 99) only [hk, Keeps_mk, ite_keeps, containMask_keeps, fatal_keeps]

theorem aonLatch_keeps (hk : Keeps base s) : Keeps base s.aonLatch := by
  unfold State.aonLatch
  refine ite_keeps ?_ hk
  exact Keeps_draw (set_keeps (set_keeps hk _ _) _ _) (le_refl _) (fun _ => rfl) (le_refl _) rfl

theorem captureSrc_keeps (hk : Keeps base s) (i : Nat) (wire : Bool) :
    Keeps base (s.captureSrc i wire) := by
  unfold State.captureSrc
  simp +contextual (maxDischargeDepth := 99) only [hk, Keeps_mk, ite_keeps, set_keeps, faultWake_keeps, fatalAgain_keeps,
      captureMark_keeps, windowTake_keeps, react_keeps]

theorem faultCapture_keeps (hk : Keeps base s) (i : Nat) : Keeps base (s.faultCapture i) := by
  unfold State.faultCapture
  simp +contextual (maxDischargeDepth := 99) only [hk, Keeps_mk, ite_keeps, captureSrc_keeps]

theorem wireCapture_keeps (hk : Keeps base s) (i : Nat) :
    Keeps base (s.wireCapture i) := by
  unfold State.wireCapture
  simp +contextual (maxDischargeDepth := 99) only [hk, Keeps_mk, ite_keeps, orReg_keeps, ev_keeps, captureSrc_keeps]

theorem windowClose_keeps (hk : Keeps base s) : Keeps base (s.windowClose) := by
  unfold State.windowClose
  try dsimp only
  repeat' split
  all_goals simp +contextual (maxDischargeDepth := 99) only [hk, Keeps_mk, ite_keeps, set_keeps, ev_keeps, aer_keeps,
    stage_keeps, enterMode_keeps]

theorem drive_keeps (hk : Keeps base s) (i kind : Nat) :
    Keeps base (s.drive i kind) := by
  unfold State.drive
  simp +contextual (maxDischargeDepth := 99) only [hk, Keeps_mk, ite_keeps]

theorem injReal_keeps (hk : Keeps base s) (b : Bool) :
    Keeps base (s.injReal b) := by
  unfold State.injReal
  simp +contextual (maxDischargeDepth := 99) only [hk, Keeps_mk, ite_keeps]

theorem srcClear_keeps (hk : Keeps base s) (i : Nat) :
    Keeps base (s.srcClear i) := by
  unfold State.srcClear
  try dsimp only
  repeat' split
  all_goals simp +contextual (maxDischargeDepth := 99) only [hk, Keeps_mk, ite_keeps, unpresent_keeps, drive_keeps,
      injReal_keeps]

theorem uncontain_keeps (hk : Keeps base s) (mask : Nat) : Keeps base (s.uncontain mask) := by
  unfold State.uncontain
  simp +contextual (maxDischargeDepth := 99) only [hk, Keeps_mk, ite_keeps, set_keeps, setReg_keeps, modF_keeps,
    trkResume_keeps, foldl_keeps, implies_true]

theorem recover_keeps (hk : Keeps base s) (c : Cmd) (mask : Nat) : Keeps base (s.recover c mask) := by
  unfold State.recover
  simp +contextual (maxDischargeDepth := 99) only [hk, Keeps_mk, ite_keeps, complete_keeps, uncontain_keeps, ev_keeps]

theorem appReleased_keeps (hk : Keeps base s) : Keeps base (s.appReleased) := by
  unfold State.appReleased
  try dsimp only
  repeat' split
  all_goals simp +contextual (maxDischargeDepth := 99) only [hk, Keeps_mk, ite_keeps, recover_keeps, complete_keeps]

theorem inject_keeps (hk : Keeps base s) (c : Cmd) (src kind dur : Nat) :
    Keeps base (s.inject c src kind dur) := by
  unfold State.inject
  simp +contextual (maxDischargeDepth := 99) only [hk, Keeps_mk, ite_keeps, set_keeps, setB_keeps, ev_keeps, stickySet_keeps,
      complete_keeps, drive_keeps]

theorem injEnd_keeps (hk : Keeps base s) (real : Bool) :
    Keeps base (s.injEnd real) := by
  unfold State.injEnd
  try dsimp only
  repeat' split
  all_goals simp +contextual (maxDischargeDepth := 99) only [hk, Keeps_mk, ite_keeps, set_keeps, ev_keeps, present_keeps,
      unpresent_keeps, complete_keeps, modWin_keeps]

/-! ### Machine/Detect.lean -/

theorem stageWhole_keeps (hk : Keeps base s) (n : Nat) (f : Frame) (work : Nat) :
    Keeps base (s.stageWhole n f work) := by
  unfold State.stageWhole
  simp +contextual (maxDischargeDepth := 99) only [hk, Keeps_mk, ite_keeps, stageFor_keeps]

theorem eventOut_keeps (hk : Keeps base s) (r map : Tab Word) (n : Nat) (h : Stamp) (cells : List CellE) (dets : List Det) :
    Keeps base (s.eventOut r map n h cells dets) := by
  unfold State.eventOut
  simp +contextual (maxDischargeDepth := 99) only [hk, Keeps_mk, ite_keeps, addSat_keeps, nextFree_keeps, ev_keeps,
      modF_keeps, stageWhole_keeps]

theorem trackOut_keeps (hk : Keeps base s) (r map : Tab Word) (n : Nat) (h : Stamp) (tracks gone : List (Nat × Track)) :
    Keeps base (s.trackOut r map n h tracks gone) := by
  unfold State.trackOut
  try dsimp only
  repeat' split
  all_goals simp +contextual (maxDischargeDepth := 99) only [hk, Keeps_mk, ite_keeps, nextFree_keeps, modF_keeps,
      stageWhole_keeps]

theorem trackRun_keeps (hk : Keeps base s) (r map : Tab Word) (n : Nat) (h : Stamp) (sent : Option SentForm)
    (cells : List CellE) (rules : List RuleSt)  :
    Keeps base (s.trackRun r map n h sent cells rules) := by
  unfold State.trackRun
  extract_lets e c ms old res gone kept made now conf flag s1 s2 s3 s4
  have hf : ∀ (x : Bool) (f : FRef) (t : State),
      Keeps base t → Keeps base (flag x f t) := fun x f t ht => ite_keeps (ev_keeps ht _) ht
  have h1 : Keeps base s1 := modF_keeps (set_keeps hk _ _) _ _
  have h3 : Keeps base s3 := hf _ _ _ (hf _ _ _ (hf _ _ _ h1))
  have h4 : Keeps base s4 := ite_keeps h3 (ev_keeps (addSat_keeps h3 _ _) _)
  exact trackOut_keeps h4 _ _ _ _ _ _

theorem wakeDetect_keeps (hk : Keeps base s) (r : Tab Word) (n : Nat) (sent : Option SentForm) (dets : List Det) :
    Keeps base (s.wakeDetect r n sent dets) := by
  unfold State.wakeDetect
  simp +contextual (maxDischargeDepth := 99) only [hk, Keeps_mk, ite_keeps, ev_keeps, enterMode_keeps]

theorem evtEval_keeps (hk : Keeps base s) (n : Nat) (x : EvtOut) :
    Keeps base (s.evtEval n x) := by
  unfold State.evtEval
  simp +contextual (maxDischargeDepth := 99) only [hk, Keeps_mk, ite_keeps, modF_keeps, encCheck_keeps, evtShow_keeps,
      eventOut_keeps, trackRun_keeps, wakeDetect_keeps]

theorem energyEnd_keeps (hk : Keeps base s) (n : Nat) :
    Keeps base (s.energyEnd n) := by
  unfold State.energyEnd
  try dsimp only
  repeat' split
  all_goals simp +contextual (maxDischargeDepth := 99) only [hk, Keeps_mk, ite_keeps, evtAdvance_keeps, evtEval_keeps]

/-! ### Machine/Power.lean -/

/-- An event of the main domain keeps what its action keeps. -/
theorem main_keeps (hk : Keeps base s) (t : Nat) (f : State → State) (hf : ∀ x, Keeps base x → Keeps base (f x)) :
    Keeps base (s.main t f) := ite_keeps (hf _ (at_keeps hk t)) (at_keeps hk t)

/-- An event of the signal fabric keeps what its action keeps. -/
theorem fabric_keeps (hk : Keeps base s) (t : Nat) (f : State → State) (hf : ∀ x, Keeps base x → Keeps base (f x)) :
    Keeps base (s.fabric t f) := main_keeps hk t _ (fun x hx => ite_keeps hx (hf x hx))

theorem safeFollow_keeps (hk : Keeps base s) : Keeps base (s.safeFollow) := by
  unfold State.safeFollow
  simp +contextual (maxDischargeDepth := 99) only [hk, Keeps_mk, ite_keeps, safeLow_keeps]

theorem railsHold_keeps (hk : Keeps base s) :
    Keeps base (s.railsHold) := by
  unfold State.railsHold
  simp +contextual (maxDischargeDepth := 99) only [hk, Keeps_mk, ite_keeps, present_keeps]

theorem keepRegs_wf (r : Tab Word) (p : Acc → Bool) : twf resetOf (keepRegs r p) = true := by
  unfold keepRegs
  suffices h : ∀ (l t : Tab Word), twf resetOf t = true → twf resetOf (l.foldl (fun t e =>
      match regAt e.1 with
      | some spec => tput (resetOf e.1) t e.1 (mergeWord (resetOf e.1) e.2 (spec.mask p))
      | none => t) t) = true from h r [] rfl
  intro l
  induction l with
  | nil => exact fun t h => h
  | cons e l ih =>
    intro t h
    rw [List.foldl_cons]
    apply ih
    split
    · exact twf_tput resetOf _ _ _ h
    · exact h

/-- A state whose queue, clock, free values, challenges, latch and byte memories come from `s`, with other registers. -/
theorem Keeps_reset (h : Keeps base s) (t : State) (h1 : t.pending = s.pending) (h2 : t.now = s.now)
    (h3 : s.freeIdx ≤ t.freeIdx)
    (h4 : s.pwr.chal ≤ t.pwr.chal) (h5 : t.flt.faultN = s.flt.faultN) (h6 : twf resetOf t.regs = true)
    (h7 : twf tableReset t.tables = true ∨ t.tables = s.tables) (h8 : t.hostMem = s.hostMem)
        (h9 : t.nvs.bytes = s.nvs.bytes) :
    Keeps base t := by
  obtain ⟨g1, g2, g3, g4, g5, g6⟩ := h
  refine ⟨h1.trans g1, h2 ▸ g2, le_trans g3 h3, le_trans g4 h4, fun x => h5 ▸ g5 x, fun x => ?_⟩
  have := g6 x
  simp only [State.wf, Bool.and_eq_true] at this ⊢
  rw [h8, h9]
  exact ⟨⟨⟨h6, h7.elim id (fun e => e ▸ this.1.1.2)⟩, this.1.2⟩, this.2⟩

theorem coldReset_keeps (hk : Keeps base s) (mode : Nat) : Keeps base (s.coldReset mode) := by
  have h := nvCut_keeps hk
  unfold State.coldReset
  refine railsHold_keeps (setB_keeps (set_keeps ?_ _ _) _ _)
  exact Keeps_reset h _ rfl rfl (le_refl _) (by exact Nat.le_succ _) rfl (by exact keepRegs_wf _ _) (Or.inl rfl) rfl rfl

theorem warmReset_keeps (hk : Keeps base s) (cause : Nat) : Keeps base (s.warmReset cause) := by
  unfold State.warmReset
  split
  · exact hk
  · extract_lets hold fail6 early s0 old m0 a b c d e f g h s1 s2 s3 s4 s5
    have h1 : Keeps base s1 := Keeps_reset (nextFree_keeps (nvCut_keeps (ladderUp_keeps hk))) _ rfl rfl (le_refl _)
        (le_refl _)
      rfl (keepRegs_wf _ _) (Or.inr rfl) rfl rfl
    have h2 : Keeps base s2 := foldl_keeps h1 (fun t w ht => setReg_keeps ht _ _)
    have h3 : Keeps base s3 := ite_keeps (setB_keeps (set_keeps h2 _ _) _ _) (set_keeps (set_keeps h2 _ _) _ _)
    have h4 : Keeps base s4 := ite_keeps (set_keeps (set_keeps h3 _ _) _ _) h3
    have h5 : Keeps base s5 := recontain_keeps (pmcWarm_keeps (set_keeps h4 _ _))
    exact safeFollow_keeps (ite_keeps (foldl_keeps h5 (fun t n ht => trip_keeps ht _ _)) h5)

theorem powerDown_keeps (hk : Keeps base s) : Keeps base s.powerDown := by
  unfold State.powerDown
  extract_lets pw t s0 fr s1 st pw1
  have ht : Keeps base t := Keeps_mk hk rfl rfl rfl
  have h1 : Keeps base s1 := Keeps_mk (nextFree_keeps (coldReset_keeps (resAcc_keeps ht) 0)) rfl rfl rfl
  exact Keeps_mk (set_keeps (set_keeps h1 _ _) _ _) rfl rfl rfl

theorem dormGo_keeps (hk : Keeps base s) :
    Keeps base (s.dormGo) := by
  unfold State.dormGo
  simp +contextual (maxDischargeDepth := 99) only [hk, Keeps_mk, ite_keeps, powerDown_keeps]

theorem enterL5_keeps (hk : Keeps base s)  : Keeps base s.enterL5 := by
  unfold State.enterL5
  extract_lets s1
  have h1 : Keeps base s1 := set_keeps (set_keeps (set_keeps (resAcc_keeps (bgDiscard_keeps hk)) _ _) _ _) _ _
  exact Keeps_mk (clockFree_keeps h1) rfl rfl rfl

theorem ladderSink_keeps (hk : Keeps base s) :
    Keeps base (s.ladderSink) := by
  unfold State.ladderSink
  simp +contextual (maxDischargeDepth := 99) only [hk, Keeps_mk, ite_keeps, dtsDiscard_keeps, ladderEnter_keeps,
      enterL5_keeps, foldl_keeps, implies_true]

theorem ladderEntry_keeps (hk : Keeps base s) :
    Keeps base (s.ladderEntry) := by
  unfold State.ladderEntry
  simp +contextual (maxDischargeDepth := 99) only [hk, Keeps_mk, ite_keeps, dormGo_keeps, ladderSink_keeps]

theorem powerUp_keeps (hk : Keeps base s) (src : Nat) :
    Keeps base (s.powerUp src) := by
  unfold State.powerUp
  simp +contextual (maxDischargeDepth := 99) only [hk, Keeps_mk, ite_keeps, set_keeps, modeReg_keeps, resAcc_keeps]

theorem wake_keeps (hk : Keeps base s) (src : Nat) (l5 l6 : Bool) : Keeps base (s.wake src l5 l6) := by
  unfold State.wake
  simp +contextual (maxDischargeDepth := 99) only [hk, Keeps_mk, ite_keeps, powerUp_keeps, set_keeps, ladderUp_keeps]

theorem rtcWake_keeps (hk : Keeps base s) : Keeps base (s.rtcWake) := by
  unfold State.rtcWake
  simp +contextual (maxDischargeDepth := 99) only [hk, Keeps_mk, ite_keeps, wake_keeps]

theorem powerStep_keeps (hk : Keeps base s) (good : Bool)  : Keeps base (s.powerStep good) := by
  unfold State.powerStep
  extract_lets k p s1
  have h1 : Keeps base s1 := Keeps_mk hk rfl rfl rfl
  exact ite_keeps (ite_keeps (safeFollow_keeps h1) h1) hk

theorem railFail_keeps (hk : Keeps base s) :
    Keeps base (s.railFail) := by
  unfold State.railFail
  simp +contextual (maxDischargeDepth := 99) only [hk, Keeps_mk, ite_keeps, set_keeps, powerDown_keeps]

theorem porstLow_keeps (hk : Keeps base s) :
    Keeps base (s.porstLow) := by
  unfold State.porstLow
  simp +contextual (maxDischargeDepth := 99) only [hk, Keeps_mk, ite_keeps, set_keeps, resAcc_keeps, coldReset_keeps]

theorem porstHigh_keeps (hk : Keeps base s) :
    Keeps base (s.porstHigh) := by
  unfold State.porstHigh
  simp +contextual (maxDischargeDepth := 99) only [hk, Keeps_mk, ite_keeps, safeFollow_keeps]

theorem perstPin_keeps (hk : Keeps base s) (low : Bool) :
    Keeps base (s.perstPin low) := by
  unfold State.perstPin
  simp +contextual (maxDischargeDepth := 99) only [hk, Keeps_mk, ite_keeps]

theorem perstLow_keeps (hk : Keeps base s) :
    Keeps base (s.perstLow) := by
  unfold State.perstLow
  simp +contextual (maxDischargeDepth := 99) only [hk, Keeps_mk, ite_keeps, detached_keeps, linkLost_keeps, warmReset_keeps]

theorem aonFall_keeps (hk : Keeps base s) :
    Keeps base (s.aonFall) := by
  unfold State.aonFall
  simp +contextual (maxDischargeDepth := 99) only [hk, Keeps_mk, ite_keeps, powerDown_keeps]

theorem aonRise_keeps (hk : Keeps base s) : Keeps base s.aonRise := by
  unfold State.aonRise
  refine ite_keeps hk ?_
  extract_lets p s1 s2
  have h1 : Keeps base s1 := Keeps_reset hk s1 rfl rfl (le_refl _) (le_refl _) rfl
    (twf_filter _ _ _ (keepRegs_wf _ _)) (Or.inr rfl) rfl rfl
  have h2 : Keeps base s2 := set_keeps (set_keeps (set_keeps h1 _ _) _ _) _ _
  exact ite_keeps (powerUp_keeps h2 _) h2

/-- What SAFE_HOLD_CLEAR keeps: everything but the latch. -/
theorem safeHoldClear_keeps (s : State) :
    (s.safeHoldClear).pending = s.pending ∧ s.safeHoldClear.now = s.now ∧ s.safeHoldClear.freeIdx = s.freeIdx ∧
      s.safeHoldClear.pwr.chal = s.pwr.chal ∧ (s.wf = true → s.safeHoldClear.wf = true) := by
  unfold State.safeHoldClear
  split
  · exact ⟨rfl, rfl, rfl, rfl, id⟩
  · refine ⟨rfl, rfl, rfl, rfl, fun x => ?_⟩
    have := (set_keeps (setReg_keeps (Keeps.refl s) FLT_SH_CAUSE 0) FLT_STATUS_SAFE_HOLD 0).wf x
    simpa [State.wf] using this

theorem setMode_keeps (hk : Keeps base s) (c : Cmd) (m addr : Nat) (tok : Option TokenRead) :
    Keeps base (s.setMode c m addr tok) := by
  unfold State.setMode
  try dsimp only
  repeat' split
  all_goals simp +contextual (maxDischargeDepth := 99) only [hk, Keeps_mk, ite_keeps, complete_keeps, enterMode_keeps,
      verifyToken_keeps, dormGo_keeps]

theorem setLatency_keeps (hk : Keeps base s) (c : Cmd) (ns : Nat) : Keeps base (s.setLatency c ns) := by
  unfold State.setLatency
  simp +contextual (maxDischargeDepth := 99) only [hk, Keeps_mk, ite_keeps, set2_keeps, complete_keeps]

theorem detachStart_keeps (hk : Keeps base s) (c : Cmd) :
    Keeps base (s.detachStart c) := by
  unfold State.detachStart
  simp +contextual (maxDischargeDepth := 99) only [hk, Keeps_mk, ite_keeps, complete_keeps, detached_keeps]

theorem confirmed_keeps (hk : Keeps base s) (k : Nat) :
    Keeps base (s.confirmed k) := by
  unfold State.confirmed
  try dsimp only
  repeat' split
  all_goals simp +contextual (maxDischargeDepth := 99) only [hk, Keeps_mk, ite_keeps, setCplRing_keeps, detached_keeps,
      dormGo_keeps]

theorem nvEnd_keeps (hk : Keeps base s) (c : Cmd) (off code value : Nat) : Keeps base (s.nvEnd c off code value) := by
  unfold State.nvEnd
  simp +contextual (maxDischargeDepth := 99) only [hk, Keeps_mk, ite_keeps, set_keeps, complete_keeps]

theorem nvWrite_keeps (hk : Keeps base s) (c : Cmd) (off len : Nat) (data : Option (List Byte)) :
    Keeps base (s.nvWrite c off len data) := by
  unfold State.nvWrite
  try dsimp only
  repeat' split
  all_goals simp +contextual (maxDischargeDepth := 99) only [hk, Keeps_mk, ite_keeps, nvEnd_keeps, ev_keeps]

theorem nvDone_keeps (hk : Keeps base s) (ok : Bool) : Keeps base (s.nvDone ok) := by
  unfold State.nvDone
  try dsimp only
  repeat' split
  all_goals simp +contextual (maxDischargeDepth := 99) only [hk, Keeps_mk, ite_keeps, nvPut_keeps, ev_keeps, nvEnd_keeps,
    nvCut_keeps]

theorem nvErrs_keeps (hk : Keeps base s) (corrected : Nat) (ue : Bool) : Keeps base (s.nvErrs corrected ue) := by
  unfold State.nvErrs
  simp +contextual (maxDischargeDepth := 99) only [hk, Keeps_mk, ite_keeps, addSat_keeps, ev_keeps, present_keeps]

theorem nvRead_keeps (hk : Keeps base s) (c : Cmd) (addr off len : Nat) (dmaOk : Bool) (corrected : Nat) (bad : Option Nat) :
    Keeps base (s.nvRead c addr off len dmaOk corrected bad) := by
  unfold State.nvRead
  try dsimp only
  repeat' split
  all_goals simp +contextual (maxDischargeDepth := 99) only [hk, Keeps_mk, ite_keeps, nvEnd_keeps, nvErrs_keeps,
    dmaWrite_keeps]

theorem railDip_keeps (hk : Keeps base s) (rail : RailDip) :
    Keeps base (s.railDip rail) := by
  unfold State.railDip
  simp +contextual (maxDischargeDepth := 99) only [hk, Keeps_mk, ite_keeps, present_keeps]

theorem srcCleared_keeps (hk : Keeps base s) (i : Nat) :
    Keeps base (s.srcCleared i) := by
  unfold State.srcCleared
  simp +contextual (maxDischargeDepth := 99) only [hk, Keeps_mk, ite_keeps, srcClear_keeps]

end Sys2Proof.Machine
end

