-- ==== Sys2Proof/Laws/KeepsRegs.lean ====
section
/-! SUPPORT. Kept facts: the schedule, commit groups, shots, register accesses, boot, and the helpers of the commands. -/

namespace Sys2Proof.Machine

set_option Elab.async false
set_option linter.unusedSimpArgs false
set_option linter.unusedVariables false

variable {base s : State}

/-! ### Machine/Sched.lean -/

theorem setImg_keeps (hk : Keeps base s) (k : Nat) (x : Option Image) :
    Keeps base (s.setImg k x) := by
  unfold State.setImg
  simp +contextual (maxDischargeDepth := 99) only [hk, Keeps_mk, ite_keeps, setShare_keeps]

theorem admitImage_keeps (hk : Keeps base s) (i : ImageRead) : Keeps base (s.admitImage i) := by
  unfold State.admitImage
  simp +contextual (maxDischargeDepth := 99) only [hk, Keeps_mk, ite_keeps, setImg_keeps, set_keeps, ev_keeps, foldl_keeps,
    implies_true]

theorem loadRefuse_keeps (hk : Keeps base s) (code : Nat) : Keeps base (s.loadRefuse code) := by
  unfold State.loadRefuse
  simp +contextual (maxDischargeDepth := 99) only [hk, Keeps_mk, ite_keeps, set_keeps, ev_keeps]

theorem loadStart_keeps (hk : Keeps base s) (c : Cmd) (i : Option ImageRead) : Keeps base (s.loadStart c i) := by
  unfold State.loadStart
  simp +contextual (maxDischargeDepth := 99) only [hk, Keeps_mk, ite_keeps, loadRefuse_keeps, complete_keeps]

theorem unloadEnd_keeps (hk : Keeps base s) (c : Cmd) (slot code : Nat) : Keeps base (s.unloadEnd c slot code) := by
  unfold State.unloadEnd
  simp +contextual (maxDischargeDepth := 99) only [hk, Keeps_mk, ite_keeps, set_keeps, complete_keeps]

theorem unloadStart_keeps (hk : Keeps base s) (c : Cmd) (slot : Nat) : Keeps base (s.unloadStart c slot) := by
  unfold State.unloadStart
  simp +contextual (maxDischargeDepth := 99) only [hk, Keeps_mk, ite_keeps, unloadEnd_keeps]

theorem loadDone_keeps (hk : Keeps base s) : Keeps base (s.loadDone) := by
  unfold State.loadDone
  try dsimp only
  repeat' split
  all_goals simp +contextual (maxDischargeDepth := 99) only [hk, Keeps_mk, ite_keeps, admitImage_keeps, complete_keeps,
    loadRefuse_keeps, unloadEnd_keeps, setImg_keeps, ev_keeps]

theorem lateNote_keeps (hk : Keeps base s) (n lam : Nat) : Keeps base (s.lateNote n lam) := by
  unfold State.lateNote
  simp +contextual (maxDischargeDepth := 99) only [hk, Keeps_mk, ite_keeps, set_keeps, modF_keeps, ev_keeps, addSat_keeps]

theorem overtopNote_keeps (hk : Keeps base s) (n lam : Nat) : Keeps base (s.overtopNote n lam) := by
  unfold State.overtopNote
  try dsimp only
  repeat' split
  all_goals simp +contextual (maxDischargeDepth := 99) only [hk, Keeps_mk, ite_keeps, addSat_keeps, ev_keeps, modF_keeps,
    present_keeps]

theorem mapHeld_keeps (hk : Keeps base s) (g : Frame → Frame) :
    Keeps base (s.mapHeld g) := by
  unfold State.mapHeld
  simp +contextual (maxDischargeDepth := 99) only [hk, Keeps_mk, ite_keeps]

theorem frameDone_keeps (hk : Keeps base s) (n : Nat) :
    Keeps base (s.frameDone n) := by
  unfold State.frameDone
  try dsimp only
  repeat' split
  all_goals simp +contextual (maxDischargeDepth := 99) only [hk, Keeps_mk, ite_keeps, modF_keeps, evtIdle_keeps,
      lateNote_keeps, overtopNote_keeps, mapHeld_keeps]

theorem unstage_keeps (hk : Keeps base s) (rest : List Staged) : Keeps base (s.unstage rest) := by
  unfold State.unstage
  simp +contextual (maxDischargeDepth := 99) only [hk, Keeps_mk, ite_keeps]

theorem frameDeliver_keeps (hk : Keeps base s) (stream : Nat) :
    Keeps base (s.frameDeliver stream) := by
  unfold State.frameDeliver
  try dsimp only
  repeat' split
  all_goals simp +contextual (maxDischargeDepth := 99) only [hk, Keeps_mk, ite_keeps, deliver_keeps, divertEnd_keeps,
      unstage_keeps]

theorem divertHead_keeps (hk : Keeps base s) (n : Nat) :
    Keeps base (s.divertHead n) := by
  unfold State.divertHead
  try dsimp only
  repeat' split
  all_goals simp +contextual (maxDischargeDepth := 99) only [hk, Keeps_mk, ite_keeps, deliver_keeps, divertEnd_keeps,
      unstage_keeps]

/-! ### Machine/Commit.lean -/

theorem evs_keeps (hk : Keeps base s) (l : List FRef) : Keeps base (s.evs l) := by
  unfold State.evs
  simp +contextual (maxDischargeDepth := 99) only [hk, Keeps_mk, ite_keeps, ev_keeps, foldl_keeps, implies_true]

theorem refsStaged_keeps (hk : Keeps base s) (g : Group) :
    Keeps base (s.refsStaged g) := by
  unfold State.refsStaged
  simp +contextual (maxDischargeDepth := 99) only [hk, Keeps_mk, ite_keeps, modF_keeps, foldl_keeps, implies_true]

theorem commitStage_keeps (hk : Keeps base s) (c : Cmd) (p : Option CommitList) :
    Keeps base (s.commitStage c p) := by
  unfold State.commitStage
  try dsimp only
  repeat' split
  all_goals simp +contextual (maxDischargeDepth := 99) only [hk, Keeps_mk, ite_keeps, ev_keeps, complete_keeps,
      setGroup_keeps, evs_keeps, refsStaged_keeps]

theorem commitCancel_keeps (hk : Keeps base s) (c : Cmd) (id : BitVec 32) : Keeps base (s.commitCancel c id) := by
  unfold State.commitCancel
  try dsimp only
  repeat' split
  all_goals simp +contextual (maxDischargeDepth := 99) only [hk, Keeps_mk, ite_keeps, groupEnd_keeps, complete_keeps]

theorem commitLock_keeps (hk : Keeps base s) (k : Nat) : Keeps base (s.commitLock k) := by
  unfold State.commitLock
  try dsimp only
  repeat' split
  all_goals simp +contextual (maxDischargeDepth := 99) only [hk, Keeps_mk, ite_keeps, evs_keeps, groupEnd_keeps,
    setGroup_keeps]

theorem pmcWritten_keeps (hk : Keeps base s) (off : Nat) (v : Word) : Keeps base (s.pmcWritten off v) := by
  unfold State.pmcWritten
  try dsimp only
  repeat' split
  all_goals simp +contextual (maxDischargeDepth := 99) only [hk, Keeps_mk, ite_keeps, seqStop_keeps, seqStart_keeps,
    injTrig_keeps]

theorem trkWrite_keeps (hk : Keeps base s) (off : Nat) (v : Word) : Keeps base (s.trkWrite off v) := by
  unfold State.trkWrite
  try dsimp only
  repeat' split
  all_goals simp +contextual (maxDischargeDepth := 99) only [hk, Keeps_mk, ite_keeps, qinLoad_keeps, cmpValue_keeps,
    trackId_keeps, trkWritten_keeps, rwriteRegs_keeps]

theorem sharedWrite_keeps (hk : Keeps base s) (off : Nat) (v : Word) :
    Keeps base (s.sharedWrite off v) := by
  unfold State.sharedWrite
  simp +contextual (maxDischargeDepth := 99) only [hk, Keeps_mk, ite_keeps, convRelatch_keeps, trkHold_keeps,
      pmcWritten_keeps, trkWrite_keeps, rwriteRegs_keeps]

theorem refsBuilt_keeps (hk : Keeps base s) (n : Nat) (d : DuePart) : Keeps base (s.refsBuilt n d) := by
  unfold State.refsBuilt
  simp +contextual (maxDischargeDepth := 99) only [hk, Keeps_mk, ite_keeps, modF_keeps]

theorem groupPart_keeps (hk : Keeps base s) (g : Group) (n : Nat) (tb : Int) : Keeps base (s.groupPart g n tb) := by
  unfold State.groupPart
  simp +contextual (maxDischargeDepth := 99) only [hk, Keeps_mk, ite_keeps, refsBuilt_keeps, addDue_keeps, applyPart_keeps]

theorem commitApply_keeps (hk : Keeps base s) (k : Nat) : Keeps base (s.commitApply k) := by
  unfold State.commitApply
  try dsimp only
  repeat' split
  all_goals simp +contextual (maxDischargeDepth := 99) only [hk, Keeps_mk, ite_keeps, commitLock_keeps, sharedWrite_keeps,
    addWrap_keeps, groupPart_keeps, groupEnd_keeps, foldl_keeps, implies_true]

theorem commitsDue_keeps (hk : Keeps base s) : Keeps base (s.commitsDue) := by
  unfold State.commitsDue
  try dsimp only
  repeat' split
  all_goals simp +contextual (maxDischargeDepth := 99) only [hk, Keeps_mk, ite_keeps, commitApply_keeps, foldl_keeps,
    implies_true]

theorem markerBound_keeps (hk : Keeps base s) (n shot : Nat) (tb : Int) :
    Keeps base (s.markerBound n shot tb) := by
  unfold State.markerBound
  simp +contextual (maxDischargeDepth := 99) only [hk, Keeps_mk, ite_keeps, setGroup_keeps, groupEnd_keeps, foldl_keeps,
      implies_true]

theorem markerParts_keeps (hk : Keeps base s) (n : Nat) (x : NextShot) : Keeps base (s.markerParts n x) := by
  unfold State.markerParts
  refine foldl_keeps hk (fun t y ht => ?_)
  dsimp only
  split
  · exact ite_keeps (commitLock_keeps ht _)
      (setGroup_keeps (applyPart_keeps (refsBuilt_keeps (commitLock_keeps ht _) _ _) _ _ _) _ _)
  · exact commitLock_keeps ht _

/-! ### Machine/Shots.lean -/

theorem armCmd_keeps (hk : Keeps base s) (n : Nat) (c : Cmd) : Keeps base (s.armCmd n c) := by
  unfold State.armCmd
  simp +contextual (maxDischargeDepth := 99) only [hk, Keeps_mk, ite_keeps, armStart_keeps, evs_keeps, set_keeps, ev_keeps,
    complete_keeps]

theorem planWins_keeps (hk : Keeps base s) (n k shot : Nat) (raman : Bool) : Keeps base (s.planWins n k shot raman) := by
  unfold State.planWins
  simp +contextual (maxDischargeDepth := 99) only [hk, Keeps_mk, ite_keeps, modF_keeps]

theorem gateOpen_keeps (hk : Keeps base s) (n g : Nat) : Keeps base (s.gateOpen n g) := by
  unfold State.gateOpen
  try dsimp only
  repeat' split
  all_goals simp +contextual (maxDischargeDepth := 99) only [hk, Keeps_mk, ite_keeps, lncSync_keeps, modF_keeps,
    gatesEval_keeps]

theorem gateClose_keeps (hk : Keeps base s) (n g : Nat) : Keeps base (s.gateClose n g) := by
  unfold State.gateClose
  simp +contextual (maxDischargeDepth := 99) only [hk, Keeps_mk, ite_keeps, lncSync_keeps, modF_keeps, gatesEval_keeps]

theorem segmentEnd_keeps (hk : Keeps base s) (n : Nat) :
    Keeps base (s.segmentEnd n) := by
  unfold State.segmentEnd
  try dsimp only
  repeat' split
  all_goals simp +contextual (maxDischargeDepth := 99) only [hk, Keeps_mk, ite_keeps, modF_keeps, lncSync_keeps]

theorem fire_keeps (hk : Keeps base s) (n : Nat) (x : NextShot) (k t : Nat) :
    Keeps base (s.fire n x k t) := by
  unfold State.fire
  simp +contextual (maxDischargeDepth := 99) only [hk, Keeps_mk, ite_keeps, set_keeps, set2_keeps, modF_keeps,
      launchOut_keeps, bgFrameStart_keeps, darkSpan_keeps, pmcEvent_keeps, lncSync_keeps, planWins_keeps]

theorem launchGrid_keeps (hk : Keeps base s) (n : Nat) (x : NextShot) :
    Keeps base (s.launchGrid n x) := by
  unfold State.launchGrid
  simp +contextual (maxDischargeDepth := 99) only [hk, Keeps_mk, ite_keeps, modF_keeps, applyReached_keeps, fire_keeps]

theorem launch_keeps (hk : Keeps base s) (n : Nat) : Keeps base (s.launch n) := by
  unfold State.launch
  try dsimp only
  repeat' split
  all_goals simp +contextual (maxDischargeDepth := 99) only [hk, Keeps_mk, ite_keeps, commitsDue_keeps, fire_keeps,
    disarmEffect_keeps, launchGrid_keeps]

theorem markerTake_keeps (hk : Keeps base s) (n : Nat) : Keeps base (s.markerTake n) := by
  unfold State.markerTake
  extract_lets shot x s1 go
  have h1 : Keeps base s1 := markerParts_keeps (markerBound_keeps (applyReached_keeps hk _ _ _) _ _ _) _ _
  clear_value s1
  exact modF_keeps h1 _ _

theorem marker_keeps (hk : Keeps base s) (n : Nat) : Keeps base (s.marker n) := by
  unfold State.marker
  simp +contextual (maxDischargeDepth := 99) only [hk, Keeps_mk, ite_keeps, addSat_keeps, ev_keeps, markerTake_keeps]

theorem launchIn_keeps (hk : Keeps base s) : Keeps base (s.launchIn) := by
  unfold State.launchIn
  simp +contextual (maxDischargeDepth := 99) only [hk, Keeps_mk, ite_keeps, marker_keeps, foldl_keeps, implies_true]

theorem launchLate_keeps (hk : Keeps base s) (n : Nat) : Keeps base (s.launchLate n) := by
  unfold State.launchLate
  simp +contextual (maxDischargeDepth := 99) only [hk, Keeps_mk, ite_keeps, addSat_keeps, ev_keeps, modF_keeps]

theorem launchOutRise_keeps (hk : Keeps base s) (n : Nat) : Keeps base (s.launchOutRise n) := by
  unfold State.launchOutRise
  simp +contextual (maxDischargeDepth := 99) only [hk, Keeps_mk, ite_keeps, launchOut_keeps]

/-! ### Machine/RegView.lean -/

theorem capture_keeps (hk : Keeps base s) (m : Master) (off : Nat) : Keeps base (s.capture m off) := by
  unfold State.capture
  simp +contextual (maxDischargeDepth := 99) only [hk, Keeps_mk, ite_keeps, foldl_keeps, implies_true]

theorem rcClear_keeps (hk : Keeps base s) (off : Nat) : Keeps base (s.rcClear off) := by
  unfold State.rcClear
  try dsimp only
  repeat' split
  all_goals simp +contextual (maxDischargeDepth := 99) only [hk, Keeps_mk, ite_keeps, setReg_keeps]

theorem readWord_keeps (hk : Keeps base s) (m : Master) (off : Nat) : Keeps base (s.readWord m off) := by
  unfold State.readWord
  try dsimp only
  repeat' split
  all_goals simp +contextual (maxDischargeDepth := 99) only [hk, Keeps_mk, ite_keeps, capture_keeps, qinPosRead_keeps,
    rcClear_keeps, setTrk_keeps]

theorem readSync_keeps (hk : Keeps base s) (off : Nat) : Keeps base (s.readSync off) := by
  unfold State.readSync
  simp +contextual (maxDischargeDepth := 99) only [hk, Keeps_mk, ite_keeps, lncSync_keeps]

theorem busRead_keeps (hk : Keeps base s) (b : Bus) (off bytes : Nat) : Keeps base (s.busRead b off bytes) := by
  unfold State.busRead
  simp +contextual (maxDischargeDepth := 99) only [hk, Keeps_mk, ite_keeps, at_keeps, accessWake_keeps, readSync_keeps,
    readWord_keeps, foldl_keeps, implies_true]

/-! ### Machine/RegAccess.lean -/

theorem cfgErr_keeps (hk : Keeps base s) (off : Nat) : Keeps base (s.cfgErr off) := by
  unfold State.cfgErr
  simp +contextual (maxDischargeDepth := 99) only [hk, Keeps_mk, ite_keeps, ev_keeps]

theorem refStale_keeps (hk : Keeps base s) (n : Nat) (js : List Nat) : Keeps base (s.refStale n js) := by
  unfold State.refStale
  simp +contextual (maxDischargeDepth := 99) only [hk, Keeps_mk, ite_keeps, modF_keeps]

theorem wrotePwr_keeps (hk : Keeps base s) (off : Nat) (w : Word) : Keeps base (s.wrotePwr off w) := by
  unfold State.wrotePwr
  simp +contextual (maxDischargeDepth := 99) only [hk, Keeps_mk, ite_keeps]

theorem wroteTim_keeps (hk : Keeps base s) (off : Nat) (r0 : Tab Word) (v : Word) :
    Keeps base (s.wroteTim off r0 v) := by
  unfold State.wroteTim
  try dsimp only
  repeat' split
  all_goals simp +contextual (maxDischargeDepth := 99) only [hk, Keeps_mk, ite_keeps, set_keeps, modF_keeps,
      alignAbort_keeps, syncOff_keeps, alignSet_keeps, setEpoch_keeps]

theorem wroteLnc_keeps (hk : Keeps base s) (off : Nat) :
    Keeps base (s.wroteLnc off) := by
  unfold State.wroteLnc
  try dsimp only
  repeat' split
  all_goals simp +contextual (maxDischargeDepth := 99) only [hk, Keeps_mk, ite_keeps, gatePols_keeps, refStale_keeps]

theorem wroteAcq_keeps (hk : Keeps base s) (off : Nat) :
    Keeps base (s.wroteAcq off) := by
  unfold State.wroteAcq
  simp +contextual (maxDischargeDepth := 99) only [hk, Keeps_mk, ite_keeps, setAcq_keeps, bgSyncAll_keeps]

theorem wroteDts_keeps (hk : Keeps base s) (off : Nat) : Keeps base (s.wroteDts off) := by
  unfold State.wroteDts
  try dsimp only
  repeat' split
  all_goals simp +contextual (maxDischargeDepth := 99) only [hk, Keeps_mk, ite_keeps, modF_keeps]

theorem clearIds_keeps (hk : Keeps base s) (k : Nat) :
    Keeps base (s.clearIds k) := by
  unfold State.clearIds
  simp +contextual (maxDischargeDepth := 99) only [hk, Keeps_mk, ite_keeps, setRing_keeps]

theorem wroteEvt_keeps (hk : Keeps base s) (off : Nat) (r0 : Tab Word) :
    Keeps base (s.wroteEvt off r0) := by
  unfold State.wroteEvt
  simp +contextual (maxDischargeDepth := 99) only [hk, Keeps_mk, ite_keeps, modF_keeps, evtIdle_keeps]

theorem wroteHif_keeps (hk : Keeps base s) (off : Nat) (v : Word) :
    Keeps base (s.wroteHif off v) := by
  unfold State.wroteHif
  try dsimp only
  repeat' split
  all_goals simp +contextual (maxDischargeDepth := 99) only [hk, Keeps_mk, ite_keeps, set_keeps, ringRun_keeps,
      bufFlush_keeps, clearIds_keeps]

theorem wrotePmc_keeps (hk : Keeps base s) (off : Nat) (w v : Word) :
    Keeps base (s.wrotePmc off w v) := by
  unfold State.wrotePmc
  simp +contextual (maxDischargeDepth := 99) only [hk, Keeps_mk, ite_keeps, setPmc_keeps, convRelatch_keeps,
      pmcTrigger_keeps, pmcStopAll_keeps, pmcCalStart_keeps, pmcWritten_keeps]

theorem wroteMem_keeps (hk : Keeps base s) (off : Nat) (v w : Word) :
    Keeps base (s.wroteMem off v w) := by
  unfold State.wroteMem
  simp +contextual (maxDischargeDepth := 99) only [hk, Keeps_mk, ite_keeps, set_keeps, setMem_keeps, setShare_keeps,
      memInitStart_keeps, histFrom_keeps, dumpStart_keeps]

theorem w1c_keeps (hk : Keeps base s) (off : Nat) (v : Word) :
    Keeps base (s.w1c off v) := by
  unfold State.w1c
  try dsimp only
  repeat' split
  all_goals simp +contextual (maxDischargeDepth := 99) only [hk, Keeps_mk, ite_keeps, setReg_keeps]

theorem wrote_keeps (hk : Keeps base s) (off : Nat) (v : Word) :
    Keeps base (s.wrote off v) := by
  unfold State.wrote
  try dsimp only
  repeat' split
  all_goals simp +contextual (maxDischargeDepth := 99) only [hk, Keeps_mk, ite_keeps, trkHold_keeps, latchWrite_keeps,
      trkWrite_keeps, wrotePwr_keeps, wroteTim_keeps, wroteLnc_keeps, wroteAcq_keeps, wroteDts_keeps, wroteEvt_keeps,
      wroteHif_keeps, wrotePmc_keeps, wroteMem_keeps, w1c_keeps, rwriteRegs_keeps]

theorem nvRecord_keeps (hk : Keeps base s) (off : Nat) (v : Word) :
    Keeps base (s.nvRecord off v) := by
  unfold State.nvRecord
  simp +contextual (maxDischargeDepth := 99) only [hk, Keeps_mk, ite_keeps]

theorem polderStore_keeps (hk : Keeps base s) (off : Nat) (v : Word) :
    Keeps base (s.polderStore off v) := by
  unfold State.polderStore
  simp +contextual (maxDischargeDepth := 99) only [hk, Keeps_mk, ite_keeps, weirWrite_keeps, cfgErr_keeps, nvRecord_keeps,
      rwritePRegs_keeps]

theorem polderWrite_keeps (hk : Keeps base s) (off : Nat) (v : Word) :
    Keeps base (s.polderWrite off v) := by
  unfold State.polderWrite
  try dsimp only
  repeat' split
  all_goals simp +contextual (maxDischargeDepth := 99) only [hk, Keeps_mk, ite_keeps, ev_keeps, polderStore_keeps,
      rwritePRegs_keeps]

theorem waveWrite_keeps (hk : Keeps base s) (n off : Nat) (v : Word) :
    Keeps base (s.waveWrite n off v) := by
  unfold State.waveWrite
  simp +contextual (maxDischargeDepth := 99) only [hk, Keeps_mk, ite_keeps, setTword_keeps, ev_keeps, refStale_keeps]

theorem refWrite_keeps (hk : Keeps base s) (n j off : Nat) (v : Word) : Keeps base (s.refWrite n j off v) := by
  unfold State.refWrite
  simp +contextual (maxDischargeDepth := 99) only [hk, Keeps_mk, ite_keeps, ev_keeps, setTword_keeps, refStale_keeps]

theorem tableWrite_keeps (hk : Keeps base s) (off : Nat) (v : Word) : Keeps base (s.tableWrite off v) := by
  unfold State.tableWrite
  try dsimp only
  repeat' split
  all_goals simp +contextual (maxDischargeDepth := 99) only [hk, Keeps_mk, ite_keeps, waveWrite_keeps, refWrite_keeps,
    ev_keeps, setTword_keeps]

theorem sysReset_keeps (hk : Keeps base s) (v : Word) : Keeps base (s.sysReset v) := by
  unfold State.sysReset
  simp +contextual (maxDischargeDepth := 99) only [hk, Keeps_mk, ite_keeps, warmReset_keeps, ev_keeps]

theorem writeWord_keeps (hk : Keeps base s) (m : Master) (off : Nat) (v : Word) : Keeps base (s.writeWord m off v) := by
  unfold State.writeWord
  try dsimp only
  repeat' split
  all_goals simp +contextual (maxDischargeDepth := 99) only [hk, Keeps_mk, ite_keeps, tableWrite_keeps, sysReset_keeps,
    polderWrite_keeps, cfgErr_keeps, wrote_keeps, rwriteRegs_keeps]

theorem writeBar2_keeps (hk : Keeps base s) (a : Nat) (v : Word) :
    Keeps base (s.writeBar2 a v) := by
  unfold State.writeBar2
  simp +contextual (maxDischargeDepth := 99) only [hk, Keeps_mk, ite_keeps, msixFlush_keeps, cmdDb_keeps, cplDb_keeps,
      strDb_keeps]

theorem busWrite_keeps (hk : Keeps base s) (b : Bus) (off bytes : Nat) (v : BitVec 64) :
    Keeps base (s.busWrite b off bytes v) := by
  unfold State.busWrite
  simp +contextual (maxDischargeDepth := 99) only [hk, Keeps_mk, ite_keeps, at_keeps, accessWake_keeps, readSync_keeps,
      writeWord_keeps, writeBar2_keeps]

theorem busWord_keeps (hk : Keeps base s) (b : Bus) (off : Nat) (v : Word) : Keeps base (s.busWord b off v) := by
  unfold State.busWord
  simp +contextual (maxDischargeDepth := 99) only [hk, Keeps_mk, ite_keeps, busWrite_keeps]

theorem doorbell_keeps (hk : Keeps base s) (b : Bus) (act : State → State) (ha : ∀ x, Keeps base x → Keeps base (act x)) :
    Keeps base (s.doorbell b act) := by
  have h1 := accessWake_keeps (at_keeps hk b.t)
  unfold State.doorbell
  exact ite_keeps (ite_keeps h1 (ha _ h1)) (at_keeps hk b.t)

theorem spiReads_keeps (hk : Keeps base s) (addr : Nat) (inc : Bool) (n : Nat) : Keeps base (s.spiReads addr inc n) := by
  unfold State.spiReads
  simp +contextual (maxDischargeDepth := 99) only [hk, Keeps_mk, ite_keeps, readWord_keeps, foldl_keeps, implies_true]

theorem spiWrites_keeps (hk : Keeps base s) (addr : Nat) (inc : Bool) (ws : List Word) :
    Keeps base (s.spiWrites addr inc ws) := by
  unfold State.spiWrites
  simp +contextual (maxDischargeDepth := 99) only [hk, Keeps_mk, ite_keeps, setPmc_keeps, writeWord_keeps, foldl_keeps,
      implies_true]

theorem spiRun_keeps (hk : Keeps base s) (t : Nat) (cmd : BitVec 8) (addr : BitVec 16) (data : List Word) (reads : Nat) :
    Keeps base (s.spiRun t cmd addr data reads) := by
  unfold State.spiRun
  simp +contextual (maxDischargeDepth := 99) only [hk, Keeps_mk, ite_keeps, at_keeps, setPmc_keeps, spiReads_keeps,
    spiWrites_keeps, wake_keeps]

/-! ### Machine/Boot.lean -/

theorem bootTo_keeps (hk : Keeps base s) (k : Nat) : Keeps base (s.bootTo k) := by
  unfold State.bootTo
  exact Keeps_mk hk rfl rfl rfl

theorem bootNv_keeps (hk : Keeps base s) (i : BootInfo) :
    Keeps base (s.bootNv i) := by
  unfold State.bootNv
  simp +contextual (maxDischargeDepth := 99) only [hk, Keeps_mk, ite_keeps, set_keeps, nvErrs_keeps]

theorem slotsSeen_keeps (hk : Keeps base s) (k : Nat) (i : BootInfo) :
    Keeps base (s.slotsSeen k i) := by
  unfold State.slotsSeen
  simp +contextual (maxDischargeDepth := 99) only [hk, Keeps_mk, ite_keeps]

theorem bootFails_keeps (hk : Keeps base s) (code : Nat) (gnowa : Bool) :
    Keeps base (s.bootFails code gnowa) := by
  unfold State.bootFails
  simp +contextual (maxDischargeDepth := 99) only [hk, Keeps_mk, ite_keeps, set_keeps, ev_keeps]

theorem bootMs_keeps (hk : Keeps base s) : Keeps base (s.bootMs) := by
  unfold State.bootMs
  simp +contextual (maxDischargeDepth := 99) only [hk, Keeps_mk, ite_keeps, nextFree_keeps, set_keeps]

theorem polderRestore_keeps (hk : Keeps base s) (off : Nat) (v : Word) : Keeps base (s.polderRestore off v) := by
  unfold State.polderRestore
  simp +contextual (maxDischargeDepth := 99) only [hk, Keeps_mk, ite_keeps, weirWrite_keeps, cfgErr_keeps, rwritePRegs_keeps]

theorem nvReg_keeps (hk : Keeps base s) (reg off : Nat) :
    Keeps base (s.nvReg reg off) := by
  unfold State.nvReg
  try dsimp only
  repeat' split
  all_goals simp +contextual (maxDischargeDepth := 99) only [hk, Keeps_mk, ite_keeps, setReg_keeps]

theorem calfRestore_keeps (hk : Keeps base s) :
    Keeps base (s.calfRestore) := by
  unfold State.calfRestore
  simp +contextual (maxDischargeDepth := 99) only [hk, Keeps_mk, ite_keeps, nvReg_keeps, foldl_keeps, implies_true]

theorem delayRestore_keeps (hk : Keeps base s) :
    Keeps base (s.delayRestore) := by
  unfold State.delayRestore
  simp +contextual (maxDischargeDepth := 99) only [hk, Keeps_mk, ite_keeps, setReg_keeps, set_keeps, nextFree_keeps,
      nvReg_keeps, foldl_keeps, implies_true]

theorem appRestore_keeps (hk : Keeps base s) (l : List (Nat × Word)) :
    Keeps base (s.appRestore l) := by
  unfold State.appRestore
  simp +contextual (maxDischargeDepth := 99) only [hk, Keeps_mk, ite_keeps, writeWord_keeps, calfRestore_keeps,
      delayRestore_keeps, foldl_keeps, implies_true]

theorem pmcReady_keeps (hk : Keeps base s) :
    Keeps base (s.pmcReady) := by
  unfold State.pmcReady
  simp +contextual (maxDischargeDepth := 99) only [hk, Keeps_mk, ite_keeps, setPmc_keeps]

theorem bootImage_keeps (hk : Keeps base s) (i : ImageRead) : Keeps base (s.bootImage i) := by
  unfold State.bootImage
  simp +contextual (maxDischargeDepth := 99) only [hk, Keeps_mk, ite_keeps, admitImage_keeps, set_keeps]

theorem snapshotBack_keeps (hk : Keeps base s) : Keeps base s.snapshotBack := by
  obtain ⟨h1, h2, h3, h4, h5, h6⟩ := hk
  refine ⟨h1, h2, Nat.le_succ_of_le h3, h4, h5, fun x => ?_⟩
  have := h6 x
  simp only [State.wf, Bool.and_eq_true] at this ⊢
  exact ⟨⟨⟨twf_filter _ _ _ this.1.1.1, twf_filter _ _ _ this.1.1.2⟩, this.1.2⟩, this.2⟩

theorem fastResume_keeps (hk : Keeps base s) (i : BootInfo) :
    Keeps base (s.fastResume i) := by
  unfold State.fastResume
  simp +contextual (maxDischargeDepth := 99) only [hk, Keeps_mk, ite_keeps, set_keeps, bermInit_keeps, resAcc_keeps,
      safeFollow_keeps, bootMs_keeps, polderRestore_keeps, appRestore_keeps, pmcReady_keeps, snapshotBack_keeps, foldl_keeps,
      implies_true]

theorem boot5_keeps (hk : Keeps base s) (i : BootInfo) :
    Keeps base (s.boot5 i) := by
  unfold State.boot5
  simp +contextual (maxDischargeDepth := 99) only [hk, Keeps_mk, ite_keeps, set_keeps, resAcc_keeps, safeFollow_keeps,
      coldReset_keeps, bootTo_keeps, fastResume_keeps]

theorem boot6_keeps (hk : Keeps base s) (i : BootInfo) :
    Keeps base (s.boot6 i) := by
  unfold State.boot6
  try dsimp only
  repeat' split
  all_goals simp +contextual (maxDischargeDepth := 99) only [hk, Keeps_mk, ite_keeps, set_keeps, setB_keeps, trip_keeps,
      weirRoute_keeps, modeReg_keeps, bootTo_keeps, bootNv_keeps, slotsSeen_keeps, bootFails_keeps, foldl_keeps, implies_true]

theorem boot7_keeps (hk : Keeps base s) (i : BootInfo) :
    Keeps base (s.boot7 i) := by
  unfold State.boot7
  simp +contextual (maxDischargeDepth := 99) only [hk, Keeps_mk, ite_keeps, setWp_keeps, recontain_keeps, bootTo_keeps,
      bootNv_keeps, polderRestore_keeps, foldl_keeps, implies_true]

theorem boot8_keeps (hk : Keeps base s) (i : BootInfo) :
    Keeps base (s.boot8 i) := by
  unfold State.boot8
  try dsimp only
  repeat' split
  all_goals simp +contextual (maxDischargeDepth := 99) only [hk, Keeps_mk, ite_keeps, set_keeps, setB_keeps, bootNv_keeps,
      slotsSeen_keeps, bootFails_keeps]

theorem boot9_keeps (hk : Keeps base s) (i : BootInfo) :
    Keeps base (s.boot9 i) := by
  unfold State.boot9
  simp +contextual (maxDischargeDepth := 99) only [hk, Keeps_mk, ite_keeps, set_keeps, bootTo_keeps, bootNv_keeps,
      appRestore_keeps, pmcReady_keeps]

theorem boot10_keeps (hk : Keeps base s) (i : BootInfo) : Keeps base (s.boot10 i) := by
  unfold State.boot10
  simp +contextual (maxDischargeDepth := 99) only [hk, Keeps_mk, ite_keeps, bootNv_keeps, bootImage_keeps, bootTo_keeps,
    foldl_keeps, implies_true]

theorem boot11_keeps (hk : Keeps base s) (i : BootInfo) :
    Keeps base (s.boot11 i) := by
  unfold State.boot11
  simp +contextual (maxDischargeDepth := 99) only [hk, Keeps_mk, ite_keeps, set_keeps, enterMode_keeps, bootTo_keeps,
      bootNv_keeps, bootMs_keeps, pmcReady_keeps]

theorem bootStep_keeps (hk : Keeps base s) (i : BootInfo) : Keeps base (s.bootStep i) := by
  unfold State.bootStep
  try dsimp only
  repeat' split
  all_goals simp +contextual (maxDischargeDepth := 99) only [hk, Keeps_mk, ite_keeps, boot5_keeps, boot6_keeps, boot7_keeps,
    boot8_keeps, boot9_keeps, boot10_keeps, boot11_keeps]

/-! ### Machine/RingCmds.lean -/

theorem readLog_keeps (hk : Keeps base s) (c : Cmd) (addr len : Nat) : Keeps base (s.readLog c addr len) := by
  unfold State.readLog
  simp +contextual (maxDischargeDepth := 99) only [hk, Keeps_mk, ite_keeps, complete_keeps, dmaWrite_keeps]

theorem spillDrain_keeps (hk : Keeps base s) (c : Cmd) : Keeps base (s.spillDrain c) := by
  unfold State.spillDrain
  simp +contextual (maxDischargeDepth := 99) only [hk, Keeps_mk, ite_keeps, set_keeps, ev_keeps, complete_keeps]

theorem streamFlush_keeps (hk : Keeps base s) (mask : Nat) : Keeps base (s.streamFlush mask) := by
  unfold State.streamFlush
  simp +contextual (maxDischargeDepth := 99) only [hk, Keeps_mk, ite_keeps, bufFlush_keeps, foldl_keeps, implies_true]

/-! ### Machine/RegCmds.lean -/

theorem ringStop_keeps (hk : Keeps base s) (kind : RingKind) (k : Nat) : Keeps base (s.ringStop kind k) := by
  unfold State.ringStop
  try dsimp only
  repeat' split
  all_goals simp +contextual (maxDischargeDepth := 99) only [hk, Keeps_mk, ite_keeps, set_keeps]

/-! ### Machine/TimeCmds.lean -/

theorem edgeStep_keeps (hk : Keeps base s) (f : State → State) (hf : ∀ x, Keeps base x → Keeps base (f x)) :
    Keeps base (s.edgeStep f) := ite_keeps (hf _ hk) (pmcRestart_keeps (hf _ hk))

/-! ### Machine/HostCmds.lean -/

theorem drainRead_keeps (hk : Keeps base s) (errs : List MemErr) :
    Keeps base (s.drainRead errs) := by
  unfold State.drainRead
  simp +contextual (maxDischargeDepth := 99) only [hk, Keeps_mk, ite_keeps, memUsed_keeps, drainOne_keeps, memErr_keeps,
      foldl_keeps, implies_true]

theorem coalesceEnd_keeps (hk : Keeps base s) (k : Nat) : Keeps base (s.coalesceEnd k) := by
  unfold State.coalesceEnd
  try dsimp only
  repeat' split
  all_goals simp +contextual (maxDischargeDepth := 99) only [hk, Keeps_mk, ite_keeps, cplSignal_keeps]

theorem ringFail_keeps (hk : Keeps base s) (kind : RingKind) (k : Nat) :
    Keeps base (s.ringFail kind k) := by
  unfold State.ringFail
  simp +contextual (maxDischargeDepth := 99) only [hk, Keeps_mk, ite_keeps, set_keeps, nextFree_keeps, ev_keeps,
      aerUnc_keeps, present_keeps]

theorem linkUp_keeps (hk : Keeps base s) (speed width : Nat) :
    Keeps base (s.linkUp speed width) := by
  unfold State.linkUp
  simp +contextual (maxDischargeDepth := 99) only [hk, Keeps_mk, ite_keeps, set_keeps, hold_keeps]

/-! ### Machine/PathCmds.lean -/

theorem shotErrs_keeps (hk : Keeps base s) (n : Nat) (errs : List MemErr) :
    Keeps base (s.shotErrs n errs) := by
  unfold State.shotErrs
  simp +contextual (maxDischargeDepth := 99) only [hk, Keeps_mk, ite_keeps, modF_keeps, memErr_keeps, accPoison_keeps,
      dropLost_keeps, foldl_keeps, implies_true]

end Sys2Proof.Machine
end

