-- ==== Sys2Proof/Laws/KeepsCmds.lean ====
section
/-! SUPPORT. What every command keeps: the queue it was given, the direction of time and of the free values, the Safe-Hold
latch and the canonical form. One lemma for each command; SAFE_HOLD_CLEAR alone clears the latch. -/

namespace Sys2Proof.Machine

-- One proof at a time: in parallel the package as one text would need too many threads.
set_option Elab.async false

variable {s s' : State}

theorem execNop_keeps (h : Hdr) (opcode : Nat) (h : execNop h opcode s = .next s') : Keeps s s' := by
  cases h
  exact ringStart_keeps (Keeps.refl s) _ _ _ _ (fun _ _ hx => complete_keeps hx _ _ _)

theorem execArm_keeps (h : Hdr) (fe : Nat) (h : execArm h fe s = .next s') : Keeps s s' := by
  cases h
  exact ringStart_keeps (Keeps.refl s) _ _ _ _ (fun _ _ hx => armCmd_keeps hx _ _)

theorem execDisarm_keeps (h : Hdr) (fe : Nat) (h : execDisarm h fe s = .next s') : Keeps s s' := by
  cases h
  exact ringStart_keeps (Keeps.refl s) _ _ _ _ (fun _ _ hx => disarmFe_keeps hx _ _)

theorem execAcqCalibrate_keeps
    (h : Hdr) (mask : Nat) (nv saveOnly : Bool)
    (h : execAcqCalibrate h mask nv saveOnly s = .next s') : Keeps s s' := by
  cases h
  exact ringStart_keeps (Keeps.refl s) _ _ _ _ (fun _ _ hx => calStart_keeps hx _ _ _ _)

theorem execPmcCalibrate_keeps
    (h : Hdr) (mask : Nat) (nv saveOnly : Bool)
    (h : execPmcCalibrate h mask nv saveOnly s = .next s') : Keeps s s' := by
  cases h
  exact ringStart_keeps (Keeps.refl s) _ _ _ _ (fun _ _ hx => pmcCalStart_keeps hx _ _ _ _)

theorem execLoadSchedule_keeps
    (h : Hdr) (addr len : Nat) (img : Option ImageRead)
    (h : execLoadSchedule h addr len img s = .next s') : Keeps s s' := by
  cases h
  exact ringStart_keeps (Keeps.refl s) _ _ _ _ (fun _ _ hx => loadStart_keeps hx _ _)

theorem execUnloadSchedule_keeps (h : Hdr) (slot : Nat) (h : execUnloadSchedule h slot s = .next s') : Keeps s s' := by
  cases h
  exact ringStart_keeps (Keeps.refl s) _ _ _ _ (fun _ _ hx => unloadStart_keeps hx _ _)

theorem execCommit_keeps
    (h : Hdr) (addr len : Nat) (list : Option (List Byte))
    (h : execCommit h addr len list s = .next s') : Keeps s s' := by
  cases h
  exact ringStart_keeps (Keeps.refl s) _ _ _ _ (fun _ _ hx => commitStage_keeps hx _ _)

theorem execCommitCancel_keeps (h : Hdr) (target : BitVec 32) (h : execCommitCancel h target s = .next s') : Keeps s s' := by
  cases h
  exact ringStart_keeps (Keeps.refl s) _ _ _ _ (fun _ _ hx => commitCancel_keeps hx _ _)

theorem execSetMode_keeps
    (h : Hdr) (mode : Nat) (tokenAddr : Nat) (token : Option TokenRead)
    (h : execSetMode h mode tokenAddr token s = .next s') : Keeps s s' := by
  cases h
  exact ringStart_keeps (Keeps.refl s) _ _ _ _ (fun _ _ hx => setMode_keeps hx _ _ _ _)

theorem execSetLatency_keeps (h : Hdr) (ns : BitVec 64) (h : execSetLatency h ns s = .next s') : Keeps s s' := by
  cases h
  exact ringStart_keeps (Keeps.refl s) _ _ _ _ (fun _ _ hx => setLatency_keeps hx _ _)

theorem execRecover_keeps (h : Hdr) (mask : Nat) (h : execRecover h mask s = .next s') : Keeps s s' := by
  cases h
  exact ringStart_keeps (Keeps.refl s) _ _ _ _ (fun _ _ hx => recover_keeps hx _ _)

theorem execFaultInject_keeps (h : Hdr) (src kind durNs : Nat) (h : execFaultInject h src kind durNs s = .next s') :
    Keeps s s' := by
  cases h
  exact ringStart_keeps (Keeps.refl s) _ _ _ _ (fun _ _ hx => inject_keeps hx _ _ _ _)

theorem execNvWrite_keeps
    (h : Hdr) (addr off len : Nat) (data : Option (List Byte))
    (h : execNvWrite h addr off len data s = .next s') : Keeps s s' := by
  cases h
  exact ringStart_keeps (Keeps.refl s) _ _ _ _ (fun _ _ hx => nvWrite_keeps hx _ _ _ _)

theorem execNvRead_keeps
    (h : Hdr) (addr off len : Nat) (dmaOk : Bool) (corrected : Nat) (badWord : Option Nat)
    (h : execNvRead h addr off len dmaOk corrected badWord s = .next s') : Keeps s s' := by
  cases h
  exact ringStart_keeps (Keeps.refl s) _ _ _ _ (fun _ _ hx => nvRead_keeps hx _ _ _ _ _ _ _)

theorem execReadReattachLog_keeps (h : Hdr) (addr len : Nat) (h : execReadReattachLog h addr len s = .next s') :
    Keeps s s' := by
  cases h
  exact ringStart_keeps (Keeps.refl s) _ _ _ _ (fun _ _ hx => readLog_keeps hx _ _ _)

theorem execSpillDrain_keeps (h : Hdr) (h : execSpillDrain h s = .next s') : Keeps s s' := by
  cases h
  exact ringStart_keeps (Keeps.refl s) _ _ _ _ (fun _ _ hx => spillDrain_keeps hx _)

theorem execDetach_keeps (h : Hdr) (h : execDetach h s = .next s') : Keeps s s' := by
  cases h
  exact ringStart_keeps (Keeps.refl s) _ _ _ _ (fun _ _ hx => detachStart_keeps hx _)

theorem execStreamFlush_keeps (h : Hdr) (mask : BitVec 32) (h : execStreamFlush h mask s = .next s') : Keeps s s' := by
  cases h
  exact ringStart_keeps (Keeps.refl s) _ _ _ _ (fun _ _ hx => complete_keeps (streamFlush_keeps hx _) _ _ _)

theorem execWarmReset_keeps (b : Bus) (v : Word) (h : execWarmReset b v s = .next s') : Keeps s s' := by
  cases h
  exact busWord_keeps (Keeps.refl s) _ _ _

theorem execAlignArm_keeps (b : Bus) (v : Word) (h : execAlignArm b v s = .next s') : Keeps s s' := by
  cases h
  exact busWord_keeps (Keeps.refl s) _ _ _

theorem execAlignAbort_keeps (b : Bus) (v : Word) (h : execAlignAbort b v s = .next s') : Keeps s s' := by
  cases h
  exact busWord_keeps (Keeps.refl s) _ _ _

theorem execQinLoad_keeps (b : Bus) (i : Fin 2) (v : Word) (h : execQinLoad b i v s = .next s') : Keeps s s' := by
  cases h
  exact busWord_keeps (Keeps.refl s) _ _ _

theorem execClearIds_keeps (b : Bus) (k : Fin 16) (v : Word) (h : execClearIds b k v s = .next s') : Keeps s s' := by
  cases h
  exact busWord_keeps (Keeps.refl s) _ _ _

theorem execPmcSeqStart_keeps (b : Bus) (v : Word) (h : execPmcSeqStart b v s = .next s') : Keeps s s' := by
  cases h
  exact busWord_keeps (Keeps.refl s) _ _ _

theorem execPmcSeqStop_keeps (b : Bus) (v : Word) (h : execPmcSeqStop b v s = .next s') : Keeps s s' := by
  cases h
  exact busWord_keeps (Keeps.refl s) _ _ _

theorem execPmcInjStart_keeps (b : Bus) (j : Fin 4) (v : Word) (h : execPmcInjStart b j v s = .next s') : Keeps s s' := by
  cases h
  exact busWord_keeps (Keeps.refl s) _ _ _

theorem execPmcCalStart_keeps (b : Bus) (v : Word) (h : execPmcCalStart b v s = .next s') : Keeps s s' := by
  cases h
  exact busWord_keeps (Keeps.refl s) _ _ _

theorem execWeirLatchClear_keeps (b : Bus) (v : Word) (h : execWeirLatchClear b v s = .next s') : Keeps s s' := by
  cases h
  exact busWord_keeps (Keeps.refl s) _ _ _

theorem execMemInit_keeps (b : Bus) (v : Word) (h : execMemInit b v s = .next s') : Keeps s s' := by
  cases h
  exact busWord_keeps (Keeps.refl s) _ _ _

theorem execMemTestStart_keeps (b : Bus) (v : Word) (h : execMemTestStart b v s = .next s') : Keeps s s' := by
  cases h
  exact busWord_keeps (Keeps.refl s) _ _ _

theorem execHistDump_keeps (b : Bus) (v : Word) (h : execHistDump b v s = .next s') : Keeps s s' := by
  cases h
  exact busWord_keeps (Keeps.refl s) _ _ _

theorem execEpochLoWrite_keeps (b : Bus) (v : Word) (h : execEpochLoWrite b v s = .next s') : Keeps s s' := by
  cases h
  exact busWord_keeps (Keeps.refl s) _ _ _

theorem execEpochHiWrite_keeps (b : Bus) (v : Word) (h : execEpochHiWrite b v s = .next s') : Keeps s s' := by
  cases h
  exact busWord_keeps (Keeps.refl s) _ _ _

theorem execSnapshotRead_keeps (b : Bus) (off : Nat) (h : execSnapshotRead b off s = .next s') : Keeps s s' := by
  cases h
  exact busRead_keeps (Keeps.refl s) _ _ _

theorem execReadClear_keeps (b : Bus) (off bytes : Nat) (h : execReadClear b off bytes s = .next s') : Keeps s s' := by
  cases h
  exact busRead_keeps (Keeps.refl s) _ _ _

theorem execQinPosRead_keeps (b : Bus) (i : Fin 2) (h : execQinPosRead b i s = .next s') : Keeps s s' := by
  cases h
  exact busRead_keeps (Keeps.refl s) _ _ _

theorem execMsFifoRead_keeps (b : Bus) (h : execMsFifoRead b s = .next s') : Keeps s s' := by
  cases h
  exact busRead_keeps (Keeps.refl s) _ _ _

theorem execSyncInDisable_keeps (b : Bus) (v : Word) (h : execSyncInDisable b v s = .next s') : Keeps s s' := by
  cases h
  exact busWord_keeps (Keeps.refl s) _ _ _

theorem execTrackIdWrite_keeps (b : Bus) (m : Fin 4) (v : Word) (h : execTrackIdWrite b m v s = .next s') : Keeps s s' := by
  cases h
  exact busWord_keeps (Keeps.refl s) _ _ _

theorem execCmpValueWrite_keeps (b : Bus) (c : Fin 8) (v : Word) (h : execCmpValueWrite b c v s = .next s') : Keeps s s' := by
  cases h
  exact busWord_keeps (Keeps.refl s) _ _ _

theorem execWeirConfigWrite_keeps (b : Bus) (m : Fin 16) (thr : Bool) (v : Word)
    (h : execWeirConfigWrite b m thr v s = .next s') : Keeps s s' := by
  cases h
  exact busWord_keeps (Keeps.refl s) _ _ _

theorem execPmcDisable_keeps (b : Bus) (v : Word) (h : execPmcDisable b v s = .next s') : Keeps s s' := by
  cases h
  exact busWord_keeps (Keeps.refl s) _ _ _

theorem execRingEnable_keeps (b : Bus) (kind : RingKind) (k : Nat) (v : Word) (h : execRingEnable b kind k v s = .next s') :
    Keeps s s' := by
  cases h
  exact ite_keeps (busWord_keeps (Keeps.refl s) _ _ _) (at_keeps (Keeps.refl s) _)

theorem execRingDisable_keeps (b : Bus) (kind : RingKind) (k : Nat) (v : Word) (h : execRingDisable b kind k v s = .next s') :
    Keeps s s' := by
  cases h
  exact ite_keeps (busWord_keeps (Keeps.refl s) _ _ _) (at_keeps (Keeps.refl s) _)

theorem execRingStopped_keeps (t : Nat) (kind : RingKind) (k : Nat) (h : execRingStopped t kind k s = .next s') :
    Keeps s s' := by
  cases h
  exact main_keeps (Keeps.refl s) _ _ (fun _ hx => ringStop_keeps hx _ _)

theorem execCmdDoorbell_keeps (b : Bus) (k : Fin 16) (v : Word) (h : execCmdDoorbell b k v s = .next s') : Keeps s s' := by
  cases h
  exact doorbell_keeps (Keeps.refl s) _ _ (fun _ hx => cmdDb_keeps hx _ _)

theorem execCplDoorbell_keeps (b : Bus) (k : Fin 16) (v : Word) (h : execCplDoorbell b k v s = .next s') : Keeps s s' := by
  cases h
  exact doorbell_keeps (Keeps.refl s) _ _ (fun _ hx => cplDb_keeps hx _ _)

theorem execStrDoorbell_keeps (b : Bus) (m : Fin 32) (v : Word) (descs : List BufDesc)
    (h : execStrDoorbell b m v descs s = .next s') : Keeps s s' := by
  cases h
  exact doorbell_keeps (Keeps.refl s) _ _ (fun _ hx => strDb_keeps hx _ _ _)

theorem execRegisterWrite_keeps (b : Bus) (off bytes : Nat) (v : BitVec 64)
    (h : execRegisterWrite b off bytes v s = .next s') : Keeps s s' := by
  cases h
  exact busWrite_keeps (Keeps.refl s) _ _ _ _

theorem execSpiTransaction_keeps (t : Nat) (cmd : BitVec 8) (addr : BitVec 16) (data : List Word) (reads : Nat)
    (h : execSpiTransaction t cmd addr data reads s = .next s') : Keeps s s' := by
  cases h
  exact spiRun_keeps (Keeps.refl s) _ _ _ _ _

theorem execRefclkLoss_keeps (t : Nat) (h : execRefclkLoss t s = .next s') : Keeps s s' := by
  cases h
  exact main_keeps (Keeps.refl s) _ _ (fun _ hx => refLoss_keeps hx)

theorem execRefclkReturn_keeps (t : Nat) (h : execRefclkReturn t s = .next s') : Keeps s s' := by
  cases h
  exact main_keeps (Keeps.refl s) _ _ (fun _ hx => refReturn_keeps hx)

theorem execPllLock_keeps (t : Nat) (h : execPllLock t s = .next s') : Keeps s s' := by
  cases h
  exact main_keeps (Keeps.refl s) _ _ (fun _ hx => pllLock_keeps hx)

theorem execTimPllFail_keeps (t : Nat) (h : execTimPllFail t s = .next s') : Keeps s s' := by
  cases h
  exact main_keeps (Keeps.refl s) _ _ (fun _ hx => present_keeps hx _)

theorem execHoldExpired_keeps (t : Nat) (h : execHoldExpired t s = .next s') : Keeps s s' := by
  cases h
  exact main_keeps (Keeps.refl s) _ _ (fun _ hx => holdExpire_keeps hx)

theorem execPpsInEdge_keeps (t : Nat) (falling : Bool) (h : execPpsInEdge t falling s = .next s') : Keeps s s' := by
  cases h
  exact main_keeps (Keeps.refl s) _ _ (fun _ hx => edgeStep_keeps hx _ (fun _ hy => ppsEdge_keeps hy _))

theorem execPpsLoss_keeps (t : Nat) (h : execPpsLoss t s = .next s') : Keeps s s' := by
  cases h
  exact main_keeps (Keeps.refl s) _ _ (fun _ hx => ppsLost_keeps hx)

theorem execSyncInEdge_keeps (t : Nat) (falling : Bool) (h : execSyncInEdge t falling s = .next s') : Keeps s s' := by
  cases h
  exact main_keeps (Keeps.refl s) _ _ (fun _ hx => edgeStep_keeps hx _ (fun _ hy => syncEdge_keeps hy _))

theorem execSyncLoss_keeps (t : Nat) (h : execSyncLoss t s = .next s') : Keeps s s' := by
  cases h
  exact main_keeps (Keeps.refl s) _ _ (fun _ hx => syncLost_keeps hx)

theorem execSyncOutPulse_keeps (t : Nat) (h : execSyncOutPulse t s = .next s') : Keeps s s' := by
  cases h
  exact main_keeps (Keeps.refl s) _ _ (fun _ hx => syncOut_keeps hx)

theorem execLaunchInEdge_keeps (t : Nat) (h : execLaunchInEdge t s = .next s') : Keeps s s' := by
  cases h
  exact fabric_keeps (Keeps.refl s) _ _ (fun _ hx => launchIn_keeps hx)

theorem execLaunchLate_keeps (t : Nat) (n : Fin 4) (h : execLaunchLate t n s = .next s') : Keeps s s' := by
  cases h
  exact fabric_keeps (Keeps.refl s) _ _ (fun _ hx => launchLate_keeps hx _)

theorem execLaunch_keeps (t : Nat) (n : Fin 4) (h : execLaunch t n s = .next s') : Keeps s s' := by
  cases h
  exact fabric_keeps (Keeps.refl s) _ _ (fun _ hx => launch_keeps hx _)

theorem execSegmentEnd_keeps (t : Nat) (n : Fin 4) (h : execSegmentEnd t n s = .next s') : Keeps s s' := by
  cases h
  exact fabric_keeps (Keeps.refl s) _ _ (fun _ hx => segmentEnd_keeps hx _)

theorem execGateWindowOpen_keeps (t : Nat) (n g : Fin 4) (h : execGateWindowOpen t n g s = .next s') : Keeps s s' := by
  cases h
  exact fabric_keeps (Keeps.refl s) _ _ (fun _ hx => gateOpen_keeps hx _ _)

theorem execGateWindowClose_keeps (t : Nat) (n g : Fin 4) (h : execGateWindowClose t n g s = .next s') : Keeps s s' := by
  cases h
  exact fabric_keeps (Keeps.refl s) _ _ (fun _ hx => gateClose_keeps hx _ _)

theorem execEnvExceed_keeps (t : Nat) (n : Fin 4) (h : execEnvExceed t n s = .next s') : Keeps s s' := by
  cases h
  exact fabric_keeps (Keeps.refl s) _ _ (fun _ hx => envExceed_keeps hx _)

theorem execDutyWindowEnd_keeps (t : Nat) (n : Fin 4) (h : execDutyWindowEnd t n s = .next s') : Keeps s s' := by
  cases h
  exact fabric_keeps (Keeps.refl s) _ _ (fun _ hx => lncSync_keeps hx _)

theorem execArmSelftestDone_keeps (t : Nat) (n : Fin 4) (pass : Bool) (h : execArmSelftestDone t n pass s = .next s') :
    Keeps s s' := by
  cases h
  exact fabric_keeps (Keeps.refl s) _ _ (fun _ hx => selfTest_keeps hx _ _)

theorem execArmedEntry_keeps (t : Nat) (n : Fin 4) (h : execArmedEntry t n s = .next s') : Keeps s s' := by
  cases h
  exact fabric_keeps (Keeps.refl s) _ _ (fun _ hx => armedEntry_keeps hx _)

theorem execDisarmTakeEffect_keeps (t : Nat) (n : Fin 4) (h : execDisarmTakeEffect t n s = .next s') : Keeps s s' := by
  cases h
  exact fabric_keeps (Keeps.refl s) _ _ (fun _ hx => dormGo_keeps (disarmEffect_keeps hx _))

theorem execSafeNFall_keeps (t : Nat) (h : execSafeNFall t s = .next s') : Keeps s s' := by
  cases h
  exact ite_keeps (safeLow_keeps (at_keeps (Keeps.refl s) _)) (Keeps_mk (at_keeps (Keeps.refl s) _) rfl rfl rfl)

theorem execSafeNRise_keeps (t : Nat) (h : execSafeNRise t s = .next s') : Keeps s s' := by
  cases h
  exact Keeps_mk (at_keeps (Keeps.refl s) _) rfl rfl rfl

theorem execLaunchOutRise_keeps (t : Nat) (n : Fin 4) (h : execLaunchOutRise t n s = .next s') : Keeps s s' := by
  cases h
  exact fabric_keeps (Keeps.refl s) _ _ (fun _ hx => launchOutRise_keeps hx _)

theorem execAcqCalPhaseEnd_keeps (t : Nat) (coherent : Bool) (h : execAcqCalPhaseEnd t coherent s = .next s') :
    Keeps s s' := by
  cases h
  exact fabric_keeps (Keeps.refl s) _ _ (fun _ hx => calPhaseEnd_keeps hx _)

theorem execAcqCalDone_keeps (t : Nat) (r : AcqMeas) (h : execAcqCalDone t r s = .next s') : Keeps s s' := by
  cases h
  exact fabric_keeps (Keeps.refl s) _ _ (fun _ hx => calDone_keeps hx _)

theorem execBgCalBlockEnd_keeps (t : Nat) (c : Fin 16) (raw : List Int)
    (h : execBgCalBlockEnd t c raw s = .next s') : Keeps s s' := by
  cases h
  exact fabric_keeps (Keeps.refl s) _ _ (fun _ hx => bgBlock_keeps hx _ _)

theorem execIqBlindBlockEnd_keeps (t : Nat) (p : Fin 8) (i q x : Int)
    (h : execIqBlindBlockEnd t p i q x s = .next s') : Keeps s s' := by
  cases h
  exact fabric_keeps (Keeps.refl s) _ _ (fun _ hx => by split; exacts [blindBlock_keeps hx _, hx])

theorem execDarkBlockEnd_keeps (t : Nat) (i : Fin 8) (raw : List Int)
    (h : execDarkBlockEnd t i raw s = .next s') : Keeps s s' := by
  cases h
  exact fabric_keeps (Keeps.refl s) _ _ (fun _ hx => darkBlock_keeps hx _ _)

theorem execAcqChFail_keeps (t : Nat) (ch : Fin 24) (since : Nat) (h : execAcqChFail t ch since s = .next s') :
    Keeps s s' := by
  cases h
  exact fabric_keeps (Keeps.refl s) _ _ (fun _ hx => chanFail_keeps hx _ _)

theorem execShotProcessed_keeps (t : Nat) (n : Fin 4) (raw : List Raw4) (errs : List MemErr)
    (h : execShotProcessed t n raw errs s = .next s') : Keeps s s' := by
  cases h
  exact fabric_keeps (Keeps.refl s) _ _ (fun _ hx => shotProcess_keeps (shotErrs_keeps hx _ _) _ _)

theorem execAcfOutput_keeps (t : Nat) (n : Fin 4) (h : execAcfOutput t n s = .next s') : Keeps s s' := by
  cases h
  exact fabric_keeps (Keeps.refl s) _ _ (fun _ hx => acfOutput_keeps hx _)

theorem execRamanShotAccumulate_keeps (t : Nat) (n : Fin 4) (stokes anti : List Int)
    (h : execRamanShotAccumulate t n stokes anti s = .next s') : Keeps s s' := by
  cases h
  exact fabric_keeps (Keeps.refl s) _ _ (fun _ hx => ramanTake_keeps hx _ _ _)

theorem execAccumulationEnd_keeps (t : Nat) (n : Fin 4) (h : execAccumulationEnd t n s = .next s') : Keeps s s' := by
  cases h
  exact fabric_keeps (Keeps.refl s) _ _ (fun _ hx => dtsSwap_keeps hx _)

theorem execDtsEndComputation_keeps (t : Nat) (n : Fin 4) (h : execDtsEndComputation t n s = .next s') : Keeps s s' := by
  cases h
  exact fabric_keeps (Keeps.refl s) _ _ (fun _ hx => dtsEnd_keeps hx _)

theorem execEnergyIntervalEnd_keeps (t : Nat) (n : Fin 4) (h : execEnergyIntervalEnd t n s = .next s') : Keeps s s' := by
  cases h
  exact fabric_keeps (Keeps.refl s) _ _ (fun _ hx => energyEnd_keeps hx _)

theorem execEncoderEdge_keeps (t : Nat) (i : Fin 2) (qa qb : Bool) (h : execEncoderEdge t i qa qb s = .next s') :
    Keeps s s' := by
  cases h
  exact main_keeps (Keeps.refl s) _ _ (fun _ hx => encoderEdge_keeps hx _ _ _)

theorem execCmpPulseEnd_keeps (t : Nat) (pin : Fin 12) (h : execCmpPulseEnd t pin s = .next s') : Keeps s s' := by
  cases h
  exact main_keeps (Keeps.refl s) _ _ (fun _ hx => cmpPulseEnd_keeps hx _)

theorem execIndexPulse_keeps (t : Nat) (i : Fin 2) (level : Bool) (h : execIndexPulse t i level s = .next s') :
    Keeps s s' := by
  cases h
  exact main_keeps (Keeps.refl s) _ _ (fun _ hx => indexPulse_keeps hx _ _)

theorem execEncoderStall_keeps (t : Nat) (i : Fin 2) (h : execEncoderStall t i s = .next s') : Keeps s s' := by
  cases h
  exact main_keeps (Keeps.refl s) _ _ (fun _ hx => encoderStall_keeps hx _)

theorem execCountHistoryRecord_keeps (t : Nat) (i : Fin 2) (h : execCountHistoryRecord t i s = .next s') : Keeps s s' := by
  cases h
  exact main_keeps (Keeps.refl s) _ _ (fun _ hx => historyRecord_keeps hx _)

theorem execMsEdge_keeps (t : Nat) (m : Fin 8) (falling : Bool) (stamp : Nat)
    (h : execMsEdge t m falling stamp s = .next s') : Keeps s s' := by
  cases h
  exact main_keeps (Keeps.refl s) _ _ (fun _ hx => msEdge_keeps hx _ _ _)

theorem execSsiFrameStart_keeps (t : Nat) (p : Fin 2) (datLow : Bool) (h : execSsiFrameStart t p datLow s = .next s') :
    Keeps s s' := by
  cases h
  exact main_keeps (Keeps.refl s) _ _ (fun _ hx => ssiStart_keeps hx _ _)

theorem execSsiFrameEnd_keeps (t : Nat) (p : Fin 2) (bits : BitVec 32) (e : SsiEnd)
    (h : execSsiFrameEnd t p bits e s = .next s') : Keeps s s' := by
  cases h
  exact main_keeps (Keeps.refl s) _ _ (fun _ hx => ssiEnd_keeps hx _ _ _ _)

theorem execEncTargetUpdate_keeps (t : Nat) (m : Fin 4) (h : execEncTargetUpdate t m s = .next s') : Keeps s s' := by
  cases h
  exact main_keeps (Keeps.refl s) _ _ (fun _ hx => encUpdate_keeps hx _)

theorem execEncStep_keeps (t : Nat) (m : Fin 4) (h : execEncStep t m s = .next s') : Keeps s s' := by
  cases h
  exact main_keeps (Keeps.refl s) _ _ (fun _ hx => encStep_keeps hx _)

theorem execFrameWorkDone_keeps (t : Nat) (n : Fin 4) (h : execFrameWorkDone t n s = .next s') : Keeps s s' := by
  cases h
  exact fabric_keeps (Keeps.refl s) _ _ (fun _ hx => frameDone_keeps hx _)

theorem execDivert_keeps (t : Nat) (n : Fin 4) (h : execDivert t n s = .next s') : Keeps s s' := by
  cases h
  exact fabric_keeps (Keeps.refl s) _ _ (fun _ hx => divertHead_keeps hx _)

theorem execCommitLock_keeps (t : Nat) (g : Fin 8) (h : execCommitLock t g s = .next s') : Keeps s s' := by
  cases h
  exact fabric_keeps (Keeps.refl s) _ _ (fun _ hx => commitLock_keeps hx _)

theorem execCommitApply_keeps (t : Nat) (g : Fin 8) (h : execCommitApply t g s = .next s') : Keeps s s' := by
  cases h
  exact fabric_keeps (Keeps.refl s) _ _ (fun _ hx => commitApply_keeps hx _)

theorem execFrameDeliver_keeps (t : Nat) (stream : Fin 18) (h : execFrameDeliver t stream s = .next s') : Keeps s s' := by
  cases h
  exact fabric_keeps (Keeps.refl s) _ _ (fun _ hx => frameDeliver_keeps hx _)

theorem execFrameRelease_keeps (t : Nat) (stream : Fin 18) (h : execFrameRelease t stream s = .next s') : Keeps s s' := by
  cases h
  exact fabric_keeps (Keeps.refl s) _ _ (fun _ hx => frameReleased_keeps hx _)

theorem execDrainFrame_keeps (t : Nat) (errs : List MemErr) (h : execDrainFrame t errs s = .next s') : Keeps s s' := by
  cases h
  exact fabric_keeps (Keeps.refl s) _ _ (fun _ hx => drainRead_keeps hx _)

theorem execCoalesceTimeout_keeps (t : Nat) (k : Fin 16) (h : execCoalesceTimeout t k s = .next s') : Keeps s s' := by
  cases h
  exact fabric_keeps (Keeps.refl s) _ _ (fun _ hx => coalesceEnd_keeps hx _)

theorem execFetchError_keeps (t : Nat) (kind : RingKind) (k : Nat) (h : execFetchError t kind k s = .next s') :
    Keeps s s' := by
  cases h
  exact fabric_keeps (Keeps.refl s) _ _ (fun _ hx => ringFail_keeps hx _ _)

theorem execLinkDown_keeps (t : Nat) (h : execLinkDown t s = .next s') : Keeps s s' := by
  cases h
  exact main_keeps (Keeps.refl s) _ _ (fun _ hx => detached_keeps (linkLost_keeps hx) _)

theorem execLinkUp_keeps (t : Nat) (speed width : Nat) (h : execLinkUp t speed width s = .next s') : Keeps s s' := by
  cases h
  exact main_keeps (Keeps.refl s) _ _ (fun _ hx => ite_keeps hx (linkUp_keeps hx _ _))

theorem execPerstNAssert_keeps (t : Nat) (h : execPerstNAssert t s = .next s') : Keeps s s' := by
  cases h
  exact ite_keeps (perstLow_keeps (perstPin_keeps (at_keeps (Keeps.refl s) _) _))
      (perstPin_keeps (at_keeps (Keeps.refl s) _) _)

theorem execCompletionConfirmed_keeps (t : Nat) (k : Fin 16) (h : execCompletionConfirmed t k s = .next s') : Keeps s s' := by
  cases h
  exact confirmed_keeps (at_keeps (Keeps.refl s) _) _

theorem execLoadScheduleDone_keeps (t : Nat) (h : execLoadScheduleDone t s = .next s') : Keeps s s' := by
  cases h
  exact main_keeps (Keeps.refl s) _ _ (fun _ hx => loadDone_keeps hx)

theorem execPmcTrigger_keeps (t : Nat) (trig : PmcTrig) (h : execPmcTrigger t trig s = .next s') : Keeps s s' := by
  cases h
  exact main_keeps (Keeps.refl s) _ _ (fun _ hx => pmcTrigger_keeps hx _)

theorem execPmcResult_keeps (t : Nat) (outs : List FiltOut) (h : execPmcResult t outs s = .next s') : Keeps s s' := by
  cases h
  exact main_keeps (Keeps.refl s) _ _ (fun _ hx => pmcResult_keeps hx _)

theorem execPmcInjHwTrigger_keeps (t : Nat) (j : Fin 4) (src : Nat) (h : execPmcInjHwTrigger t j src s = .next s') :
    Keeps s s' := by
  cases h
  exact main_keeps (Keeps.refl s) _ _ (fun _ hx => injHw_keeps hx _ _)

theorem execPmcInjResult_keeps (t : Nat) (outs : List FiltOut) (h : execPmcInjResult t outs s = .next s') : Keeps s s' := by
  cases h
  exact main_keeps (Keeps.refl s) _ _ (fun _ hx => injResult_keeps hx _)

theorem execPmcCalDone_keeps (t : Nat) (r : List PgaMeas) (nvOk : Bool) (h : execPmcCalDone t r nvOk s = .next s') :
    Keeps s s' := by
  cases h
  exact main_keeps (Keeps.refl s) _ _ (fun _ hx => pmcCalDone_keeps hx _ _)

theorem execRefFail_keeps (t : Nat) (outside : Bool) (h : execRefFail t outside s = .next s') : Keeps s s' := by
  cases h
  exact main_keeps (Keeps.refl s) _ _ (fun _ hx => refMove_keeps hx _)

theorem execDieTempUpdate_keeps (t : Nat) (temp : Int) (h : execDieTempUpdate t temp s = .next s') : Keeps s s' := by
  cases h
  exact main_keeps (Keeps.refl s) _ _ (fun _ hx => dieTemp_keeps hx _)

theorem execWeirCrossing_keeps (t : Nat) (m : Fin 16) (uV : Int) (h : execWeirCrossing t m uV s = .next s') : Keeps s s' := by
  cases h
  exact ite_keeps (weirCross_keeps (at_keeps (Keeps.refl s) _) _ _) (modW_keeps (at_keeps (Keeps.refl s) _) _ _)

theorem execWeirAutoClear_keeps (t : Nat) (m : Fin 16) (h : execWeirAutoClear t m s = .next s') : Keeps s s' := by
  cases h
  exact main_keeps (Keeps.refl s) _ _ (fun _ hx => weirAuto_keeps hx _ _)

theorem execWeirSettleEnd_keeps (t : Nat) (_m : Fin 16) (h : execWeirSettleEnd t _m s = .next s') : Keeps s s' := by
  cases h
  exact main_keeps (Keeps.refl s) _ _ (fun _ hx => hx)

theorem execResolved_keeps (t : Nat) (m : Fin 16) (uV : Int) (h : execResolved t m uV s = .next s') : Keeps s s' := by
  cases h
  exact main_keeps (Keeps.refl s) _ _ (fun _ hx => weirResolved_keeps hx _ _)

theorem execRbCheck_keeps (t : Nat) (m : Fin 16) (upper : Bool) (h : execRbCheck t m upper s = .next s') : Keeps s s' := by
  cases h
  exact main_keeps (Keeps.refl s) _ _ (fun _ hx => rbCheck_keeps hx _ _)

theorem execRbStale_keeps (t : Nat) (m : Fin 16) (upper : Bool) (h : execRbStale t m upper s = .next s') : Keeps s s' := by
  cases h
  exact main_keeps (Keeps.refl s) _ _ (fun _ hx => rbStale_keeps hx _ _)

theorem execVddA18Return_keeps (t : Nat) (h : execVddA18Return t s = .next s') : Keeps s s' := by
  cases h
  exact main_keeps (Keeps.refl s) _ _ (fun _ hx => vddA18_keeps hx)

theorem execWeirGateOpen_keeps (t : Nat) (m : Fin 16) (h : execWeirGateOpen t m s = .next s') : Keeps s s' := by
  cases h
  exact main_keeps (Keeps.refl s) _ _ (fun _ hx => weirGateOpen_keeps hx _ _)

theorem execFaultCapture_keeps (t : Nat) (src : Fin 128) (h : execFaultCapture t src s = .next s') : Keeps s s' := by
  cases h
  exact ite_keeps (aonLatch_keeps (at_keeps (Keeps.refl s) _))
      (main_keeps (Keeps.refl s) _ _ (fun _ hx => faultCapture_keeps (ite_keeps (lncSync_keeps hx _) hx) _))

theorem execWireFault_keeps (t : Nat) (src : Fin 128) (h : execWireFault t src s = .next s') : Keeps s s' := by
  cases h
  exact main_keeps (Keeps.refl s) _ _ (fun _ hx => wireCapture_keeps hx _)

theorem execWindowClose_keeps (t : Nat) (h : execWindowClose t s = .next s') : Keeps s s' := by
  cases h
  exact main_keeps (Keeps.refl s) _ _ (fun _ hx => windowClose_keeps hx)

theorem execInjectionWindowEnd_keeps (t : Nat) (realError : Bool) (h : execInjectionWindowEnd t realError s = .next s') :
    Keeps s s' := by
  cases h
  exact main_keeps (Keeps.refl s) _ _ (fun _ hx => injEnd_keeps hx _)

theorem execFltSelftest_keeps (t : Nat) (pass : Bool) (h : execFltSelftest t pass s = .next s') : Keeps s s' := by
  cases h
  exact main_keeps (Keeps.refl s) _ _ (fun _ hx => ite_keeps hx (present_keeps hx _))

theorem execPolWdt_keeps (t : Nat) (h : execPolWdt t s = .next s') : Keeps s s' := by
  cases h
  exact main_keeps (Keeps.refl s) _ _ (fun _ hx => present_keeps hx _)

theorem execAppWdt_keeps (t : Nat) (h : execAppWdt t s = .next s') : Keeps s s' := by
  cases h
  exact main_keeps (Keeps.refl s) _ _ (fun _ hx => present_keeps hx _)

theorem execSourceCleared_keeps (t : Nat) (src : Fin 128) (h : execSourceCleared t src s = .next s') : Keeps s s' := by
  cases h
  exact main_keeps (Keeps.refl s) _ _ (fun _ hx => srcCleared_keeps hx _)

theorem execAppCoresReleased_keeps (t : Nat) (h : execAppCoresReleased t s = .next s') : Keeps s s' := by
  cases h
  exact main_keeps (Keeps.refl s) _ _ (fun _ hx => appReleased_keeps hx)

theorem execRefreshTick_keeps (t : Nat) (c : Fin 4) (h : execRefreshTick t c s = .next s') : Keeps s s' := by
  cases h
  exact main_keeps (Keeps.refl s) _ _ (fun _ hx => refreshTick_keeps hx _)

theorem execRefreshWindow_keeps (t : Nat) (c : Fin 4) (h : execRefreshWindow t c s = .next s') : Keeps s s' := by
  cases h
  exact main_keeps (Keeps.refl s) _ _ (fun _ hx => refreshWindow_keeps hx _)

theorem execMr4Poll_keeps (t : Nat) (c : Fin 4) (field : BitVec 5) (h : execMr4Poll t c field s = .next s') : Keeps s s' := by
  cases h
  exact main_keeps (Keeps.refl s) _ _ (fun _ hx => mr4Poll_keeps hx _ _)

theorem execSrEnter_keeps (t : Nat) (c : Fin 4) (h : execSrEnter t c s = .next s') : Keeps s s' := by
  cases h
  exact main_keeps (Keeps.refl s) _ _ (fun _ hx => srEnter_keeps hx _)

theorem execSrExit_keeps (t : Nat) (c : Fin 4) (beforeSre : Bool) (issued : Nat)
    (h : execSrExit t c beforeSre issued s = .next s') : Keeps s s' := by
  cases h
  exact main_keeps (Keeps.refl s) _ _ (fun _ hx => srExit_keeps hx _ _ _)

theorem execEyeMonitorRound_keeps (t : Nat) (c : Fin 4) (pass : Bool) (h : execEyeMonitorRound t c pass s = .next s') :
    Keeps s s' := by
  cases h
  exact main_keeps (Keeps.refl s) _ _ (fun _ hx => eyeRound_keeps hx _ _)

theorem execScrubPass_keeps (t : Nat) (errs : List MemErr) (h : execScrubPass t errs s = .next s') : Keeps s s' := by
  cases h
  exact main_keeps (Keeps.refl s) _ _ (fun _ hx => scrubPass_keeps hx _)

theorem execBermInitDone_keeps (t : Nat) (h : execBermInitDone t s = .next s') : Keeps s s' := by
  cases h
  exact main_keeps (Keeps.refl s) _ _ (fun _ hx => bermInit_keeps hx)

theorem execMemInitDone_keeps (t : Nat) (h : execMemInitDone t s = .next s') : Keeps s s' := by
  cases h
  exact main_keeps (Keeps.refl s) _ _ (fun _ hx => memInitEnd_keeps hx)

theorem execTestRunDone_keeps (t : Nat) (fail : BitVec 26) (h : execTestRunDone t fail s = .next s') : Keeps s s' := by
  cases h
  exact main_keeps (Keeps.refl s) _ _ (fun _ hx => testEnd_keeps hx _)

theorem execHistDone_keeps (t : Nat) (h : execHistDone t s = .next s') : Keeps s s' := by
  cases h
  exact main_keeps (Keeps.refl s) _ _ (fun _ hx => dumpEnd_keeps hx)

theorem execLadderEntry_keeps (t : Nat) (h : execLadderEntry t s = .next s') : Keeps s s' := by
  cases h
  exact main_keeps (Keeps.refl s) _ _ (fun _ hx => ladderEntry_keeps hx)

theorem execLadderExit_keeps (t : Nat) (h : execLadderExit t s = .next s') : Keeps s s' := by
  cases h
  exact main_keeps (Keeps.refl s) _ _ (fun _ hx => ladderLeave_keeps hx)

theorem execBarAccessWake_keeps (t : Nat) (h : execBarAccessWake t s = .next s') : Keeps s s' := by
  cases h
  exact main_keeps (Keeps.refl s) _ _ (fun _ hx => accessWake_keeps hx)

theorem execWakeN_keeps (t : Nat) (h : execWakeN t s = .next s') : Keeps s s' := by
  cases h
  exact wake_keeps (at_keeps (Keeps.refl s) _) _ _ _

theorem execRtcAlarm_keeps (t : Nat) (h : execRtcAlarm t s = .next s') : Keeps s s' := by
  cases h
  exact rtcWake_keeps (at_keeps (Keeps.refl s) _)

theorem execPowerSequenceStep_keeps (t : Nat) (railsGood : Bool) (h : execPowerSequenceStep t railsGood s = .next s') :
    Keeps s s' := by
  cases h
  exact powerStep_keeps (at_keeps (Keeps.refl s) _) _

theorem execRailFail_keeps (t : Nat) (h : execRailFail t s = .next s') : Keeps s s' := by
  cases h
  exact railFail_keeps (at_keeps (Keeps.refl s) _)

theorem execBootStepDone_keeps (t : Nat) (info : BootInfo) (h : execBootStepDone t info s = .next s') : Keeps s s' := by
  cases h
  exact ite_keeps (bootStep_keeps (at_keeps (Keeps.refl s) _) _)
      (main_keeps (Keeps.refl s) _ _ (fun _ hx => bootStep_keeps hx _))

theorem execPorstNAssert_keeps (t : Nat) (h : execPorstNAssert t s = .next s') : Keeps s s' := by
  cases h
  exact porstLow_keeps (at_keeps (Keeps.refl s) _)

theorem execPorstNRelease_keeps (t : Nat) (h : execPorstNRelease t s = .next s') : Keeps s s' := by
  cases h
  exact porstHigh_keeps (at_keeps (Keeps.refl s) _)

theorem execVddAonRise_keeps (t : Nat) (h : execVddAonRise t s = .next s') : Keeps s s' := by
  cases h
  exact aonRise_keeps (at_keeps (Keeps.refl s) _)

theorem execVddAonFall_keeps (t : Nat) (h : execVddAonFall t s = .next s') : Keeps s s' := by
  cases h
  exact aonFall_keeps (at_keeps (Keeps.refl s) _)

theorem execPwrUvRail_keeps (t : Nat) (rail : RailDip) (h : execPwrUvRail t rail s = .next s') : Keeps s s' := by
  cases h
  exact railDip_keeps (at_keeps (Keeps.refl s) t) _

theorem execPerstNRelease_keeps (t : Nat) (h : execPerstNRelease t s = .next s') : Keeps s s' := by
  cases h
  exact wake_keeps (perstPin_keeps (at_keeps (Keeps.refl s) _) _) _ _ _

theorem execPcieReceiverDetected_keeps (t : Nat) (h : execPcieReceiverDetected t s = .next s') : Keeps s s' := by
  cases h
  exact wake_keeps (at_keeps (Keeps.refl s) _) _ _ _

theorem execNvWriteDone_keeps (t : Nat) (verifyOk : Bool) (h : execNvWriteDone t verifyOk s = .next s') : Keeps s s' := by
  cases h
  exact main_keeps (Keeps.refl s) _ _ (fun _ hx => nvDone_keeps hx _)

end Sys2Proof.Machine
end

