-- ==== Sys2Proof/Laws/Blocks.lean ====
section
/-! SUPPORT. The register block (R543) of each register that an operation writes. -/

namespace Sys2Proof.Machine

-- One proof at a time: in parallel the package as one text would need too many threads.
set_option Elab.async false

@[simp] theorem SYS_RESET_CAUSE_LAST_blk : SYS_RESET_CAUSE_LAST.off / 65536 = 0 := by
  decide

@[simp] theorem SYS_FW_VER_APP_blk : SYS_FW_VER_APP.off / 65536 = 0 := by
  decide

@[simp] theorem SYS_FW_VER_GNOWA_blk : SYS_FW_VER_GNOWA.off / 65536 = 0 := by
  decide

@[simp] theorem SYS_EVENTS_CFG_ERR_blk : SYS_EVENTS_CFG_ERR.off / 65536 = 0 := by
  decide

@[simp] theorem PWR_MODE_KEY_OK_blk : PWR_MODE_KEY_OK.off / 65536 = 1 := by
  decide

@[simp] theorem PWR_MODE_LADDER_blk : PWR_MODE_LADDER.off / 65536 = 1 := by
  decide

@[simp] theorem PWR_MODE_MODE_blk : PWR_MODE_MODE.off / 65536 = 1 := by
  decide

@[simp] theorem PWR_MODE_PREV_blk : PWR_MODE_PREV.off / 65536 = 1 := by
  decide

@[simp] theorem PWR_EVENTS_BOOT_FAIL_blk : PWR_EVENTS_BOOT_FAIL.off / 65536 = 1 := by
  decide

@[simp] theorem PWR_EVENTS_CFG_ERR_blk : PWR_EVENTS_CFG_ERR.off / 65536 = 1 := by
  decide

@[simp] theorem PWR_EVENTS_KEY_FAIL_blk : PWR_EVENTS_KEY_FAIL.off / 65536 = 1 := by
  decide

@[simp] theorem PWR_EVENTS_MODE_CHANGE_blk : PWR_EVENTS_MODE_CHANGE.off / 65536 = 1 := by
  decide

@[simp] theorem PWR_EVENTS_RAIL_FAIL_blk : PWR_EVENTS_RAIL_FAIL.off / 65536 = 1 := by
  decide

@[simp] theorem PWR_EVENTS_WAKE_blk : PWR_EVENTS_WAKE.off / 65536 = 1 := by
  decide

@[simp] theorem PWR_LAT_TOL_LO_NS_blk : PWR_LAT_TOL_LO_NS.off / 65536 = 1 := by
  decide

@[simp] theorem PWR_LAT_TOL_HI_NS_blk : PWR_LAT_TOL_HI_NS.off / 65536 = 1 := by
  decide

@[simp] theorem PWR_BOOT_STATUS_APP_SLOT_blk : PWR_BOOT_STATUS_APP_SLOT.off / 65536 = 1 := by
  decide

@[simp] theorem PWR_BOOT_STATUS_CODE_blk : PWR_BOOT_STATUS_CODE.off / 65536 = 1 := by
  decide

@[simp] theorem PWR_BOOT_STATUS_FAST_blk : PWR_BOOT_STATUS_FAST.off / 65536 = 1 := by
  decide

@[simp] theorem PWR_BOOT_STATUS_GNOWA_SLOT_blk : PWR_BOOT_STATUS_GNOWA_SLOT.off / 65536 = 1 := by
  decide

@[simp] theorem PWR_BOOT_STATUS_MS_blk : PWR_BOOT_STATUS_MS.off / 65536 = 1 := by
  decide

@[simp] theorem PWR_BOOT_STATUS_SCHED_FAIL_blk : PWR_BOOT_STATUS_SCHED_FAIL.off / 65536 = 1 := by
  decide

@[simp] theorem PWR_STATUS_PG_blk : PWR_STATUS_PG.off / 65536 = 1 := by
  decide

@[simp] theorem PWR_RES_MS_blk (i : Nat) : (PWR_RES_MS i).off / 65536 = 1 := by
  simp only [PWR_RES_MS, PWR_RES]; omega

@[simp] theorem PWR_WAKE_CAUSE_SOURCE_blk : PWR_WAKE_CAUSE_SOURCE.off / 65536 = 1 := by
  decide

@[simp] theorem TIM_STATUS_ALIGN_PENDING_blk : TIM_STATUS_ALIGN_PENDING.off / 65536 = 2 := by
  decide

@[simp] theorem TIM_STATUS_CLK_STATE_blk : TIM_STATUS_CLK_STATE.off / 65536 = 2 := by
  decide

@[simp] theorem TIM_STATUS_GT_VALID_blk : TIM_STATUS_GT_VALID.off / 65536 = 2 := by
  decide

@[simp] theorem TIM_STATUS_PPS_PRESENT_blk : TIM_STATUS_PPS_PRESENT.off / 65536 = 2 := by
  decide

@[simp] theorem TIM_STATUS_REF_PRESENT_blk : TIM_STATUS_REF_PRESENT.off / 65536 = 2 := by
  decide

@[simp] theorem TIM_STATUS_SYNC_PRESENT_blk : TIM_STATUS_SYNC_PRESENT.off / 65536 = 2 := by
  decide

@[simp] theorem TIM_EVENTS_ALIGN_ABORT_blk : TIM_EVENTS_ALIGN_ABORT.off / 65536 = 2 := by
  decide

@[simp] theorem TIM_EVENTS_ALIGN_DONE_blk : TIM_EVENTS_ALIGN_DONE.off / 65536 = 2 := by
  decide

@[simp] theorem TIM_EVENTS_CFG_ERR_blk : TIM_EVENTS_CFG_ERR.off / 65536 = 2 := by
  decide

@[simp] theorem TIM_EVENTS_HOLD_EXPIRED_blk : TIM_EVENTS_HOLD_EXPIRED.off / 65536 = 2 := by
  decide

@[simp] theorem TIM_EVENTS_LAUNCH_EARLY_blk : TIM_EVENTS_LAUNCH_EARLY.off / 65536 = 2 := by
  decide

@[simp] theorem TIM_EVENTS_LAUNCH_LATE_blk : TIM_EVENTS_LAUNCH_LATE.off / 65536 = 2 := by
  decide

@[simp] theorem TIM_EVENTS_LOCK_blk : TIM_EVENTS_LOCK.off / 65536 = 2 := by
  decide

@[simp] theorem TIM_EVENTS_PPS_DEV_blk : TIM_EVENTS_PPS_DEV.off / 65536 = 2 := by
  decide

@[simp] theorem TIM_EVENTS_PPS_LOSS_blk : TIM_EVENTS_PPS_LOSS.off / 65536 = 2 := by
  decide

@[simp] theorem TIM_EVENTS_REF_LOSS_blk : TIM_EVENTS_REF_LOSS.off / 65536 = 2 := by
  decide

@[simp] theorem TIM_EVENTS_SYNC_DEV_blk : TIM_EVENTS_SYNC_DEV.off / 65536 = 2 := by
  decide

@[simp] theorem TIM_EVENTS_SYNC_LOSS_blk : TIM_EVENTS_SYNC_LOSS.off / 65536 = 2 := by
  decide

@[simp] theorem TIM_ALIGN_ARM_blk : TIM_ALIGN_ARM.off / 65536 = 2 := by
  decide

@[simp] theorem TIM_PPS_ERR_ERR_blk : TIM_PPS_ERR_ERR.off / 65536 = 2 := by
  decide

@[simp] theorem TIM_TRIM_TRIM_blk : TIM_TRIM_TRIM.off / 65536 = 2 := by
  decide

@[simp] theorem TIM_EPOCH_HI_EPOCH_blk : TIM_EPOCH_HI_EPOCH.off / 65536 = 2 := by
  decide

@[simp] theorem TIM_SYNC_ERR_ERR_blk : TIM_SYNC_ERR_ERR.off / 65536 = 2 := by
  decide

@[simp] theorem TIM_FE_SHOT_LO_SHOT_blk (i : Nat) : (TIM_FE_SHOT_LO_SHOT i).off / 65536 = 2 := by
  simp only [TIM_FE_SHOT_LO_SHOT, TIM_FE_SHOT_LO]; omega

@[simp] theorem TIM_FE_SHOT_HI_SHOT_blk (i : Nat) : (TIM_FE_SHOT_HI_SHOT i).off / 65536 = 2 := by
  simp only [TIM_FE_SHOT_HI_SHOT, TIM_FE_SHOT_HI]; omega

@[simp] theorem TIM_FE_SHOT_HI_VALID_blk (i : Nat) : (TIM_FE_SHOT_HI_VALID i).off / 65536 = 2 := by
  simp only [TIM_FE_SHOT_HI_VALID, TIM_FE_SHOT_HI]; omega

@[simp] theorem TIM_FE_LAST_GT_LO_GT_blk (i : Nat) : (TIM_FE_LAST_GT_LO_GT i).off / 65536 = 2 := by
  simp only [TIM_FE_LAST_GT_LO_GT, TIM_FE_LAST_GT_LO]; omega

@[simp] theorem TIM_FE_LAST_GT_HI_GT_blk (i : Nat) : (TIM_FE_LAST_GT_HI_GT i).off / 65536 = 2 := by
  simp only [TIM_FE_LAST_GT_HI_GT, TIM_FE_LAST_GT_HI]; omega

@[simp] theorem TIM_FE_EARLY_CNT_COUNT_blk (i : Nat) : (TIM_FE_EARLY_CNT_COUNT i).off / 65536 = 2 := by
  simp only [TIM_FE_EARLY_CNT_COUNT, TIM_FE_EARLY_CNT]; omega

@[simp] theorem TIM_FE_LATE_CNT_COUNT_blk (i : Nat) : (TIM_FE_LATE_CNT_COUNT i).off / 65536 = 2 := by
  simp only [TIM_FE_LATE_CNT_COUNT, TIM_FE_LATE_CNT]; omega

@[simp] theorem LNC_STATUS_PAIR_NEXT_blk (i : Nat) : (LNC_STATUS_PAIR_NEXT i).off / 65536 = 3 := by
  simp only [LNC_STATUS_PAIR_NEXT, LNC_STATUS]; omega

@[simp] theorem LNC_STATUS_STATE_blk (i : Nat) : (LNC_STATUS_STATE i).off / 65536 = 3 := by
  simp only [LNC_STATUS_STATE, LNC_STATUS]; omega

@[simp] theorem LNC_TRIP_CAUSE_blk (i : Nat) : (LNC_TRIP_CAUSE i) / 65536 = 3 := by
  simp only [LNC_TRIP_CAUSE]; omega

@[simp] theorem LNC_EVENTS_ARMED_blk (i : Nat) : (LNC_EVENTS_ARMED i).off / 65536 = 3 := by
  simp only [LNC_EVENTS_ARMED, LNC_EVENTS]; omega

@[simp] theorem LNC_EVENTS_ARM_FAIL_blk (i : Nat) : (LNC_EVENTS_ARM_FAIL i).off / 65536 = 3 := by
  simp only [LNC_EVENTS_ARM_FAIL, LNC_EVENTS]; omega

@[simp] theorem LNC_EVENTS_CFG_ERR_blk (i : Nat) : (LNC_EVENTS_CFG_ERR i).off / 65536 = 3 := by
  simp only [LNC_EVENTS_CFG_ERR, LNC_EVENTS]; omega

@[simp] theorem LNC_EVENTS_DISARMED_blk (i : Nat) : (LNC_EVENTS_DISARMED i).off / 65536 = 3 := by
  simp only [LNC_EVENTS_DISARMED, LNC_EVENTS]; omega

@[simp] theorem LNC_EVENTS_ENV_CLAMP_blk (i : Nat) : (LNC_EVENTS_ENV_CLAMP i).off / 65536 = 3 := by
  simp only [LNC_EVENTS_ENV_CLAMP, LNC_EVENTS]; omega

@[simp] theorem LNC_EVENTS_TRIPPED_blk (i : Nat) : (LNC_EVENTS_TRIPPED i).off / 65536 = 3 := by
  simp only [LNC_EVENTS_TRIPPED, LNC_EVENTS]; omega

@[simp] theorem LNC_ARM_RESULT_CODE_blk (i : Nat) : (LNC_ARM_RESULT_CODE i).off / 65536 = 3 := by
  simp only [LNC_ARM_RESULT_CODE, LNC_ARM_RESULT]; omega

@[simp] theorem LNC_CLAMP_CNT_COUNT_blk (i : Nat) : (LNC_CLAMP_CNT_COUNT i).off / 65536 = 3 := by
  simp only [LNC_CLAMP_CNT_COUNT, LNC_CLAMP_CNT]; omega

@[simp] theorem LNC_DUTY_MEAS_SAMPLES_blk (i : Nat) : (LNC_DUTY_MEAS_SAMPLES i).off / 65536 = 3 := by
  simp only [LNC_DUTY_MEAS_SAMPLES, LNC_DUTY_MEAS]; omega

@[simp] theorem LNC_TRIP_GT_LO_GT_blk (i : Nat) : (LNC_TRIP_GT_LO_GT i).off / 65536 = 3 := by
  simp only [LNC_TRIP_GT_LO_GT, LNC_TRIP_GT_LO]; omega

@[simp] theorem LNC_TRIP_GT_HI_GT_blk (i : Nat) : (LNC_TRIP_GT_HI_GT i).off / 65536 = 3 := by
  simp only [LNC_TRIP_GT_HI_GT, LNC_TRIP_GT_HI]; omega

@[simp] theorem ACQ_STATUS_CAL_BUSY_blk : ACQ_STATUS_CAL_BUSY.off / 65536 = 4 := by
  decide

@[simp] theorem ACQ_STATUS_CAL_PHASE_blk : ACQ_STATUS_CAL_PHASE.off / 65536 = 4 := by
  decide

@[simp] theorem ACQ_STATUS_IQ_CONV_blk : ACQ_STATUS_IQ_CONV.off / 65536 = 4 := by
  decide

@[simp] theorem ACQ_EVENTS_CAL_ABORT_blk : ACQ_EVENTS_CAL_ABORT.off / 65536 = 4 := by
  decide

@[simp] theorem ACQ_EVENTS_CAL_DONE_blk : ACQ_EVENTS_CAL_DONE.off / 65536 = 4 := by
  decide

@[simp] theorem ACQ_EVENTS_CAL_PARTIAL_blk : ACQ_EVENTS_CAL_PARTIAL.off / 65536 = 4 := by
  decide

@[simp] theorem ACQ_EVENTS_CFG_ERR_blk : ACQ_EVENTS_CFG_ERR.off / 65536 = 4 := by
  decide

@[simp] theorem ACQ_EVENTS_CH_FAIL_blk : ACQ_EVENTS_CH_FAIL.off / 65536 = 4 := by
  decide

@[simp] theorem ACQ_EVENTS_DRIFT_blk : ACQ_EVENTS_DRIFT.off / 65536 = 4 := by
  decide

@[simp] theorem ACQ_EVENTS_IQ_CONV_blk : ACQ_EVENTS_IQ_CONV.off / 65536 = 4 := by
  decide

@[simp] theorem ACQ_EVENTS_NV_FAIL_blk : ACQ_EVENTS_NV_FAIL.off / 65536 = 4 := by
  decide

@[simp] theorem ACQ_EVENTS_OVR_blk : ACQ_EVENTS_OVR.off / 65536 = 4 := by
  decide

@[simp] theorem ACQ_CAL_RESULT_CODE_blk : ACQ_CAL_RESULT_CODE.off / 65536 = 4 := by
  decide

@[simp] theorem ACQ_CAL_RESULT_TEMP_blk : ACQ_CAL_RESULT_TEMP.off / 65536 = 4 := by
  decide

@[simp] theorem ACQ_CAL_FAIL_blk : ACQ_CAL_FAIL / 65536 = 4 := by
  decide

@[simp] theorem ACQ_CALDAC_CFG_LOOP_blk : ACQ_CALDAC_CFG_LOOP.off / 65536 = 4 := by
  decide

@[simp] theorem ACQ_CCH_CFG_EN_blk (i : Nat) : (ACQ_CCH_CFG_EN i).off / 65536 = 4 := by
  simp only [ACQ_CCH_CFG_EN, ACQ_CCH_CFG]; omega

@[simp] theorem ACQ_CCH_STAT_CAL_ABORT_blk (i : Nat) : (ACQ_CCH_STAT_CAL_ABORT i).off / 65536 = 4 := by
  simp only [ACQ_CCH_STAT_CAL_ABORT, ACQ_CCH_STAT]; omega

@[simp] theorem ACQ_CCH_STAT_CAL_FAIL_blk (i : Nat) : (ACQ_CCH_STAT_CAL_FAIL i).off / 65536 = 4 := by
  simp only [ACQ_CCH_STAT_CAL_FAIL, ACQ_CCH_STAT]; omega

@[simp] theorem ACQ_CCH_STAT_DRIFT_blk (i : Nat) : (ACQ_CCH_STAT_DRIFT i).off / 65536 = 4 := by
  simp only [ACQ_CCH_STAT_DRIFT, ACQ_CCH_STAT]; omega

@[simp] theorem ACQ_CCH_STAT_OVR_blk (i : Nat) : (ACQ_CCH_STAT_OVR i).off / 65536 = 4 := by
  simp only [ACQ_CCH_STAT_OVR, ACQ_CCH_STAT]; omega

@[simp] theorem ACQ_CCH_OVR_CNT_COUNT_blk (i : Nat) : (ACQ_CCH_OVR_CNT_COUNT i).off / 65536 = 4 := by
  simp only [ACQ_CCH_OVR_CNT_COUNT, ACQ_CCH_OVR_CNT]; omega

@[simp] theorem ACQ_ICH_CFG_EN_blk (i : Nat) : (ACQ_ICH_CFG_EN i).off / 65536 = 4 := by
  simp only [ACQ_ICH_CFG_EN, ACQ_ICH_CFG]; omega

@[simp] theorem ACQ_ICH_STAT_CAL_ABORT_blk (i : Nat) : (ACQ_ICH_STAT_CAL_ABORT i).off / 65536 = 4 := by
  simp only [ACQ_ICH_STAT_CAL_ABORT, ACQ_ICH_STAT]; omega

@[simp] theorem ACQ_ICH_STAT_CAL_FAIL_blk (i : Nat) : (ACQ_ICH_STAT_CAL_FAIL i).off / 65536 = 4 := by
  simp only [ACQ_ICH_STAT_CAL_FAIL, ACQ_ICH_STAT]; omega

@[simp] theorem ACQ_ICH_STAT_DRIFT_blk (i : Nat) : (ACQ_ICH_STAT_DRIFT i).off / 65536 = 4 := by
  simp only [ACQ_ICH_STAT_DRIFT, ACQ_ICH_STAT]; omega

@[simp] theorem ACQ_ICH_STAT_OVR_blk (i : Nat) : (ACQ_ICH_STAT_OVR i).off / 65536 = 4 := by
  simp only [ACQ_ICH_STAT_OVR, ACQ_ICH_STAT]; omega

@[simp] theorem ACQ_ICH_OVR_CNT_COUNT_blk (i : Nat) : (ACQ_ICH_OVR_CNT_COUNT i).off / 65536 = 4 := by
  simp only [ACQ_ICH_OVR_CNT_COUNT, ACQ_ICH_OVR_CNT]; omega

@[simp] theorem ACQ_CCH_CALF_OG_GAIN_CAL_blk (i j : Nat) : (ACQ_CCH_CALF_OG_GAIN_CAL i j).off / 65536 = 4 := by
  simp only [ACQ_CCH_CALF_OG_GAIN_CAL, ACQ_CCH_CALF_OG]; omega

@[simp] theorem ACQ_CCH_CALF_OG_OFS_blk (i j : Nat) : (ACQ_CCH_CALF_OG_OFS i j).off / 65536 = 4 := by
  simp only [ACQ_CCH_CALF_OG_OFS, ACQ_CCH_CALF_OG]; omega

@[simp] theorem ACQ_CCH_CALF_SKEW_SKEW_blk (i j : Nat) : (ACQ_CCH_CALF_SKEW_SKEW i j).off / 65536 = 4 := by
  simp only [ACQ_CCH_CALF_SKEW_SKEW, ACQ_CCH_CALF_SKEW]; omega

@[simp] theorem ACQ_ICH_CALF_OG_OFS_blk (i : Nat) : (ACQ_ICH_CALF_OG_OFS i).off / 65536 = 4 := by
  simp only [ACQ_ICH_CALF_OG_OFS, ACQ_ICH_CALF_OG]; omega

@[simp] theorem ACQ_IQ_A_A_blk (i : Nat) : (ACQ_IQ_A_A i).off / 65536 = 4 := by
  simp only [ACQ_IQ_A_A, ACQ_IQ_A]; omega

@[simp] theorem ACQ_IQ_B_B_blk (i : Nat) : (ACQ_IQ_B_B i).off / 65536 = 4 := by
  simp only [ACQ_IQ_B_B, ACQ_IQ_B]; omega

@[simp] theorem PHS_EVENTS_CFG_ERR_blk (i : Nat) : (PHS_EVENTS_CFG_ERR i).off / 65536 = 5 := by
  simp only [PHS_EVENTS_CFG_ERR, PHS_EVENTS]; omega

@[simp] theorem PHS_EVENTS_CH_SAT_blk (i : Nat) : (PHS_EVENTS_CH_SAT i).off / 65536 = 5 := by
  simp only [PHS_EVENTS_CH_SAT, PHS_EVENTS]; omega

@[simp] theorem PHS_EVENTS_COMB_SAT_blk (i : Nat) : (PHS_EVENTS_COMB_SAT i).off / 65536 = 5 := by
  simp only [PHS_EVENTS_COMB_SAT, PHS_EVENTS]; omega

@[simp] theorem PHS_EVENTS_COMP_SAT_blk (i : Nat) : (PHS_EVENTS_COMP_SAT i).off / 65536 = 5 := by
  simp only [PHS_EVENTS_COMP_SAT, PHS_EVENTS]; omega

@[simp] theorem PHS_EVENTS_GAUGE_SAT_blk (i : Nat) : (PHS_EVENTS_GAUGE_SAT i).off / 65536 = 5 := by
  simp only [PHS_EVENTS_GAUGE_SAT, PHS_EVENTS]; omega

@[simp] theorem PHS_EVENTS_IQ_SAT_blk (i : Nat) : (PHS_EVENTS_IQ_SAT i).off / 65536 = 5 := by
  simp only [PHS_EVENTS_IQ_SAT, PHS_EVENTS]; omega

@[simp] theorem PHS_EVENTS_RESTART_blk (i : Nat) : (PHS_EVENTS_RESTART i).off / 65536 = 5 := by
  simp only [PHS_EVENTS_RESTART, PHS_EVENTS]; omega

@[simp] theorem PHS_EVENTS_SLEW_blk (i : Nat) : (PHS_EVENTS_SLEW i).off / 65536 = 5 := by
  simp only [PHS_EVENTS_SLEW, PHS_EVENTS]; omega

@[simp] theorem PHS_RESTART_EPOCH_EPOCH_blk (i : Nat) : (PHS_RESTART_EPOCH_EPOCH i).off / 65536 = 5 := by
  simp only [PHS_RESTART_EPOCH_EPOCH, PHS_RESTART_EPOCH]; omega

@[simp] theorem PHS_FADE_CNT_COUNT_blk (i : Nat) : (PHS_FADE_CNT_COUNT i).off / 65536 = 5 := by
  simp only [PHS_FADE_CNT_COUNT, PHS_FADE_CNT]; omega

@[simp] theorem PHS_SAT_CNT_COUNT_blk (i : Nat) : (PHS_SAT_CNT_COUNT i).off / 65536 = 5 := by
  simp only [PHS_SAT_CNT_COUNT, PHS_SAT_CNT]; omega

@[simp] theorem PHS_SLEW_CNT_COUNT_blk (i : Nat) : (PHS_SLEW_CNT_COUNT i).off / 65536 = 5 := by
  simp only [PHS_SLEW_CNT_COUNT, PHS_SLEW_CNT]; omega

@[simp] theorem PHS_LAST_SHOT_LO_SHOT_blk (i : Nat) : (PHS_LAST_SHOT_LO_SHOT i).off / 65536 = 5 := by
  simp only [PHS_LAST_SHOT_LO_SHOT, PHS_LAST_SHOT_LO]; omega

@[simp] theorem PHS_LAST_SHOT_HI_SHOT_blk (i : Nat) : (PHS_LAST_SHOT_HI_SHOT i).off / 65536 = 5 := by
  simp only [PHS_LAST_SHOT_HI_SHOT, PHS_LAST_SHOT_HI]; omega

@[simp] theorem ACF_DCB_K_K_blk (i : Nat) : (ACF_DCB_K_K i).off / 65536 = 6 := by
  simp only [ACF_DCB_K_K, ACF_DCB_K]; omega

@[simp] theorem ACF_STATUS_ACTIVE_blk (i : Nat) : (ACF_STATUS_ACTIVE i).off / 65536 = 6 := by
  simp only [ACF_STATUS_ACTIVE, ACF_STATUS]; omega

@[simp] theorem ACF_STATUS_FILLING_blk (i : Nat) : (ACF_STATUS_FILLING i).off / 65536 = 6 := by
  simp only [ACF_STATUS_FILLING, ACF_STATUS]; omega

@[simp] theorem ACF_STATUS_HELD_blk (i : Nat) : (ACF_STATUS_HELD i).off / 65536 = 6 := by
  simp only [ACF_STATUS_HELD, ACF_STATUS]; omega

@[simp] theorem ACF_STATUS_HELD_TARGET_blk (i : Nat) : (ACF_STATUS_HELD_TARGET i).off / 65536 = 6 := by
  simp only [ACF_STATUS_HELD_TARGET, ACF_STATUS]; omega

@[simp] theorem ACF_STATUS_XFADING_blk (i : Nat) : (ACF_STATUS_XFADING i).off / 65536 = 6 := by
  simp only [ACF_STATUS_XFADING, ACF_STATUS]; omega

@[simp] theorem ACF_STATUS_XF_POS_blk (i : Nat) : (ACF_STATUS_XF_POS i).off / 65536 = 6 := by
  simp only [ACF_STATUS_XF_POS, ACF_STATUS]; omega

@[simp] theorem ACF_EVENTS_CFG_ERR_blk (i : Nat) : (ACF_EVENTS_CFG_ERR i).off / 65536 = 6 := by
  simp only [ACF_EVENTS_CFG_ERR, ACF_EVENTS]; omega

@[simp] theorem ACF_EVENTS_FADE_HELD_blk (i : Nat) : (ACF_EVENTS_FADE_HELD i).off / 65536 = 6 := by
  simp only [ACF_EVENTS_FADE_HELD, ACF_EVENTS]; omega

@[simp] theorem ACF_EVENTS_FADE_REPLACED_blk (i : Nat) : (ACF_EVENTS_FADE_REPLACED i).off / 65536 = 6 := by
  simp only [ACF_EVENTS_FADE_REPLACED, ACF_EVENTS]; omega

@[simp] theorem ACF_EVENTS_FILLED_blk (i : Nat) : (ACF_EVENTS_FILLED i).off / 65536 = 6 := by
  simp only [ACF_EVENTS_FILLED, ACF_EVENTS]; omega

@[simp] theorem ACF_EVENTS_LIM_blk (i : Nat) : (ACF_EVENTS_LIM i).off / 65536 = 6 := by
  simp only [ACF_EVENTS_LIM, ACF_EVENTS]; omega

@[simp] theorem ACF_EVENTS_RESTART_blk (i : Nat) : (ACF_EVENTS_RESTART i).off / 65536 = 6 := by
  simp only [ACF_EVENTS_RESTART, ACF_EVENTS]; omega

@[simp] theorem ACF_EVENTS_SAT_blk (i : Nat) : (ACF_EVENTS_SAT i).off / 65536 = 6 := by
  simp only [ACF_EVENTS_SAT, ACF_EVENTS]; omega

@[simp] theorem ACF_EVENTS_XF_DONE_blk (i : Nat) : (ACF_EVENTS_XF_DONE i).off / 65536 = 6 := by
  simp only [ACF_EVENTS_XF_DONE, ACF_EVENTS]; omega

@[simp] theorem ACF_SAT_CNT_COUNT_blk (i : Nat) : (ACF_SAT_CNT_COUNT i).off / 65536 = 6 := by
  simp only [ACF_SAT_CNT_COUNT, ACF_SAT_CNT]; omega

@[simp] theorem ACF_LIM_CNT_COUNT_blk (i : Nat) : (ACF_LIM_CNT_COUNT i).off / 65536 = 6 := by
  simp only [ACF_LIM_CNT_COUNT, ACF_LIM_CNT]; omega

@[simp] theorem ACF_DELAY_LO_NS_blk (i : Nat) : (ACF_DELAY_LO_NS i).off / 65536 = 6 := by
  simp only [ACF_DELAY_LO_NS, ACF_DELAY_LO]; omega

@[simp] theorem ACF_DELAY_HI_NS_blk (i : Nat) : (ACF_DELAY_HI_NS i).off / 65536 = 6 := by
  simp only [ACF_DELAY_HI_NS, ACF_DELAY_HI]; omega

@[simp] theorem ACF_LAST_OUT_LO_SHOT_blk (i : Nat) : (ACF_LAST_OUT_LO_SHOT i).off / 65536 = 6 := by
  simp only [ACF_LAST_OUT_LO_SHOT, ACF_LAST_OUT_LO]; omega

@[simp] theorem ACF_LAST_OUT_HI_SHOT_blk (i : Nat) : (ACF_LAST_OUT_HI_SHOT i).off / 65536 = 6 := by
  simp only [ACF_LAST_OUT_HI_SHOT, ACF_LAST_OUT_HI]; omega

@[simp] theorem DTS_EVENTS_CFG_ERR_blk (i : Nat) : (DTS_EVENTS_CFG_ERR i).off / 65536 = 7 := by
  simp only [DTS_EVENTS_CFG_ERR, DTS_EVENTS]; omega

@[simp] theorem DTS_EVENTS_DISCARD_blk (i : Nat) : (DTS_EVENTS_DISCARD i).off / 65536 = 7 := by
  simp only [DTS_EVENTS_DISCARD, DTS_EVENTS]; omega

@[simp] theorem DTS_EVENTS_DONE_blk (i : Nat) : (DTS_EVENTS_DONE i).off / 65536 = 7 := by
  simp only [DTS_EVENTS_DONE, DTS_EVENTS]; omega

@[simp] theorem DTS_EVENTS_REF_INVALID_blk (i : Nat) : (DTS_EVENTS_REF_INVALID i).off / 65536 = 7 := by
  simp only [DTS_EVENTS_REF_INVALID, DTS_EVENTS]; omega

@[simp] theorem DTS_EVENTS_REF_STALE_blk (i : Nat) : (DTS_EVENTS_REF_STALE i).off / 65536 = 7 := by
  simp only [DTS_EVENTS_REF_STALE, DTS_EVENTS]; omega

@[simp] theorem DTS_EVENTS_RESTART_blk (i : Nat) : (DTS_EVENTS_RESTART i).off / 65536 = 7 := by
  simp only [DTS_EVENTS_RESTART, DTS_EVENTS]; omega

@[simp] theorem DTS_TREF_LAST_TREF_blk (i : Nat) : (DTS_TREF_LAST_TREF i).off / 65536 = 7 := by
  simp only [DTS_TREF_LAST_TREF, DTS_TREF_LAST]; omega

@[simp] theorem DTS_DONE_CNT_COUNT_blk (i : Nat) : (DTS_DONE_CNT_COUNT i).off / 65536 = 7 := by
  simp only [DTS_DONE_CNT_COUNT, DTS_DONE_CNT]; omega

@[simp] theorem DTS_DISCARD_CNT_COUNT_blk (i : Nat) : (DTS_DISCARD_CNT_COUNT i).off / 65536 = 7 := by
  simp only [DTS_DISCARD_CNT_COUNT, DTS_DISCARD_CNT]; omega

@[simp] theorem DTS_LAST_SHOT_LO_SHOT_blk (i : Nat) : (DTS_LAST_SHOT_LO_SHOT i).off / 65536 = 7 := by
  simp only [DTS_LAST_SHOT_LO_SHOT, DTS_LAST_SHOT_LO]; omega

@[simp] theorem DTS_LAST_SHOT_HI_SHOT_blk (i : Nat) : (DTS_LAST_SHOT_HI_SHOT i).off / 65536 = 7 := by
  simp only [DTS_LAST_SHOT_HI_SHOT, DTS_LAST_SHOT_HI]; omega

@[simp] theorem EVT_STATUS_DET_CELLS_blk (i : Nat) : (EVT_STATUS_DET_CELLS i).off / 65536 = 8 := by
  simp only [EVT_STATUS_DET_CELLS, EVT_STATUS]; omega

@[simp] theorem EVT_STATUS_TRACKS_blk (i : Nat) : (EVT_STATUS_TRACKS i).off / 65536 = 8 := by
  simp only [EVT_STATUS_TRACKS, EVT_STATUS]; omega

@[simp] theorem EVT_STATUS_WARMUP_blk (i : Nat) : (EVT_STATUS_WARMUP i).off / 65536 = 8 := by
  simp only [EVT_STATUS_WARMUP, EVT_STATUS]; omega

@[simp] theorem EVT_EVENTS_CFG_ERR_blk (i : Nat) : (EVT_EVENTS_CFG_ERR i).off / 65536 = 8 := by
  simp only [EVT_EVENTS_CFG_ERR, EVT_EVENTS]; omega

@[simp] theorem EVT_EVENTS_ONSET_blk (i : Nat) : (EVT_EVENTS_ONSET i).off / 65536 = 8 := by
  simp only [EVT_EVENTS_ONSET, EVT_EVENTS]; omega

@[simp] theorem EVT_EVENTS_REC_DROP_blk (i : Nat) : (EVT_EVENTS_REC_DROP i).off / 65536 = 8 := by
  simp only [EVT_EVENTS_REC_DROP, EVT_EVENTS]; omega

@[simp] theorem EVT_EVENTS_SPILL_DROP_blk (i : Nat) : (EVT_EVENTS_SPILL_DROP i).off / 65536 = 8 := by
  simp only [EVT_EVENTS_SPILL_DROP, EVT_EVENTS]; omega

@[simp] theorem EVT_EVENTS_TRACK_CONF_blk (i : Nat) : (EVT_EVENTS_TRACK_CONF i).off / 65536 = 8 := by
  simp only [EVT_EVENTS_TRACK_CONF, EVT_EVENTS]; omega

@[simp] theorem EVT_EVENTS_TRACK_DEL_blk (i : Nat) : (EVT_EVENTS_TRACK_DEL i).off / 65536 = 8 := by
  simp only [EVT_EVENTS_TRACK_DEL, EVT_EVENTS]; omega

@[simp] theorem EVT_EVENTS_TRACK_FULL_blk (i : Nat) : (EVT_EVENTS_TRACK_FULL i).off / 65536 = 8 := by
  simp only [EVT_EVENTS_TRACK_FULL, EVT_EVENTS]; omega

@[simp] theorem EVT_EVENTS_TRACK_NEW_blk (i : Nat) : (EVT_EVENTS_TRACK_NEW i).off / 65536 = 8 := by
  simp only [EVT_EVENTS_TRACK_NEW, EVT_EVENTS]; omega

@[simp] theorem EVT_LOSS_CNT_FULL_blk (i : Nat) : (EVT_LOSS_CNT_FULL i).off / 65536 = 8 := by
  simp only [EVT_LOSS_CNT_FULL, EVT_LOSS_CNT]; omega

@[simp] theorem EVT_LOSS_CNT_REC_blk (i : Nat) : (EVT_LOSS_CNT_REC i).off / 65536 = 8 := by
  simp only [EVT_LOSS_CNT_REC, EVT_LOSS_CNT]; omega

@[simp] theorem EVT_LOSS_CNT_SPILL_blk (i : Nat) : (EVT_LOSS_CNT_SPILL i).off / 65536 = 8 := by
  simp only [EVT_LOSS_CNT_SPILL, EVT_LOSS_CNT]; omega

@[simp] theorem EVT_NEXT_ID_ID_blk (i : Nat) : (EVT_NEXT_ID_ID i).off / 65536 = 8 := by
  simp only [EVT_NEXT_ID_ID, EVT_NEXT_ID]; omega

@[simp] theorem TRK_QIN_STATUS_DIR_blk (i : Nat) : (TRK_QIN_STATUS_DIR i).off / 65536 = 9 := by
  simp only [TRK_QIN_STATUS_DIR, TRK_QIN_STATUS]; omega

@[simp] theorem TRK_QIN_STATUS_FAST_blk (i : Nat) : (TRK_QIN_STATUS_FAST i).off / 65536 = 9 := by
  simp only [TRK_QIN_STATUS_FAST, TRK_QIN_STATUS]; omega

@[simp] theorem TRK_QIN_STATUS_ILLEGAL_blk (i : Nat) : (TRK_QIN_STATUS_ILLEGAL i).off / 65536 = 9 := by
  simp only [TRK_QIN_STATUS_ILLEGAL, TRK_QIN_STATUS]; omega

@[simp] theorem TRK_QIN_STATUS_INDEX_MISMATCH_blk (i : Nat) : (TRK_QIN_STATUS_INDEX_MISMATCH i).off / 65536 = 9 := by
  simp only [TRK_QIN_STATUS_INDEX_MISMATCH, TRK_QIN_STATUS]; omega

@[simp] theorem TRK_QIN_STATUS_INDEX_SEEN_blk (i : Nat) : (TRK_QIN_STATUS_INDEX_SEEN i).off / 65536 = 9 := by
  simp only [TRK_QIN_STATUS_INDEX_SEEN, TRK_QIN_STATUS]; omega

@[simp] theorem TRK_QIN_STATUS_LINES_blk (i : Nat) : (TRK_QIN_STATUS_LINES i).off / 65536 = 9 := by
  simp only [TRK_QIN_STATUS_LINES, TRK_QIN_STATUS]; omega

@[simp] theorem TRK_QIN_STATUS_MOVING_blk (i : Nat) : (TRK_QIN_STATUS_MOVING i).off / 65536 = 9 := by
  simp only [TRK_QIN_STATUS_MOVING, TRK_QIN_STATUS]; omega

@[simp] theorem TRK_QIN_STATUS_SPD_VALID_blk (i : Nat) : (TRK_QIN_STATUS_SPD_VALID i).off / 65536 = 9 := by
  simp only [TRK_QIN_STATUS_SPD_VALID, TRK_QIN_STATUS]; omega

@[simp] theorem TRK_QIN_POS_POS_blk (i : Nat) : (TRK_QIN_POS_POS i).off / 65536 = 9 := by
  simp only [TRK_QIN_POS_POS, TRK_QIN_POS]; omega

@[simp] theorem TRK_QIN_SPEED_SPEED_blk (i : Nat) : (TRK_QIN_SPEED_SPEED i).off / 65536 = 9 := by
  simp only [TRK_QIN_SPEED_SPEED, TRK_QIN_SPEED]; omega

@[simp] theorem TRK_QIN_IDX_REF_REF_blk (i : Nat) : (TRK_QIN_IDX_REF_REF i).off / 65536 = 9 := by
  simp only [TRK_QIN_IDX_REF_REF, TRK_QIN_IDX_REF]; omega

@[simp] theorem TRK_QIN_IDX_CAP_CAP_blk (i : Nat) : (TRK_QIN_IDX_CAP_CAP i).off / 65536 = 9 := by
  simp only [TRK_QIN_IDX_CAP_CAP, TRK_QIN_IDX_CAP]; omega

@[simp] theorem TRK_QIN_IDX_ERR_ERR_blk (i : Nat) : (TRK_QIN_IDX_ERR_ERR i).off / 65536 = 9 := by
  simp only [TRK_QIN_IDX_ERR_ERR, TRK_QIN_IDX_ERR]; omega

@[simp] theorem TRK_QIN_ERR_CNT_FAST_blk (i : Nat) : (TRK_QIN_ERR_CNT_FAST i).off / 65536 = 9 := by
  simp only [TRK_QIN_ERR_CNT_FAST, TRK_QIN_ERR_CNT]; omega

@[simp] theorem TRK_QIN_ERR_CNT_ILLEGAL_blk (i : Nat) : (TRK_QIN_ERR_CNT_ILLEGAL i).off / 65536 = 9 := by
  simp only [TRK_QIN_ERR_CNT_ILLEGAL, TRK_QIN_ERR_CNT]; omega

@[simp] theorem TRK_CMP_CFG_EN_blk (i : Nat) : (TRK_CMP_CFG_EN i).off / 65536 = 9 := by
  simp only [TRK_CMP_CFG_EN, TRK_CMP_CFG]; omega

@[simp] theorem TRK_CMP_VALUE_VALUE_blk (i : Nat) : (TRK_CMP_VALUE_VALUE i).off / 65536 = 9 := by
  simp only [TRK_CMP_VALUE_VALUE, TRK_CMP_VALUE]; omega

@[simp] theorem TRK_CMP_DIST_DIST_blk (i : Nat) : (TRK_CMP_DIST_DIST i).off / 65536 = 9 := by
  simp only [TRK_CMP_DIST_DIST, TRK_CMP_DIST]; omega

@[simp] theorem TRK_CMP_EVENTS_BEHIND_blk : TRK_CMP_EVENTS_BEHIND.off / 65536 = 9 := by
  decide

@[simp] theorem TRK_CMP_EVENTS_FIRED_blk : TRK_CMP_EVENTS_FIRED.off / 65536 = 9 := by
  decide

@[simp] theorem TRK_SSI_DATA_DATA_blk (i : Nat) : (TRK_SSI_DATA_DATA i).off / 65536 = 9 := by
  simp only [TRK_SSI_DATA_DATA, TRK_SSI_DATA]; omega

@[simp] theorem TRK_SSI_STATUS_END_ERR_blk (i : Nat) : (TRK_SSI_STATUS_END_ERR i).off / 65536 = 9 := by
  simp only [TRK_SSI_STATUS_END_ERR, TRK_SSI_STATUS]; omega

@[simp] theorem TRK_SSI_STATUS_OVR_blk (i : Nat) : (TRK_SSI_STATUS_OVR i).off / 65536 = 9 := by
  simp only [TRK_SSI_STATUS_OVR, TRK_SSI_STATUS]; omega

@[simp] theorem TRK_SSI_STATUS_START_ERR_blk (i : Nat) : (TRK_SSI_STATUS_START_ERR i).off / 65536 = 9 := by
  simp only [TRK_SSI_STATUS_START_ERR, TRK_SSI_STATUS]; omega

@[simp] theorem TRK_SSI_STATUS_VALID_blk (i : Nat) : (TRK_SSI_STATUS_VALID i).off / 65536 = 9 := by
  simp only [TRK_SSI_STATUS_VALID, TRK_SSI_STATUS]; omega

@[simp] theorem TRK_ENC_TRACK_ID_ID_blk (i : Nat) : (TRK_ENC_TRACK_ID_ID i).off / 65536 = 9 := by
  simp only [TRK_ENC_TRACK_ID_ID, TRK_ENC_TRACK_ID]; omega

@[simp] theorem TRK_ENC_COUNT_COUNT_blk (i : Nat) : (TRK_ENC_COUNT_COUNT i).off / 65536 = 9 := by
  simp only [TRK_ENC_COUNT_COUNT, TRK_ENC_COUNT]; omega

@[simp] theorem TRK_ENC_STATUS_HOLD_blk (i : Nat) : (TRK_ENC_STATUS_HOLD i).off / 65536 = 9 := by
  simp only [TRK_ENC_STATUS_HOLD, TRK_ENC_STATUS]; omega

@[simp] theorem TRK_ENC_STATUS_LAG_blk (i : Nat) : (TRK_ENC_STATUS_LAG i).off / 65536 = 9 := by
  simp only [TRK_ENC_STATUS_LAG, TRK_ENC_STATUS]; omega

@[simp] theorem TRK_ENC_STATUS_RUN_blk (i : Nat) : (TRK_ENC_STATUS_RUN i).off / 65536 = 9 := by
  simp only [TRK_ENC_STATUS_RUN, TRK_ENC_STATUS]; omega

@[simp] theorem TRK_ENC_STATUS_SRC_LOST_blk (i : Nat) : (TRK_ENC_STATUS_SRC_LOST i).off / 65536 = 9 := by
  simp only [TRK_ENC_STATUS_SRC_LOST, TRK_ENC_STATUS]; omega

@[simp] theorem TRK_EVENTS_CFG_ERR_blk : TRK_EVENTS_CFG_ERR.off / 65536 = 9 := by
  decide

@[simp] theorem TRK_EVENTS_CMP_BEHIND_blk : TRK_EVENTS_CMP_BEHIND.off / 65536 = 9 := by
  decide

@[simp] theorem TRK_EVENTS_CMP_FIRED_blk : TRK_EVENTS_CMP_FIRED.off / 65536 = 9 := by
  decide

@[simp] theorem TRK_EVENTS_ENC_LAG_blk : TRK_EVENTS_ENC_LAG.off / 65536 = 9 := by
  decide

@[simp] theorem TRK_EVENTS_ENC_SRC_LOST_blk : TRK_EVENTS_ENC_SRC_LOST.off / 65536 = 9 := by
  decide

@[simp] theorem TRK_EVENTS_FAST_blk : TRK_EVENTS_FAST.off / 65536 = 9 := by
  decide

@[simp] theorem TRK_EVENTS_ILLEGAL_blk : TRK_EVENTS_ILLEGAL.off / 65536 = 9 := by
  decide

@[simp] theorem TRK_EVENTS_INDEX_MISMATCH_blk : TRK_EVENTS_INDEX_MISMATCH.off / 65536 = 9 := by
  decide

@[simp] theorem TRK_EVENTS_MS_EDGE_blk : TRK_EVENTS_MS_EDGE.off / 65536 = 9 := by
  decide

@[simp] theorem TRK_EVENTS_MS_OVF_blk : TRK_EVENTS_MS_OVF.off / 65536 = 9 := by
  decide

@[simp] theorem TRK_EVENTS_SSI_ERR_blk : TRK_EVENTS_SSI_ERR.off / 65536 = 9 := by
  decide

@[simp] theorem TRK_EVENTS_SSI_OVR_blk : TRK_EVENTS_SSI_OVR.off / 65536 = 9 := by
  decide

@[simp] theorem SCH_EVENTS_CAUGHT_UP_blk : SCH_EVENTS_CAUGHT_UP.off / 65536 = 10 := by
  decide

@[simp] theorem SCH_EVENTS_CFG_ERR_blk : SCH_EVENTS_CFG_ERR.off / 65536 = 10 := by
  decide

@[simp] theorem SCH_EVENTS_CMT_ABORT_blk : SCH_EVENTS_CMT_ABORT.off / 65536 = 10 := by
  decide

@[simp] theorem SCH_EVENTS_CMT_APPLIED_blk : SCH_EVENTS_CMT_APPLIED.off / 65536 = 10 := by
  decide

@[simp] theorem SCH_EVENTS_CMT_STAGED_blk : SCH_EVENTS_CMT_STAGED.off / 65536 = 10 := by
  decide

@[simp] theorem SCH_EVENTS_LATE_blk : SCH_EVENTS_LATE.off / 65536 = 10 := by
  decide

@[simp] theorem SCH_EVENTS_LINK_SHORT_blk : SCH_EVENTS_LINK_SHORT.off / 65536 = 10 := by
  decide

@[simp] theorem SCH_EVENTS_LOADED_blk : SCH_EVENTS_LOADED.off / 65536 = 10 := by
  decide

@[simp] theorem SCH_EVENTS_LOAD_FAIL_blk : SCH_EVENTS_LOAD_FAIL.off / 65536 = 10 := by
  decide

@[simp] theorem SCH_EVENTS_OVERTOP_blk : SCH_EVENTS_OVERTOP.off / 65536 = 10 := by
  decide

@[simp] theorem SCH_EVENTS_UNLOADED_blk : SCH_EVENTS_UNLOADED.off / 65536 = 10 := by
  decide

@[simp] theorem SCH_EPOCH_EPOCH_blk : SCH_EPOCH_EPOCH.off / 65536 = 10 := by
  decide

@[simp] theorem SCH_LOAD_RESULT_CODE_blk : SCH_LOAD_RESULT_CODE.off / 65536 = 10 := by
  decide

@[simp] theorem SCH_LOAD_RESULT_SLOT_blk : SCH_LOAD_RESULT_SLOT.off / 65536 = 10 := by
  decide

@[simp] theorem SCH_CMT_LAST_CODE_blk : SCH_CMT_LAST_CODE.off / 65536 = 10 := by
  decide

@[simp] theorem SCH_CMT_LAST_ID_ID_blk : SCH_CMT_LAST_ID_ID.off / 65536 = 10 := by
  decide

@[simp] theorem SCH_FE_LATENESS_NS_blk (i : Nat) : (SCH_FE_LATENESS_NS i).off / 65536 = 10 := by
  simp only [SCH_FE_LATENESS_NS, SCH_FE_LATENESS]; omega

@[simp] theorem SCH_FE_LATE_MAX_NS_blk (i : Nat) : (SCH_FE_LATE_MAX_NS i).off / 65536 = 10 := by
  simp only [SCH_FE_LATE_MAX_NS, SCH_FE_LATE_MAX]; omega

@[simp] theorem SCH_FE_LATE_FRAMES_COUNT_blk (i : Nat) : (SCH_FE_LATE_FRAMES_COUNT i).off / 65536 = 10 := by
  simp only [SCH_FE_LATE_FRAMES_COUNT, SCH_FE_LATE_FRAMES]; omega

@[simp] theorem SCH_FE_OVERTOP_CNT_COUNT_blk (i : Nat) : (SCH_FE_OVERTOP_CNT_COUNT i).off / 65536 = 10 := by
  simp only [SCH_FE_OVERTOP_CNT_COUNT, SCH_FE_OVERTOP_CNT]; omega

@[simp] theorem HIF_STATUS_ATTACH_blk : HIF_STATUS_ATTACH.off / 65536 = 11 := by
  decide

@[simp] theorem HIF_STATUS_LINK_UP_blk : HIF_STATUS_LINK_UP.off / 65536 = 11 := by
  decide

@[simp] theorem HIF_STATUS_PERST_GATED_blk : HIF_STATUS_PERST_GATED.off / 65536 = 11 := by
  decide

@[simp] theorem HIF_STATUS_SPEED_blk : HIF_STATUS_SPEED.off / 65536 = 11 := by
  decide

@[simp] theorem HIF_STATUS_WIDTH_blk : HIF_STATUS_WIDTH.off / 65536 = 11 := by
  decide

@[simp] theorem HIF_EVENTS_BAD_BUF_blk : HIF_EVENTS_BAD_BUF.off / 65536 = 11 := by
  decide

@[simp] theorem HIF_EVENTS_CFG_ERR_blk : HIF_EVENTS_CFG_ERR.off / 65536 = 11 := by
  decide

@[simp] theorem HIF_EVENTS_CPL_FULL_blk : HIF_EVENTS_CPL_FULL.off / 65536 = 11 := by
  decide

@[simp] theorem HIF_EVENTS_DB_ERR_blk : HIF_EVENTS_DB_ERR.off / 65536 = 11 := by
  decide

@[simp] theorem HIF_EVENTS_DRAIN_DONE_blk : HIF_EVENTS_DRAIN_DONE.off / 65536 = 11 := by
  decide

@[simp] theorem HIF_EVENTS_DUPLICATE_blk : HIF_EVENTS_DUPLICATE.off / 65536 = 11 := by
  decide

@[simp] theorem HIF_EVENTS_FETCH_ERR_blk : HIF_EVENTS_FETCH_ERR.off / 65536 = 11 := by
  decide

@[simp] theorem HIF_EVENTS_LINK_DOWN_blk : HIF_EVENTS_LINK_DOWN.off / 65536 = 11 := by
  decide

@[simp] theorem HIF_EVENTS_LINK_UP_blk : HIF_EVENTS_LINK_UP.off / 65536 = 11 := by
  decide

@[simp] theorem HIF_EVENTS_SPILL_OVERWRITE_blk : HIF_EVENTS_SPILL_OVERWRITE.off / 65536 = 11 := by
  decide

@[simp] theorem HIF_SPILL_LOST_COUNT_blk : HIF_SPILL_LOST_COUNT.off / 65536 = 11 := by
  decide

@[simp] theorem HIF_DETACH_CNT_COUNT_blk : HIF_DETACH_CNT_COUNT.off / 65536 = 11 := by
  decide

@[simp] theorem HIF_DETACH_GT_LO_GT_blk : HIF_DETACH_GT_LO_GT.off / 65536 = 11 := by
  decide

@[simp] theorem HIF_DETACH_GT_HI_GT_blk : HIF_DETACH_GT_HI_GT.off / 65536 = 11 := by
  decide

@[simp] theorem HIF_REATTACH_GT_LO_GT_blk : HIF_REATTACH_GT_LO_GT.off / 65536 = 11 := by
  decide

@[simp] theorem HIF_REATTACH_GT_HI_GT_blk : HIF_REATTACH_GT_HI_GT.off / 65536 = 11 := by
  decide

@[simp] theorem HIF_CMD_CTL_STATE_blk (i : Nat) : (HIF_CMD_CTL_STATE i).off / 65536 = 11 := by
  simp only [HIF_CMD_CTL_STATE, HIF_CMD_CTL]; omega

@[simp] theorem HIF_CMD_HEAD_INDEX_blk (i : Nat) : (HIF_CMD_HEAD_INDEX i).off / 65536 = 11 := by
  simp only [HIF_CMD_HEAD_INDEX, HIF_CMD_HEAD]; omega

@[simp] theorem HIF_CMD_TAIL_INDEX_blk (i : Nat) : (HIF_CMD_TAIL_INDEX i).off / 65536 = 11 := by
  simp only [HIF_CMD_TAIL_INDEX, HIF_CMD_TAIL]; omega

@[simp] theorem HIF_CMD_DUP_CNT_COUNT_blk (i : Nat) : (HIF_CMD_DUP_CNT_COUNT i).off / 65536 = 11 := by
  simp only [HIF_CMD_DUP_CNT_COUNT, HIF_CMD_DUP_CNT]; omega

@[simp] theorem HIF_CMD_REJ_CNT_COUNT_blk (i : Nat) : (HIF_CMD_REJ_CNT_COUNT i).off / 65536 = 11 := by
  simp only [HIF_CMD_REJ_CNT_COUNT, HIF_CMD_REJ_CNT]; omega

@[simp] theorem HIF_CPL_CTL_STATE_blk (i : Nat) : (HIF_CPL_CTL_STATE i).off / 65536 = 11 := by
  simp only [HIF_CPL_CTL_STATE, HIF_CPL_CTL]; omega

@[simp] theorem HIF_CPL_HEAD_INDEX_blk (i : Nat) : (HIF_CPL_HEAD_INDEX i).off / 65536 = 11 := by
  simp only [HIF_CPL_HEAD_INDEX, HIF_CPL_HEAD]; omega

@[simp] theorem HIF_CPL_TAIL_INDEX_blk (i : Nat) : (HIF_CPL_TAIL_INDEX i).off / 65536 = 11 := by
  simp only [HIF_CPL_TAIL_INDEX, HIF_CPL_TAIL]; omega

@[simp] theorem HIF_STR_CTL_STATE_blk (i : Nat) : (HIF_STR_CTL_STATE i).off / 65536 = 11 := by
  simp only [HIF_STR_CTL_STATE, HIF_STR_CTL]; omega

@[simp] theorem HIF_STR_HEAD_INDEX_blk (i : Nat) : (HIF_STR_HEAD_INDEX i).off / 65536 = 11 := by
  simp only [HIF_STR_HEAD_INDEX, HIF_STR_HEAD]; omega

@[simp] theorem HIF_STR_TAIL_INDEX_blk (i : Nat) : (HIF_STR_TAIL_INDEX i).off / 65536 = 11 := by
  simp only [HIF_STR_TAIL_INDEX, HIF_STR_TAIL]; omega

@[simp] theorem HIF_STR_BAD_CNT_COUNT_blk (i : Nat) : (HIF_STR_BAD_CNT_COUNT i).off / 65536 = 11 := by
  simp only [HIF_STR_BAD_CNT_COUNT, HIF_STR_BAD_CNT]; omega

@[simp] theorem PMC_EVENTS_CAL_DONE_blk : PMC_EVENTS_CAL_DONE.off / 65536 = 12 := by
  decide

@[simp] theorem PMC_EVENTS_CAL_PARTIAL_blk : PMC_EVENTS_CAL_PARTIAL.off / 65536 = 12 := by
  decide

@[simp] theorem PMC_EVENTS_CFG_ERR_blk : PMC_EVENTS_CFG_ERR.off / 65536 = 12 := by
  decide

@[simp] theorem PMC_EVENTS_INJ_DONE_blk : PMC_EVENTS_INJ_DONE.off / 65536 = 12 := by
  decide

@[simp] theorem PMC_EVENTS_NV_FAIL_blk : PMC_EVENTS_NV_FAIL.off / 65536 = 12 := by
  decide

@[simp] theorem PMC_EVENTS_OVR_blk : PMC_EVENTS_OVR.off / 65536 = 12 := by
  decide

@[simp] theorem PMC_EVENTS_PASS_DONE_blk : PMC_EVENTS_PASS_DONE.off / 65536 = 12 := by
  decide

@[simp] theorem PMC_EVENTS_PREEMPT_blk : PMC_EVENTS_PREEMPT.off / 65536 = 12 := by
  decide

@[simp] theorem PMC_EVENTS_REF_FAIL_blk : PMC_EVENTS_REF_FAIL.off / 65536 = 12 := by
  decide

@[simp] theorem PMC_EVENTS_TRIG_OVR_blk : PMC_EVENTS_TRIG_OVR.off / 65536 = 12 := by
  decide

@[simp] theorem PMC_TRIG_OVR_INJ_blk : PMC_TRIG_OVR_INJ.off / 65536 = 12 := by
  decide

@[simp] theorem PMC_TRIG_OVR_REG_blk : PMC_TRIG_OVR_REG.off / 65536 = 12 := by
  decide

@[simp] theorem PMC_OVR_CNT_COUNT_blk : PMC_OVR_CNT_COUNT.off / 65536 = 12 := by
  decide

@[simp] theorem PMC_PASS_CNT_COUNT_blk : PMC_PASS_CNT_COUNT.off / 65536 = 12 := by
  decide

@[simp] theorem PMC_PASS_GT_LO_GT_blk : PMC_PASS_GT_LO_GT.off / 65536 = 12 := by
  decide

@[simp] theorem PMC_PASS_GT_HI_GT_blk : PMC_PASS_GT_HI_GT.off / 65536 = 12 := by
  decide

@[simp] theorem PMC_DIE_TEMP_TEMP_blk : PMC_DIE_TEMP_TEMP.off / 65536 = 12 := by
  decide

@[simp] theorem PMC_DIE_TEMP_VALID_blk : PMC_DIE_TEMP_VALID.off / 65536 = 12 := by
  decide

@[simp] theorem PMC_CAL_RESULT_CODE_blk : PMC_CAL_RESULT_CODE.off / 65536 = 12 := by
  decide

@[simp] theorem PMC_CAL_RESULT_FAIL_blk : PMC_CAL_RESULT_FAIL.off / 65536 = 12 := by
  decide

@[simp] theorem PMC_CAL_RESULT_TEMP_blk : PMC_CAL_RESULT_TEMP.off / 65536 = 12 := by
  decide

@[simp] theorem PMC_CALF_OFS_OFS_blk (i : Nat) : (PMC_CALF_OFS_OFS i).off / 65536 = 12 := by
  simp only [PMC_CALF_OFS_OFS, PMC_CALF_OFS]; omega

@[simp] theorem PMC_CALF_GAIN_GCAL_blk (i : Nat) : (PMC_CALF_GAIN_GCAL i).off / 65536 = 12 := by
  simp only [PMC_CALF_GAIN_GCAL, PMC_CALF_GAIN]; omega

@[simp] theorem PMC_INJ_RESULT_blk (i : Nat) : (PMC_INJ_RESULT i) / 65536 = 12 := by
  simp only [PMC_INJ_RESULT]; omega

@[simp] theorem PMC_SLOT_RESULT_blk (i : Nat) : (PMC_SLOT_RESULT i) / 65536 = 12 := by
  simp only [PMC_SLOT_RESULT]; omega

@[simp] theorem WMN_STATUS_UNRESOLVED_blk : WMN_STATUS_UNRESOLVED.off / 65536 = 13 := by
  decide

@[simp] theorem WMN_LATCH_LATCH_blk : WMN_LATCH_LATCH.off / 65536 = 13 := by
  decide

@[simp] theorem WMN_EVENTS_CFG_ERR_blk : WMN_EVENTS_CFG_ERR.off / 65536 = 13 := by
  decide

@[simp] theorem WMN_EVENTS_CLR_DENIED_blk : WMN_EVENTS_CLR_DENIED.off / 65536 = 13 := by
  decide

@[simp] theorem WMN_EVENTS_RB_MISMATCH_blk : WMN_EVENTS_RB_MISMATCH.off / 65536 = 13 := by
  decide

@[simp] theorem WMN_EVENTS_RB_STALE_blk : WMN_EVENTS_RB_STALE.off / 65536 = 13 := by
  decide

@[simp] theorem WMN_EVENTS_RESOLVED_blk : WMN_EVENTS_RESOLVED.off / 65536 = 13 := by
  decide

@[simp] theorem WMN_EVENTS_SET_blk : WMN_EVENTS_SET.off / 65536 = 13 := by
  decide

@[simp] theorem WMN_RB_STATUS_BAD_blk : WMN_RB_STATUS_BAD.off / 65536 = 13 := by
  decide

@[simp] theorem WMN_RB_STATUS_STALE_blk : WMN_RB_STATUS_STALE.off / 65536 = 13 := by
  decide

@[simp] theorem WMN_WM_SET_CNT_COUNT_blk (i : Nat) : (WMN_WM_SET_CNT_COUNT i).off / 65536 = 13 := by
  simp only [WMN_WM_SET_CNT_COUNT, WMN_WM_SET_CNT]; omega

@[simp] theorem WMN_WM_SET_GT_LO_GT_blk (i : Nat) : (WMN_WM_SET_GT_LO_GT i).off / 65536 = 13 := by
  simp only [WMN_WM_SET_GT_LO_GT, WMN_WM_SET_GT_LO]; omega

@[simp] theorem WMN_WM_SET_GT_HI_GT_blk (i : Nat) : (WMN_WM_SET_GT_HI_GT i).off / 65536 = 13 := by
  simp only [WMN_WM_SET_GT_HI_GT, WMN_WM_SET_GT_HI]; omega

@[simp] theorem WMN_WM_RB_ERR_HI_ERR_blk (i : Nat) : (WMN_WM_RB_ERR_HI_ERR i).off / 65536 = 13 := by
  simp only [WMN_WM_RB_ERR_HI_ERR, WMN_WM_RB_ERR]; omega

@[simp] theorem WMN_WM_RB_ERR_LO_ERR_blk (i : Nat) : (WMN_WM_RB_ERR_LO_ERR i).off / 65536 = 13 := by
  simp only [WMN_WM_RB_ERR_LO_ERR, WMN_WM_RB_ERR]; omega

@[simp] theorem FLT_STATUS_CONTAINED_blk : FLT_STATUS_CONTAINED.off / 65536 = 14 := by
  decide

@[simp] theorem FLT_STATUS_INJ_ACTIVE_blk : FLT_STATUS_INJ_ACTIVE.off / 65536 = 14 := by
  decide

@[simp] theorem FLT_STATUS_SAFE_HOLD_blk : FLT_STATUS_SAFE_HOLD.off / 65536 = 14 := by
  decide

@[simp] theorem FLT_STATUS_WINDOW_CLASS_blk : FLT_STATUS_WINDOW_CLASS.off / 65536 = 14 := by
  decide

@[simp] theorem FLT_STATUS_WINDOW_OPEN_blk : FLT_STATUS_WINDOW_OPEN.off / 65536 = 14 := by
  decide

@[simp] theorem FLT_EVENTS_CFG_ERR_blk : FLT_EVENTS_CFG_ERR.off / 65536 = 14 := by
  decide

@[simp] theorem FLT_EVENTS_C_RAISED_blk : FLT_EVENTS_C_RAISED.off / 65536 = 14 := by
  decide

@[simp] theorem FLT_EVENTS_ESCALATED_blk : FLT_EVENTS_ESCALATED.off / 65536 = 14 := by
  decide

@[simp] theorem FLT_EVENTS_INJ_DONE_blk : FLT_EVENTS_INJ_DONE.off / 65536 = 14 := by
  decide

@[simp] theorem FLT_EVENTS_MERGED_blk : FLT_EVENTS_MERGED.off / 65536 = 14 := by
  decide

@[simp] theorem FLT_EVENTS_OVERLAP_blk : FLT_EVENTS_OVERLAP.off / 65536 = 14 := by
  decide

@[simp] theorem FLT_EVENTS_RECOVERED_blk : FLT_EVENTS_RECOVERED.off / 65536 = 14 := by
  decide

@[simp] theorem FLT_EVENTS_U_RAISED_blk : FLT_EVENTS_U_RAISED.off / 65536 = 14 := by
  decide

@[simp] theorem FLT_EVENTS_WIRE_blk : FLT_EVENTS_WIRE.off / 65536 = 14 := by
  decide

@[simp] theorem FLT_STICKY_blk (i : Nat) : (FLT_STICKY i) / 65536 = 14 := by
  simp only [FLT_STICKY]; omega

@[simp] theorem FLT_WIRE_blk (i : Nat) : (FLT_WIRE i) / 65536 = 14 := by
  simp only [FLT_WIRE]; omega

@[simp] theorem FLT_PREV_STICKY_blk (i : Nat) : (FLT_PREV_STICKY i) / 65536 = 14 := by
  simp only [FLT_PREV_STICKY]; omega

@[simp] theorem FLT_SH_CAUSE_blk : FLT_SH_CAUSE / 65536 = 14 := by
  decide

@[simp] theorem FLT_SH_CAUSE_SOURCE_blk : FLT_SH_CAUSE_SOURCE.off / 65536 = 14 := by
  decide

@[simp] theorem FLT_SH_CAUSE_VALID_blk : FLT_SH_CAUSE_VALID.off / 65536 = 14 := by
  decide

@[simp] theorem FLT_INJ_ACTIVE_blk : FLT_INJ_ACTIVE.off / 65536 = 14 := by
  decide

@[simp] theorem FLT_INJ_KIND_blk : FLT_INJ_KIND.off / 65536 = 14 := by
  decide

@[simp] theorem FLT_INJ_OVERLAP_blk : FLT_INJ_OVERLAP.off / 65536 = 14 := by
  decide

@[simp] theorem FLT_INJ_SOURCE_blk : FLT_INJ_SOURCE.off / 65536 = 14 := by
  decide

@[simp] theorem FLT_FE_INVALID_LO_blk (i : Nat) : (FLT_FE_INVALID_LO i) / 65536 = 14 := by
  simp only [FLT_FE_INVALID_LO]; omega

@[simp] theorem FLT_FE_INVALID_LO_SHOT_blk (i : Nat) : (FLT_FE_INVALID_LO_SHOT i).off / 65536 = 14 := by
  simp only [FLT_FE_INVALID_LO_SHOT, FLT_FE_INVALID_LO]; omega

@[simp] theorem FLT_FE_INVALID_HI_blk (i : Nat) : (FLT_FE_INVALID_HI i) / 65536 = 14 := by
  simp only [FLT_FE_INVALID_HI]; omega

@[simp] theorem FLT_FE_INVALID_HI_SHOT_blk (i : Nat) : (FLT_FE_INVALID_HI_SHOT i).off / 65536 = 14 := by
  simp only [FLT_FE_INVALID_HI_SHOT, FLT_FE_INVALID_HI]; omega

@[simp] theorem FLT_FE_INVALID_HI_VALID_blk (i : Nat) : (FLT_FE_INVALID_HI_VALID i).off / 65536 = 14 := by
  simp only [FLT_FE_INVALID_HI_VALID, FLT_FE_INVALID_HI]; omega

@[simp] theorem FLT_CNT_EVEN_blk (i : Nat) : (FLT_CNT_EVEN i).off / 65536 = 14 := by
  simp only [FLT_CNT_EVEN, FLT_CNT]; omega

@[simp] theorem FLT_CNT_ODD_blk (i : Nat) : (FLT_CNT_ODD i).off / 65536 = 14 := by
  simp only [FLT_CNT_ODD, FLT_CNT]; omega

@[simp] theorem MEM_STATUS_BAND_blk : MEM_STATUS_BAND.off / 65536 = 15 := by
  decide

@[simp] theorem MEM_STATUS_DOUBLED_blk : MEM_STATUS_DOUBLED.off / 65536 = 15 := by
  decide

@[simp] theorem MEM_STATUS_INIT_DONE_blk : MEM_STATUS_INIT_DONE.off / 65536 = 15 := by
  decide

@[simp] theorem MEM_STATUS_SR_blk : MEM_STATUS_SR.off / 65536 = 15 := by
  decide

@[simp] theorem MEM_CAP_MIB_blk : MEM_CAP_MIB.off / 65536 = 15 := by
  decide

@[simp] theorem MEM_EVENTS_BAND_SWITCH_blk : MEM_EVENTS_BAND_SWITCH.off / 65536 = 15 := by
  decide

@[simp] theorem MEM_EVENTS_BURST_blk : MEM_EVENTS_BURST.off / 65536 = 15 := by
  decide

@[simp] theorem MEM_EVENTS_CE_blk : MEM_EVENTS_CE.off / 65536 = 15 := by
  decide

@[simp] theorem MEM_EVENTS_CFG_ERR_blk : MEM_EVENTS_CFG_ERR.off / 65536 = 15 := by
  decide

@[simp] theorem MEM_EVENTS_DRAM_OVERTEMP_blk : MEM_EVENTS_DRAM_OVERTEMP.off / 65536 = 15 := by
  decide

@[simp] theorem MEM_EVENTS_EYE_LOW_blk : MEM_EVENTS_EYE_LOW.off / 65536 = 15 := by
  decide

@[simp] theorem MEM_EVENTS_HIST_DONE_blk : MEM_EVENTS_HIST_DONE.off / 65536 = 15 := by
  decide

@[simp] theorem MEM_EVENTS_INITED_blk : MEM_EVENTS_INITED.off / 65536 = 15 := by
  decide

@[simp] theorem MEM_EVENTS_LINK_CE_blk : MEM_EVENTS_LINK_CE.off / 65536 = 15 := by
  decide

@[simp] theorem MEM_EVENTS_RATE_BASE_blk : MEM_EVENTS_RATE_BASE.off / 65536 = 15 := by
  decide

@[simp] theorem MEM_EVENTS_RATE_DOUBLE_blk : MEM_EVENTS_RATE_DOUBLE.off / 65536 = 15 := by
  decide

@[simp] theorem MEM_EVENTS_REF_MISS_blk : MEM_EVENTS_REF_MISS.off / 65536 = 15 := by
  decide

@[simp] theorem MEM_EVENTS_SR_ABANDON_blk : MEM_EVENTS_SR_ABANDON.off / 65536 = 15 := by
  decide

@[simp] theorem MEM_EVENTS_SR_ENTER_blk : MEM_EVENTS_SR_ENTER.off / 65536 = 15 := by
  decide

@[simp] theorem MEM_EVENTS_UE_blk : MEM_EVENTS_UE.off / 65536 = 15 := by
  decide

@[simp] theorem MEM_HIST_SKIP_COUNT_blk : MEM_HIST_SKIP_COUNT.off / 65536 = 15 := by
  decide

@[simp] theorem MEM_TEST_CTL_BUSY_blk : MEM_TEST_CTL_BUSY.off / 65536 = 15 := by
  decide

@[simp] theorem MEM_TEST_FAIL_blk : MEM_TEST_FAIL / 65536 = 15 := by
  decide

@[simp] theorem MEM_CH_STATUS_DOUBLED_blk (i : Nat) : (MEM_CH_STATUS_DOUBLED i).off / 65536 = 15 := by
  simp only [MEM_CH_STATUS_DOUBLED, MEM_CH_STATUS]; omega

@[simp] theorem MEM_CH_STATUS_MR4_blk (i : Nat) : (MEM_CH_STATUS_MR4 i).off / 65536 = 15 := by
  simp only [MEM_CH_STATUS_MR4, MEM_CH_STATUS]; omega

@[simp] theorem MEM_CH_STATUS_OWED_blk (i : Nat) : (MEM_CH_STATUS_OWED i).off / 65536 = 15 := by
  simp only [MEM_CH_STATUS_OWED, MEM_CH_STATUS]; omega

@[simp] theorem MEM_CH_STATUS_SR_blk (i : Nat) : (MEM_CH_STATUS_SR i).off / 65536 = 15 := by
  simp only [MEM_CH_STATUS_SR, MEM_CH_STATUS]; omega

@[simp] theorem MEM_CH_REF_CNT_COUNT_blk (i : Nat) : (MEM_CH_REF_CNT_COUNT i).off / 65536 = 15 := by
  simp only [MEM_CH_REF_CNT_COUNT, MEM_CH_REF_CNT]; omega

@[simp] theorem MEM_CH_SR_CNT_COUNT_blk (i : Nat) : (MEM_CH_SR_CNT_COUNT i).off / 65536 = 15 := by
  simp only [MEM_CH_SR_CNT_COUNT, MEM_CH_SR_CNT]; omega

@[simp] theorem MEM_CH_CE_CNT_LINK_blk (i : Nat) : (MEM_CH_CE_CNT_LINK i).off / 65536 = 15 := by
  simp only [MEM_CH_CE_CNT_LINK, MEM_CH_CE_CNT]; omega

@[simp] theorem MEM_CH_CE_CNT_STORE_blk (i : Nat) : (MEM_CH_CE_CNT_STORE i).off / 65536 = 15 := by
  simp only [MEM_CH_CE_CNT_STORE, MEM_CH_CE_CNT]; omega

@[simp] theorem MEM_CH_UE_CNT_COUNT_blk (i : Nat) : (MEM_CH_UE_CNT_COUNT i).off / 65536 = 15 := by
  simp only [MEM_CH_UE_CNT_COUNT, MEM_CH_UE_CNT]; omega

@[simp] theorem BRM_STATUS_INIT_DONE_blk : BRM_STATUS_INIT_DONE.off / 65536 = 16 := by
  decide

@[simp] theorem BRM_EVENTS_CFG_ERR_blk : BRM_EVENTS_CFG_ERR.off / 65536 = 16 := by
  decide

@[simp] theorem BRM_EVENTS_DBE_blk : BRM_EVENTS_DBE.off / 65536 = 16 := by
  decide

@[simp] theorem BRM_EVENTS_SBE_blk : BRM_EVENTS_SBE.off / 65536 = 16 := by
  decide

@[simp] theorem BRM_EVENTS_SCRUB_DBE_blk : BRM_EVENTS_SCRUB_DBE.off / 65536 = 16 := by
  decide

@[simp] theorem BRM_EVENTS_SCRUB_PASS_blk : BRM_EVENTS_SCRUB_PASS.off / 65536 = 16 := by
  decide

@[simp] theorem BRM_SBE_CNT_COUNT_blk : BRM_SBE_CNT_COUNT.off / 65536 = 16 := by
  decide

@[simp] theorem BRM_DBE_CNT_COUNT_blk : BRM_DBE_CNT_COUNT.off / 65536 = 16 := by
  decide

@[simp] theorem BRM_PASS_CNT_COUNT_blk : BRM_PASS_CNT_COUNT.off / 65536 = 16 := by
  decide

@[simp] theorem NVS_STATUS_READY_blk : NVS_STATUS_READY.off / 65536 = 17 := by
  decide

@[simp] theorem NVS_EVENTS_CE_blk : NVS_EVENTS_CE.off / 65536 = 17 := by
  decide

@[simp] theorem NVS_EVENTS_CFG_ERR_blk : NVS_EVENTS_CFG_ERR.off / 65536 = 17 := by
  decide

@[simp] theorem NVS_EVENTS_PROT_blk : NVS_EVENTS_PROT.off / 65536 = 17 := by
  decide

@[simp] theorem NVS_EVENTS_UE_blk : NVS_EVENTS_UE.off / 65536 = 17 := by
  decide

@[simp] theorem NVS_EVENTS_VERIFY_FAIL_blk : NVS_EVENTS_VERIFY_FAIL.off / 65536 = 17 := by
  decide

@[simp] theorem NVS_EVENTS_WR_DONE_blk : NVS_EVENTS_WR_DONE.off / 65536 = 17 := by
  decide

@[simp] theorem NVS_WP_WP_blk : NVS_WP_WP.off / 65536 = 17 := by
  decide

@[simp] theorem NVS_CE_CNT_COUNT_blk : NVS_CE_CNT_COUNT.off / 65536 = 17 := by
  decide

@[simp] theorem NVS_UE_CNT_COUNT_blk : NVS_UE_CNT_COUNT.off / 65536 = 17 := by
  decide

@[simp] theorem NVS_LAST_CODE_blk : NVS_LAST_CODE.off / 65536 = 17 := by
  decide

@[simp] theorem NVS_LAST_REGION_blk : NVS_LAST_REGION.off / 65536 = 17 := by
  decide

@[simp] theorem ACQ_IQ_A_blk (i : Nat) : (ACQ_IQ_A i) / 65536 = 4 := by
  simp only [ACQ_IQ_A]; omega

@[simp] theorem ACQ_IQ_B_blk (i : Nat) : (ACQ_IQ_B i) / 65536 = 4 := by
  simp only [ACQ_IQ_B]; omega

@[simp] theorem PMC_CALF_GAIN_blk (i : Nat) : (PMC_CALF_GAIN i) / 65536 = 12 := by
  simp only [PMC_CALF_GAIN]; omega

@[simp] theorem PMC_CALF_OFS_blk (i : Nat) : (PMC_CALF_OFS i) / 65536 = 12 := by
  simp only [PMC_CALF_OFS]; omega

end Sys2Proof.Machine
end

