-- ==== Sys2Proof/Laws/RegsCore.lean ====
section
/-! SUPPORT. The register blocks that every operation may write: for a predicate B of blocks, each operation keeps the
registers of the others once B holds of those named in its lemma. Machine/Ops.lean and Machine/Hif.lean. -/

namespace Sys2Proof.Machine

set_option Elab.async false
set_option linter.unusedSimpArgs false
set_option linter.unusedVariables false

variable {base s : State} {B : Nat → Prop}

/-- Every register outside the blocks of B is the same in both states. -/
def RegsP (B : Nat → Prop) (s t : State) : Prop := ∀ off, ¬ B (off / 65536) → t.reg off = s.reg off

theorem RegsP.refl (B : Nat → Prop) (s : State) : RegsP B s s := fun _ _ => rfl

/-- A state with the same registers. -/
theorem Regs_mk (h : RegsP B base s) {a b c d e f g i j k l m n o p q r u v w x y} :
    RegsP B base ⟨a, b, c, s.regs, d, e, f, g, i, j, k, l, m, n, o, p, q, r, u, v, w, x, y⟩ := h

theorem ite_blocks {c : Prop} [Decidable c] {x y : State} (hx : RegsP B base x) (hy : RegsP B base y) :
    RegsP B base (if c then x else y) := by
  split <;> assumption

theorem foldl_blocks {α : Type} {f : State → α → State} {l : List α} (hs : RegsP B base s)
    (hf : ∀ t x, RegsP B base t → RegsP B base (f t x)) : RegsP B base (l.foldl f s) := by
  induction l generalizing s with
  | nil => exact hs
  | cons x l ih => exact ih (hf s x hs)

theorem foldl_mem_blocks {α : Type} {f : State → α → State} {l : List α} (hs : RegsP B base s)
    (hf : ∀ t x, x ∈ l → RegsP B base t → RegsP B base (f t x)) : RegsP B base (l.foldl f s) := by
  induction l generalizing s with
  | nil => exact hs
  | cons x l ih => exact ih (hf s x (by simp) hs) (fun t y hy => hf t y (by simp [hy]))

theorem foldl_range_blocks {f : State → Nat → State} {k : Nat} (hs : RegsP B base s)
    (hf : ∀ t x, x < k → RegsP B base t → RegsP B base (f t x)) : RegsP B base ((List.range k).foldl f s) :=
  foldl_mem_blocks hs (fun t x hx => hf t x (List.mem_range.1 hx))

@[simp] theorem bit_off (f : FRef) (i : Nat) : (f.bit i).off = f.off := rfl

/-- A field's value is below its width. -/
theorem get_lt (s : State) (f : FRef) (k : Nat) (h : 2 ^ f.w ≤ k) : s.get f < k :=
  lt_of_lt_of_le (Nat.mod_lt _ (by positivity)) h

@[simp] theorem ringState_blk (kind : RingKind) (k : Nat) : (ringState kind k).off / 65536 = 11 := by
  cases kind <;> simp only [ringState, HIF_CMD_CTL_STATE_blk, HIF_CPL_CTL_STATE_blk, HIF_STR_CTL_STATE_blk]
@[simp] theorem ringHead_blk (kind : RingKind) (k : Nat) : (ringHead kind k).off / 65536 = 11 := by
  cases kind <;> simp only [ringHead, HIF_CMD_HEAD_INDEX_blk, HIF_CPL_HEAD_INDEX_blk, HIF_STR_HEAD_INDEX_blk]
@[simp] theorem ringTail_blk (kind : RingKind) (k : Nat) : (ringTail kind k).off / 65536 = 11 := by
  cases kind <;> simp only [ringTail, HIF_CMD_TAIL_INDEX_blk, HIF_CPL_TAIL_INDEX_blk, HIF_STR_TAIL_INDEX_blk]

/-! ### Machine/Ops.lean -/

theorem setReg_blocks (hk : RegsP B base s) (off : Nat) (v : Word) (h : B (off / 65536)
     := by first | assumption | (simp; assumption) | (simp; done)) : RegsP B base (s.setReg off v) := by
  intro o ho
  rw [reg_setReg_ne]
  · exact hk o ho
  · rintro rfl; exact ho h

theorem set_blocks (hk : RegsP B base s) (f : FRef) (x : Nat) (h : B (f.off / 65536)
     := by first | assumption | (simp; assumption) | (simp; done)) : RegsP B base (s.set f x) :=
  setReg_blocks hk _ _ h

theorem setI_blocks (hk : RegsP B base s) (f : FRef) (x : Int) (h : B (f.off / 65536)
     := by first | assumption | (simp; assumption) | (simp; done)) : RegsP B base (s.setI f x) :=
  setReg_blocks hk _ _ h

theorem setB_blocks (hk : RegsP B base s) (f : FRef) (x : Bool) (h : B (f.off / 65536)
     := by first | assumption | (simp; assumption) | (simp; done)) : RegsP B base (s.setB f x) :=
  setReg_blocks hk _ _ h

theorem set2_blocks (hk : RegsP B base s) (lo hi : FRef) (v : Nat) (h : B (lo.off / 65536)
     := by first | assumption | (simp; assumption) | (simp; done)) (g : B (hi.off / 65536)
     := by first | assumption | (simp; assumption) | (simp; done)) :
    RegsP B base (s.set2 lo hi v) := setReg_blocks (setReg_blocks hk _ _ h) _ _ g

theorem addSat_blocks (hk : RegsP B base s) (f : FRef) (n : Nat) (h : B (f.off / 65536)
     := by first | assumption | (simp; assumption) | (simp; done)) : RegsP B base (s.addSat f n) :=
  setReg_blocks hk _ _ h

theorem addWrap_blocks (hk : RegsP B base s) (f : FRef) (n : Nat) (h : B (f.off / 65536)
     := by first | assumption | (simp; assumption) | (simp; done)) : RegsP B base (s.addWrap f n) :=
  setReg_blocks hk _ _ h

theorem at_blocks (hk : RegsP B base s) (t : Nat) (b10 : B 10 := by first | assumption | decide) : RegsP B base (s.at t) := by
  have h1 : RegsP B base { s with now := max s.now t } := Regs_mk hk
  unfold State.at
  exact ite_blocks h1 (Regs_mk (setReg_blocks h1 _ _ b10))

theorem setTword_blocks (hk : RegsP B base s) (off : Nat) (v : Word) :
    RegsP B base (s.setTword off v) := by
  unfold State.setTword
  simp +contextual (maxDischargeDepth := 99) only [hk, Regs_mk, ite_blocks, forall_const, imp_self, implies_true, bit_off]

theorem setTwords_blocks (hk : RegsP B base s) (off : Nat) (l : List Word) : RegsP B base (s.setTwords off l) := by
  induction l generalizing s off with
  | nil => exact hk
  | cons v vs ih => exact ih (setTword_blocks hk off v) (off + 4)

theorem nextFree_blocks (hk : RegsP B base s) :
    RegsP B base (s.nextFree) := by
  unfold State.nextFree
  simp +contextual (maxDischargeDepth := 99) only [hk, Regs_mk, ite_blocks, forall_const, imp_self, implies_true, bit_off]

theorem dmaWrite_blocks (hk : RegsP B base s) (addr : Nat) (bs : List Byte) :
    RegsP B base (s.dmaWrite addr bs) := by
  unfold State.dmaWrite
  simp +contextual (maxDischargeDepth := 99) only [hk, Regs_mk, ite_blocks, forall_const, imp_self, implies_true, bit_off]

theorem nvPut_blocks (hk : RegsP B base s) (off : Nat) (bs : List Byte) :
    RegsP B base (s.nvPut off bs) := by
  unfold State.nvPut
  simp +contextual (maxDischargeDepth := 99) only [hk, Regs_mk, ite_blocks, forall_const, imp_self, implies_true, bit_off]

theorem note_blocks (hk : RegsP B base s) (off m : Nat) :
    RegsP B base (s.note off m) := by
  unfold State.note
  simp +contextual (maxDischargeDepth := 99) only [hk, Regs_mk, ite_blocks, forall_const, imp_self, implies_true, bit_off]

theorem set1_blocks (hk : RegsP B base s) (f : FRef) (h : B (f.off / 65536)
     := by first | assumption | (simp; assumption) | (simp; done)) : RegsP B base (s.set1 f) :=
  set_blocks (note_blocks hk _ _) _ _ h

theorem orReg_blocks (hk : RegsP B base s) (off m : Nat) (h : B (off / 65536)
     := by first | assumption | (simp; assumption) | (simp; done)) : RegsP B base (s.orReg off m) :=
  setReg_blocks (note_blocks hk _ _) _ _ h

theorem msix_blocks (hk : RegsP B base s) (vec : Nat) :
    RegsP B base (s.msix vec) := by
  unfold State.msix
  simp +contextual (maxDischargeDepth := 99) only [hk, Regs_mk, ite_blocks, forall_const, imp_self, implies_true, bit_off]

theorem msixFlush_blocks (hk : RegsP B base s) :
    RegsP B base (s.msixFlush) := by
  unfold State.msixFlush
  simp +contextual (maxDischargeDepth := 99) only [hk, Regs_mk, ite_blocks, forall_const, imp_self, implies_true, bit_off,
      msix_blocks, foldl_range_blocks, foldl_blocks]

theorem ev_blocks (hk : RegsP B base s) (f : FRef) (h : B (f.off / 65536)
     := by first | assumption | (simp; assumption) | (simp; done)) : RegsP B base (s.ev f) := by
  unfold State.ev
  exact ite_blocks (note_blocks hk _ _) (ite_blocks (msix_blocks (set1_blocks hk _ h) _) (set1_blocks hk _ h))

theorem aerUnc_blocks (hk : RegsP B base s) (bit : Nat) :
    RegsP B base (s.aerUnc bit) := by
  unfold State.aerUnc
  simp +contextual (maxDischargeDepth := 99) only [hk, Regs_mk, ite_blocks, forall_const, imp_self, implies_true, bit_off]

theorem aer_blocks (hk : RegsP B base s) (cls : Nat) :
    RegsP B base (s.aer cls) := by
  unfold State.aer
  simp +contextual (maxDischargeDepth := 99) only [hk, Regs_mk, ite_blocks, forall_const, imp_self, implies_true, bit_off,
      aerUnc_blocks]

theorem logMod_blocks (hk : RegsP B base s) (f : LogRec → LogRec) :
    RegsP B base (s.logMod f) := by
  unfold State.logMod
  try dsimp only
  repeat' split
  all_goals simp +contextual (maxDischargeDepth := 99) only [hk, Regs_mk, ite_blocks, forall_const, imp_self, implies_true,
      bit_off]

theorem stickySet_blocks (hk : RegsP B base s) (i : Nat) (b14 : B 14 := by first | assumption | decide) :
    RegsP B base (s.stickySet i) := by
  unfold State.stickySet
  simp +contextual (maxDischargeDepth := 99) only [hk, b14, Regs_mk, ite_blocks, forall_const, imp_self, implies_true,
      bit_off, FLT_STICKY_blk, orReg_blocks, logMod_blocks]

theorem present_blocks (hk : RegsP B base s) (src : Nat) (b14 : B 14 := by first | assumption | decide) :
    RegsP B base (s.present src) := by
  unfold State.present
  try dsimp only
  repeat' split
  all_goals simp +contextual (maxDischargeDepth := 99) only [hk, b14, Regs_mk, ite_blocks, forall_const, imp_self,
      implies_true, bit_off, FLT_EVENTS_OVERLAP_blk, FLT_INJ_OVERLAP_blk, set_blocks, ev_blocks, stickySet_blocks]

theorem unpresent_blocks (hk : RegsP B base s) (src : Nat) :
    RegsP B base (s.unpresent src) := by
  unfold State.unpresent
  simp +contextual (maxDischargeDepth := 99) only [hk, Regs_mk, ite_blocks, forall_const, imp_self, implies_true, bit_off]

theorem memUsed_blocks (hk : RegsP B base s) (mask : Nat) :
    RegsP B base (s.memUsed mask) := by
  unfold State.memUsed
  simp +contextual (maxDischargeDepth := 99) only [hk, Regs_mk, ite_blocks, forall_const, imp_self, implies_true, bit_off]

/-! ### Machine/Hif.lean -/

theorem setRing_blocks (hk : RegsP B base s) (r : Nat) (x : RingSt) :
    RegsP B base (s.setRing r x) := by
  unfold State.setRing
  simp +contextual (maxDischargeDepth := 99) only [hk, Regs_mk, ite_blocks, forall_const, imp_self, implies_true, bit_off]

theorem setCplRing_blocks (hk : RegsP B base s) (k : Nat) (x : CplSt) :
    RegsP B base (s.setCplRing k x) := by
  unfold State.setCplRing
  simp +contextual (maxDischargeDepth := 99) only [hk, Regs_mk, ite_blocks, forall_const, imp_self, implies_true, bit_off]

theorem setStrRing_blocks (hk : RegsP B base s) (m : Nat) (x : StrSt) :
    RegsP B base (s.setStrRing m x) := by
  unfold State.setStrRing
  simp +contextual (maxDischargeDepth := 99) only [hk, Regs_mk, ite_blocks, forall_const, imp_self, implies_true, bit_off]

theorem logStream_blocks (hk : RegsP B base s) (st : Nat) (f : LogStream → LogStream) :
    RegsP B base (s.logStream st f) := by
  unfold State.logStream
  simp +contextual (maxDischargeDepth := 99) only [hk, Regs_mk, ite_blocks, forall_const, imp_self, implies_true, bit_off,
      logMod_blocks]

theorem markLoss_blocks (hk : RegsP B base s) (st : Nat) :
    RegsP B base (s.markLoss st) := by
  unfold State.markLoss
  simp +contextual (maxDischargeDepth := 99) only [hk, Regs_mk, ite_blocks, forall_const, imp_self, implies_true, bit_off,
      setStrRing_blocks]

theorem logDiscard_blocks (hk : RegsP B base s) (f : Frame) :
    RegsP B base (s.logDiscard f) := by
  unfold State.logDiscard
  simp +contextual (maxDischargeDepth := 99) only [hk, Regs_mk, ite_blocks, forall_const, imp_self, implies_true, bit_off,
      logStream_blocks, markLoss_blocks]

theorem logOverwrite_blocks (hk : RegsP B base s) (f : Frame) :
    RegsP B base (s.logOverwrite f) := by
  unfold State.logOverwrite
  simp +contextual (maxDischargeDepth := 99) only [hk, Regs_mk, ite_blocks, forall_const, imp_self, implies_true, bit_off,
      logStream_blocks, markLoss_blocks]

theorem cplSignal_blocks (hk : RegsP B base s) (k : Nat) :
    RegsP B base (s.cplSignal k) := by
  unfold State.cplSignal
  simp +contextual (maxDischargeDepth := 99) only [hk, Regs_mk, ite_blocks, forall_const, imp_self, implies_true, bit_off,
      msix_blocks, setCplRing_blocks]

theorem cplCoalesce_blocks (hk : RegsP B base s) (k : Nat) (irq : Bool) :
    RegsP B base (s.cplCoalesce k irq) := by
  unfold State.cplCoalesce
  simp +contextual (maxDischargeDepth := 99) only [hk, Regs_mk, ite_blocks, forall_const, imp_self, implies_true, bit_off,
      setCplRing_blocks, cplSignal_blocks]

theorem cplCount_blocks (hk : RegsP B base s) (c : Cpl) (b11 : B 11 := by first | assumption | decide) :
    RegsP B base (s.cplCount c) := by
  unfold State.cplCount
  simp +contextual (maxDischargeDepth := 99) only [hk, b11, Regs_mk, ite_blocks, forall_const, imp_self, implies_true,
      bit_off, HIF_CMD_DUP_CNT_COUNT_blk, HIF_CMD_REJ_CNT_COUNT_blk, HIF_EVENTS_DUPLICATE_blk, addSat_blocks, ev_blocks]

theorem cplWrite_blocks (hk : RegsP B base s) (c : Cpl) (b11 : B 11 := by first | assumption | decide) :
    RegsP B base (s.cplWrite c) := by
  unfold State.cplWrite
  simp +contextual (maxDischargeDepth := 99) only [hk, b11, Regs_mk, ite_blocks, forall_const, imp_self, implies_true,
      bit_off, HIF_CPL_TAIL_INDEX_blk, set_blocks, dmaWrite_blocks, setCplRing_blocks, cplCoalesce_blocks, cplCount_blocks]

theorem cplHold_blocks (hk : RegsP B base s) (c : Cpl) :
    RegsP B base (s.cplHold c) := by
  unfold State.cplHold
  simp +contextual (maxDischargeDepth := 99) only [hk, Regs_mk, ite_blocks, forall_const, imp_self, implies_true, bit_off,
      logMod_blocks]

theorem post_blocks (hk : RegsP B base s) (c : Cpl) (b11 : B 11 := by first | assumption | decide) :
    RegsP B base (s.post c) := by
  unfold State.post
  simp +contextual (maxDischargeDepth := 99) only [hk, b11, Regs_mk, ite_blocks, forall_const, imp_self, implies_true,
      bit_off, HIF_EVENTS_CPL_FULL_blk, ev_blocks, cplWrite_blocks, cplHold_blocks]

theorem flushHeld_blocks (hk : RegsP B base s) (k : Nat) (mark : Bool) (l : List Cpl)
    (b11 : B 11 := by first | assumption | decide) : RegsP B base (flushHeld k mark l s) := by
  induction l generalizing s with
  | nil => exact hk
  | cons c cs ih =>
    unfold flushHeld
    split
    · exact ih (cplWrite_blocks hk _)
    · exact ih (Regs_mk hk)

theorem cplRelease_blocks (hk : RegsP B base s) (k : Nat) (mark : Bool) (b11 : B 11 := by first | assumption | decide) :
    RegsP B base (s.cplRelease k mark) := by
  unfold State.cplRelease
  simp +contextual (maxDischargeDepth := 99) only [hk, b11, Regs_mk, ite_blocks, forall_const, imp_self, implies_true,
      bit_off, HIF_EVENTS_CPL_FULL_blk, ev_blocks, flushHeld_blocks]

theorem complete_blocks (hk : RegsP B base s) (c : Cmd) (result value : Nat) (b11 : B 11 := by first | assumption | decide) :
    RegsP B base (s.complete c result value) := by
  unfold State.complete
  simp +contextual (maxDischargeDepth := 99) only [hk, b11, Regs_mk, ite_blocks, forall_const, imp_self, implies_true,
      bit_off, setRing_blocks, post_blocks, foldl_range_blocks, foldl_blocks]

theorem outcome_blocks (hk : RegsP B base s) (c : Cmd) (code value : Nat) (b11 : B 11 := by first | assumption | decide) :
    RegsP B base (s.outcome c code value) := by
  unfold State.outcome
  simp +contextual (maxDischargeDepth := 99) only [hk, b11, Regs_mk, ite_blocks, forall_const, imp_self, implies_true,
      bit_off, post_blocks]

theorem fetched_blocks (hk : RegsP B base s) (r : Nat) (b11 : B 11 := by first | assumption | decide) :
    RegsP B base (s.fetched r) := by
  unfold State.fetched
  simp +contextual (maxDischargeDepth := 99) only [hk, b11, Regs_mk, ite_blocks, forall_const, imp_self, implies_true,
      bit_off, HIF_CMD_HEAD_INDEX_blk, addWrap_blocks, setRing_blocks]

theorem fenceWait_blocks (hk : RegsP B base s) (h : Hdr) :
    RegsP B base (s.fenceWait h) := by
  unfold State.fenceWait
  simp +contextual (maxDischargeDepth := 99) only [hk, Regs_mk, ite_blocks, forall_const, imp_self, implies_true, bit_off,
      setRing_blocks]

theorem enroll_blocks (hk : RegsP B base s) (c : Cmd) :
    RegsP B base (s.enroll c) := by
  unfold State.enroll
  simp +contextual (maxDischargeDepth := 99) only [hk, Regs_mk, ite_blocks, forall_const, imp_self, implies_true, bit_off,
      setRing_blocks]

/-- A ring command keeps what its execution keeps. -/
theorem ringStart_blocks (hk : RegsP B base s) (h : Hdr) (op : Nat) (bad : Option Nat) (body : Cmd → State → State)
    (hb : ∀ c t, RegsP B base t → RegsP B base (body c t)) (b10 : B 10 := by first | assumption | decide)
        (b11 : B 11 := by first | assumption | decide) :
    RegsP B base (s.ringStart h op bad body) := by
  have h1 := at_blocks hk h.t
  have h2 := fetched_blocks h1 h.ring
  unfold State.ringStart
  dsimp only
  repeat' split
  · exact post_blocks h2 _
  · exact setRing_blocks h2 _ _
  · exact post_blocks h2 _
  · exact hb _ _ (enroll_blocks h2 _)
  · exact fenceWait_blocks h1 _

theorem cmdDb_blocks (hk : RegsP B base s) (k v : Nat) (b11 : B 11 := by first | assumption | decide) :
    RegsP B base (s.cmdDb k v) := by
  unfold State.cmdDb
  simp +contextual (maxDischargeDepth := 99) only [hk, b11, Regs_mk, ite_blocks, forall_const, imp_self, implies_true,
      bit_off, HIF_CMD_CTL_STATE_blk, HIF_CMD_HEAD_INDEX_blk, HIF_CMD_TAIL_INDEX_blk, HIF_EVENTS_DB_ERR_blk, set_blocks,
      ev_blocks]

theorem cplDb_blocks (hk : RegsP B base s) (k v : Nat) (b11 : B 11 := by first | assumption | decide) :
    RegsP B base (s.cplDb k v) := by
  unfold State.cplDb
  simp +contextual (maxDischargeDepth := 99) only [hk, b11, Regs_mk, ite_blocks, forall_const, imp_self, implies_true,
      bit_off, HIF_CPL_CTL_STATE_blk, HIF_CPL_HEAD_INDEX_blk, HIF_EVENTS_DB_ERR_blk, set_blocks, ev_blocks, cplRelease_blocks]

theorem ringRun_blocks (hk : RegsP B base s) (kind : RingKind) (k : Nat) (b11 : B 11 := by first | assumption | decide) :
    RegsP B base (s.ringRun kind k) := by
  unfold State.ringRun
  try dsimp only
  repeat' split
  all_goals simp +contextual (maxDischargeDepth := 99) only [hk, b11, Regs_mk, ite_blocks, forall_const, imp_self,
      implies_true, bit_off, ringHead_blk, ringState_blk, ringTail_blk, set_blocks, setRing_blocks, setCplRing_blocks,
      setStrRing_blocks, cplRelease_blocks]

theorem descWrite_blocks (hk : RegsP B base s) (m : Nat) (b : Buf) (done bad : Bool) :
    RegsP B base (s.descWrite m b done bad) := by
  unfold State.descWrite
  simp +contextual (maxDischargeDepth := 99) only [hk, Regs_mk, ite_blocks, forall_const, imp_self, implies_true, bit_off,
      HIF_STR_HEAD_INDEX_blk, dmaWrite_blocks]

theorem bufSkip_blocks (hk : RegsP B base s) (m : Nat) (l : List BufDesc)
    (b11 : B 11 := by first | assumption | decide) : RegsP B base (bufSkip m l s) := by
  induction l generalizing s with
  | nil => exact setStrRing_blocks hk _ _
  | cons d ds ih =>
    unfold bufSkip
    split
    · exact setStrRing_blocks hk _ _
    · exact ih (ev_blocks (addSat_blocks (addWrap_blocks (descWrite_blocks hk _ _ _ _) _ _ (HIF_STR_HEAD_INDEX_blk _ ▸ b11)) _ _
        (HIF_STR_BAD_CNT_COUNT_blk _ ▸ b11)) _ (HIF_EVENTS_BAD_BUF_blk ▸ b11))

theorem bufTrim_blocks (hk : RegsP B base s) (m : Nat) (b11 : B 11 := by first | assumption | decide) :
    RegsP B base (s.bufTrim m) := by
  unfold State.bufTrim
  simp +contextual (maxDischargeDepth := 99) only [hk, b11, Regs_mk, ite_blocks, forall_const, imp_self, implies_true,
      bit_off, HIF_STR_CTL_STATE_blk, bufSkip_blocks]

theorem bufClose_blocks (hk : RegsP B base s) (m : Nat) (b11 : B 11 := by first | assumption | decide) :
    RegsP B base (s.bufClose m) := by
  unfold State.bufClose
  try dsimp only
  repeat' split
  all_goals simp +contextual (maxDischargeDepth := 99) only [hk, b11, Regs_mk, ite_blocks, forall_const, imp_self,
      implies_true, bit_off, HIF_STR_HEAD_INDEX_blk, addWrap_blocks, msix_blocks, setStrRing_blocks, descWrite_blocks,
      bufTrim_blocks]

theorem bufFlush_blocks (hk : RegsP B base s) (m : Nat) (b11 : B 11 := by first | assumption | decide) :
    RegsP B base (s.bufFlush m) := by
  unfold State.bufFlush
  try dsimp only
  repeat' split
  all_goals simp +contextual (maxDischargeDepth := 99) only [hk, b11, Regs_mk, ite_blocks, forall_const, imp_self,
      implies_true, bit_off, HIF_STR_CTL_STATE_blk, bufClose_blocks]

theorem bufNext_blocks (hk : RegsP B base s) (m : Nat) :
    RegsP B base (s.bufNext m) := by
  unfold State.bufNext
  try dsimp only
  repeat' split
  all_goals simp +contextual (maxDischargeDepth := 99) only [hk, Regs_mk, ite_blocks, forall_const, imp_self, implies_true,
      bit_off, setStrRing_blocks]

theorem strDb_blocks (hk : RegsP B base s) (m v : Nat) (descs : List BufDesc) (b11 : B 11 := by first | assumption | decide) :
    RegsP B base (s.strDb m v descs) := by
  unfold State.strDb
  simp +contextual (maxDischargeDepth := 99) only [hk, b11, Regs_mk, ite_blocks, forall_const, imp_self, implies_true,
      bit_off, HIF_EVENTS_DB_ERR_blk, HIF_STR_CTL_STATE_blk, HIF_STR_HEAD_INDEX_blk, HIF_STR_TAIL_INDEX_blk, set_blocks,
      ev_blocks, setStrRing_blocks, bufTrim_blocks]

theorem writeChunks_blocks (hk : RegsP B base s) (m : Nat) (start spilled : Bool) (fuel : Nat) (bs : List Byte)
    (b11 : B 11 := by first | assumption | decide) :
    RegsP B base (writeChunks m start spilled fuel bs s) := by
  induction fuel generalizing s start bs with
  | zero => exact hk
  | succ fuel ih =>
    have h1 := bufNext_blocks hk m
    unfold writeChunks
    dsimp only
    split
    · exact h1
    · split
      · simp +contextual (maxDischargeDepth := 99) only [b11, h1, ite_blocks, bufClose_blocks, msix_blocks, descWrite_blocks,
          setStrRing_blocks, dmaWrite_blocks]
      · exact ih (bufClose_blocks (setStrRing_blocks (dmaWrite_blocks h1 _ _) _ _) _) _ _

theorem frameWrite_blocks (hk : RegsP B base s) (m : Nat) (f : Frame) (b11 : B 11 := by first | assumption | decide) :
    RegsP B base (s.frameWrite m f) := by
  unfold State.frameWrite
  simp +contextual (maxDischargeDepth := 99) only [hk, b11, Regs_mk, ite_blocks, forall_const, imp_self, implies_true,
      bit_off, writeChunks_blocks]

theorem spillGeneral_blocks (hk : RegsP B base s) (l : List SpillFrame) :
    RegsP B base (s.spillGeneral l) := by
  unfold State.spillGeneral
  simp +contextual (maxDischargeDepth := 99) only [hk, Regs_mk, ite_blocks, forall_const, imp_self, implies_true, bit_off]

theorem spillReserved_blocks (hk : RegsP B base s) (l : List SpillFrame) :
    RegsP B base (s.spillReserved l) := by
  unfold State.spillReserved
  simp +contextual (maxDischargeDepth := 99) only [hk, Regs_mk, ite_blocks, forall_const, imp_self, implies_true, bit_off]

theorem spillLost_blocks (hk : RegsP B base s) (b11 : B 11 := by first | assumption | decide) :
    RegsP B base (s.spillLost) := by
  unfold State.spillLost
  simp +contextual (maxDischargeDepth := 99) only [hk, b11, Regs_mk, ite_blocks, forall_const, imp_self, implies_true,
      bit_off, HIF_EVENTS_SPILL_OVERWRITE_blk, HIF_SPILL_LOST_COUNT_blk, addSat_blocks, ev_blocks]

theorem spillFit_blocks (hk : RegsP B base s) (cap need : Nat) (l : List SpillFrame)
    (b11 : B 11 := by first | assumption | decide) : RegsP B base (spillFit cap need l s) := by
  induction l generalizing s with
  | nil => exact spillGeneral_blocks hk _
  | cons x xs ih =>
    unfold spillFit
    split
    · exact spillGeneral_blocks hk _
    · exact ih (spillLost_blocks (logOverwrite_blocks hk _))

theorem spillDrop_blocks (hk : RegsP B base s) (f : Frame) (b8 : B 8 := by first | assumption | decide)
    (b11 : B 11 := by first | assumption | decide) :
    RegsP B base (s.spillDrop f) := by
  unfold State.spillDrop
  simp +contextual (maxDischargeDepth := 99) only [hk, b8, b11, Regs_mk, ite_blocks, forall_const, imp_self, implies_true,
      bit_off, EVT_EVENTS_SPILL_DROP_blk, EVT_LOSS_CNT_SPILL_blk, addSat_blocks, ev_blocks, logDiscard_blocks,
      spillLost_blocks]

theorem spillIn_blocks (hk : RegsP B base s) (f0 : Frame) (b8 : B 8 := by first | assumption | decide)
    (b11 : B 11 := by first | assumption | decide) :
    RegsP B base (s.spillIn f0) := by
  unfold State.spillIn
  simp +contextual (maxDischargeDepth := 99) only [hk, b8, b11, Regs_mk, ite_blocks, forall_const, imp_self, implies_true,
      bit_off, memUsed_blocks, logStream_blocks, spillGeneral_blocks, spillReserved_blocks, spillFit_blocks, spillDrop_blocks]

theorem spillClear_blocks (hk : RegsP B base s) (b11 : B 11 := by first | assumption | decide) :
    RegsP B base (s.spillClear) := by
  unfold State.spillClear
  simp +contextual (maxDischargeDepth := 99) only [hk, b11, Regs_mk, ite_blocks, forall_const, imp_self, implies_true,
      bit_off, logOverwrite_blocks, spillGeneral_blocks, spillReserved_blocks, spillLost_blocks, foldl_range_blocks,
      foldl_blocks]

theorem spillBack_blocks (hk : RegsP B base s) (l : List Frame) (b8 : B 8 := by first | assumption | decide)
    (b11 : B 11 := by first | assumption | decide) :
    RegsP B base (s.spillBack l) := by
  unfold State.spillBack
  simp +contextual (maxDischargeDepth := 99) only [hk, b8, b11, Regs_mk, ite_blocks, forall_const, imp_self, implies_true,
      bit_off, memUsed_blocks, logStream_blocks, spillReserved_blocks, spillFit_blocks, spillDrop_blocks, foldl_range_blocks,
      foldl_blocks]

theorem nextSeq_blocks (hk : RegsP B base s) (st : Nat) :
    RegsP B base (s.nextSeq st) := by
  unfold State.nextSeq
  simp +contextual (maxDischargeDepth := 99) only [hk, Regs_mk, ite_blocks, forall_const, imp_self, implies_true, bit_off]

theorem stageWork_blocks (hk : RegsP B base s) (f : Frame) (work : Option Nat) :
    RegsP B base (s.stageWork f work) := by
  unfold State.stageWork
  simp +contextual (maxDischargeDepth := 99) only [hk, Regs_mk, ite_blocks, forall_const, imp_self, implies_true, bit_off,
      nextSeq_blocks]

theorem stage_blocks (hk : RegsP B base s) (f : Frame) :
    RegsP B base (s.stage f) := by
  unfold State.stage
  simp +contextual (maxDischargeDepth := 99) only [hk, Regs_mk, ite_blocks, forall_const, imp_self, implies_true, bit_off,
      stageWork_blocks]

theorem stageFor_blocks (hk : RegsP B base s) (f : Frame) (work : Nat) :
    RegsP B base (s.stageFor f work) := by
  unfold State.stageFor
  simp +contextual (maxDischargeDepth := 99) only [hk, Regs_mk, ite_blocks, forall_const, imp_self, implies_true, bit_off,
      stageWork_blocks]

theorem deliver_blocks (hk : RegsP B base s) (f : Frame) (b8 : B 8 := by first | assumption | decide)
    (b11 : B 11 := by first | assumption | decide) :
    RegsP B base (s.deliver f) := by
  unfold State.deliver
  simp +contextual (maxDischargeDepth := 99) only [hk, b8, b11, Regs_mk, ite_blocks, forall_const, imp_self, implies_true,
      bit_off, logDiscard_blocks, frameWrite_blocks, spillIn_blocks]

theorem divertEnd_blocks (hk : RegsP B base s) :
    RegsP B base (s.divertEnd) := by
  unfold State.divertEnd
  simp +contextual (maxDischargeDepth := 99) only [hk, Regs_mk, ite_blocks, forall_const, imp_self, implies_true, bit_off]

theorem frameReleased_blocks (hk : RegsP B base s) (st : Nat) (b11 : B 11 := by first | assumption | decide) :
    RegsP B base (s.frameReleased st) := by
  unfold State.frameReleased
  try dsimp only
  repeat' split
  all_goals simp +contextual (maxDischargeDepth := 99) only [hk, b11, Regs_mk, ite_blocks, forall_const, imp_self,
      implies_true, bit_off, HIF_EVENTS_DRAIN_DONE_blk, ev_blocks, spillGeneral_blocks, spillReserved_blocks,
      divertEnd_blocks]

theorem modDump_blocks (hk : RegsP B base s) (g : Dump → Dump) :
    RegsP B base (s.modDump g) := by
  unfold State.modDump
  simp +contextual (maxDischargeDepth := 99) only [hk, Regs_mk, ite_blocks, forall_const, imp_self, implies_true, bit_off]

theorem drainNext_blocks (hk : RegsP B base s) {f : Frame} {t : State} (e : s.drainNext = some (f, t))  : RegsP B base t := by
  unfold State.drainNext at e
  repeat' split at e
  all_goals first | cases e; done | skip
  · cases e; exact spillReserved_blocks hk _
  · cases e; exact spillGeneral_blocks hk _

theorem dumpNext_blocks (hk : RegsP B base s) {t : State} (e : s.dumpNext = some t)
    (b11 : B 11 := by first | assumption | decide) (b15 : B 15 := by first | assumption | decide) : RegsP B base t := by
  unfold State.dumpNext at e
  dsimp only at e
  repeat' split at e
  all_goals first | cases e; done | skip
  · cases e; exact addSat_blocks (modDump_blocks hk _) _ _
  · cases e; exact frameWrite_blocks (memUsed_blocks (modDump_blocks hk _) _) _ _

theorem drainSpill_blocks (hk : RegsP B base s) {t : State} (e : s.drainSpill = some t)
    (b11 : B 11 := by first | assumption | decide) : RegsP B base t := by
  unfold State.drainSpill at e
  split at e
  · cases e
  · cases e; exact frameWrite_blocks (modDump_blocks (memUsed_blocks (drainNext_blocks hk (by assumption)) _) _) _ _

theorem orElse_blocks (hk : RegsP B base s) {x y : Option State} (hx : ∀ t, x = some t → RegsP B base t) (hy : ∀ t,
    y = some t → RegsP B base t) :
    RegsP B base ((x.orElse (fun _ => y)).getD s) := by
  cases x with
  | some t => exact hx t rfl
  | none =>
    cases y with
    | some t => exact hy t rfl
    | none => exact hk

theorem drainOne_blocks (hk : RegsP B base s) (b11 : B 11 := by first | assumption | decide)
    (b15 : B 15 := by first | assumption | decide) : RegsP B base s.drainOne :=
  ite_blocks hk (ite_blocks (orElse_blocks hk (fun _ e => dumpNext_blocks hk e) (fun _ e => drainSpill_blocks hk e))
    (orElse_blocks hk (fun _ e => drainSpill_blocks hk e) (fun _ e => dumpNext_blocks hk e)))

theorem logDetach_blocks (hk : RegsP B base s) (cause : Nat) :
    RegsP B base (s.logDetach cause) := by
  unfold State.logDetach
  simp +contextual (maxDischargeDepth := 99) only [hk, Regs_mk, ite_blocks, forall_const, imp_self, implies_true, bit_off,
      SCH_EPOCH_EPOCH_blk, logMod_blocks]

theorem ringsTo_blocks (hk : RegsP B base s) (kind : RingKind) (p : Nat → Bool) (x : Nat)
    (b11 : B 11 := by first | assumption | decide) :
    RegsP B base (s.ringsTo kind p x) := by
  unfold State.ringsTo
  simp +contextual (maxDischargeDepth := 99) only [hk, b11, Regs_mk, ite_blocks, forall_const, imp_self, implies_true,
      bit_off, ringState_blk, set_blocks, foldl_range_blocks, foldl_blocks]

theorem reholdCpls_blocks (hk : RegsP B base s) : RegsP B base s.reholdCpls := by
  unfold State.reholdCpls
  exact logMod_blocks (Regs_mk (foldl_blocks hk (fun t x ht => setCplRing_blocks ht _ _))) _

theorem refile_blocks (hk : RegsP B base s) (b8 : B 8 := by first | assumption | decide)
    (b11 : B 11 := by first | assumption | decide) :
    RegsP B base (s.refile) := by
  unfold State.refile
  simp +contextual (maxDischargeDepth := 99) only [hk, b8, b11, Regs_mk, ite_blocks, forall_const, imp_self, implies_true,
      bit_off, spillIn_blocks, spillBack_blocks, divertEnd_blocks, foldl_range_blocks, foldl_blocks]

theorem detached_blocks (hk : RegsP B base s) (cause : Nat) (b8 : B 8 := by first | assumption | decide)
    (b11 : B 11 := by first | assumption | decide) :
    RegsP B base (s.detached cause) := by
  unfold State.detached
  simp +contextual (maxDischargeDepth := 99) only [hk, b8, b11, Regs_mk, ite_blocks, forall_const, imp_self, implies_true,
      bit_off, HIF_DETACH_CNT_COUNT_blk, HIF_DETACH_GT_HI_GT_blk, HIF_DETACH_GT_LO_GT_blk, HIF_EVENTS_LINK_DOWN_blk,
      HIF_STATUS_ATTACH_blk, HIF_STATUS_PERST_GATED_blk, set_blocks, set2_blocks, addWrap_blocks, ev_blocks,
      logDetach_blocks, ringsTo_blocks, reholdCpls_blocks, refile_blocks]

theorem linkLost_blocks (hk : RegsP B base s) (b11 : B 11 := by first | assumption | decide) :
    RegsP B base (s.linkLost) := by
  unfold State.linkLost
  simp +contextual (maxDischargeDepth := 99) only [hk, b11, Regs_mk, ite_blocks, forall_const, imp_self, implies_true,
      bit_off, HIF_STATUS_LINK_UP_blk, HIF_STATUS_SPEED_blk, HIF_STATUS_WIDTH_blk, set_blocks]

theorem hold_blocks (hk : RegsP B base s) (b11 : B 11 := by first | assumption | decide) :
    RegsP B base (s.hold) := by
  unfold State.hold
  simp +contextual (maxDischargeDepth := 99) only [hk, b11, Regs_mk, ite_blocks, forall_const, imp_self, implies_true,
      bit_off, HIF_EVENTS_LINK_UP_blk, HIF_REATTACH_GT_HI_GT_blk, HIF_REATTACH_GT_LO_GT_blk, HIF_STATUS_ATTACH_blk,
      SCH_EPOCH_EPOCH_blk, set_blocks, set2_blocks, ev_blocks, logMod_blocks, ringsTo_blocks]

end Sys2Proof.Machine
end

