-- ==== Sys2Proof/Laws/RegsTime.lean ====
section
/-! SUPPORT. Register blocks written: the time base, the acquisition array, memory, and the signal path. -/

namespace Sys2Proof.Machine

set_option Elab.async false
set_option linter.unusedSimpArgs false
set_option linter.unusedVariables false

variable {base s : State} {B : Nat → Prop}

@[simp] theorem chEn_blk (ch : Nat) : (chEn ch).off / 65536 = 4 := by
  unfold chEn; split <;> simp only [ACQ_CCH_CFG_EN_blk, ACQ_ICH_CFG_EN_blk]

@[simp] theorem chOvr_blk (ch : Nat) : (chOvr ch).off / 65536 = 4 := by
  unfold chOvr; split <;> simp only [ACQ_CCH_STAT_OVR_blk, ACQ_ICH_STAT_OVR_blk]

@[simp] theorem chOvrCnt_blk (ch : Nat) : (chOvrCnt ch).off / 65536 = 4 := by
  unfold chOvrCnt; split <;> simp only [ACQ_CCH_OVR_CNT_COUNT_blk, ACQ_ICH_OVR_CNT_COUNT_blk]

@[simp] theorem chFail_blk (ch : Nat) : (chFail ch).off / 65536 = 4 := by
  unfold chFail; split <;> simp only [ACQ_CCH_STAT_CAL_FAIL_blk, ACQ_ICH_STAT_CAL_FAIL_blk]

@[simp] theorem chAbort_blk (ch : Nat) : (chAbort ch).off / 65536 = 4 := by
  unfold chAbort; split <;> simp only [ACQ_CCH_STAT_CAL_ABORT_blk, ACQ_ICH_STAT_CAL_ABORT_blk]

@[simp] theorem chDrift_blk (ch : Nat) : (chDrift ch).off / 65536 = 4 := by
  unfold chDrift; split <;> simp only [ACQ_CCH_STAT_DRIFT_blk, ACQ_ICH_STAT_DRIFT_blk]

theorem calfOff_blk (ch w : Nat) (hw : w < 16) : calfOff ch w / 65536 = 4 := by
  unfold calfOff; split <;> simp only [ACQ_CCH_CALF_OG, ACQ_ICH_CALF_OG] <;> omega

/-! ### Machine/Timebase.lean -/

theorem setTim_blocks (hk : RegsP B base s) (x : TimSt) :
    RegsP B base (s.setTim x) := by
  unfold State.setTim
  simp +contextual (maxDischargeDepth := 99) only [hk, Regs_mk, ite_blocks, forall_const, imp_self, implies_true, bit_off]

theorem modF_blocks (hk : RegsP B base s) (n : Nat) (g : FeSt → FeSt) :
    RegsP B base (s.modF n g) := by
  unfold State.modF
  simp +contextual (maxDischargeDepth := 99) only [hk, Regs_mk, ite_blocks, forall_const, imp_self, implies_true, bit_off]

theorem clockFree_blocks (hk : RegsP B base s) (b2 : B 2 := by first | assumption | decide) :
    RegsP B base (s.clockFree) := by
  unfold State.clockFree
  simp +contextual (maxDischargeDepth := 99) only [hk, b2, Regs_mk, ite_blocks, forall_const, imp_self, implies_true,
      bit_off, TIM_STATUS_CLK_STATE_blk, TIM_STATUS_GT_VALID_blk, set_blocks, setTim_blocks]

theorem clockHold_blocks (hk : RegsP B base s) (b2 : B 2 := by first | assumption | decide) :
    RegsP B base (s.clockHold) := by
  unfold State.clockHold
  simp +contextual (maxDischargeDepth := 99) only [hk, b2, Regs_mk, ite_blocks, forall_const, imp_self, implies_true,
      bit_off, TIM_STATUS_CLK_STATE_blk, set_blocks, setTim_blocks]

theorem alignAbort_blocks (hk : RegsP B base s) (b2 : B 2 := by first | assumption | decide) :
    RegsP B base (s.alignAbort) := by
  unfold State.alignAbort
  simp +contextual (maxDischargeDepth := 99) only [hk, b2, Regs_mk, ite_blocks, forall_const, imp_self, implies_true,
      bit_off, TIM_ALIGN_ARM_blk, TIM_EVENTS_ALIGN_ABORT_blk, TIM_STATUS_ALIGN_PENDING_blk, set_blocks, ev_blocks]

theorem refLoss_blocks (hk : RegsP B base s) (b2 : B 2 := by first | assumption | decide)
    (b14 : B 14 := by first | assumption | decide) :
    RegsP B base (s.refLoss) := by
  unfold State.refLoss
  try dsimp only
  repeat' split
  all_goals simp +contextual (maxDischargeDepth := 99) only [hk, b2, b14, Regs_mk, ite_blocks, forall_const, imp_self,
      implies_true, bit_off, TIM_EVENTS_REF_LOSS_blk, TIM_STATUS_CLK_STATE_blk, TIM_STATUS_REF_PRESENT_blk, set_blocks,
      ev_blocks, present_blocks, clockFree_blocks, clockHold_blocks, alignAbort_blocks]

theorem refReturn_blocks (hk : RegsP B base s) (b2 : B 2 := by first | assumption | decide) :
    RegsP B base (s.refReturn) := by
  unfold State.refReturn
  simp +contextual (maxDischargeDepth := 99) only [hk, b2, Regs_mk, ite_blocks, forall_const, imp_self, implies_true,
      bit_off, TIM_STATUS_CLK_STATE_blk, TIM_STATUS_REF_PRESENT_blk, set_blocks, setTim_blocks]

theorem pllLock_blocks (hk : RegsP B base s) (b2 : B 2 := by first | assumption | decide) :
    RegsP B base (s.pllLock) := by
  unfold State.pllLock
  simp +contextual (maxDischargeDepth := 99) only [hk, b2, Regs_mk, ite_blocks, forall_const, imp_self, implies_true,
      bit_off, TIM_EVENTS_LOCK_blk, TIM_STATUS_CLK_STATE_blk, set_blocks, ev_blocks, setTim_blocks]

theorem holdExpire_blocks (hk : RegsP B base s) (b2 : B 2 := by first | assumption | decide)
    (b14 : B 14 := by first | assumption | decide) :
    RegsP B base (s.holdExpire) := by
  unfold State.holdExpire
  try dsimp only
  repeat' split
  all_goals simp +contextual (maxDischargeDepth := 99) only [hk, b2, b14, Regs_mk, ite_blocks, forall_const, imp_self,
      implies_true, bit_off, TIM_EVENTS_HOLD_EXPIRED_blk, TIM_STATUS_CLK_STATE_blk, ev_blocks, present_blocks]

theorem alignDone_blocks (hk : RegsP B base s) (d : Int) (b2 : B 2 := by first | assumption | decide) :
    RegsP B base (s.alignDone d) := by
  unfold State.alignDone
  simp +contextual (maxDischargeDepth := 99) only [hk, b2, Regs_mk, ite_blocks, forall_const, imp_self, implies_true,
      bit_off, TIM_ALIGN_ARM_blk, TIM_EVENTS_ALIGN_DONE_blk, TIM_STATUS_ALIGN_PENDING_blk, TIM_STATUS_GT_VALID_blk,
      TIM_TRIM_TRIM_blk, set_blocks, ev_blocks, setTim_blocks]

theorem ppsEdge_blocks (hk : RegsP B base s) (falling : Bool) (b2 : B 2 := by first | assumption | decide) :
    RegsP B base (s.ppsEdge falling) := by
  unfold State.ppsEdge
  simp +contextual (maxDischargeDepth := 99) only [hk, b2, Regs_mk, ite_blocks, forall_const, imp_self, implies_true,
      bit_off, TIM_EVENTS_PPS_DEV_blk, TIM_PPS_ERR_ERR_blk, TIM_STATUS_PPS_PRESENT_blk, TIM_TRIM_TRIM_blk, set_blocks,
      setI_blocks, ev_blocks, setTim_blocks, alignDone_blocks]

theorem syncEdge_blocks (hk : RegsP B base s) (falling : Bool) (b2 : B 2 := by first | assumption | decide) :
    RegsP B base (s.syncEdge falling) := by
  unfold State.syncEdge
  simp +contextual (maxDischargeDepth := 99) only [hk, b2, Regs_mk, ite_blocks, forall_const, imp_self, implies_true,
      bit_off, TIM_EVENTS_SYNC_DEV_blk, TIM_STATUS_SYNC_PRESENT_blk, TIM_SYNC_ERR_ERR_blk, TIM_TRIM_TRIM_blk, set_blocks,
      setI_blocks, ev_blocks, setTim_blocks, alignDone_blocks]

theorem ppsLost_blocks (hk : RegsP B base s) (b2 : B 2 := by first | assumption | decide)
    (b14 : B 14 := by first | assumption | decide) :
    RegsP B base (s.ppsLost) := by
  unfold State.ppsLost
  simp +contextual (maxDischargeDepth := 99) only [hk, b2, b14, Regs_mk, ite_blocks, forall_const, imp_self, implies_true,
      bit_off, TIM_EVENTS_PPS_LOSS_blk, TIM_STATUS_PPS_PRESENT_blk, set_blocks, ev_blocks, present_blocks, setTim_blocks]

theorem syncGone_blocks (hk : RegsP B base s) (b2 : B 2 := by first | assumption | decide) :
    RegsP B base (s.syncGone) := by
  unfold State.syncGone
  simp +contextual (maxDischargeDepth := 99) only [hk, b2, Regs_mk, ite_blocks, forall_const, imp_self, implies_true,
      bit_off, TIM_STATUS_SYNC_PRESENT_blk, set_blocks, setTim_blocks]

theorem syncOff_blocks (hk : RegsP B base s) (b2 : B 2 := by first | assumption | decide) :
    RegsP B base (s.syncOff) := by
  unfold State.syncOff
  simp +contextual (maxDischargeDepth := 99) only [hk, b2, Regs_mk, ite_blocks, forall_const, imp_self, implies_true,
      bit_off, TIM_STATUS_SYNC_PRESENT_blk, setTim_blocks, syncGone_blocks]

theorem syncLost_blocks (hk : RegsP B base s) (b2 : B 2 := by first | assumption | decide)
    (b14 : B 14 := by first | assumption | decide) :
    RegsP B base (s.syncLost) := by
  unfold State.syncLost
  simp +contextual (maxDischargeDepth := 99) only [hk, b2, b14, Regs_mk, ite_blocks, forall_const, imp_self, implies_true,
      bit_off, TIM_EVENTS_SYNC_LOSS_blk, TIM_STATUS_SYNC_PRESENT_blk, ev_blocks, present_blocks, syncGone_blocks]

theorem syncOut_blocks (hk : RegsP B base s) :
    RegsP B base (s.syncOut) := by
  unfold State.syncOut
  simp +contextual (maxDischargeDepth := 99) only [hk, Regs_mk, ite_blocks, forall_const, imp_self, implies_true, bit_off,
      TIM_STATUS_GT_VALID_blk, setTim_blocks]

theorem launchOut_blocks (hk : RegsP B base s) :
    RegsP B base (s.launchOut) := by
  unfold State.launchOut
  simp +contextual (maxDischargeDepth := 99) only [hk, Regs_mk, ite_blocks, forall_const, imp_self, implies_true, bit_off,
      setTim_blocks]

theorem alignSet_blocks (hk : RegsP B base s) (b2 : B 2 := by first | assumption | decide) :
    RegsP B base (s.alignSet) := by
  unfold State.alignSet
  simp +contextual (maxDischargeDepth := 99) only [hk, b2, Regs_mk, ite_blocks, forall_const, imp_self, implies_true,
      bit_off, TIM_ALIGN_ARM_blk, TIM_EVENTS_CFG_ERR_blk, TIM_STATUS_ALIGN_PENDING_blk, set_blocks, ev_blocks]

theorem setEpoch_blocks (hk : RegsP B base s) (hi : Word) (b2 : B 2 := by first | assumption | decide) :
    RegsP B base (s.setEpoch hi) := by
  unfold State.setEpoch
  simp +contextual (maxDischargeDepth := 99) only [hk, b2, Regs_mk, ite_blocks, forall_const, imp_self, implies_true,
      bit_off, TIM_EPOCH_HI_EPOCH_blk, set_blocks, setTim_blocks]

/-! ### Machine/Acq.lean -/

theorem overrange_blocks (hk : RegsP B base s) (ch t : Nat) (b4 : B 4 := by first | assumption | decide)
    (b14 : B 14 := by first | assumption | decide) :
    RegsP B base (s.overrange ch t) := by
  unfold State.overrange
  simp +contextual (maxDischargeDepth := 99) only [hk, b4, b14, Regs_mk, ite_blocks, forall_const, imp_self, implies_true,
      bit_off, ACQ_EVENTS_OVR_blk, chOvr_blk, chOvrCnt_blk, addSat_blocks, set1_blocks, ev_blocks, present_blocks]

theorem setAcq_blocks (hk : RegsP B base s) (x : AcqSt) :
    RegsP B base (s.setAcq x) := by
  unfold State.setAcq
  simp +contextual (maxDischargeDepth := 99) only [hk, Regs_mk, ite_blocks, forall_const, imp_self, implies_true, bit_off]

theorem calShow_blocks (hk : RegsP B base s) (b4 : B 4 := by first | assumption | decide) :
    RegsP B base (s.calShow) := by
  unfold State.calShow
  try dsimp only
  repeat' split
  all_goals simp +contextual (maxDischargeDepth := 99) only [hk, b4, Regs_mk, ite_blocks, forall_const, imp_self,
      implies_true, bit_off, ACQ_STATUS_CAL_BUSY_blk, ACQ_STATUS_CAL_PHASE_blk, set_blocks]

theorem calStart_blocks (hk : RegsP B base s) (c : Cmd) (mask : Nat) (nv saveOnly : Bool)
    (b4 : B 4 := by first | assumption | decide) (b11 : B 11 := by first | assumption | decide) :
    RegsP B base (s.calStart c mask nv saveOnly) := by
  unfold State.calStart
  simp +contextual (maxDischargeDepth := 99) only [hk, b4, b11, Regs_mk, ite_blocks, forall_const, imp_self, implies_true,
      bit_off, ACQ_CAL_FAIL_blk, ACQ_CAL_RESULT_CODE_blk, chAbort_blk, chFail_blk, setReg_blocks, set_blocks,
      complete_blocks, setAcq_blocks, calShow_blocks, foldl_range_blocks, foldl_blocks]

theorem calPhaseEnd_blocks (hk : RegsP B base s) (coherent : Bool) (b4 : B 4 := by first | assumption | decide) :
    RegsP B base (s.calPhaseEnd coherent) := by
  unfold State.calPhaseEnd
  try dsimp only
  repeat' split
  all_goals simp +contextual (maxDischargeDepth := 99) only [hk, b4, Regs_mk, ite_blocks, forall_const, imp_self,
      implies_true, bit_off, setAcq_blocks, calShow_blocks]

theorem calEnd_blocks (hk : RegsP B base s) (c : AcqCal) (code : Nat) (b4 : B 4 := by first | assumption | decide)
    (b11 : B 11 := by first | assumption | decide) :
    RegsP B base (s.calEnd c code) := by
  unfold State.calEnd
  simp +contextual (maxDischargeDepth := 99) only [hk, b4, b11, Regs_mk, ite_blocks, forall_const, imp_self, implies_true,
      bit_off, ACQ_CAL_RESULT_CODE_blk, set_blocks, complete_blocks, setAcq_blocks, calShow_blocks]

theorem calAbandon_blocks (hk : RegsP B base s) (mask : Nat) (b4 : B 4 := by first | assumption | decide)
    (b11 : B 11 := by first | assumption | decide) :
    RegsP B base (s.calAbandon mask) := by
  unfold State.calAbandon
  try dsimp only
  repeat' split
  all_goals simp +contextual (maxDischargeDepth := 99) only [hk, b4, b11, Regs_mk, ite_blocks, forall_const, imp_self,
      implies_true, bit_off, ACQ_EVENTS_CAL_ABORT_blk, chAbort_blk, set_blocks, ev_blocks, setAcq_blocks, calEnd_blocks,
      foldl_range_blocks, foldl_blocks]

theorem calFatal_blocks (hk : RegsP B base s) (b4 : B 4 := by first | assumption | decide)
    (b11 : B 11 := by first | assumption | decide) :
    RegsP B base (s.calFatal) := by
  unfold State.calFatal
  try dsimp only
  repeat' split
  all_goals simp +contextual (maxDischargeDepth := 99) only [hk, b4, b11, Regs_mk, ite_blocks, forall_const, imp_self,
      implies_true, bit_off, calEnd_blocks, calAbandon_blocks]

theorem calWrite_blocks (hk : RegsP B base s) (ch : Nat) (m : ChanMeas)
    (b4 : B 4 := by first | assumption | decide) : RegsP B base (s.calWrite ch m) := by
  unfold State.calWrite
  refine setAcq_blocks (setReg_blocks (foldl_range_blocks hk (fun t i hi ht => ?_)) _ _ (calfOff_blk ch 15 (by omega) ▸ b4)) _
  split
  · exact setReg_blocks ht _ _ (calfOff_blk ch i (by omega) ▸ b4)
  · exact ht

theorem calDone_blocks (hk : RegsP B base s) (r : AcqMeas) (b4 : B 4 := by first | assumption | decide)
    (b11 : B 11 := by first | assumption | decide) :
    RegsP B base (s.calDone r) := by
  unfold State.calDone
  split
  · exact hk
  · split
    · exact hk
    · extract_lets live meas ok bad s1 s2 s3 s4 partly copy s5 code s6
      have h1 : RegsP B base s1 := foldl_blocks hk (fun t ch ht => by
        split
        · exact calWrite_blocks ht _ _
        · exact ht)
      have h2 : RegsP B base s2 :=
        foldl_blocks h1 (fun t p ht => ite_blocks (set_blocks (setI_blocks (setI_blocks ht _ _) _ _) _ _) ht)
      have h3 : RegsP B base s3 := foldl_blocks h2 (fun t ch ht => set_blocks (set_blocks ht _ _) _ _)
      have h4 : RegsP B base s4 := ite_blocks h3 (ev_blocks (set_blocks h3 _ _) _)
      have h5 : RegsP B base s5 := ite_blocks (nvPut_blocks h4 _ _) h4
      exact calEnd_blocks (ite_blocks (ev_blocks h5 _) (ite_blocks (ev_blocks h5 _) h5)) _ _

theorem bgQueue_blocks (hk : RegsP B base s) (n : Nat) (l : List CalUpd) :
    RegsP B base (s.bgQueue n l) := by
  unfold State.bgQueue
  simp +contextual (maxDischargeDepth := 99) only [hk, Regs_mk, ite_blocks, forall_const, imp_self, implies_true, bit_off,
      modF_blocks]

@[simp] theorem calFld_blk (f : CalFld) : f.ref.off / 65536 = 4 := by
  cases f <;> simp only [CalFld.ref, ACQ_CCH_CALF_OG_OFS_blk, ACQ_CCH_CALF_OG_GAIN_CAL_blk, ACQ_CCH_CALF_SKEW_SKEW_blk,
    ACQ_ICH_CALF_OG_OFS_blk, ACQ_IQ_A_A_blk, ACQ_IQ_B_B_blk]

theorem bgApply_blocks (hk : RegsP B base s) (u : CalUpd) (b4 : B 4 := by first | assumption | decide)
    (b14 : B 14 := by first | assumption | decide) : RegsP B base (s.bgApply u) := by
  unfold State.bgApply
  simp +contextual (maxDischargeDepth := 99) only [hk, b4, b14, Regs_mk, ite_blocks, implies_true, calFld_blk, chDrift_blk,
    ACQ_EVENTS_DRIFT_blk, setI_blocks, setAcq_blocks, set1_blocks, ev_blocks, present_blocks]

theorem setBlk_blocks (hk : RegsP B base s) (ch : Nat) (b : BgBlk) :
    RegsP B base (s.setBlk ch b) := by
  unfold State.setBlk
  simp +contextual (maxDischargeDepth := 99) only [hk, Regs_mk, ite_blocks, forall_const, imp_self, implies_true, bit_off,
      setAcq_blocks]

theorem bgFrameStart_blocks (hk : RegsP B base s) (n : Nat) (b4 : B 4 := by first | assumption | decide)
    (b14 : B 14 := by first | assumption | decide) :
    RegsP B base (s.bgFrameStart n) := by
  unfold State.bgFrameStart
  simp +contextual (maxDischargeDepth := 99) only [hk, b4, b14, Regs_mk, ite_blocks, forall_const, imp_self, implies_true,
      bit_off, modF_blocks, bgApply_blocks, setBlk_blocks, foldl_range_blocks, foldl_blocks]

theorem bgSync_blocks (hk : RegsP B base s) (c : Nat) :
    RegsP B base (s.bgSync c) := by
  unfold State.bgSync
  try dsimp only
  repeat' split
  all_goals simp +contextual (maxDischargeDepth := 99) only [hk, Regs_mk, ite_blocks, forall_const, imp_self, implies_true,
      bit_off, setBlk_blocks]

theorem bgSyncInt_blocks (hk : RegsP B base s) (i : Nat) :
    RegsP B base (s.bgSyncInt i) := by
  unfold State.bgSyncInt
  simp +contextual (maxDischargeDepth := 99) only [hk, Regs_mk, ite_blocks, forall_const, imp_self, implies_true, bit_off,
      setBlk_blocks]

theorem bgSyncFe_blocks (hk : RegsP B base s) (n : Nat) :
    RegsP B base (s.bgSyncFe n) := by
  unfold State.bgSyncFe
  simp +contextual (maxDischargeDepth := 99) only [hk, Regs_mk, ite_blocks, forall_const, imp_self, implies_true, bit_off,
      bgSync_blocks, bgSyncInt_blocks, foldl_range_blocks, foldl_blocks]

theorem bgSyncAll_blocks (hk : RegsP B base s) :
    RegsP B base (s.bgSyncAll) := by
  unfold State.bgSyncAll
  simp +contextual (maxDischargeDepth := 99) only [hk, Regs_mk, ite_blocks, forall_const, imp_self, implies_true, bit_off,
      bgSyncFe_blocks, foldl_range_blocks, foldl_blocks]

theorem bgRestart_blocks (hk : RegsP B base s) (ch at_ : Nat) :
    RegsP B base (s.bgRestart ch at_) := by
  unfold State.bgRestart
  simp +contextual (maxDischargeDepth := 99) only [hk, Regs_mk, ite_blocks, forall_const, imp_self, implies_true, bit_off,
      setBlk_blocks]

theorem darkSpan_blocks (hk : RegsP B base s) (n : Nat) :
    RegsP B base (s.darkSpan n) := by
  unfold State.darkSpan
  simp +contextual (maxDischargeDepth := 99) only [hk, Regs_mk, ite_blocks, forall_const, imp_self, implies_true, bit_off,
      setBlk_blocks, foldl_range_blocks, foldl_blocks]

theorem blkSeen_blocks (hk : RegsP B base s) (ch a b : Nat) :
    RegsP B base (s.blkSeen ch a b) := by
  unfold State.blkSeen
  simp +contextual (maxDischargeDepth := 99) only [hk, Regs_mk, ite_blocks, forall_const, imp_self, implies_true, bit_off,
      setBlk_blocks]

theorem bgDiscard_blocks (hk : RegsP B base s) :
    RegsP B base (s.bgDiscard) := by
  unfold State.bgDiscard
  simp +contextual (maxDischargeDepth := 99) only [hk, Regs_mk, ite_blocks, forall_const, imp_self, implies_true, bit_off,
      modF_blocks, setAcq_blocks, foldl_range_blocks, foldl_blocks]

theorem bgNext_blocks (hk : RegsP B base s) (ch : Nat) (l : List BgSample) (last : Nat)
    (b4 : B 4 := by first | assumption | decide) (b14 : B 14 := by first | assumption | decide) :
    RegsP B base (s.bgNext ch l last) := by
  unfold State.bgNext
  simp +contextual (maxDischargeDepth := 99) only [hk, b4, b14, Regs_mk, ite_blocks, forall_const, imp_self, implies_true,
      bit_off, overrange_blocks, setAcq_blocks, setBlk_blocks, foldl_range_blocks, foldl_blocks]

theorem bgBlock_blocks (hk : RegsP B base s) (c : Nat) (raw : List Int) (b4 : B 4 := by first | assumption | decide)
    (b14 : B 14 := by first | assumption | decide) :
    RegsP B base (s.bgBlock c raw) := by
  unfold State.bgBlock
  simp +contextual (maxDischargeDepth := 99) only [hk, b4, b14, Regs_mk, ite_blocks, forall_const, imp_self, implies_true,
      bit_off, nextFree_blocks, bgQueue_blocks, bgNext_blocks]

theorem darkBlock_blocks (hk : RegsP B base s) (i : Nat) (raw : List Int) (b4 : B 4 := by first | assumption | decide)
    (b14 : B 14 := by first | assumption | decide) :
    RegsP B base (s.darkBlock i raw) := by
  unfold State.darkBlock
  simp +contextual (maxDischargeDepth := 99) only [hk, b4, b14, Regs_mk, ite_blocks, forall_const, imp_self, implies_true,
      bit_off, ACQ_ICH_CALF_OG_OFS_blk, nextFree_blocks, bgQueue_blocks, bgNext_blocks, foldl_range_blocks, foldl_blocks]

theorem blindAdd_blocks (hk : RegsP B base s) (p : Nat) (l : List (Int × Int)) :
    RegsP B base (s.blindAdd p l) := by
  unfold State.blindAdd
  simp +contextual (maxDischargeDepth := 99) only [hk, Regs_mk, ite_blocks, forall_const, imp_self, implies_true, bit_off,
      setAcq_blocks, foldl_range_blocks, foldl_blocks]

theorem blindBlock_blocks (hk : RegsP B base s) (p : Nat) (b4 : B 4 := by first | assumption | decide) :
    RegsP B base (s.blindBlock p) := by
  unfold State.blindBlock
  try dsimp only
  repeat' split
  all_goals simp +contextual (maxDischargeDepth := 99) only [hk, b4, Regs_mk, ite_blocks, forall_const, imp_self,
      implies_true, bit_off, ACQ_EVENTS_IQ_CONV_blk, ACQ_IQ_A_A_blk, ACQ_STATUS_IQ_CONV_blk, set_blocks, nextFree_blocks,
      ev_blocks, setAcq_blocks, bgQueue_blocks]

theorem chanFail_blocks (hk : RegsP B base s) (ch since : Nat) (b4 : B 4 := by first | assumption | decide)
    (b14 : B 14 := by first | assumption | decide) :
    RegsP B base (s.chanFail ch since) := by
  unfold State.chanFail
  simp +contextual (maxDischargeDepth := 99) only [hk, b4, b14, Regs_mk, ite_blocks, forall_const, imp_self, implies_true,
      bit_off, ACQ_EVENTS_CH_FAIL_blk, ev_blocks, present_blocks, modF_blocks]

/-! ### Machine/Mem.lean -/

theorem setMem_blocks (hk : RegsP B base s) (x : MemSt) :
    RegsP B base (s.setMem x) := by
  unfold State.setMem
  simp +contextual (maxDischargeDepth := 99) only [hk, Regs_mk, ite_blocks, forall_const, imp_self, implies_true, bit_off]

theorem setShare_blocks (hk : RegsP B base s) :
    RegsP B base (s.setShare) := by
  unfold State.setShare
  simp +contextual (maxDischargeDepth := 99) only [hk, Regs_mk, ite_blocks, forall_const, imp_self, implies_true, bit_off,
      setMem_blocks]

theorem writeBack_blocks (hk : RegsP B base s) (bank line : Nat) :
    RegsP B base (s.writeBack bank line) := by
  unfold State.writeBack
  simp +contextual (maxDischargeDepth := 99) only [hk, Regs_mk, ite_blocks, forall_const, imp_self, implies_true, bit_off,
      setMem_blocks, foldl_range_blocks, foldl_blocks]

theorem memErr_blocks (hk : RegsP B base s) (owner : Option Nat) (e : MemErr) (b14 : B 14 := by first | assumption | decide)
    (b15 : B 15 := by first | assumption | decide) (b16 : B 16 := by first | assumption | decide) :
    RegsP B base (s.memErr owner e) := by
  unfold State.memErr
  try dsimp only
  repeat' split
  all_goals simp +contextual (maxDischargeDepth := 99) only [hk, b14, b15, b16, Regs_mk, ite_blocks, forall_const, imp_self,
      implies_true, bit_off, BRM_DBE_CNT_COUNT_blk, BRM_EVENTS_DBE_blk, BRM_EVENTS_SBE_blk, BRM_EVENTS_SCRUB_DBE_blk,
      BRM_SBE_CNT_COUNT_blk, MEM_CH_CE_CNT_LINK_blk, MEM_CH_CE_CNT_STORE_blk, MEM_CH_UE_CNT_COUNT_blk, MEM_EVENTS_CE_blk,
      MEM_EVENTS_LINK_CE_blk, MEM_EVENTS_UE_blk, addSat_blocks, ev_blocks, present_blocks, setMem_blocks, writeBack_blocks]

theorem memWork_blocks (hk : RegsP B base s) (n : Nat) :
    RegsP B base (s.memWork n) := by
  unfold State.memWork
  simp +contextual (maxDischargeDepth := 99) only [hk, Regs_mk, ite_blocks, forall_const, imp_self, implies_true, bit_off,
      memUsed_blocks, foldl_range_blocks, foldl_blocks]

theorem refab_blocks (hk : RegsP B base s) (c n : Nat) (b15 : B 15 := by first | assumption | decide) :
    RegsP B base (s.refab c n) := by
  unfold State.refab
  simp +contextual (maxDischargeDepth := 99) only [hk, b15, Regs_mk, ite_blocks, forall_const, imp_self, implies_true,
      bit_off, MEM_CH_REF_CNT_COUNT_blk, addWrap_blocks]

theorem tickRestart_blocks (hk : RegsP B base s) (c : Nat) :
    RegsP B base (s.tickRestart c) := by
  unfold State.tickRestart
  simp +contextual (maxDischargeDepth := 99) only [hk, Regs_mk, ite_blocks, forall_const, imp_self, implies_true, bit_off,
      setMem_blocks]

theorem refreshTick_blocks (hk : RegsP B base s) (c : Nat) (b14 : B 14 := by first | assumption | decide)
    (b15 : B 15 := by first | assumption | decide) :
    RegsP B base (s.refreshTick c) := by
  unfold State.refreshTick
  simp +contextual (maxDischargeDepth := 99) only [hk, b14, b15, Regs_mk, ite_blocks, forall_const, imp_self, implies_true,
      bit_off, MEM_CH_STATUS_OWED_blk, MEM_EVENTS_REF_MISS_blk, setI_blocks, ev_blocks, present_blocks, refab_blocks,
      tickRestart_blocks]

theorem takeDelays_blocks (hk : RegsP B base s) (c : Nat) (b15 : B 15 := by first | assumption | decide) :
    RegsP B base (s.takeDelays c) := by
  unfold State.takeDelays
  simp +contextual (maxDischargeDepth := 99) only [hk, b15, Regs_mk, ite_blocks, forall_const, imp_self, implies_true,
      bit_off, MEM_EVENTS_BAND_SWITCH_blk, MEM_STATUS_BAND_blk, ev_blocks, setMem_blocks, foldl_range_blocks, foldl_blocks]

theorem refreshWindow_blocks (hk : RegsP B base s) (c : Nat) (b15 : B 15 := by first | assumption | decide) :
    RegsP B base (s.refreshWindow c) := by
  unfold State.refreshWindow
  simp +contextual (maxDischargeDepth := 99) only [hk, b15, Regs_mk, ite_blocks, forall_const, imp_self, implies_true,
      bit_off, MEM_CH_STATUS_OWED_blk, setI_blocks, refab_blocks, takeDelays_blocks]

theorem setDoubled_blocks (hk : RegsP B base s) (c : Nat) (b : Bool) (b15 : B 15 := by first | assumption | decide) :
    RegsP B base (s.setDoubled c b) := by
  unfold State.setDoubled
  simp +contextual (maxDischargeDepth := 99) only [hk, b15, Regs_mk, ite_blocks, forall_const, imp_self, implies_true,
      bit_off, MEM_CH_STATUS_DOUBLED_blk, MEM_STATUS_DOUBLED_blk, setB_blocks]

theorem rateDouble_blocks (hk : RegsP B base s) (c : Nat) (b15 : B 15 := by first | assumption | decide) :
    RegsP B base (s.rateDouble c) := by
  unfold State.rateDouble
  simp +contextual (maxDischargeDepth := 99) only [hk, b15, Regs_mk, ite_blocks, forall_const, imp_self, implies_true,
      bit_off, MEM_CH_STATUS_OWED_blk, MEM_EVENTS_BURST_blk, MEM_EVENTS_RATE_DOUBLE_blk, setI_blocks, ev_blocks,
      refab_blocks, tickRestart_blocks, setDoubled_blocks]

theorem rateBase_blocks (hk : RegsP B base s) (c : Nat) (b15 : B 15 := by first | assumption | decide) :
    RegsP B base (s.rateBase c) := by
  unfold State.rateBase
  simp +contextual (maxDischargeDepth := 99) only [hk, b15, Regs_mk, ite_blocks, forall_const, imp_self, implies_true,
      bit_off, MEM_CH_STATUS_OWED_blk, MEM_EVENTS_RATE_BASE_blk, setI_blocks, ev_blocks, tickRestart_blocks,
      setDoubled_blocks]

theorem rateEval_blocks (hk : RegsP B base s) (c : Nat) (b15 : B 15 := by first | assumption | decide) :
    RegsP B base (s.rateEval c) := by
  unfold State.rateEval
  simp +contextual (maxDischargeDepth := 99) only [hk, b15, Regs_mk, ite_blocks, forall_const, imp_self, implies_true,
      bit_off, MEM_CH_STATUS_DOUBLED_blk, MEM_CH_STATUS_MR4_blk, PMC_DIE_TEMP_TEMP_blk, rateDouble_blocks, rateBase_blocks]

theorem mr4Poll_blocks (hk : RegsP B base s) (c field : Nat) (b15 : B 15 := by first | assumption | decide) :
    RegsP B base (s.mr4Poll c field) := by
  unfold State.mr4Poll
  simp +contextual (maxDischargeDepth := 99) only [hk, b15, Regs_mk, ite_blocks, forall_const, imp_self, implies_true,
      bit_off, MEM_CH_STATUS_MR4_blk, MEM_EVENTS_DRAM_OVERTEMP_blk, set_blocks, ev_blocks, rateEval_blocks]

theorem bandEval_blocks (hk : RegsP B base s) (b15 : B 15 := by first | assumption | decide) :
    RegsP B base (s.bandEval) := by
  unfold State.bandEval
  simp +contextual (maxDischargeDepth := 99) only [hk, b15, Regs_mk, ite_blocks, forall_const, imp_self, implies_true,
      bit_off, MEM_STATUS_BAND_blk, MEM_STATUS_INIT_DONE_blk, PMC_DIE_TEMP_TEMP_blk, set_blocks, setMem_blocks]

theorem srIn_blocks (hk : RegsP B base s) (c : Nat) (b15 : B 15 := by first | assumption | decide) :
    RegsP B base (s.srIn c) := by
  unfold State.srIn
  simp +contextual (maxDischargeDepth := 99) only [hk, b15, Regs_mk, ite_blocks, forall_const, imp_self, implies_true,
      bit_off, MEM_CH_SR_CNT_COUNT_blk, MEM_CH_STATUS_OWED_blk, MEM_CH_STATUS_SR_blk, MEM_EVENTS_SR_ENTER_blk,
      MEM_STATUS_SR_blk, set_blocks, setI_blocks, addWrap_blocks, ev_blocks, refab_blocks]

theorem srOut_blocks (hk : RegsP B base s) (c : Nat) (b15 : B 15 := by first | assumption | decide) :
    RegsP B base (s.srOut c) := by
  unfold State.srOut
  simp +contextual (maxDischargeDepth := 99) only [hk, b15, Regs_mk, ite_blocks, forall_const, imp_self, implies_true,
      bit_off, MEM_CH_STATUS_OWED_blk, MEM_CH_STATUS_SR_blk, MEM_STATUS_SR_blk, set_blocks, setI_blocks, setMem_blocks,
      tickRestart_blocks, takeDelays_blocks]

theorem srEnter_blocks (hk : RegsP B base s) (c : Nat) (b15 : B 15 := by first | assumption | decide) :
    RegsP B base (s.srEnter c) := by
  unfold State.srEnter
  simp +contextual (maxDischargeDepth := 99) only [hk, b15, Regs_mk, ite_blocks, forall_const, imp_self, implies_true,
      bit_off, srIn_blocks]

theorem srExit_blocks (hk : RegsP B base s) (c : Nat) (beforeSre : Bool) (issued : Nat)
    (b15 : B 15 := by first | assumption | decide) :
    RegsP B base (s.srExit c beforeSre issued) := by
  unfold State.srExit
  simp +contextual (maxDischargeDepth := 99) only [hk, b15, Regs_mk, ite_blocks, forall_const, imp_self, implies_true,
      bit_off, MEM_CH_STATUS_OWED_blk, MEM_EVENTS_SR_ABANDON_blk, setI_blocks, ev_blocks, memUsed_blocks, refab_blocks,
      srOut_blocks]

theorem srAll_blocks (hk : RegsP B base s) (b15 : B 15 := by first | assumption | decide) :
    RegsP B base (s.srAll) := by
  unfold State.srAll
  simp +contextual (maxDischargeDepth := 99) only [hk, b15, Regs_mk, ite_blocks, forall_const, imp_self, implies_true,
      bit_off, srIn_blocks, foldl_range_blocks, foldl_blocks]

theorem srNone_blocks (hk : RegsP B base s) (b15 : B 15 := by first | assumption | decide) :
    RegsP B base (s.srNone) := by
  unfold State.srNone
  simp +contextual (maxDischargeDepth := 99) only [hk, b15, Regs_mk, ite_blocks, forall_const, imp_self, implies_true,
      bit_off, srOut_blocks, foldl_range_blocks, foldl_blocks]

theorem bermInit_blocks (hk : RegsP B base s) (b16 : B 16 := by first | assumption | decide) :
    RegsP B base (s.bermInit) := by
  unfold State.bermInit
  simp +contextual (maxDischargeDepth := 99) only [hk, b16, Regs_mk, ite_blocks, forall_const, imp_self, implies_true,
      bit_off, BRM_STATUS_INIT_DONE_blk, set_blocks]

theorem memInitStart_blocks (hk : RegsP B base s) (b15 : B 15 := by first | assumption | decide) :
    RegsP B base (s.memInitStart) := by
  unfold State.memInitStart
  simp +contextual (maxDischargeDepth := 99) only [hk, b15, Regs_mk, ite_blocks, forall_const, imp_self, implies_true,
      bit_off, MEM_EVENTS_CFG_ERR_blk, ev_blocks, setMem_blocks]

theorem memInitEnd_blocks (hk : RegsP B base s) (b15 : B 15 := by first | assumption | decide) :
    RegsP B base (s.memInitEnd) := by
  unfold State.memInitEnd
  simp +contextual (maxDischargeDepth := 99) only [hk, b15, Regs_mk, ite_blocks, forall_const, imp_self, implies_true,
      bit_off, MEM_CAP_MIB_blk, MEM_EVENTS_INITED_blk, MEM_STATUS_INIT_DONE_blk, set_blocks, ev_blocks, setMem_blocks,
      tickRestart_blocks, takeDelays_blocks, foldl_range_blocks, foldl_blocks]

theorem eyeRound_blocks (hk : RegsP B base s) (c : Nat) (pass : Bool) (b14 : B 14 := by first | assumption | decide)
    (b15 : B 15 := by first | assumption | decide) :
    RegsP B base (s.eyeRound c pass) := by
  unfold State.eyeRound
  simp +contextual (maxDischargeDepth := 99) only [hk, b14, b15, Regs_mk, ite_blocks, forall_const, imp_self, implies_true,
      bit_off, MEM_EVENTS_EYE_LOW_blk, ev_blocks, present_blocks]

theorem testEnd_blocks (hk : RegsP B base s) (fail : Nat) (b15 : B 15 := by first | assumption | decide) :
    RegsP B base (s.testEnd fail) := by
  unfold State.testEnd
  simp +contextual (maxDischargeDepth := 99) only [hk, b15, Regs_mk, ite_blocks, forall_const, imp_self, implies_true,
      bit_off, MEM_TEST_CTL_BUSY_blk, MEM_TEST_FAIL_blk, setReg_blocks, set_blocks, memUsed_blocks]

theorem histLost_blocks (hk : RegsP B base s) (f : Frame) (b15 : B 15 := by first | assumption | decide) :
    RegsP B base (s.histLost f) := by
  unfold State.histLost
  try dsimp only
  repeat' split
  all_goals simp +contextual (maxDischargeDepth := 99) only [hk, b15, Regs_mk, ite_blocks, forall_const, imp_self,
      implies_true, bit_off, MEM_HIST_SKIP_COUNT_blk, addSat_blocks]

theorem histFit_blocks (hk : RegsP B base s) (cap need : Nat) (l : List Frame)
    (b15 : B 15 := by first | assumption | decide) :
    RegsP B base (histFit cap need l s) := by
  induction l generalizing s with
  | nil => exact setMem_blocks hk _
  | cons f fs ih => exact ite_blocks (setMem_blocks hk _) (ih (histLost_blocks hk _))

theorem histPut_blocks (hk : RegsP B base s) (f : Frame) (b15 : B 15 := by first | assumption | decide) :
    RegsP B base (s.histPut f) := by
  unfold State.histPut
  simp +contextual (maxDischargeDepth := 99) only [hk, b15, Regs_mk, ite_blocks, forall_const, imp_self, implies_true,
      bit_off, memUsed_blocks, setMem_blocks, histFit_blocks]

theorem histRecord_blocks (hk : RegsP B base s) (n : Nat) (frames : List Frame)
    (b15 : B 15 := by first | assumption | decide) :
    RegsP B base (s.histRecord n frames) := by
  unfold State.histRecord
  simp +contextual (maxDischargeDepth := 99) only [hk, b15, Regs_mk, ite_blocks, forall_const, imp_self, implies_true,
      bit_off, setMem_blocks, histPut_blocks, foldl_range_blocks, foldl_blocks]

theorem histFrom_blocks (hk : RegsP B base s) (old : Nat) :
    RegsP B base (s.histFrom old) := by
  unfold State.histFrom
  simp +contextual (maxDischargeDepth := 99) only [hk, Regs_mk, ite_blocks, forall_const, imp_self, implies_true, bit_off,
      setMem_blocks, foldl_range_blocks, foldl_blocks]

theorem dumpStart_blocks (hk : RegsP B base s) :
    RegsP B base (s.dumpStart) := by
  unfold State.dumpStart
  simp +contextual (maxDischargeDepth := 99) only [hk, Regs_mk, ite_blocks, forall_const, imp_self, implies_true, bit_off,
      setMem_blocks]

theorem dumpEnd_blocks (hk : RegsP B base s) (b15 : B 15 := by first | assumption | decide) :
    RegsP B base (s.dumpEnd) := by
  unfold State.dumpEnd
  try dsimp only
  repeat' split
  all_goals simp +contextual (maxDischargeDepth := 99) only [hk, b15, Regs_mk, ite_blocks, forall_const, imp_self,
      implies_true, bit_off, MEM_EVENTS_HIST_DONE_blk, ev_blocks, setMem_blocks]

/-! ### Machine/Pmc.lean -/

theorem setPmc_blocks (hk : RegsP B base s) (x : PmcSt) :
    RegsP B base (s.setPmc x) := by
  unfold State.setPmc
  simp +contextual (maxDischargeDepth := 99) only [hk, Regs_mk, ite_blocks, forall_const, imp_self, implies_true, bit_off]

theorem convStart_blocks (hk : RegsP B base s) (k : Nat) (x : Int) (precal : Bool) :
    RegsP B base (s.convStart k x precal) := by
  unfold State.convStart
  simp +contextual (maxDischargeDepth := 99) only [hk, Regs_mk, ite_blocks, forall_const, imp_self, implies_true, bit_off,
      PMC_CALF_GAIN_GCAL_blk, PMC_CALF_OFS_OFS_blk, setPmc_blocks]

theorem pmcFrameClose_blocks (hk : RegsP B base s) :
    RegsP B base (s.pmcFrameClose) := by
  unfold State.pmcFrameClose
  try dsimp only
  repeat' split
  all_goals simp +contextual (maxDischargeDepth := 99) only [hk, Regs_mk, ite_blocks, forall_const, imp_self, implies_true,
      bit_off, stage_blocks, setPmc_blocks]

theorem pmcRecord_blocks (hk : RegsP B base s) (gt : Nat) (ovr precal : Bool) (r : List Byte) :
    RegsP B base (s.pmcRecord gt ovr precal r) := by
  unfold State.pmcRecord
  try dsimp only
  repeat' split
  all_goals simp +contextual (maxDischargeDepth := 99) only [hk, Regs_mk, ite_blocks, forall_const, imp_self, implies_true,
      bit_off, SCH_EPOCH_EPOCH_blk, setPmc_blocks, pmcFrameClose_blocks]

theorem passEnd_blocks (hk : RegsP B base s) (x : Int) (b12 : B 12 := by first | assumption | decide) :
    RegsP B base (s.passEnd x) := by
  unfold State.passEnd
  simp +contextual (maxDischargeDepth := 99) only [hk, b12, Regs_mk, ite_blocks, forall_const, imp_self, implies_true,
      bit_off, PMC_EVENTS_PASS_DONE_blk, PMC_PASS_CNT_COUNT_blk, PMC_PASS_GT_HI_GT_blk, PMC_PASS_GT_LO_GT_blk, set2_blocks,
      addWrap_blocks, ev_blocks, setPmc_blocks, pmcFrameClose_blocks]

theorem slotGo_blocks (hk : RegsP B base s) (i : Nat) (x : Int) (b12 : B 12 := by first | assumption | decide) :
    RegsP B base (s.slotGo i x) := by
  unfold State.slotGo
  try dsimp only
  repeat' split
  all_goals simp +contextual (maxDischargeDepth := 99) only [hk, b12, Regs_mk, ite_blocks, forall_const, imp_self,
      implies_true, bit_off, setPmc_blocks, convStart_blocks, passEnd_blocks]

theorem passLatch_blocks (hk : RegsP B base s) (b12 : B 12 := by first | assumption | decide) :
    RegsP B base (s.passLatch) := by
  unfold State.passLatch
  simp +contextual (maxDischargeDepth := 99) only [hk, b12, Regs_mk, ite_blocks, forall_const, imp_self, implies_true,
      bit_off, setPmc_blocks, slotGo_blocks]

theorem passStart_blocks (hk : RegsP B base s) (x : Int) (b12 : B 12 := by first | assumption | decide) :
    RegsP B base (s.passStart x) := by
  unfold State.passStart
  simp +contextual (maxDischargeDepth := 99) only [hk, b12, Regs_mk, ite_blocks, forall_const, imp_self, implies_true,
      bit_off, setPmc_blocks, passLatch_blocks]

theorem convRelatch_blocks (hk : RegsP B base s) (b12 : B 12 := by first | assumption | decide) :
    RegsP B base (s.convRelatch) := by
  unfold State.convRelatch
  try dsimp only
  repeat' split
  all_goals simp +contextual (maxDischargeDepth := 99) only [hk, b12, Regs_mk, ite_blocks, forall_const, imp_self,
      implies_true, bit_off, setPmc_blocks, convStart_blocks, passLatch_blocks]

theorem injGo_blocks (hk : RegsP B base s) (j : Nat) (x : Int) :
    RegsP B base (s.injGo j x) := by
  unfold State.injGo
  simp +contextual (maxDischargeDepth := 99) only [hk, Regs_mk, ite_blocks, forall_const, imp_self, implies_true, bit_off,
      setPmc_blocks, convStart_blocks]

theorem pmcKick_blocks (hk : RegsP B base s) (x : Int) (b12 : B 12 := by first | assumption | decide) :
    RegsP B base (s.pmcKick x) := by
  unfold State.pmcKick
  try dsimp only
  repeat' split
  all_goals simp +contextual (maxDischargeDepth := 99) only [hk, b12, Regs_mk, ite_blocks, forall_const, imp_self,
      implies_true, bit_off, slotGo_blocks, passStart_blocks, injGo_blocks]

theorem pmcTrig_blocks (hk : RegsP B base s) (b12 : B 12 := by first | assumption | decide) :
    RegsP B base (s.pmcTrig) := by
  unfold State.pmcTrig
  simp +contextual (maxDischargeDepth := 99) only [hk, b12, Regs_mk, ite_blocks, forall_const, imp_self, implies_true,
      bit_off, PMC_EVENTS_TRIG_OVR_blk, PMC_TRIG_OVR_REG_blk, addSat_blocks, ev_blocks, setPmc_blocks, passStart_blocks]

theorem seqStart_blocks (hk : RegsP B base s) (b12 : B 12 := by first | assumption | decide) :
    RegsP B base (s.seqStart) := by
  unfold State.seqStart
  simp +contextual (maxDischargeDepth := 99) only [hk, b12, Regs_mk, ite_blocks, forall_const, imp_self, implies_true,
      bit_off, pmcTrig_blocks]

theorem pmcTrigger_blocks (hk : RegsP B base s) (t : PmcTrig) (b12 : B 12 := by first | assumption | decide) :
    RegsP B base (s.pmcTrigger t) := by
  unfold State.pmcTrigger
  try dsimp only
  repeat' split
  all_goals simp +contextual (maxDischargeDepth := 99) only [hk, b12, Regs_mk, ite_blocks, forall_const, imp_self,
      implies_true, bit_off, pmcKick_blocks, pmcTrig_blocks]

theorem preempt_blocks (hk : RegsP B base s) (b12 : B 12 := by first | assumption | decide) :
    RegsP B base (s.preempt) := by
  unfold State.preempt
  try dsimp only
  repeat' split
  all_goals simp +contextual (maxDischargeDepth := 99) only [hk, b12, Regs_mk, ite_blocks, forall_const, imp_self,
      implies_true, bit_off, PMC_EVENTS_PREEMPT_blk, ev_blocks, setPmc_blocks]

theorem injTrig_blocks (hk : RegsP B base s) (j : Nat) (b12 : B 12 := by first | assumption | decide) :
    RegsP B base (s.injTrig j) := by
  unfold State.injTrig
  try dsimp only
  repeat' split
  all_goals simp +contextual (maxDischargeDepth := 99) only [hk, b12, Regs_mk, ite_blocks, forall_const, imp_self,
      implies_true, bit_off, PMC_EVENTS_TRIG_OVR_blk, PMC_TRIG_OVR_INJ_blk, addSat_blocks, ev_blocks, setPmc_blocks,
      pmcKick_blocks, preempt_blocks]

theorem pmcEvent_blocks (hk : RegsP B base s) (src : Nat) (b12 : B 12 := by first | assumption | decide) :
    RegsP B base (s.pmcEvent src) := by
  unfold State.pmcEvent
  simp +contextual (maxDischargeDepth := 99) only [hk, b12, Regs_mk, ite_blocks, forall_const, imp_self, implies_true,
      bit_off, pmcTrig_blocks, injTrig_blocks, foldl_range_blocks, foldl_blocks]

theorem injHw_blocks (hk : RegsP B base s) (j src : Nat) (b12 : B 12 := by first | assumption | decide) :
    RegsP B base (s.injHw j src) := by
  unfold State.injHw
  simp +contextual (maxDischargeDepth := 99) only [hk, b12, Regs_mk, ite_blocks, forall_const, imp_self, implies_true,
      bit_off, injTrig_blocks]

theorem readback_blocks (hk : RegsP B base s) (c : Conv) (u : Int) (ovr : Bool) :
    RegsP B base (s.readback c u ovr) := by
  unfold State.readback
  simp +contextual (maxDischargeDepth := 99) only [hk, Regs_mk, ite_blocks, forall_const, imp_self, implies_true, bit_off]

theorem convWrite_blocks (hk : RegsP B base s) (c : Conv) (outs : List FiltOut)
    (b12 : B 12 := by first | assumption | decide) : RegsP B base (s.convWrite c outs) := by
  have hoff : (if c.slot < 64 then PMC_SLOT_RESULT c.slot else PMC_INJ_RESULT (c.slot - 64)) / 65536 = 12 := by
    split <;> simp only [PMC_SLOT_RESULT_blk, PMC_INJ_RESULT_blk]
  unfold State.convWrite
  extract_lets r off word s1 s2 s3 src s4
  have h1 : RegsP B base s1 := setReg_blocks hk off _ (hoff ▸ b12)
  have h2 : RegsP B base s2 := ite_blocks (ev_blocks (addSat_blocks h1 _ _) _) h1
  have h3 : RegsP B base s3 := pmcRecord_blocks (readback_blocks h2 _ _ _) _ _ _ _
  have h4 : RegsP B base s4 := setPmc_blocks h3 _
  clear_value s4 s3
  split
  · exact setPmc_blocks h3 _
  · exact ev_blocks (ite_blocks h4 (pmcFrameClose_blocks h4)) _

theorem pmcResult_blocks (hk : RegsP B base s) (outs : List FiltOut) (b12 : B 12 := by first | assumption | decide) :
    RegsP B base (s.pmcResult outs) := by
  unfold State.pmcResult
  try dsimp only
  repeat' split
  all_goals simp +contextual (maxDischargeDepth := 99) only [hk, b12, Regs_mk, ite_blocks, forall_const, imp_self,
      implies_true, bit_off, setPmc_blocks, passEnd_blocks, pmcKick_blocks, convWrite_blocks]

theorem injResult_blocks (hk : RegsP B base s) (outs : List FiltOut) (b12 : B 12 := by first | assumption | decide) :
    RegsP B base (s.injResult outs) := by
  unfold State.injResult
  try dsimp only
  repeat' split
  all_goals simp +contextual (maxDischargeDepth := 99) only [hk, b12, Regs_mk, ite_blocks, forall_const, imp_self,
      implies_true, bit_off, pmcKick_blocks, convWrite_blocks]

theorem seqStop_blocks (hk : RegsP B base s) (b12 : B 12 := by first | assumption | decide) :
    RegsP B base (s.seqStop) := by
  unfold State.seqStop
  simp +contextual (maxDischargeDepth := 99) only [hk, b12, Regs_mk, ite_blocks, forall_const, imp_self, implies_true,
      bit_off, setPmc_blocks, pmcFrameClose_blocks, pmcKick_blocks]

theorem pmcCalEnd_blocks (hk : RegsP B base s) (c : PmcCal) (code value : Nat)
    (b11 : B 11 := by first | assumption | decide) (b12 : B 12 := by first | assumption | decide) :
    RegsP B base (s.pmcCalEnd c code value) := by
  unfold State.pmcCalEnd
  try dsimp only
  repeat' split
  all_goals simp +contextual (maxDischargeDepth := 99) only [hk, b11, b12, Regs_mk, ite_blocks, forall_const, imp_self,
      implies_true, bit_off, PMC_CAL_RESULT_CODE_blk, set_blocks, complete_blocks, setPmc_blocks]

theorem pmcStopAll_blocks (hk : RegsP B base s) (b11 : B 11 := by first | assumption | decide)
    (b12 : B 12 := by first | assumption | decide) :
    RegsP B base (s.pmcStopAll) := by
  unfold State.pmcStopAll
  try dsimp only
  repeat' split
  all_goals simp +contextual (maxDischargeDepth := 99) only [hk, b11, b12, Regs_mk, ite_blocks, forall_const, imp_self,
      implies_true, bit_off, setPmc_blocks, pmcFrameClose_blocks, pmcCalEnd_blocks]

theorem pmcSafeHold_blocks (hk : RegsP B base s) :
    RegsP B base (s.pmcSafeHold) := by
  unfold State.pmcSafeHold
  simp +contextual (maxDischargeDepth := 99) only [hk, Regs_mk, ite_blocks, forall_const, imp_self, implies_true, bit_off,
      setPmc_blocks]

theorem pmcRestart_blocks (hk : RegsP B base s) :
    RegsP B base (s.pmcRestart) := by
  unfold State.pmcRestart
  try dsimp only
  repeat' split
  all_goals simp +contextual (maxDischargeDepth := 99) only [hk, Regs_mk, ite_blocks, forall_const, imp_self, implies_true,
      bit_off, setPmc_blocks, convStart_blocks]

theorem pmcCalStart_blocks (hk : RegsP B base s) (cmd : Option Cmd) (mask : Nat) (nv saveOnly : Bool)
    (b11 : B 11 := by first | assumption | decide) (b12 : B 12 := by first | assumption | decide) :
    RegsP B base (s.pmcCalStart cmd mask nv saveOnly) := by
  unfold State.pmcCalStart
  try dsimp only
  repeat' split
  all_goals simp +contextual (maxDischargeDepth := 99) only [hk, b11, b12, Regs_mk, ite_blocks, forall_const, imp_self,
      implies_true, bit_off, PMC_CAL_RESULT_CODE_blk, set_blocks, complete_blocks, setPmc_blocks, pmcKick_blocks]

theorem pmcCalDone_blocks (hk : RegsP B base s) (r : List PgaMeas) (nvOk : Bool)
    (b11 : B 11 := by first | assumption | decide) (b12 : B 12 := by first | assumption | decide) :
    RegsP B base (s.pmcCalDone r nvOk) := by
  unfold State.pmcCalDone
  split
  · exact hk
  · split
    · exact hk
    · extract_lets want fac ok fail applied s1 s2 s3 copy s4 code s5 s6
      have h1 : RegsP B base s1 := foldl_blocks (nextFree_blocks hk) (fun t p ht => setI_blocks (setI_blocks ht _ _) _ _)
      have h2 : RegsP B base s2 := set_blocks h1 _ _
      have h3 : RegsP B base s3 := ite_blocks h2 (ev_blocks (set_blocks h2 _ _) _)
      have h4 : RegsP B base s4 := ite_blocks (nvPut_blocks h3 _ _) h3
      have h5 : RegsP B base s5 := ite_blocks (ev_blocks h4 _) (ite_blocks (ev_blocks h4 _) h4)
      have h6 : RegsP B base s6 := pmcCalEnd_blocks h5 _ _ _
      exact ite_blocks h6 (pmcKick_blocks h6 _)

theorem pmcWarm_blocks (hk : RegsP B base s) (b12 : B 12 := by first | assumption | decide) :
    RegsP B base (s.pmcWarm) := by
  unfold State.pmcWarm
  simp +contextual (maxDischargeDepth := 99) only [hk, b12, Regs_mk, ite_blocks, forall_const, imp_self, implies_true,
      bit_off, setPmc_blocks, pmcKick_blocks]

theorem refMove_blocks (hk : RegsP B base s) (outside : Bool) (b12 : B 12 := by first | assumption | decide)
    (b14 : B 14 := by first | assumption | decide) :
    RegsP B base (s.refMove outside) := by
  unfold State.refMove
  simp +contextual (maxDischargeDepth := 99) only [hk, b12, b14, Regs_mk, ite_blocks, forall_const, imp_self, implies_true,
      bit_off, PMC_EVENTS_REF_FAIL_blk, ev_blocks, present_blocks, setPmc_blocks]

theorem dieTemp_blocks (hk : RegsP B base s) (t : Int) (b12 : B 12 := by first | assumption | decide)
    (b14 : B 14 := by first | assumption | decide) (b15 : B 15 := by first | assumption | decide) :
    RegsP B base (s.dieTemp t) := by
  unfold State.dieTemp
  simp +contextual (maxDischargeDepth := 99) only [hk, b12, b14, b15, Regs_mk, ite_blocks, forall_const, imp_self,
      implies_true, bit_off, PMC_DIE_TEMP_TEMP_blk, PMC_DIE_TEMP_VALID_blk, set_blocks, setI_blocks, present_blocks,
      rateEval_blocks, bandEval_blocks, foldl_range_blocks, foldl_blocks]

/-! ### Machine/Phase.lean -/

theorem phsSat_blocks (hk : RegsP B base s) (n k : Nat) (ev : FRef)
    (h : B (ev.off / 65536) := by first | assumption | (simp; assumption) | (simp; done))
    (b5 : B 5 := by first | assumption | decide) (b14 : B 14 := by first | assumption | decide) :
    RegsP B base (s.phsSat n k ev) := by
  unfold State.phsSat
  simp +contextual (maxDischargeDepth := 99) only [hk, h, b5, b14, Regs_mk, ite_blocks, forall_const, imp_self,
    implies_true, bit_off, PHS_SAT_CNT_COUNT_blk, addSat_blocks, ev_blocks, present_blocks, modF_blocks]

theorem ovrScan_blocks (hk : RegsP B base s) (n : Nat) (r : Shot) (raw : List Raw4)
    (b4 : B 4 := by first | assumption | decide) (b14 : B 14 := by first | assumption | decide) :
    RegsP B base (s.ovrScan n r raw) := by
  unfold State.ovrScan
  simp +contextual (maxDischargeDepth := 99) only [hk, b4, b14, Regs_mk, ite_blocks, forall_const, imp_self, implies_true,
      bit_off, modF_blocks, overrange_blocks, blkSeen_blocks, foldl_range_blocks, foldl_blocks]

theorem blindScan_blocks (hk : RegsP B base s) (n : Nat) (r : Shot) (raw : List Raw4) :
    RegsP B base (s.blindScan n r raw) := by
  unfold State.blindScan
  simp +contextual (maxDischargeDepth := 99) only [hk, Regs_mk, ite_blocks, forall_const, imp_self, implies_true, bit_off,
      modF_blocks, blindAdd_blocks, foldl_range_blocks, foldl_blocks]

theorem phaseShot_blocks (hk : RegsP B base s) (n : Nat) (r : Shot) (raw : List Raw4)
    (b4 : B 4 := by first | assumption | decide) (b5 : B 5 := by first | assumption | decide)
    (b14 : B 14 := by first | assumption | decide) :
    RegsP B base (s.phaseShot n r raw) := by
  unfold State.phaseShot
  simp +contextual (maxDischargeDepth := 99) only [hk, b4, b5, b14, Regs_mk, ite_blocks, forall_const, imp_self,
      implies_true, bit_off, PHS_EVENTS_CH_SAT_blk, PHS_EVENTS_COMB_SAT_blk, PHS_EVENTS_COMP_SAT_blk,
      PHS_EVENTS_GAUGE_SAT_blk, PHS_EVENTS_IQ_SAT_blk, PHS_EVENTS_SLEW_blk, PHS_FADE_CNT_COUNT_blk,
      PHS_LAST_SHOT_HI_SHOT_blk, PHS_LAST_SHOT_LO_SHOT_blk, PHS_SLEW_CNT_COUNT_blk, set_blocks, set2_blocks, addSat_blocks,
      ev_blocks, modF_blocks, phsSat_blocks, ovrScan_blocks, blindScan_blocks, foldl_range_blocks, foldl_blocks]

/-! ### Machine/Track.lean -/

theorem setTrk_blocks (hk : RegsP B base s) (x : TrkSt) :
    RegsP B base (s.setTrk x) := by
  unfold State.setTrk
  simp +contextual (maxDischargeDepth := 99) only [hk, Regs_mk, ite_blocks, forall_const, imp_self, implies_true, bit_off]

theorem modQin_blocks (hk : RegsP B base s) (i : Nat) (g : QinSt → QinSt) :
    RegsP B base (s.modQin i g) := by
  unfold State.modQin
  simp +contextual (maxDischargeDepth := 99) only [hk, Regs_mk, ite_blocks, forall_const, imp_self, implies_true, bit_off,
      setTrk_blocks]

theorem trkHold_blocks (hk : RegsP B base s) :
    RegsP B base (s.trkHold) := by
  unfold State.trkHold
  try dsimp only
  repeat' split
  all_goals simp +contextual (maxDischargeDepth := 99) only [hk, Regs_mk, ite_blocks, forall_const, imp_self, implies_true,
      bit_off, setTrk_blocks]

theorem qinMove_blocks (hk : RegsP B base s) (i : Nat) (d : Int) (b9 : B 9 := by first | assumption | decide) :
    RegsP B base (s.qinMove i d) := by
  unfold State.qinMove
  simp +contextual (maxDischargeDepth := 99) only [hk, b9, Regs_mk, ite_blocks, forall_const, imp_self, implies_true,
      bit_off, TRK_QIN_POS_POS_blk, set_blocks, modQin_blocks]

theorem qinSpeed_blocks (hk : RegsP B base s) (i : Nat) (b9 : B 9 := by first | assumption | decide) :
    RegsP B base (s.qinSpeed i) := by
  unfold State.qinSpeed
  simp +contextual (maxDischargeDepth := 99) only [hk, b9, Regs_mk, ite_blocks, forall_const, imp_self, implies_true,
      bit_off, TRK_QIN_SPEED_SPEED_blk, TRK_QIN_STATUS_DIR_blk, TRK_QIN_STATUS_SPD_VALID_blk, setI_blocks, setB_blocks,
      foldl_range_blocks, foldl_blocks]

theorem qinEdgeErr_blocks (hk : RegsP B base s) (i : Nat) (b14 : B 14 := by first | assumption | decide) :
    RegsP B base (s.qinEdgeErr i) := by
  unfold State.qinEdgeErr
  simp +contextual (maxDischargeDepth := 99) only [hk, b14, Regs_mk, ite_blocks, forall_const, imp_self, implies_true,
      bit_off, present_blocks, modQin_blocks]

theorem cmpPulse_blocks (hk : RegsP B base s) (c : Nat) :
    RegsP B base (s.cmpPulse c) := by
  unfold State.cmpPulse
  try dsimp only
  repeat' split
  all_goals simp +contextual (maxDischargeDepth := 99) only [hk, Regs_mk, ite_blocks, forall_const, imp_self, implies_true,
      bit_off, setTrk_blocks]

theorem cmpFire_blocks (hk : RegsP B base s) (c : Nat) (b9 : B 9 := by first | assumption | decide)
    (b12 : B 12 := by first | assumption | decide) :
    RegsP B base (s.cmpFire c) := by
  unfold State.cmpFire
  simp +contextual (maxDischargeDepth := 99) only [hk, b9, b12, Regs_mk, ite_blocks, forall_const, imp_self, implies_true,
      bit_off, TRK_CMP_CFG_EN_blk, TRK_CMP_EVENTS_FIRED_blk, TRK_CMP_VALUE_VALUE_blk, TRK_EVENTS_CMP_FIRED_blk, set_blocks,
      addWrap_blocks, set1_blocks, ev_blocks, pmcEvent_blocks, cmpPulse_blocks]

theorem cmpCheck_blocks (hk : RegsP B base s) (i : Nat) (down : Bool) (b9 : B 9 := by first | assumption | decide)
    (b12 : B 12 := by first | assumption | decide) :
    RegsP B base (s.cmpCheck i down) := by
  unfold State.cmpCheck
  simp +contextual (maxDischargeDepth := 99) only [hk, b12, b9, Regs_mk, ite_blocks, forall_const, imp_self, implies_true,
      bit_off, TRK_CMP_CFG_EN_blk, TRK_CMP_VALUE_VALUE_blk, TRK_QIN_POS_POS_blk, cmpFire_blocks, foldl_range_blocks,
      foldl_blocks]

theorem cmpValue_blocks (hk : RegsP B base s) (c : Nat) (v : Word) (b9 : B 9 := by first | assumption | decide) :
    RegsP B base (s.cmpValue c v) := by
  unfold State.cmpValue
  simp +contextual (maxDischargeDepth := 99) only [hk, b9, Regs_mk, ite_blocks, forall_const, imp_self, implies_true,
      bit_off, TRK_CMP_DIST_DIST_blk, TRK_CMP_EVENTS_BEHIND_blk, TRK_CMP_VALUE_VALUE_blk, TRK_EVENTS_CMP_BEHIND_blk,
      TRK_QIN_POS_POS_blk, TRK_QIN_STATUS_DIR_blk, TRK_QIN_STATUS_MOVING_blk, set_blocks, set1_blocks, ev_blocks]

theorem qinCount_blocks (hk : RegsP B base s) (i st : Nat) (down lineA : Bool) (b9 : B 9 := by first | assumption | decide)
    (b12 : B 12 := by first | assumption | decide) (b14 : B 14 := by first | assumption | decide) :
    RegsP B base (s.qinCount i st down lineA) := by
  unfold State.qinCount
  try dsimp only
  repeat' split
  all_goals simp +contextual (maxDischargeDepth := 99) only [hk, b9, b12, b14, Regs_mk, ite_blocks, forall_const, imp_self,
      implies_true, bit_off, TRK_EVENTS_FAST_blk, TRK_QIN_ERR_CNT_FAST_blk, TRK_QIN_POS_POS_blk, TRK_QIN_STATUS_DIR_blk,
      TRK_QIN_STATUS_FAST_blk, TRK_QIN_STATUS_MOVING_blk, set_blocks, setB_blocks, addSat_blocks, set1_blocks, ev_blocks,
      modQin_blocks, qinMove_blocks, qinSpeed_blocks, qinEdgeErr_blocks, cmpCheck_blocks]

theorem qinIllegal_blocks (hk : RegsP B base s) (i st : Nat) (b9 : B 9 := by first | assumption | decide)
    (b14 : B 14 := by first | assumption | decide) :
    RegsP B base (s.qinIllegal i st) := by
  unfold State.qinIllegal
  simp +contextual (maxDischargeDepth := 99) only [hk, b9, b14, Regs_mk, ite_blocks, forall_const, imp_self, implies_true,
      bit_off, TRK_EVENTS_ILLEGAL_blk, TRK_QIN_ERR_CNT_ILLEGAL_blk, TRK_QIN_STATUS_ILLEGAL_blk, addSat_blocks, set1_blocks,
      ev_blocks, modQin_blocks, qinEdgeErr_blocks]

theorem encoderEdge_blocks (hk : RegsP B base s) (i : Nat) (qa qb : Bool) (b9 : B 9 := by first | assumption | decide)
    (b12 : B 12 := by first | assumption | decide) (b14 : B 14 := by first | assumption | decide) :
    RegsP B base (s.encoderEdge i qa qb) := by
  unfold State.encoderEdge
  simp +contextual (maxDischargeDepth := 99) only [hk, b9, b12, b14, Regs_mk, ite_blocks, forall_const, imp_self,
      implies_true, bit_off, TRK_QIN_STATUS_LINES_blk, set_blocks, trkHold_blocks, qinCount_blocks, qinIllegal_blocks]

theorem encoderStall_blocks (hk : RegsP B base s) (i : Nat) (b9 : B 9 := by first | assumption | decide) :
    RegsP B base (s.encoderStall i) := by
  unfold State.encoderStall
  try dsimp only
  repeat' split
  all_goals simp +contextual (maxDischargeDepth := 99) only [hk, b9, Regs_mk, ite_blocks, forall_const, imp_self,
      implies_true, bit_off, TRK_QIN_STATUS_MOVING_blk, set_blocks, modQin_blocks, qinSpeed_blocks]

theorem qinLoad_blocks (hk : RegsP B base s) (i : Nat) (v : Word) (b9 : B 9 := by first | assumption | decide) :
    RegsP B base (s.qinLoad i v) := by
  unfold State.qinLoad
  simp +contextual (maxDischargeDepth := 99) only [hk, b9, Regs_mk, ite_blocks, forall_const, imp_self, implies_true,
      bit_off, TRK_QIN_POS_POS_blk, qinMove_blocks]

theorem qinPosRead_blocks (hk : RegsP B base s) (i : Nat) :
    RegsP B base (s.qinPosRead i) := by
  unfold State.qinPosRead
  simp +contextual (maxDischargeDepth := 99) only [hk, Regs_mk, ite_blocks, forall_const, imp_self, implies_true, bit_off,
      modQin_blocks]

theorem indexTake_blocks (hk : RegsP B base s) (i : Nat) (b9 : B 9 := by first | assumption | decide) :
    RegsP B base (s.indexTake i) := by
  unfold State.indexTake
  simp +contextual (maxDischargeDepth := 99) only [hk, b9, Regs_mk, ite_blocks, forall_const, imp_self, implies_true,
      bit_off, TRK_EVENTS_INDEX_MISMATCH_blk, TRK_QIN_IDX_CAP_CAP_blk, TRK_QIN_IDX_ERR_ERR_blk, TRK_QIN_IDX_REF_REF_blk,
      TRK_QIN_POS_POS_blk, TRK_QIN_STATUS_INDEX_MISMATCH_blk, TRK_QIN_STATUS_INDEX_SEEN_blk, set_blocks, setI_blocks,
      set1_blocks, ev_blocks, modQin_blocks, qinMove_blocks]

theorem indexPulse_blocks (hk : RegsP B base s) (i : Nat) (level : Bool) (b9 : B 9 := by first | assumption | decide) :
    RegsP B base (s.indexPulse i level) := by
  unfold State.indexPulse
  simp +contextual (maxDischargeDepth := 99) only [hk, b9, Regs_mk, ite_blocks, forall_const, imp_self, implies_true,
      bit_off, TRK_QIN_STATUS_LINES_blk, set_blocks, trkHold_blocks, indexTake_blocks]

theorem historyRecord_blocks (hk : RegsP B base s) (i : Nat) :
    RegsP B base (s.historyRecord i) := by
  unfold State.historyRecord
  simp +contextual (maxDischargeDepth := 99) only [hk, Regs_mk, ite_blocks, forall_const, imp_self, implies_true, bit_off,
      TRK_QIN_POS_POS_blk, TRK_QIN_SPEED_SPEED_blk, modQin_blocks]

theorem msEdge_blocks (hk : RegsP B base s) (m : Nat) (falling : Bool) (stamp : Nat)
    (b9 : B 9 := by first | assumption | decide) :
    RegsP B base (s.msEdge m falling stamp) := by
  unfold State.msEdge
  simp +contextual (maxDischargeDepth := 99) only [hk, b9, Regs_mk, ite_blocks, forall_const, imp_self, implies_true,
      bit_off, TRK_EVENTS_MS_EDGE_blk, TRK_EVENTS_MS_OVF_blk, ev_blocks, modF_blocks, setTrk_blocks]

theorem setSsi_blocks (hk : RegsP B base s) (p : Nat) (x : SsiSt) :
    RegsP B base (s.setSsi p x) := by
  unfold State.setSsi
  simp +contextual (maxDischargeDepth := 99) only [hk, Regs_mk, ite_blocks, forall_const, imp_self, implies_true, bit_off,
      setTrk_blocks]

theorem ssiStart_blocks (hk : RegsP B base s) (p : Nat) (datLow : Bool) (b9 : B 9 := by first | assumption | decide) :
    RegsP B base (s.ssiStart p datLow) := by
  unfold State.ssiStart
  simp +contextual (maxDischargeDepth := 99) only [hk, b9, Regs_mk, ite_blocks, forall_const, imp_self, implies_true,
      bit_off, TRK_EVENTS_SSI_ERR_blk, TRK_EVENTS_SSI_OVR_blk, TRK_SSI_STATUS_OVR_blk, TRK_SSI_STATUS_START_ERR_blk,
      set1_blocks, ev_blocks, setSsi_blocks]

theorem ssiEnd_blocks (hk : RegsP B base s) (p : Nat) (bits : Nat) (datLow : Bool) (high : Nat)
    (b9 : B 9 := by first | assumption | decide) :
    RegsP B base (s.ssiEnd p bits datLow high) := by
  unfold State.ssiEnd
  simp +contextual (maxDischargeDepth := 99) only [hk, b9, Regs_mk, ite_blocks, forall_const, imp_self, implies_true,
      bit_off, TRK_EVENTS_SSI_ERR_blk, TRK_SSI_DATA_DATA_blk, TRK_SSI_STATUS_END_ERR_blk, TRK_SSI_STATUS_VALID_blk,
      set_blocks, set1_blocks, ev_blocks, setSsi_blocks]

theorem modEnc_blocks (hk : RegsP B base s) (m : Nat) (g : EncSt → EncSt) :
    RegsP B base (s.modEnc m g) := by
  unfold State.modEnc
  simp +contextual (maxDischargeDepth := 99) only [hk, Regs_mk, ite_blocks, forall_const, imp_self, implies_true, bit_off,
      setTrk_blocks]

theorem encHold_blocks (hk : RegsP B base s) (m : Nat) (gone : Bool) (b9 : B 9 := by first | assumption | decide) :
    RegsP B base (s.encHold m gone) := by
  unfold State.encHold
  simp +contextual (maxDischargeDepth := 99) only [hk, b9, Regs_mk, ite_blocks, forall_const, imp_self, implies_true,
      bit_off, TRK_ENC_STATUS_HOLD_blk, TRK_ENC_STATUS_RUN_blk, TRK_ENC_STATUS_SRC_LOST_blk, TRK_EVENTS_ENC_SRC_LOST_blk,
      set_blocks, set1_blocks, ev_blocks, modEnc_blocks]

theorem encTarget_blocks (hk : RegsP B base s) (m : Nat) (b9 : B 9 := by first | assumption | decide) :
    RegsP B base (s.encTarget m) := by
  unfold State.encTarget
  try dsimp only
  repeat' split
  all_goals simp +contextual (maxDischargeDepth := 99) only [hk, b9, Regs_mk, ite_blocks, forall_const, imp_self,
      implies_true, bit_off, TRK_ENC_COUNT_COUNT_blk, TRK_ENC_STATUS_HOLD_blk, TRK_ENC_STATUS_LAG_blk,
      TRK_ENC_STATUS_RUN_blk, TRK_EVENTS_ENC_LAG_blk, set_blocks, set1_blocks, ev_blocks, modEnc_blocks, encHold_blocks]

theorem encUpdate_blocks (hk : RegsP B base s) (m : Nat) (b9 : B 9 := by first | assumption | decide) :
    RegsP B base (s.encUpdate m) := by
  unfold State.encUpdate
  simp +contextual (maxDischargeDepth := 99) only [hk, b9, Regs_mk, ite_blocks, forall_const, imp_self, implies_true,
      bit_off, encTarget_blocks]

theorem encStep_blocks (hk : RegsP B base s) (m : Nat) (b9 : B 9 := by first | assumption | decide) :
    RegsP B base (s.encStep m) := by
  unfold State.encStep
  simp +contextual (maxDischargeDepth := 99) only [hk, b9, Regs_mk, ite_blocks, forall_const, imp_self, implies_true,
      bit_off, TRK_ENC_COUNT_COUNT_blk, TRK_ENC_STATUS_RUN_blk, set_blocks, modEnc_blocks]

theorem encResume_blocks (hk : RegsP B base s) (m : Nat) (b9 : B 9 := by first | assumption | decide) :
    RegsP B base (s.encResume m) := by
  unfold State.encResume
  try dsimp only
  repeat' split
  all_goals simp +contextual (maxDischargeDepth := 99) only [hk, b9, Regs_mk, ite_blocks, forall_const, imp_self,
      implies_true, bit_off, TRK_ENC_COUNT_COUNT_blk, TRK_ENC_STATUS_HOLD_blk, TRK_ENC_STATUS_RUN_blk, set_blocks,
      setI_blocks, modEnc_blocks, encTarget_blocks]

theorem encCheck_blocks (hk : RegsP B base s) (n : Nat) (b9 : B 9 := by first | assumption | decide) :
    RegsP B base (s.encCheck n) := by
  refine foldl_blocks hk (fun t m ht => ite_blocks ?_ ht)
  split
  · exact encHold_blocks ht _ _
  · exact encHold_blocks ht _ _
  · exact ht

theorem trackId_blocks (hk : RegsP B base s) (m : Nat) (v : Word) (b9 : B 9 := by first | assumption | decide) :
    RegsP B base (s.trackId m v) := by
  unfold State.trackId
  simp +contextual (maxDischargeDepth := 99) only [hk, b9, Regs_mk, ite_blocks, forall_const, imp_self, implies_true,
      bit_off, TRK_ENC_STATUS_SRC_LOST_blk, TRK_ENC_TRACK_ID_ID_blk, set_blocks, modEnc_blocks, encResume_blocks]

theorem trkContain_blocks (hk : RegsP B base s) :
    RegsP B base (s.trkContain) := by
  unfold State.trkContain
  simp +contextual (maxDischargeDepth := 99) only [hk, Regs_mk, ite_blocks, forall_const, imp_self, implies_true, bit_off,
      setTrk_blocks]

theorem trkResume_blocks (hk : RegsP B base s) (b9 : B 9 := by first | assumption | decide) :
    RegsP B base (s.trkResume) := by
  unfold State.trkResume
  simp +contextual (maxDischargeDepth := 99) only [hk, b9, Regs_mk, ite_blocks, forall_const, imp_self, implies_true,
      bit_off, encResume_blocks, foldl_range_blocks, foldl_blocks]

theorem cmpPulseEnd_blocks (hk : RegsP B base s) (pin : Nat) :
    RegsP B base (s.cmpPulseEnd pin) := by
  unfold State.cmpPulseEnd
  simp +contextual (maxDischargeDepth := 99) only [hk, Regs_mk, ite_blocks, forall_const, imp_self, implies_true, bit_off,
      setTrk_blocks]

theorem trkWritten_blocks (hk : RegsP B base s) (off : Nat) (old : Word) (b9 : B 9 := by first | assumption | decide) :
    RegsP B base (s.trkWritten off old) := by
  unfold State.trkWritten
  try dsimp only
  repeat' split
  all_goals simp +contextual (maxDischargeDepth := 99) only [hk, b9, Regs_mk, ite_blocks, forall_const, imp_self,
      implies_true, bit_off, TRK_SSI_STATUS_VALID_blk, set_blocks, modQin_blocks, setSsi_blocks]

/-! ### Machine/Acoustic.lean -/

theorem swapReq_blocks (hk : RegsP B base s) (n log2 : Nat) (target : Bool) (b6 : B 6 := by first | assumption | decide) :
    RegsP B base (s.swapReq n log2 target) := by
  unfold State.swapReq
  try dsimp only
  repeat' split
  all_goals simp +contextual (maxDischargeDepth := 99) only [hk, b6, Regs_mk, ite_blocks, forall_const, imp_self,
      implies_true, bit_off, ACF_EVENTS_FADE_HELD_blk, ACF_EVENTS_FADE_REPLACED_blk, ev_blocks, modF_blocks]

theorem swapsRun_blocks (hk : RegsP B base s) (n log2 : Nat) (b6 : B 6 := by first | assumption | decide) :
    RegsP B base (s.swapsRun n log2) := by
  unfold State.swapsRun
  try dsimp only
  repeat' split
  all_goals simp +contextual (maxDischargeDepth := 99) only [hk, b6, Regs_mk, ite_blocks, forall_const, imp_self,
      implies_true, bit_off, modF_blocks, swapReq_blocks, foldl_range_blocks, foldl_blocks]

theorem xfStep_blocks (hk : RegsP B base s) (n : Nat) (b6 : B 6 := by first | assumption | decide) :
    RegsP B base (s.xfStep n) := by
  unfold State.xfStep
  try dsimp only
  repeat' split
  all_goals simp +contextual (maxDischargeDepth := 99) only [hk, b6, Regs_mk, ite_blocks, forall_const, imp_self,
      implies_true, bit_off, ACF_EVENTS_XF_DONE_blk, ACF_STATUS_XF_POS_blk, set_blocks, ev_blocks, modF_blocks]

theorem acfShow_blocks (hk : RegsP B base s) (n : Nat) (b6 : B 6 := by first | assumption | decide) :
    RegsP B base (s.acfShow n) := by
  unfold State.acfShow
  simp +contextual (maxDischargeDepth := 99) only [hk, b6, Regs_mk, ite_blocks, forall_const, imp_self, implies_true,
      bit_off, ACF_STATUS_ACTIVE_blk, ACF_STATUS_HELD_TARGET_blk, ACF_STATUS_HELD_blk, ACF_STATUS_XFADING_blk, setB_blocks]

theorem swapsSettle_blocks (hk : RegsP B base s) (n : Nat) (i : AcfIn) (b6 : B 6 := by first | assumption | decide) :
    RegsP B base (s.swapsSettle n i) := by
  unfold State.swapsSettle
  simp +contextual (maxDischargeDepth := 99) only [hk, b6, Regs_mk, ite_blocks, forall_const, imp_self, implies_true,
      bit_off, ACF_EVENTS_XF_DONE_blk, ev_blocks, modF_blocks]

theorem acfLim_blocks (hk : RegsP B base s) (n k : Nat) (b6 : B 6 := by first | assumption | decide) :
    RegsP B base (s.acfLim n k) := by
  unfold State.acfLim
  simp +contextual (maxDischargeDepth := 99) only [hk, b6, Regs_mk, ite_blocks, forall_const, imp_self, implies_true,
      bit_off, ACF_EVENTS_LIM_blk, ACF_LIM_CNT_COUNT_blk, addSat_blocks, ev_blocks]

theorem acfSat_blocks (hk : RegsP B base s) (n k : Nat) (b6 : B 6 := by first | assumption | decide)
    (b14 : B 14 := by first | assumption | decide) :
    RegsP B base (s.acfSat n k) := by
  unfold State.acfSat
  simp +contextual (maxDischargeDepth := 99) only [hk, b6, b14, Regs_mk, ite_blocks, forall_const, imp_self, implies_true,
      bit_off, ACF_EVENTS_SAT_blk, ACF_SAT_CNT_COUNT_blk, addSat_blocks, ev_blocks, present_blocks, modF_blocks]

theorem evtTake_blocks (hk : RegsP B base s) (n : Nat) (x : EvtOut) (b6 : B 6 := by first | assumption | decide) :
    RegsP B base (s.evtTake n x) := by
  unfold State.evtTake
  simp +contextual (maxDischargeDepth := 99) only [hk, b6, Regs_mk, ite_blocks, forall_const, imp_self, implies_true,
      bit_off, modF_blocks, acfLim_blocks, foldl_range_blocks, foldl_blocks]

theorem evtShow_blocks (hk : RegsP B base s) (n : Nat) (b8 : B 8 := by first | assumption | decide) :
    RegsP B base (s.evtShow n) := by
  unfold State.evtShow
  simp +contextual (maxDischargeDepth := 99) only [hk, b8, Regs_mk, ite_blocks, forall_const, imp_self, implies_true,
      bit_off, EVT_STATUS_DET_CELLS_blk, EVT_STATUS_TRACKS_blk, EVT_STATUS_WARMUP_blk, set_blocks, setB_blocks]

theorem evtReset_blocks (hk : RegsP B base s) (n : Nat) (b8 : B 8 := by first | assumption | decide)
    (b9 : B 9 := by first | assumption | decide) :
    RegsP B base (s.evtReset n) := by
  unfold State.evtReset
  simp +contextual (maxDischargeDepth := 99) only [hk, b8, b9, Regs_mk, ite_blocks, forall_const, imp_self, implies_true,
      bit_off, modF_blocks, encCheck_blocks, evtShow_blocks]

theorem evtIdle_blocks (hk : RegsP B base s) (n : Nat) (b8 : B 8 := by first | assumption | decide)
    (b9 : B 9 := by first | assumption | decide) :
    RegsP B base (s.evtIdle n) := by
  unfold State.evtIdle
  simp +contextual (maxDischargeDepth := 99) only [hk, b8, b9, Regs_mk, ite_blocks, forall_const, imp_self, implies_true,
      bit_off, modF_blocks, evtReset_blocks]

theorem evtAdvance_blocks (hk : RegsP B base s) (n : Nat) (q : List EvtIn) (b6 : B 6 := by first | assumption | decide)
    (b8 : B 8 := by first | assumption | decide) (b9 : B 9 := by first | assumption | decide) :
    RegsP B base (evtAdvance n q s) := by
  induction q generalizing s with
  | nil => exact modF_blocks hk _ _
  | cons x q ih =>
    cases x with
    | restart => exact ih (evtReset_blocks hk _)
    | out x => exact ite_blocks (modF_blocks (evtTake_blocks hk _ _) _ _) (ih (evtTake_blocks hk _ _))

theorem evtPush_blocks (hk : RegsP B base s) (n : Nat) (x : EvtIn) (b6 : B 6 := by first | assumption | decide)
    (b8 : B 8 := by first | assumption | decide) (b9 : B 9 := by first | assumption | decide) :
    RegsP B base (s.evtPush n x) := by
  unfold State.evtPush
  simp +contextual (maxDischargeDepth := 99) only [hk, b9, b6, b8, Regs_mk, ite_blocks, forall_const, imp_self, implies_true,
      bit_off, modF_blocks, evtAdvance_blocks]

theorem evtFeed_blocks (hk : RegsP B base s) (n : Nat) (x : EvtOut) (b6 : B 6 := by first | assumption | decide)
    (b8 : B 8 := by first | assumption | decide) (b9 : B 9 := by first | assumption | decide) :
    RegsP B base (s.evtFeed n x) := by
  unfold State.evtFeed
  simp +contextual (maxDischargeDepth := 99) only [hk, b9, b6, b8, Regs_mk, ite_blocks, forall_const, imp_self, implies_true,
      bit_off, evtPush_blocks]

theorem acfTake_blocks (hk : RegsP B base s) (n : Nat) (i : AcfIn) (b6 : B 6 := by first | assumption | decide) :
    RegsP B base (s.acfTake n i) := by
  unfold State.acfTake
  simp +contextual (maxDischargeDepth := 99) only [hk, b6, Regs_mk, ite_blocks, forall_const, imp_self, implies_true,
      bit_off, ACF_EVENTS_RESTART_blk, ACF_STATUS_FILLING_blk, set_blocks, ev_blocks, modF_blocks, acfShow_blocks,
      swapsSettle_blocks, acfLim_blocks, foldl_range_blocks, foldl_blocks]

theorem acfEmit_blocks (hk : RegsP B base s) (n : Nat) (i : AcfIn) (b6 : B 6 := by first | assumption | decide)
    (b8 : B 8 := by first | assumption | decide) (b9 : B 9 := by first | assumption | decide)
    (b14 : B 14 := by first | assumption | decide) (b15 : B 15 := by first | assumption | decide) :
    RegsP B base (s.acfEmit n i) := by
  unfold State.acfEmit
  extract_lets r s1 a dec bins coefs old new outs s2 s3 st sd s4 lost s5 frames num s6 kept
  have h1 : RegsP B base s1 := swapsRun_blocks hk _ _
  have h3 : RegsP B base s3 := acfSat_blocks (acfLim_blocks (modF_blocks h1 _ _) _ _) _ _
  have hd : RegsP B base sd := ite_blocks (set2_blocks h3 _ _ _) h3
  have h4 : RegsP B base s4 := acfShow_blocks (xfStep_blocks (set2_blocks hd _ _ _) _) _
  have h5 : RegsP B base s5 := ite_blocks (ev_blocks (set_blocks h4 _ _) _) h4
  have h6 : RegsP B base s6 := ite_blocks h5 (foldl_blocks h5 (fun t f ht => stageFor_blocks ht _ _))
  exact ite_blocks h4 (histRecord_blocks (evtFeed_blocks h6 _ _) _ _)

theorem acfStart_blocks (hk : RegsP B base s) (n : Nat) (i : AcfIn) (b6 : B 6 := by first | assumption | decide)
    (b8 : B 8 := by first | assumption | decide) (b9 : B 9 := by first | assumption | decide) :
    RegsP B base (s.acfStart n i) := by
  unfold State.acfStart
  simp +contextual (maxDischargeDepth := 99) only [hk, b9, b6, b8, Regs_mk, ite_blocks, forall_const, imp_self, implies_true,
      bit_off, evtPush_blocks, acfTake_blocks]

theorem acfAdvance_blocks (hk : RegsP B base s) (n : Nat) (q : List AcfIn) (b6 : B 6 := by first | assumption | decide)
    (b8 : B 8 := by first | assumption | decide) (b9 : B 9 := by first | assumption | decide) :
    RegsP B base (acfAdvance n q s) := by
  induction q generalizing s with
  | nil => exact modF_blocks hk _ _
  | cons i q ih => exact ite_blocks (modF_blocks (acfStart_blocks hk _ _) _ _) (ih (acfStart_blocks hk _ _))

theorem acfPush_blocks (hk : RegsP B base s) (n : Nat) (i : AcfIn) (b6 : B 6 := by first | assumption | decide)
    (b8 : B 8 := by first | assumption | decide) (b9 : B 9 := by first | assumption | decide) :
    RegsP B base (s.acfPush n i) := by
  unfold State.acfPush
  simp +contextual (maxDischargeDepth := 99) only [hk, b9, b6, b8, Regs_mk, ite_blocks, forall_const, imp_self, implies_true,
      bit_off, modF_blocks, acfAdvance_blocks]

theorem acfOutput_blocks (hk : RegsP B base s) (n : Nat) (b6 : B 6 := by first | assumption | decide)
    (b8 : B 8 := by first | assumption | decide) (b9 : B 9 := by first | assumption | decide)
    (b14 : B 14 := by first | assumption | decide) (b15 : B 15 := by first | assumption | decide) :
    RegsP B base (s.acfOutput n) := by
  unfold State.acfOutput
  try dsimp only
  repeat' split
  all_goals simp +contextual (maxDischargeDepth := 99) only [hk, b6, b8, b9, b14, b15, Regs_mk, ite_blocks, forall_const,
      imp_self, implies_true, bit_off, memWork_blocks, acfEmit_blocks, acfAdvance_blocks]

theorem shotProcess_blocks (hk : RegsP B base s) (n : Nat) (raw : List Raw4) (b4 : B 4 := by first | assumption | decide)
    (b5 : B 5 := by first | assumption | decide) (b6 : B 6 := by first | assumption | decide)
    (b8 : B 8 := by first | assumption | decide) (b9 : B 9 := by first | assumption | decide)
    (b14 : B 14 := by first | assumption | decide) :
    RegsP B base (s.shotProcess n raw) := by
  unfold State.shotProcess
  try dsimp only
  repeat' split
  all_goals simp +contextual (maxDischargeDepth := 99) only [hk, b4, b5, b6, b8, b9, b14, Regs_mk, ite_blocks, forall_const,
      imp_self, implies_true, bit_off, memWork_blocks, phaseShot_blocks, acfPush_blocks]

/-! ### Machine/Raman.lean -/

theorem ramanOvr_blocks (hk : RegsP B base s) (n c : Nat) (r : Shot) (xs : List (Int × Bool))
    (b4 : B 4 := by first | assumption | decide) (b14 : B 14 := by first | assumption | decide) :
    RegsP B base (s.ramanOvr n c r xs) := by
  unfold State.ramanOvr
  simp +contextual (maxDischargeDepth := 99) only [hk, b4, b14, Regs_mk, ite_blocks, forall_const, imp_self, implies_true,
      bit_off, overrange_blocks, blkSeen_blocks, foldl_range_blocks, foldl_blocks]

theorem modDts_blocks (hk : RegsP B base s) (n : Nat) (g : DtsSt → DtsSt) :
    RegsP B base (s.modDts n g) := by
  unfold State.modDts
  simp +contextual (maxDischargeDepth := 99) only [hk, Regs_mk, ite_blocks, forall_const, imp_self, implies_true, bit_off,
      modF_blocks]

theorem dtsSwap_blocks (hk : RegsP B base s) (n : Nat) :
    RegsP B base (s.dtsSwap n) := by
  unfold State.dtsSwap
  try dsimp only
  repeat' split
  all_goals simp +contextual (maxDischargeDepth := 99) only [hk, Regs_mk, ite_blocks, forall_const, imp_self, implies_true,
      bit_off, modDts_blocks]

theorem ramanMark_blocks (hk : RegsP B base s) (n : Nat) (l : List Nat) :
    RegsP B base (s.ramanMark n l) := by
  unfold State.ramanMark
  simp +contextual (maxDischargeDepth := 99) only [hk, Regs_mk, ite_blocks, forall_const, imp_self, implies_true, bit_off,
      modF_blocks]

theorem ramanTake_blocks (hk : RegsP B base s) (n : Nat) (stokes anti : List Int)
    (b4 : B 4 := by first | assumption | decide) (b7 : B 7 := by first | assumption | decide)
    (b14 : B 14 := by first | assumption | decide) :
    RegsP B base (s.ramanTake n stokes anti) := by
  unfold State.ramanTake
  try dsimp only
  repeat' split
  all_goals simp +contextual (maxDischargeDepth := 99) only [hk, b4, b7, b14, Regs_mk, ite_blocks, forall_const, imp_self,
      implies_true, bit_off, DTS_LAST_SHOT_HI_SHOT_blk, DTS_LAST_SHOT_LO_SHOT_blk, set2_blocks, memWork_blocks,
      ramanOvr_blocks, modDts_blocks, dtsSwap_blocks, ramanMark_blocks]

theorem dtsDrop_blocks (hk : RegsP B base s) (n : Nat) (first : Option Nat)  :
    RegsP B base (s.dtsDrop n first).1 := by
  unfold State.dtsDrop
  exact ite_blocks (modDts_blocks (ramanMark_blocks hk _ _) _ _) (ramanMark_blocks hk _ _)

theorem dtsRestart_blocks (hk : RegsP B base s) (n : Nat) (b7 : B 7 := by first | assumption | decide) :
    RegsP B base (s.dtsRestart n) := ev_blocks (dtsDrop_blocks hk n _) _

theorem dtsDiscard_blocks (hk : RegsP B base s) (n : Nat) (first : Option Nat) (b7 : B 7 := by first | assumption | decide) :
    RegsP B base (s.dtsDiscard n first) :=
  ite_blocks (ev_blocks (addSat_blocks (dtsDrop_blocks hk n _) _ _) _) hk

theorem accPoison_blocks (hk : RegsP B base s) (e : MemErr) (b7 : B 7 := by first | assumption | decide) :
    RegsP B base (s.accPoison e) := by
  unfold State.accPoison
  try dsimp only
  repeat' split
  all_goals simp +contextual (maxDischargeDepth := 99) only [hk, b7, Regs_mk, ite_blocks, forall_const, imp_self,
      implies_true, bit_off, DTS_DISCARD_CNT_COUNT_blk, DTS_EVENTS_DISCARD_blk, addSat_blocks, ev_blocks, modDts_blocks,
      foldl_range_blocks, foldl_blocks]

theorem scrubPass_blocks (hk : RegsP B base s) (errs : List MemErr) (b7 : B 7 := by first | assumption | decide)
    (b14 : B 14 := by first | assumption | decide) (b15 : B 15 := by first | assumption | decide)
    (b16 : B 16 := by first | assumption | decide) :
    RegsP B base (s.scrubPass errs) := by
  unfold State.scrubPass
  simp +contextual (maxDischargeDepth := 99) only [hk, b7, b14, b15, b16, Regs_mk, ite_blocks, forall_const, imp_self,
      implies_true, bit_off, BRM_EVENTS_SCRUB_PASS_blk, BRM_PASS_CNT_COUNT_blk, addWrap_blocks, ev_blocks, memErr_blocks,
      accPoison_blocks, foldl_range_blocks, foldl_blocks]

theorem dtsEnd_blocks (hk : RegsP B base s) (n : Nat) (b7 : B 7 := by first | assumption | decide)
    (b14 : B 14 := by first | assumption | decide) :
    RegsP B base (s.dtsEnd n) := by
  unfold State.dtsEnd
  try dsimp only
  repeat' split
  all_goals simp +contextual (maxDischargeDepth := 99) only [hk, b7, b14, Regs_mk, ite_blocks, forall_const, imp_self,
      implies_true, bit_off, DTS_DONE_CNT_COUNT_blk, DTS_EVENTS_DONE_blk, DTS_EVENTS_REF_INVALID_blk,
      DTS_EVENTS_REF_STALE_blk, DTS_TREF_LAST_TREF_blk, set_blocks, addWrap_blocks, ev_blocks, present_blocks,
      stageFor_blocks, modDts_blocks, dtsSwap_blocks, foldl_range_blocks, foldl_blocks]

end Sys2Proof.Machine
end

