-- ==== Sys2Proof/Laws/RegsUnits.lean ====
section
/-! SUPPORT. Register blocks written: the monitor converter, the track interface, restarts, the launch engine and the Weirs.
-/

namespace Sys2Proof.Machine

set_option Elab.async false
set_option linter.unusedSimpArgs false
set_option linter.unusedVariables false

variable {base s : State} {B : Nat → Prop}

@[simp] theorem latchBit_blk (m : Nat) : (latchBit m).off / 65536 = 13 := WMN_LATCH_LATCH_blk

/-! ### Machine/Duty.lean -/

theorem clampMark_blocks (hk : RegsP B base s) (n : Nat) (w : Int) (b3 : B 3 := by first | assumption | decide)
    (b14 : B 14 := by first | assumption | decide) :
    RegsP B base (s.clampMark n w) := by
  unfold State.clampMark
  simp +contextual (maxDischargeDepth := 99) only [hk, b3, b14, Regs_mk, ite_blocks, forall_const, imp_self, implies_true,
      bit_off, present_blocks, modF_blocks]

theorem dutySync_blocks (hk : RegsP B base s) (n : Nat) (b3 : B 3 := by first | assumption | decide) :
    RegsP B base (s.dutySync n) := by
  unfold State.dutySync
  try dsimp only
  repeat' split
  all_goals simp +contextual (maxDischargeDepth := 99) only [hk, b3, Regs_mk, ite_blocks, forall_const, imp_self,
      implies_true, bit_off, LNC_DUTY_MEAS_SAMPLES_blk, set_blocks, modF_blocks]

theorem clampSync_blocks (hk : RegsP B base s) (n : Nat) (b3 : B 3 := by first | assumption | decide)
    (b14 : B 14 := by first | assumption | decide) :
    RegsP B base (s.clampSync n) := by
  unfold State.clampSync
  try dsimp only
  repeat' split
  all_goals simp +contextual (maxDischargeDepth := 99) only [hk, b3, b14, Regs_mk, ite_blocks, forall_const, imp_self,
      implies_true, bit_off, LNC_CLAMP_CNT_COUNT_blk, LNC_EVENTS_ENV_CLAMP_blk, addSat_blocks, ev_blocks, clampMark_blocks,
      foldl_blocks, modF_blocks]

theorem lncSync_blocks (hk : RegsP B base s) (n : Nat) (b3 : B 3 := by first | assumption | decide)
    (b14 : B 14 := by first | assumption | decide) :
    RegsP B base (s.lncSync n) := by
  unfold State.lncSync
  simp +contextual (maxDischargeDepth := 99) only [hk, b3, b14, Regs_mk, ite_blocks, forall_const, imp_self, implies_true,
      bit_off, dutySync_blocks, clampSync_blocks]

theorem gatesEval_blocks (hk : RegsP B base s) (n : Nat) :
    RegsP B base (s.gatesEval n) := by
  unfold State.gatesEval
  simp +contextual (maxDischargeDepth := 99) only [hk, Regs_mk, ite_blocks, forall_const, imp_self, implies_true, bit_off,
      modF_blocks]

theorem staticSet_blocks (hk : RegsP B base s) (n : Nat) :
    RegsP B base (s.staticSet n) := by
  unfold State.staticSet
  simp +contextual (maxDischargeDepth := 99) only [hk, Regs_mk, ite_blocks, forall_const, imp_self, implies_true, bit_off,
      modF_blocks, gatesEval_blocks]

theorem staticUp_blocks (hk : RegsP B base s) (n : Nat) (b3 : B 3 := by first | assumption | decide)
    (b14 : B 14 := by first | assumption | decide) :
    RegsP B base (s.staticUp n) := by
  unfold State.staticUp
  simp +contextual (maxDischargeDepth := 99) only [hk, b3, b14, Regs_mk, ite_blocks, forall_const, imp_self, implies_true,
      bit_off, lncSync_blocks, staticSet_blocks]

theorem gatePols_blocks (hk : RegsP B base s) (n : Nat) (offs : List Nat) :
    RegsP B base (s.gatePols n offs) := by
  unfold State.gatePols
  simp +contextual (maxDischargeDepth := 99) only [hk, Regs_mk, ite_blocks, forall_const, imp_self, implies_true, bit_off,
      modF_blocks]

theorem staticDown_blocks (hk : RegsP B base s) (n : Nat) (b3 : B 3 := by first | assumption | decide)
    (b14 : B 14 := by first | assumption | decide) :
    RegsP B base (s.staticDown n) := by
  unfold State.staticDown
  simp +contextual (maxDischargeDepth := 99) only [hk, b3, b14, Regs_mk, ite_blocks, forall_const, imp_self, implies_true,
      bit_off, modF_blocks, lncSync_blocks, gatesEval_blocks]

/-! ### Machine/Restart.lean -/

theorem dcbSet_blocks (hk : RegsP B base s) (n : Nat) (b6 : B 6 := by first | assumption | decide) :
    RegsP B base (s.dcbSet n) := by
  unfold State.dcbSet
  simp +contextual (maxDischargeDepth := 99) only [hk, b6, Regs_mk, ite_blocks, forall_const, imp_self, implies_true,
      bit_off, ACF_DCB_K_K_blk, set_blocks]

theorem restartNote_blocks (hk : RegsP B base s) (n : Nat) (b5 : B 5 := by first | assumption | decide) :
    RegsP B base (s.restartNote n) := by
  unfold State.restartNote
  simp +contextual (maxDischargeDepth := 99) only [hk, b5, Regs_mk, ite_blocks, forall_const, imp_self, implies_true,
      bit_off, PHS_EVENTS_RESTART_blk, PHS_RESTART_EPOCH_EPOCH_blk, set_blocks, ev_blocks]

theorem tabSwitch_blocks (hk : RegsP B base s) (t : TabLoad) :
    RegsP B base (s.tabSwitch t) := by
  unfold State.tabSwitch
  simp +contextual (maxDischargeDepth := 99) only [hk, Regs_mk, ite_blocks, forall_const, imp_self, implies_true, bit_off,
      setTword_blocks, foldl_range_blocks, foldl_blocks]

theorem tabLoads_blocks (hk : RegsP B base s) (l : List TabLoad) :
    RegsP B base (s.tabLoads l) := by
  unfold State.tabLoads
  simp +contextual (maxDischargeDepth := 99) only [hk, Regs_mk, ite_blocks, forall_const, imp_self, implies_true, bit_off,
      tabSwitch_blocks, foldl_range_blocks, foldl_blocks]

theorem bgSwitch_blocks (hk : RegsP B base s) (n : Nat) (r0 : Tab Word) (start : Option NextShot) :
    RegsP B base (s.bgSwitch n r0 start) := by
  unfold State.bgSwitch
  try dsimp only
  repeat' split
  all_goals simp +contextual (maxDischargeDepth := 99) only [hk, Regs_mk, ite_blocks, forall_const, imp_self, implies_true,
      bit_off, bgRestart_blocks, foldl_range_blocks, foldl_blocks]

theorem regFe_block (off n : Nat) (h : regFe off = some n) : off / 65536 ∈ [2, 3, 4, 5, 6, 7, 8] := by
  unfold regFe at h
  split at h <;> simp_all

theorem tget_rwrite_ne (r : Tab Word) (off o : Nat) (v : Word) (h : o ≠ off) :
    tget (resetOf o) (rwrite r off v) o = tget (resetOf o) r o := by
  unfold rwrite
  split
  · rfl
  · exact tget_tput_ne _ _ _ _ _ _ h

theorem tget_rwrites_ne (r : Tab Word) (ws : List (Nat × Word)) (o : Nat) (h : ∀ w ∈ ws, w.1 ≠ o) :
    tget (resetOf o) (rwrites r ws) o = tget (resetOf o) r o := by
  induction ws generalizing r with
  | nil => rfl
  | cons w ws ih =>
    rw [rwrites, ih _ (fun x hx => h x (by simp [hx])), tget_rwrite_ne]
    exact fun e => h w (by simp) e.symm

theorem withRegs_blocks (hk : RegsP B base s) (r : Tab Word)
    (hr : ∀ off, ¬ B (off / 65536) → tget (resetOf off) r off = s.reg off) : RegsP B base { s with regs := r } :=
  fun off ho => (hr off ho).trans (hk off ho)

theorem applyPart_blocks (hk : RegsP B base s) (n : Nat) (d : DuePart) (start : Option NextShot)
    (b2 : B 2 := by first | assumption | decide) (b3 : B 3 := by first | assumption | decide)
    (b4 : B 4 := by first | assumption | decide) (b5 : B 5 := by first | assumption | decide)
    (b6 : B 6 := by first | assumption | decide) (b7 : B 7 := by first | assumption | decide)
    (b8 : B 8 := by first | assumption | decide) (b9 : B 9 := by first | assumption | decide)
    (b10 : B 10 := by first | assumption | decide) (b11 : B 11 := by first | assumption | decide) :
    RegsP B base (s.applyPart n d start) := by
  have hw : ∀ off, ¬ B (off / 65536) → ∀ w ∈ d.own n, w.1 ≠ off := by
    intro off ho w hm e
    have hr : regFe w.1 = some n := by simpa using (List.mem_filter.1 hm).2
    have := regFe_block _ _ hr
    rw [e] at this
    simp only [List.mem_cons, List.not_mem_nil, or_false] at this
    rcases this with h | h | h | h | h | h | h <;> rw [h] at ho <;> exact ho (by assumption)
  unfold State.applyPart
  extract_lets r0 r1 e g moved sd sg s1 s2 s3 s4
  have hd : RegsP B base sd := ite_blocks (dutySync_blocks hk _) hk
  have h0 : RegsP B base { sd with regs := rwrites sd.regs (d.own n) } :=
    withRegs_blocks hd _ (fun off ho => tget_rwrites_ne _ _ _ (hw off ho))
  have hg : RegsP B base sg := modF_blocks (tabLoads_blocks h0 _) _ _
  have h1 : RegsP B base s1 :=
    bgSyncFe_blocks (bgSwitch_blocks (gatePols_blocks (ite_blocks (staticSet_blocks hg _) hg) _ _) _ _ _) _
  have h2 : RegsP B base s2 := ite_blocks (dcbSet_blocks h1 _) h1
  have h3 : RegsP B base s3 := ite_blocks (restartNote_blocks h2 _) h2
  have h4 : RegsP B base s4 := ite_blocks (dtsRestart_blocks h3 _) h3
  exact encCheck_blocks (ite_blocks (evtIdle_blocks h4 _) h4) _

theorem applyReached_blocks (hk : RegsP B base s) (n : Nat) (x : NextShot) (isStart : Bool)
    (b2 : B 2 := by first | assumption | decide) (b3 : B 3 := by first | assumption | decide)
    (b4 : B 4 := by first | assumption | decide) (b5 : B 5 := by first | assumption | decide)
    (b6 : B 6 := by first | assumption | decide) (b7 : B 7 := by first | assumption | decide)
    (b8 : B 8 := by first | assumption | decide) (b10 : B 10 := by first | assumption | decide)
    (b11 : B 11 := by first | assumption | decide) (b9 : B 9 := by first | assumption | decide) :
    RegsP B base (s.applyReached n x isStart) := by
  unfold State.applyReached
  simp +contextual (maxDischargeDepth := 99) only [hk, b9, b2, b3, b4, b5, b6, b7, b8, b10, b11, Regs_mk, ite_blocks,
      forall_const, imp_self, implies_true, bit_off, modF_blocks, applyPart_blocks, foldl_range_blocks, foldl_blocks]

theorem addDue_blocks (hk : RegsP B base s) (n : Nat) (d : DuePart) :
    RegsP B base (s.addDue n d) := by
  unfold State.addDue
  simp +contextual (maxDischargeDepth := 99) only [hk, Regs_mk, ite_blocks, forall_const, imp_self, implies_true, bit_off,
      modF_blocks]

theorem setGroup_blocks (hk : RegsP B base s) (g : Nat) (x : Option Group) :
    RegsP B base (s.setGroup g x) := by
  unfold State.setGroup
  simp +contextual (maxDischargeDepth := 99) only [hk, Regs_mk, ite_blocks, forall_const, imp_self, implies_true, bit_off]

theorem groupEnd_blocks (hk : RegsP B base s) (g code : Nat) (b10 : B 10 := by first | assumption | decide)
    (b11 : B 11 := by first | assumption | decide) :
    RegsP B base (s.groupEnd g code) := by
  unfold State.groupEnd
  try dsimp only
  repeat' split
  all_goals simp +contextual (maxDischargeDepth := 99) only [hk, b10, b11, Regs_mk, ite_blocks, forall_const, imp_self,
      implies_true, bit_off, SCH_CMT_LAST_CODE_blk, SCH_CMT_LAST_ID_ID_blk, SCH_EVENTS_CMT_ABORT_blk,
      SCH_EVENTS_CMT_APPLIED_blk, set_blocks, ev_blocks, outcome_blocks, setGroup_blocks]

theorem groupsEnd_blocks (hk : RegsP B base s) (p : Group → Bool) (code : Nat)
    (b10 : B 10 := by first | assumption | decide)
    (b11 : B 11 := by first | assumption | decide) : RegsP B base (s.groupsEnd p code) := by
  unfold State.groupsEnd
  refine foldl_blocks hk (fun t g ht => ?_)
  split
  · exact ite_blocks (groupEnd_blocks ht _ _) ht
  · exact ht

theorem groupsFault_blocks (hk : RegsP B base s) (b10 : B 10 := by first | assumption | decide)
    (b11 : B 11 := by first | assumption | decide) :
    RegsP B base (s.groupsFault) := by
  unfold State.groupsFault
  try dsimp only
  repeat' split
  all_goals simp +contextual (maxDischargeDepth := 99) only [hk, b10, b11, Regs_mk, ite_blocks, forall_const, imp_self,
      implies_true, bit_off, groupsEnd_blocks]

theorem stopped_blocks (hk : RegsP B base s) (n : Nat) (tripped : Bool) (b2 : B 2 := by first | assumption | decide)
    (b3 : B 3 := by first | assumption | decide) (b4 : B 4 := by first | assumption | decide)
    (b5 : B 5 := by first | assumption | decide) (b6 : B 6 := by first | assumption | decide)
    (b7 : B 7 := by first | assumption | decide) (b8 : B 8 := by first | assumption | decide)
    (b9 : B 9 := by first | assumption | decide) (b10 : B 10 := by first | assumption | decide)
    (b11 : B 11 := by first | assumption | decide) :
    RegsP B base (s.stopped n tripped) := by
  unfold State.stopped
  simp +contextual (maxDischargeDepth := 99) only [hk, b2, b3, b4, b5, b6, b7, b8, b9, b10, b11, Regs_mk, ite_blocks,
      forall_const, imp_self, implies_true, bit_off, modF_blocks, bgSyncFe_blocks, encCheck_blocks, dtsDiscard_blocks,
      applyPart_blocks, groupsEnd_blocks, foldl_range_blocks, foldl_blocks]

theorem nvCut_blocks (hk : RegsP B base s) :
    RegsP B base (s.nvCut) := by
  unfold State.nvCut
  try dsimp only
  repeat' split
  all_goals simp +contextual (maxDischargeDepth := 99) only [hk, Regs_mk, ite_blocks, forall_const, imp_self, implies_true,
      bit_off, nextFree_blocks, nvPut_blocks]

theorem abandon_blocks (hk : RegsP B base s) (c : Cmd) (b4 : B 4 := by first | assumption | decide)
    (b12 : B 12 := by first | assumption | decide) :
    RegsP B base (s.abandon c) := by
  unfold State.abandon
  try dsimp only
  repeat' split
  all_goals simp +contextual (maxDischargeDepth := 99) only [hk, b4, b12, Regs_mk, ite_blocks, forall_const, imp_self,
      implies_true, bit_off, setAcq_blocks, calShow_blocks, setPmc_blocks, pmcKick_blocks, nvCut_blocks]

/-! ### Machine/Launch.lean -/

theorem armEnd_blocks (hk : RegsP B base s) (n : Nat) (code : Nat) (b3 : B 3 := by first | assumption | decide)
    (b11 : B 11 := by first | assumption | decide) :
    RegsP B base (s.armEnd n code) := by
  unfold State.armEnd
  try dsimp only
  repeat' split
  all_goals simp +contextual (maxDischargeDepth := 99) only [hk, b3, b11, Regs_mk, ite_blocks, forall_const, imp_self,
      implies_true, bit_off, LNC_ARM_RESULT_CODE_blk, LNC_EVENTS_ARM_FAIL_blk, set_blocks, ev_blocks, complete_blocks,
      modF_blocks]

theorem outputsSafe_blocks (hk : RegsP B base s) (n : Nat) (b3 : B 3 := by first | assumption | decide)
    (b14 : B 14 := by first | assumption | decide) :
    RegsP B base (s.outputsSafe n) := by
  unfold State.outputsSafe
  simp +contextual (maxDischargeDepth := 99) only [hk, b3, b14, Regs_mk, ite_blocks, forall_const, imp_self, implies_true,
      bit_off, modF_blocks, lncSync_blocks]

theorem dropLost_blocks (hk : RegsP B base s) (n : Nat) :
    RegsP B base (s.dropLost n) := by
  unfold State.dropLost
  try dsimp only
  repeat' split
  all_goals simp +contextual (maxDischargeDepth := 99) only [hk, Regs_mk, ite_blocks, forall_const, imp_self, implies_true,
      bit_off]

theorem disarmDone_blocks (hk : RegsP B base s) (n : Nat) (b3 : B 3 := by first | assumption | decide)
    (b11 : B 11 := by first | assumption | decide) :
    RegsP B base (s.disarmDone n) := by
  unfold State.disarmDone
  try dsimp only
  repeat' split
  all_goals simp +contextual (maxDischargeDepth := 99) only [hk, b3, b11, Regs_mk, ite_blocks, forall_const, imp_self,
      implies_true, bit_off, LNC_EVENTS_DISARMED_blk, ev_blocks, complete_blocks, modF_blocks, foldl_range_blocks,
      foldl_blocks]

theorem trip_blocks (hk : RegsP B base s) (n cause : Nat) (b2 : B 2 := by first | assumption | decide)
    (b3 : B 3 := by first | assumption | decide) (b4 : B 4 := by first | assumption | decide)
    (b5 : B 5 := by first | assumption | decide) (b6 : B 6 := by first | assumption | decide)
    (b7 : B 7 := by first | assumption | decide) (b8 : B 8 := by first | assumption | decide)
    (b10 : B 10 := by first | assumption | decide) (b11 : B 11 := by first | assumption | decide)
    (b14 : B 14 := by first | assumption | decide) (b9 : B 9 := by first | assumption | decide) :
    RegsP B base (s.trip n cause) := by
  unfold State.trip
  simp +contextual (maxDischargeDepth := 99) only [hk, b9, b2, b3, b4, b5, b6, b7, b8, b10, b11, b14, Regs_mk, ite_blocks,
      forall_const, imp_self, implies_true, bit_off, LNC_EVENTS_TRIPPED_blk, LNC_STATUS_STATE_blk, LNC_TRIP_CAUSE_blk,
      LNC_TRIP_GT_HI_GT_blk, LNC_TRIP_GT_LO_GT_blk, set_blocks, set2_blocks, orReg_blocks, ev_blocks, modF_blocks,
      stopped_blocks, armEnd_blocks, outputsSafe_blocks, dropLost_blocks, disarmDone_blocks]

theorem safeLow_blocks (hk : RegsP B base s) (b2 : B 2 := by first | assumption | decide)
    (b3 : B 3 := by first | assumption | decide) (b4 : B 4 := by first | assumption | decide)
    (b5 : B 5 := by first | assumption | decide) (b6 : B 6 := by first | assumption | decide)
    (b7 : B 7 := by first | assumption | decide) (b8 : B 8 := by first | assumption | decide)
    (b10 : B 10 := by first | assumption | decide) (b11 : B 11 := by first | assumption | decide)
    (b14 : B 14 := by first | assumption | decide) (b9 : B 9 := by first | assumption | decide) :
    RegsP B base (s.safeLow) := by
  unfold State.safeLow
  simp +contextual (maxDischargeDepth := 99) only [hk, b9, b2, b3, b4, b5, b6, b7, b8, b10, b11, b14, Regs_mk, ite_blocks,
      forall_const, imp_self, implies_true, bit_off, trip_blocks, foldl_range_blocks, foldl_blocks]

theorem envExceed_blocks (hk : RegsP B base s) (n : Nat) (b2 : B 2 := by first | assumption | decide)
    (b3 : B 3 := by first | assumption | decide) (b4 : B 4 := by first | assumption | decide)
    (b5 : B 5 := by first | assumption | decide) (b6 : B 6 := by first | assumption | decide)
    (b7 : B 7 := by first | assumption | decide) (b8 : B 8 := by first | assumption | decide)
    (b10 : B 10 := by first | assumption | decide) (b11 : B 11 := by first | assumption | decide)
    (b14 : B 14 := by first | assumption | decide) (b9 : B 9 := by first | assumption | decide) :
    RegsP B base (s.envExceed n) := by
  unfold State.envExceed
  simp +contextual (maxDischargeDepth := 99) only [hk, b9, b2, b3, b4, b5, b6, b7, b8, b10, b11, b14, Regs_mk, ite_blocks,
      forall_const, imp_self, implies_true, bit_off, present_blocks, modF_blocks, lncSync_blocks, trip_blocks]

theorem gridStart_blocks (hk : RegsP B base s) (n : Nat) (a : Int) :
    RegsP B base (s.gridStart n a) := by
  unfold State.gridStart
  try dsimp only
  repeat' split
  all_goals simp +contextual (maxDischargeDepth := 99) only [hk, Regs_mk, ite_blocks, forall_const, imp_self, implies_true,
      bit_off, modF_blocks]

theorem armStart_blocks (hk : RegsP B base s) (n : Nat) (c : Cmd) (b2 : B 2 := by first | assumption | decide)
    (b3 : B 3 := by first | assumption | decide) (b4 : B 4 := by first | assumption | decide)
    (b11 : B 11 := by first | assumption | decide) :
    RegsP B base (s.armStart n c) := by
  unfold State.armStart
  simp +contextual (maxDischargeDepth := 99) only [hk, b2, b3, b4, b11, Regs_mk, ite_blocks, forall_const, imp_self,
      implies_true, bit_off, LNC_STATUS_STATE_blk, set_blocks, modF_blocks, alignAbort_blocks, calAbandon_blocks]

theorem selfTest_blocks (hk : RegsP B base s) (n : Nat) (pass : Bool) (b3 : B 3 := by first | assumption | decide)
    (b11 : B 11 := by first | assumption | decide) (b14 : B 14 := by first | assumption | decide) :
    RegsP B base (s.selfTest n pass) := by
  unfold State.selfTest
  try dsimp only
  repeat' split
  all_goals simp +contextual (maxDischargeDepth := 99) only [hk, b3, b11, b14, Regs_mk, ite_blocks, forall_const, imp_self,
      implies_true, bit_off, LNC_STATUS_STATE_blk, set_blocks, present_blocks, modF_blocks, staticUp_blocks, armEnd_blocks]

theorem armedEntry_blocks (hk : RegsP B base s) (n : Nat) (b3 : B 3 := by first | assumption | decide)
    (b5 : B 5 := by first | assumption | decide) (b6 : B 6 := by first | assumption | decide)
    (b7 : B 7 := by first | assumption | decide) (b11 : B 11 := by first | assumption | decide) :
    RegsP B base (s.armedEntry n) := by
  unfold State.armedEntry
  try dsimp only
  repeat' split
  all_goals simp +contextual (maxDischargeDepth := 99) only [hk, b3, b5, b6, b7, b11, Regs_mk, ite_blocks, forall_const,
      imp_self, implies_true, bit_off, LNC_EVENTS_ARMED_blk, LNC_STATUS_STATE_blk, set_blocks, ev_blocks, complete_blocks,
      modF_blocks, bgSyncFe_blocks, dtsRestart_blocks, dcbSet_blocks, restartNote_blocks, gridStart_blocks]

theorem disarmEffect_blocks (hk : RegsP B base s) (n : Nat) (b2 : B 2 := by first | assumption | decide)
    (b3 : B 3 := by first | assumption | decide) (b4 : B 4 := by first | assumption | decide)
    (b5 : B 5 := by first | assumption | decide) (b6 : B 6 := by first | assumption | decide)
    (b7 : B 7 := by first | assumption | decide) (b8 : B 8 := by first | assumption | decide)
    (b10 : B 10 := by first | assumption | decide) (b11 : B 11 := by first | assumption | decide)
    (b14 : B 14 := by first | assumption | decide) (b9 : B 9 := by first | assumption | decide) :
    RegsP B base (s.disarmEffect n) := by
  unfold State.disarmEffect
  simp +contextual (maxDischargeDepth := 99) only [hk, b9, b2, b3, b4, b5, b6, b7, b8, b10, b11, b14, Regs_mk, ite_blocks,
      forall_const, imp_self, implies_true, bit_off, LNC_STATUS_STATE_blk, set_blocks, modF_blocks, stopped_blocks,
      staticDown_blocks, disarmDone_blocks]

theorem disarmFe_blocks (hk : RegsP B base s) (n : Nat) (c : Option Cmd) (b2 : B 2 := by first | assumption | decide)
    (b3 : B 3 := by first | assumption | decide) (b4 : B 4 := by first | assumption | decide)
    (b5 : B 5 := by first | assumption | decide) (b6 : B 6 := by first | assumption | decide)
    (b7 : B 7 := by first | assumption | decide) (b8 : B 8 := by first | assumption | decide)
    (b10 : B 10 := by first | assumption | decide) (b11 : B 11 := by first | assumption | decide)
    (b14 : B 14 := by first | assumption | decide) (b9 : B 9 := by first | assumption | decide) :
    RegsP B base (s.disarmFe n c) := by
  unfold State.disarmFe
  try dsimp only
  repeat' split
  all_goals simp +contextual (maxDischargeDepth := 99) only [hk, b9, b2, b3, b4, b5, b6, b7, b8, b10, b11, b14, Regs_mk,
      ite_blocks, forall_const, imp_self, implies_true, bit_off, LNC_EVENTS_DISARMED_blk, LNC_STATUS_STATE_blk, set_blocks,
      ev_blocks, complete_blocks, modF_blocks, staticDown_blocks, stopped_blocks, armEnd_blocks, disarmEffect_blocks]

/-! ### Machine/Weir.lean -/

theorem modW_blocks (hk : RegsP B base s) (m : Nat) (g : WeirSt → WeirSt) :
    RegsP B base (s.modW m g) := by
  unfold State.modW
  simp +contextual (maxDischargeDepth := 99) only [hk, Regs_mk, ite_blocks, forall_const, imp_self, implies_true, bit_off]

theorem weirSync_blocks (hk : RegsP B base s) (m : Nat) :
    RegsP B base (s.weirSync m) := by
  unfold State.weirSync
  simp +contextual (maxDischargeDepth := 99) only [hk, Regs_mk, ite_blocks, forall_const, imp_self, implies_true, bit_off,
      modW_blocks]

theorem weirAssert_blocks (hk : RegsP B base s) (m : Nat) (b2 : B 2 := by first | assumption | decide)
    (b3 : B 3 := by first | assumption | decide) (b4 : B 4 := by first | assumption | decide)
    (b5 : B 5 := by first | assumption | decide) (b6 : B 6 := by first | assumption | decide)
    (b7 : B 7 := by first | assumption | decide) (b8 : B 8 := by first | assumption | decide)
    (b10 : B 10 := by first | assumption | decide) (b11 : B 11 := by first | assumption | decide)
    (b14 : B 14 := by first | assumption | decide) (b9 : B 9 := by first | assumption | decide) :
    RegsP B base (s.weirAssert m) := by
  unfold State.weirAssert
  simp +contextual (maxDischargeDepth := 99) only [hk, b9, b2, b3, b4, b5, b6, b7, b8, b10, b11, b14, Regs_mk, ite_blocks,
      forall_const, imp_self, implies_true, bit_off, trip_blocks, foldl_range_blocks, foldl_blocks]

theorem weirSet_blocks (hk : RegsP B base s) (m : Nat) (b2 : B 2 := by first | assumption | decide)
    (b3 : B 3 := by first | assumption | decide) (b4 : B 4 := by first | assumption | decide)
    (b5 : B 5 := by first | assumption | decide) (b6 : B 6 := by first | assumption | decide)
    (b7 : B 7 := by first | assumption | decide) (b8 : B 8 := by first | assumption | decide)
    (b10 : B 10 := by first | assumption | decide) (b11 : B 11 := by first | assumption | decide)
    (b12 : B 12 := by first | assumption | decide) (b13 : B 13 := by first | assumption | decide)
    (b14 : B 14 := by first | assumption | decide) (b9 : B 9 := by first | assumption | decide) :
    RegsP B base (s.weirSet m) := by
  unfold State.weirSet
  simp +contextual (maxDischargeDepth := 99) only [hk, b9, b2, b3, b4, b5, b6, b7, b8, b10, b11, b12, b13, b14, Regs_mk,
      ite_blocks, forall_const, imp_self, implies_true, bit_off, WMN_EVENTS_CLR_DENIED_blk, WMN_EVENTS_SET_blk,
      WMN_WM_SET_CNT_COUNT_blk, WMN_WM_SET_GT_HI_GT_blk, WMN_WM_SET_GT_LO_GT_blk, latchBit_blk, set_blocks, set2_blocks,
      addSat_blocks, ev_blocks, present_blocks, pmcEvent_blocks, modW_blocks, weirAssert_blocks]

theorem weirEval_blocks (hk : RegsP B base s) (m : Nat) (b2 : B 2 := by first | assumption | decide)
    (b3 : B 3 := by first | assumption | decide) (b4 : B 4 := by first | assumption | decide)
    (b5 : B 5 := by first | assumption | decide) (b6 : B 6 := by first | assumption | decide)
    (b7 : B 7 := by first | assumption | decide) (b8 : B 8 := by first | assumption | decide)
    (b10 : B 10 := by first | assumption | decide) (b11 : B 11 := by first | assumption | decide)
    (b13 : B 13 := by first | assumption | decide) (b14 : B 14 := by first | assumption | decide)
        (b12 : B 12 := by first | assumption | decide) (b9 : B 9 := by first | assumption | decide) :
    RegsP B base (s.weirEval m) := by
  unfold State.weirEval
  simp +contextual (maxDischargeDepth := 99) only [hk, b9, b12, b2, b3, b4, b5, b6, b7, b8, b10, b11, b13, b14, Regs_mk,
      ite_blocks,
      forall_const, imp_self, implies_true, bit_off, modW_blocks, weirSet_blocks]

theorem weirClear_blocks (hk : RegsP B base s) (m : Nat) (b13 : B 13 := by first | assumption | decide) :
    RegsP B base (s.weirClear m) := by
  unfold State.weirClear
  simp +contextual (maxDischargeDepth := 99) only [hk, b13, Regs_mk, ite_blocks, forall_const, imp_self, implies_true,
      bit_off, WMN_EVENTS_CLR_DENIED_blk, latchBit_blk, set_blocks, ev_blocks, modW_blocks]

theorem latchWrite_blocks (hk : RegsP B base s) (v : Nat) (b13 : B 13 := by first | assumption | decide) :
    RegsP B base (s.latchWrite v) := by
  unfold State.latchWrite
  simp +contextual (maxDischargeDepth := 99) only [hk, b13, Regs_mk, ite_blocks, forall_const, imp_self, implies_true,
      bit_off, weirClear_blocks, foldl_range_blocks, foldl_blocks]

theorem weirRoute_blocks (hk : RegsP B base s) (m0 : Nat) (b2 : B 2 := by first | assumption | decide)
    (b3 : B 3 := by first | assumption | decide) (b4 : B 4 := by first | assumption | decide)
    (b5 : B 5 := by first | assumption | decide) (b6 : B 6 := by first | assumption | decide)
    (b7 : B 7 := by first | assumption | decide) (b8 : B 8 := by first | assumption | decide)
    (b10 : B 10 := by first | assumption | decide) (b11 : B 11 := by first | assumption | decide)
    (b14 : B 14 := by first | assumption | decide) (b9 : B 9 := by first | assumption | decide) :
    RegsP B base (s.weirRoute m0) := by
  unfold State.weirRoute
  simp +contextual (maxDischargeDepth := 99) only [hk, b9, b2, b3, b4, b5, b6, b7, b8, b10, b11, b14, Regs_mk, ite_blocks,
      forall_const, imp_self, implies_true, bit_off, weirAssert_blocks, foldl_range_blocks, foldl_blocks]

theorem weirGateOpen_blocks (hk : RegsP B base s) (m : Nat) (launch : Bool) (b2 : B 2 := by first | assumption | decide)
    (b3 : B 3 := by first | assumption | decide) (b4 : B 4 := by first | assumption | decide)
    (b5 : B 5 := by first | assumption | decide) (b6 : B 6 := by first | assumption | decide)
    (b7 : B 7 := by first | assumption | decide) (b8 : B 8 := by first | assumption | decide)
    (b9 : B 9 := by first | assumption | decide) (b10 : B 10 := by first | assumption | decide)
    (b11 : B 11 := by first | assumption | decide) (b12 : B 12 := by first | assumption | decide)
    (b13 : B 13 := by first | assumption | decide) (b14 : B 14 := by first | assumption | decide) :
    RegsP B base (s.weirGateOpen m launch) := by
  unfold State.weirGateOpen
  simp +contextual (maxDischargeDepth := 99) only [hk, b2, b3, b4, b5, b6, b7, b8, b9, b10, b11, b12, b13, b14, Regs_mk,
      ite_blocks, forall_const, imp_self, implies_true, bit_off, modW_blocks, weirSync_blocks, weirEval_blocks]

theorem weirAuto_blocks (hk : RegsP B base s) (m : Nat) (start : Bool) (b13 : B 13 := by first | assumption | decide) :
    RegsP B base (s.weirAuto m start) := by
  unfold State.weirAuto
  simp +contextual (maxDischargeDepth := 99) only [hk, b13, Regs_mk, ite_blocks, forall_const, imp_self, implies_true,
      bit_off, weirClear_blocks]

theorem weirCross_blocks (hk : RegsP B base s) (m : Nat) (uV : Int) (b2 : B 2 := by first | assumption | decide)
    (b3 : B 3 := by first | assumption | decide) (b4 : B 4 := by first | assumption | decide)
    (b5 : B 5 := by first | assumption | decide) (b6 : B 6 := by first | assumption | decide)
    (b7 : B 7 := by first | assumption | decide) (b8 : B 8 := by first | assumption | decide)
    (b10 : B 10 := by first | assumption | decide) (b11 : B 11 := by first | assumption | decide)
    (b12 : B 12 := by first | assumption | decide) (b13 : B 13 := by first | assumption | decide)
    (b14 : B 14 := by first | assumption | decide) (b9 : B 9 := by first | assumption | decide) :
    RegsP B base (s.weirCross m uV) := by
  unfold State.weirCross
  simp +contextual (maxDischargeDepth := 99) only [hk, b9, b2, b3, b4, b5, b6, b7, b8, b10, b11, b12, b13, b14, Regs_mk,
      ite_blocks, forall_const, imp_self, implies_true, bit_off, modW_blocks, weirEval_blocks]

theorem weirUnres_blocks (hk : RegsP B base s) (m : Nat) (b2 : B 2 := by first | assumption | decide)
    (b3 : B 3 := by first | assumption | decide) (b4 : B 4 := by first | assumption | decide)
    (b5 : B 5 := by first | assumption | decide) (b6 : B 6 := by first | assumption | decide)
    (b7 : B 7 := by first | assumption | decide) (b8 : B 8 := by first | assumption | decide)
    (b10 : B 10 := by first | assumption | decide) (b11 : B 11 := by first | assumption | decide)
    (b13 : B 13 := by first | assumption | decide) (b14 : B 14 := by first | assumption | decide)
        (b9 : B 9 := by first | assumption | decide) :
    RegsP B base (s.weirUnres m) := by
  unfold State.weirUnres
  simp +contextual (maxDischargeDepth := 99) only [hk, b9, b2, b3, b4, b5, b6, b7, b8, b10, b11, b13, b14, Regs_mk,
      ite_blocks,
      forall_const, imp_self, implies_true, bit_off, WMN_STATUS_UNRESOLVED_blk, latchBit_blk, set_blocks, modW_blocks,
      weirAssert_blocks]

theorem weirResolved_blocks (hk : RegsP B base s) (m : Nat) (uV : Int) (b2 : B 2 := by first | assumption | decide)
    (b3 : B 3 := by first | assumption | decide) (b4 : B 4 := by first | assumption | decide)
    (b5 : B 5 := by first | assumption | decide) (b6 : B 6 := by first | assumption | decide)
    (b7 : B 7 := by first | assumption | decide) (b8 : B 8 := by first | assumption | decide)
    (b10 : B 10 := by first | assumption | decide) (b11 : B 11 := by first | assumption | decide)
    (b13 : B 13 := by first | assumption | decide) (b14 : B 14 := by first | assumption | decide)
        (b12 : B 12 := by first | assumption | decide) (b9 : B 9 := by first | assumption | decide) :
    RegsP B base (s.weirResolved m uV) := by
  unfold State.weirResolved
  try dsimp only
  repeat' split
  all_goals simp +contextual (maxDischargeDepth := 99) only [hk, b9, b12, b2, b3, b4, b5, b6, b7, b8, b10, b11, b13, b14,
      Regs_mk,
      ite_blocks, forall_const, imp_self, implies_true, bit_off, WMN_EVENTS_RESOLVED_blk, WMN_STATUS_UNRESOLVED_blk,
      set_blocks, ev_blocks, modW_blocks, weirCross_blocks]

theorem vddA18_blocks (hk : RegsP B base s) (b2 : B 2 := by first | assumption | decide)
    (b3 : B 3 := by first | assumption | decide) (b4 : B 4 := by first | assumption | decide)
    (b5 : B 5 := by first | assumption | decide) (b6 : B 6 := by first | assumption | decide)
    (b7 : B 7 := by first | assumption | decide) (b8 : B 8 := by first | assumption | decide)
    (b10 : B 10 := by first | assumption | decide) (b11 : B 11 := by first | assumption | decide)
    (b13 : B 13 := by first | assumption | decide) (b14 : B 14 := by first | assumption | decide)
        (b9 : B 9 := by first | assumption | decide) :
    RegsP B base (s.vddA18) := by
  unfold State.vddA18
  simp +contextual (maxDischargeDepth := 99) only [hk, b9, b2, b3, b4, b5, b6, b7, b8, b10, b11, b13, b14, Regs_mk,
      ite_blocks,
      forall_const, imp_self, implies_true, bit_off, weirUnres_blocks, foldl_range_blocks, foldl_blocks]

theorem weirOff_blocks (hk : RegsP B base s) (m : Nat) (b13 : B 13 := by first | assumption | decide) :
    RegsP B base (s.weirOff m) := by
  unfold State.weirOff
  simp +contextual (maxDischargeDepth := 99) only [hk, b13, Regs_mk, ite_blocks, forall_const, imp_self, implies_true,
      bit_off, WMN_STATUS_UNRESOLVED_blk, latchBit_blk, set_blocks, modW_blocks]

theorem staleShow_blocks (hk : RegsP B base s) (m : Nat) (b13 : B 13 := by first | assumption | decide) :
    RegsP B base (s.staleShow m) := by
  unfold State.staleShow
  simp +contextual (maxDischargeDepth := 99) only [hk, b13, Regs_mk, ite_blocks, forall_const, imp_self, implies_true,
      bit_off, WMN_RB_STATUS_STALE_blk, setB_blocks]

theorem rbCheck_blocks (hk : RegsP B base s) (m : Nat) (upper : Bool) (b13 : B 13 := by first | assumption | decide)
    (b14 : B 14 := by first | assumption | decide) :
    RegsP B base (s.rbCheck m upper) := by
  unfold State.rbCheck
  try dsimp only
  repeat' split
  all_goals simp +contextual (maxDischargeDepth := 99) only [hk, b13, b14, Regs_mk, ite_blocks, forall_const, imp_self,
      implies_true, bit_off, WMN_EVENTS_RB_MISMATCH_blk, WMN_RB_STATUS_BAD_blk, WMN_WM_RB_ERR_HI_ERR_blk,
      WMN_WM_RB_ERR_LO_ERR_blk, set_blocks, setI_blocks, ev_blocks, present_blocks, modW_blocks, staleShow_blocks]

theorem rbStale_blocks (hk : RegsP B base s) (m : Nat) (upper : Bool) (b13 : B 13 := by first | assumption | decide)
    (b14 : B 14 := by first | assumption | decide) :
    RegsP B base (s.rbStale m upper) := by
  unfold State.rbStale
  simp +contextual (maxDischargeDepth := 99) only [hk, b13, b14, Regs_mk, ite_blocks, forall_const, imp_self, implies_true,
      bit_off, WMN_EVENTS_RB_STALE_blk, ev_blocks, present_blocks, modW_blocks, staleShow_blocks]

end Sys2Proof.Machine
end

