-- ==== Sys2Proof/Laws/RegsMode.lean ====
section
/-! SUPPORT. Register blocks written: modes, faults, the detector, and power. -/

namespace Sys2Proof.Machine

set_option Elab.async false
set_option linter.unusedSimpArgs false
set_option linter.unusedVariables false

variable {base s : State} {B : Nat → Prop}

/-! ### Machine/Mode.lean -/

theorem modeReg_blocks (hk : RegsP B base s) (m : Nat) (b1 : B 1 := by first | assumption | decide) :
    RegsP B base (s.modeReg m) := by
  unfold State.modeReg
  simp +contextual (maxDischargeDepth := 99) only [hk, b1, Regs_mk, ite_blocks, forall_const, imp_self, implies_true,
      bit_off, PWR_EVENTS_MODE_CHANGE_blk, PWR_MODE_MODE_blk, PWR_MODE_PREV_blk, set_blocks, ev_blocks]

theorem sentGroup_blocks (hk : RegsP B base s) (enter : Bool) (b7 : B 7 := by first | assumption | decide) :
    RegsP B base (s.sentGroup enter) := by
  unfold State.sentGroup
  simp +contextual (maxDischargeDepth := 99) only [hk, b7, Regs_mk, ite_blocks, forall_const, imp_self, implies_true,
      bit_off, modF_blocks, dtsRestart_blocks, addDue_blocks, foldl_range_blocks, foldl_blocks]

theorem testModeEnd_blocks (hk : RegsP B base s) (b4 : B 4 := by first | assumption | decide) :
    RegsP B base (s.testModeEnd) := by
  unfold State.testModeEnd
  simp +contextual (maxDischargeDepth := 99) only [hk, b4, Regs_mk, ite_blocks, forall_const, imp_self, implies_true,
      bit_off, ACQ_CALDAC_CFG_LOOP_blk, set_blocks]

theorem raiseMin_blocks (hk : RegsP B base s) :
    RegsP B base (s.raiseMin) := by
  unfold State.raiseMin
  simp +contextual (maxDischargeDepth := 99) only [hk, Regs_mk, ite_blocks, forall_const, imp_self, implies_true, bit_off]

theorem setWp_blocks (hk : RegsP B base s) (b17 : B 17 := by first | assumption | decide) :
    RegsP B base (s.setWp) := by
  unfold State.setWp
  simp +contextual (maxDischargeDepth := 99) only [hk, b17, Regs_mk, ite_blocks, forall_const, imp_self, implies_true,
      bit_off, NVS_WP_WP_blk, PWR_MODE_KEY_OK_blk, set_blocks]

theorem enterMode_blocks (hk : RegsP B base s) (m : Nat) (b1 : B 1 := by first | assumption | decide)
    (b2 : B 2 := by first | assumption | decide) (b3 : B 3 := by first | assumption | decide)
    (b4 : B 4 := by first | assumption | decide) (b5 : B 5 := by first | assumption | decide)
    (b6 : B 6 := by first | assumption | decide) (b7 : B 7 := by first | assumption | decide)
    (b8 : B 8 := by first | assumption | decide) (b9 : B 9 := by first | assumption | decide)
    (b10 : B 10 := by first | assumption | decide) (b11 : B 11 := by first | assumption | decide)
    (b12 : B 12 := by first | assumption | decide) (b14 : B 14 := by first | assumption | decide)
    (b17 : B 17 := by first | assumption | decide) :
    RegsP B base (s.enterMode m) := by
  unfold State.enterMode
  extract_lets m0 s1 s2 s3 s4 s5 s6 s7
  have h1 : RegsP B base s1 := modeReg_blocks hk _
  have h2 : RegsP B base s2 := ite_blocks h1 (set_blocks h1 _ _)
  have h3 : RegsP B base s3 := ite_blocks (raiseMin_blocks (setWp_blocks h2)) (setWp_blocks h2)
  have h4 : RegsP B base s4 := ite_blocks h3 (foldl_blocks h3 (fun t n ht => ite_blocks (disarmFe_blocks ht _ _) ht))
  have h5 : RegsP B base s5 := ite_blocks (sentGroup_blocks h4 _) (ite_blocks (sentGroup_blocks h4 _) h4)
  have h6 : RegsP B base s6 := ite_blocks (testModeEnd_blocks h5) h5
  exact weirRoute_blocks (ite_blocks (pmcStopAll_blocks h6) h6) _

theorem verifyToken_blocks (hk : RegsP B base s) (k : TokenRead)
    (b1 : B 1 := by first | assumption | decide) : RegsP B base (s.verifyToken k) := by
  unfold State.verifyToken
  exact Regs_mk (ite_blocks (set_blocks hk _ _) (ev_blocks hk _))

theorem resAcc_blocks (hk : RegsP B base s) (b1 : B 1 := by first | assumption | decide) : RegsP B base s.resAcc := by
  unfold State.resAcc
  exact Regs_mk (addWrap_blocks hk _ _)

theorem ladderDown_blocks (hk : RegsP B base s) (x : Nat) (b1 : B 1 := by first | assumption | decide)
    (b2 : B 2 := by first | assumption | decide) (b7 : B 7 := by first | assumption | decide)
    (b15 : B 15 := by first | assumption | decide) :
    RegsP B base (s.ladderDown x) := by
  unfold State.ladderDown
  simp +contextual (maxDischargeDepth := 99) only [hk, b1, b2, b7, b15, Regs_mk, ite_blocks, forall_const, imp_self,
      implies_true, bit_off, PWR_MODE_LADDER_blk, set_blocks, clockFree_blocks, bgSyncAll_blocks, bgDiscard_blocks,
      srAll_blocks, dtsDiscard_blocks, resAcc_blocks, foldl_range_blocks, foldl_blocks]

theorem bermExit_blocks (hk : RegsP B base s) :
    RegsP B base (s.bermExit) := by
  unfold State.bermExit
  simp +contextual (maxDischargeDepth := 99) only [hk, Regs_mk, ite_blocks, forall_const, imp_self, implies_true, bit_off,
      modF_blocks, foldl_range_blocks, foldl_blocks]

theorem ladderUp_blocks (hk : RegsP B base s) (b1 : B 1 := by first | assumption | decide)
    (b2 : B 2 := by first | assumption | decide) (b15 : B 15 := by first | assumption | decide) :
    RegsP B base (s.ladderUp) := by
  unfold State.ladderUp
  simp +contextual (maxDischargeDepth := 99) only [hk, b1, b2, b15, Regs_mk, ite_blocks, forall_const, imp_self,
      implies_true, bit_off, PWR_MODE_LADDER_blk, TIM_STATUS_CLK_STATE_blk, TIM_STATUS_REF_PRESENT_blk, set_blocks,
      nextFree_blocks, bgSyncAll_blocks, srNone_blocks, resAcc_blocks, bermExit_blocks]

theorem faultWake_blocks (hk : RegsP B base s) (b1 : B 1 := by first | assumption | decide)
    (b2 : B 2 := by first | assumption | decide) (b15 : B 15 := by first | assumption | decide) :
    RegsP B base (s.faultWake) := by
  unfold State.faultWake
  simp +contextual (maxDischargeDepth := 99) only [hk, b1, b2, b15, Regs_mk, ite_blocks, forall_const, imp_self,
      implies_true, bit_off, PWR_WAKE_CAUSE_SOURCE_blk, set_blocks, ladderUp_blocks]

theorem ladderEnter_blocks (hk : RegsP B base s) (b1 : B 1 := by first | assumption | decide)
    (b2 : B 2 := by first | assumption | decide) (b7 : B 7 := by first | assumption | decide)
    (b15 : B 15 := by first | assumption | decide) :
    RegsP B base (s.ladderEnter) := by
  unfold State.ladderEnter
  simp +contextual (maxDischargeDepth := 99) only [hk, b1, b2, b7, b15, Regs_mk, ite_blocks, forall_const, imp_self,
      implies_true, bit_off, ladderDown_blocks]

theorem ladderLeave_blocks (hk : RegsP B base s) (b1 : B 1 := by first | assumption | decide)
    (b2 : B 2 := by first | assumption | decide) (b15 : B 15 := by first | assumption | decide) :
    RegsP B base (s.ladderLeave) := by
  unfold State.ladderLeave
  try dsimp only
  repeat' split
  all_goals simp +contextual (maxDischargeDepth := 99) only [hk, b1, b2, b15, Regs_mk, ite_blocks, forall_const, imp_self,
      implies_true, bit_off, ladderUp_blocks]

theorem accessWake_blocks (hk : RegsP B base s) (b1 : B 1 := by first | assumption | decide)
    (b2 : B 2 := by first | assumption | decide) (b15 : B 15 := by first | assumption | decide) :
    RegsP B base (s.accessWake) := by
  unfold State.accessWake
  simp +contextual (maxDischargeDepth := 99) only [hk, b1, b2, b15, Regs_mk, ite_blocks, forall_const, imp_self,
      implies_true, bit_off, ladderUp_blocks]

/-! ### Machine/Fault.lean -/

theorem modWin_blocks (hk : RegsP B base s) (g : FltWin → FltWin) :
    RegsP B base (s.modWin g) := by
  unfold State.modWin
  simp +contextual (maxDischargeDepth := 99) only [hk, Regs_mk, ite_blocks, forall_const, imp_self, implies_true, bit_off]

theorem applyRuleX_blocks (hk : RegsP B base s) (n src : Nat) (b7 : B 7 := by first | assumption | decide)
    (b14 : B 14 := by first | assumption | decide) :
    RegsP B base (s.applyRuleX n src) := by
  unfold State.applyRuleX
  simp +contextual (maxDischargeDepth := 99) only [hk, b7, b14, Regs_mk, ite_blocks, forall_const, imp_self, implies_true,
      bit_off, FLT_FE_INVALID_HI_SHOT_blk, FLT_FE_INVALID_HI_VALID_blk, FLT_FE_INVALID_LO_SHOT_blk, set_blocks, set2_blocks,
      modF_blocks, dtsDiscard_blocks, dropLost_blocks, modWin_blocks]

theorem containApp_blocks (hk : RegsP B base s) (b4 : B 4 := by first | assumption | decide)
    (b11 : B 11 := by first | assumption | decide) (b12 : B 12 := by first | assumption | decide) :
    RegsP B base (s.containApp) := by
  unfold State.containApp
  simp +contextual (maxDischargeDepth := 99) only [hk, b4, b11, b12, Regs_mk, ite_blocks, forall_const, imp_self,
      implies_true, bit_off, complete_blocks, abandon_blocks, foldl_range_blocks, foldl_blocks]

theorem containScope_blocks (hk : RegsP B base s) (src : Nat) (sc : Nat) (b2 : B 2 := by first | assumption | decide)
    (b3 : B 3 := by first | assumption | decide) (b4 : B 4 := by first | assumption | decide)
    (b5 : B 5 := by first | assumption | decide) (b6 : B 6 := by first | assumption | decide)
    (b7 : B 7 := by first | assumption | decide) (b8 : B 8 := by first | assumption | decide)
    (b9 : B 9 := by first | assumption | decide) (b10 : B 10 := by first | assumption | decide)
    (b11 : B 11 := by first | assumption | decide) (b12 : B 12 := by first | assumption | decide)
    (b14 : B 14 := by first | assumption | decide) :
    RegsP B base (s.containScope src sc) := by
  unfold State.containScope
  simp +contextual (maxDischargeDepth := 99) only [hk, b2, b3, b4, b5, b6, b7, b8, b9, b10, b11, b12, b14, Regs_mk,
      ite_blocks, forall_const, imp_self, implies_true, bit_off, FLT_STATUS_CONTAINED_blk, set_blocks, spillClear_blocks,
      modF_blocks, calAbandon_blocks, pmcStopAll_blocks, trkContain_blocks, dtsDiscard_blocks, trip_blocks,
      applyRuleX_blocks, containApp_blocks]

theorem containMask_blocks (hk : RegsP B base s) (src mask : Nat) (b2 : B 2 := by first | assumption | decide)
    (b3 : B 3 := by first | assumption | decide) (b4 : B 4 := by first | assumption | decide)
    (b5 : B 5 := by first | assumption | decide) (b6 : B 6 := by first | assumption | decide)
    (b7 : B 7 := by first | assumption | decide) (b8 : B 8 := by first | assumption | decide)
    (b10 : B 10 := by first | assumption | decide) (b11 : B 11 := by first | assumption | decide)
    (b12 : B 12 := by first | assumption | decide) (b14 : B 14 := by first | assumption | decide)
        (b9 : B 9 := by first | assumption | decide) :
    RegsP B base (s.containMask src mask) := by
  unfold State.containMask
  simp +contextual (maxDischargeDepth := 99) only [hk, b9, b2, b3, b4, b5, b6, b7, b8, b10, b11, b12, b14, Regs_mk,
      ite_blocks,
      forall_const, imp_self, implies_true, bit_off, FLT_STATUS_CONTAINED_blk, modWin_blocks, containScope_blocks,
      foldl_range_blocks, foldl_blocks]

theorem recontain_blocks (hk : RegsP B base s) (b2 : B 2 := by first | assumption | decide)
    (b3 : B 3 := by first | assumption | decide) (b4 : B 4 := by first | assumption | decide)
    (b5 : B 5 := by first | assumption | decide) (b6 : B 6 := by first | assumption | decide)
    (b7 : B 7 := by first | assumption | decide) (b8 : B 8 := by first | assumption | decide)
    (b10 : B 10 := by first | assumption | decide) (b11 : B 11 := by first | assumption | decide)
    (b12 : B 12 := by first | assumption | decide) (b14 : B 14 := by first | assumption | decide)
        (b9 : B 9 := by first | assumption | decide) :
    RegsP B base (s.recontain) := by
  unfold State.recontain
  simp +contextual (maxDischargeDepth := 99) only [hk, b9, b2, b3, b4, b5, b6, b7, b8, b10, b11, b12, b14, Regs_mk,
      ite_blocks,
      forall_const, imp_self, implies_true, bit_off, FLT_STATUS_CONTAINED_blk, set_blocks, spillClear_blocks,
      pmcStopAll_blocks, trkContain_blocks, trip_blocks, foldl_range_blocks, foldl_blocks]

theorem fabricStop_blocks (hk : RegsP B base s) :
    RegsP B base (s.fabricStop) := by
  unfold State.fabricStop
  simp +contextual (maxDischargeDepth := 99) only [hk, Regs_mk, ite_blocks, forall_const, imp_self, implies_true, bit_off]

theorem fatalStore_blocks (hk : RegsP B base s) (i gt m0 : Nat) :
    RegsP B base (s.fatalStore i gt m0) := by
  unfold State.fatalStore
  simp +contextual (maxDischargeDepth := 99) only [hk, Regs_mk, ite_blocks, forall_const, imp_self, implies_true, bit_off,
      nvPut_blocks]

theorem logShut_blocks (hk : RegsP B base s) :
    RegsP B base (s.logShut) := by
  unfold State.logShut
  simp +contextual (maxDischargeDepth := 99) only [hk, Regs_mk, ite_blocks, forall_const, imp_self, implies_true, bit_off,
      SCH_EPOCH_EPOCH_blk, logMod_blocks]

theorem fatal_blocks (hk : RegsP B base s) (i : Nat) (b1 : B 1 := by first | assumption | decide)
    (b2 : B 2 := by first | assumption | decide) (b3 : B 3 := by first | assumption | decide)
    (b4 : B 4 := by first | assumption | decide) (b5 : B 5 := by first | assumption | decide)
    (b6 : B 6 := by first | assumption | decide) (b7 : B 7 := by first | assumption | decide)
    (b8 : B 8 := by first | assumption | decide) (b9 : B 9 := by first | assumption | decide)
    (b10 : B 10 := by first | assumption | decide) (b11 : B 11 := by first | assumption | decide)
    (b14 : B 14 := by first | assumption | decide)
    (b15 : B 15 := by first | assumption | decide) : RegsP B base (s.fatal i) := by
  unfold State.fatal
  extract_lets m0 gt s1 s2 fl s3 s4 t4 s5 s6 s7 fl8 pw8 s8
  have h1 : RegsP B base s1 := set_blocks (set_blocks (set_blocks (set_blocks hk _ _) _ _) _ _) _ _
  have h2 : RegsP B base s2 := foldl_blocks h1 (fun t n ht => trip_blocks ht _ _)
  have h3 : RegsP B base s3 := Regs_mk h2
  have h4 : RegsP B base s4 := fabricStop_blocks (calFatal_blocks h3)
  have ht : RegsP B base t4 := ite_blocks (testModeEnd_blocks h4) h4
  have h5 : RegsP B base s5 := groupsFault_blocks (set_blocks (weirRoute_blocks (modeReg_blocks ht _) _) _ _)
  have h7 : RegsP B base s7 := pmcSafeHold_blocks (aer_blocks (ladderUp_blocks h5) _)
  have h8 : RegsP B base s8 := Regs_mk h7
  exact fatalStore_blocks (logShut_blocks h8) _ _ _

theorem fatalAgain_blocks (hk : RegsP B base s) (i : Nat) (b1 : B 1 := by first | assumption | decide)
    (b2 : B 2 := by first | assumption | decide) (b3 : B 3 := by first | assumption | decide)
    (b4 : B 4 := by first | assumption | decide) (b5 : B 5 := by first | assumption | decide)
    (b6 : B 6 := by first | assumption | decide) (b7 : B 7 := by first | assumption | decide)
    (b8 : B 8 := by first | assumption | decide) (b9 : B 9 := by first | assumption | decide)
    (b10 : B 10 := by first | assumption | decide) (b11 : B 11 := by first | assumption | decide)
    (b14 : B 14 := by first | assumption | decide) (b15 : B 15 := by first | assumption | decide) :
    RegsP B base (s.fatalAgain i) := by
  unfold State.fatalAgain
  split
  · exact ite_blocks (fatalStore_blocks (nvPut_blocks (nvPut_blocks (set_blocks hk _ _) _ _) _ _) _ _ _) hk
  · exact hk

theorem captureMark_blocks (hk : RegsP B base s) (i : Nat) (b14 : B 14 := by first | assumption | decide) :
    RegsP B base (s.captureMark i) := by
  have hc : (if i % 2 = 0 then FLT_CNT_EVEN (i / 2) else FLT_CNT_ODD (i / 2)).off / 65536 = 14 := by
    split <;> simp only [FLT_CNT_EVEN_blk, FLT_CNT_ODD_blk]
  exact addSat_blocks (stickySet_blocks hk _) _ _ (hc ▸ b14)

theorem windowTake_blocks (hk : RegsP B base s) (i : Nat) (wire : Bool) (b14 : B 14 := by first | assumption | decide) :
    RegsP B base (s.windowTake i wire) := by
  unfold State.windowTake
  try dsimp only
  repeat' split
  all_goals simp +contextual (maxDischargeDepth := 99) only [hk, b14, Regs_mk, ite_blocks, forall_const, imp_self,
      implies_true, bit_off, FLT_EVENTS_ESCALATED_blk, FLT_EVENTS_MERGED_blk, FLT_STATUS_SAFE_HOLD_blk,
      FLT_STATUS_WINDOW_CLASS_blk, FLT_STATUS_WINDOW_OPEN_blk, SCH_EPOCH_EPOCH_blk, set_blocks, ev_blocks]

theorem react_blocks (hk : RegsP B base s) (i : Nat) (b1 : B 1 := by first | assumption | decide)
    (b2 : B 2 := by first | assumption | decide) (b3 : B 3 := by first | assumption | decide)
    (b4 : B 4 := by first | assumption | decide) (b5 : B 5 := by first | assumption | decide)
    (b6 : B 6 := by first | assumption | decide) (b7 : B 7 := by first | assumption | decide)
    (b8 : B 8 := by first | assumption | decide) (b10 : B 10 := by first | assumption | decide)
    (b11 : B 11 := by first | assumption | decide) (b12 : B 12 := by first | assumption | decide)
    (b14 : B 14 := by first | assumption | decide) (b15 : B 15 := by first | assumption | decide)
        (b9 : B 9 := by first | assumption | decide) :
    RegsP B base (s.react i) := by
  unfold State.react
  try dsimp only
  repeat' split
  all_goals simp +contextual (maxDischargeDepth := 99) only [hk, b9, b1, b2, b3, b4, b5, b6, b7, b8, b10, b11, b12, b14, b15,
      Regs_mk, ite_blocks, forall_const, imp_self, implies_true, bit_off, containMask_blocks, fatal_blocks]

theorem aonLatch_blocks (hk : RegsP B base s) (b14 : B 14 := by first | assumption | decide) : RegsP B base s.aonLatch := by
  unfold State.aonLatch
  simp +contextual (maxDischargeDepth := 99) only [hk, b14, Regs_mk, ite_blocks, forall_const, imp_self, implies_true, bit_off,
      FLT_SH_CAUSE_SOURCE_blk, FLT_SH_CAUSE_VALID_blk, set_blocks]

theorem captureSrc_blocks (hk : RegsP B base s) (i : Nat) (wire : Bool) (b1 : B 1 := by first | assumption | decide)
    (b2 : B 2 := by first | assumption | decide) (b3 : B 3 := by first | assumption | decide)
    (b4 : B 4 := by first | assumption | decide) (b5 : B 5 := by first | assumption | decide)
    (b6 : B 6 := by first | assumption | decide) (b7 : B 7 := by first | assumption | decide)
    (b8 : B 8 := by first | assumption | decide) (b9 : B 9 := by first | assumption | decide)
    (b10 : B 10 := by first | assumption | decide) (b11 : B 11 := by first | assumption | decide)
    (b12 : B 12 := by first | assumption | decide) (b14 : B 14 := by first | assumption | decide)
    (b15 : B 15 := by first | assumption | decide) :
    RegsP B base (s.captureSrc i wire) := by
  unfold State.captureSrc
  simp +contextual (maxDischargeDepth := 99) only [hk, b1, b2, b3, b4, b5, b6, b7, b8, b9, b10, b11, b12, b14, b15, Regs_mk,
      ite_blocks, forall_const, imp_self, implies_true, bit_off, FLT_STATUS_SAFE_HOLD_blk, PWR_WAKE_CAUSE_SOURCE_blk,
      set_blocks, faultWake_blocks, fatalAgain_blocks, captureMark_blocks, windowTake_blocks, react_blocks]

theorem faultCapture_blocks (hk : RegsP B base s) (i : Nat) (b1 : B 1 := by first | assumption | decide)
    (b2 : B 2 := by first | assumption | decide) (b3 : B 3 := by first | assumption | decide)
    (b4 : B 4 := by first | assumption | decide) (b5 : B 5 := by first | assumption | decide)
    (b6 : B 6 := by first | assumption | decide) (b7 : B 7 := by first | assumption | decide)
    (b8 : B 8 := by first | assumption | decide) (b10 : B 10 := by first | assumption | decide)
    (b11 : B 11 := by first | assumption | decide) (b12 : B 12 := by first | assumption | decide)
    (b14 : B 14 := by first | assumption | decide) (b15 : B 15 := by first | assumption | decide)
        (b9 : B 9 := by first | assumption | decide) :
    RegsP B base (s.faultCapture i) := by
  unfold State.faultCapture
  simp +contextual (maxDischargeDepth := 99) only [hk, b9, b1, b2, b3, b4, b5, b6, b7, b8, b10, b11, b12, b14, b15, Regs_mk,
      ite_blocks, forall_const, imp_self, implies_true, bit_off, captureSrc_blocks]

theorem wireCapture_blocks (hk : RegsP B base s) (i : Nat) (b1 : B 1 := by first | assumption | decide)
    (b2 : B 2 := by first | assumption | decide) (b3 : B 3 := by first | assumption | decide)
    (b4 : B 4 := by first | assumption | decide) (b5 : B 5 := by first | assumption | decide)
    (b6 : B 6 := by first | assumption | decide) (b7 : B 7 := by first | assumption | decide)
    (b8 : B 8 := by first | assumption | decide) (b10 : B 10 := by first | assumption | decide)
    (b11 : B 11 := by first | assumption | decide) (b12 : B 12 := by first | assumption | decide)
    (b14 : B 14 := by first | assumption | decide) (b15 : B 15 := by first | assumption | decide)
        (b9 : B 9 := by first | assumption | decide) :
    RegsP B base (s.wireCapture i) := by
  unfold State.wireCapture
  simp +contextual (maxDischargeDepth := 99) only [hk, b9, b1, b2, b3, b4, b5, b6, b7, b8, b10, b11, b12, b14, b15, Regs_mk,
      ite_blocks, forall_const, imp_self, implies_true, bit_off, FLT_EVENTS_WIRE_blk, FLT_WIRE_blk, orReg_blocks, ev_blocks,
      captureSrc_blocks]

theorem windowClose_blocks (hk : RegsP B base s) (b1 : B 1 := by first | assumption | decide)
    (b2 : B 2 := by first | assumption | decide) (b3 : B 3 := by first | assumption | decide)
    (b4 : B 4 := by first | assumption | decide) (b5 : B 5 := by first | assumption | decide)
    (b6 : B 6 := by first | assumption | decide) (b7 : B 7 := by first | assumption | decide)
    (b8 : B 8 := by first | assumption | decide) (b10 : B 10 := by first | assumption | decide)
    (b11 : B 11 := by first | assumption | decide) (b14 : B 14 := by first | assumption | decide)
    (b17 : B 17 := by first | assumption | decide) (b9 : B 9 := by first | assumption | decide)
        (b12 : B 12 := by first | assumption | decide) :
    RegsP B base (s.windowClose) := by
  unfold State.windowClose
  try dsimp only
  repeat' split
  all_goals simp +contextual (maxDischargeDepth := 99) only [hk, b9, b12, b1, b2, b3, b4, b5, b6, b7, b8, b10, b11, b14, b17,
      Regs_mk,
      ite_blocks, forall_const, imp_self, implies_true, bit_off, FLT_EVENTS_C_RAISED_blk, FLT_EVENTS_U_RAISED_blk,
      FLT_STATUS_WINDOW_CLASS_blk, FLT_STATUS_WINDOW_OPEN_blk, set_blocks, ev_blocks, aer_blocks, stage_blocks,
      enterMode_blocks]

theorem drive_blocks (hk : RegsP B base s) (i kind : Nat) :
    RegsP B base (s.drive i kind) := by
  unfold State.drive
  simp +contextual (maxDischargeDepth := 99) only [hk, Regs_mk, ite_blocks, forall_const, imp_self, implies_true, bit_off]

theorem injReal_blocks (hk : RegsP B base s) (b : Bool) :
    RegsP B base (s.injReal b) := by
  unfold State.injReal
  simp +contextual (maxDischargeDepth := 99) only [hk, Regs_mk, ite_blocks, forall_const, imp_self, implies_true, bit_off]

theorem srcClear_blocks (hk : RegsP B base s) (i : Nat) :
    RegsP B base (s.srcClear i) := by
  unfold State.srcClear
  try dsimp only
  repeat' split
  all_goals simp +contextual (maxDischargeDepth := 99) only [hk, Regs_mk, ite_blocks, forall_const, imp_self, implies_true,
      bit_off, unpresent_blocks, drive_blocks, injReal_blocks]

theorem uncontain_blocks (hk : RegsP B base s) (mask : Nat) (b9 : B 9 := by first | assumption | decide)
    (b14 : B 14 := by first | assumption | decide) :
    RegsP B base (s.uncontain mask) := by
  unfold State.uncontain
  simp +contextual (maxDischargeDepth := 99) only [hk, b9, b14, Regs_mk, ite_blocks, forall_const, imp_self, implies_true,
      bit_off, FLT_FE_INVALID_HI_blk, FLT_FE_INVALID_LO_blk, FLT_STATUS_CONTAINED_blk, setReg_blocks, set_blocks,
      modF_blocks, trkResume_blocks, foldl_range_blocks, foldl_blocks]

theorem recover_blocks (hk : RegsP B base s) (c : Cmd) (mask : Nat) (b9 : B 9 := by first | assumption | decide)
    (b11 : B 11 := by first | assumption | decide) (b14 : B 14 := by first | assumption | decide) :
    RegsP B base (s.recover c mask) := by
  unfold State.recover
  simp +contextual (maxDischargeDepth := 99) only [hk, b9, b11, b14, Regs_mk, ite_blocks, forall_const, imp_self,
      implies_true, bit_off, FLT_EVENTS_RECOVERED_blk, ev_blocks, complete_blocks, uncontain_blocks]

theorem appReleased_blocks (hk : RegsP B base s) (b11 : B 11 := by first | assumption | decide) :
    RegsP B base (s.appReleased) := by
  unfold State.appReleased
  try dsimp only
  repeat' split
  all_goals simp +contextual (maxDischargeDepth := 99) only [hk, b11, Regs_mk, ite_blocks, forall_const, imp_self,
      implies_true, bit_off, complete_blocks]

theorem inject_blocks (hk : RegsP B base s) (c : Cmd) (src kind dur : Nat) (b11 : B 11 := by first | assumption | decide)
    (b14 : B 14 := by first | assumption | decide) :
    RegsP B base (s.inject c src kind dur) := by
  unfold State.inject
  simp +contextual (maxDischargeDepth := 99) only [hk, b11, b14, Regs_mk, ite_blocks, forall_const, imp_self, implies_true,
      bit_off, FLT_EVENTS_OVERLAP_blk, FLT_INJ_ACTIVE_blk, FLT_INJ_KIND_blk, FLT_INJ_OVERLAP_blk, FLT_INJ_SOURCE_blk,
      FLT_STATUS_INJ_ACTIVE_blk, set_blocks, setB_blocks, ev_blocks, stickySet_blocks, complete_blocks, drive_blocks]

theorem injEnd_blocks (hk : RegsP B base s) (real : Bool) (b11 : B 11 := by first | assumption | decide)
    (b14 : B 14 := by first | assumption | decide) :
    RegsP B base (s.injEnd real) := by
  unfold State.injEnd
  try dsimp only
  repeat' split
  all_goals simp +contextual (maxDischargeDepth := 99) only [hk, b11, b14, Regs_mk, ite_blocks, forall_const, imp_self,
      implies_true, bit_off, FLT_EVENTS_INJ_DONE_blk, FLT_INJ_ACTIVE_blk, FLT_STATUS_INJ_ACTIVE_blk, set_blocks, ev_blocks,
      present_blocks, unpresent_blocks, complete_blocks, modWin_blocks]

/-! ### Machine/Detect.lean -/

theorem stageWhole_blocks (hk : RegsP B base s) (n : Nat) (f : Frame) (work : Nat) :
    RegsP B base (s.stageWhole n f work) := by
  unfold State.stageWhole
  simp +contextual (maxDischargeDepth := 99) only [hk, Regs_mk, ite_blocks, forall_const, imp_self, implies_true, bit_off,
      stageFor_blocks]

theorem eventOut_blocks (hk : RegsP B base s) (r map : Tab Word) (n : Nat) (h : Stamp) (cells : List CellE)
    (dets : List Det) (b8 : B 8 := by first | assumption | decide) :
    RegsP B base (s.eventOut r map n h cells dets) := by
  unfold State.eventOut
  simp +contextual (maxDischargeDepth := 99) only [hk, b8, Regs_mk, ite_blocks, forall_const, imp_self, implies_true,
      bit_off, EVT_EVENTS_ONSET_blk, EVT_EVENTS_REC_DROP_blk, EVT_LOSS_CNT_REC_blk, addSat_blocks, nextFree_blocks,
      ev_blocks, modF_blocks, stageWhole_blocks]

theorem trackOut_blocks (hk : RegsP B base s) (r map : Tab Word) (n : Nat) (h : Stamp) (tracks gone : List (Nat × Track)) :
    RegsP B base (s.trackOut r map n h tracks gone) := by
  unfold State.trackOut
  try dsimp only
  repeat' split
  all_goals simp +contextual (maxDischargeDepth := 99) only [hk, Regs_mk, ite_blocks, forall_const, imp_self, implies_true,
      bit_off, nextFree_blocks, modF_blocks, stageWhole_blocks]

theorem trackRun_blocks (hk : RegsP B base s) (r map : Tab Word) (n : Nat) (h : Stamp) (sent : Option SentForm)
    (cells : List CellE) (rules : List RuleSt) (b8 : B 8 := by first | assumption | decide) :
    RegsP B base (s.trackRun r map n h sent cells rules) := by
  unfold State.trackRun
  extract_lets e c ms old res gone kept made now conf flag s1 s2 s3 s4
  have hf : ∀ (x : Bool) (f : FRef) (t : State), RegsP B base t → B (f.off / 65536) → RegsP B base (flag x f t) :=
    fun x f t ht hb => ite_blocks (ev_blocks ht _ hb) ht
  have h1 : RegsP B base s1 := modF_blocks (set_blocks hk _ _) _ _
  have h2 : RegsP B base s2 := hf _ _ _ h1 (by simp; assumption)
  have h3 : RegsP B base s3 := hf _ _ _ (hf _ _ _ h2 (by simp; assumption)) (by simp; assumption)
  have h4 : RegsP B base s4 := ite_blocks h3 (ev_blocks (addSat_blocks h3 _ _) _)
  exact trackOut_blocks h4 _ _ _ _ _ _

theorem wakeDetect_blocks (hk : RegsP B base s) (r : Tab Word) (n : Nat) (sent : Option SentForm) (dets : List Det)
    (b1 : B 1 := by first | assumption | decide) (b2 : B 2 := by first | assumption | decide)
    (b3 : B 3 := by first | assumption | decide) (b4 : B 4 := by first | assumption | decide)
    (b5 : B 5 := by first | assumption | decide) (b6 : B 6 := by first | assumption | decide)
    (b7 : B 7 := by first | assumption | decide) (b8 : B 8 := by first | assumption | decide)
    (b10 : B 10 := by first | assumption | decide) (b11 : B 11 := by first | assumption | decide)
    (b14 : B 14 := by first | assumption | decide) (b17 : B 17 := by first | assumption | decide)
        (b9 : B 9 := by first | assumption | decide) (b12 : B 12 := by first | assumption | decide) :
    RegsP B base (s.wakeDetect r n sent dets) := by
  unfold State.wakeDetect
  simp +contextual (maxDischargeDepth := 99) only [hk, b9, b12, b1, b2, b3, b4, b5, b6, b7, b8, b10, b11, b14, b17, Regs_mk,
      ite_blocks, forall_const, imp_self, implies_true, bit_off, PWR_EVENTS_WAKE_blk, ev_blocks, enterMode_blocks]

theorem evtEval_blocks (hk : RegsP B base s) (n : Nat) (x : EvtOut) (b1 : B 1 := by first | assumption | decide)
    (b2 : B 2 := by first | assumption | decide) (b3 : B 3 := by first | assumption | decide)
    (b4 : B 4 := by first | assumption | decide) (b5 : B 5 := by first | assumption | decide)
    (b6 : B 6 := by first | assumption | decide) (b7 : B 7 := by first | assumption | decide)
    (b8 : B 8 := by first | assumption | decide) (b9 : B 9 := by first | assumption | decide)
    (b10 : B 10 := by first | assumption | decide) (b11 : B 11 := by first | assumption | decide)
    (b12 : B 12 := by first | assumption | decide) (b14 : B 14 := by first | assumption | decide)
    (b17 : B 17 := by first | assumption | decide) :
    RegsP B base (s.evtEval n x) := by
  unfold State.evtEval
  simp +contextual (maxDischargeDepth := 99) only [hk, b1, b2, b3, b4, b5, b6, b7, b8, b9, b10, b11, b12, b14, b17, Regs_mk,
      ite_blocks, forall_const, imp_self, implies_true, bit_off, modF_blocks, encCheck_blocks, evtShow_blocks,
      eventOut_blocks, trackRun_blocks, wakeDetect_blocks]

theorem energyEnd_blocks (hk : RegsP B base s) (n : Nat) (b1 : B 1 := by first | assumption | decide)
    (b2 : B 2 := by first | assumption | decide) (b3 : B 3 := by first | assumption | decide)
    (b4 : B 4 := by first | assumption | decide) (b5 : B 5 := by first | assumption | decide)
    (b6 : B 6 := by first | assumption | decide) (b7 : B 7 := by first | assumption | decide)
    (b8 : B 8 := by first | assumption | decide) (b9 : B 9 := by first | assumption | decide)
    (b10 : B 10 := by first | assumption | decide) (b11 : B 11 := by first | assumption | decide)
    (b14 : B 14 := by first | assumption | decide) (b17 : B 17 := by first | assumption | decide)
        (b12 : B 12 := by first | assumption | decide) :
    RegsP B base (s.energyEnd n) := by
  unfold State.energyEnd
  try dsimp only
  repeat' split
  all_goals simp +contextual (maxDischargeDepth := 99) only [hk, b12, b1, b2, b3, b4, b5, b6, b7, b8, b9, b10, b11, b14, b17,
      Regs_mk, ite_blocks, forall_const, imp_self, implies_true, bit_off, evtAdvance_blocks, evtEval_blocks]

/-! ### Machine/Power.lean -/

/-- An event of the main domain keeps what its action keeps. -/
theorem main_blocks (hk : RegsP B base s) (t : Nat) (f : State → State) (hf : ∀ x, RegsP B base x → RegsP B base (f x))
    (b10 : B 10 := by first | assumption | decide) :
    RegsP B base (s.main t f) := ite_blocks (hf _ (at_blocks hk t)) (at_blocks hk t)

/-- An event of the signal fabric keeps what its action keeps. -/
theorem fabric_blocks (hk : RegsP B base s) (t : Nat) (f : State → State) (hf : ∀ x, RegsP B base x → RegsP B base (f x))
    (b10 : B 10 := by first | assumption | decide) :
    RegsP B base (s.fabric t f) := main_blocks hk t _ (fun x hx => ite_blocks hx (hf x hx))

theorem safeFollow_blocks (hk : RegsP B base s) (b2 : B 2 := by first | assumption | decide)
    (b3 : B 3 := by first | assumption | decide) (b4 : B 4 := by first | assumption | decide)
    (b5 : B 5 := by first | assumption | decide) (b6 : B 6 := by first | assumption | decide)
    (b7 : B 7 := by first | assumption | decide) (b8 : B 8 := by first | assumption | decide)
    (b10 : B 10 := by first | assumption | decide) (b11 : B 11 := by first | assumption | decide)
    (b14 : B 14 := by first | assumption | decide) (b9 : B 9 := by first | assumption | decide) :
    RegsP B base (s.safeFollow) := by
  unfold State.safeFollow
  simp +contextual (maxDischargeDepth := 99) only [hk, b9, b2, b3, b4, b5, b6, b7, b8, b10, b11, b14, Regs_mk, ite_blocks,
      forall_const, imp_self, implies_true, bit_off, safeLow_blocks]

theorem railsHold_blocks (hk : RegsP B base s) (b14 : B 14 := by first | assumption | decide) :
    RegsP B base (s.railsHold) := by
  unfold State.railsHold
  simp +contextual (maxDischargeDepth := 99) only [hk, b14, Regs_mk, ite_blocks, forall_const, imp_self, implies_true,
      bit_off, present_blocks]

theorem enterL5_blocks (hk : RegsP B base s) (b1 : B 1 := by first | assumption | decide)
    (b2 : B 2 := by first | assumption | decide) (b15 : B 15 := by first | assumption | decide)
    (b16 : B 16 := by first | assumption | decide) : RegsP B base s.enterL5 := by
  unfold State.enterL5
  extract_lets s1
  have h1 : RegsP B base s1 := set_blocks (set_blocks (set_blocks (resAcc_blocks (bgDiscard_blocks hk)) _ _) _ _) _ _
  exact Regs_mk (clockFree_blocks h1)

theorem ladderSink_blocks (hk : RegsP B base s) (b1 : B 1 := by first | assumption | decide)
    (b2 : B 2 := by first | assumption | decide) (b7 : B 7 := by first | assumption | decide)
    (b15 : B 15 := by first | assumption | decide) (b16 : B 16 := by first | assumption | decide) :
    RegsP B base (s.ladderSink) := by
  unfold State.ladderSink
  simp +contextual (maxDischargeDepth := 99) only [hk, b1, b2, b7, b15, b16, Regs_mk, ite_blocks, forall_const, imp_self,
      implies_true, bit_off, dtsDiscard_blocks, ladderEnter_blocks, enterL5_blocks, foldl_range_blocks, foldl_blocks]

theorem powerUp_blocks (hk : RegsP B base s) (src : Nat) (b0 : B 0 := by first | assumption | decide)
    (b1 : B 1 := by first | assumption | decide) :
    RegsP B base (s.powerUp src) := by
  unfold State.powerUp
  simp +contextual (maxDischargeDepth := 99) only [hk, b0, b1, Regs_mk, ite_blocks, forall_const, imp_self, implies_true,
      bit_off, PWR_MODE_LADDER_blk, PWR_WAKE_CAUSE_SOURCE_blk, SYS_RESET_CAUSE_LAST_blk, set_blocks, modeReg_blocks,
      resAcc_blocks]

theorem wake_blocks (hk : RegsP B base s) (src : Nat) (l5 l6 : Bool) (b1 : B 1 := by first | assumption | decide)
    (b2 : B 2 := by first | assumption | decide) (b15 : B 15 := by first | assumption | decide)
        (b0 : B 0 := by first | assumption | decide) :
    RegsP B base (s.wake src l5 l6) := by
  unfold State.wake
  simp +contextual (maxDischargeDepth := 99) only [hk, b0, b1, b2, b15, Regs_mk, ite_blocks, forall_const, imp_self,
      implies_true, bit_off, PWR_WAKE_CAUSE_SOURCE_blk, set_blocks, ladderUp_blocks, powerUp_blocks]

theorem rtcWake_blocks (hk : RegsP B base s) (b1 : B 1 := by first | assumption | decide)
    (b2 : B 2 := by first | assumption | decide) (b15 : B 15 := by first | assumption | decide)
        (b0 : B 0 := by first | assumption | decide) :
    RegsP B base (s.rtcWake) := by
  unfold State.rtcWake
  simp +contextual (maxDischargeDepth := 99) only [hk, b0, b1, b2, b15, Regs_mk, ite_blocks, forall_const, imp_self,
      implies_true, bit_off, wake_blocks]

theorem powerStep_blocks (hk : RegsP B base s) (good : Bool) (b2 : B 2 := by first | assumption | decide)
    (b3 : B 3 := by first | assumption | decide) (b4 : B 4 := by first | assumption | decide)
    (b5 : B 5 := by first | assumption | decide) (b6 : B 6 := by first | assumption | decide)
    (b7 : B 7 := by first | assumption | decide) (b8 : B 8 := by first | assumption | decide)
    (b9 : B 9 := by first | assumption | decide) (b10 : B 10 := by first | assumption | decide)
    (b11 : B 11 := by first | assumption | decide)
    (b14 : B 14 := by first | assumption | decide) : RegsP B base (s.powerStep good) := by
  unfold State.powerStep
  extract_lets k p s1
  have h1 : RegsP B base s1 := Regs_mk hk
  exact ite_blocks (ite_blocks (safeFollow_blocks h1) h1) hk

theorem porstHigh_blocks (hk : RegsP B base s) (b2 : B 2 := by first | assumption | decide)
    (b3 : B 3 := by first | assumption | decide) (b4 : B 4 := by first | assumption | decide)
    (b5 : B 5 := by first | assumption | decide) (b6 : B 6 := by first | assumption | decide)
    (b7 : B 7 := by first | assumption | decide) (b8 : B 8 := by first | assumption | decide)
    (b10 : B 10 := by first | assumption | decide) (b11 : B 11 := by first | assumption | decide)
    (b14 : B 14 := by first | assumption | decide) (b9 : B 9 := by first | assumption | decide) :
    RegsP B base (s.porstHigh) := by
  unfold State.porstHigh
  simp +contextual (maxDischargeDepth := 99) only [hk, b9, b2, b3, b4, b5, b6, b7, b8, b10, b11, b14, Regs_mk, ite_blocks,
      forall_const, imp_self, implies_true, bit_off, safeFollow_blocks]

theorem perstPin_blocks (hk : RegsP B base s) (low : Bool) :
    RegsP B base (s.perstPin low) := by
  unfold State.perstPin
  simp +contextual (maxDischargeDepth := 99) only [hk, Regs_mk, ite_blocks, forall_const, imp_self, implies_true, bit_off]

theorem safeHoldClear_blocks (hk : RegsP B base s) (b14 : B 14 := by first | assumption | decide) :
    RegsP B base (s.safeHoldClear) := by
  unfold State.safeHoldClear
  simp +contextual (maxDischargeDepth := 99) only [hk, b14, Regs_mk, ite_blocks, forall_const, imp_self, implies_true,
      bit_off, FLT_SH_CAUSE_blk, FLT_STATUS_SAFE_HOLD_blk, setReg_blocks, set_blocks]

theorem setLatency_blocks (hk : RegsP B base s) (c : Cmd) (ns : Nat) (b1 : B 1 := by first | assumption | decide)
    (b11 : B 11 := by first | assumption | decide) :
    RegsP B base (s.setLatency c ns) := by
  unfold State.setLatency
  simp +contextual (maxDischargeDepth := 99) only [hk, b1, b11, Regs_mk, ite_blocks, forall_const, imp_self, implies_true,
      bit_off, PWR_LAT_TOL_HI_NS_blk, PWR_LAT_TOL_LO_NS_blk, set2_blocks, complete_blocks]

theorem detachStart_blocks (hk : RegsP B base s) (c : Cmd) (b8 : B 8 := by first | assumption | decide)
    (b11 : B 11 := by first | assumption | decide) :
    RegsP B base (s.detachStart c) := by
  unfold State.detachStart
  simp +contextual (maxDischargeDepth := 99) only [hk, b8, b11, Regs_mk, ite_blocks, forall_const, imp_self, implies_true,
      bit_off, complete_blocks, detached_blocks]

theorem nvEnd_blocks (hk : RegsP B base s) (c : Cmd) (off code value : Nat) (b11 : B 11 := by first | assumption | decide)
    (b17 : B 17 := by first | assumption | decide) :
    RegsP B base (s.nvEnd c off code value) := by
  unfold State.nvEnd
  simp +contextual (maxDischargeDepth := 99) only [hk, b11, b17, Regs_mk, ite_blocks, forall_const, imp_self, implies_true,
      bit_off, NVS_LAST_CODE_blk, NVS_LAST_REGION_blk, set_blocks, complete_blocks]

theorem nvWrite_blocks (hk : RegsP B base s) (c : Cmd) (off len : Nat) (data : Option (List Byte))
    (b11 : B 11 := by first | assumption | decide) (b17 : B 17 := by first | assumption | decide) :
    RegsP B base (s.nvWrite c off len data) := by
  unfold State.nvWrite
  try dsimp only
  repeat' split
  all_goals simp +contextual (maxDischargeDepth := 99) only [hk, b11, b17, Regs_mk, ite_blocks, forall_const, imp_self,
      implies_true, bit_off, NVS_EVENTS_PROT_blk, NVS_WP_WP_blk, ev_blocks, nvEnd_blocks]

theorem nvDone_blocks (hk : RegsP B base s) (ok : Bool) (b11 : B 11 := by first | assumption | decide)
    (b17 : B 17 := by first | assumption | decide) :
    RegsP B base (s.nvDone ok) := by
  unfold State.nvDone
  try dsimp only
  repeat' split
  all_goals simp +contextual (maxDischargeDepth := 99) only [hk, b11, b17, Regs_mk, ite_blocks, forall_const, imp_self,
      implies_true, bit_off, NVS_EVENTS_VERIFY_FAIL_blk, NVS_EVENTS_WR_DONE_blk, nvPut_blocks, ev_blocks, nvCut_blocks,
      nvEnd_blocks]

theorem nvErrs_blocks (hk : RegsP B base s) (corrected : Nat) (ue : Bool) (b14 : B 14 := by first | assumption | decide)
    (b17 : B 17 := by first | assumption | decide) :
    RegsP B base (s.nvErrs corrected ue) := by
  unfold State.nvErrs
  simp +contextual (maxDischargeDepth := 99) only [hk, b14, b17, Regs_mk, ite_blocks, forall_const, imp_self, implies_true,
      bit_off, NVS_CE_CNT_COUNT_blk, NVS_EVENTS_CE_blk, NVS_EVENTS_UE_blk, NVS_UE_CNT_COUNT_blk, addSat_blocks, ev_blocks,
      present_blocks]

theorem nvRead_blocks (hk : RegsP B base s) (c : Cmd) (addr off len : Nat) (dmaOk : Bool) (corrected : Nat)
    (bad : Option Nat) (b11 : B 11 := by first | assumption | decide) (b14 : B 14 := by first | assumption | decide)
    (b17 : B 17 := by first | assumption | decide) :
    RegsP B base (s.nvRead c addr off len dmaOk corrected bad) := by
  unfold State.nvRead
  try dsimp only
  repeat' split
  all_goals simp +contextual (maxDischargeDepth := 99) only [hk, b11, b14, b17, Regs_mk, ite_blocks, forall_const, imp_self,
      implies_true, bit_off, dmaWrite_blocks, nvEnd_blocks, nvErrs_blocks]

theorem railDip_blocks (hk : RegsP B base s) (rail : RailDip) (b14 : B 14 := by first | assumption | decide) :
    RegsP B base (s.railDip rail) := by
  unfold State.railDip
  simp +contextual (maxDischargeDepth := 99) only [hk, b14, Regs_mk, ite_blocks, forall_const, imp_self, implies_true,
      bit_off, present_blocks]

theorem srcCleared_blocks (hk : RegsP B base s) (i : Nat) :
    RegsP B base (s.srcCleared i) := by
  unfold State.srcCleared
  simp +contextual (maxDischargeDepth := 99) only [hk, Regs_mk, ite_blocks, forall_const, imp_self, implies_true, bit_off,
      srcClear_blocks]

end Sys2Proof.Machine
end

