-- ==== Sys2Proof/Laws/Dorm.lean ====
section
/-! SUPPORT. Commands that power the device down in DORMANT (R83, R486): what they are in every other mode. -/

namespace Sys2Proof.Machine

set_option Elab.async false

variable {s : State}

theorem dormGo_up (h : s.mode ≠ 0) : s.dormGo = s := if_neg (fun x => h x.1)

theorem ladderEntry_up (h : s.mode ≠ 0) : s.ladderEntry = s.ladderSink := if_neg h

/-- A disarm that takes effect leaves the mode alone. -/
theorem disarmEffect_mode (n : Nat) : (s.disarmEffect n).mode = s.mode := by
  have h : RegsP (fun b => b ≠ 1) s (s.disarmEffect n) := disarmEffect_blocks (RegsP.refl _ s) n
  exact congrArg (FRef.of PWR_MODE_MODE) (h PWR_MODE (by decide))

theorem execDisarmTakeEffect_up (t : Nat) (n : Fin 4) (h : (s.at t).mode ≠ 0) :
    execDisarmTakeEffect t n s = .next (s.fabric t (fun s => s.disarmEffect n)) := by
  unfold execDisarmTakeEffect State.fabric State.main
  congr 1
  dsimp only
  rw [dormGo_up (s := (s.at t).disarmEffect n) (by rwa [disarmEffect_mode])]

theorem execLadderEntry_up (t : Nat) (h : (s.at t).mode ≠ 0) :
    execLadderEntry t s = .next (s.main t State.ladderSink) := by
  unfold execLadderEntry State.main
  congr 1
  dsimp only
  rw [ladderEntry_up h]

end Sys2Proof.Machine
end

