-- ==== Sys2Proof/Laws/OnlyCore.lean ====
section
/-! SUPPORT. The components of the state that every operation may change: for a predicate C of components, each operation
keeps the others once C holds of those named in its lemma. Machine/Ops.lean and Machine/Hif.lean. -/

namespace Sys2Proof.Machine

set_option Elab.async false
set_option linter.unusedSimpArgs false
set_option linter.unusedVariables false

variable {base s : State} {C : Comp → Prop}

/-- Every component outside C is the same in both states. -/
def OnlyP (C : Comp → Prop) (s t : State) : Prop := ∀ c, ¬ C c → c.same s t

theorem OnlyP.refl (C : Comp → Prop) (s : State) : OnlyP C s s := fun c _ => by cases c <;> rfl

/-- A state built from the components of another. -/
theorem Only_mk (h : OnlyP C base s) {nw x0 x1 x2 x3 x4 x5 x6 x7 x8 x9 x10 x11 x12 x13 x14 x15 x16 x17 x18 x19 x20}
    (hnw : nw = s.now ∨ C .now := by first | exact Or.inl rfl | exact Or.inr (by first | assumption | decide))
    (h0 : x0 = s.gtOff ∨ C .gtOff := by first | exact Or.inl rfl | exact Or.inr (by first | assumption | decide))
    (h1 : x1 = s.regs ∨ C .regs := by first | exact Or.inl rfl | exact Or.inr (by first | assumption | decide))
    (h2 : x2 = s.tables ∨ C .tables := by first | exact Or.inl rfl | exact Or.inr (by first | assumption | decide))
    (h3 : x3 = s.hostMem ∨ C .hostMem := by first | exact Or.inl rfl | exact Or.inr (by first | assumption | decide))
    (h4 : x4 = s.outbox ∨ C .outbox := by first | exact Or.inl rfl | exact Or.inr (by first | assumption | decide))
    (h5 : x5 = s.freeIdx ∨ C .freeIdx := by first | exact Or.inl rfl | exact Or.inr (by first | assumption | decide))
    (h6 : x6 = s.safeN ∨ C .safeN := by first | exact Or.inl rfl | exact Or.inr (by first | assumption | decide))
    (h7 : x7 = s.snaps ∨ C .snaps := by first | exact Or.inl rfl | exact Or.inr (by first | assumption | decide))
    (h8 : x8 = s.hif ∨ C .hif := by first | exact Or.inl rfl | exact Or.inr (by first | assumption | decide))
    (h9 : x9 = s.spill ∨ C .spill := by first | exact Or.inl rfl | exact Or.inr (by first | assumption | decide))
    (h10 : x10 = s.tim ∨ C .tim := by first | exact Or.inl rfl | exact Or.inr (by first | assumption | decide))
    (h11 : x11 = s.fe ∨ C .fe := by first | exact Or.inl rfl | exact Or.inr (by first | assumption | decide))
    (h12 : x12 = s.acq ∨ C .acq := by first | exact Or.inl rfl | exact Or.inr (by first | assumption | decide))
    (h13 : x13 = s.trk ∨ C .trk := by first | exact Or.inl rfl | exact Or.inr (by first | assumption | decide))
    (h14 : x14 = s.sch ∨ C .sch := by first | exact Or.inl rfl | exact Or.inr (by first | assumption | decide))
    (h15 : x15 = s.pmc ∨ C .pmc := by first | exact Or.inl rfl | exact Or.inr (by first | assumption | decide))
    (h16 : x16 = s.wmn ∨ C .wmn := by first | exact Or.inl rfl | exact Or.inr (by first | assumption | decide))
    (h17 : x17 = s.flt ∨ C .flt := by first | exact Or.inl rfl | exact Or.inr (by first | assumption | decide))
    (h18 : x18 = s.mem ∨ C .mem := by first | exact Or.inl rfl | exact Or.inr (by first | assumption | decide))
    (h19 : x19 = s.pwr ∨ C .pwr := by first | exact Or.inl rfl | exact Or.inr (by first | assumption | decide))
    (h20 : x20 = s.nvs ∨ C .nvs := by first | exact Or.inl rfl | exact Or.inr (by first | assumption | decide)) :
    OnlyP C base ⟨s.pending, nw, x0, x1, x2, x3, x4, x5, x6, x7, x8, x9, x10, x11, x12, x13, x14, x15, x16, x17, x18, x19, x20⟩ := by
  intro c hc
  have hb := h c hc
  cases c <;> simp_all [Comp.same]

theorem ite_only {c : Prop} [Decidable c] {x y : State} (hx : OnlyP C base x) (hy : OnlyP C base y) :
    OnlyP C base (if c then x else y) := by
  split <;> assumption

theorem foldl_only {α : Type} {f : State → α → State} {l : List α} (hs : OnlyP C base s)
    (hf : ∀ t x, OnlyP C base t → OnlyP C base (f t x)) : OnlyP C base (l.foldl f s) := by
  induction l generalizing s with
  | nil => exact hs
  | cons x l ih => exact ih (hf s x hs)

/-- Another register file. -/
theorem withRegs_only (h : OnlyP C base s) (r : Tab Word) (h_regs : C .regs := by first | assumption | decide) :
    OnlyP C base { s with regs := r } := Only_mk h

/-- The same, read backwards: what an operation leaves alone is the same after it. -/
theorem Only.of_list {l : List Comp} (h : OnlyP (fun c => c ∈ l) base s) : Only l base s := h

/-! ### Machine/Ops.lean -/

theorem setReg_only (hk : OnlyP C base s) (off : Nat) (v : Word) (h_regs : C .regs := by first | assumption | decide) :
    OnlyP C base (s.setReg off v) := by
  unfold State.setReg
  simp +contextual (maxDischargeDepth := 99) only [hk, h_regs, Only_mk, ite_only, or_true, true_or, forall_const, imp_self,
    implies_true]

theorem set_only (hk : OnlyP C base s) (f : FRef) (x : Nat) (h_regs : C .regs := by first | assumption | decide) :
    OnlyP C base (s.set f x) := by
  unfold State.set
  simp +contextual (maxDischargeDepth := 99) only [hk, h_regs, Only_mk, ite_only, or_true, true_or, forall_const, imp_self,
    implies_true, setReg_only]

theorem setI_only (hk : OnlyP C base s) (f : FRef) (x : Int) (h_regs : C .regs := by first | assumption | decide) :
    OnlyP C base (s.setI f x) := by
  unfold State.setI
  simp +contextual (maxDischargeDepth := 99) only [hk, h_regs, Only_mk, ite_only, or_true, true_or, forall_const, imp_self,
    implies_true, set_only]

theorem setB_only (hk : OnlyP C base s) (f : FRef) (b : Bool) (h_regs : C .regs := by first | assumption | decide) :
    OnlyP C base (s.setB f b) := by
  unfold State.setB
  simp +contextual (maxDischargeDepth := 99) only [hk, h_regs, Only_mk, ite_only, or_true, true_or, forall_const, imp_self,
    implies_true, set_only]

theorem set2_only (hk : OnlyP C base s) (lo hi : FRef) (v : Nat) (h_regs : C .regs := by first | assumption | decide) :
    OnlyP C base (s.set2 lo hi v) := by
  unfold State.set2
  simp +contextual (maxDischargeDepth := 99) only [hk, h_regs, Only_mk, ite_only, or_true, true_or, forall_const, imp_self,
    implies_true, set_only]

theorem addSat_only (hk : OnlyP C base s) (f : FRef) (n : Nat) (h_regs : C .regs := by first | assumption | decide) :
    OnlyP C base (s.addSat f n) := by
  unfold State.addSat
  simp +contextual (maxDischargeDepth := 99) only [hk, h_regs, Only_mk, ite_only, or_true, true_or, forall_const, imp_self,
    implies_true, set_only]

theorem addWrap_only (hk : OnlyP C base s) (f : FRef) (n : Nat) (h_regs : C .regs := by first | assumption | decide) :
    OnlyP C base (s.addWrap f n) := by
  unfold State.addWrap
  simp +contextual (maxDischargeDepth := 99) only [hk, h_regs, Only_mk, ite_only, or_true, true_or, forall_const, imp_self,
    implies_true, set_only]

theorem at_only (hk : OnlyP C base s) (t : Nat) (h_now : C .now := by first | assumption | decide)
    (h_regs : C .regs := by first | assumption | decide) (h_sch : C .sch := by first | assumption | decide) :
    OnlyP C base (s.at t) := by
  unfold State.at
  simp +contextual (maxDischargeDepth := 99) only [hk, h_now, h_regs, h_sch, Only_mk, ite_only, or_true, true_or,
    forall_const, imp_self, implies_true, addWrap_only]

theorem setTword_only (hk : OnlyP C base s) (off : Nat) (v : Word) (h_tables : C .tables := by first | assumption | decide) :
    OnlyP C base (s.setTword off v) := by
  unfold State.setTword
  simp +contextual (maxDischargeDepth := 99) only [hk, h_tables, Only_mk, ite_only, or_true, true_or, forall_const, imp_self,
    implies_true]

theorem setTwords_only (hk : OnlyP C base s) (off : Nat) (l : List Word)
    (h_tables : C .tables := by first | assumption | decide) :
    OnlyP C base (s.setTwords off l) := by
  induction l generalizing s off with
  | nil => exact hk
  | cons v vs ih => exact ih (setTword_only hk off v) (off + 4)

theorem nextFree_only (hk : OnlyP C base s) (h_freeIdx : C .freeIdx := by first | assumption | decide) :
    OnlyP C base (s.nextFree) := by
  unfold State.nextFree
  simp +contextual (maxDischargeDepth := 99) only [hk, h_freeIdx, Only_mk, ite_only, or_true, true_or, forall_const,
    imp_self, implies_true]

theorem dmaWrite_only (hk : OnlyP C base s) (addr : Nat) (bs : List Byte)
    (h_hostMem : C .hostMem := by first | assumption | decide) :
    OnlyP C base (s.dmaWrite addr bs) := by
  unfold State.dmaWrite
  simp +contextual (maxDischargeDepth := 99) only [hk, h_hostMem, Only_mk, ite_only, or_true, true_or, forall_const,
      imp_self, implies_true]

theorem nvPut_only (hk : OnlyP C base s) (off : Nat) (bs : List Byte) (h_nvs : C .nvs := by first | assumption | decide) :
    OnlyP C base (s.nvPut off bs) := by
  unfold State.nvPut
  simp +contextual (maxDischargeDepth := 99) only [hk, h_nvs, Only_mk, ite_only, or_true, true_or, forall_const, imp_self,
    implies_true]

theorem note_only (hk : OnlyP C base s) (off m : Nat) (h_hif : C .hif := by first | assumption | decide) :
    OnlyP C base (s.note off m) := by
  unfold State.note
  simp +contextual (maxDischargeDepth := 99) only [hk, h_hif, Only_mk, ite_only, or_true, true_or, forall_const, imp_self,
      implies_true]

theorem set1_only (hk : OnlyP C base s) (f : FRef) (h_regs : C .regs := by first | assumption | decide)
    (h_hif : C .hif := by first | assumption | decide) :
    OnlyP C base (s.set1 f) := by
  unfold State.set1
  simp +contextual (maxDischargeDepth := 99) only [hk, h_regs, h_hif, Only_mk, ite_only, or_true, true_or, forall_const,
      imp_self, implies_true, set_only, note_only]

theorem orReg_only (hk : OnlyP C base s) (off m : Nat) (h_regs : C .regs := by first | assumption | decide)
    (h_hif : C .hif := by first | assumption | decide) :
    OnlyP C base (s.orReg off m) := by
  unfold State.orReg
  simp +contextual (maxDischargeDepth := 99) only [hk, h_regs, h_hif, Only_mk, ite_only, or_true, true_or, forall_const,
      imp_self, implies_true, setReg_only, note_only]

theorem msix_only (hk : OnlyP C base s) (vec : Nat) (h_outbox : C .outbox := by first | assumption | decide)
    (h_hif : C .hif := by first | assumption | decide) :
    OnlyP C base (s.msix vec) := by
  unfold State.msix
  simp +contextual (maxDischargeDepth := 99) only [hk, h_outbox, h_hif, Only_mk, ite_only, or_true, true_or, forall_const,
    imp_self, implies_true]

theorem msixFlush_only (hk : OnlyP C base s) (h_outbox : C .outbox := by first | assumption | decide)
    (h_hif : C .hif := by first | assumption | decide) :
    OnlyP C base (s.msixFlush) := by
  unfold State.msixFlush
  simp +contextual (maxDischargeDepth := 99) only [hk, h_outbox, h_hif, Only_mk, ite_only, or_true, true_or, forall_const,
    imp_self, implies_true, msix_only, foldl_only]

theorem ev_only (hk : OnlyP C base s) (f : FRef) (h_regs : C .regs := by first | assumption | decide)
    (h_outbox : C .outbox := by first | assumption | decide) (h_hif : C .hif := by first | assumption | decide) :
    OnlyP C base (s.ev f) := by
  unfold State.ev
  simp +contextual (maxDischargeDepth := 99) only [hk, h_regs, h_outbox, h_hif, Only_mk, ite_only, or_true, true_or,
      forall_const, imp_self, implies_true, note_only, set1_only, msix_only]

theorem aerUnc_only (hk : OnlyP C base s) (bit : Nat) (h_outbox : C .outbox := by first | assumption | decide)
    (h_hif : C .hif := by first | assumption | decide) :
    OnlyP C base (s.aerUnc bit) := by
  unfold State.aerUnc
  simp +contextual (maxDischargeDepth := 99) only [hk, h_outbox, h_hif, Only_mk, ite_only, or_true, true_or, forall_const,
      imp_self, implies_true]

theorem aer_only (hk : OnlyP C base s) (cls : Nat) (h_outbox : C .outbox := by first | assumption | decide)
    (h_hif : C .hif := by first | assumption | decide) :
    OnlyP C base (s.aer cls) := by
  unfold State.aer
  simp +contextual (maxDischargeDepth := 99) only [hk, h_outbox, h_hif, Only_mk, ite_only, or_true, true_or, forall_const,
      imp_self, implies_true, aerUnc_only]

theorem logMod_only (hk : OnlyP C base s) (f : LogRec → LogRec) (h_hif : C .hif := by first | assumption | decide) :
    OnlyP C base (s.logMod f) := by
  unfold State.logMod
  try dsimp only
  repeat' split
  all_goals simp +contextual (maxDischargeDepth := 99) only [hk, h_hif, Only_mk, ite_only, or_true, true_or, forall_const,
    imp_self, implies_true]

theorem stickySet_only (hk : OnlyP C base s) (i : Nat) (h_regs : C .regs := by first | assumption | decide)
    (h_hif : C .hif := by first | assumption | decide) :
    OnlyP C base (s.stickySet i) := by
  unfold State.stickySet
  simp +contextual (maxDischargeDepth := 99) only [hk, h_regs, h_hif, Only_mk, ite_only, or_true, true_or, forall_const,
      imp_self, implies_true, orReg_only, logMod_only]

theorem present_only (hk : OnlyP C base s) (src : Nat) (h_regs : C .regs := by first | assumption | decide)
    (h_outbox : C .outbox := by first | assumption | decide) (h_hif : C .hif := by first | assumption | decide)
    (h_flt : C .flt := by first | assumption | decide) :
    OnlyP C base (s.present src) := by
  unfold State.present
  try dsimp only
  repeat' split
  all_goals simp +contextual (maxDischargeDepth := 99) only [hk, h_regs, h_outbox, h_hif, h_flt, Only_mk, ite_only, or_true,
      true_or, forall_const, imp_self, implies_true, set_only, ev_only, stickySet_only]

theorem unpresent_only (hk : OnlyP C base s) (src : Nat) (h_flt : C .flt := by first | assumption | decide) :
    OnlyP C base (s.unpresent src) := by
  unfold State.unpresent
  simp +contextual (maxDischargeDepth := 99) only [hk, h_flt, Only_mk, ite_only, or_true, true_or, forall_const, imp_self,
    implies_true]

theorem memUsed_only (hk : OnlyP C base s) (mask : Nat) (h_mem : C .mem := by first | assumption | decide) :
    OnlyP C base (s.memUsed mask) := by
  unfold State.memUsed
  simp +contextual (maxDischargeDepth := 99) only [hk, h_mem, Only_mk, ite_only, or_true, true_or, forall_const, imp_self,
      implies_true]

/-! ### Machine/Hif.lean -/

theorem setRing_only (hk : OnlyP C base s) (r : Nat) (x : RingSt) (h_hif : C .hif := by first | assumption | decide) :
    OnlyP C base (s.setRing r x) := by
  unfold State.setRing
  simp +contextual (maxDischargeDepth := 99) only [hk, h_hif, Only_mk, ite_only, or_true, true_or, forall_const, imp_self,
    implies_true]

theorem setCplRing_only (hk : OnlyP C base s) (k : Nat) (x : CplSt) (h_hif : C .hif := by first | assumption | decide) :
    OnlyP C base (s.setCplRing k x) := by
  unfold State.setCplRing
  simp +contextual (maxDischargeDepth := 99) only [hk, h_hif, Only_mk, ite_only, or_true, true_or, forall_const, imp_self,
    implies_true]

theorem setStrRing_only (hk : OnlyP C base s) (m : Nat) (x : StrSt) (h_hif : C .hif := by first | assumption | decide) :
    OnlyP C base (s.setStrRing m x) := by
  unfold State.setStrRing
  simp +contextual (maxDischargeDepth := 99) only [hk, h_hif, Only_mk, ite_only, or_true, true_or, forall_const, imp_self,
    implies_true]

theorem logStream_only (hk : OnlyP C base s) (st : Nat) (f : LogStream → LogStream)
    (h_hif : C .hif := by first | assumption | decide) :
    OnlyP C base (s.logStream st f) := by
  unfold State.logStream
  simp +contextual (maxDischargeDepth := 99) only [hk, h_hif, Only_mk, ite_only, or_true, true_or, forall_const, imp_self,
    implies_true, logMod_only]

theorem markLoss_only (hk : OnlyP C base s) (st : Nat) (h_hif : C .hif := by first | assumption | decide) :
    OnlyP C base (s.markLoss st) := by
  unfold State.markLoss
  simp +contextual (maxDischargeDepth := 99) only [hk, h_hif, Only_mk, ite_only, or_true, true_or, forall_const, imp_self,
    implies_true, setStrRing_only]

theorem logDiscard_only (hk : OnlyP C base s) (f : Frame) (h_hif : C .hif := by first | assumption | decide) :
    OnlyP C base (s.logDiscard f) := by
  unfold State.logDiscard
  simp +contextual (maxDischargeDepth := 99) only [hk, h_hif, Only_mk, ite_only, or_true, true_or, forall_const, imp_self,
      implies_true, logStream_only, markLoss_only]

theorem logOverwrite_only (hk : OnlyP C base s) (f : Frame) (h_hif : C .hif := by first | assumption | decide) :
    OnlyP C base (s.logOverwrite f) := by
  unfold State.logOverwrite
  simp +contextual (maxDischargeDepth := 99) only [hk, h_hif, Only_mk, ite_only, or_true, true_or, forall_const, imp_self,
    implies_true, logStream_only, markLoss_only]

theorem cplSignal_only (hk : OnlyP C base s) (k : Nat) (h_outbox : C .outbox := by first | assumption | decide)
    (h_hif : C .hif := by first | assumption | decide) :
    OnlyP C base (s.cplSignal k) := by
  unfold State.cplSignal
  simp +contextual (maxDischargeDepth := 99) only [hk, h_outbox, h_hif, Only_mk, ite_only, or_true, true_or, forall_const,
    imp_self, implies_true, msix_only, setCplRing_only]

theorem cplCoalesce_only (hk : OnlyP C base s) (k : Nat) (irq : Bool)
    (h_outbox : C .outbox := by first | assumption | decide) (h_hif : C .hif := by first | assumption | decide) :
    OnlyP C base (s.cplCoalesce k irq) := by
  unfold State.cplCoalesce
  simp +contextual (maxDischargeDepth := 99) only [hk, h_outbox, h_hif, Only_mk, ite_only, or_true, true_or, forall_const,
    imp_self, implies_true, setCplRing_only, cplSignal_only]

theorem cplCount_only (hk : OnlyP C base s) (c : Cpl) (h_regs : C .regs := by first | assumption | decide)
    (h_outbox : C .outbox := by first | assumption | decide) (h_hif : C .hif := by first | assumption | decide) :
    OnlyP C base (s.cplCount c) := by
  unfold State.cplCount
  simp +contextual (maxDischargeDepth := 99) only [hk, h_regs, h_outbox, h_hif, Only_mk, ite_only, or_true, true_or,
    forall_const, imp_self, implies_true, addSat_only, ev_only]

theorem cplWrite_only (hk : OnlyP C base s) (c : Cpl) (h_regs : C .regs := by first | assumption | decide)
    (h_hostMem : C .hostMem := by first | assumption | decide) (h_outbox : C .outbox := by first | assumption | decide)
    (h_hif : C .hif := by first | assumption | decide) :
    OnlyP C base (s.cplWrite c) := by
  unfold State.cplWrite
  simp +contextual (maxDischargeDepth := 99) only [hk, h_regs, h_hostMem, h_outbox, h_hif, Only_mk, ite_only, or_true,
    true_or, forall_const, imp_self, implies_true, set_only, dmaWrite_only, setCplRing_only, cplCoalesce_only, cplCount_only]

theorem cplHold_only (hk : OnlyP C base s) (c : Cpl) (h_hif : C .hif := by first | assumption | decide) :
    OnlyP C base (s.cplHold c) := by
  unfold State.cplHold
  simp +contextual (maxDischargeDepth := 99) only [hk, h_hif, Only_mk, ite_only, or_true, true_or, forall_const, imp_self,
      implies_true, logMod_only]

theorem post_only (hk : OnlyP C base s) (c : Cpl) (h_regs : C .regs := by first | assumption | decide)
    (h_hostMem : C .hostMem := by first | assumption | decide) (h_outbox : C .outbox := by first | assumption | decide)
    (h_hif : C .hif := by first | assumption | decide) :
    OnlyP C base (s.post c) := by
  unfold State.post
  simp +contextual (maxDischargeDepth := 99) only [hk, h_regs, h_hostMem, h_outbox, h_hif, Only_mk, ite_only, or_true,
      true_or, forall_const, imp_self, implies_true, ev_only, cplWrite_only, cplHold_only]

theorem flushHeld_only (hk : OnlyP C base s) (k : Nat) (mark : Bool) (l : List Cpl)
    (h_regs : C .regs := by first | assumption | decide) (h_hostMem : C .hostMem := by first | assumption | decide)
    (h_outbox : C .outbox := by first | assumption | decide)
    (h_hif : C .hif := by first | assumption | decide) : OnlyP C base (flushHeld k mark l s) := by
  induction l generalizing s with
  | nil => exact hk
  | cons c cs ih =>
    unfold flushHeld
    split
    · exact ih (cplWrite_only hk _)
    · exact ih (Only_mk hk)

theorem cplRelease_only (hk : OnlyP C base s) (k : Nat) (mark : Bool) (h_regs : C .regs := by first | assumption | decide)
    (h_hostMem : C .hostMem := by first | assumption | decide) (h_outbox : C .outbox := by first | assumption | decide)
    (h_hif : C .hif := by first | assumption | decide) :
    OnlyP C base (s.cplRelease k mark) := by
  unfold State.cplRelease
  simp +contextual (maxDischargeDepth := 99) only [hk, h_regs, h_hostMem, h_outbox, h_hif, Only_mk, ite_only, or_true,
      true_or, forall_const, imp_self, implies_true, ev_only, flushHeld_only]

theorem complete_only (hk : OnlyP C base s) (c : Cmd) (result value : Nat)
    (h_regs : C .regs := by first | assumption | decide) (h_hostMem : C .hostMem := by first | assumption | decide)
    (h_outbox : C .outbox := by first | assumption | decide) (h_hif : C .hif := by first | assumption | decide) :
    OnlyP C base (s.complete c result value) := by
  unfold State.complete
  simp +contextual (maxDischargeDepth := 99) only [hk, h_regs, h_hostMem, h_outbox, h_hif, Only_mk, ite_only, or_true,
      true_or, forall_const, imp_self, implies_true, setRing_only, post_only, foldl_only]

theorem outcome_only (hk : OnlyP C base s) (c : Cmd) (code value : Nat) (h_regs : C .regs := by first | assumption | decide)
    (h_hostMem : C .hostMem := by first | assumption | decide) (h_outbox : C .outbox := by first | assumption | decide)
    (h_hif : C .hif := by first | assumption | decide) :
    OnlyP C base (s.outcome c code value) := by
  unfold State.outcome
  simp +contextual (maxDischargeDepth := 99) only [hk, h_regs, h_hostMem, h_outbox, h_hif, Only_mk, ite_only, or_true,
    true_or, forall_const, imp_self, implies_true, post_only]

theorem fetched_only (hk : OnlyP C base s) (r : Nat) (h_regs : C .regs := by first | assumption | decide)
    (h_hif : C .hif := by first | assumption | decide) :
    OnlyP C base (s.fetched r) := by
  unfold State.fetched
  simp +contextual (maxDischargeDepth := 99) only [hk, h_regs, h_hif, Only_mk, ite_only, or_true, true_or, forall_const,
      imp_self, implies_true, addWrap_only, setRing_only]

theorem fenceWait_only (hk : OnlyP C base s) (h : Hdr) (h_hif : C .hif := by first | assumption | decide) :
    OnlyP C base (s.fenceWait h) := by
  unfold State.fenceWait
  simp +contextual (maxDischargeDepth := 99) only [hk, h_hif, Only_mk, ite_only, or_true, true_or, forall_const, imp_self,
      implies_true, setRing_only]

theorem enroll_only (hk : OnlyP C base s) (c : Cmd) (h_hif : C .hif := by first | assumption | decide) :
    OnlyP C base (s.enroll c) := by
  unfold State.enroll
  simp +contextual (maxDischargeDepth := 99) only [hk, h_hif, Only_mk, ite_only, or_true, true_or, forall_const, imp_self,
      implies_true, setRing_only]

/-- A ring command keeps what its execution keeps. -/
theorem ringStart_only (hk : OnlyP C base s) (h : Hdr) (op : Nat) (bad : Option Nat) (body : Cmd → State → State)
    (hb : ∀ c t, OnlyP C base t → OnlyP C base (body c t)) (h_now : C .now := by first | assumption | decide)
        (h_regs : C .regs := by first | assumption | decide) (h_hostMem : C .hostMem := by first | assumption | decide)
        (h_outbox : C .outbox := by first | assumption | decide) (h_hif : C .hif := by first | assumption | decide)
        (h_sch : C .sch := by first | assumption | decide) :
    OnlyP C base (s.ringStart h op bad body) := by
  have h1 := at_only hk h.t
  have h2 := fetched_only h1 h.ring
  unfold State.ringStart
  dsimp only
  repeat' split
  · exact post_only h2 _
  · exact setRing_only h2 _ _
  · exact post_only h2 _
  · exact hb _ _ (enroll_only h2 _)
  · exact fenceWait_only h1 _

theorem cmdDb_only (hk : OnlyP C base s) (k v : Nat) (h_regs : C .regs := by first | assumption | decide)
    (h_outbox : C .outbox := by first | assumption | decide) (h_hif : C .hif := by first | assumption | decide) :
    OnlyP C base (s.cmdDb k v) := by
  unfold State.cmdDb
  simp +contextual (maxDischargeDepth := 99) only [hk, h_regs, h_outbox, h_hif, Only_mk, ite_only, or_true, true_or,
    forall_const, imp_self, implies_true, set_only, ev_only]

theorem cplDb_only (hk : OnlyP C base s) (k v : Nat) (h_regs : C .regs := by first | assumption | decide)
    (h_hostMem : C .hostMem := by first | assumption | decide) (h_outbox : C .outbox := by first | assumption | decide)
    (h_hif : C .hif := by first | assumption | decide) :
    OnlyP C base (s.cplDb k v) := by
  unfold State.cplDb
  simp +contextual (maxDischargeDepth := 99) only [hk, h_regs, h_hostMem, h_outbox, h_hif, Only_mk, ite_only, or_true,
      true_or, forall_const, imp_self, implies_true, set_only, ev_only, cplRelease_only]

theorem ringRun_only (hk : OnlyP C base s) (kind : RingKind) (k : Nat) (h_regs : C .regs := by first | assumption | decide)
    (h_hostMem : C .hostMem := by first | assumption | decide) (h_outbox : C .outbox := by first | assumption | decide)
    (h_hif : C .hif := by first | assumption | decide) :
    OnlyP C base (s.ringRun kind k) := by
  unfold State.ringRun
  try dsimp only
  repeat' split
  all_goals simp +contextual (maxDischargeDepth := 99) only [hk, h_regs, h_hostMem, h_outbox, h_hif, Only_mk, ite_only,
      or_true, true_or, forall_const, imp_self, implies_true, set_only, setRing_only, setCplRing_only, setStrRing_only,
      cplRelease_only]

theorem descWrite_only (hk : OnlyP C base s) (m : Nat) (b : Buf) (done bad : Bool)
    (h_hostMem : C .hostMem := by first | assumption | decide) :
    OnlyP C base (s.descWrite m b done bad) := by
  unfold State.descWrite
  simp +contextual (maxDischargeDepth := 99) only [hk, h_hostMem, Only_mk, ite_only, or_true, true_or, forall_const,
    imp_self, implies_true, dmaWrite_only]

theorem bufSkip_only (hk : OnlyP C base s) (m : Nat) (l : List BufDesc) (h_regs : C .regs := by first | assumption | decide)
    (h_hostMem : C .hostMem := by first | assumption | decide) (h_outbox : C .outbox := by first | assumption | decide)
    (h_hif : C .hif := by first | assumption | decide) : OnlyP C base (bufSkip m l s) := by
  induction l generalizing s with
  | nil => exact setStrRing_only hk _ _
  | cons d ds ih =>
    unfold bufSkip
    split
    · exact setStrRing_only hk _ _
    · exact ih (ev_only (addSat_only (addWrap_only (descWrite_only hk _ _ _ _) _ _) _ _) _)

theorem bufTrim_only (hk : OnlyP C base s) (m : Nat) (h_regs : C .regs := by first | assumption | decide)
    (h_hostMem : C .hostMem := by first | assumption | decide) (h_outbox : C .outbox := by first | assumption | decide)
    (h_hif : C .hif := by first | assumption | decide) :
    OnlyP C base (s.bufTrim m) := by
  unfold State.bufTrim
  simp +contextual (maxDischargeDepth := 99) only [hk, h_regs, h_hostMem, h_outbox, h_hif, Only_mk, ite_only, or_true,
      true_or, forall_const, imp_self, implies_true, bufSkip_only]

theorem bufClose_only (hk : OnlyP C base s) (m : Nat) (h_regs : C .regs := by first | assumption | decide)
    (h_hostMem : C .hostMem := by first | assumption | decide) (h_outbox : C .outbox := by first | assumption | decide)
    (h_hif : C .hif := by first | assumption | decide) :
    OnlyP C base (s.bufClose m) := by
  unfold State.bufClose
  try dsimp only
  repeat' split
  all_goals simp +contextual (maxDischargeDepth := 99) only [hk, h_regs, h_hostMem, h_outbox, h_hif, Only_mk, ite_only,
      or_true, true_or, forall_const, imp_self, implies_true, addWrap_only, msix_only, setStrRing_only, descWrite_only,
      bufTrim_only]

theorem bufFlush_only (hk : OnlyP C base s) (m : Nat) (h_regs : C .regs := by first | assumption | decide)
    (h_hostMem : C .hostMem := by first | assumption | decide) (h_outbox : C .outbox := by first | assumption | decide)
    (h_hif : C .hif := by first | assumption | decide) :
    OnlyP C base (s.bufFlush m) := by
  unfold State.bufFlush
  try dsimp only
  repeat' split
  all_goals simp +contextual (maxDischargeDepth := 99) only [hk, h_regs, h_hostMem, h_outbox, h_hif, Only_mk, ite_only,
      or_true, true_or, forall_const, imp_self, implies_true, bufClose_only]

theorem bufNext_only (hk : OnlyP C base s) (m : Nat) (h_hif : C .hif := by first | assumption | decide) :
    OnlyP C base (s.bufNext m) := by
  unfold State.bufNext
  try dsimp only
  repeat' split
  all_goals simp +contextual (maxDischargeDepth := 99) only [hk, h_hif, Only_mk, ite_only, or_true, true_or, forall_const,
      imp_self, implies_true, setStrRing_only]

theorem strDb_only (hk : OnlyP C base s) (m v : Nat) (descs : List BufDesc)
    (h_regs : C .regs := by first | assumption | decide) (h_hostMem : C .hostMem := by first | assumption | decide)
    (h_outbox : C .outbox := by first | assumption | decide) (h_hif : C .hif := by first | assumption | decide) :
    OnlyP C base (s.strDb m v descs) := by
  unfold State.strDb
  simp +contextual (maxDischargeDepth := 99) only [hk, h_regs, h_hostMem, h_outbox, h_hif, Only_mk, ite_only, or_true,
      true_or, forall_const, imp_self, implies_true, set_only, ev_only, setStrRing_only, bufTrim_only]

theorem writeChunks_only (hk : OnlyP C base s) (m : Nat) (start spilled : Bool) (fuel : Nat) (bs : List Byte)
    (h_regs : C .regs := by first | assumption | decide) (h_hostMem : C .hostMem := by first | assumption | decide)
    (h_outbox : C .outbox := by first | assumption | decide) (h_hif : C .hif := by first | assumption | decide) :
    OnlyP C base (writeChunks m start spilled fuel bs s) := by
  induction fuel generalizing s start bs with
  | zero => exact hk
  | succ fuel ih =>
    have h1 := bufNext_only hk m
    unfold writeChunks
    dsimp only
    split
    · exact h1
    · split
      · simp +contextual (maxDischargeDepth := 99) only [h_regs, h_hostMem, h_outbox, h_hif, h1, ite_only, bufClose_only,
    msix_only, descWrite_only,
          setStrRing_only, dmaWrite_only]
      · exact ih (bufClose_only (setStrRing_only (dmaWrite_only h1 _ _) _ _) _) _ _

theorem frameWrite_only (hk : OnlyP C base s) (m : Nat) (f : Frame) (h_regs : C .regs := by first | assumption | decide)
    (h_hostMem : C .hostMem := by first | assumption | decide) (h_outbox : C .outbox := by first | assumption | decide)
    (h_hif : C .hif := by first | assumption | decide) :
    OnlyP C base (s.frameWrite m f) := by
  unfold State.frameWrite
  simp +contextual (maxDischargeDepth := 99) only [hk, h_regs, h_hostMem, h_outbox, h_hif, Only_mk, ite_only, or_true,
    true_or, forall_const, imp_self, implies_true, writeChunks_only]

theorem spillGeneral_only (hk : OnlyP C base s) (l : List SpillFrame) (h_spill : C .spill := by first | assumption | decide) :
    OnlyP C base (s.spillGeneral l) := by
  unfold State.spillGeneral
  simp +contextual (maxDischargeDepth := 99) only [hk, h_spill, Only_mk, ite_only, or_true, true_or, forall_const, imp_self,
    implies_true]

theorem spillReserved_only (hk : OnlyP C base s) (l : List SpillFrame)
    (h_spill : C .spill := by first | assumption | decide) :
    OnlyP C base (s.spillReserved l) := by
  unfold State.spillReserved
  simp +contextual (maxDischargeDepth := 99) only [hk, h_spill, Only_mk, ite_only, or_true, true_or, forall_const, imp_self,
    implies_true]

theorem spillLost_only (hk : OnlyP C base s) (h_regs : C .regs := by first | assumption | decide)
    (h_outbox : C .outbox := by first | assumption | decide) (h_hif : C .hif := by first | assumption | decide) :
    OnlyP C base (s.spillLost) := by
  unfold State.spillLost
  simp +contextual (maxDischargeDepth := 99) only [hk, h_regs, h_outbox, h_hif, Only_mk, ite_only, or_true, true_or,
    forall_const, imp_self, implies_true, addSat_only, ev_only]

theorem spillFit_only (hk : OnlyP C base s) (cap need : Nat) (l : List SpillFrame)
    (h_regs : C .regs := by first | assumption | decide) (h_outbox : C .outbox := by first | assumption | decide)
    (h_hif : C .hif := by first | assumption | decide)
    (h_spill : C .spill := by first | assumption | decide) : OnlyP C base (spillFit cap need l s) := by
  induction l generalizing s with
  | nil => exact spillGeneral_only hk _
  | cons x xs ih =>
    unfold spillFit
    split
    · exact spillGeneral_only hk _
    · exact ih (spillLost_only (logOverwrite_only hk _))

theorem spillDrop_only (hk : OnlyP C base s) (f : Frame) (h_regs : C .regs := by first | assumption | decide)
    (h_outbox : C .outbox := by first | assumption | decide) (h_hif : C .hif := by first | assumption | decide) :
    OnlyP C base (s.spillDrop f) := by
  unfold State.spillDrop
  simp +contextual (maxDischargeDepth := 99) only [hk, h_regs, h_outbox, h_hif, Only_mk, ite_only, or_true, true_or,
      forall_const, imp_self, implies_true, addSat_only, ev_only, logDiscard_only, spillLost_only]

theorem spillIn_only (hk : OnlyP C base s) (f0 : Frame) (h_regs : C .regs := by first | assumption | decide)
    (h_outbox : C .outbox := by first | assumption | decide) (h_hif : C .hif := by first | assumption | decide)
    (h_spill : C .spill := by first | assumption | decide) (h_mem : C .mem := by first | assumption | decide) :
    OnlyP C base (s.spillIn f0) := by
  unfold State.spillIn
  simp +contextual (maxDischargeDepth := 99) only [hk, h_regs, h_outbox, h_hif, h_spill, h_mem, Only_mk, ite_only, or_true,
      true_or, forall_const, imp_self, implies_true, memUsed_only, logStream_only, spillGeneral_only, spillReserved_only,
      spillFit_only, spillDrop_only]

theorem spillClear_only (hk : OnlyP C base s) (h_regs : C .regs := by first | assumption | decide)
    (h_outbox : C .outbox := by first | assumption | decide) (h_hif : C .hif := by first | assumption | decide)
    (h_spill : C .spill := by first | assumption | decide) :
    OnlyP C base (s.spillClear) := by
  unfold State.spillClear
  simp +contextual (maxDischargeDepth := 99) only [hk, h_regs, h_outbox, h_hif, h_spill, Only_mk, ite_only, or_true, true_or,
    forall_const, imp_self, implies_true, logOverwrite_only, spillGeneral_only, spillReserved_only, spillLost_only,
    withRegs_only, foldl_only]

theorem spillBack_only (hk : OnlyP C base s) (l : List Frame) (h_regs : C .regs := by first | assumption | decide)
    (h_outbox : C .outbox := by first | assumption | decide) (h_hif : C .hif := by first | assumption | decide)
    (h_spill : C .spill := by first | assumption | decide) (h_mem : C .mem := by first | assumption | decide) :
    OnlyP C base (s.spillBack l) := by
  unfold State.spillBack
  simp +contextual (maxDischargeDepth := 99) only [hk, h_regs, h_outbox, h_hif, h_spill, h_mem, Only_mk, ite_only, or_true,
      true_or, forall_const, imp_self, implies_true, memUsed_only, logStream_only, spillReserved_only, spillFit_only,
      spillDrop_only, foldl_only]

theorem nextSeq_only (hk : OnlyP C base s) (st : Nat) (h_hif : C .hif := by first | assumption | decide) :
    OnlyP C base (s.nextSeq st) := by
  unfold State.nextSeq
  simp +contextual (maxDischargeDepth := 99) only [hk, h_hif, Only_mk, ite_only, or_true, true_or, forall_const, imp_self,
    implies_true]

theorem stageWork_only (hk : OnlyP C base s) (f : Frame) (work : Option Nat)
    (h_hif : C .hif := by first | assumption | decide) :
    OnlyP C base (s.stageWork f work) := by
  unfold State.stageWork
  simp +contextual (maxDischargeDepth := 99) only [hk, h_hif, Only_mk, ite_only, or_true, true_or, forall_const, imp_self,
      implies_true, nextSeq_only]

theorem stage_only (hk : OnlyP C base s) (f : Frame) (h_hif : C .hif := by first | assumption | decide) :
    OnlyP C base (s.stage f) := by
  unfold State.stage
  simp +contextual (maxDischargeDepth := 99) only [hk, h_hif, Only_mk, ite_only, or_true, true_or, forall_const, imp_self,
    implies_true, stageWork_only]

theorem stageFor_only (hk : OnlyP C base s) (f : Frame) (work : Nat) (h_hif : C .hif := by first | assumption | decide) :
    OnlyP C base (s.stageFor f work) := by
  unfold State.stageFor
  simp +contextual (maxDischargeDepth := 99) only [hk, h_hif, Only_mk, ite_only, or_true, true_or, forall_const, imp_self,
    implies_true, stageWork_only]

theorem deliver_only (hk : OnlyP C base s) (f : Frame) (h_regs : C .regs := by first | assumption | decide)
    (h_hostMem : C .hostMem := by first | assumption | decide) (h_outbox : C .outbox := by first | assumption | decide)
    (h_hif : C .hif := by first | assumption | decide) (h_spill : C .spill := by first | assumption | decide)
        (h_mem : C .mem := by first | assumption | decide) :
    OnlyP C base (s.deliver f) := by
  unfold State.deliver
  simp +contextual (maxDischargeDepth := 99) only [hk, h_mem, h_regs, h_hostMem, h_outbox, h_hif, h_spill, Only_mk, ite_only,
      or_true, true_or, forall_const, imp_self, implies_true, logDiscard_only, frameWrite_only, spillIn_only]

theorem divertEnd_only (hk : OnlyP C base s) (h_hif : C .hif := by first | assumption | decide) :
    OnlyP C base (s.divertEnd) := by
  unfold State.divertEnd
  simp +contextual (maxDischargeDepth := 99) only [hk, h_hif, Only_mk, ite_only, or_true, true_or, forall_const, imp_self,
    implies_true]

theorem frameReleased_only (hk : OnlyP C base s) (st : Nat) (h_regs : C .regs := by first | assumption | decide)
    (h_outbox : C .outbox := by first | assumption | decide) (h_hif : C .hif := by first | assumption | decide)
    (h_spill : C .spill := by first | assumption | decide) :
    OnlyP C base (s.frameReleased st) := by
  unfold State.frameReleased
  try dsimp only
  repeat' split
  all_goals simp +contextual (maxDischargeDepth := 99) only [hk, h_regs, h_outbox, h_hif, h_spill, Only_mk, ite_only,
    or_true, true_or, forall_const, imp_self, implies_true, ev_only, spillGeneral_only, spillReserved_only, divertEnd_only]

theorem modDump_only (hk : OnlyP C base s) (g : Dump → Dump) (h_mem : C .mem := by first | assumption | decide) :
    OnlyP C base (s.modDump g) := by
  unfold State.modDump
  simp +contextual (maxDischargeDepth := 99) only [hk, h_mem, Only_mk, ite_only, or_true, true_or, forall_const, imp_self,
      implies_true]

theorem drainNext_only (hk : OnlyP C base s) {f : Frame} {t : State} (e : s.drainNext = some (f, t))
    (h_spill : C .spill := by first | assumption | decide) : OnlyP C base t := by
  unfold State.drainNext at e
  repeat' split at e
  all_goals first | cases e; done | skip
  · cases e; exact spillReserved_only hk _
  · cases e; exact spillGeneral_only hk _

theorem dumpNext_only (hk : OnlyP C base s) {t : State} (e : s.dumpNext = some t)
    (h_regs : C .regs := by first | assumption | decide) (h_hostMem : C .hostMem := by first | assumption | decide)
    (h_outbox : C .outbox := by first | assumption | decide) (h_hif : C .hif := by first | assumption | decide)
    (h_mem : C .mem := by first | assumption | decide) : OnlyP C base t := by
  unfold State.dumpNext at e
  dsimp only at e
  repeat' split at e
  all_goals first | cases e; done | skip
  · cases e; exact addSat_only (modDump_only hk _) _ _
  · cases e; exact frameWrite_only (memUsed_only (modDump_only hk _) _) _ _

theorem drainSpill_only (hk : OnlyP C base s) {t : State} (e : s.drainSpill = some t)
    (h_regs : C .regs := by first | assumption | decide) (h_hostMem : C .hostMem := by first | assumption | decide)
    (h_outbox : C .outbox := by first | assumption | decide) (h_hif : C .hif := by first | assumption | decide)
    (h_spill : C .spill := by first | assumption | decide)
    (h_mem : C .mem := by first | assumption | decide) : OnlyP C base t := by
  unfold State.drainSpill at e
  split at e
  · cases e
  · cases e; exact frameWrite_only (modDump_only (memUsed_only (drainNext_only hk (by assumption)) _) _) _ _

theorem orElse_only (hk : OnlyP C base s) {x y : Option State} (hx : ∀ t, x = some t → OnlyP C base t) (hy : ∀ t,
    y = some t → OnlyP C base t) :
    OnlyP C base ((x.orElse (fun _ => y)).getD s) := by
  cases x with
  | some t => exact hx t rfl
  | none =>
    cases y with
    | some t => exact hy t rfl
    | none => exact hk

theorem drainOne_only (hk : OnlyP C base s) (h_regs : C .regs := by first | assumption | decide)
    (h_hostMem : C .hostMem := by first | assumption | decide) (h_outbox : C .outbox := by first | assumption | decide)
    (h_hif : C .hif := by first | assumption | decide) (h_spill : C .spill := by first | assumption | decide)
    (h_mem : C .mem := by first | assumption | decide) : OnlyP C base s.drainOne :=
  ite_only hk (ite_only (orElse_only hk (fun _ e => dumpNext_only hk e) (fun _ e => drainSpill_only hk e))
    (orElse_only hk (fun _ e => drainSpill_only hk e) (fun _ e => dumpNext_only hk e)))

theorem logDetach_only (hk : OnlyP C base s) (cause : Nat) (h_hif : C .hif := by first | assumption | decide) :
    OnlyP C base (s.logDetach cause) := by
  unfold State.logDetach
  simp +contextual (maxDischargeDepth := 99) only [hk, h_hif, Only_mk, ite_only, or_true, true_or, forall_const, imp_self,
    implies_true, logMod_only]

theorem ringsTo_only (hk : OnlyP C base s) (kind : RingKind) (p : Nat → Bool) (x : Nat)
    (h_regs : C .regs := by first | assumption | decide) :
    OnlyP C base (s.ringsTo kind p x) := by
  unfold State.ringsTo
  simp +contextual (maxDischargeDepth := 99) only [hk, h_regs, Only_mk, ite_only, or_true, true_or, forall_const, imp_self,
    implies_true, set_only, foldl_only]

theorem reholdCpls_only (hk : OnlyP C base s)
    (h_hif : C .hif := by first | assumption | decide) : OnlyP C base s.reholdCpls := by
  unfold State.reholdCpls
  exact logMod_only (Only_mk (foldl_only hk (fun t x ht => setCplRing_only ht _ _))) _

theorem refile_only (hk : OnlyP C base s) (h_regs : C .regs := by first | assumption | decide)
    (h_outbox : C .outbox := by first | assumption | decide) (h_hif : C .hif := by first | assumption | decide)
    (h_spill : C .spill := by first | assumption | decide) (h_mem : C .mem := by first | assumption | decide) :
    OnlyP C base (s.refile) := by
  unfold State.refile
  simp +contextual (maxDischargeDepth := 99) only [hk, h_regs, h_outbox, h_hif, h_spill, h_mem, Only_mk, ite_only, or_true,
      true_or, forall_const, imp_self, implies_true, spillIn_only, spillBack_only, divertEnd_only, foldl_only]

theorem detached_only (hk : OnlyP C base s) (cause : Nat) (h_regs : C .regs := by first | assumption | decide)
    (h_outbox : C .outbox := by first | assumption | decide) (h_hif : C .hif := by first | assumption | decide)
    (h_spill : C .spill := by first | assumption | decide) (h_mem : C .mem := by first | assumption | decide) :
    OnlyP C base (s.detached cause) := by
  unfold State.detached
  simp +contextual (maxDischargeDepth := 99) only [hk, h_regs, h_outbox, h_hif, h_spill, h_mem, Only_mk, ite_only, or_true,
      true_or, forall_const, imp_self, implies_true, set_only, set2_only, addWrap_only, ev_only, logDetach_only,
      ringsTo_only, reholdCpls_only, refile_only]

theorem linkLost_only (hk : OnlyP C base s) (h_regs : C .regs := by first | assumption | decide) :
    OnlyP C base (s.linkLost) := by
  unfold State.linkLost
  simp +contextual (maxDischargeDepth := 99) only [hk, h_regs, Only_mk, ite_only, or_true, true_or, forall_const, imp_self,
      implies_true, set_only]

theorem hold_only (hk : OnlyP C base s) (h_regs : C .regs := by first | assumption | decide)
    (h_outbox : C .outbox := by first | assumption | decide) (h_hif : C .hif := by first | assumption | decide) :
    OnlyP C base (s.hold) := by
  unfold State.hold
  simp +contextual (maxDischargeDepth := 99) only [hk, h_regs, h_outbox, h_hif, Only_mk, ite_only, or_true, true_or,
      forall_const, imp_self, implies_true, set_only, set2_only, ev_only, logMod_only, ringsTo_only]

end Sys2Proof.Machine
end

