-- ==== Sys2Proof/Laws/OnlyTime.lean ====
section
/-! SUPPORT. Components changed: the time base, the acquisition array, memory, and the signal path. -/

namespace Sys2Proof.Machine

set_option Elab.async false
set_option linter.unusedSimpArgs false
set_option linter.unusedVariables false

variable {base s : State} {C : Comp → Prop}

/-! ### Machine/Timebase.lean -/

theorem setTim_only (hk : OnlyP C base s) (x : TimSt) (h_tim : C .tim := by first | assumption | decide) :
    OnlyP C base (s.setTim x) := by
  unfold State.setTim
  simp +contextual (maxDischargeDepth := 99) only [hk, h_tim, Only_mk, ite_only, or_true, true_or, forall_const, imp_self,
    implies_true]

theorem modF_only (hk : OnlyP C base s) (n : Nat) (g : FeSt → FeSt) (h_fe : C .fe := by first | assumption | decide) :
    OnlyP C base (s.modF n g) := by
  unfold State.modF
  simp +contextual (maxDischargeDepth := 99) only [hk, h_fe, Only_mk, ite_only, or_true, true_or, forall_const, imp_self,
    implies_true]

theorem clockFree_only (hk : OnlyP C base s) (h_regs : C .regs := by first | assumption | decide)
    (h_tim : C .tim := by first | assumption | decide) :
    OnlyP C base (s.clockFree) := by
  unfold State.clockFree
  simp +contextual (maxDischargeDepth := 99) only [hk, h_regs, h_tim, Only_mk, ite_only, or_true, true_or, forall_const,
    imp_self, implies_true, set_only, setTim_only]

theorem clockHold_only (hk : OnlyP C base s) (h_regs : C .regs := by first | assumption | decide)
    (h_tim : C .tim := by first | assumption | decide) :
    OnlyP C base (s.clockHold) := by
  unfold State.clockHold
  simp +contextual (maxDischargeDepth := 99) only [hk, h_regs, h_tim, Only_mk, ite_only, or_true, true_or, forall_const,
    imp_self, implies_true, set_only, setTim_only]

theorem alignAbort_only (hk : OnlyP C base s) (h_regs : C .regs := by first | assumption | decide)
    (h_outbox : C .outbox := by first | assumption | decide) (h_hif : C .hif := by first | assumption | decide) :
    OnlyP C base (s.alignAbort) := by
  unfold State.alignAbort
  simp +contextual (maxDischargeDepth := 99) only [hk, h_regs, h_outbox, h_hif, Only_mk, ite_only, or_true, true_or,
    forall_const, imp_self, implies_true, set_only, ev_only]

theorem refLoss_only (hk : OnlyP C base s) (h_regs : C .regs := by first | assumption | decide)
    (h_outbox : C .outbox := by first | assumption | decide) (h_hif : C .hif := by first | assumption | decide)
    (h_tim : C .tim := by first | assumption | decide) (h_flt : C .flt := by first | assumption | decide) :
    OnlyP C base (s.refLoss) := by
  unfold State.refLoss
  try dsimp only
  repeat' split
  all_goals simp +contextual (maxDischargeDepth := 99) only [hk, h_regs, h_outbox, h_hif, h_tim, h_flt, Only_mk, ite_only,
    or_true, true_or, forall_const, imp_self, implies_true, set_only, ev_only, present_only, clockFree_only, clockHold_only,
    alignAbort_only]

theorem refReturn_only (hk : OnlyP C base s) (h_regs : C .regs := by first | assumption | decide)
    (h_tim : C .tim := by first | assumption | decide) :
    OnlyP C base (s.refReturn) := by
  unfold State.refReturn
  simp +contextual (maxDischargeDepth := 99) only [hk, h_regs, h_tim, Only_mk, ite_only, or_true, true_or, forall_const,
    imp_self, implies_true, set_only, setTim_only]

theorem pllLock_only (hk : OnlyP C base s) (h_regs : C .regs := by first | assumption | decide)
    (h_outbox : C .outbox := by first | assumption | decide) (h_hif : C .hif := by first | assumption | decide)
    (h_tim : C .tim := by first | assumption | decide) :
    OnlyP C base (s.pllLock) := by
  unfold State.pllLock
  simp +contextual (maxDischargeDepth := 99) only [hk, h_regs, h_outbox, h_hif, h_tim, Only_mk, ite_only, or_true, true_or,
    forall_const, imp_self, implies_true, set_only, ev_only, setTim_only]

theorem holdExpire_only (hk : OnlyP C base s) (h_regs : C .regs := by first | assumption | decide)
    (h_outbox : C .outbox := by first | assumption | decide) (h_hif : C .hif := by first | assumption | decide)
    (h_flt : C .flt := by first | assumption | decide) :
    OnlyP C base (s.holdExpire) := by
  unfold State.holdExpire
  try dsimp only
  repeat' split
  all_goals simp +contextual (maxDischargeDepth := 99) only [hk, h_regs, h_outbox, h_hif, h_flt, Only_mk, ite_only, or_true,
    true_or, forall_const, imp_self, implies_true, ev_only, present_only]

theorem alignDone_only (hk : OnlyP C base s) (d : Int) (h_gtOff : C .gtOff := by first | assumption | decide)
    (h_regs : C .regs := by first | assumption | decide) (h_outbox : C .outbox := by first | assumption | decide)
    (h_hif : C .hif := by first | assumption | decide) (h_tim : C .tim := by first | assumption | decide) :
    OnlyP C base (s.alignDone d) := by
  unfold State.alignDone
  simp +contextual (maxDischargeDepth := 99) only [hk, h_gtOff, h_regs, h_outbox, h_hif, h_tim, Only_mk, ite_only, or_true,
    true_or, forall_const, imp_self, implies_true, set_only, ev_only, setTim_only]

theorem ppsEdge_only (hk : OnlyP C base s) (falling : Bool) (h_gtOff : C .gtOff := by first | assumption | decide)
    (h_regs : C .regs := by first | assumption | decide) (h_outbox : C .outbox := by first | assumption | decide)
    (h_hif : C .hif := by first | assumption | decide) (h_tim : C .tim := by first | assumption | decide) :
    OnlyP C base (s.ppsEdge falling) := by
  unfold State.ppsEdge
  simp +contextual (maxDischargeDepth := 99) only [hk, h_gtOff, h_regs, h_outbox, h_hif, h_tim, Only_mk, ite_only, or_true,
      true_or, forall_const, imp_self, implies_true, set_only, setI_only, ev_only, setTim_only, alignDone_only]

theorem syncEdge_only (hk : OnlyP C base s) (falling : Bool) (h_gtOff : C .gtOff := by first | assumption | decide)
    (h_regs : C .regs := by first | assumption | decide) (h_outbox : C .outbox := by first | assumption | decide)
    (h_hif : C .hif := by first | assumption | decide) (h_tim : C .tim := by first | assumption | decide) :
    OnlyP C base (s.syncEdge falling) := by
  unfold State.syncEdge
  simp +contextual (maxDischargeDepth := 99) only [hk, h_gtOff, h_regs, h_outbox, h_hif, h_tim, Only_mk, ite_only, or_true,
      true_or, forall_const, imp_self, implies_true, set_only, setI_only, ev_only, setTim_only, alignDone_only]

theorem ppsLost_only (hk : OnlyP C base s) (h_regs : C .regs := by first | assumption | decide)
    (h_outbox : C .outbox := by first | assumption | decide) (h_hif : C .hif := by first | assumption | decide)
    (h_tim : C .tim := by first | assumption | decide) (h_flt : C .flt := by first | assumption | decide) :
    OnlyP C base (s.ppsLost) := by
  unfold State.ppsLost
  simp +contextual (maxDischargeDepth := 99) only [hk, h_regs, h_outbox, h_hif, h_tim, h_flt, Only_mk, ite_only, or_true,
      true_or, forall_const, imp_self, implies_true, set_only, ev_only, present_only, setTim_only]

theorem syncGone_only (hk : OnlyP C base s) (h_regs : C .regs := by first | assumption | decide)
    (h_tim : C .tim := by first | assumption | decide) :
    OnlyP C base (s.syncGone) := by
  unfold State.syncGone
  simp +contextual (maxDischargeDepth := 99) only [hk, h_regs, h_tim, Only_mk, ite_only, or_true, true_or, forall_const,
      imp_self, implies_true, set_only, setTim_only]

theorem syncOff_only (hk : OnlyP C base s) (h_regs : C .regs := by first | assumption | decide)
    (h_tim : C .tim := by first | assumption | decide) :
    OnlyP C base (s.syncOff) := by
  unfold State.syncOff
  simp +contextual (maxDischargeDepth := 99) only [hk, h_regs, h_tim, Only_mk, ite_only, or_true, true_or, forall_const,
      imp_self, implies_true, setTim_only, syncGone_only]

theorem syncLost_only (hk : OnlyP C base s) (h_regs : C .regs := by first | assumption | decide)
    (h_outbox : C .outbox := by first | assumption | decide) (h_hif : C .hif := by first | assumption | decide)
    (h_tim : C .tim := by first | assumption | decide) (h_flt : C .flt := by first | assumption | decide) :
    OnlyP C base (s.syncLost) := by
  unfold State.syncLost
  simp +contextual (maxDischargeDepth := 99) only [hk, h_regs, h_outbox, h_hif, h_tim, h_flt, Only_mk, ite_only, or_true,
      true_or, forall_const, imp_self, implies_true, ev_only, present_only, syncGone_only]

theorem syncOut_only (hk : OnlyP C base s) (h_tim : C .tim := by first | assumption | decide) :
    OnlyP C base (s.syncOut) := by
  unfold State.syncOut
  simp +contextual (maxDischargeDepth := 99) only [hk, h_tim, Only_mk, ite_only, or_true, true_or, forall_const, imp_self,
    implies_true, setTim_only]

theorem launchOut_only (hk : OnlyP C base s) (h_tim : C .tim := by first | assumption | decide) :
    OnlyP C base (s.launchOut) := by
  unfold State.launchOut
  simp +contextual (maxDischargeDepth := 99) only [hk, h_tim, Only_mk, ite_only, or_true, true_or, forall_const, imp_self,
    implies_true, setTim_only]

theorem alignSet_only (hk : OnlyP C base s) (h_regs : C .regs := by first | assumption | decide)
    (h_outbox : C .outbox := by first | assumption | decide) (h_hif : C .hif := by first | assumption | decide) :
    OnlyP C base (s.alignSet) := by
  unfold State.alignSet
  simp +contextual (maxDischargeDepth := 99) only [hk, h_regs, h_outbox, h_hif, Only_mk, ite_only, or_true, true_or,
    forall_const, imp_self, implies_true, set_only, ev_only]

theorem setEpoch_only (hk : OnlyP C base s) (hi : Word) (h_regs : C .regs := by first | assumption | decide)
    (h_tim : C .tim := by first | assumption | decide) (h_fe : C .fe := by first | assumption | decide) :
    OnlyP C base (s.setEpoch hi) := by
  unfold State.setEpoch
  simp +contextual (maxDischargeDepth := 99) only [hk, h_regs, h_tim, h_fe, Only_mk, ite_only, or_true, true_or,
    forall_const, imp_self, implies_true, set_only, setTim_only]

/-! ### Machine/Acq.lean -/

theorem overrange_only (hk : OnlyP C base s) (ch t : Nat) (h_regs : C .regs := by first | assumption | decide)
    (h_outbox : C .outbox := by first | assumption | decide) (h_hif : C .hif := by first | assumption | decide)
    (h_acq : C .acq := by first | assumption | decide) (h_flt : C .flt := by first | assumption | decide) :
    OnlyP C base (s.overrange ch t) := by
  unfold State.overrange
  simp +contextual (maxDischargeDepth := 99) only [hk, h_regs, h_outbox, h_hif, h_acq, h_flt, Only_mk, ite_only, or_true,
      true_or, forall_const, imp_self, implies_true, addSat_only, set1_only, ev_only, present_only]

theorem setAcq_only (hk : OnlyP C base s) (x : AcqSt) (h_acq : C .acq := by first | assumption | decide) :
    OnlyP C base (s.setAcq x) := by
  unfold State.setAcq
  simp +contextual (maxDischargeDepth := 99) only [hk, h_acq, Only_mk, ite_only, or_true, true_or, forall_const, imp_self,
    implies_true]

theorem calShow_only (hk : OnlyP C base s) (h_regs : C .regs := by first | assumption | decide) :
    OnlyP C base (s.calShow) := by
  unfold State.calShow
  try dsimp only
  repeat' split
  all_goals simp +contextual (maxDischargeDepth := 99) only [hk, h_regs, Only_mk, ite_only, or_true, true_or, forall_const,
    imp_self, implies_true, set_only]

theorem calStart_only (hk : OnlyP C base s) (c : Cmd) (mask : Nat) (nv saveOnly : Bool)
    (h_regs : C .regs := by first | assumption | decide) (h_hostMem : C .hostMem := by first | assumption | decide)
    (h_outbox : C .outbox := by first | assumption | decide) (h_hif : C .hif := by first | assumption | decide)
    (h_acq : C .acq := by first | assumption | decide) :
    OnlyP C base (s.calStart c mask nv saveOnly) := by
  unfold State.calStart
  simp +contextual (maxDischargeDepth := 99) only [hk, h_regs, h_hostMem, h_outbox, h_hif, h_acq, Only_mk, ite_only, or_true,
      true_or, forall_const, imp_self, implies_true, setReg_only, set_only, complete_only, setAcq_only, calShow_only,
      foldl_only]

theorem calPhaseEnd_only (hk : OnlyP C base s) (coherent : Bool) (h_regs : C .regs := by first | assumption | decide)
    (h_acq : C .acq := by first | assumption | decide) :
    OnlyP C base (s.calPhaseEnd coherent) := by
  unfold State.calPhaseEnd
  try dsimp only
  repeat' split
  all_goals simp +contextual (maxDischargeDepth := 99) only [hk, h_regs, h_acq, Only_mk, ite_only, or_true, true_or,
    forall_const, imp_self, implies_true, setAcq_only, calShow_only]

theorem calEnd_only (hk : OnlyP C base s) (c : AcqCal) (code : Nat) (h_regs : C .regs := by first | assumption | decide)
    (h_hostMem : C .hostMem := by first | assumption | decide) (h_outbox : C .outbox := by first | assumption | decide)
    (h_hif : C .hif := by first | assumption | decide) (h_acq : C .acq := by first | assumption | decide) :
    OnlyP C base (s.calEnd c code) := by
  unfold State.calEnd
  simp +contextual (maxDischargeDepth := 99) only [hk, h_regs, h_hostMem, h_outbox, h_hif, h_acq, Only_mk, ite_only, or_true,
    true_or, forall_const, imp_self, implies_true, set_only, complete_only, setAcq_only, calShow_only]

theorem calAbandon_only (hk : OnlyP C base s) (mask : Nat) (h_regs : C .regs := by first | assumption | decide)
    (h_hostMem : C .hostMem := by first | assumption | decide) (h_outbox : C .outbox := by first | assumption | decide)
    (h_hif : C .hif := by first | assumption | decide) (h_acq : C .acq := by first | assumption | decide) :
    OnlyP C base (s.calAbandon mask) := by
  unfold State.calAbandon
  try dsimp only
  repeat' split
  all_goals simp +contextual (maxDischargeDepth := 99) only [hk, h_regs, h_hostMem, h_outbox, h_hif, h_acq, Only_mk,
    ite_only, or_true, true_or, forall_const, imp_self, implies_true, set_only, ev_only, setAcq_only, calEnd_only, foldl_only]

theorem calFatal_only (hk : OnlyP C base s) (h_regs : C .regs := by first | assumption | decide)
    (h_hostMem : C .hostMem := by first | assumption | decide) (h_outbox : C .outbox := by first | assumption | decide)
    (h_hif : C .hif := by first | assumption | decide) (h_acq : C .acq := by first | assumption | decide) :
    OnlyP C base (s.calFatal) := by
  unfold State.calFatal
  try dsimp only
  repeat' split
  all_goals simp +contextual (maxDischargeDepth := 99) only [hk, h_regs, h_hostMem, h_outbox, h_hif, h_acq, Only_mk,
      ite_only, or_true, true_or, forall_const, imp_self, implies_true, calEnd_only, calAbandon_only]

theorem calWrite_only (hk : OnlyP C base s) (ch : Nat) (m : ChanMeas) (h_regs : C .regs := by first | assumption | decide)
    (h_acq : C .acq := by first | assumption | decide) : OnlyP C base (s.calWrite ch m) := by
  unfold State.calWrite
  refine setAcq_only (setReg_only (foldl_only hk (fun t i ht => ?_)) _ _) _
  split
  · exact setReg_only ht _ _
  · exact ht

theorem calDone_only (hk : OnlyP C base s) (r : AcqMeas) (h_regs : C .regs := by first | assumption | decide)
    (h_hostMem : C .hostMem := by first | assumption | decide) (h_outbox : C .outbox := by first | assumption | decide)
    (h_hif : C .hif := by first | assumption | decide) (h_acq : C .acq := by first | assumption | decide)
    (h_nvs : C .nvs := by first | assumption | decide) :
    OnlyP C base (s.calDone r) := by
  unfold State.calDone
  split
  · exact hk
  · split
    · exact hk
    · extract_lets live meas ok bad s1 s2 s3 s4 partly copy s5 code s6
      have h1 : OnlyP C base s1 := foldl_only hk (fun t ch ht => by
        split
        · exact calWrite_only ht _ _
        · exact ht)
      have h2 : OnlyP C base s2 :=
        foldl_only h1 (fun t p ht => ite_only (set_only (setI_only (setI_only ht _ _) _ _) _ _) ht)
      have h3 : OnlyP C base s3 := foldl_only h2 (fun t ch ht => set_only (set_only ht _ _) _ _)
      have h4 : OnlyP C base s4 := ite_only h3 (ev_only (set_only h3 _ _) _)
      have h5 : OnlyP C base s5 := ite_only (nvPut_only h4 _ _) h4
      exact calEnd_only (ite_only (ev_only h5 _) (ite_only (ev_only h5 _) h5)) _ _

theorem bgQueue_only (hk : OnlyP C base s) (n : Nat) (l : List CalUpd) (h_fe : C .fe := by first | assumption | decide) :
    OnlyP C base (s.bgQueue n l) := by
  unfold State.bgQueue
  simp +contextual (maxDischargeDepth := 99) only [hk, h_fe, Only_mk, ite_only, or_true, true_or, forall_const, imp_self,
    implies_true, modF_only]

theorem bgApply_only (hk : OnlyP C base s) (u : CalUpd) (h_regs : C .regs := by first | assumption | decide)
    (h_outbox : C .outbox := by first | assumption | decide) (h_hif : C .hif := by first | assumption | decide)
    (h_acq : C .acq := by first | assumption | decide) (h_flt : C .flt := by first | assumption | decide) :
    OnlyP C base (s.bgApply u) := by
  unfold State.bgApply
  simp +contextual (maxDischargeDepth := 99) only [hk, h_regs, h_outbox, h_hif, h_acq, h_flt, Only_mk, ite_only, or_true,
      true_or, forall_const, imp_self, implies_true, setI_only, set1_only, ev_only, present_only, setAcq_only]

theorem setBlk_only (hk : OnlyP C base s) (ch : Nat) (b : BgBlk) (h_acq : C .acq := by first | assumption | decide) :
    OnlyP C base (s.setBlk ch b) := by
  unfold State.setBlk
  simp +contextual (maxDischargeDepth := 99) only [hk, h_acq, Only_mk, ite_only, or_true, true_or, forall_const, imp_self,
      implies_true, setAcq_only]

theorem bgFrameStart_only (hk : OnlyP C base s) (n : Nat) (h_regs : C .regs := by first | assumption | decide)
    (h_outbox : C .outbox := by first | assumption | decide) (h_hif : C .hif := by first | assumption | decide)
    (h_fe : C .fe := by first | assumption | decide) (h_acq : C .acq := by first | assumption | decide)
    (h_flt : C .flt := by first | assumption | decide) :
    OnlyP C base (s.bgFrameStart n) := by
  unfold State.bgFrameStart
  simp +contextual (maxDischargeDepth := 99) only [hk, h_regs, h_outbox, h_hif, h_fe, h_acq, h_flt, Only_mk, ite_only,
      or_true, true_or, forall_const, imp_self, implies_true, modF_only, bgApply_only, setBlk_only, foldl_only]

theorem bgSync_only (hk : OnlyP C base s) (c : Nat) (h_regs : C .regs := by first | assumption | decide)
    (h_acq : C .acq := by first | assumption | decide) :
    OnlyP C base (s.bgSync c) := by
  unfold State.bgSync
  try dsimp only
  repeat' split
  all_goals simp +contextual (maxDischargeDepth := 99) only [hk, h_regs, h_acq, Only_mk, ite_only, or_true, true_or,
      forall_const, imp_self, implies_true, setBlk_only]

theorem bgSyncInt_only (hk : OnlyP C base s) (i : Nat) (h_acq : C .acq := by first | assumption | decide) :
    OnlyP C base (s.bgSyncInt i) := by
  unfold State.bgSyncInt
  simp +contextual (maxDischargeDepth := 99) only [hk, h_acq, Only_mk, ite_only, or_true, true_or, forall_const, imp_self,
      implies_true, setBlk_only]

theorem bgSyncFe_only (hk : OnlyP C base s) (n : Nat) (h_regs : C .regs := by first | assumption | decide)
    (h_acq : C .acq := by first | assumption | decide) :
    OnlyP C base (s.bgSyncFe n) := by
  unfold State.bgSyncFe
  simp +contextual (maxDischargeDepth := 99) only [hk, h_regs, h_acq, Only_mk, ite_only, or_true, true_or, forall_const,
      imp_self, implies_true, bgSync_only, bgSyncInt_only, foldl_only]

theorem bgSyncAll_only (hk : OnlyP C base s) (h_acq : C .acq := by first | assumption | decide)
    (h_regs : C .regs := by first | assumption | decide) :
    OnlyP C base (s.bgSyncAll) := by
  unfold State.bgSyncAll
  simp +contextual (maxDischargeDepth := 99) only [hk, h_regs, h_acq, Only_mk, ite_only, or_true, true_or, forall_const,
      imp_self,
      implies_true, bgSyncFe_only, foldl_only]

theorem bgRestart_only (hk : OnlyP C base s) (ch at_ : Nat) (h_acq : C .acq := by first | assumption | decide) :
    OnlyP C base (s.bgRestart ch at_) := by
  unfold State.bgRestart
  simp +contextual (maxDischargeDepth := 99) only [hk, h_acq, Only_mk, ite_only, or_true, true_or, forall_const, imp_self,
      implies_true, setBlk_only]

theorem darkSpan_only (hk : OnlyP C base s) (n : Nat) (h_acq : C .acq := by first | assumption | decide) :
    OnlyP C base (s.darkSpan n) := by
  unfold State.darkSpan
  simp +contextual (maxDischargeDepth := 99) only [hk, h_acq, Only_mk, ite_only, or_true, true_or, forall_const, imp_self,
      implies_true, setBlk_only, foldl_only]

theorem blkSeen_only (hk : OnlyP C base s) (ch a b : Nat) (h_acq : C .acq := by first | assumption | decide) :
    OnlyP C base (s.blkSeen ch a b) := by
  unfold State.blkSeen
  simp +contextual (maxDischargeDepth := 99) only [hk, h_acq, Only_mk, ite_only, or_true, true_or, forall_const, imp_self,
      implies_true, setBlk_only]

theorem bgDiscard_only (hk : OnlyP C base s) (h_fe : C .fe := by first | assumption | decide)
    (h_acq : C .acq := by first | assumption | decide) :
    OnlyP C base (s.bgDiscard) := by
  unfold State.bgDiscard
  simp +contextual (maxDischargeDepth := 99) only [hk, h_fe, h_acq, Only_mk, ite_only, or_true, true_or, forall_const,
      imp_self, implies_true, modF_only, setAcq_only, foldl_only]

theorem bgNext_only (hk : OnlyP C base s) (ch : Nat) (l : List BgSample) (last : Nat)
    (h_regs : C .regs := by first | assumption | decide) (h_outbox : C .outbox := by first | assumption | decide)
    (h_hif : C .hif := by first | assumption | decide) (h_acq : C .acq := by first | assumption | decide)
    (h_flt : C .flt := by first | assumption | decide) :
    OnlyP C base (s.bgNext ch l last) := by
  unfold State.bgNext
  simp +contextual (maxDischargeDepth := 99) only [hk, h_regs, h_outbox, h_hif, h_acq, h_flt, Only_mk, ite_only, or_true,
      true_or, forall_const, imp_self, implies_true, overrange_only, setAcq_only, setBlk_only, foldl_only]

theorem bgBlock_only (hk : OnlyP C base s) (c : Nat) (raw : List Int) (h_regs : C .regs := by first | assumption | decide)
    (h_outbox : C .outbox := by first | assumption | decide) (h_freeIdx : C .freeIdx := by first | assumption | decide)
    (h_hif : C .hif := by first | assumption | decide) (h_fe : C .fe := by first | assumption | decide)
    (h_acq : C .acq := by first | assumption | decide) (h_flt : C .flt := by first | assumption | decide) :
    OnlyP C base (s.bgBlock c raw) := by
  unfold State.bgBlock
  simp +contextual (maxDischargeDepth := 99) only [hk, h_regs, h_outbox, h_freeIdx, h_hif, h_fe, h_acq, h_flt, Only_mk,
      ite_only, or_true, true_or, forall_const, imp_self, implies_true, nextFree_only, bgQueue_only, bgNext_only]

theorem darkBlock_only (hk : OnlyP C base s) (i : Nat) (raw : List Int) (h_regs : C .regs := by first | assumption | decide)
    (h_outbox : C .outbox := by first | assumption | decide) (h_freeIdx : C .freeIdx := by first | assumption | decide)
    (h_hif : C .hif := by first | assumption | decide) (h_fe : C .fe := by first | assumption | decide)
    (h_acq : C .acq := by first | assumption | decide) (h_flt : C .flt := by first | assumption | decide) :
    OnlyP C base (s.darkBlock i raw) := by
  unfold State.darkBlock
  simp +contextual (maxDischargeDepth := 99) only [hk, h_regs, h_outbox, h_freeIdx, h_hif, h_fe, h_acq, h_flt, Only_mk,
      ite_only, or_true, true_or, forall_const, imp_self, implies_true, nextFree_only, bgQueue_only, bgNext_only, foldl_only]

theorem blindAdd_only (hk : OnlyP C base s) (p : Nat) (l : List (Int × Int))
    (h_acq : C .acq := by first | assumption | decide) :
    OnlyP C base (s.blindAdd p l) := by
  unfold State.blindAdd
  simp +contextual (maxDischargeDepth := 99) only [hk, h_acq, Only_mk, ite_only, or_true, true_or, forall_const, imp_self,
      implies_true, setAcq_only, foldl_only]

theorem blindBlock_only (hk : OnlyP C base s) (p : Nat) (h_regs : C .regs := by first | assumption | decide)
    (h_outbox : C .outbox := by first | assumption | decide) (h_freeIdx : C .freeIdx := by first | assumption | decide)
    (h_hif : C .hif := by first | assumption | decide) (h_fe : C .fe := by first | assumption | decide)
    (h_acq : C .acq := by first | assumption | decide) :
    OnlyP C base (s.blindBlock p) := by
  unfold State.blindBlock
  try dsimp only
  repeat' split
  all_goals simp +contextual (maxDischargeDepth := 99) only [hk, h_regs, h_outbox, h_freeIdx, h_hif, h_fe, h_acq, Only_mk,
      ite_only, or_true, true_or, forall_const, imp_self, implies_true, set_only, nextFree_only, ev_only, setAcq_only,
      bgQueue_only]

theorem chanFail_only (hk : OnlyP C base s) (ch since : Nat) (h_regs : C .regs := by first | assumption | decide)
    (h_outbox : C .outbox := by first | assumption | decide) (h_hif : C .hif := by first | assumption | decide)
    (h_fe : C .fe := by first | assumption | decide) (h_flt : C .flt := by first | assumption | decide) :
    OnlyP C base (s.chanFail ch since) := by
  unfold State.chanFail
  simp +contextual (maxDischargeDepth := 99) only [hk, h_regs, h_outbox, h_hif, h_fe, h_flt, Only_mk, ite_only, or_true,
    true_or, forall_const, imp_self, implies_true, ev_only, present_only, modF_only]

/-! ### Machine/Mem.lean -/

theorem setMem_only (hk : OnlyP C base s) (x : MemSt) (h_mem : C .mem := by first | assumption | decide) :
    OnlyP C base (s.setMem x) := by
  unfold State.setMem
  simp +contextual (maxDischargeDepth := 99) only [hk, h_mem, Only_mk, ite_only, or_true, true_or, forall_const, imp_self,
    implies_true]

theorem setShare_only (hk : OnlyP C base s) (h_mem : C .mem := by first | assumption | decide) :
    OnlyP C base (s.setShare) := by
  unfold State.setShare
  simp +contextual (maxDischargeDepth := 99) only [hk, h_mem, Only_mk, ite_only, or_true, true_or, forall_const, imp_self,
      implies_true, setMem_only]

theorem writeBack_only (hk : OnlyP C base s) (bank line : Nat) (h_mem : C .mem := by first | assumption | decide) :
    OnlyP C base (s.writeBack bank line) := by
  unfold State.writeBack
  simp +contextual (maxDischargeDepth := 99) only [hk, h_mem, Only_mk, ite_only, or_true, true_or, forall_const, imp_self,
    implies_true, setMem_only, foldl_only]

theorem memErr_only (hk : OnlyP C base s) (owner : Option Nat) (e : MemErr)
    (h_regs : C .regs := by first | assumption | decide) (h_outbox : C .outbox := by first | assumption | decide)
    (h_hif : C .hif := by first | assumption | decide) (h_flt : C .flt := by first | assumption | decide)
    (h_mem : C .mem := by first | assumption | decide) :
    OnlyP C base (s.memErr owner e) := by
  unfold State.memErr
  try dsimp only
  repeat' split
  all_goals simp +contextual (maxDischargeDepth := 99) only [hk, h_regs, h_outbox, h_hif, h_flt, h_mem, Only_mk, ite_only,
      or_true, true_or, forall_const, imp_self, implies_true, addSat_only, ev_only, present_only, setMem_only, writeBack_only]

theorem memWork_only (hk : OnlyP C base s) (n : Nat) (h_mem : C .mem := by first | assumption | decide) :
    OnlyP C base (s.memWork n) := by
  unfold State.memWork
  simp +contextual (maxDischargeDepth := 99) only [hk, h_mem, Only_mk, ite_only, or_true, true_or, forall_const, imp_self,
      implies_true, memUsed_only, foldl_only]

theorem refab_only (hk : OnlyP C base s) (c n : Nat) (h_regs : C .regs := by first | assumption | decide) :
    OnlyP C base (s.refab c n) := by
  unfold State.refab
  simp +contextual (maxDischargeDepth := 99) only [hk, h_regs, Only_mk, ite_only, or_true, true_or, forall_const, imp_self,
    implies_true, addWrap_only]

theorem tickRestart_only (hk : OnlyP C base s) (c : Nat) (h_mem : C .mem := by first | assumption | decide) :
    OnlyP C base (s.tickRestart c) := by
  unfold State.tickRestart
  simp +contextual (maxDischargeDepth := 99) only [hk, h_mem, Only_mk, ite_only, or_true, true_or, forall_const, imp_self,
    implies_true, setMem_only]

theorem refreshTick_only (hk : OnlyP C base s) (c : Nat) (h_regs : C .regs := by first | assumption | decide)
    (h_outbox : C .outbox := by first | assumption | decide) (h_hif : C .hif := by first | assumption | decide)
    (h_flt : C .flt := by first | assumption | decide) (h_mem : C .mem := by first | assumption | decide) :
    OnlyP C base (s.refreshTick c) := by
  unfold State.refreshTick
  simp +contextual (maxDischargeDepth := 99) only [hk, h_regs, h_outbox, h_hif, h_flt, h_mem, Only_mk, ite_only, or_true,
    true_or, forall_const, imp_self, implies_true, setI_only, ev_only, present_only, refab_only, tickRestart_only]

theorem takeDelays_only (hk : OnlyP C base s) (c : Nat) (h_regs : C .regs := by first | assumption | decide)
    (h_outbox : C .outbox := by first | assumption | decide) (h_hif : C .hif := by first | assumption | decide)
    (h_mem : C .mem := by first | assumption | decide) :
    OnlyP C base (s.takeDelays c) := by
  unfold State.takeDelays
  simp +contextual (maxDischargeDepth := 99) only [hk, h_regs, h_outbox, h_hif, h_mem, Only_mk, ite_only, or_true, true_or,
    forall_const, imp_self, implies_true, ev_only, setMem_only, foldl_only]

theorem refreshWindow_only (hk : OnlyP C base s) (c : Nat) (h_regs : C .regs := by first | assumption | decide)
    (h_outbox : C .outbox := by first | assumption | decide) (h_hif : C .hif := by first | assumption | decide)
    (h_mem : C .mem := by first | assumption | decide) :
    OnlyP C base (s.refreshWindow c) := by
  unfold State.refreshWindow
  simp +contextual (maxDischargeDepth := 99) only [hk, h_regs, h_outbox, h_hif, h_mem, Only_mk, ite_only, or_true, true_or,
    forall_const, imp_self, implies_true, setI_only, refab_only, takeDelays_only]

theorem setDoubled_only (hk : OnlyP C base s) (c : Nat) (b : Bool) (h_regs : C .regs := by first | assumption | decide) :
    OnlyP C base (s.setDoubled c b) := by
  unfold State.setDoubled
  simp +contextual (maxDischargeDepth := 99) only [hk, h_regs, Only_mk, ite_only, or_true, true_or, forall_const, imp_self,
    implies_true, setB_only]

theorem rateDouble_only (hk : OnlyP C base s) (c : Nat) (h_regs : C .regs := by first | assumption | decide)
    (h_outbox : C .outbox := by first | assumption | decide) (h_hif : C .hif := by first | assumption | decide)
    (h_mem : C .mem := by first | assumption | decide) :
    OnlyP C base (s.rateDouble c) := by
  unfold State.rateDouble
  simp +contextual (maxDischargeDepth := 99) only [hk, h_regs, h_outbox, h_hif, h_mem, Only_mk, ite_only, or_true, true_or,
    forall_const, imp_self, implies_true, setI_only, ev_only, refab_only, tickRestart_only, setDoubled_only]

theorem rateBase_only (hk : OnlyP C base s) (c : Nat) (h_regs : C .regs := by first | assumption | decide)
    (h_outbox : C .outbox := by first | assumption | decide) (h_hif : C .hif := by first | assumption | decide)
    (h_mem : C .mem := by first | assumption | decide) :
    OnlyP C base (s.rateBase c) := by
  unfold State.rateBase
  simp +contextual (maxDischargeDepth := 99) only [hk, h_regs, h_outbox, h_hif, h_mem, Only_mk, ite_only, or_true, true_or,
    forall_const, imp_self, implies_true, setI_only, ev_only, tickRestart_only, setDoubled_only]

theorem rateEval_only (hk : OnlyP C base s) (c : Nat) (h_regs : C .regs := by first | assumption | decide)
    (h_outbox : C .outbox := by first | assumption | decide) (h_hif : C .hif := by first | assumption | decide)
    (h_mem : C .mem := by first | assumption | decide) :
    OnlyP C base (s.rateEval c) := by
  unfold State.rateEval
  simp +contextual (maxDischargeDepth := 99) only [hk, h_regs, h_outbox, h_hif, h_mem, Only_mk, ite_only, or_true, true_or,
    forall_const, imp_self, implies_true, rateDouble_only, rateBase_only]

theorem mr4Poll_only (hk : OnlyP C base s) (c field : Nat) (h_regs : C .regs := by first | assumption | decide)
    (h_outbox : C .outbox := by first | assumption | decide) (h_hif : C .hif := by first | assumption | decide)
    (h_mem : C .mem := by first | assumption | decide) :
    OnlyP C base (s.mr4Poll c field) := by
  unfold State.mr4Poll
  simp +contextual (maxDischargeDepth := 99) only [hk, h_regs, h_outbox, h_hif, h_mem, Only_mk, ite_only, or_true, true_or,
    forall_const, imp_self, implies_true, set_only, ev_only, rateEval_only]

theorem bandEval_only (hk : OnlyP C base s) (h_regs : C .regs := by first | assumption | decide)
    (h_mem : C .mem := by first | assumption | decide) :
    OnlyP C base (s.bandEval) := by
  unfold State.bandEval
  simp +contextual (maxDischargeDepth := 99) only [hk, h_regs, h_mem, Only_mk, ite_only, or_true, true_or, forall_const,
    imp_self, implies_true, set_only, setMem_only]

theorem srIn_only (hk : OnlyP C base s) (c : Nat) (h_regs : C .regs := by first | assumption | decide)
    (h_outbox : C .outbox := by first | assumption | decide) (h_hif : C .hif := by first | assumption | decide) :
    OnlyP C base (s.srIn c) := by
  unfold State.srIn
  simp +contextual (maxDischargeDepth := 99) only [hk, h_regs, h_outbox, h_hif, Only_mk, ite_only, or_true, true_or,
    forall_const, imp_self, implies_true, set_only, setI_only, addWrap_only, ev_only, refab_only]

theorem srOut_only (hk : OnlyP C base s) (c : Nat) (h_regs : C .regs := by first | assumption | decide)
    (h_outbox : C .outbox := by first | assumption | decide) (h_hif : C .hif := by first | assumption | decide)
    (h_mem : C .mem := by first | assumption | decide) :
    OnlyP C base (s.srOut c) := by
  unfold State.srOut
  simp +contextual (maxDischargeDepth := 99) only [hk, h_regs, h_outbox, h_hif, h_mem, Only_mk, ite_only, or_true, true_or,
      forall_const, imp_self, implies_true, set_only, setI_only, setMem_only, tickRestart_only, takeDelays_only]

theorem srEnter_only (hk : OnlyP C base s) (c : Nat) (h_regs : C .regs := by first | assumption | decide)
    (h_outbox : C .outbox := by first | assumption | decide) (h_hif : C .hif := by first | assumption | decide) :
    OnlyP C base (s.srEnter c) := by
  unfold State.srEnter
  simp +contextual (maxDischargeDepth := 99) only [hk, h_regs, h_outbox, h_hif, Only_mk, ite_only, or_true, true_or,
      forall_const, imp_self, implies_true, srIn_only]

theorem srExit_only (hk : OnlyP C base s) (c : Nat) (beforeSre : Bool) (issued : Nat)
    (h_regs : C .regs := by first | assumption | decide) (h_outbox : C .outbox := by first | assumption | decide)
    (h_hif : C .hif := by first | assumption | decide) (h_mem : C .mem := by first | assumption | decide) :
    OnlyP C base (s.srExit c beforeSre issued) := by
  unfold State.srExit
  simp +contextual (maxDischargeDepth := 99) only [hk, h_regs, h_outbox, h_hif, h_mem, Only_mk, ite_only, or_true, true_or,
      forall_const, imp_self, implies_true, setI_only, ev_only, memUsed_only, refab_only, srOut_only]

theorem srAll_only (hk : OnlyP C base s) (h_regs : C .regs := by first | assumption | decide)
    (h_outbox : C .outbox := by first | assumption | decide) (h_hif : C .hif := by first | assumption | decide) :
    OnlyP C base (s.srAll) := by
  unfold State.srAll
  simp +contextual (maxDischargeDepth := 99) only [hk, h_regs, h_outbox, h_hif, Only_mk, ite_only, or_true, true_or,
    forall_const, imp_self, implies_true, srIn_only, foldl_only]

theorem srNone_only (hk : OnlyP C base s) (h_regs : C .regs := by first | assumption | decide)
    (h_outbox : C .outbox := by first | assumption | decide) (h_hif : C .hif := by first | assumption | decide)
    (h_mem : C .mem := by first | assumption | decide) :
    OnlyP C base (s.srNone) := by
  unfold State.srNone
  simp +contextual (maxDischargeDepth := 99) only [hk, h_regs, h_outbox, h_hif, h_mem, Only_mk, ite_only, or_true, true_or,
    forall_const, imp_self, implies_true, srOut_only, foldl_only]

theorem bermInit_only (hk : OnlyP C base s) (h_regs : C .regs := by first | assumption | decide) :
    OnlyP C base (s.bermInit) := by
  unfold State.bermInit
  simp +contextual (maxDischargeDepth := 99) only [hk, h_regs, Only_mk, ite_only, or_true, true_or, forall_const, imp_self,
    implies_true, set_only]

theorem memInitStart_only (hk : OnlyP C base s) (h_regs : C .regs := by first | assumption | decide)
    (h_outbox : C .outbox := by first | assumption | decide) (h_hif : C .hif := by first | assumption | decide)
    (h_mem : C .mem := by first | assumption | decide) :
    OnlyP C base (s.memInitStart) := by
  unfold State.memInitStart
  simp +contextual (maxDischargeDepth := 99) only [hk, h_regs, h_outbox, h_hif, h_mem, Only_mk, ite_only, or_true, true_or,
    forall_const, imp_self, implies_true, ev_only, setMem_only]

theorem memInitEnd_only (hk : OnlyP C base s) (h_regs : C .regs := by first | assumption | decide)
    (h_outbox : C .outbox := by first | assumption | decide) (h_hif : C .hif := by first | assumption | decide)
    (h_mem : C .mem := by first | assumption | decide) :
    OnlyP C base (s.memInitEnd) := by
  unfold State.memInitEnd
  simp +contextual (maxDischargeDepth := 99) only [hk, h_regs, h_outbox, h_hif, h_mem, Only_mk, ite_only, or_true, true_or,
    forall_const, imp_self, implies_true, set_only, ev_only, setMem_only, tickRestart_only, takeDelays_only, foldl_only]

theorem eyeRound_only (hk : OnlyP C base s) (c : Nat) (pass : Bool) (h_regs : C .regs := by first | assumption | decide)
    (h_outbox : C .outbox := by first | assumption | decide) (h_hif : C .hif := by first | assumption | decide)
    (h_flt : C .flt := by first | assumption | decide) :
    OnlyP C base (s.eyeRound c pass) := by
  unfold State.eyeRound
  simp +contextual (maxDischargeDepth := 99) only [hk, h_regs, h_outbox, h_hif, h_flt, Only_mk, ite_only, or_true, true_or,
    forall_const, imp_self, implies_true, ev_only, present_only]

theorem testEnd_only (hk : OnlyP C base s) (fail : Nat) (h_regs : C .regs := by first | assumption | decide)
    (h_mem : C .mem := by first | assumption | decide) :
    OnlyP C base (s.testEnd fail) := by
  unfold State.testEnd
  simp +contextual (maxDischargeDepth := 99) only [hk, h_regs, h_mem, Only_mk, ite_only, or_true, true_or, forall_const,
      imp_self, implies_true, setReg_only, set_only, memUsed_only]

theorem histLost_only (hk : OnlyP C base s) (f : Frame) (h_regs : C .regs := by first | assumption | decide)
    (h_mem : C .mem := by first | assumption | decide) :
    OnlyP C base (s.histLost f) := by
  unfold State.histLost
  try dsimp only
  repeat' split
  all_goals simp +contextual (maxDischargeDepth := 99) only [hk, h_regs, h_mem, Only_mk, ite_only, or_true, true_or,
      forall_const, imp_self, implies_true, addSat_only]

theorem histFit_only (hk : OnlyP C base s) (cap need : Nat) (l : List Frame)
    (h_regs : C .regs := by first | assumption | decide) (h_mem : C .mem := by first | assumption | decide) :
    OnlyP C base (histFit cap need l s) := by
  induction l generalizing s with
  | nil => exact setMem_only hk _
  | cons f fs ih => exact ite_only (setMem_only hk _) (ih (histLost_only hk _))

theorem histPut_only (hk : OnlyP C base s) (f : Frame) (h_regs : C .regs := by first | assumption | decide)
    (h_mem : C .mem := by first | assumption | decide) :
    OnlyP C base (s.histPut f) := by
  unfold State.histPut
  simp +contextual (maxDischargeDepth := 99) only [hk, h_regs, h_mem, Only_mk, ite_only, or_true, true_or, forall_const,
      imp_self, implies_true, memUsed_only, setMem_only, histFit_only]

theorem histRecord_only (hk : OnlyP C base s) (n : Nat) (frames : List Frame)
    (h_regs : C .regs := by first | assumption | decide) (h_mem : C .mem := by first | assumption | decide) :
    OnlyP C base (s.histRecord n frames) := by
  unfold State.histRecord
  simp +contextual (maxDischargeDepth := 99) only [hk, h_regs, h_mem, Only_mk, ite_only, or_true, true_or, forall_const,
      imp_self, implies_true, setMem_only, histPut_only, foldl_only]

theorem histFrom_only (hk : OnlyP C base s) (old : Nat) (h_mem : C .mem := by first | assumption | decide) :
    OnlyP C base (s.histFrom old) := by
  unfold State.histFrom
  simp +contextual (maxDischargeDepth := 99) only [hk, h_mem, Only_mk, ite_only, or_true, true_or, forall_const, imp_self,
      implies_true, setMem_only, foldl_only]

theorem dumpStart_only (hk : OnlyP C base s) (h_mem : C .mem := by first | assumption | decide) :
    OnlyP C base (s.dumpStart) := by
  unfold State.dumpStart
  simp +contextual (maxDischargeDepth := 99) only [hk, h_mem, Only_mk, ite_only, or_true, true_or, forall_const, imp_self,
      implies_true, setMem_only]

theorem dumpEnd_only (hk : OnlyP C base s) (h_regs : C .regs := by first | assumption | decide)
    (h_outbox : C .outbox := by first | assumption | decide) (h_hif : C .hif := by first | assumption | decide)
    (h_mem : C .mem := by first | assumption | decide) :
    OnlyP C base (s.dumpEnd) := by
  unfold State.dumpEnd
  try dsimp only
  repeat' split
  all_goals simp +contextual (maxDischargeDepth := 99) only [hk, h_regs, h_outbox, h_hif, h_mem, Only_mk, ite_only, or_true,
      true_or, forall_const, imp_self, implies_true, ev_only, setMem_only]

/-! ### Machine/Pmc.lean -/

theorem setPmc_only (hk : OnlyP C base s) (x : PmcSt) (h_pmc : C .pmc := by first | assumption | decide) :
    OnlyP C base (s.setPmc x) := by
  unfold State.setPmc
  simp +contextual (maxDischargeDepth := 99) only [hk, h_pmc, Only_mk, ite_only, or_true, true_or, forall_const, imp_self,
    implies_true]

theorem convStart_only (hk : OnlyP C base s) (k : Nat) (x : Int) (precal : Bool)
    (h_pmc : C .pmc := by first | assumption | decide) :
    OnlyP C base (s.convStart k x precal) := by
  unfold State.convStart
  simp +contextual (maxDischargeDepth := 99) only [hk, h_pmc, Only_mk, ite_only, or_true, true_or, forall_const, imp_self,
    implies_true, setPmc_only]

theorem pmcFrameClose_only (hk : OnlyP C base s) (h_hif : C .hif := by first | assumption | decide)
    (h_pmc : C .pmc := by first | assumption | decide) :
    OnlyP C base (s.pmcFrameClose) := by
  unfold State.pmcFrameClose
  try dsimp only
  repeat' split
  all_goals simp +contextual (maxDischargeDepth := 99) only [hk, h_hif, h_pmc, Only_mk, ite_only, or_true, true_or,
      forall_const, imp_self, implies_true, stage_only, setPmc_only]

theorem pmcRecord_only (hk : OnlyP C base s) (gt : Nat) (ovr precal : Bool) (r : List Byte)
    (h_hif : C .hif := by first | assumption | decide) (h_pmc : C .pmc := by first | assumption | decide) :
    OnlyP C base (s.pmcRecord gt ovr precal r) := by
  unfold State.pmcRecord
  try dsimp only
  repeat' split
  all_goals simp +contextual (maxDischargeDepth := 99) only [hk, h_hif, h_pmc, Only_mk, ite_only, or_true, true_or,
    forall_const, imp_self, implies_true, setPmc_only, pmcFrameClose_only]

theorem passEnd_only (hk : OnlyP C base s) (x : Int) (h_regs : C .regs := by first | assumption | decide)
    (h_outbox : C .outbox := by first | assumption | decide) (h_hif : C .hif := by first | assumption | decide)
    (h_pmc : C .pmc := by first | assumption | decide) :
    OnlyP C base (s.passEnd x) := by
  unfold State.passEnd
  simp +contextual (maxDischargeDepth := 99) only [hk, h_regs, h_outbox, h_hif, h_pmc, Only_mk, ite_only, or_true, true_or,
      forall_const, imp_self, implies_true, set2_only, addWrap_only, ev_only, setPmc_only, pmcFrameClose_only]

theorem slotGo_only (hk : OnlyP C base s) (i : Nat) (x : Int) (h_regs : C .regs := by first | assumption | decide)
    (h_outbox : C .outbox := by first | assumption | decide) (h_hif : C .hif := by first | assumption | decide)
    (h_pmc : C .pmc := by first | assumption | decide) :
    OnlyP C base (s.slotGo i x) := by
  unfold State.slotGo
  try dsimp only
  repeat' split
  all_goals simp +contextual (maxDischargeDepth := 99) only [hk, h_regs, h_outbox, h_hif, h_pmc, Only_mk, ite_only, or_true,
    true_or, forall_const, imp_self, implies_true, setPmc_only, convStart_only, passEnd_only]

theorem passLatch_only (hk : OnlyP C base s) (h_regs : C .regs := by first | assumption | decide)
    (h_outbox : C .outbox := by first | assumption | decide) (h_hif : C .hif := by first | assumption | decide)
    (h_pmc : C .pmc := by first | assumption | decide) :
    OnlyP C base (s.passLatch) := by
  unfold State.passLatch
  simp +contextual (maxDischargeDepth := 99) only [hk, h_regs, h_outbox, h_hif, h_pmc, Only_mk, ite_only, or_true, true_or,
      forall_const, imp_self, implies_true, setPmc_only, slotGo_only]

theorem passStart_only (hk : OnlyP C base s) (x : Int) (h_regs : C .regs := by first | assumption | decide)
    (h_outbox : C .outbox := by first | assumption | decide) (h_hif : C .hif := by first | assumption | decide)
    (h_pmc : C .pmc := by first | assumption | decide) :
    OnlyP C base (s.passStart x) := by
  unfold State.passStart
  simp +contextual (maxDischargeDepth := 99) only [hk, h_regs, h_outbox, h_hif, h_pmc, Only_mk, ite_only, or_true, true_or,
      forall_const, imp_self, implies_true, setPmc_only, passLatch_only]

theorem convRelatch_only (hk : OnlyP C base s) (h_regs : C .regs := by first | assumption | decide)
    (h_outbox : C .outbox := by first | assumption | decide) (h_hif : C .hif := by first | assumption | decide)
    (h_pmc : C .pmc := by first | assumption | decide) :
    OnlyP C base (s.convRelatch) := by
  unfold State.convRelatch
  try dsimp only
  repeat' split
  all_goals simp +contextual (maxDischargeDepth := 99) only [hk, h_regs, h_outbox, h_hif, h_pmc, Only_mk, ite_only, or_true,
      true_or, forall_const, imp_self, implies_true, setPmc_only, convStart_only, passLatch_only]

theorem injGo_only (hk : OnlyP C base s) (j : Nat) (x : Int) (h_pmc : C .pmc := by first | assumption | decide) :
    OnlyP C base (s.injGo j x) := by
  unfold State.injGo
  simp +contextual (maxDischargeDepth := 99) only [hk, h_pmc, Only_mk, ite_only, or_true, true_or, forall_const, imp_self,
    implies_true, setPmc_only, convStart_only]

theorem pmcKick_only (hk : OnlyP C base s) (x : Int) (h_regs : C .regs := by first | assumption | decide)
    (h_outbox : C .outbox := by first | assumption | decide) (h_hif : C .hif := by first | assumption | decide)
    (h_pmc : C .pmc := by first | assumption | decide) :
    OnlyP C base (s.pmcKick x) := by
  unfold State.pmcKick
  try dsimp only
  repeat' split
  all_goals simp +contextual (maxDischargeDepth := 99) only [hk, h_regs, h_outbox, h_hif, h_pmc, Only_mk, ite_only, or_true,
      true_or, forall_const, imp_self, implies_true, slotGo_only, passStart_only, injGo_only]

theorem pmcTrig_only (hk : OnlyP C base s) (h_regs : C .regs := by first | assumption | decide)
    (h_outbox : C .outbox := by first | assumption | decide) (h_hif : C .hif := by first | assumption | decide)
    (h_pmc : C .pmc := by first | assumption | decide) :
    OnlyP C base (s.pmcTrig) := by
  unfold State.pmcTrig
  simp +contextual (maxDischargeDepth := 99) only [hk, h_regs, h_outbox, h_hif, h_pmc, Only_mk, ite_only, or_true, true_or,
    forall_const, imp_self, implies_true, addSat_only, ev_only, setPmc_only, passStart_only]

theorem seqStart_only (hk : OnlyP C base s) (h_regs : C .regs := by first | assumption | decide)
    (h_outbox : C .outbox := by first | assumption | decide) (h_hif : C .hif := by first | assumption | decide)
    (h_pmc : C .pmc := by first | assumption | decide) :
    OnlyP C base (s.seqStart) := by
  unfold State.seqStart
  simp +contextual (maxDischargeDepth := 99) only [hk, h_regs, h_outbox, h_hif, h_pmc, Only_mk, ite_only, or_true, true_or,
    forall_const, imp_self, implies_true, pmcTrig_only]

theorem pmcTrigger_only (hk : OnlyP C base s) (t : PmcTrig) (h_regs : C .regs := by first | assumption | decide)
    (h_outbox : C .outbox := by first | assumption | decide) (h_hif : C .hif := by first | assumption | decide)
    (h_pmc : C .pmc := by first | assumption | decide) :
    OnlyP C base (s.pmcTrigger t) := by
  unfold State.pmcTrigger
  try dsimp only
  repeat' split
  all_goals simp +contextual (maxDischargeDepth := 99) only [hk, h_regs, h_outbox, h_hif, h_pmc, Only_mk, ite_only, or_true,
      true_or, forall_const, imp_self, implies_true, pmcKick_only, pmcTrig_only]

theorem preempt_only (hk : OnlyP C base s) (h_regs : C .regs := by first | assumption | decide)
    (h_outbox : C .outbox := by first | assumption | decide) (h_hif : C .hif := by first | assumption | decide)
    (h_pmc : C .pmc := by first | assumption | decide) :
    OnlyP C base (s.preempt) := by
  unfold State.preempt
  try dsimp only
  repeat' split
  all_goals simp +contextual (maxDischargeDepth := 99) only [hk, h_regs, h_outbox, h_hif, h_pmc, Only_mk, ite_only, or_true,
    true_or, forall_const, imp_self, implies_true, ev_only, setPmc_only]

theorem injTrig_only (hk : OnlyP C base s) (j : Nat) (h_regs : C .regs := by first | assumption | decide)
    (h_outbox : C .outbox := by first | assumption | decide) (h_hif : C .hif := by first | assumption | decide)
    (h_pmc : C .pmc := by first | assumption | decide) :
    OnlyP C base (s.injTrig j) := by
  unfold State.injTrig
  try dsimp only
  repeat' split
  all_goals simp +contextual (maxDischargeDepth := 99) only [hk, h_regs, h_outbox, h_hif, h_pmc, Only_mk, ite_only, or_true,
    true_or, forall_const, imp_self, implies_true, addSat_only, ev_only, setPmc_only, pmcKick_only, preempt_only]

theorem pmcEvent_only (hk : OnlyP C base s) (src : Nat) (h_regs : C .regs := by first | assumption | decide)
    (h_outbox : C .outbox := by first | assumption | decide) (h_hif : C .hif := by first | assumption | decide)
    (h_pmc : C .pmc := by first | assumption | decide) :
    OnlyP C base (s.pmcEvent src) := by
  unfold State.pmcEvent
  simp +contextual (maxDischargeDepth := 99) only [hk, h_regs, h_outbox, h_hif, h_pmc, Only_mk, ite_only, or_true, true_or,
      forall_const, imp_self, implies_true, pmcTrig_only, injTrig_only, foldl_only]

theorem injHw_only (hk : OnlyP C base s) (j src : Nat) (h_regs : C .regs := by first | assumption | decide)
    (h_outbox : C .outbox := by first | assumption | decide) (h_hif : C .hif := by first | assumption | decide)
    (h_pmc : C .pmc := by first | assumption | decide) :
    OnlyP C base (s.injHw j src) := by
  unfold State.injHw
  simp +contextual (maxDischargeDepth := 99) only [hk, h_regs, h_outbox, h_hif, h_pmc, Only_mk, ite_only, or_true, true_or,
    forall_const, imp_self, implies_true, injTrig_only]

theorem readback_only (hk : OnlyP C base s) (c : Conv) (u : Int) (ovr : Bool)
    (h_wmn : C .wmn := by first | assumption | decide) :
    OnlyP C base (s.readback c u ovr) := by
  unfold State.readback
  simp +contextual (maxDischargeDepth := 99) only [hk, h_wmn, Only_mk, ite_only, or_true, true_or, forall_const, imp_self,
      implies_true]

theorem convWrite_only (hk : OnlyP C base s) (c : Conv) (outs : List FiltOut)
    (h_regs : C .regs := by first | assumption | decide) (h_outbox : C .outbox := by first | assumption | decide)
    (h_hif : C .hif := by first | assumption | decide) (h_pmc : C .pmc := by first | assumption | decide)
    (h_wmn : C .wmn := by first | assumption | decide) :
    OnlyP C base (s.convWrite c outs) := by
  unfold State.convWrite
  simp +contextual (maxDischargeDepth := 99) only [hk, h_regs, h_outbox, h_hif, h_pmc, h_wmn, Only_mk, ite_only, or_true,
    true_or, forall_const, imp_self, implies_true, setReg_only, addSat_only, ev_only, setPmc_only, pmcFrameClose_only,
    pmcRecord_only, readback_only]

theorem pmcResult_only (hk : OnlyP C base s) (outs : List FiltOut) (h_regs : C .regs := by first | assumption | decide)
    (h_outbox : C .outbox := by first | assumption | decide) (h_hif : C .hif := by first | assumption | decide)
    (h_pmc : C .pmc := by first | assumption | decide) (h_wmn : C .wmn := by first | assumption | decide) :
    OnlyP C base (s.pmcResult outs) := by
  unfold State.pmcResult
  try dsimp only
  repeat' split
  all_goals simp +contextual (maxDischargeDepth := 99) only [hk, h_regs, h_outbox, h_hif, h_pmc, h_wmn, Only_mk, ite_only,
      or_true, true_or, forall_const, imp_self, implies_true, setPmc_only, passEnd_only, pmcKick_only, convWrite_only]

theorem injResult_only (hk : OnlyP C base s) (outs : List FiltOut) (h_regs : C .regs := by first | assumption | decide)
    (h_outbox : C .outbox := by first | assumption | decide) (h_hif : C .hif := by first | assumption | decide)
    (h_pmc : C .pmc := by first | assumption | decide) (h_wmn : C .wmn := by first | assumption | decide) :
    OnlyP C base (s.injResult outs) := by
  unfold State.injResult
  try dsimp only
  repeat' split
  all_goals simp +contextual (maxDischargeDepth := 99) only [hk, h_regs, h_outbox, h_hif, h_pmc, h_wmn, Only_mk, ite_only,
      or_true, true_or, forall_const, imp_self, implies_true, pmcKick_only, convWrite_only]

theorem seqStop_only (hk : OnlyP C base s) (h_regs : C .regs := by first | assumption | decide)
    (h_outbox : C .outbox := by first | assumption | decide) (h_hif : C .hif := by first | assumption | decide)
    (h_pmc : C .pmc := by first | assumption | decide) :
    OnlyP C base (s.seqStop) := by
  unfold State.seqStop
  simp +contextual (maxDischargeDepth := 99) only [hk, h_regs, h_outbox, h_hif, h_pmc, Only_mk, ite_only, or_true, true_or,
      forall_const, imp_self, implies_true, setPmc_only, pmcFrameClose_only, pmcKick_only]

theorem pmcCalEnd_only (hk : OnlyP C base s) (c : PmcCal) (code value : Nat)
    (h_regs : C .regs := by first | assumption | decide) (h_hostMem : C .hostMem := by first | assumption | decide)
    (h_outbox : C .outbox := by first | assumption | decide) (h_hif : C .hif := by first | assumption | decide)
    (h_pmc : C .pmc := by first | assumption | decide) :
    OnlyP C base (s.pmcCalEnd c code value) := by
  unfold State.pmcCalEnd
  try dsimp only
  repeat' split
  all_goals simp +contextual (maxDischargeDepth := 99) only [hk, h_regs, h_hostMem, h_outbox, h_hif, h_pmc, Only_mk,
    ite_only, or_true, true_or, forall_const, imp_self, implies_true, set_only, complete_only, setPmc_only]

theorem pmcStopAll_only (hk : OnlyP C base s) (h_regs : C .regs := by first | assumption | decide)
    (h_hostMem : C .hostMem := by first | assumption | decide) (h_outbox : C .outbox := by first | assumption | decide)
    (h_hif : C .hif := by first | assumption | decide) (h_pmc : C .pmc := by first | assumption | decide) :
    OnlyP C base (s.pmcStopAll) := by
  unfold State.pmcStopAll
  try dsimp only
  repeat' split
  all_goals simp +contextual (maxDischargeDepth := 99) only [hk, h_regs, h_hostMem, h_outbox, h_hif, h_pmc, Only_mk,
      ite_only, or_true, true_or, forall_const, imp_self, implies_true, setPmc_only, pmcFrameClose_only, pmcCalEnd_only]

theorem pmcSafeHold_only (hk : OnlyP C base s) (h_pmc : C .pmc := by first | assumption | decide) :
    OnlyP C base (s.pmcSafeHold) := by
  unfold State.pmcSafeHold
  simp +contextual (maxDischargeDepth := 99) only [hk, h_pmc, Only_mk, ite_only, or_true, true_or, forall_const, imp_self,
    implies_true, setPmc_only]

theorem pmcRestart_only (hk : OnlyP C base s) (h_pmc : C .pmc := by first | assumption | decide) :
    OnlyP C base (s.pmcRestart) := by
  unfold State.pmcRestart
  try dsimp only
  repeat' split
  all_goals simp +contextual (maxDischargeDepth := 99) only [hk, h_pmc, Only_mk, ite_only, or_true, true_or, forall_const,
      imp_self, implies_true, setPmc_only, convStart_only]

theorem pmcCalStart_only (hk : OnlyP C base s) (cmd : Option Cmd) (mask : Nat) (nv saveOnly : Bool)
    (h_regs : C .regs := by first | assumption | decide) (h_hostMem : C .hostMem := by first | assumption | decide)
    (h_outbox : C .outbox := by first | assumption | decide) (h_hif : C .hif := by first | assumption | decide)
    (h_pmc : C .pmc := by first | assumption | decide) :
    OnlyP C base (s.pmcCalStart cmd mask nv saveOnly) := by
  unfold State.pmcCalStart
  try dsimp only
  repeat' split
  all_goals simp +contextual (maxDischargeDepth := 99) only [hk, h_regs, h_hostMem, h_outbox, h_hif, h_pmc, Only_mk,
    ite_only, or_true, true_or, forall_const, imp_self, implies_true, set_only, complete_only, setPmc_only, pmcKick_only]

theorem pmcCalDone_only (hk : OnlyP C base s) (r : List PgaMeas) (nvOk : Bool)
    (h_regs : C .regs := by first | assumption | decide) (h_hostMem : C .hostMem := by first | assumption | decide)
    (h_outbox : C .outbox := by first | assumption | decide) (h_freeIdx : C .freeIdx := by first | assumption | decide)
    (h_hif : C .hif := by first | assumption | decide) (h_pmc : C .pmc := by first | assumption | decide)
    (h_nvs : C .nvs := by first | assumption | decide) :
    OnlyP C base (s.pmcCalDone r nvOk) := by
  unfold State.pmcCalDone
  split
  · exact hk
  · split
    · exact hk
    · extract_lets want fac ok fail applied s1 s2 s3 copy s4 code s5 s6
      have h1 : OnlyP C base s1 := foldl_only (nextFree_only hk) (fun t p ht => setI_only (setI_only ht _ _) _ _)
      have h2 : OnlyP C base s2 := set_only h1 _ _
      have h3 : OnlyP C base s3 := ite_only h2 (ev_only (set_only h2 _ _) _)
      have h4 : OnlyP C base s4 := ite_only (nvPut_only h3 _ _) h3
      have h5 : OnlyP C base s5 := ite_only (ev_only h4 _) (ite_only (ev_only h4 _) h4)
      have h6 : OnlyP C base s6 := pmcCalEnd_only h5 _ _ _
      exact ite_only h6 (pmcKick_only h6 _)

theorem pmcWarm_only (hk : OnlyP C base s) (h_regs : C .regs := by first | assumption | decide)
    (h_outbox : C .outbox := by first | assumption | decide) (h_hif : C .hif := by first | assumption | decide)
    (h_pmc : C .pmc := by first | assumption | decide) :
    OnlyP C base (s.pmcWarm) := by
  unfold State.pmcWarm
  simp +contextual (maxDischargeDepth := 99) only [hk, h_regs, h_outbox, h_hif, h_pmc, Only_mk, ite_only, or_true, true_or,
      forall_const, imp_self, implies_true, setPmc_only, pmcKick_only]

theorem refMove_only (hk : OnlyP C base s) (outside : Bool) (h_regs : C .regs := by first | assumption | decide)
    (h_outbox : C .outbox := by first | assumption | decide) (h_hif : C .hif := by first | assumption | decide)
    (h_pmc : C .pmc := by first | assumption | decide) (h_flt : C .flt := by first | assumption | decide) :
    OnlyP C base (s.refMove outside) := by
  unfold State.refMove
  simp +contextual (maxDischargeDepth := 99) only [hk, h_regs, h_outbox, h_hif, h_pmc, h_flt, Only_mk, ite_only, or_true,
      true_or, forall_const, imp_self, implies_true, ev_only, present_only, setPmc_only]

theorem dieTemp_only (hk : OnlyP C base s) (t : Int) (h_regs : C .regs := by first | assumption | decide)
    (h_outbox : C .outbox := by first | assumption | decide) (h_hif : C .hif := by first | assumption | decide)
    (h_flt : C .flt := by first | assumption | decide) (h_mem : C .mem := by first | assumption | decide) :
    OnlyP C base (s.dieTemp t) := by
  unfold State.dieTemp
  simp +contextual (maxDischargeDepth := 99) only [hk, h_regs, h_outbox, h_hif, h_flt, h_mem, Only_mk, ite_only, or_true,
    true_or, forall_const, imp_self, implies_true, set_only, setI_only, present_only, rateEval_only, bandEval_only,
    foldl_only]

/-! ### Machine/Phase.lean -/

theorem phsSat_only (hk : OnlyP C base s) (n k : Nat) (ev : FRef) (h_regs : C .regs := by first | assumption | decide)
    (h_outbox : C .outbox := by first | assumption | decide) (h_hif : C .hif := by first | assumption | decide)
    (h_fe : C .fe := by first | assumption | decide) (h_flt : C .flt := by first | assumption | decide) :
    OnlyP C base (s.phsSat n k ev) := by
  unfold State.phsSat
  simp +contextual (maxDischargeDepth := 99) only [hk, h_regs, h_outbox, h_hif, h_fe, h_flt, Only_mk, ite_only, or_true,
    true_or, forall_const, imp_self, implies_true, addSat_only, ev_only, present_only, modF_only]

theorem ovrScan_only (hk : OnlyP C base s) (n : Nat) (r : Shot) (raw : List Raw4)
    (h_regs : C .regs := by first | assumption | decide) (h_outbox : C .outbox := by first | assumption | decide)
    (h_hif : C .hif := by first | assumption | decide) (h_fe : C .fe := by first | assumption | decide)
    (h_acq : C .acq := by first | assumption | decide) (h_flt : C .flt := by first | assumption | decide) :
    OnlyP C base (s.ovrScan n r raw) := by
  unfold State.ovrScan
  simp +contextual (maxDischargeDepth := 99) only [hk, h_regs, h_outbox, h_hif, h_fe, h_acq, h_flt, Only_mk, ite_only,
      or_true, true_or, forall_const, imp_self, implies_true, modF_only, overrange_only, blkSeen_only, foldl_only]

theorem blindScan_only (hk : OnlyP C base s) (n : Nat) (r : Shot) (raw : List Raw4)
    (h_fe : C .fe := by first | assumption | decide) (h_acq : C .acq := by first | assumption | decide) :
    OnlyP C base (s.blindScan n r raw) := by
  unfold State.blindScan
  simp +contextual (maxDischargeDepth := 99) only [hk, h_fe, h_acq, Only_mk, ite_only, or_true, true_or, forall_const,
      imp_self, implies_true, modF_only, blindAdd_only, foldl_only]

theorem phaseShot_only (hk : OnlyP C base s) (n : Nat) (r : Shot) (raw : List Raw4)
    (h_regs : C .regs := by first | assumption | decide) (h_outbox : C .outbox := by first | assumption | decide)
    (h_hif : C .hif := by first | assumption | decide) (h_fe : C .fe := by first | assumption | decide)
    (h_acq : C .acq := by first | assumption | decide) (h_flt : C .flt := by first | assumption | decide) :
    OnlyP C base (s.phaseShot n r raw) := by
  unfold State.phaseShot
  simp +contextual (maxDischargeDepth := 99) only [hk, h_regs, h_outbox, h_hif, h_fe, h_acq, h_flt, Only_mk, ite_only,
      or_true, true_or, forall_const, imp_self, implies_true, set_only, set2_only, addSat_only, ev_only, modF_only,
      phsSat_only, ovrScan_only, blindScan_only, foldl_only]

/-! ### Machine/Track.lean -/

theorem setTrk_only (hk : OnlyP C base s) (x : TrkSt) (h_trk : C .trk := by first | assumption | decide) :
    OnlyP C base (s.setTrk x) := by
  unfold State.setTrk
  simp +contextual (maxDischargeDepth := 99) only [hk, h_trk, Only_mk, ite_only, or_true, true_or, forall_const, imp_self,
    implies_true]

theorem modQin_only (hk : OnlyP C base s) (i : Nat) (g : QinSt → QinSt) (h_trk : C .trk := by first | assumption | decide) :
    OnlyP C base (s.modQin i g) := by
  unfold State.modQin
  simp +contextual (maxDischargeDepth := 99) only [hk, h_trk, Only_mk, ite_only, or_true, true_or, forall_const, imp_self,
    implies_true, setTrk_only]

theorem trkHold_only (hk : OnlyP C base s) (h_trk : C .trk := by first | assumption | decide) :
    OnlyP C base (s.trkHold) := by
  unfold State.trkHold
  try dsimp only
  repeat' split
  all_goals simp +contextual (maxDischargeDepth := 99) only [hk, h_trk, Only_mk, ite_only, or_true, true_or, forall_const,
      imp_self, implies_true, setTrk_only]

theorem qinMove_only (hk : OnlyP C base s) (i : Nat) (d : Int) (h_regs : C .regs := by first | assumption | decide)
    (h_trk : C .trk := by first | assumption | decide) :
    OnlyP C base (s.qinMove i d) := by
  unfold State.qinMove
  simp +contextual (maxDischargeDepth := 99) only [hk, h_regs, h_trk, Only_mk, ite_only, or_true, true_or, forall_const,
    imp_self, implies_true, set_only, modQin_only]

theorem qinSpeed_only (hk : OnlyP C base s) (i : Nat) (h_regs : C .regs := by first | assumption | decide) :
    OnlyP C base (s.qinSpeed i) := by
  unfold State.qinSpeed
  simp +contextual (maxDischargeDepth := 99) only [hk, h_regs, Only_mk, ite_only, or_true, true_or, forall_const, imp_self,
    implies_true, setI_only, setB_only, foldl_only]

theorem qinEdgeErr_only (hk : OnlyP C base s) (i : Nat) (h_regs : C .regs := by first | assumption | decide)
    (h_outbox : C .outbox := by first | assumption | decide) (h_hif : C .hif := by first | assumption | decide)
    (h_trk : C .trk := by first | assumption | decide) (h_flt : C .flt := by first | assumption | decide) :
    OnlyP C base (s.qinEdgeErr i) := by
  unfold State.qinEdgeErr
  simp +contextual (maxDischargeDepth := 99) only [hk, h_regs, h_outbox, h_hif, h_trk, h_flt, Only_mk, ite_only, or_true,
    true_or, forall_const, imp_self, implies_true, present_only, modQin_only]

theorem cmpPulse_only (hk : OnlyP C base s) (c : Nat) (h_trk : C .trk := by first | assumption | decide) :
    OnlyP C base (s.cmpPulse c) := by
  unfold State.cmpPulse
  try dsimp only
  repeat' split
  all_goals simp +contextual (maxDischargeDepth := 99) only [hk, h_trk, Only_mk, ite_only, or_true, true_or, forall_const,
    imp_self, implies_true, setTrk_only]

theorem cmpFire_only (hk : OnlyP C base s) (c : Nat) (h_regs : C .regs := by first | assumption | decide)
    (h_outbox : C .outbox := by first | assumption | decide) (h_hif : C .hif := by first | assumption | decide)
    (h_trk : C .trk := by first | assumption | decide) (h_pmc : C .pmc := by first | assumption | decide) :
    OnlyP C base (s.cmpFire c) := by
  unfold State.cmpFire
  simp +contextual (maxDischargeDepth := 99) only [hk, h_regs, h_outbox, h_hif, h_trk, h_pmc, Only_mk, ite_only, or_true,
      true_or, forall_const, imp_self, implies_true, set_only, addWrap_only, set1_only, ev_only, pmcEvent_only, cmpPulse_only]

theorem cmpCheck_only (hk : OnlyP C base s) (i : Nat) (down : Bool) (h_regs : C .regs := by first | assumption | decide)
    (h_outbox : C .outbox := by first | assumption | decide) (h_hif : C .hif := by first | assumption | decide)
    (h_trk : C .trk := by first | assumption | decide) (h_pmc : C .pmc := by first | assumption | decide) :
    OnlyP C base (s.cmpCheck i down) := by
  unfold State.cmpCheck
  simp +contextual (maxDischargeDepth := 99) only [hk, h_pmc, h_regs, h_outbox, h_hif, h_trk, Only_mk, ite_only, or_true,
      true_or,
    forall_const, imp_self, implies_true, cmpFire_only, foldl_only]

theorem cmpValue_only (hk : OnlyP C base s) (c : Nat) (v : Word) (h_regs : C .regs := by first | assumption | decide)
    (h_outbox : C .outbox := by first | assumption | decide) (h_hif : C .hif := by first | assumption | decide) :
    OnlyP C base (s.cmpValue c v) := by
  unfold State.cmpValue
  simp +contextual (maxDischargeDepth := 99) only [hk, h_regs, h_outbox, h_hif, Only_mk, ite_only, or_true, true_or,
      forall_const, imp_self, implies_true, set_only, set1_only, ev_only]

theorem qinCount_only (hk : OnlyP C base s) (i st : Nat) (down lineA : Bool)
    (h_regs : C .regs := by first | assumption | decide) (h_outbox : C .outbox := by first | assumption | decide)
    (h_hif : C .hif := by first | assumption | decide) (h_trk : C .trk := by first | assumption | decide)
    (h_pmc : C .pmc := by first | assumption | decide) (h_flt : C .flt := by first | assumption | decide) :
    OnlyP C base (s.qinCount i st down lineA) := by
  unfold State.qinCount
  try dsimp only
  repeat' split
  all_goals simp +contextual (maxDischargeDepth := 99) only [hk, h_regs, h_outbox, h_hif, h_trk, h_pmc, h_flt, Only_mk,
      ite_only, or_true, true_or, forall_const, imp_self, implies_true, set_only, setB_only, addSat_only, set1_only, ev_only,
      modQin_only, qinMove_only, qinSpeed_only, qinEdgeErr_only, cmpCheck_only]

theorem qinIllegal_only (hk : OnlyP C base s) (i st : Nat) (h_regs : C .regs := by first | assumption | decide)
    (h_outbox : C .outbox := by first | assumption | decide) (h_hif : C .hif := by first | assumption | decide)
    (h_trk : C .trk := by first | assumption | decide) (h_flt : C .flt := by first | assumption | decide) :
    OnlyP C base (s.qinIllegal i st) := by
  unfold State.qinIllegal
  simp +contextual (maxDischargeDepth := 99) only [hk, h_regs, h_outbox, h_hif, h_trk, h_flt, Only_mk, ite_only, or_true,
      true_or, forall_const, imp_self, implies_true, addSat_only, set1_only, ev_only, modQin_only, qinEdgeErr_only]

theorem encoderEdge_only (hk : OnlyP C base s) (i : Nat) (qa qb : Bool) (h_regs : C .regs := by first | assumption | decide)
    (h_outbox : C .outbox := by first | assumption | decide) (h_hif : C .hif := by first | assumption | decide)
    (h_trk : C .trk := by first | assumption | decide) (h_pmc : C .pmc := by first | assumption | decide)
    (h_flt : C .flt := by first | assumption | decide) :
    OnlyP C base (s.encoderEdge i qa qb) := by
  unfold State.encoderEdge
  simp +contextual (maxDischargeDepth := 99) only [hk, h_regs, h_outbox, h_hif, h_trk, h_pmc, h_flt, Only_mk, ite_only,
      or_true, true_or, forall_const, imp_self, implies_true, set_only, trkHold_only, qinCount_only, qinIllegal_only]

theorem encoderStall_only (hk : OnlyP C base s) (i : Nat) (h_regs : C .regs := by first | assumption | decide)
    (h_trk : C .trk := by first | assumption | decide) :
    OnlyP C base (s.encoderStall i) := by
  unfold State.encoderStall
  try dsimp only
  repeat' split
  all_goals simp +contextual (maxDischargeDepth := 99) only [hk, h_regs, h_trk, Only_mk, ite_only, or_true, true_or,
    forall_const, imp_self, implies_true, set_only, modQin_only, qinSpeed_only]

theorem qinLoad_only (hk : OnlyP C base s) (i : Nat) (v : Word) (h_regs : C .regs := by first | assumption | decide)
    (h_trk : C .trk := by first | assumption | decide) :
    OnlyP C base (s.qinLoad i v) := by
  unfold State.qinLoad
  simp +contextual (maxDischargeDepth := 99) only [hk, h_regs, h_trk, Only_mk, ite_only, or_true, true_or, forall_const,
    imp_self, implies_true, qinMove_only]

theorem qinPosRead_only (hk : OnlyP C base s) (i : Nat) (h_trk : C .trk := by first | assumption | decide) :
    OnlyP C base (s.qinPosRead i) := by
  unfold State.qinPosRead
  simp +contextual (maxDischargeDepth := 99) only [hk, h_trk, Only_mk, ite_only, or_true, true_or, forall_const, imp_self,
    implies_true, modQin_only]

theorem indexTake_only (hk : OnlyP C base s) (i : Nat) (h_regs : C .regs := by first | assumption | decide)
    (h_outbox : C .outbox := by first | assumption | decide) (h_hif : C .hif := by first | assumption | decide)
    (h_trk : C .trk := by first | assumption | decide) :
    OnlyP C base (s.indexTake i) := by
  unfold State.indexTake
  simp +contextual (maxDischargeDepth := 99) only [hk, h_regs, h_outbox, h_hif, h_trk, Only_mk, ite_only, or_true, true_or,
      forall_const, imp_self, implies_true, set_only, setI_only, set1_only, ev_only, modQin_only, qinMove_only]

theorem indexPulse_only (hk : OnlyP C base s) (i : Nat) (level : Bool) (h_regs : C .regs := by first | assumption | decide)
    (h_outbox : C .outbox := by first | assumption | decide) (h_hif : C .hif := by first | assumption | decide)
    (h_trk : C .trk := by first | assumption | decide) :
    OnlyP C base (s.indexPulse i level) := by
  unfold State.indexPulse
  simp +contextual (maxDischargeDepth := 99) only [hk, h_regs, h_outbox, h_hif, h_trk, Only_mk, ite_only, or_true, true_or,
      forall_const, imp_self, implies_true, set_only, trkHold_only, indexTake_only]

theorem historyRecord_only (hk : OnlyP C base s) (i : Nat) (h_trk : C .trk := by first | assumption | decide) :
    OnlyP C base (s.historyRecord i) := by
  unfold State.historyRecord
  simp +contextual (maxDischargeDepth := 99) only [hk, h_trk, Only_mk, ite_only, or_true, true_or, forall_const, imp_self,
    implies_true, modQin_only]

theorem msEdge_only (hk : OnlyP C base s) (m : Nat) (falling : Bool) (stamp : Nat)
    (h_regs : C .regs := by first | assumption | decide) (h_outbox : C .outbox := by first | assumption | decide)
    (h_hif : C .hif := by first | assumption | decide) (h_fe : C .fe := by first | assumption | decide)
    (h_trk : C .trk := by first | assumption | decide) :
    OnlyP C base (s.msEdge m falling stamp) := by
  unfold State.msEdge
  simp +contextual (maxDischargeDepth := 99) only [hk, h_regs, h_outbox, h_hif, h_fe, h_trk, Only_mk, ite_only, or_true,
      true_or, forall_const, imp_self, implies_true, ev_only, modF_only, setTrk_only]

theorem setSsi_only (hk : OnlyP C base s) (p : Nat) (x : SsiSt) (h_trk : C .trk := by first | assumption | decide) :
    OnlyP C base (s.setSsi p x) := by
  unfold State.setSsi
  simp +contextual (maxDischargeDepth := 99) only [hk, h_trk, Only_mk, ite_only, or_true, true_or, forall_const, imp_self,
    implies_true, setTrk_only]

theorem ssiStart_only (hk : OnlyP C base s) (p : Nat) (datLow : Bool) (h_regs : C .regs := by first | assumption | decide)
    (h_outbox : C .outbox := by first | assumption | decide) (h_hif : C .hif := by first | assumption | decide)
    (h_trk : C .trk := by first | assumption | decide) :
    OnlyP C base (s.ssiStart p datLow) := by
  unfold State.ssiStart
  simp +contextual (maxDischargeDepth := 99) only [hk, h_regs, h_outbox, h_hif, h_trk, Only_mk, ite_only, or_true, true_or,
      forall_const, imp_self, implies_true, set1_only, ev_only, setSsi_only]

theorem ssiEnd_only (hk : OnlyP C base s) (p : Nat) (bits : Nat) (datLow : Bool) (high : Nat)
    (h_regs : C .regs := by first | assumption | decide) (h_outbox : C .outbox := by first | assumption | decide)
    (h_hif : C .hif := by first | assumption | decide) (h_trk : C .trk := by first | assumption | decide) :
    OnlyP C base (s.ssiEnd p bits datLow high) := by
  unfold State.ssiEnd
  simp +contextual (maxDischargeDepth := 99) only [hk, h_regs, h_outbox, h_hif, h_trk, Only_mk, ite_only, or_true, true_or,
      forall_const, imp_self, implies_true, set_only, set1_only, ev_only, setSsi_only]

theorem modEnc_only (hk : OnlyP C base s) (m : Nat) (g : EncSt → EncSt) (h_trk : C .trk := by first | assumption | decide) :
    OnlyP C base (s.modEnc m g) := by
  unfold State.modEnc
  simp +contextual (maxDischargeDepth := 99) only [hk, h_trk, Only_mk, ite_only, or_true, true_or, forall_const, imp_self,
    implies_true, setTrk_only]

theorem encHold_only (hk : OnlyP C base s) (m : Nat) (gone : Bool) (h_regs : C .regs := by first | assumption | decide)
    (h_outbox : C .outbox := by first | assumption | decide) (h_hif : C .hif := by first | assumption | decide)
    (h_trk : C .trk := by first | assumption | decide) :
    OnlyP C base (s.encHold m gone) := by
  unfold State.encHold
  simp +contextual (maxDischargeDepth := 99) only [hk, h_regs, h_outbox, h_hif, h_trk, Only_mk, ite_only, or_true, true_or,
      forall_const, imp_self, implies_true, set_only, set1_only, ev_only, modEnc_only]

theorem encTarget_only (hk : OnlyP C base s) (m : Nat) (h_regs : C .regs := by first | assumption | decide)
    (h_outbox : C .outbox := by first | assumption | decide) (h_hif : C .hif := by first | assumption | decide)
    (h_trk : C .trk := by first | assumption | decide) :
    OnlyP C base (s.encTarget m) := by
  unfold State.encTarget
  try dsimp only
  repeat' split
  all_goals simp +contextual (maxDischargeDepth := 99) only [hk, h_regs, h_outbox, h_hif, h_trk, Only_mk, ite_only, or_true,
      true_or, forall_const, imp_self, implies_true, set_only, set1_only, ev_only, modEnc_only, encHold_only]

theorem encUpdate_only (hk : OnlyP C base s) (m : Nat) (h_regs : C .regs := by first | assumption | decide)
    (h_outbox : C .outbox := by first | assumption | decide) (h_hif : C .hif := by first | assumption | decide)
    (h_trk : C .trk := by first | assumption | decide) :
    OnlyP C base (s.encUpdate m) := by
  unfold State.encUpdate
  simp +contextual (maxDischargeDepth := 99) only [hk, h_regs, h_outbox, h_hif, h_trk, Only_mk, ite_only, or_true, true_or,
    forall_const, imp_self, implies_true, encTarget_only]

theorem encStep_only (hk : OnlyP C base s) (m : Nat) (h_regs : C .regs := by first | assumption | decide)
    (h_trk : C .trk := by first | assumption | decide) :
    OnlyP C base (s.encStep m) := by
  unfold State.encStep
  simp +contextual (maxDischargeDepth := 99) only [hk, h_regs, h_trk, Only_mk, ite_only, or_true, true_or, forall_const,
      imp_self, implies_true, set_only, modEnc_only]

theorem encResume_only (hk : OnlyP C base s) (m : Nat) (h_regs : C .regs := by first | assumption | decide)
    (h_outbox : C .outbox := by first | assumption | decide) (h_hif : C .hif := by first | assumption | decide)
    (h_trk : C .trk := by first | assumption | decide) :
    OnlyP C base (s.encResume m) := by
  unfold State.encResume
  try dsimp only
  repeat' split
  all_goals simp +contextual (maxDischargeDepth := 99) only [hk, h_regs, h_outbox, h_hif, h_trk, Only_mk, ite_only, or_true,
      true_or, forall_const, imp_self, implies_true, set_only, setI_only, modEnc_only, encTarget_only]

theorem encCheck_only (hk : OnlyP C base s) (n : Nat) (h_regs : C .regs := by first | assumption | decide)
    (h_outbox : C .outbox := by first | assumption | decide) (h_hif : C .hif := by first | assumption | decide)
    (h_trk : C .trk := by first | assumption | decide) :
    OnlyP C base (s.encCheck n) := by
  refine foldl_only hk (fun t m ht => ite_only ?_ ht)
  split
  · exact encHold_only ht _ _
  · exact encHold_only ht _ _
  · exact ht

theorem trackId_only (hk : OnlyP C base s) (m : Nat) (v : Word) (h_regs : C .regs := by first | assumption | decide)
    (h_outbox : C .outbox := by first | assumption | decide) (h_hif : C .hif := by first | assumption | decide)
    (h_trk : C .trk := by first | assumption | decide) :
    OnlyP C base (s.trackId m v) := by
  unfold State.trackId
  simp +contextual (maxDischargeDepth := 99) only [hk, h_regs, h_outbox, h_hif, h_trk, Only_mk, ite_only, or_true, true_or,
      forall_const, imp_self, implies_true, set_only, modEnc_only, encResume_only]

theorem trkContain_only (hk : OnlyP C base s) (h_trk : C .trk := by first | assumption | decide) :
    OnlyP C base (s.trkContain) := by
  unfold State.trkContain
  simp +contextual (maxDischargeDepth := 99) only [hk, h_trk, Only_mk, ite_only, or_true, true_or, forall_const, imp_self,
    implies_true, setTrk_only]

theorem trkResume_only (hk : OnlyP C base s) (h_regs : C .regs := by first | assumption | decide)
    (h_outbox : C .outbox := by first | assumption | decide) (h_hif : C .hif := by first | assumption | decide)
    (h_trk : C .trk := by first | assumption | decide) :
    OnlyP C base (s.trkResume) := by
  unfold State.trkResume
  simp +contextual (maxDischargeDepth := 99) only [hk, h_regs, h_outbox, h_hif, h_trk, Only_mk, ite_only, or_true, true_or,
    forall_const, imp_self, implies_true, encResume_only, foldl_only]

theorem cmpPulseEnd_only (hk : OnlyP C base s) (pin : Nat) (h_trk : C .trk := by first | assumption | decide) :
    OnlyP C base (s.cmpPulseEnd pin) := by
  unfold State.cmpPulseEnd
  simp +contextual (maxDischargeDepth := 99) only [hk, h_trk, Only_mk, ite_only, or_true, true_or, forall_const, imp_self,
    implies_true, setTrk_only]

theorem trkWritten_only (hk : OnlyP C base s) (off : Nat) (old : Word) (h_regs : C .regs := by first | assumption | decide)
    (h_trk : C .trk := by first | assumption | decide) :
    OnlyP C base (s.trkWritten off old) := by
  unfold State.trkWritten
  try dsimp only
  repeat' split
  all_goals simp +contextual (maxDischargeDepth := 99) only [hk, h_regs, h_trk, Only_mk, ite_only, or_true, true_or,
    forall_const, imp_self, implies_true, set_only, modQin_only, setSsi_only]

/-! ### Machine/Acoustic.lean -/

theorem swapReq_only (hk : OnlyP C base s) (n log2 : Nat) (target : Bool)
    (h_regs : C .regs := by first | assumption | decide) (h_outbox : C .outbox := by first | assumption | decide)
    (h_hif : C .hif := by first | assumption | decide) (h_fe : C .fe := by first | assumption | decide) :
    OnlyP C base (s.swapReq n log2 target) := by
  unfold State.swapReq
  try dsimp only
  repeat' split
  all_goals simp +contextual (maxDischargeDepth := 99) only [hk, h_regs, h_outbox, h_hif, h_fe, Only_mk, ite_only, or_true,
    true_or, forall_const, imp_self, implies_true, ev_only, modF_only]

theorem swapsRun_only (hk : OnlyP C base s) (n log2 : Nat) (h_regs : C .regs := by first | assumption | decide)
    (h_outbox : C .outbox := by first | assumption | decide) (h_hif : C .hif := by first | assumption | decide)
    (h_fe : C .fe := by first | assumption | decide) :
    OnlyP C base (s.swapsRun n log2) := by
  unfold State.swapsRun
  try dsimp only
  repeat' split
  all_goals simp +contextual (maxDischargeDepth := 99) only [hk, h_regs, h_outbox, h_hif, h_fe, Only_mk, ite_only, or_true,
    true_or, forall_const, imp_self, implies_true, modF_only, swapReq_only, foldl_only]

theorem xfStep_only (hk : OnlyP C base s) (n : Nat) (h_regs : C .regs := by first | assumption | decide)
    (h_outbox : C .outbox := by first | assumption | decide) (h_hif : C .hif := by first | assumption | decide)
    (h_fe : C .fe := by first | assumption | decide) :
    OnlyP C base (s.xfStep n) := by
  unfold State.xfStep
  try dsimp only
  repeat' split
  all_goals simp +contextual (maxDischargeDepth := 99) only [hk, h_regs, h_outbox, h_hif, h_fe, Only_mk, ite_only, or_true,
    true_or, forall_const, imp_self, implies_true, set_only, ev_only, modF_only]

theorem acfShow_only (hk : OnlyP C base s) (n : Nat) (h_regs : C .regs := by first | assumption | decide) :
    OnlyP C base (s.acfShow n) := by
  unfold State.acfShow
  simp +contextual (maxDischargeDepth := 99) only [hk, h_regs, Only_mk, ite_only, or_true, true_or, forall_const, imp_self,
    implies_true, setB_only]

theorem swapsSettle_only (hk : OnlyP C base s) (n : Nat) (i : AcfIn) (h_regs : C .regs := by first | assumption | decide)
    (h_outbox : C .outbox := by first | assumption | decide) (h_hif : C .hif := by first | assumption | decide)
    (h_fe : C .fe := by first | assumption | decide) :
    OnlyP C base (s.swapsSettle n i) := by
  unfold State.swapsSettle
  simp +contextual (maxDischargeDepth := 99) only [hk, h_regs, h_outbox, h_hif, h_fe, Only_mk, ite_only, or_true, true_or,
      forall_const, imp_self, implies_true, ev_only, modF_only]

theorem acfLim_only (hk : OnlyP C base s) (n k : Nat) (h_regs : C .regs := by first | assumption | decide)
    (h_outbox : C .outbox := by first | assumption | decide) (h_hif : C .hif := by first | assumption | decide) :
    OnlyP C base (s.acfLim n k) := by
  unfold State.acfLim
  simp +contextual (maxDischargeDepth := 99) only [hk, h_regs, h_outbox, h_hif, Only_mk, ite_only, or_true, true_or,
    forall_const, imp_self, implies_true, addSat_only, ev_only]

theorem acfSat_only (hk : OnlyP C base s) (n k : Nat) (h_regs : C .regs := by first | assumption | decide)
    (h_outbox : C .outbox := by first | assumption | decide) (h_hif : C .hif := by first | assumption | decide)
    (h_fe : C .fe := by first | assumption | decide) (h_flt : C .flt := by first | assumption | decide) :
    OnlyP C base (s.acfSat n k) := by
  unfold State.acfSat
  simp +contextual (maxDischargeDepth := 99) only [hk, h_regs, h_outbox, h_hif, h_fe, h_flt, Only_mk, ite_only, or_true,
    true_or, forall_const, imp_self, implies_true, addSat_only, ev_only, present_only, modF_only]

theorem evtTake_only (hk : OnlyP C base s) (n : Nat) (x : EvtOut) (h_regs : C .regs := by first | assumption | decide)
    (h_outbox : C .outbox := by first | assumption | decide) (h_hif : C .hif := by first | assumption | decide)
    (h_fe : C .fe := by first | assumption | decide) :
    OnlyP C base (s.evtTake n x) := by
  unfold State.evtTake
  simp +contextual (maxDischargeDepth := 99) only [hk, h_regs, h_outbox, h_hif, h_fe, Only_mk, ite_only, or_true, true_or,
      forall_const, imp_self, implies_true, modF_only, acfLim_only, foldl_only]

theorem evtShow_only (hk : OnlyP C base s) (n : Nat) (h_regs : C .regs := by first | assumption | decide) :
    OnlyP C base (s.evtShow n) := by
  unfold State.evtShow
  simp +contextual (maxDischargeDepth := 99) only [hk, h_regs, Only_mk, ite_only, or_true, true_or, forall_const, imp_self,
    implies_true, set_only, setB_only]

theorem evtReset_only (hk : OnlyP C base s) (n : Nat) (h_regs : C .regs := by first | assumption | decide)
    (h_outbox : C .outbox := by first | assumption | decide) (h_hif : C .hif := by first | assumption | decide)
    (h_fe : C .fe := by first | assumption | decide) (h_trk : C .trk := by first | assumption | decide) :
    OnlyP C base (s.evtReset n) := by
  unfold State.evtReset
  simp +contextual (maxDischargeDepth := 99) only [hk, h_regs, h_outbox, h_hif, h_fe, h_trk, Only_mk, ite_only, or_true,
      true_or, forall_const, imp_self, implies_true, modF_only, encCheck_only, evtShow_only]

theorem evtIdle_only (hk : OnlyP C base s) (n : Nat) (h_regs : C .regs := by first | assumption | decide)
    (h_outbox : C .outbox := by first | assumption | decide) (h_hif : C .hif := by first | assumption | decide)
    (h_fe : C .fe := by first | assumption | decide) (h_trk : C .trk := by first | assumption | decide) :
    OnlyP C base (s.evtIdle n) := by
  unfold State.evtIdle
  simp +contextual (maxDischargeDepth := 99) only [hk, h_regs, h_outbox, h_hif, h_fe, h_trk, Only_mk, ite_only, or_true,
      true_or, forall_const, imp_self, implies_true, modF_only, evtReset_only]

theorem evtAdvance_only (hk : OnlyP C base s) (n : Nat) (q : List EvtIn)
    (h_regs : C .regs := by first | assumption | decide) (h_outbox : C .outbox := by first | assumption | decide)
    (h_hif : C .hif := by first | assumption | decide) (h_fe : C .fe := by first | assumption | decide)
    (h_trk : C .trk := by first | assumption | decide) :
    OnlyP C base (evtAdvance n q s) := by
  induction q generalizing s with
  | nil => exact modF_only hk _ _
  | cons x q ih =>
    cases x with
    | restart => exact ih (evtReset_only hk _)
    | out x => exact ite_only (modF_only (evtTake_only hk _ _) _ _) (ih (evtTake_only hk _ _))

theorem evtPush_only (hk : OnlyP C base s) (n : Nat) (x : EvtIn) (h_regs : C .regs := by first | assumption | decide)
    (h_outbox : C .outbox := by first | assumption | decide) (h_hif : C .hif := by first | assumption | decide)
    (h_fe : C .fe := by first | assumption | decide) (h_trk : C .trk := by first | assumption | decide) :
    OnlyP C base (s.evtPush n x) := by
  unfold State.evtPush
  simp +contextual (maxDischargeDepth := 99) only [hk, h_trk, h_regs, h_outbox, h_hif, h_fe, Only_mk, ite_only, or_true,
      true_or,
      forall_const, imp_self, implies_true, modF_only, evtAdvance_only]

theorem evtFeed_only (hk : OnlyP C base s) (n : Nat) (x : EvtOut) (h_regs : C .regs := by first | assumption | decide)
    (h_outbox : C .outbox := by first | assumption | decide) (h_hif : C .hif := by first | assumption | decide)
    (h_fe : C .fe := by first | assumption | decide) (h_trk : C .trk := by first | assumption | decide) :
    OnlyP C base (s.evtFeed n x) := by
  unfold State.evtFeed
  simp +contextual (maxDischargeDepth := 99) only [hk, h_trk, h_regs, h_outbox, h_hif, h_fe, Only_mk, ite_only, or_true,
      true_or,
      forall_const, imp_self, implies_true, evtPush_only]

theorem acfTake_only (hk : OnlyP C base s) (n : Nat) (i : AcfIn) (h_regs : C .regs := by first | assumption | decide)
    (h_outbox : C .outbox := by first | assumption | decide) (h_hif : C .hif := by first | assumption | decide)
    (h_fe : C .fe := by first | assumption | decide) :
    OnlyP C base (s.acfTake n i) := by
  unfold State.acfTake
  simp +contextual (maxDischargeDepth := 99) only [hk, h_regs, h_outbox, h_hif, h_fe, Only_mk, ite_only, or_true, true_or,
      forall_const, imp_self, implies_true, set_only, ev_only, modF_only, acfShow_only, swapsSettle_only, acfLim_only,
      foldl_only]

theorem acfEmit_only (hk : OnlyP C base s) (n : Nat) (i : AcfIn) (h_regs : C .regs := by first | assumption | decide)
    (h_outbox : C .outbox := by first | assumption | decide) (h_hif : C .hif := by first | assumption | decide)
    (h_fe : C .fe := by first | assumption | decide) (h_trk : C .trk := by first | assumption | decide)
    (h_flt : C .flt := by first | assumption | decide) (h_mem : C .mem := by first | assumption | decide) :
    OnlyP C base (s.acfEmit n i) := by
  unfold State.acfEmit
  extract_lets r s1 a dec bins coefs old new outs s2 s3 st sd s4 lost s5 frames num s6 kept
  have h1 : OnlyP C base s1 := swapsRun_only hk _ _
  have h3 : OnlyP C base s3 := acfSat_only (acfLim_only (modF_only h1 _ _) _ _) _ _
  have hd : OnlyP C base sd := ite_only (set2_only h3 _ _ _) h3
  have h4 : OnlyP C base s4 := acfShow_only (xfStep_only (set2_only hd _ _ _) _) _
  have h5 : OnlyP C base s5 := ite_only (ev_only (set_only h4 _ _) _) h4
  have h6 : OnlyP C base s6 := ite_only h5 (foldl_only h5 (fun t f ht => stageFor_only ht _ _))
  exact ite_only h4 (histRecord_only (evtFeed_only h6 _ _) _ _)

theorem acfStart_only (hk : OnlyP C base s) (n : Nat) (i : AcfIn) (h_regs : C .regs := by first | assumption | decide)
    (h_outbox : C .outbox := by first | assumption | decide) (h_hif : C .hif := by first | assumption | decide)
    (h_fe : C .fe := by first | assumption | decide) (h_trk : C .trk := by first | assumption | decide) :
    OnlyP C base (s.acfStart n i) := by
  unfold State.acfStart
  simp +contextual (maxDischargeDepth := 99) only [hk, h_trk, h_regs, h_outbox, h_hif, h_fe, Only_mk, ite_only, or_true,
      true_or,
      forall_const, imp_self, implies_true, evtPush_only, acfTake_only]

theorem acfAdvance_only (hk : OnlyP C base s) (n : Nat) (q : List AcfIn)
    (h_regs : C .regs := by first | assumption | decide) (h_outbox : C .outbox := by first | assumption | decide)
    (h_hif : C .hif := by first | assumption | decide) (h_fe : C .fe := by first | assumption | decide)
        (h_trk : C .trk := by first | assumption | decide) :
    OnlyP C base (acfAdvance n q s) := by
  induction q generalizing s with
  | nil => exact modF_only hk _ _
  | cons i q ih => exact ite_only (modF_only (acfStart_only hk _ _) _ _) (ih (acfStart_only hk _ _))

theorem acfPush_only (hk : OnlyP C base s) (n : Nat) (i : AcfIn) (h_regs : C .regs := by first | assumption | decide)
    (h_outbox : C .outbox := by first | assumption | decide) (h_hif : C .hif := by first | assumption | decide)
    (h_fe : C .fe := by first | assumption | decide) (h_trk : C .trk := by first | assumption | decide) :
    OnlyP C base (s.acfPush n i) := by
  unfold State.acfPush
  simp +contextual (maxDischargeDepth := 99) only [hk, h_trk, h_regs, h_outbox, h_hif, h_fe, Only_mk, ite_only, or_true,
      true_or,
      forall_const, imp_self, implies_true, modF_only, acfAdvance_only]

theorem acfOutput_only (hk : OnlyP C base s) (n : Nat) (h_regs : C .regs := by first | assumption | decide)
    (h_outbox : C .outbox := by first | assumption | decide) (h_hif : C .hif := by first | assumption | decide)
    (h_fe : C .fe := by first | assumption | decide) (h_trk : C .trk := by first | assumption | decide)
    (h_flt : C .flt := by first | assumption | decide) (h_mem : C .mem := by first | assumption | decide) :
    OnlyP C base (s.acfOutput n) := by
  unfold State.acfOutput
  try dsimp only
  repeat' split
  all_goals simp +contextual (maxDischargeDepth := 99) only [hk, h_regs, h_outbox, h_hif, h_fe, h_trk, h_flt, h_mem, Only_mk,
      ite_only, or_true, true_or, forall_const, imp_self, implies_true, memWork_only, acfEmit_only, acfAdvance_only]

theorem shotProcess_only (hk : OnlyP C base s) (n : Nat) (raw : List Raw4)
    (h_regs : C .regs := by first | assumption | decide) (h_outbox : C .outbox := by first | assumption | decide)
    (h_hif : C .hif := by first | assumption | decide) (h_fe : C .fe := by first | assumption | decide)
    (h_acq : C .acq := by first | assumption | decide) (h_trk : C .trk := by first | assumption | decide)
    (h_flt : C .flt := by first | assumption | decide) (h_mem : C .mem := by first | assumption | decide) :
    OnlyP C base (s.shotProcess n raw) := by
  unfold State.shotProcess
  try dsimp only
  repeat' split
  all_goals simp +contextual (maxDischargeDepth := 99) only [hk, h_regs, h_outbox, h_hif, h_fe, h_acq, h_trk, h_flt, h_mem,
      Only_mk, ite_only, or_true, true_or, forall_const, imp_self, implies_true, memWork_only, phaseShot_only, acfPush_only]

/-! ### Machine/Raman.lean -/

theorem ramanOvr_only (hk : OnlyP C base s) (n c : Nat) (r : Shot) (xs : List (Int × Bool))
    (h_regs : C .regs := by first | assumption | decide) (h_outbox : C .outbox := by first | assumption | decide)
    (h_hif : C .hif := by first | assumption | decide) (h_acq : C .acq := by first | assumption | decide)
    (h_flt : C .flt := by first | assumption | decide) :
    OnlyP C base (s.ramanOvr n c r xs) := by
  unfold State.ramanOvr
  simp +contextual (maxDischargeDepth := 99) only [hk, h_regs, h_outbox, h_hif, h_acq, h_flt, Only_mk, ite_only, or_true,
      true_or, forall_const, imp_self, implies_true, overrange_only, blkSeen_only, foldl_only]

theorem modDts_only (hk : OnlyP C base s) (n : Nat) (g : DtsSt → DtsSt) (h_fe : C .fe := by first | assumption | decide) :
    OnlyP C base (s.modDts n g) := by
  unfold State.modDts
  simp +contextual (maxDischargeDepth := 99) only [hk, h_fe, Only_mk, ite_only, or_true, true_or, forall_const, imp_self,
    implies_true, modF_only]

theorem dtsSwap_only (hk : OnlyP C base s) (n : Nat) (h_regs : C .regs := by first | assumption | decide)
    (h_fe : C .fe := by first | assumption | decide) :
    OnlyP C base (s.dtsSwap n) := by
  unfold State.dtsSwap
  try dsimp only
  repeat' split
  all_goals simp +contextual (maxDischargeDepth := 99) only [hk, h_regs, h_fe, Only_mk, ite_only, or_true, true_or,
    forall_const, imp_self, implies_true, set_only, modDts_only]

theorem ramanMark_only (hk : OnlyP C base s) (n : Nat) (l : List Nat) (h_fe : C .fe := by first | assumption | decide) :
    OnlyP C base (s.ramanMark n l) := by
  unfold State.ramanMark
  simp +contextual (maxDischargeDepth := 99) only [hk, h_fe, Only_mk, ite_only, or_true, true_or, forall_const, imp_self,
    implies_true, modF_only]

theorem ramanTake_only (hk : OnlyP C base s) (n : Nat) (stokes anti : List Int)
    (h_regs : C .regs := by first | assumption | decide) (h_outbox : C .outbox := by first | assumption | decide)
    (h_hif : C .hif := by first | assumption | decide) (h_fe : C .fe := by first | assumption | decide)
    (h_acq : C .acq := by first | assumption | decide) (h_flt : C .flt := by first | assumption | decide)
    (h_mem : C .mem := by first | assumption | decide) :
    OnlyP C base (s.ramanTake n stokes anti) := by
  unfold State.ramanTake
  try dsimp only
  repeat' split
  all_goals simp +contextual (maxDischargeDepth := 99) only [hk, h_regs, h_outbox, h_hif, h_fe, h_acq, h_flt, h_mem, Only_mk,
      ite_only, or_true, true_or, forall_const, imp_self, implies_true, set2_only, memWork_only, ramanOvr_only, modDts_only,
      dtsSwap_only, ramanMark_only]

theorem dtsDrop_only (hk : OnlyP C base s) (n : Nat) (first : Option Nat) (h_fe : C .fe := by first | assumption | decide) :
    OnlyP C base (s.dtsDrop n first).1 := by
  unfold State.dtsDrop
  exact ite_only (modDts_only (ramanMark_only hk _ _) _ _) (ramanMark_only hk _ _)

theorem dtsRestart_only (hk : OnlyP C base s) (n : Nat) (h_regs : C .regs := by first | assumption | decide)
    (h_outbox : C .outbox := by first | assumption | decide) (h_hif : C .hif := by first | assumption | decide)
    (h_fe : C .fe := by first | assumption | decide) :
    OnlyP C base (s.dtsRestart n) := ev_only (dtsDrop_only hk n _) _

theorem dtsDiscard_only (hk : OnlyP C base s) (n : Nat) (first : Option Nat)
    (h_regs : C .regs := by first | assumption | decide) (h_outbox : C .outbox := by first | assumption | decide)
    (h_hif : C .hif := by first | assumption | decide) (h_fe : C .fe := by first | assumption | decide) :
    OnlyP C base (s.dtsDiscard n first) :=
  ite_only (ev_only (addSat_only (dtsDrop_only hk n _) _ _) _) hk

theorem accPoison_only (hk : OnlyP C base s) (e : MemErr) (h_regs : C .regs := by first | assumption | decide)
    (h_outbox : C .outbox := by first | assumption | decide) (h_hif : C .hif := by first | assumption | decide)
    (h_fe : C .fe := by first | assumption | decide) :
    OnlyP C base (s.accPoison e) := by
  unfold State.accPoison
  try dsimp only
  repeat' split
  all_goals simp +contextual (maxDischargeDepth := 99) only [hk, h_regs, h_outbox, h_hif, h_fe, Only_mk, ite_only, or_true,
      true_or, forall_const, imp_self, implies_true, addSat_only, ev_only, modDts_only, foldl_only]

theorem scrubPass_only (hk : OnlyP C base s) (errs : List MemErr) (h_regs : C .regs := by first | assumption | decide)
    (h_outbox : C .outbox := by first | assumption | decide) (h_hif : C .hif := by first | assumption | decide)
    (h_fe : C .fe := by first | assumption | decide) (h_flt : C .flt := by first | assumption | decide)
    (h_mem : C .mem := by first | assumption | decide) :
    OnlyP C base (s.scrubPass errs) := by
  unfold State.scrubPass
  simp +contextual (maxDischargeDepth := 99) only [hk, h_regs, h_outbox, h_hif, h_fe, h_flt, h_mem, Only_mk, ite_only,
      or_true, true_or, forall_const, imp_self, implies_true, addWrap_only, ev_only, memErr_only, accPoison_only, foldl_only]

theorem dtsEnd_only (hk : OnlyP C base s) (n : Nat) (h_regs : C .regs := by first | assumption | decide)
    (h_outbox : C .outbox := by first | assumption | decide) (h_hif : C .hif := by first | assumption | decide)
    (h_fe : C .fe := by first | assumption | decide) (h_flt : C .flt := by first | assumption | decide) :
    OnlyP C base (s.dtsEnd n) := by
  unfold State.dtsEnd
  try dsimp only
  repeat' split
  all_goals simp +contextual (maxDischargeDepth := 99) only [hk, h_regs, h_outbox, h_hif, h_fe, h_flt, Only_mk, ite_only,
      or_true, true_or, forall_const, imp_self, implies_true, set_only, addWrap_only, ev_only, present_only, stageFor_only,
      modDts_only, dtsSwap_only, foldl_only]

end Sys2Proof.Machine
end

