-- ==== Sys2Proof/Laws/OnlyUnits.lean ====
section
/-! SUPPORT. Components changed: the monitor converter, the track interface, restarts, the launch engine and the Weirs. -/

namespace Sys2Proof.Machine

set_option Elab.async false
set_option linter.unusedSimpArgs false
set_option linter.unusedVariables false

variable {base s : State} {C : Comp → Prop}

/-! ### Machine/Duty.lean -/

theorem clampMark_only (hk : OnlyP C base s) (n : Nat) (w : Int) (h_regs : C .regs := by first | assumption | decide)
    (h_outbox : C .outbox := by first | assumption | decide) (h_hif : C .hif := by first | assumption | decide)
    (h_fe : C .fe := by first | assumption | decide) (h_flt : C .flt := by first | assumption | decide) :
    OnlyP C base (s.clampMark n w) := by
  unfold State.clampMark
  simp +contextual (maxDischargeDepth := 99) only [hk, h_regs, h_outbox, h_hif, h_fe, h_flt, Only_mk, ite_only, or_true,
    true_or, forall_const, imp_self, implies_true, present_only, modF_only]

theorem dutySync_only (hk : OnlyP C base s) (n : Nat) (h_regs : C .regs := by first | assumption | decide)
    (h_fe : C .fe := by first | assumption | decide) :
    OnlyP C base (s.dutySync n) := by
  unfold State.dutySync
  try dsimp only
  repeat' split
  all_goals simp +contextual (maxDischargeDepth := 99) only [hk, h_regs, h_fe, Only_mk, ite_only, or_true, true_or,
      forall_const, imp_self, implies_true, set_only, modF_only]

theorem clampSync_only (hk : OnlyP C base s) (n : Nat) (h_regs : C .regs := by first | assumption | decide)
    (h_outbox : C .outbox := by first | assumption | decide) (h_hif : C .hif := by first | assumption | decide)
    (h_fe : C .fe := by first | assumption | decide) (h_flt : C .flt := by first | assumption | decide) :
    OnlyP C base (s.clampSync n) := by
  unfold State.clampSync
  try dsimp only
  repeat' split
  all_goals simp +contextual (maxDischargeDepth := 99) only [hk, h_regs, h_outbox, h_hif, h_fe, h_flt, Only_mk, ite_only,
    or_true, true_or, forall_const, imp_self, implies_true, addSat_only, ev_only, clampMark_only, foldl_only, modF_only]

theorem lncSync_only (hk : OnlyP C base s) (n : Nat) (h_regs : C .regs := by first | assumption | decide)
    (h_outbox : C .outbox := by first | assumption | decide) (h_hif : C .hif := by first | assumption | decide)
    (h_fe : C .fe := by first | assumption | decide) (h_flt : C .flt := by first | assumption | decide) :
    OnlyP C base (s.lncSync n) := by
  unfold State.lncSync
  simp +contextual (maxDischargeDepth := 99) only [hk, h_regs, h_outbox, h_hif, h_fe, h_flt, Only_mk, ite_only, or_true,
    true_or, forall_const, imp_self, implies_true, dutySync_only, clampSync_only]

theorem gatesEval_only (hk : OnlyP C base s) (n : Nat) (h_fe : C .fe := by first | assumption | decide) :
    OnlyP C base (s.gatesEval n) := by
  unfold State.gatesEval
  simp +contextual (maxDischargeDepth := 99) only [hk, h_fe, Only_mk, ite_only, or_true, true_or, forall_const, imp_self,
    implies_true, modF_only]

theorem staticSet_only (hk : OnlyP C base s) (n : Nat) (h_fe : C .fe := by first | assumption | decide) :
    OnlyP C base (s.staticSet n) := by
  unfold State.staticSet
  simp +contextual (maxDischargeDepth := 99) only [hk, h_fe, Only_mk, ite_only, or_true, true_or, forall_const, imp_self,
      implies_true, modF_only, gatesEval_only]

theorem staticUp_only (hk : OnlyP C base s) (n : Nat) (h_regs : C .regs := by first | assumption | decide)
    (h_outbox : C .outbox := by first | assumption | decide) (h_hif : C .hif := by first | assumption | decide)
    (h_fe : C .fe := by first | assumption | decide) (h_flt : C .flt := by first | assumption | decide) :
    OnlyP C base (s.staticUp n) := by
  unfold State.staticUp
  simp +contextual (maxDischargeDepth := 99) only [hk, h_regs, h_outbox, h_hif, h_fe, h_flt, Only_mk, ite_only, or_true,
      true_or, forall_const, imp_self, implies_true, lncSync_only, staticSet_only]

theorem gatePols_only (hk : OnlyP C base s) (n : Nat) (offs : List Nat) (h_fe : C .fe := by first | assumption | decide) :
    OnlyP C base (s.gatePols n offs) := by
  unfold State.gatePols
  simp +contextual (maxDischargeDepth := 99) only [hk, h_fe, Only_mk, ite_only, or_true, true_or, forall_const, imp_self,
      implies_true, modF_only]

theorem staticDown_only (hk : OnlyP C base s) (n : Nat) (h_regs : C .regs := by first | assumption | decide)
    (h_outbox : C .outbox := by first | assumption | decide) (h_hif : C .hif := by first | assumption | decide)
    (h_fe : C .fe := by first | assumption | decide) (h_flt : C .flt := by first | assumption | decide) :
    OnlyP C base (s.staticDown n) := by
  unfold State.staticDown
  simp +contextual (maxDischargeDepth := 99) only [hk, h_regs, h_outbox, h_hif, h_fe, h_flt, Only_mk, ite_only, or_true,
    true_or, forall_const, imp_self, implies_true, modF_only, lncSync_only, gatesEval_only]

/-! ### Machine/Restart.lean -/

theorem dcbSet_only (hk : OnlyP C base s) (n : Nat) (h_regs : C .regs := by first | assumption | decide) :
    OnlyP C base (s.dcbSet n) := by
  unfold State.dcbSet
  simp +contextual (maxDischargeDepth := 99) only [hk, h_regs, Only_mk, ite_only, or_true, true_or, forall_const, imp_self,
    implies_true, set_only]

theorem restartNote_only (hk : OnlyP C base s) (n : Nat) (h_regs : C .regs := by first | assumption | decide)
    (h_outbox : C .outbox := by first | assumption | decide) (h_hif : C .hif := by first | assumption | decide) :
    OnlyP C base (s.restartNote n) := by
  unfold State.restartNote
  simp +contextual (maxDischargeDepth := 99) only [hk, h_regs, h_outbox, h_hif, Only_mk, ite_only, or_true, true_or,
    forall_const, imp_self, implies_true, set_only, ev_only]

theorem tabSwitch_only (hk : OnlyP C base s) (t : TabLoad) (h_tables : C .tables := by first | assumption | decide) :
    OnlyP C base (s.tabSwitch t) := by
  unfold State.tabSwitch
  simp +contextual (maxDischargeDepth := 99) only [hk, h_tables, Only_mk, ite_only, or_true, true_or, forall_const, imp_self,
      implies_true, setTword_only, foldl_only]

theorem tabLoads_only (hk : OnlyP C base s) (l : List TabLoad) (h_tables : C .tables := by first | assumption | decide) :
    OnlyP C base (s.tabLoads l) := by
  unfold State.tabLoads
  simp +contextual (maxDischargeDepth := 99) only [hk, h_tables, Only_mk, ite_only, or_true, true_or, forall_const, imp_self,
      implies_true, tabSwitch_only, foldl_only]

theorem bgSwitch_only (hk : OnlyP C base s) (n : Nat) (r0 : Tab Word) (start : Option NextShot)
    (h_acq : C .acq := by first | assumption | decide) :
    OnlyP C base (s.bgSwitch n r0 start) := by
  unfold State.bgSwitch
  try dsimp only
  repeat' split
  all_goals simp +contextual (maxDischargeDepth := 99) only [hk, h_acq, Only_mk, ite_only, or_true, true_or, forall_const,
      imp_self, implies_true, bgRestart_only, foldl_only]

theorem applyPart_only (hk : OnlyP C base s) (n : Nat) (d : DuePart) (start : Option NextShot)
    (h_regs : C .regs := by first | assumption | decide) (h_tables : C .tables := by first | assumption | decide)
    (h_outbox : C .outbox := by first | assumption | decide) (h_hif : C .hif := by first | assumption | decide)
    (h_fe : C .fe := by first | assumption | decide) (h_acq : C .acq := by first | assumption | decide)
    (h_trk : C .trk := by first | assumption | decide) :
    OnlyP C base (s.applyPart n d start) := by
  unfold State.applyPart
  extract_lets r0 r1 e g moved sd sg s1 s2 s3 s4
  have hd : OnlyP C base sd := ite_only (dutySync_only hk _) hk
  have hg : OnlyP C base sg := modF_only (tabLoads_only (withRegs_only hd _) _) _ _
  have h1 : OnlyP C base s1 := bgSyncFe_only (bgSwitch_only (gatePols_only (ite_only (staticSet_only hg _) hg) _ _) _ _ _) _
  have h2 : OnlyP C base s2 := ite_only (dcbSet_only h1 _) h1
  have h3 : OnlyP C base s3 := ite_only (restartNote_only h2 _) h2
  have h4 : OnlyP C base s4 := ite_only (dtsRestart_only h3 _) h3
  exact encCheck_only (ite_only (evtIdle_only h4 _) h4) _

theorem applyReached_only (hk : OnlyP C base s) (n : Nat) (x : NextShot) (isStart : Bool)
    (h_regs : C .regs := by first | assumption | decide) (h_tables : C .tables := by first | assumption | decide)
    (h_outbox : C .outbox := by first | assumption | decide) (h_hif : C .hif := by first | assumption | decide)
    (h_fe : C .fe := by first | assumption | decide) (h_acq : C .acq := by first | assumption | decide)
        (h_trk : C .trk := by first | assumption | decide) :
    OnlyP C base (s.applyReached n x isStart) := by
  unfold State.applyReached
  simp +contextual (maxDischargeDepth := 99) only [hk, h_trk, h_acq, h_regs, h_tables, h_outbox, h_hif, h_fe, Only_mk,
      ite_only,
      or_true,
    true_or, forall_const, imp_self, implies_true, modF_only, applyPart_only, foldl_only]

theorem addDue_only (hk : OnlyP C base s) (n : Nat) (d : DuePart) (h_fe : C .fe := by first | assumption | decide) :
    OnlyP C base (s.addDue n d) := by
  unfold State.addDue
  simp +contextual (maxDischargeDepth := 99) only [hk, h_fe, Only_mk, ite_only, or_true, true_or, forall_const, imp_self,
    implies_true, modF_only]

theorem setGroup_only (hk : OnlyP C base s) (g : Nat) (x : Option Group) (h_sch : C .sch := by first | assumption | decide) :
    OnlyP C base (s.setGroup g x) := by
  unfold State.setGroup
  simp +contextual (maxDischargeDepth := 99) only [hk, h_sch, Only_mk, ite_only, or_true, true_or, forall_const, imp_self,
    implies_true]

theorem groupEnd_only (hk : OnlyP C base s) (g code : Nat) (h_regs : C .regs := by first | assumption | decide)
    (h_hostMem : C .hostMem := by first | assumption | decide) (h_outbox : C .outbox := by first | assumption | decide)
    (h_hif : C .hif := by first | assumption | decide) (h_sch : C .sch := by first | assumption | decide) :
    OnlyP C base (s.groupEnd g code) := by
  unfold State.groupEnd
  try dsimp only
  repeat' split
  all_goals simp +contextual (maxDischargeDepth := 99) only [hk, h_regs, h_hostMem, h_outbox, h_hif, h_sch, Only_mk,
    ite_only, or_true, true_or, forall_const, imp_self, implies_true, set_only, ev_only, outcome_only, setGroup_only]

theorem groupsEnd_only (hk : OnlyP C base s) (p : Group → Bool) (code : Nat)
    (h_regs : C .regs := by first | assumption | decide) (h_hostMem : C .hostMem := by first | assumption | decide)
    (h_outbox : C .outbox := by first | assumption | decide) (h_hif : C .hif := by first | assumption | decide)
    (h_sch : C .sch := by first | assumption | decide) : OnlyP C base (s.groupsEnd p code) := by
  unfold State.groupsEnd
  refine foldl_only hk (fun t g ht => ?_)
  split
  · exact ite_only (groupEnd_only ht _ _) ht
  · exact ht

theorem groupsFault_only (hk : OnlyP C base s) (h_regs : C .regs := by first | assumption | decide)
    (h_hostMem : C .hostMem := by first | assumption | decide) (h_outbox : C .outbox := by first | assumption | decide)
    (h_hif : C .hif := by first | assumption | decide) (h_sch : C .sch := by first | assumption | decide) :
    OnlyP C base (s.groupsFault) := by
  unfold State.groupsFault
  try dsimp only
  repeat' split
  all_goals simp +contextual (maxDischargeDepth := 99) only [hk, h_regs, h_hostMem, h_outbox, h_hif, h_sch, Only_mk,
      ite_only, or_true, true_or, forall_const, imp_self, implies_true, groupsEnd_only]

theorem stopped_only (hk : OnlyP C base s) (n : Nat) (tripped : Bool) (h_regs : C .regs := by first | assumption | decide)
    (h_tables : C .tables := by first | assumption | decide) (h_hostMem : C .hostMem := by first | assumption | decide)
    (h_outbox : C .outbox := by first | assumption | decide) (h_hif : C .hif := by first | assumption | decide)
    (h_fe : C .fe := by first | assumption | decide) (h_acq : C .acq := by first | assumption | decide)
    (h_trk : C .trk := by first | assumption | decide) (h_sch : C .sch := by first | assumption | decide) :
    OnlyP C base (s.stopped n tripped) := by
  unfold State.stopped
  simp +contextual (maxDischargeDepth := 99) only [hk, h_regs, h_tables, h_hostMem, h_outbox, h_hif, h_fe, h_acq, h_trk,
      h_sch, Only_mk, ite_only, or_true, true_or, forall_const, imp_self, implies_true, modF_only, bgSyncFe_only,
      encCheck_only, dtsDiscard_only, applyPart_only, groupsEnd_only, foldl_only]

theorem nvCut_only (hk : OnlyP C base s) (h_freeIdx : C .freeIdx := by first | assumption | decide)
    (h_nvs : C .nvs := by first | assumption | decide) :
    OnlyP C base (s.nvCut) := by
  unfold State.nvCut
  try dsimp only
  repeat' split
  all_goals simp +contextual (maxDischargeDepth := 99) only [hk, h_freeIdx, h_nvs, Only_mk, ite_only, or_true, true_or,
    forall_const, imp_self, implies_true, nextFree_only, nvPut_only]

theorem abandon_only (hk : OnlyP C base s) (c : Cmd) (h_regs : C .regs := by first | assumption | decide)
    (h_outbox : C .outbox := by first | assumption | decide) (h_freeIdx : C .freeIdx := by first | assumption | decide)
    (h_hif : C .hif := by first | assumption | decide) (h_fe : C .fe := by first | assumption | decide)
    (h_acq : C .acq := by first | assumption | decide) (h_sch : C .sch := by first | assumption | decide)
    (h_pmc : C .pmc := by first | assumption | decide) (h_nvs : C .nvs := by first | assumption | decide) :
    OnlyP C base (s.abandon c) := by
  unfold State.abandon
  try dsimp only
  repeat' split
  all_goals simp +contextual (maxDischargeDepth := 99) only [hk, h_regs, h_outbox, h_freeIdx, h_hif, h_fe, h_acq, h_sch,
      h_pmc, h_nvs, Only_mk, ite_only, or_true, true_or, forall_const, imp_self, implies_true, setAcq_only, calShow_only,
      setPmc_only, pmcKick_only, nvCut_only]

/-! ### Machine/Launch.lean -/

theorem armEnd_only (hk : OnlyP C base s) (n : Nat) (code : Nat) (h_regs : C .regs := by first | assumption | decide)
    (h_hostMem : C .hostMem := by first | assumption | decide) (h_outbox : C .outbox := by first | assumption | decide)
    (h_hif : C .hif := by first | assumption | decide) (h_fe : C .fe := by first | assumption | decide) :
    OnlyP C base (s.armEnd n code) := by
  unfold State.armEnd
  try dsimp only
  repeat' split
  all_goals simp +contextual (maxDischargeDepth := 99) only [hk, h_regs, h_hostMem, h_outbox, h_hif, h_fe, Only_mk, ite_only,
    or_true, true_or, forall_const, imp_self, implies_true, set_only, ev_only, complete_only, modF_only]

theorem outputsSafe_only (hk : OnlyP C base s) (n : Nat) (h_regs : C .regs := by first | assumption | decide)
    (h_outbox : C .outbox := by first | assumption | decide) (h_hif : C .hif := by first | assumption | decide)
    (h_fe : C .fe := by first | assumption | decide) (h_flt : C .flt := by first | assumption | decide) :
    OnlyP C base (s.outputsSafe n) := by
  unfold State.outputsSafe
  simp +contextual (maxDischargeDepth := 99) only [hk, h_regs, h_outbox, h_hif, h_fe, h_flt, Only_mk, ite_only, or_true,
      true_or, forall_const, imp_self, implies_true, modF_only, lncSync_only]

theorem dropLost_only (hk : OnlyP C base s) (n : Nat) (h_hif : C .hif := by first | assumption | decide) :
    OnlyP C base (s.dropLost n) := by
  unfold State.dropLost
  try dsimp only
  repeat' split
  all_goals simp +contextual (maxDischargeDepth := 99) only [hk, h_hif, Only_mk, ite_only, or_true, true_or, forall_const,
      imp_self, implies_true]

theorem disarmDone_only (hk : OnlyP C base s) (n : Nat) (h_regs : C .regs := by first | assumption | decide)
    (h_hostMem : C .hostMem := by first | assumption | decide) (h_outbox : C .outbox := by first | assumption | decide)
    (h_hif : C .hif := by first | assumption | decide) (h_fe : C .fe := by first | assumption | decide) :
    OnlyP C base (s.disarmDone n) := by
  unfold State.disarmDone
  try dsimp only
  repeat' split
  all_goals simp +contextual (maxDischargeDepth := 99) only [hk, h_regs, h_hostMem, h_outbox, h_hif, h_fe, Only_mk, ite_only,
    or_true, true_or, forall_const, imp_self, implies_true, ev_only, complete_only, modF_only, foldl_only]

theorem trip_only (hk : OnlyP C base s) (n cause : Nat) (h_regs : C .regs := by first | assumption | decide)
    (h_tables : C .tables := by first | assumption | decide) (h_hostMem : C .hostMem := by first | assumption | decide)
    (h_outbox : C .outbox := by first | assumption | decide) (h_hif : C .hif := by first | assumption | decide)
    (h_fe : C .fe := by first | assumption | decide) (h_acq : C .acq := by first | assumption | decide)
    (h_sch : C .sch := by first | assumption | decide) (h_flt : C .flt := by first | assumption | decide)
        (h_trk : C .trk := by first | assumption | decide) :
    OnlyP C base (s.trip n cause) := by
  unfold State.trip
  simp +contextual (maxDischargeDepth := 99) only [hk, h_trk, h_regs, h_tables, h_hostMem, h_outbox, h_hif, h_fe, h_acq,
      h_sch,
      h_flt, Only_mk, ite_only, or_true, true_or, forall_const, imp_self, implies_true, set_only, set2_only, orReg_only,
      ev_only, modF_only, stopped_only, armEnd_only, outputsSafe_only, dropLost_only, disarmDone_only]

theorem safeLow_only (hk : OnlyP C base s) (h_regs : C .regs := by first | assumption | decide)
    (h_tables : C .tables := by first | assumption | decide) (h_hostMem : C .hostMem := by first | assumption | decide)
    (h_outbox : C .outbox := by first | assumption | decide) (h_safeN : C .safeN := by first | assumption | decide)
    (h_hif : C .hif := by first | assumption | decide) (h_fe : C .fe := by first | assumption | decide)
    (h_sch : C .sch := by first | assumption | decide) (h_flt : C .flt := by first | assumption | decide)
        (h_acq : C .acq := by first | assumption | decide) (h_trk : C .trk := by first | assumption | decide) :
    OnlyP C base (s.safeLow) := by
  unfold State.safeLow
  simp +contextual (maxDischargeDepth := 99) only [hk, h_trk, h_acq, h_regs, h_tables, h_hostMem, h_outbox, h_safeN, h_hif,
      h_fe,
      h_sch,
    h_flt, Only_mk, ite_only, or_true, true_or, forall_const, imp_self, implies_true, trip_only, foldl_only]

theorem envExceed_only (hk : OnlyP C base s) (n : Nat) (h_regs : C .regs := by first | assumption | decide)
    (h_tables : C .tables := by first | assumption | decide) (h_hostMem : C .hostMem := by first | assumption | decide)
    (h_outbox : C .outbox := by first | assumption | decide) (h_hif : C .hif := by first | assumption | decide)
    (h_fe : C .fe := by first | assumption | decide) (h_acq : C .acq := by first | assumption | decide)
    (h_sch : C .sch := by first | assumption | decide) (h_flt : C .flt := by first | assumption | decide)
        (h_trk : C .trk := by first | assumption | decide) :
    OnlyP C base (s.envExceed n) := by
  unfold State.envExceed
  simp +contextual (maxDischargeDepth := 99) only [hk, h_trk, h_regs, h_tables, h_hostMem, h_outbox, h_hif, h_fe, h_acq,
      h_sch,
      h_flt, Only_mk, ite_only, or_true, true_or, forall_const, imp_self, implies_true, present_only, modF_only,
      lncSync_only, trip_only]

theorem gridStart_only (hk : OnlyP C base s) (n : Nat) (a : Int) (h_fe : C .fe := by first | assumption | decide) :
    OnlyP C base (s.gridStart n a) := by
  unfold State.gridStart
  try dsimp only
  repeat' split
  all_goals simp +contextual (maxDischargeDepth := 99) only [hk, h_fe, Only_mk, ite_only, or_true, true_or, forall_const,
      imp_self, implies_true, modF_only]

theorem armStart_only (hk : OnlyP C base s) (n : Nat) (c : Cmd) (h_regs : C .regs := by first | assumption | decide)
    (h_hostMem : C .hostMem := by first | assumption | decide) (h_outbox : C .outbox := by first | assumption | decide)
    (h_hif : C .hif := by first | assumption | decide) (h_fe : C .fe := by first | assumption | decide)
    (h_acq : C .acq := by first | assumption | decide) :
    OnlyP C base (s.armStart n c) := by
  unfold State.armStart
  simp +contextual (maxDischargeDepth := 99) only [hk, h_regs, h_hostMem, h_outbox, h_hif, h_fe, h_acq, Only_mk, ite_only,
      or_true, true_or, forall_const, imp_self, implies_true, set_only, modF_only, alignAbort_only, calAbandon_only]

theorem selfTest_only (hk : OnlyP C base s) (n : Nat) (pass : Bool) (h_regs : C .regs := by first | assumption | decide)
    (h_hostMem : C .hostMem := by first | assumption | decide) (h_outbox : C .outbox := by first | assumption | decide)
    (h_hif : C .hif := by first | assumption | decide) (h_fe : C .fe := by first | assumption | decide)
    (h_flt : C .flt := by first | assumption | decide) :
    OnlyP C base (s.selfTest n pass) := by
  unfold State.selfTest
  try dsimp only
  repeat' split
  all_goals simp +contextual (maxDischargeDepth := 99) only [hk, h_regs, h_hostMem, h_outbox, h_hif, h_fe, h_flt, Only_mk,
    ite_only, or_true, true_or, forall_const, imp_self, implies_true, set_only, present_only, modF_only, staticUp_only,
    armEnd_only]

theorem armedEntry_only (hk : OnlyP C base s) (n : Nat) (h_regs : C .regs := by first | assumption | decide)
    (h_hostMem : C .hostMem := by first | assumption | decide) (h_outbox : C .outbox := by first | assumption | decide)
    (h_hif : C .hif := by first | assumption | decide) (h_fe : C .fe := by first | assumption | decide)
    (h_acq : C .acq := by first | assumption | decide) :
    OnlyP C base (s.armedEntry n) := by
  unfold State.armedEntry
  try dsimp only
  repeat' split
  all_goals simp +contextual (maxDischargeDepth := 99) only [hk, h_regs, h_hostMem, h_outbox, h_hif, h_fe, h_acq, Only_mk,
      ite_only, or_true, true_or, forall_const, imp_self, implies_true, set_only, ev_only, complete_only, modF_only,
      bgSyncFe_only, dtsRestart_only, dcbSet_only, restartNote_only, gridStart_only]

theorem disarmEffect_only (hk : OnlyP C base s) (n : Nat) (h_regs : C .regs := by first | assumption | decide)
    (h_tables : C .tables := by first | assumption | decide) (h_hostMem : C .hostMem := by first | assumption | decide)
    (h_outbox : C .outbox := by first | assumption | decide) (h_hif : C .hif := by first | assumption | decide)
    (h_fe : C .fe := by first | assumption | decide) (h_sch : C .sch := by first | assumption | decide)
    (h_flt : C .flt := by first | assumption | decide) (h_acq : C .acq := by first | assumption | decide)
        (h_trk : C .trk := by first | assumption | decide) :
    OnlyP C base (s.disarmEffect n) := by
  unfold State.disarmEffect
  simp +contextual (maxDischargeDepth := 99) only [hk, h_trk, h_acq, h_regs, h_tables, h_hostMem, h_outbox, h_hif, h_fe,
      h_sch,
      h_flt,
    Only_mk, ite_only, or_true, true_or, forall_const, imp_self, implies_true, set_only, modF_only, stopped_only,
    staticDown_only, disarmDone_only]

theorem disarmFe_only (hk : OnlyP C base s) (n : Nat) (c : Option Cmd) (h_regs : C .regs := by first | assumption | decide)
    (h_tables : C .tables := by first | assumption | decide) (h_hostMem : C .hostMem := by first | assumption | decide)
    (h_outbox : C .outbox := by first | assumption | decide) (h_hif : C .hif := by first | assumption | decide)
    (h_fe : C .fe := by first | assumption | decide) (h_acq : C .acq := by first | assumption | decide)
    (h_sch : C .sch := by first | assumption | decide) (h_flt : C .flt := by first | assumption | decide)
        (h_trk : C .trk := by first | assumption | decide) :
    OnlyP C base (s.disarmFe n c) := by
  unfold State.disarmFe
  try dsimp only
  repeat' split
  all_goals simp +contextual (maxDischargeDepth := 99) only [hk, h_trk, h_regs, h_tables, h_hostMem, h_outbox, h_hif, h_fe,
      h_acq,
      h_sch, h_flt, Only_mk, ite_only, or_true, true_or, forall_const, imp_self, implies_true, set_only, ev_only,
      complete_only, modF_only, staticDown_only, stopped_only, armEnd_only, disarmEffect_only]

/-! ### Machine/Weir.lean -/

theorem modW_only (hk : OnlyP C base s) (m : Nat) (g : WeirSt → WeirSt) (h_wmn : C .wmn := by first | assumption | decide) :
    OnlyP C base (s.modW m g) := by
  unfold State.modW
  simp +contextual (maxDischargeDepth := 99) only [hk, h_wmn, Only_mk, ite_only, or_true, true_or, forall_const, imp_self,
    implies_true]

theorem weirSync_only (hk : OnlyP C base s) (m : Nat) (h_wmn : C .wmn := by first | assumption | decide) :
    OnlyP C base (s.weirSync m) := by
  unfold State.weirSync
  simp +contextual (maxDischargeDepth := 99) only [hk, h_wmn, Only_mk, ite_only, or_true, true_or, forall_const, imp_self,
      implies_true, modW_only]

theorem weirAssert_only (hk : OnlyP C base s) (m : Nat) (h_regs : C .regs := by first | assumption | decide)
    (h_tables : C .tables := by first | assumption | decide) (h_hostMem : C .hostMem := by first | assumption | decide)
    (h_outbox : C .outbox := by first | assumption | decide) (h_hif : C .hif := by first | assumption | decide)
    (h_fe : C .fe := by first | assumption | decide) (h_sch : C .sch := by first | assumption | decide)
    (h_flt : C .flt := by first | assumption | decide) (h_acq : C .acq := by first | assumption | decide)
        (h_trk : C .trk := by first | assumption | decide) :
    OnlyP C base (s.weirAssert m) := by
  unfold State.weirAssert
  simp +contextual (maxDischargeDepth := 99) only [hk, h_trk, h_acq, h_regs, h_tables, h_hostMem, h_outbox, h_hif, h_fe,
      h_sch,
      h_flt,
    Only_mk, ite_only, or_true, true_or, forall_const, imp_self, implies_true, trip_only, foldl_only]

theorem weirSet_only (hk : OnlyP C base s) (m : Nat) (h_regs : C .regs := by first | assumption | decide)
    (h_tables : C .tables := by first | assumption | decide) (h_hostMem : C .hostMem := by first | assumption | decide)
    (h_outbox : C .outbox := by first | assumption | decide) (h_hif : C .hif := by first | assumption | decide)
    (h_fe : C .fe := by first | assumption | decide) (h_acq : C .acq := by first | assumption | decide)
    (h_sch : C .sch := by first | assumption | decide) (h_pmc : C .pmc := by first | assumption | decide)
    (h_wmn : C .wmn := by first | assumption | decide) (h_flt : C .flt := by first | assumption | decide)
        (h_trk : C .trk := by first | assumption | decide) :
    OnlyP C base (s.weirSet m) := by
  unfold State.weirSet
  simp +contextual (maxDischargeDepth := 99) only [hk, h_trk, h_regs, h_tables, h_hostMem, h_outbox, h_hif, h_fe, h_acq,
      h_sch,
      h_pmc, h_wmn, h_flt, Only_mk, ite_only, or_true, true_or, forall_const, imp_self, implies_true, set_only, set2_only,
      addSat_only, ev_only, present_only, pmcEvent_only, modW_only, weirAssert_only]

theorem weirEval_only (hk : OnlyP C base s) (m : Nat) (h_regs : C .regs := by first | assumption | decide)
    (h_tables : C .tables := by first | assumption | decide) (h_hostMem : C .hostMem := by first | assumption | decide)
    (h_outbox : C .outbox := by first | assumption | decide) (h_hif : C .hif := by first | assumption | decide)
    (h_fe : C .fe := by first | assumption | decide) (h_sch : C .sch := by first | assumption | decide)
    (h_wmn : C .wmn := by first | assumption | decide) (h_flt : C .flt := by first | assumption | decide)
        (h_acq : C .acq := by first | assumption | decide) (h_pmc : C .pmc := by first | assumption | decide)
            (h_trk : C .trk := by first | assumption | decide) :
    OnlyP C base (s.weirEval m) := by
  unfold State.weirEval
  simp +contextual (maxDischargeDepth := 99) only [hk, h_trk, h_acq, h_pmc, h_regs, h_tables, h_hostMem, h_outbox, h_hif,
      h_fe,
      h_sch, h_wmn,
    h_flt, Only_mk, ite_only, or_true, true_or, forall_const, imp_self, implies_true, modW_only, weirSet_only]

theorem weirClear_only (hk : OnlyP C base s) (m : Nat) (h_regs : C .regs := by first | assumption | decide)
    (h_outbox : C .outbox := by first | assumption | decide) (h_hif : C .hif := by first | assumption | decide)
    (h_wmn : C .wmn := by first | assumption | decide) :
    OnlyP C base (s.weirClear m) := by
  unfold State.weirClear
  simp +contextual (maxDischargeDepth := 99) only [hk, h_regs, h_outbox, h_hif, h_wmn, Only_mk, ite_only, or_true, true_or,
      forall_const, imp_self, implies_true, set_only, ev_only, modW_only]

theorem latchWrite_only (hk : OnlyP C base s) (v : Nat) (h_regs : C .regs := by first | assumption | decide)
    (h_outbox : C .outbox := by first | assumption | decide) (h_hif : C .hif := by first | assumption | decide)
    (h_wmn : C .wmn := by first | assumption | decide) :
    OnlyP C base (s.latchWrite v) := by
  unfold State.latchWrite
  simp +contextual (maxDischargeDepth := 99) only [hk, h_regs, h_outbox, h_hif, h_wmn, Only_mk, ite_only, or_true, true_or,
    forall_const, imp_self, implies_true, weirClear_only, foldl_only]

theorem weirRoute_only (hk : OnlyP C base s) (m0 : Nat) (h_regs : C .regs := by first | assumption | decide)
    (h_tables : C .tables := by first | assumption | decide) (h_hostMem : C .hostMem := by first | assumption | decide)
    (h_outbox : C .outbox := by first | assumption | decide) (h_hif : C .hif := by first | assumption | decide)
    (h_fe : C .fe := by first | assumption | decide) (h_sch : C .sch := by first | assumption | decide)
    (h_flt : C .flt := by first | assumption | decide) (h_acq : C .acq := by first | assumption | decide)
        (h_trk : C .trk := by first | assumption | decide) :
    OnlyP C base (s.weirRoute m0) := by
  unfold State.weirRoute
  simp +contextual (maxDischargeDepth := 99) only [hk, h_trk, h_acq, h_regs, h_tables, h_hostMem, h_outbox, h_hif, h_fe,
      h_sch,
      h_flt,
    Only_mk, ite_only, or_true, true_or, forall_const, imp_self, implies_true, weirAssert_only, foldl_only]

theorem weirGateOpen_only (hk : OnlyP C base s) (m : Nat) (launch : Bool)
    (h_regs : C .regs := by first | assumption | decide) (h_tables : C .tables := by first | assumption | decide)
    (h_hostMem : C .hostMem := by first | assumption | decide) (h_outbox : C .outbox := by first | assumption | decide)
    (h_hif : C .hif := by first | assumption | decide) (h_fe : C .fe := by first | assumption | decide)
    (h_acq : C .acq := by first | assumption | decide) (h_trk : C .trk := by first | assumption | decide)
    (h_sch : C .sch := by first | assumption | decide) (h_pmc : C .pmc := by first | assumption | decide)
    (h_wmn : C .wmn := by first | assumption | decide) (h_flt : C .flt := by first | assumption | decide) :
    OnlyP C base (s.weirGateOpen m launch) := by
  unfold State.weirGateOpen
  simp +contextual (maxDischargeDepth := 99) only [hk, h_regs, h_tables, h_hostMem, h_outbox, h_hif, h_fe, h_acq, h_trk,
      h_sch, h_pmc, h_wmn, h_flt, Only_mk, ite_only, or_true, true_or, forall_const, imp_self, implies_true, modW_only,
      weirSync_only, weirEval_only]

theorem weirAuto_only (hk : OnlyP C base s) (m : Nat) (start : Bool) (h_regs : C .regs := by first | assumption | decide)
    (h_outbox : C .outbox := by first | assumption | decide) (h_hif : C .hif := by first | assumption | decide)
    (h_wmn : C .wmn := by first | assumption | decide) :
    OnlyP C base (s.weirAuto m start) := by
  unfold State.weirAuto
  simp +contextual (maxDischargeDepth := 99) only [hk, h_regs, h_outbox, h_hif, h_wmn, Only_mk, ite_only, or_true, true_or,
      forall_const, imp_self, implies_true, weirClear_only]

theorem weirCross_only (hk : OnlyP C base s) (m : Nat) (uV : Int) (h_regs : C .regs := by first | assumption | decide)
    (h_tables : C .tables := by first | assumption | decide) (h_hostMem : C .hostMem := by first | assumption | decide)
    (h_outbox : C .outbox := by first | assumption | decide) (h_hif : C .hif := by first | assumption | decide)
    (h_fe : C .fe := by first | assumption | decide) (h_acq : C .acq := by first | assumption | decide)
    (h_sch : C .sch := by first | assumption | decide) (h_pmc : C .pmc := by first | assumption | decide)
    (h_wmn : C .wmn := by first | assumption | decide) (h_flt : C .flt := by first | assumption | decide)
        (h_trk : C .trk := by first | assumption | decide) :
    OnlyP C base (s.weirCross m uV) := by
  unfold State.weirCross
  simp +contextual (maxDischargeDepth := 99) only [hk, h_trk, h_regs, h_tables, h_hostMem, h_outbox, h_hif, h_fe, h_acq,
      h_sch,
      h_pmc, h_wmn, h_flt, Only_mk, ite_only, or_true, true_or, forall_const, imp_self, implies_true, modW_only,
      weirEval_only]

theorem weirUnres_only (hk : OnlyP C base s) (m : Nat) (h_regs : C .regs := by first | assumption | decide)
    (h_tables : C .tables := by first | assumption | decide) (h_hostMem : C .hostMem := by first | assumption | decide)
    (h_outbox : C .outbox := by first | assumption | decide) (h_hif : C .hif := by first | assumption | decide)
    (h_fe : C .fe := by first | assumption | decide) (h_sch : C .sch := by first | assumption | decide)
    (h_wmn : C .wmn := by first | assumption | decide) (h_flt : C .flt := by first | assumption | decide)
        (h_acq : C .acq := by first | assumption | decide) (h_trk : C .trk := by first | assumption | decide) :
    OnlyP C base (s.weirUnres m) := by
  unfold State.weirUnres
  simp +contextual (maxDischargeDepth := 99) only [hk, h_trk, h_acq, h_regs, h_tables, h_hostMem, h_outbox, h_hif, h_fe,
      h_sch,
      h_wmn,
    h_flt, Only_mk, ite_only, or_true, true_or, forall_const, imp_self, implies_true, set_only, modW_only, weirAssert_only]

theorem weirResolved_only (hk : OnlyP C base s) (m : Nat) (uV : Int) (h_regs : C .regs := by first | assumption | decide)
    (h_tables : C .tables := by first | assumption | decide) (h_hostMem : C .hostMem := by first | assumption | decide)
    (h_outbox : C .outbox := by first | assumption | decide) (h_hif : C .hif := by first | assumption | decide)
    (h_fe : C .fe := by first | assumption | decide) (h_sch : C .sch := by first | assumption | decide)
    (h_wmn : C .wmn := by first | assumption | decide) (h_flt : C .flt := by first | assumption | decide)
        (h_acq : C .acq := by first | assumption | decide) (h_pmc : C .pmc := by first | assumption | decide)
            (h_trk : C .trk := by first | assumption | decide) :
    OnlyP C base (s.weirResolved m uV) := by
  unfold State.weirResolved
  try dsimp only
  repeat' split
  all_goals simp +contextual (maxDischargeDepth := 99) only [hk, h_trk, h_acq, h_pmc, h_regs, h_tables, h_hostMem, h_outbox,
      h_hif,
      h_fe, h_sch,
    h_wmn, h_flt, Only_mk, ite_only, or_true, true_or, forall_const, imp_self, implies_true, set_only, ev_only, modW_only,
    weirCross_only]

theorem vddA18_only (hk : OnlyP C base s) (h_regs : C .regs := by first | assumption | decide)
    (h_tables : C .tables := by first | assumption | decide) (h_hostMem : C .hostMem := by first | assumption | decide)
    (h_outbox : C .outbox := by first | assumption | decide) (h_hif : C .hif := by first | assumption | decide)
    (h_fe : C .fe := by first | assumption | decide) (h_sch : C .sch := by first | assumption | decide)
    (h_wmn : C .wmn := by first | assumption | decide) (h_flt : C .flt := by first | assumption | decide)
        (h_acq : C .acq := by first | assumption | decide) (h_trk : C .trk := by first | assumption | decide) :
    OnlyP C base (s.vddA18) := by
  unfold State.vddA18
  simp +contextual (maxDischargeDepth := 99) only [hk, h_trk, h_acq, h_regs, h_tables, h_hostMem, h_outbox, h_hif, h_fe,
      h_sch,
      h_wmn,
    h_flt, Only_mk, ite_only, or_true, true_or, forall_const, imp_self, implies_true, weirUnres_only, foldl_only]

theorem weirOff_only (hk : OnlyP C base s) (m : Nat) (h_regs : C .regs := by first | assumption | decide)
    (h_wmn : C .wmn := by first | assumption | decide) :
    OnlyP C base (s.weirOff m) := by
  unfold State.weirOff
  simp +contextual (maxDischargeDepth := 99) only [hk, h_regs, h_wmn, Only_mk, ite_only, or_true, true_or, forall_const,
    imp_self, implies_true, set_only, modW_only]

theorem staleShow_only (hk : OnlyP C base s) (m : Nat) (h_regs : C .regs := by first | assumption | decide) :
    OnlyP C base (s.staleShow m) := by
  unfold State.staleShow
  simp +contextual (maxDischargeDepth := 99) only [hk, h_regs, Only_mk, ite_only, or_true, true_or, forall_const, imp_self,
    implies_true, setB_only]

theorem weirApply_only (hk : OnlyP C base s) (m : Nat) (r : Tab Word) (thr : Bool)
    (h_regs : C .regs := by first | assumption | decide) (h_tables : C .tables := by first | assumption | decide)
    (h_hostMem : C .hostMem := by first | assumption | decide) (h_outbox : C .outbox := by first | assumption | decide)
    (h_hif : C .hif := by first | assumption | decide) (h_fe : C .fe := by first | assumption | decide)
    (h_acq : C .acq := by first | assumption | decide) (h_trk : C .trk := by first | assumption | decide)
    (h_sch : C .sch := by first | assumption | decide) (h_pmc : C .pmc := by first | assumption | decide)
    (h_wmn : C .wmn := by first | assumption | decide) (h_flt : C .flt := by first | assumption | decide) :
    OnlyP C base (s.weirApply m r thr) := by
  unfold State.weirApply
  extract_lets r0 was changed src s1 wins stamp en s2
  have h2 : OnlyP C base s2 := staleShow_only (modW_only (withRegs_only (weirSync_only hk m) r) _ _) _
  exact ite_only (ite_only (weirOff_only h2 _) h2) (ite_only (weirUnres_only h2 _) (weirEval_only h2 _))

theorem weirWrite_only (hk : OnlyP C base s) (off : Nat) (v : Word) (h_regs : C .regs := by first | assumption | decide)
    (h_tables : C .tables := by first | assumption | decide) (h_hostMem : C .hostMem := by first | assumption | decide)
    (h_outbox : C .outbox := by first | assumption | decide) (h_hif : C .hif := by first | assumption | decide)
    (h_fe : C .fe := by first | assumption | decide) (h_acq : C .acq := by first | assumption | decide)
    (h_sch : C .sch := by first | assumption | decide) (h_pmc : C .pmc := by first | assumption | decide)
    (h_wmn : C .wmn := by first | assumption | decide) (h_flt : C .flt := by first | assumption | decide)
        (h_trk : C .trk := by first | assumption | decide) :
    OnlyP C base (s.weirWrite off v) := by
  unfold State.weirWrite
  extract_lets r
  split
  · exact ite_only (ev_only hk _) (weirApply_only hk _ _ _)
  · refine ite_only (ev_only hk _) ?_
    exact ite_only (foldl_only (Only_mk hk) (fun t m ht => staleShow_only ht _)) (Only_mk hk)

theorem rbCheck_only (hk : OnlyP C base s) (m : Nat) (upper : Bool) (h_regs : C .regs := by first | assumption | decide)
    (h_outbox : C .outbox := by first | assumption | decide) (h_hif : C .hif := by first | assumption | decide)
    (h_wmn : C .wmn := by first | assumption | decide) (h_flt : C .flt := by first | assumption | decide) :
    OnlyP C base (s.rbCheck m upper) := by
  unfold State.rbCheck
  try dsimp only
  repeat' split
  all_goals simp +contextual (maxDischargeDepth := 99) only [hk, h_regs, h_outbox, h_hif, h_wmn, h_flt, Only_mk, ite_only,
      or_true, true_or, forall_const, imp_self, implies_true, set_only, setI_only, ev_only, present_only, modW_only,
      staleShow_only]

theorem rbStale_only (hk : OnlyP C base s) (m : Nat) (upper : Bool) (h_regs : C .regs := by first | assumption | decide)
    (h_outbox : C .outbox := by first | assumption | decide) (h_hif : C .hif := by first | assumption | decide)
    (h_wmn : C .wmn := by first | assumption | decide) (h_flt : C .flt := by first | assumption | decide) :
    OnlyP C base (s.rbStale m upper) := by
  unfold State.rbStale
  simp +contextual (maxDischargeDepth := 99) only [hk, h_regs, h_outbox, h_hif, h_wmn, h_flt, Only_mk, ite_only, or_true,
    true_or, forall_const, imp_self, implies_true, ev_only, present_only, modW_only, staleShow_only]

end Sys2Proof.Machine
end

