-- ==== Sys2Proof/Laws/OnlyMode.lean ====
section
/-! SUPPORT. Components changed: modes, faults, the detector, and power. -/

namespace Sys2Proof.Machine

set_option Elab.async false
set_option linter.unusedSimpArgs false
set_option linter.unusedVariables false

variable {base s : State} {C : Comp → Prop}

/-! ### Machine/Mode.lean -/

theorem modeReg_only (hk : OnlyP C base s) (m : Nat) (h_regs : C .regs := by first | assumption | decide)
    (h_outbox : C .outbox := by first | assumption | decide) (h_hif : C .hif := by first | assumption | decide) :
    OnlyP C base (s.modeReg m) := by
  unfold State.modeReg
  simp +contextual (maxDischargeDepth := 99) only [hk, h_regs, h_outbox, h_hif, Only_mk, ite_only, or_true, true_or,
    forall_const, imp_self, implies_true, set_only, ev_only]

theorem sentGroup_only (hk : OnlyP C base s) (enter : Bool) (h_regs : C .regs := by first | assumption | decide)
    (h_outbox : C .outbox := by first | assumption | decide) (h_hif : C .hif := by first | assumption | decide)
    (h_fe : C .fe := by first | assumption | decide) (h_sch : C .sch := by first | assumption | decide) :
    OnlyP C base (s.sentGroup enter) := by
  unfold State.sentGroup
  simp +contextual (maxDischargeDepth := 99) only [hk, h_regs, h_outbox, h_hif, h_fe, h_sch, Only_mk, ite_only, or_true,
      true_or, forall_const, imp_self, implies_true, modF_only, dtsRestart_only, addDue_only, foldl_only]

theorem testModeEnd_only (hk : OnlyP C base s) (h_regs : C .regs := by first | assumption | decide) :
    OnlyP C base (s.testModeEnd) := by
  unfold State.testModeEnd
  simp +contextual (maxDischargeDepth := 99) only [hk, h_regs, Only_mk, ite_only, or_true, true_or, forall_const, imp_self,
    implies_true, set_only]

theorem raiseMin_only (hk : OnlyP C base s) (h_nvs : C .nvs := by first | assumption | decide) :
    OnlyP C base (s.raiseMin) := by
  unfold State.raiseMin
  simp +contextual (maxDischargeDepth := 99) only [hk, h_nvs, Only_mk, ite_only, or_true, true_or, forall_const, imp_self,
      implies_true]

theorem setWp_only (hk : OnlyP C base s) (h_regs : C .regs := by first | assumption | decide) :
    OnlyP C base (s.setWp) := by
  unfold State.setWp
  simp +contextual (maxDischargeDepth := 99) only [hk, h_regs, Only_mk, ite_only, or_true, true_or, forall_const, imp_self,
    implies_true, set_only]

theorem enterMode_only (hk : OnlyP C base s) (m : Nat) (h_regs : C .regs := by first | assumption | decide)
    (h_tables : C .tables := by first | assumption | decide) (h_hostMem : C .hostMem := by first | assumption | decide)
    (h_outbox : C .outbox := by first | assumption | decide) (h_hif : C .hif := by first | assumption | decide)
    (h_fe : C .fe := by first | assumption | decide) (h_acq : C .acq := by first | assumption | decide)
    (h_trk : C .trk := by first | assumption | decide) (h_sch : C .sch := by first | assumption | decide)
    (h_pmc : C .pmc := by first | assumption | decide) (h_flt : C .flt := by first | assumption | decide)
    (h_nvs : C .nvs := by first | assumption | decide) :
    OnlyP C base (s.enterMode m) := by
  unfold State.enterMode
  extract_lets m0 s1 s2 s3 s4 s5 s6 s7
  have h1 : OnlyP C base s1 := modeReg_only hk _
  have h2 : OnlyP C base s2 := ite_only h1 (set_only h1 _ _)
  have h3 : OnlyP C base s3 := ite_only (raiseMin_only (setWp_only h2)) (setWp_only h2)
  have h4 : OnlyP C base s4 := ite_only h3 (foldl_only h3 (fun t n ht => ite_only (disarmFe_only ht _ _) ht))
  have h5 : OnlyP C base s5 := ite_only (sentGroup_only h4 _) (ite_only (sentGroup_only h4 _) h4)
  have h6 : OnlyP C base s6 := ite_only (testModeEnd_only h5) h5
  exact weirRoute_only (ite_only (pmcStopAll_only h6) h6) _

theorem verifyToken_only (hk : OnlyP C base s) (k : TokenRead) (h_regs : C .regs := by first | assumption | decide)
    (h_outbox : C .outbox := by first | assumption | decide) (h_hif : C .hif := by first | assumption | decide)
    (h_pwr : C .pwr := by first | assumption | decide) : OnlyP C base (s.verifyToken k) := by
  unfold State.verifyToken
  exact Only_mk (ite_only (set_only hk _ _) (ev_only hk _))

theorem resAcc_only (hk : OnlyP C base s) (h_regs : C .regs := by first | assumption | decide)
    (h_pwr : C .pwr := by first | assumption | decide) : OnlyP C base s.resAcc := by
  unfold State.resAcc
  exact Only_mk (addWrap_only hk _ _)

theorem ladderDown_only (hk : OnlyP C base s) (x : Nat) (h_regs : C .regs := by first | assumption | decide)
    (h_outbox : C .outbox := by first | assumption | decide) (h_hif : C .hif := by first | assumption | decide)
    (h_tim : C .tim := by first | assumption | decide) (h_fe : C .fe := by first | assumption | decide)
    (h_acq : C .acq := by first | assumption | decide) (h_pwr : C .pwr := by first | assumption | decide) :
    OnlyP C base (s.ladderDown x) := by
  unfold State.ladderDown
  simp +contextual (maxDischargeDepth := 99) only [hk, h_regs, h_outbox, h_hif, h_tim, h_fe, h_acq, h_pwr, Only_mk, ite_only,
      or_true, true_or, forall_const, imp_self, implies_true, set_only, clockFree_only, bgSyncAll_only, bgDiscard_only,
      srAll_only, dtsDiscard_only, resAcc_only, foldl_only]

theorem bermExit_only (hk : OnlyP C base s) (h_fe : C .fe := by first | assumption | decide) :
    OnlyP C base (s.bermExit) := by
  unfold State.bermExit
  simp +contextual (maxDischargeDepth := 99) only [hk, h_fe, Only_mk, ite_only, or_true, true_or, forall_const, imp_self,
      implies_true, modF_only, foldl_only]

theorem ladderUp_only (hk : OnlyP C base s) (h_gtOff : C .gtOff := by first | assumption | decide)
    (h_regs : C .regs := by first | assumption | decide) (h_outbox : C .outbox := by first | assumption | decide)
    (h_freeIdx : C .freeIdx := by first | assumption | decide) (h_hif : C .hif := by first | assumption | decide)
    (h_fe : C .fe := by first | assumption | decide) (h_acq : C .acq := by first | assumption | decide)
    (h_mem : C .mem := by first | assumption | decide) (h_pwr : C .pwr := by first | assumption | decide) :
    OnlyP C base (s.ladderUp) := by
  unfold State.ladderUp
  simp +contextual (maxDischargeDepth := 99) only [hk, h_gtOff, h_regs, h_outbox, h_freeIdx, h_hif, h_fe, h_acq, h_mem,
      h_pwr, Only_mk, ite_only, or_true, true_or, forall_const, imp_self, implies_true, set_only, nextFree_only,
      bgSyncAll_only, srNone_only, resAcc_only, bermExit_only]

theorem faultWake_only (hk : OnlyP C base s) (h_gtOff : C .gtOff := by first | assumption | decide)
    (h_regs : C .regs := by first | assumption | decide) (h_outbox : C .outbox := by first | assumption | decide)
    (h_freeIdx : C .freeIdx := by first | assumption | decide) (h_hif : C .hif := by first | assumption | decide)
    (h_mem : C .mem := by first | assumption | decide) (h_pwr : C .pwr := by first | assumption | decide)
        (h_acq : C .acq := by first | assumption | decide) (h_fe : C .fe := by first | assumption | decide) :
    OnlyP C base (s.faultWake) := by
  unfold State.faultWake
  simp +contextual (maxDischargeDepth := 99) only [hk, h_fe, h_acq, h_gtOff, h_regs, h_outbox, h_freeIdx, h_hif, h_mem, h_pwr,
      Only_mk,
    ite_only, or_true, true_or, forall_const, imp_self, implies_true, set_only, ladderUp_only]

theorem ladderEnter_only (hk : OnlyP C base s) (h_regs : C .regs := by first | assumption | decide)
    (h_outbox : C .outbox := by first | assumption | decide) (h_hif : C .hif := by first | assumption | decide)
    (h_tim : C .tim := by first | assumption | decide) (h_fe : C .fe := by first | assumption | decide)
    (h_pwr : C .pwr := by first | assumption | decide) (h_acq : C .acq := by first | assumption | decide) :
    OnlyP C base (s.ladderEnter) := by
  unfold State.ladderEnter
  simp +contextual (maxDischargeDepth := 99) only [hk, h_acq, h_regs, h_outbox, h_hif, h_tim, h_fe, h_pwr, Only_mk, ite_only,
    or_true, true_or, forall_const, imp_self, implies_true, ladderDown_only]

theorem ladderLeave_only (hk : OnlyP C base s) (h_gtOff : C .gtOff := by first | assumption | decide)
    (h_regs : C .regs := by first | assumption | decide) (h_outbox : C .outbox := by first | assumption | decide)
    (h_freeIdx : C .freeIdx := by first | assumption | decide) (h_hif : C .hif := by first | assumption | decide)
    (h_mem : C .mem := by first | assumption | decide) (h_pwr : C .pwr := by first | assumption | decide)
        (h_acq : C .acq := by first | assumption | decide) (h_fe : C .fe := by first | assumption | decide) :
    OnlyP C base (s.ladderLeave) := by
  unfold State.ladderLeave
  try dsimp only
  repeat' split
  all_goals simp +contextual (maxDischargeDepth := 99) only [hk, h_fe, h_acq, h_gtOff, h_regs, h_outbox, h_freeIdx, h_hif,
      h_mem,
      h_pwr,
    Only_mk, ite_only, or_true, true_or, forall_const, imp_self, implies_true, ladderUp_only]

theorem accessWake_only (hk : OnlyP C base s) (h_gtOff : C .gtOff := by first | assumption | decide)
    (h_regs : C .regs := by first | assumption | decide) (h_outbox : C .outbox := by first | assumption | decide)
    (h_freeIdx : C .freeIdx := by first | assumption | decide) (h_hif : C .hif := by first | assumption | decide)
    (h_mem : C .mem := by first | assumption | decide) (h_pwr : C .pwr := by first | assumption | decide)
        (h_acq : C .acq := by first | assumption | decide) (h_fe : C .fe := by first | assumption | decide) :
    OnlyP C base (s.accessWake) := by
  unfold State.accessWake
  simp +contextual (maxDischargeDepth := 99) only [hk, h_fe, h_acq, h_gtOff, h_regs, h_outbox, h_freeIdx, h_hif, h_mem, h_pwr,
      Only_mk,
    ite_only, or_true, true_or, forall_const, imp_self, implies_true, ladderUp_only]

/-! ### Machine/Fault.lean -/

theorem modWin_only (hk : OnlyP C base s) (g : FltWin → FltWin) (h_flt : C .flt := by first | assumption | decide) :
    OnlyP C base (s.modWin g) := by
  unfold State.modWin
  simp +contextual (maxDischargeDepth := 99) only [hk, h_flt, Only_mk, ite_only, or_true, true_or, forall_const, imp_self,
    implies_true]

theorem applyRuleX_only (hk : OnlyP C base s) (n src : Nat) (h_regs : C .regs := by first | assumption | decide)
    (h_outbox : C .outbox := by first | assumption | decide) (h_hif : C .hif := by first | assumption | decide)
    (h_fe : C .fe := by first | assumption | decide) (h_flt : C .flt := by first | assumption | decide) :
    OnlyP C base (s.applyRuleX n src) := by
  unfold State.applyRuleX
  simp +contextual (maxDischargeDepth := 99) only [hk, h_regs, h_outbox, h_hif, h_fe, h_flt, Only_mk, ite_only, or_true,
      true_or, forall_const, imp_self, implies_true, set_only, set2_only, modF_only, dtsDiscard_only, dropLost_only,
      modWin_only]

theorem containApp_only (hk : OnlyP C base s) (h_regs : C .regs := by first | assumption | decide)
    (h_hostMem : C .hostMem := by first | assumption | decide) (h_outbox : C .outbox := by first | assumption | decide)
    (h_freeIdx : C .freeIdx := by first | assumption | decide) (h_hif : C .hif := by first | assumption | decide)
    (h_fe : C .fe := by first | assumption | decide) (h_acq : C .acq := by first | assumption | decide)
    (h_sch : C .sch := by first | assumption | decide) (h_pmc : C .pmc := by first | assumption | decide)
    (h_pwr : C .pwr := by first | assumption | decide) (h_nvs : C .nvs := by first | assumption | decide) :
    OnlyP C base (s.containApp) := by
  unfold State.containApp
  simp +contextual (maxDischargeDepth := 99) only [hk, h_regs, h_hostMem, h_outbox, h_freeIdx, h_hif, h_fe, h_acq, h_sch,
    h_pmc, h_pwr, h_nvs, Only_mk, ite_only, or_true, true_or, forall_const, imp_self, implies_true, complete_only,
    abandon_only, foldl_only]

theorem containScope_only (hk : OnlyP C base s) (src : Nat) (sc : Nat) (h_regs : C .regs := by first | assumption | decide)
    (h_tables : C .tables := by first | assumption | decide) (h_hostMem : C .hostMem := by first | assumption | decide)
    (h_outbox : C .outbox := by first | assumption | decide) (h_freeIdx : C .freeIdx := by first | assumption | decide)
    (h_hif : C .hif := by first | assumption | decide) (h_spill : C .spill := by first | assumption | decide)
    (h_fe : C .fe := by first | assumption | decide) (h_acq : C .acq := by first | assumption | decide)
    (h_trk : C .trk := by first | assumption | decide) (h_sch : C .sch := by first | assumption | decide)
    (h_pmc : C .pmc := by first | assumption | decide) (h_flt : C .flt := by first | assumption | decide)
    (h_pwr : C .pwr := by first | assumption | decide) (h_nvs : C .nvs := by first | assumption | decide) :
    OnlyP C base (s.containScope src sc) := by
  unfold State.containScope
  simp +contextual (maxDischargeDepth := 99) only [hk, h_regs, h_tables, h_hostMem, h_outbox, h_freeIdx, h_hif, h_spill,
      h_fe, h_acq, h_trk, h_sch, h_pmc, h_flt, h_pwr, h_nvs, Only_mk, ite_only, or_true, true_or, forall_const, imp_self,
      implies_true, set_only, spillClear_only, modF_only, calAbandon_only, pmcStopAll_only, trkContain_only, dtsDiscard_only,
      trip_only, applyRuleX_only, containApp_only]

theorem containMask_only (hk : OnlyP C base s) (src mask : Nat) (h_regs : C .regs := by first | assumption | decide)
    (h_tables : C .tables := by first | assumption | decide) (h_hostMem : C .hostMem := by first | assumption | decide)
    (h_outbox : C .outbox := by first | assumption | decide) (h_freeIdx : C .freeIdx := by first | assumption | decide)
    (h_hif : C .hif := by first | assumption | decide) (h_spill : C .spill := by first | assumption | decide)
    (h_fe : C .fe := by first | assumption | decide) (h_acq : C .acq := by first | assumption | decide)
    (h_trk : C .trk := by first | assumption | decide) (h_sch : C .sch := by first | assumption | decide)
    (h_pmc : C .pmc := by first | assumption | decide) (h_flt : C .flt := by first | assumption | decide)
    (h_pwr : C .pwr := by first | assumption | decide) (h_nvs : C .nvs := by first | assumption | decide) :
    OnlyP C base (s.containMask src mask) := by
  unfold State.containMask
  simp +contextual (maxDischargeDepth := 99) only [hk, h_regs, h_tables, h_hostMem, h_outbox, h_freeIdx, h_hif, h_spill,
    h_fe, h_acq, h_trk, h_sch, h_pmc, h_flt, h_pwr, h_nvs, Only_mk, ite_only, or_true, true_or, forall_const, imp_self,
    implies_true, modWin_only, containScope_only, foldl_only]

theorem recontain_only (hk : OnlyP C base s) (h_regs : C .regs := by first | assumption | decide)
    (h_tables : C .tables := by first | assumption | decide) (h_hostMem : C .hostMem := by first | assumption | decide)
    (h_outbox : C .outbox := by first | assumption | decide) (h_hif : C .hif := by first | assumption | decide)
    (h_spill : C .spill := by first | assumption | decide) (h_fe : C .fe := by first | assumption | decide)
    (h_trk : C .trk := by first | assumption | decide) (h_sch : C .sch := by first | assumption | decide)
    (h_pmc : C .pmc := by first | assumption | decide) (h_flt : C .flt := by first | assumption | decide)
    (h_pwr : C .pwr := by first | assumption | decide) (h_acq : C .acq := by first | assumption | decide) :
    OnlyP C base (s.recontain) := by
  unfold State.recontain
  simp +contextual (maxDischargeDepth := 99) only [hk, h_acq, h_regs, h_tables, h_hostMem, h_outbox, h_hif, h_spill, h_fe,
      h_trk,
    h_sch, h_pmc, h_flt, h_pwr, Only_mk, ite_only, or_true, true_or, forall_const, imp_self, implies_true, set_only,
    spillClear_only, pmcStopAll_only, trkContain_only, trip_only, foldl_only]

theorem fabricStop_only (hk : OnlyP C base s) (h_fe : C .fe := by first | assumption | decide) :
    OnlyP C base (s.fabricStop) := by
  unfold State.fabricStop
  simp +contextual (maxDischargeDepth := 99) only [hk, h_fe, Only_mk, ite_only, or_true, true_or, forall_const, imp_self,
      implies_true]

theorem fatalStore_only (hk : OnlyP C base s) (i gt m0 : Nat) (h_nvs : C .nvs := by first | assumption | decide) :
    OnlyP C base (s.fatalStore i gt m0) := by
  unfold State.fatalStore
  simp +contextual (maxDischargeDepth := 99) only [hk, h_nvs, Only_mk, ite_only, or_true, true_or, forall_const, imp_self,
      implies_true, nvPut_only]

theorem logShut_only (hk : OnlyP C base s) (h_hif : C .hif := by first | assumption | decide) :
    OnlyP C base (s.logShut) := by
  unfold State.logShut
  simp +contextual (maxDischargeDepth := 99) only [hk, h_hif, Only_mk, ite_only, or_true, true_or, forall_const, imp_self,
      implies_true, logMod_only]

theorem fatal_only (hk : OnlyP C base s) (i : Nat) (h_gtOff : C .gtOff := by first | assumption | decide)
    (h_regs : C .regs := by first | assumption | decide) (h_tables : C .tables := by first | assumption | decide)
    (h_hostMem : C .hostMem := by first | assumption | decide) (h_outbox : C .outbox := by first | assumption | decide)
    (h_freeIdx : C .freeIdx := by first | assumption | decide) (h_hif : C .hif := by first | assumption | decide)
    (h_fe : C .fe := by first | assumption | decide) (h_acq : C .acq := by first | assumption | decide)
    (h_trk : C .trk := by first | assumption | decide) (h_sch : C .sch := by first | assumption | decide)
    (h_pmc : C .pmc := by first | assumption | decide) (h_flt : C .flt := by first | assumption | decide)
    (h_mem : C .mem := by first | assumption | decide) (h_pwr : C .pwr := by first | assumption | decide)
    (h_nvs : C .nvs := by first | assumption | decide) : OnlyP C base (s.fatal i) := by
  unfold State.fatal
  extract_lets m0 gt s1 s2 fl s3 s4 t4 s5 s6 s7 fl8 pw8 s8
  have h1 : OnlyP C base s1 := set_only (set_only (set_only (set_only hk _ _) _ _) _ _) _ _
  have h2 : OnlyP C base s2 := foldl_only h1 (fun t n ht => trip_only ht _ _)
  have h3 : OnlyP C base s3 := Only_mk h2
  have h4 : OnlyP C base s4 := fabricStop_only (calFatal_only h3)
  have ht : OnlyP C base t4 := ite_only (testModeEnd_only h4) h4
  have h5 : OnlyP C base s5 := groupsFault_only (set_only (weirRoute_only (modeReg_only ht _) _) _ _)
  have h7 : OnlyP C base s7 := pmcSafeHold_only (aer_only (ladderUp_only h5) _)
  have h8 : OnlyP C base s8 := Only_mk h7
  exact fatalStore_only (logShut_only h8) _ _ _

theorem fatalAgain_only (hk : OnlyP C base s) (i : Nat) (h_gtOff : C .gtOff := by first | assumption | decide)
    (h_regs : C .regs := by first | assumption | decide) (h_tables : C .tables := by first | assumption | decide)
    (h_hostMem : C .hostMem := by first | assumption | decide) (h_outbox : C .outbox := by first | assumption | decide)
    (h_freeIdx : C .freeIdx := by first | assumption | decide) (h_hif : C .hif := by first | assumption | decide)
    (h_fe : C .fe := by first | assumption | decide) (h_acq : C .acq := by first | assumption | decide)
    (h_trk : C .trk := by first | assumption | decide) (h_sch : C .sch := by first | assumption | decide)
    (h_pmc : C .pmc := by first | assumption | decide) (h_flt : C .flt := by first | assumption | decide)
    (h_mem : C .mem := by first | assumption | decide) (h_pwr : C .pwr := by first | assumption | decide)
    (h_nvs : C .nvs := by first | assumption | decide) :
    OnlyP C base (s.fatalAgain i) := by
  unfold State.fatalAgain
  split
  · exact ite_only (fatalStore_only (nvPut_only (nvPut_only (set_only hk _ _) _ _) _ _) _ _ _) hk
  · exact hk

theorem captureMark_only (hk : OnlyP C base s) (i : Nat) (h_regs : C .regs := by first | assumption | decide)
    (h_hif : C .hif := by first | assumption | decide) :
    OnlyP C base (s.captureMark i) := by
  unfold State.captureMark
  simp +contextual (maxDischargeDepth := 99) only [hk, h_regs, h_hif, Only_mk, ite_only, or_true, true_or, forall_const,
      imp_self, implies_true, addSat_only, stickySet_only]

theorem windowTake_only (hk : OnlyP C base s) (i : Nat) (wire : Bool) (h_regs : C .regs := by first | assumption | decide)
    (h_outbox : C .outbox := by first | assumption | decide) (h_hif : C .hif := by first | assumption | decide)
    (h_flt : C .flt := by first | assumption | decide) :
    OnlyP C base (s.windowTake i wire) := by
  unfold State.windowTake
  try dsimp only
  repeat' split
  all_goals simp +contextual (maxDischargeDepth := 99) only [hk, h_regs, h_outbox, h_hif, h_flt, Only_mk, ite_only, or_true,
      true_or, forall_const, imp_self, implies_true, set_only, ev_only]

theorem react_only (hk : OnlyP C base s) (i : Nat) (h_gtOff : C .gtOff := by first | assumption | decide)
    (h_regs : C .regs := by first | assumption | decide) (h_tables : C .tables := by first | assumption | decide)
    (h_hostMem : C .hostMem := by first | assumption | decide) (h_outbox : C .outbox := by first | assumption | decide)
    (h_freeIdx : C .freeIdx := by first | assumption | decide) (h_hif : C .hif := by first | assumption | decide)
    (h_spill : C .spill := by first | assumption | decide) (h_fe : C .fe := by first | assumption | decide)
    (h_acq : C .acq := by first | assumption | decide) (h_trk : C .trk := by first | assumption | decide)
    (h_sch : C .sch := by first | assumption | decide) (h_pmc : C .pmc := by first | assumption | decide)
    (h_flt : C .flt := by first | assumption | decide) (h_mem : C .mem := by first | assumption | decide)
    (h_pwr : C .pwr := by first | assumption | decide) (h_nvs : C .nvs := by first | assumption | decide) :
    OnlyP C base (s.react i) := by
  unfold State.react
  try dsimp only
  repeat' split
  all_goals simp +contextual (maxDischargeDepth := 99) only [hk, h_gtOff, h_regs, h_tables, h_hostMem, h_outbox, h_freeIdx,
    h_hif, h_spill, h_fe, h_acq, h_trk, h_sch, h_pmc, h_flt, h_mem, h_pwr, h_nvs, Only_mk, ite_only, or_true, true_or,
    forall_const, imp_self, implies_true, containMask_only, fatal_only]

theorem aonLatch_only (hk : OnlyP C base s) (h_regs : C .regs := by first | assumption | decide)
    (h_flt : C .flt := by first | assumption | decide) : OnlyP C base s.aonLatch := by
  unfold State.aonLatch
  simp +contextual (maxDischargeDepth := 99) only [hk, h_regs, h_flt, Only_mk, ite_only, or_true, true_or, forall_const,
    imp_self, implies_true, set_only]

theorem captureSrc_only (hk : OnlyP C base s) (i : Nat) (wire : Bool) (h_gtOff : C .gtOff := by first | assumption | decide)
    (h_regs : C .regs := by first | assumption | decide) (h_tables : C .tables := by first | assumption | decide)
    (h_hostMem : C .hostMem := by first | assumption | decide) (h_outbox : C .outbox := by first | assumption | decide)
    (h_freeIdx : C .freeIdx := by first | assumption | decide) (h_hif : C .hif := by first | assumption | decide)
    (h_spill : C .spill := by first | assumption | decide) (h_fe : C .fe := by first | assumption | decide)
    (h_acq : C .acq := by first | assumption | decide) (h_trk : C .trk := by first | assumption | decide)
    (h_sch : C .sch := by first | assumption | decide) (h_pmc : C .pmc := by first | assumption | decide)
    (h_flt : C .flt := by first | assumption | decide) (h_mem : C .mem := by first | assumption | decide)
    (h_pwr : C .pwr := by first | assumption | decide) (h_nvs : C .nvs := by first | assumption | decide) :
    OnlyP C base (s.captureSrc i wire) := by
  unfold State.captureSrc
  simp +contextual (maxDischargeDepth := 99) only [hk, h_gtOff, h_regs, h_tables, h_hostMem, h_outbox, h_freeIdx, h_hif,
      h_spill, h_fe, h_acq, h_trk, h_sch, h_pmc, h_flt, h_mem, h_pwr, h_nvs, Only_mk, ite_only, or_true, true_or,
      forall_const, imp_self, implies_true, set_only, faultWake_only, fatalAgain_only, captureMark_only, windowTake_only,
      react_only]

theorem faultCapture_only (hk : OnlyP C base s) (i : Nat) (h_gtOff : C .gtOff := by first | assumption | decide)
    (h_regs : C .regs := by first | assumption | decide) (h_tables : C .tables := by first | assumption | decide)
    (h_hostMem : C .hostMem := by first | assumption | decide) (h_outbox : C .outbox := by first | assumption | decide)
    (h_freeIdx : C .freeIdx := by first | assumption | decide) (h_hif : C .hif := by first | assumption | decide)
    (h_spill : C .spill := by first | assumption | decide) (h_fe : C .fe := by first | assumption | decide)
    (h_acq : C .acq := by first | assumption | decide) (h_trk : C .trk := by first | assumption | decide)
    (h_sch : C .sch := by first | assumption | decide) (h_pmc : C .pmc := by first | assumption | decide)
    (h_flt : C .flt := by first | assumption | decide) (h_mem : C .mem := by first | assumption | decide)
    (h_pwr : C .pwr := by first | assumption | decide) (h_nvs : C .nvs := by first | assumption | decide) :
    OnlyP C base (s.faultCapture i) := by
  unfold State.faultCapture
  simp +contextual (maxDischargeDepth := 99) only [hk, h_gtOff, h_regs, h_tables, h_hostMem, h_outbox, h_freeIdx, h_hif,
    h_spill, h_fe, h_acq, h_trk, h_sch, h_pmc, h_flt, h_mem, h_pwr, h_nvs, Only_mk, ite_only, or_true, true_or, forall_const,
    imp_self, implies_true, captureSrc_only]

theorem wireCapture_only (hk : OnlyP C base s) (i : Nat) (h_gtOff : C .gtOff := by first | assumption | decide)
    (h_regs : C .regs := by first | assumption | decide) (h_tables : C .tables := by first | assumption | decide)
    (h_hostMem : C .hostMem := by first | assumption | decide) (h_outbox : C .outbox := by first | assumption | decide)
    (h_freeIdx : C .freeIdx := by first | assumption | decide) (h_hif : C .hif := by first | assumption | decide)
    (h_spill : C .spill := by first | assumption | decide) (h_fe : C .fe := by first | assumption | decide)
    (h_acq : C .acq := by first | assumption | decide) (h_trk : C .trk := by first | assumption | decide)
    (h_sch : C .sch := by first | assumption | decide) (h_pmc : C .pmc := by first | assumption | decide)
    (h_flt : C .flt := by first | assumption | decide) (h_mem : C .mem := by first | assumption | decide)
    (h_pwr : C .pwr := by first | assumption | decide) (h_nvs : C .nvs := by first | assumption | decide) :
    OnlyP C base (s.wireCapture i) := by
  unfold State.wireCapture
  simp +contextual (maxDischargeDepth := 99) only [hk, h_gtOff, h_regs, h_tables, h_hostMem, h_outbox, h_freeIdx, h_hif,
      h_spill, h_fe, h_acq, h_trk, h_sch, h_pmc, h_flt, h_mem, h_pwr, h_nvs, Only_mk, ite_only, or_true, true_or,
      forall_const, imp_self, implies_true, orReg_only, ev_only, captureSrc_only]

theorem windowClose_only (hk : OnlyP C base s) (h_regs : C .regs := by first | assumption | decide)
    (h_tables : C .tables := by first | assumption | decide) (h_hostMem : C .hostMem := by first | assumption | decide)
    (h_outbox : C .outbox := by first | assumption | decide) (h_hif : C .hif := by first | assumption | decide)
    (h_fe : C .fe := by first | assumption | decide) (h_sch : C .sch := by first | assumption | decide)
    (h_flt : C .flt := by first | assumption | decide) (h_acq : C .acq := by first | assumption | decide)
        (h_trk : C .trk := by first | assumption | decide) (h_pmc : C .pmc := by first | assumption | decide)
        (h_nvs : C .nvs := by first | assumption | decide) :
    OnlyP C base (s.windowClose) := by
  unfold State.windowClose
  try dsimp only
  repeat' split
  all_goals simp +contextual (maxDischargeDepth := 99) only [hk, h_trk, h_pmc, h_nvs, h_acq, h_regs, h_tables, h_hostMem,
      h_outbox, h_hif, h_fe,
      h_sch,
    h_flt, Only_mk, ite_only, or_true, true_or, forall_const, imp_self, implies_true, set_only, ev_only, aer_only,
    stage_only, enterMode_only]

theorem drive_only (hk : OnlyP C base s) (i kind : Nat) (h_flt : C .flt := by first | assumption | decide) :
    OnlyP C base (s.drive i kind) := by
  unfold State.drive
  simp +contextual (maxDischargeDepth := 99) only [hk, h_flt, Only_mk, ite_only, or_true, true_or, forall_const, imp_self,
      implies_true]

theorem injReal_only (hk : OnlyP C base s) (b : Bool) (h_flt : C .flt := by first | assumption | decide) :
    OnlyP C base (s.injReal b) := by
  unfold State.injReal
  simp +contextual (maxDischargeDepth := 99) only [hk, h_flt, Only_mk, ite_only, or_true, true_or, forall_const, imp_self,
      implies_true]

theorem srcClear_only (hk : OnlyP C base s) (i : Nat) (h_flt : C .flt := by first | assumption | decide) :
    OnlyP C base (s.srcClear i) := by
  unfold State.srcClear
  try dsimp only
  repeat' split
  all_goals simp +contextual (maxDischargeDepth := 99) only [hk, h_flt, Only_mk, ite_only, or_true, true_or, forall_const,
      imp_self, implies_true, unpresent_only, drive_only, injReal_only]

theorem uncontain_only (hk : OnlyP C base s) (mask : Nat) (h_regs : C .regs := by first | assumption | decide)
    (h_outbox : C .outbox := by first | assumption | decide) (h_hif : C .hif := by first | assumption | decide)
    (h_fe : C .fe := by first | assumption | decide) (h_trk : C .trk := by first | assumption | decide)
    (h_flt : C .flt := by first | assumption | decide) :
    OnlyP C base (s.uncontain mask) := by
  unfold State.uncontain
  simp +contextual (maxDischargeDepth := 99) only [hk, h_regs, h_outbox, h_hif, h_fe, h_trk, h_flt, Only_mk, ite_only,
    or_true, true_or, forall_const, imp_self, implies_true, setReg_only, set_only, modF_only, trkResume_only, foldl_only]

theorem recover_only (hk : OnlyP C base s) (c : Cmd) (mask : Nat) (h_regs : C .regs := by first | assumption | decide)
    (h_hostMem : C .hostMem := by first | assumption | decide) (h_outbox : C .outbox := by first | assumption | decide)
    (h_hif : C .hif := by first | assumption | decide) (h_fe : C .fe := by first | assumption | decide)
    (h_trk : C .trk := by first | assumption | decide) (h_flt : C .flt := by first | assumption | decide) :
    OnlyP C base (s.recover c mask) := by
  unfold State.recover
  simp +contextual (maxDischargeDepth := 99) only [hk, h_regs, h_hostMem, h_outbox, h_hif, h_fe, h_trk, h_flt, Only_mk,
    ite_only, or_true, true_or, forall_const, imp_self, implies_true, ev_only, complete_only, uncontain_only]

theorem appReleased_only (hk : OnlyP C base s) (h_regs : C .regs := by first | assumption | decide)
    (h_hostMem : C .hostMem := by first | assumption | decide) (h_outbox : C .outbox := by first | assumption | decide)
    (h_hif : C .hif := by first | assumption | decide) (h_flt : C .flt := by first | assumption | decide)
    (h_pwr : C .pwr := by first | assumption | decide) :
    OnlyP C base (s.appReleased) := by
  unfold State.appReleased
  try dsimp only
  repeat' split
  all_goals simp +contextual (maxDischargeDepth := 99) only [hk, h_regs, h_hostMem, h_outbox, h_hif, h_flt, h_pwr, Only_mk,
    ite_only, or_true, true_or, forall_const, imp_self, implies_true, complete_only]

theorem inject_only (hk : OnlyP C base s) (c : Cmd) (src kind dur : Nat)
    (h_regs : C .regs := by first | assumption | decide) (h_hostMem : C .hostMem := by first | assumption | decide)
    (h_outbox : C .outbox := by first | assumption | decide) (h_hif : C .hif := by first | assumption | decide)
    (h_flt : C .flt := by first | assumption | decide) :
    OnlyP C base (s.inject c src kind dur) := by
  unfold State.inject
  simp +contextual (maxDischargeDepth := 99) only [hk, h_regs, h_hostMem, h_outbox, h_hif, h_flt, Only_mk, ite_only, or_true,
      true_or, forall_const, imp_self, implies_true, set_only, setB_only, ev_only, stickySet_only, complete_only, drive_only]

theorem injEnd_only (hk : OnlyP C base s) (real : Bool) (h_regs : C .regs := by first | assumption | decide)
    (h_hostMem : C .hostMem := by first | assumption | decide) (h_outbox : C .outbox := by first | assumption | decide)
    (h_hif : C .hif := by first | assumption | decide) (h_flt : C .flt := by first | assumption | decide) :
    OnlyP C base (s.injEnd real) := by
  unfold State.injEnd
  try dsimp only
  repeat' split
  all_goals simp +contextual (maxDischargeDepth := 99) only [hk, h_regs, h_hostMem, h_outbox, h_hif, h_flt, Only_mk,
      ite_only, or_true, true_or, forall_const, imp_self, implies_true, set_only, ev_only, present_only, unpresent_only,
      complete_only, modWin_only]

/-! ### Machine/Detect.lean -/

theorem stageWhole_only (hk : OnlyP C base s) (n : Nat) (f : Frame) (work : Nat)
    (h_hif : C .hif := by first | assumption | decide) :
    OnlyP C base (s.stageWhole n f work) := by
  unfold State.stageWhole
  simp +contextual (maxDischargeDepth := 99) only [hk, h_hif, Only_mk, ite_only, or_true, true_or, forall_const, imp_self,
      implies_true, stageFor_only]

theorem eventOut_only (hk : OnlyP C base s) (r map : Tab Word) (n : Nat) (h : Stamp) (cells : List CellE) (dets : List Det)
    (h_regs : C .regs := by first | assumption | decide) (h_outbox : C .outbox := by first | assumption | decide)
    (h_freeIdx : C .freeIdx := by first | assumption | decide) (h_hif : C .hif := by first | assumption | decide)
    (h_fe : C .fe := by first | assumption | decide) :
    OnlyP C base (s.eventOut r map n h cells dets) := by
  unfold State.eventOut
  simp +contextual (maxDischargeDepth := 99) only [hk, h_regs, h_outbox, h_freeIdx, h_hif, h_fe, Only_mk, ite_only, or_true,
      true_or, forall_const, imp_self, implies_true, addSat_only, nextFree_only, ev_only, modF_only, stageWhole_only]

theorem trackOut_only (hk : OnlyP C base s) (r map : Tab Word) (n : Nat) (h : Stamp) (tracks gone : List (Nat × Track))
    (h_freeIdx : C .freeIdx := by first | assumption | decide) (h_hif : C .hif := by first | assumption | decide)
    (h_fe : C .fe := by first | assumption | decide) :
    OnlyP C base (s.trackOut r map n h tracks gone) := by
  unfold State.trackOut
  try dsimp only
  repeat' split
  all_goals simp +contextual (maxDischargeDepth := 99) only [hk, h_freeIdx, h_hif, h_fe, Only_mk, ite_only, or_true, true_or,
      forall_const, imp_self, implies_true, nextFree_only, modF_only, stageWhole_only]

theorem trackRun_only (hk : OnlyP C base s) (r map : Tab Word) (n : Nat) (h : Stamp) (sent : Option SentForm)
    (cells : List CellE) (rules : List RuleSt) (h_regs : C .regs := by first | assumption | decide)
        (h_outbox : C .outbox := by first | assumption | decide) (h_freeIdx : C .freeIdx := by first | assumption | decide)
        (h_hif : C .hif := by first | assumption | decide) (h_fe : C .fe := by first | assumption | decide) :
    OnlyP C base (s.trackRun r map n h sent cells rules) := by
  unfold State.trackRun
  extract_lets e c ms old res gone kept made now conf flag s1 s2 s3 s4
  have hf : ∀ (x : Bool) (f : FRef) (t : State),
      OnlyP C base t → OnlyP C base (flag x f t) := fun x f t ht => ite_only (ev_only ht _) ht
  have h1 : OnlyP C base s1 := modF_only (set_only hk _ _) _ _
  have h3 : OnlyP C base s3 := hf _ _ _ (hf _ _ _ (hf _ _ _ h1))
  have h4 : OnlyP C base s4 := ite_only h3 (ev_only (addSat_only h3 _ _) _)
  exact trackOut_only h4 _ _ _ _ _ _

theorem wakeDetect_only (hk : OnlyP C base s) (r : Tab Word) (n : Nat) (sent : Option SentForm) (dets : List Det)
    (h_regs : C .regs := by first | assumption | decide) (h_tables : C .tables := by first | assumption | decide)
    (h_hostMem : C .hostMem := by first | assumption | decide) (h_outbox : C .outbox := by first | assumption | decide)
    (h_hif : C .hif := by first | assumption | decide) (h_fe : C .fe := by first | assumption | decide)
    (h_sch : C .sch := by first | assumption | decide) (h_flt : C .flt := by first | assumption | decide)
        (h_acq : C .acq := by first | assumption | decide) (h_trk : C .trk := by first | assumption | decide)
            (h_pmc : C .pmc := by first | assumption | decide) (h_nvs : C .nvs := by first | assumption | decide) :
    OnlyP C base (s.wakeDetect r n sent dets) := by
  unfold State.wakeDetect
  simp +contextual (maxDischargeDepth := 99) only [hk, h_trk, h_pmc, h_nvs, h_acq, h_regs, h_tables, h_hostMem, h_outbox,
      h_hif, h_fe, h_sch,
      h_flt,
    Only_mk, ite_only, or_true, true_or, forall_const, imp_self, implies_true, ev_only, enterMode_only]

theorem evtEval_only (hk : OnlyP C base s) (n : Nat) (x : EvtOut) (h_regs : C .regs := by first | assumption | decide)
    (h_tables : C .tables := by first | assumption | decide) (h_hostMem : C .hostMem := by first | assumption | decide)
    (h_outbox : C .outbox := by first | assumption | decide) (h_freeIdx : C .freeIdx := by first | assumption | decide)
    (h_hif : C .hif := by first | assumption | decide) (h_fe : C .fe := by first | assumption | decide)
    (h_acq : C .acq := by first | assumption | decide) (h_trk : C .trk := by first | assumption | decide)
    (h_sch : C .sch := by first | assumption | decide) (h_pmc : C .pmc := by first | assumption | decide)
    (h_flt : C .flt := by first | assumption | decide) (h_nvs : C .nvs := by first | assumption | decide) :
    OnlyP C base (s.evtEval n x) := by
  unfold State.evtEval
  simp +contextual (maxDischargeDepth := 99) only [hk, h_regs, h_tables, h_hostMem, h_outbox, h_freeIdx, h_hif, h_fe, h_acq,
      h_trk, h_sch, h_pmc, h_flt, h_nvs, Only_mk, ite_only, or_true, true_or, forall_const, imp_self, implies_true,
      modF_only, encCheck_only, evtShow_only, eventOut_only, trackRun_only, wakeDetect_only]

theorem energyEnd_only (hk : OnlyP C base s) (n : Nat) (h_regs : C .regs := by first | assumption | decide)
    (h_tables : C .tables := by first | assumption | decide) (h_hostMem : C .hostMem := by first | assumption | decide)
    (h_outbox : C .outbox := by first | assumption | decide) (h_freeIdx : C .freeIdx := by first | assumption | decide)
    (h_hif : C .hif := by first | assumption | decide) (h_fe : C .fe := by first | assumption | decide)
    (h_acq : C .acq := by first | assumption | decide) (h_trk : C .trk := by first | assumption | decide)
    (h_sch : C .sch := by first | assumption | decide) (h_flt : C .flt := by first | assumption | decide)
        (h_pmc : C .pmc := by first | assumption | decide) (h_nvs : C .nvs := by first | assumption | decide) :
    OnlyP C base (s.energyEnd n) := by
  unfold State.energyEnd
  try dsimp only
  repeat' split
  all_goals simp +contextual (maxDischargeDepth := 99) only [hk, h_pmc, h_nvs, h_regs, h_tables, h_hostMem, h_outbox,
      h_freeIdx, h_hif,
      h_fe, h_acq, h_trk, h_sch, h_flt, Only_mk, ite_only, or_true, true_or, forall_const, imp_self, implies_true,
      evtAdvance_only, evtEval_only]

/-! ### Machine/Power.lean -/

/-- An event of the main domain keeps what its action keeps. -/
theorem main_only (hk : OnlyP C base s) (t : Nat) (f : State → State) (hf : ∀ x, OnlyP C base x → OnlyP C base (f x))
    (h_now : C .now := by first | assumption | decide) (h_regs : C .regs := by first | assumption | decide)
    (h_sch : C .sch := by first | assumption | decide) :
    OnlyP C base (s.main t f) := ite_only (hf _ (at_only hk t)) (at_only hk t)

/-- An event of the signal fabric keeps what its action keeps. -/
theorem fabric_only (hk : OnlyP C base s) (t : Nat) (f : State → State) (hf : ∀ x, OnlyP C base x → OnlyP C base (f x))
    (h_now : C .now := by first | assumption | decide) (h_regs : C .regs := by first | assumption | decide)
    (h_sch : C .sch := by first | assumption | decide) :
    OnlyP C base (s.fabric t f) := main_only hk t _ (fun x hx => ite_only hx (hf x hx))

theorem safeFollow_only (hk : OnlyP C base s) (h_regs : C .regs := by first | assumption | decide)
    (h_tables : C .tables := by first | assumption | decide) (h_hostMem : C .hostMem := by first | assumption | decide)
    (h_outbox : C .outbox := by first | assumption | decide) (h_safeN : C .safeN := by first | assumption | decide)
    (h_hif : C .hif := by first | assumption | decide) (h_fe : C .fe := by first | assumption | decide)
    (h_sch : C .sch := by first | assumption | decide) (h_flt : C .flt := by first | assumption | decide)
        (h_acq : C .acq := by first | assumption | decide) (h_trk : C .trk := by first | assumption | decide) :
    OnlyP C base (s.safeFollow) := by
  unfold State.safeFollow
  simp +contextual (maxDischargeDepth := 99) only [hk, h_trk, h_acq, h_regs, h_tables, h_hostMem, h_outbox, h_safeN, h_hif,
      h_fe,
      h_sch,
    h_flt, Only_mk, ite_only, or_true, true_or, forall_const, imp_self, implies_true, safeLow_only]

theorem railsHold_only (hk : OnlyP C base s) (h_regs : C .regs := by first | assumption | decide)
    (h_outbox : C .outbox := by first | assumption | decide) (h_hif : C .hif := by first | assumption | decide)
    (h_flt : C .flt := by first | assumption | decide) :
    OnlyP C base (s.railsHold) := by
  unfold State.railsHold
  simp +contextual (maxDischargeDepth := 99) only [hk, h_regs, h_outbox, h_hif, h_flt, Only_mk, ite_only, or_true, true_or,
      forall_const, imp_self, implies_true, present_only]

theorem coldReset_only (hk : OnlyP C base s) (mode : Nat) (h_gtOff : C .gtOff := by first | assumption | decide)
    (h_regs : C .regs := by first | assumption | decide) (h_tables : C .tables := by first | assumption | decide)
    (h_hostMem : C .hostMem := by first | assumption | decide) (h_outbox : C .outbox := by first | assumption | decide)
    (h_freeIdx : C .freeIdx := by first | assumption | decide) (h_safeN : C .safeN := by first | assumption | decide)
    (h_snaps : C .snaps := by first | assumption | decide) (h_hif : C .hif := by first | assumption | decide)
    (h_spill : C .spill := by first | assumption | decide) (h_tim : C .tim := by first | assumption | decide)
    (h_fe : C .fe := by first | assumption | decide) (h_acq : C .acq := by first | assumption | decide)
    (h_trk : C .trk := by first | assumption | decide) (h_sch : C .sch := by first | assumption | decide)
    (h_pmc : C .pmc := by first | assumption | decide) (h_wmn : C .wmn := by first | assumption | decide)
    (h_flt : C .flt := by first | assumption | decide) (h_mem : C .mem := by first | assumption | decide)
    (h_pwr : C .pwr := by first | assumption | decide)
    (h_nvs : C .nvs := by first | assumption | decide) : OnlyP C base (s.coldReset mode) := by
  have h := nvCut_only hk
  unfold State.coldReset
  refine railsHold_only (setB_only (set_only ?_ _ _) _ _)
  dsimp only
  exact Only_mk h

theorem warmReset_only (hk : OnlyP C base s) (cause : Nat) (h_gtOff : C .gtOff := by first | assumption | decide)
    (h_regs : C .regs := by first | assumption | decide) (h_tables : C .tables := by first | assumption | decide)
    (h_hostMem : C .hostMem := by first | assumption | decide) (h_outbox : C .outbox := by first | assumption | decide)
    (h_freeIdx : C .freeIdx := by first | assumption | decide) (h_safeN : C .safeN := by first | assumption | decide)
    (h_snaps : C .snaps := by first | assumption | decide) (h_hif : C .hif := by first | assumption | decide)
    (h_spill : C .spill := by first | assumption | decide) (h_tim : C .tim := by first | assumption | decide)
    (h_fe : C .fe := by first | assumption | decide) (h_acq : C .acq := by first | assumption | decide)
    (h_trk : C .trk := by first | assumption | decide) (h_sch : C .sch := by first | assumption | decide)
    (h_pmc : C .pmc := by first | assumption | decide) (h_wmn : C .wmn := by first | assumption | decide)
    (h_flt : C .flt := by first | assumption | decide) (h_mem : C .mem := by first | assumption | decide)
    (h_pwr : C .pwr := by first | assumption | decide)
    (h_nvs : C .nvs := by first | assumption | decide) : OnlyP C base (s.warmReset cause) := by
  unfold State.warmReset
  split
  · exact hk
  · extract_lets hold fail6 early s0 old m0 a b c d e f g h s1 s2 s3 s4 s5
    have h1 : OnlyP C base s1 := Only_mk (nextFree_only (nvCut_only (ladderUp_only hk)))
    have h2 : OnlyP C base s2 := foldl_only h1 (fun t w ht => setReg_only ht _ _)
    have h3 : OnlyP C base s3 := ite_only (setB_only (set_only h2 _ _) _ _) (set_only (set_only h2 _ _) _ _)
    have h4 : OnlyP C base s4 := ite_only (set_only (set_only h3 _ _) _ _) h3
    have h5 : OnlyP C base s5 := recontain_only (pmcWarm_only (set_only h4 _ _))
    exact safeFollow_only (ite_only (foldl_only h5 (fun t n ht => trip_only ht _ _)) h5)

theorem powerDown_only (hk : OnlyP C base s) (h_gtOff : C .gtOff := by first | assumption | decide)
    (h_regs : C .regs := by first | assumption | decide) (h_tables : C .tables := by first | assumption | decide)
    (h_hostMem : C .hostMem := by first | assumption | decide) (h_outbox : C .outbox := by first | assumption | decide)
    (h_freeIdx : C .freeIdx := by first | assumption | decide) (h_safeN : C .safeN := by first | assumption | decide)
    (h_snaps : C .snaps := by first | assumption | decide) (h_hif : C .hif := by first | assumption | decide)
    (h_spill : C .spill := by first | assumption | decide) (h_tim : C .tim := by first | assumption | decide)
    (h_fe : C .fe := by first | assumption | decide) (h_acq : C .acq := by first | assumption | decide)
    (h_trk : C .trk := by first | assumption | decide) (h_sch : C .sch := by first | assumption | decide)
    (h_pmc : C .pmc := by first | assumption | decide) (h_wmn : C .wmn := by first | assumption | decide)
    (h_flt : C .flt := by first | assumption | decide) (h_mem : C .mem := by first | assumption | decide)
    (h_pwr : C .pwr := by first | assumption | decide)
    (h_nvs : C .nvs := by first | assumption | decide) : OnlyP C base s.powerDown := by
  unfold State.powerDown
  extract_lets pw t s0 fr s1 st pw1
  have ht : OnlyP C base t := Only_mk hk
  have h1 : OnlyP C base s1 := Only_mk (nextFree_only (coldReset_only (resAcc_only ht) 0))
  exact Only_mk (set_only (set_only h1 _ _) _ _)

theorem dormGo_only (hk : OnlyP C base s) (h_gtOff : C .gtOff := by first | assumption | decide)
    (h_regs : C .regs := by first | assumption | decide) (h_tables : C .tables := by first | assumption | decide)
    (h_hostMem : C .hostMem := by first | assumption | decide) (h_outbox : C .outbox := by first | assumption | decide)
    (h_freeIdx : C .freeIdx := by first | assumption | decide) (h_safeN : C .safeN := by first | assumption | decide)
    (h_snaps : C .snaps := by first | assumption | decide) (h_hif : C .hif := by first | assumption | decide)
    (h_spill : C .spill := by first | assumption | decide) (h_tim : C .tim := by first | assumption | decide)
    (h_fe : C .fe := by first | assumption | decide) (h_acq : C .acq := by first | assumption | decide)
    (h_trk : C .trk := by first | assumption | decide) (h_sch : C .sch := by first | assumption | decide)
    (h_pmc : C .pmc := by first | assumption | decide) (h_wmn : C .wmn := by first | assumption | decide)
    (h_flt : C .flt := by first | assumption | decide) (h_mem : C .mem := by first | assumption | decide)
    (h_pwr : C .pwr := by first | assumption | decide) (h_nvs : C .nvs := by first | assumption | decide) :
    OnlyP C base (s.dormGo) := by
  unfold State.dormGo
  simp +contextual (maxDischargeDepth := 99) only [hk, h_gtOff, h_regs, h_tables, h_hostMem, h_outbox, h_freeIdx, h_safeN,
      h_snaps, h_hif, h_spill, h_tim, h_fe, h_acq, h_trk, h_sch, h_pmc, h_wmn, h_flt, h_mem, h_pwr, h_nvs, Only_mk, ite_only,
      or_true, true_or, forall_const, imp_self, implies_true, powerDown_only]

theorem enterL5_only (hk : OnlyP C base s) (h_regs : C .regs := by first | assumption | decide)
    (h_hif : C .hif := by first | assumption | decide) (h_tim : C .tim := by first | assumption | decide)
    (h_fe : C .fe := by first | assumption | decide) (h_acq : C .acq := by first | assumption | decide)
    (h_mem : C .mem := by first | assumption | decide)
    (h_pwr : C .pwr := by first | assumption | decide) : OnlyP C base s.enterL5 := by
  unfold State.enterL5
  extract_lets s1
  have h1 : OnlyP C base s1 := set_only (set_only (set_only (resAcc_only (bgDiscard_only hk)) _ _) _ _) _ _
  exact Only_mk (clockFree_only h1)

theorem ladderSink_only (hk : OnlyP C base s) (h_regs : C .regs := by first | assumption | decide)
    (h_outbox : C .outbox := by first | assumption | decide) (h_hif : C .hif := by first | assumption | decide)
    (h_tim : C .tim := by first | assumption | decide) (h_fe : C .fe := by first | assumption | decide)
    (h_acq : C .acq := by first | assumption | decide) (h_mem : C .mem := by first | assumption | decide)
    (h_pwr : C .pwr := by first | assumption | decide) :
    OnlyP C base (s.ladderSink) := by
  unfold State.ladderSink
  simp +contextual (maxDischargeDepth := 99) only [hk, h_regs, h_outbox, h_hif, h_tim, h_fe, h_acq, h_mem, h_pwr, Only_mk,
      ite_only, or_true, true_or, forall_const, imp_self, implies_true, dtsDiscard_only, ladderEnter_only, enterL5_only,
      foldl_only]

theorem ladderEntry_only (hk : OnlyP C base s) (h_gtOff : C .gtOff := by first | assumption | decide)
    (h_regs : C .regs := by first | assumption | decide) (h_tables : C .tables := by first | assumption | decide)
    (h_hostMem : C .hostMem := by first | assumption | decide) (h_outbox : C .outbox := by first | assumption | decide)
    (h_freeIdx : C .freeIdx := by first | assumption | decide) (h_safeN : C .safeN := by first | assumption | decide)
    (h_snaps : C .snaps := by first | assumption | decide) (h_hif : C .hif := by first | assumption | decide)
    (h_spill : C .spill := by first | assumption | decide) (h_tim : C .tim := by first | assumption | decide)
    (h_fe : C .fe := by first | assumption | decide) (h_acq : C .acq := by first | assumption | decide)
    (h_trk : C .trk := by first | assumption | decide) (h_sch : C .sch := by first | assumption | decide)
    (h_pmc : C .pmc := by first | assumption | decide) (h_wmn : C .wmn := by first | assumption | decide)
    (h_flt : C .flt := by first | assumption | decide) (h_mem : C .mem := by first | assumption | decide)
    (h_pwr : C .pwr := by first | assumption | decide) (h_nvs : C .nvs := by first | assumption | decide) :
    OnlyP C base (s.ladderEntry) := by
  unfold State.ladderEntry
  simp +contextual (maxDischargeDepth := 99) only [hk, h_gtOff, h_regs, h_tables, h_hostMem, h_outbox, h_freeIdx, h_safeN,
      h_snaps, h_hif, h_spill, h_tim, h_fe, h_acq, h_trk, h_sch, h_pmc, h_wmn, h_flt, h_mem, h_pwr, h_nvs, Only_mk, ite_only,
      or_true, true_or, forall_const, imp_self, implies_true, dormGo_only, ladderSink_only]

theorem powerUp_only (hk : OnlyP C base s) (src : Nat) (h_regs : C .regs := by first | assumption | decide)
    (h_outbox : C .outbox := by first | assumption | decide) (h_hif : C .hif := by first | assumption | decide)
    (h_pwr : C .pwr := by first | assumption | decide) :
    OnlyP C base (s.powerUp src) := by
  unfold State.powerUp
  simp +contextual (maxDischargeDepth := 99) only [hk, h_regs, h_outbox, h_hif, h_pwr, Only_mk, ite_only, or_true, true_or,
      forall_const, imp_self, implies_true, set_only, modeReg_only, resAcc_only]

theorem wake_only (hk : OnlyP C base s) (src : Nat) (l5 l6 : Bool) (h_gtOff : C .gtOff := by first | assumption | decide)
    (h_regs : C .regs := by first | assumption | decide) (h_outbox : C .outbox := by first | assumption | decide)
    (h_freeIdx : C .freeIdx := by first | assumption | decide) (h_hif : C .hif := by first | assumption | decide)
    (h_mem : C .mem := by first | assumption | decide) (h_pwr : C .pwr := by first | assumption | decide)
        (h_acq : C .acq := by first | assumption | decide) (h_fe : C .fe := by first | assumption | decide) :
    OnlyP C base (s.wake src l5 l6) := by
  unfold State.wake
  simp +contextual (maxDischargeDepth := 99) only [hk, h_fe, h_acq, h_gtOff, h_regs, h_outbox, h_freeIdx, h_hif, h_mem, h_pwr,
      Only_mk,
    ite_only, or_true, true_or, forall_const, imp_self, implies_true, set_only, ladderUp_only, powerUp_only]

theorem rtcWake_only (hk : OnlyP C base s) (h_gtOff : C .gtOff := by first | assumption | decide)
    (h_regs : C .regs := by first | assumption | decide) (h_outbox : C .outbox := by first | assumption | decide)
    (h_freeIdx : C .freeIdx := by first | assumption | decide) (h_hif : C .hif := by first | assumption | decide)
    (h_mem : C .mem := by first | assumption | decide) (h_pwr : C .pwr := by first | assumption | decide)
        (h_acq : C .acq := by first | assumption | decide) (h_fe : C .fe := by first | assumption | decide) :
    OnlyP C base (s.rtcWake) := by
  unfold State.rtcWake
  simp +contextual (maxDischargeDepth := 99) only [hk, h_fe, h_acq, h_gtOff, h_regs, h_outbox, h_freeIdx, h_hif, h_mem, h_pwr,
      Only_mk,
    ite_only, or_true, true_or, forall_const, imp_self, implies_true, wake_only]

theorem powerStep_only (hk : OnlyP C base s) (good : Bool) (h_regs : C .regs := by first | assumption | decide)
    (h_tables : C .tables := by first | assumption | decide) (h_hostMem : C .hostMem := by first | assumption | decide)
    (h_outbox : C .outbox := by first | assumption | decide) (h_safeN : C .safeN := by first | assumption | decide)
    (h_hif : C .hif := by first | assumption | decide) (h_fe : C .fe := by first | assumption | decide)
    (h_acq : C .acq := by first | assumption | decide) (h_trk : C .trk := by first | assumption | decide)
    (h_sch : C .sch := by first | assumption | decide) (h_flt : C .flt := by first | assumption | decide)
    (h_pwr : C .pwr := by first | assumption | decide) : OnlyP C base (s.powerStep good) := by
  unfold State.powerStep
  extract_lets k p s1
  have h1 : OnlyP C base s1 := Only_mk hk
  exact ite_only (ite_only (safeFollow_only h1) h1) hk

theorem railFail_only (hk : OnlyP C base s) (h_gtOff : C .gtOff := by first | assumption | decide)
    (h_regs : C .regs := by first | assumption | decide) (h_tables : C .tables := by first | assumption | decide)
    (h_hostMem : C .hostMem := by first | assumption | decide) (h_outbox : C .outbox := by first | assumption | decide)
    (h_freeIdx : C .freeIdx := by first | assumption | decide) (h_safeN : C .safeN := by first | assumption | decide)
    (h_snaps : C .snaps := by first | assumption | decide) (h_hif : C .hif := by first | assumption | decide)
    (h_spill : C .spill := by first | assumption | decide) (h_tim : C .tim := by first | assumption | decide)
    (h_fe : C .fe := by first | assumption | decide) (h_acq : C .acq := by first | assumption | decide)
    (h_trk : C .trk := by first | assumption | decide) (h_sch : C .sch := by first | assumption | decide)
    (h_pmc : C .pmc := by first | assumption | decide) (h_wmn : C .wmn := by first | assumption | decide)
    (h_flt : C .flt := by first | assumption | decide) (h_mem : C .mem := by first | assumption | decide)
    (h_pwr : C .pwr := by first | assumption | decide) (h_nvs : C .nvs := by first | assumption | decide) :
    OnlyP C base (s.railFail) := by
  unfold State.railFail
  simp +contextual (maxDischargeDepth := 99) only [hk, h_gtOff, h_regs, h_tables, h_hostMem, h_outbox, h_freeIdx, h_safeN,
      h_snaps, h_hif, h_spill, h_tim, h_fe, h_acq, h_trk, h_sch, h_pmc, h_wmn, h_flt, h_mem, h_pwr, h_nvs, Only_mk, ite_only,
      or_true, true_or, forall_const, imp_self, implies_true, set_only, powerDown_only]

theorem porstLow_only (hk : OnlyP C base s) (h_gtOff : C .gtOff := by first | assumption | decide)
    (h_regs : C .regs := by first | assumption | decide) (h_tables : C .tables := by first | assumption | decide)
    (h_hostMem : C .hostMem := by first | assumption | decide) (h_outbox : C .outbox := by first | assumption | decide)
    (h_freeIdx : C .freeIdx := by first | assumption | decide) (h_safeN : C .safeN := by first | assumption | decide)
    (h_snaps : C .snaps := by first | assumption | decide) (h_hif : C .hif := by first | assumption | decide)
    (h_spill : C .spill := by first | assumption | decide) (h_tim : C .tim := by first | assumption | decide)
    (h_fe : C .fe := by first | assumption | decide) (h_acq : C .acq := by first | assumption | decide)
    (h_trk : C .trk := by first | assumption | decide) (h_sch : C .sch := by first | assumption | decide)
    (h_pmc : C .pmc := by first | assumption | decide) (h_wmn : C .wmn := by first | assumption | decide)
    (h_flt : C .flt := by first | assumption | decide) (h_mem : C .mem := by first | assumption | decide)
    (h_pwr : C .pwr := by first | assumption | decide) (h_nvs : C .nvs := by first | assumption | decide) :
    OnlyP C base (s.porstLow) := by
  unfold State.porstLow
  simp +contextual (maxDischargeDepth := 99) only [hk, h_gtOff, h_regs, h_tables, h_hostMem, h_outbox, h_freeIdx, h_safeN,
      h_snaps, h_hif, h_spill, h_tim, h_fe, h_acq, h_trk, h_sch, h_pmc, h_wmn, h_flt, h_mem, h_pwr, h_nvs, Only_mk, ite_only,
      or_true, true_or, forall_const, imp_self, implies_true, set_only, resAcc_only, coldReset_only]

theorem porstHigh_only (hk : OnlyP C base s) (h_regs : C .regs := by first | assumption | decide)
    (h_tables : C .tables := by first | assumption | decide) (h_hostMem : C .hostMem := by first | assumption | decide)
    (h_outbox : C .outbox := by first | assumption | decide) (h_safeN : C .safeN := by first | assumption | decide)
    (h_hif : C .hif := by first | assumption | decide) (h_fe : C .fe := by first | assumption | decide)
    (h_acq : C .acq := by first | assumption | decide) (h_sch : C .sch := by first | assumption | decide)
    (h_flt : C .flt := by first | assumption | decide) (h_pwr : C .pwr := by first | assumption | decide)
        (h_trk : C .trk := by first | assumption | decide) :
    OnlyP C base (s.porstHigh) := by
  unfold State.porstHigh
  simp +contextual (maxDischargeDepth := 99) only [hk, h_trk, h_regs, h_tables, h_hostMem, h_outbox, h_safeN, h_hif, h_fe,
      h_acq,
      h_sch, h_flt, h_pwr, Only_mk, ite_only, or_true, true_or, forall_const, imp_self, implies_true, safeFollow_only]

theorem perstPin_only (hk : OnlyP C base s) (low : Bool) (h_pwr : C .pwr := by first | assumption | decide) :
    OnlyP C base (s.perstPin low) := by
  unfold State.perstPin
  simp +contextual (maxDischargeDepth := 99) only [hk, h_pwr, Only_mk, ite_only, or_true, true_or, forall_const, imp_self,
      implies_true]

theorem perstLow_only (hk : OnlyP C base s) (h_gtOff : C .gtOff := by first | assumption | decide)
    (h_regs : C .regs := by first | assumption | decide) (h_tables : C .tables := by first | assumption | decide)
    (h_hostMem : C .hostMem := by first | assumption | decide) (h_outbox : C .outbox := by first | assumption | decide)
    (h_freeIdx : C .freeIdx := by first | assumption | decide) (h_safeN : C .safeN := by first | assumption | decide)
    (h_snaps : C .snaps := by first | assumption | decide) (h_hif : C .hif := by first | assumption | decide)
    (h_spill : C .spill := by first | assumption | decide) (h_tim : C .tim := by first | assumption | decide)
    (h_fe : C .fe := by first | assumption | decide) (h_acq : C .acq := by first | assumption | decide)
    (h_trk : C .trk := by first | assumption | decide) (h_sch : C .sch := by first | assumption | decide)
    (h_pmc : C .pmc := by first | assumption | decide) (h_wmn : C .wmn := by first | assumption | decide)
    (h_flt : C .flt := by first | assumption | decide) (h_mem : C .mem := by first | assumption | decide)
    (h_pwr : C .pwr := by first | assumption | decide) (h_nvs : C .nvs := by first | assumption | decide) :
    OnlyP C base (s.perstLow) := by
  unfold State.perstLow
  simp +contextual (maxDischargeDepth := 99) only [hk, h_gtOff, h_regs, h_tables, h_hostMem, h_outbox, h_freeIdx, h_safeN,
      h_snaps, h_hif, h_spill, h_tim, h_fe, h_acq, h_trk, h_sch, h_pmc, h_wmn, h_flt, h_mem, h_pwr, h_nvs, Only_mk, ite_only,
      or_true, true_or, forall_const, imp_self, implies_true, detached_only, linkLost_only, warmReset_only]

theorem aonFall_only (hk : OnlyP C base s) (h_gtOff : C .gtOff := by first | assumption | decide)
    (h_regs : C .regs := by first | assumption | decide) (h_tables : C .tables := by first | assumption | decide)
    (h_hostMem : C .hostMem := by first | assumption | decide) (h_outbox : C .outbox := by first | assumption | decide)
    (h_freeIdx : C .freeIdx := by first | assumption | decide) (h_safeN : C .safeN := by first | assumption | decide)
    (h_snaps : C .snaps := by first | assumption | decide) (h_hif : C .hif := by first | assumption | decide)
    (h_spill : C .spill := by first | assumption | decide) (h_tim : C .tim := by first | assumption | decide)
    (h_fe : C .fe := by first | assumption | decide) (h_acq : C .acq := by first | assumption | decide)
    (h_trk : C .trk := by first | assumption | decide) (h_sch : C .sch := by first | assumption | decide)
    (h_pmc : C .pmc := by first | assumption | decide) (h_wmn : C .wmn := by first | assumption | decide)
    (h_flt : C .flt := by first | assumption | decide) (h_mem : C .mem := by first | assumption | decide)
    (h_pwr : C .pwr := by first | assumption | decide) (h_nvs : C .nvs := by first | assumption | decide) :
    OnlyP C base (s.aonFall) := by
  unfold State.aonFall
  simp +contextual (maxDischargeDepth := 99) only [hk, h_gtOff, h_regs, h_tables, h_hostMem, h_outbox, h_freeIdx, h_safeN,
      h_snaps, h_hif, h_spill, h_tim, h_fe, h_acq, h_trk, h_sch, h_pmc, h_wmn, h_flt, h_mem, h_pwr, h_nvs, Only_mk, ite_only,
      or_true, true_or, forall_const, imp_self, implies_true, powerDown_only]

theorem aonRise_only (hk : OnlyP C base s) (h_regs : C .regs := by first | assumption | decide)
    (h_outbox : C .outbox := by first | assumption | decide) (h_hif : C .hif := by first | assumption | decide)
    (h_pwr : C .pwr := by first | assumption | decide) : OnlyP C base s.aonRise := by
  unfold State.aonRise
  refine ite_only hk ?_
  extract_lets p s1 s2
  have h1 : OnlyP C base s1 := Only_mk hk
  have h2 : OnlyP C base s2 := set_only (set_only (set_only h1 _ _) _ _) _ _
  exact ite_only (powerUp_only h2 _) h2

theorem safeHoldClear_only (hk : OnlyP C base s) (h_regs : C .regs := by first | assumption | decide)
    (h_flt : C .flt := by first | assumption | decide) :
    OnlyP C base (s.safeHoldClear) := by
  unfold State.safeHoldClear
  simp +contextual (maxDischargeDepth := 99) only [hk, h_regs, h_flt, Only_mk, ite_only, or_true, true_or, forall_const,
    imp_self, implies_true, setReg_only, set_only]

theorem setMode_only (hk : OnlyP C base s) (c : Cmd) (m addr : Nat) (tok : Option TokenRead)
    (h_gtOff : C .gtOff := by first | assumption | decide) (h_regs : C .regs := by first | assumption | decide)
    (h_tables : C .tables := by first | assumption | decide) (h_hostMem : C .hostMem := by first | assumption | decide)
    (h_outbox : C .outbox := by first | assumption | decide) (h_freeIdx : C .freeIdx := by first | assumption | decide)
    (h_safeN : C .safeN := by first | assumption | decide) (h_snaps : C .snaps := by first | assumption | decide)
    (h_hif : C .hif := by first | assumption | decide) (h_spill : C .spill := by first | assumption | decide)
    (h_tim : C .tim := by first | assumption | decide) (h_fe : C .fe := by first | assumption | decide)
    (h_acq : C .acq := by first | assumption | decide) (h_trk : C .trk := by first | assumption | decide)
    (h_sch : C .sch := by first | assumption | decide) (h_pmc : C .pmc := by first | assumption | decide)
    (h_wmn : C .wmn := by first | assumption | decide) (h_flt : C .flt := by first | assumption | decide)
    (h_mem : C .mem := by first | assumption | decide) (h_pwr : C .pwr := by first | assumption | decide)
    (h_nvs : C .nvs := by first | assumption | decide) :
    OnlyP C base (s.setMode c m addr tok) := by
  unfold State.setMode
  try dsimp only
  repeat' split
  all_goals simp +contextual (maxDischargeDepth := 99) only [hk, h_gtOff, h_regs, h_tables, h_hostMem, h_outbox, h_freeIdx,
      h_safeN, h_snaps, h_hif, h_spill, h_tim, h_fe, h_acq, h_trk, h_sch, h_pmc, h_wmn, h_flt, h_mem, h_pwr, h_nvs, Only_mk,
      ite_only, or_true, true_or, forall_const, imp_self, implies_true, complete_only, enterMode_only, verifyToken_only,
      dormGo_only]

theorem setLatency_only (hk : OnlyP C base s) (c : Cmd) (ns : Nat) (h_regs : C .regs := by first | assumption | decide)
    (h_hostMem : C .hostMem := by first | assumption | decide) (h_outbox : C .outbox := by first | assumption | decide)
    (h_hif : C .hif := by first | assumption | decide) :
    OnlyP C base (s.setLatency c ns) := by
  unfold State.setLatency
  simp +contextual (maxDischargeDepth := 99) only [hk, h_regs, h_hostMem, h_outbox, h_hif, Only_mk, ite_only, or_true,
    true_or, forall_const, imp_self, implies_true, set2_only, complete_only]

theorem detachStart_only (hk : OnlyP C base s) (c : Cmd) (h_regs : C .regs := by first | assumption | decide)
    (h_hostMem : C .hostMem := by first | assumption | decide) (h_outbox : C .outbox := by first | assumption | decide)
    (h_hif : C .hif := by first | assumption | decide) (h_spill : C .spill := by first | assumption | decide)
    (h_mem : C .mem := by first | assumption | decide) :
    OnlyP C base (s.detachStart c) := by
  unfold State.detachStart
  simp +contextual (maxDischargeDepth := 99) only [hk, h_regs, h_hostMem, h_outbox, h_hif, h_spill, h_mem, Only_mk, ite_only,
      or_true, true_or, forall_const, imp_self, implies_true, complete_only, detached_only]

theorem confirmed_only (hk : OnlyP C base s) (k : Nat) (h_gtOff : C .gtOff := by first | assumption | decide)
    (h_regs : C .regs := by first | assumption | decide) (h_tables : C .tables := by first | assumption | decide)
    (h_hostMem : C .hostMem := by first | assumption | decide) (h_outbox : C .outbox := by first | assumption | decide)
    (h_freeIdx : C .freeIdx := by first | assumption | decide) (h_safeN : C .safeN := by first | assumption | decide)
    (h_snaps : C .snaps := by first | assumption | decide) (h_hif : C .hif := by first | assumption | decide)
    (h_spill : C .spill := by first | assumption | decide) (h_tim : C .tim := by first | assumption | decide)
    (h_fe : C .fe := by first | assumption | decide) (h_acq : C .acq := by first | assumption | decide)
    (h_trk : C .trk := by first | assumption | decide) (h_sch : C .sch := by first | assumption | decide)
    (h_pmc : C .pmc := by first | assumption | decide) (h_wmn : C .wmn := by first | assumption | decide)
    (h_flt : C .flt := by first | assumption | decide) (h_mem : C .mem := by first | assumption | decide)
    (h_pwr : C .pwr := by first | assumption | decide) (h_nvs : C .nvs := by first | assumption | decide) :
    OnlyP C base (s.confirmed k) := by
  unfold State.confirmed
  try dsimp only
  repeat' split
  all_goals simp +contextual (maxDischargeDepth := 99) only [hk, h_gtOff, h_regs, h_tables, h_hostMem, h_outbox, h_freeIdx,
      h_safeN, h_snaps, h_hif, h_spill, h_tim, h_fe, h_acq, h_trk, h_sch, h_pmc, h_wmn, h_flt, h_mem, h_pwr, h_nvs, Only_mk,
      ite_only, or_true, true_or, forall_const, imp_self, implies_true, setCplRing_only, detached_only, dormGo_only]

theorem nvEnd_only (hk : OnlyP C base s) (c : Cmd) (off code value : Nat)
    (h_regs : C .regs := by first | assumption | decide) (h_hostMem : C .hostMem := by first | assumption | decide)
    (h_outbox : C .outbox := by first | assumption | decide) (h_hif : C .hif := by first | assumption | decide) :
    OnlyP C base (s.nvEnd c off code value) := by
  unfold State.nvEnd
  simp +contextual (maxDischargeDepth := 99) only [hk, h_regs, h_hostMem, h_outbox, h_hif, Only_mk, ite_only, or_true,
    true_or, forall_const, imp_self, implies_true, set_only, complete_only]

theorem nvWrite_only (hk : OnlyP C base s) (c : Cmd) (off len : Nat) (data : Option (List Byte))
    (h_regs : C .regs := by first | assumption | decide) (h_hostMem : C .hostMem := by first | assumption | decide)
    (h_outbox : C .outbox := by first | assumption | decide) (h_hif : C .hif := by first | assumption | decide)
    (h_nvs : C .nvs := by first | assumption | decide) :
    OnlyP C base (s.nvWrite c off len data) := by
  unfold State.nvWrite
  try dsimp only
  repeat' split
  all_goals simp +contextual (maxDischargeDepth := 99) only [hk, h_regs, h_hostMem, h_outbox, h_hif, h_nvs, Only_mk,
    ite_only, or_true, true_or, forall_const, imp_self, implies_true, ev_only, nvEnd_only]

theorem nvDone_only (hk : OnlyP C base s) (ok : Bool) (h_regs : C .regs := by first | assumption | decide)
    (h_hostMem : C .hostMem := by first | assumption | decide) (h_outbox : C .outbox := by first | assumption | decide)
    (h_freeIdx : C .freeIdx := by first | assumption | decide) (h_hif : C .hif := by first | assumption | decide)
    (h_nvs : C .nvs := by first | assumption | decide) :
    OnlyP C base (s.nvDone ok) := by
  unfold State.nvDone
  try dsimp only
  repeat' split
  all_goals simp +contextual (maxDischargeDepth := 99) only [hk, h_regs, h_hostMem, h_outbox, h_freeIdx, h_hif, h_nvs,
    Only_mk, ite_only, or_true, true_or, forall_const, imp_self, implies_true, nvPut_only, ev_only, nvCut_only, nvEnd_only]

theorem nvErrs_only (hk : OnlyP C base s) (corrected : Nat) (ue : Bool) (h_regs : C .regs := by first | assumption | decide)
    (h_outbox : C .outbox := by first | assumption | decide) (h_hif : C .hif := by first | assumption | decide)
    (h_flt : C .flt := by first | assumption | decide) :
    OnlyP C base (s.nvErrs corrected ue) := by
  unfold State.nvErrs
  simp +contextual (maxDischargeDepth := 99) only [hk, h_regs, h_outbox, h_hif, h_flt, Only_mk, ite_only, or_true, true_or,
    forall_const, imp_self, implies_true, addSat_only, ev_only, present_only]

theorem nvRead_only (hk : OnlyP C base s) (c : Cmd) (addr off len : Nat) (dmaOk : Bool) (corrected : Nat) (bad : Option Nat)
    (h_regs : C .regs := by first | assumption | decide) (h_hostMem : C .hostMem := by first | assumption | decide)
    (h_outbox : C .outbox := by first | assumption | decide) (h_hif : C .hif := by first | assumption | decide)
    (h_flt : C .flt := by first | assumption | decide) :
    OnlyP C base (s.nvRead c addr off len dmaOk corrected bad) := by
  unfold State.nvRead
  try dsimp only
  repeat' split
  all_goals simp +contextual (maxDischargeDepth := 99) only [hk, h_regs, h_hostMem, h_outbox, h_hif, h_flt, Only_mk,
    ite_only, or_true, true_or, forall_const, imp_self, implies_true, dmaWrite_only, nvEnd_only, nvErrs_only]

theorem railDip_only (hk : OnlyP C base s) (rail : RailDip) (h_regs : C .regs := by first | assumption | decide)
    (h_outbox : C .outbox := by first | assumption | decide) (h_hif : C .hif := by first | assumption | decide)
    (h_flt : C .flt := by first | assumption | decide) (h_pwr : C .pwr := by first | assumption | decide) :
    OnlyP C base (s.railDip rail) := by
  unfold State.railDip
  simp +contextual (maxDischargeDepth := 99) only [hk, h_regs, h_outbox, h_hif, h_flt, h_pwr, Only_mk, ite_only, or_true,
      true_or, forall_const, imp_self, implies_true, present_only]

theorem srcCleared_only (hk : OnlyP C base s) (i : Nat) (h_flt : C .flt := by first | assumption | decide)
    (h_pwr : C .pwr := by first | assumption | decide) :
    OnlyP C base (s.srcCleared i) := by
  unfold State.srcCleared
  simp +contextual (maxDischargeDepth := 99) only [hk, h_flt, h_pwr, Only_mk, ite_only, or_true, true_or, forall_const,
      imp_self, implies_true, srcClear_only]

end Sys2Proof.Machine
end

