-- ==== Sys2Proof/Laws/OnlyRegs.lean ====
section
/-! SUPPORT. Components changed: the schedule, commit groups, shots, register accesses, boot, and the helpers of the
commands. -/

namespace Sys2Proof.Machine

set_option Elab.async false
set_option linter.unusedSimpArgs false
set_option linter.unusedVariables false

variable {base s : State} {C : Comp → Prop}

/-! ### Machine/Sched.lean -/

theorem setImg_only (hk : OnlyP C base s) (k : Nat) (x : Option Image) (h_sch : C .sch := by first | assumption | decide)
    (h_mem : C .mem := by first | assumption | decide) :
    OnlyP C base (s.setImg k x) := by
  unfold State.setImg
  simp +contextual (maxDischargeDepth := 99) only [hk, h_sch, h_mem, Only_mk, ite_only, or_true, true_or, forall_const,
      imp_self, implies_true, setShare_only]

theorem admitImage_only (hk : OnlyP C base s) (i : ImageRead) (h_regs : C .regs := by first | assumption | decide)
    (h_outbox : C .outbox := by first | assumption | decide) (h_hif : C .hif := by first | assumption | decide)
    (h_sch : C .sch := by first | assumption | decide) (h_mem : C .mem := by first | assumption | decide) :
    OnlyP C base (s.admitImage i) := by
  unfold State.admitImage
  simp +contextual (maxDischargeDepth := 99) only [hk, h_mem, h_regs, h_outbox, h_hif, h_sch, Only_mk, ite_only, or_true,
      true_or,
    forall_const, imp_self, implies_true, set_only, ev_only, setImg_only, foldl_only]

theorem loadRefuse_only (hk : OnlyP C base s) (code : Nat) (h_regs : C .regs := by first | assumption | decide)
    (h_outbox : C .outbox := by first | assumption | decide) (h_hif : C .hif := by first | assumption | decide) :
    OnlyP C base (s.loadRefuse code) := by
  unfold State.loadRefuse
  simp +contextual (maxDischargeDepth := 99) only [hk, h_regs, h_outbox, h_hif, Only_mk, ite_only, or_true, true_or,
    forall_const, imp_self, implies_true, set_only, ev_only]

theorem loadStart_only (hk : OnlyP C base s) (c : Cmd) (i : Option ImageRead)
    (h_regs : C .regs := by first | assumption | decide) (h_hostMem : C .hostMem := by first | assumption | decide)
    (h_outbox : C .outbox := by first | assumption | decide) (h_hif : C .hif := by first | assumption | decide)
    (h_sch : C .sch := by first | assumption | decide) :
    OnlyP C base (s.loadStart c i) := by
  unfold State.loadStart
  simp +contextual (maxDischargeDepth := 99) only [hk, h_regs, h_hostMem, h_outbox, h_hif, h_sch, Only_mk, ite_only, or_true,
    true_or, forall_const, imp_self, implies_true, complete_only, loadRefuse_only]

theorem unloadEnd_only (hk : OnlyP C base s) (c : Cmd) (slot code : Nat)
    (h_regs : C .regs := by first | assumption | decide) (h_hostMem : C .hostMem := by first | assumption | decide)
    (h_outbox : C .outbox := by first | assumption | decide) (h_hif : C .hif := by first | assumption | decide) :
    OnlyP C base (s.unloadEnd c slot code) := by
  unfold State.unloadEnd
  simp +contextual (maxDischargeDepth := 99) only [hk, h_regs, h_hostMem, h_outbox, h_hif, Only_mk, ite_only, or_true,
    true_or, forall_const, imp_self, implies_true, set_only, complete_only]

theorem unloadStart_only (hk : OnlyP C base s) (c : Cmd) (slot : Nat) (h_regs : C .regs := by first | assumption | decide)
    (h_hostMem : C .hostMem := by first | assumption | decide) (h_outbox : C .outbox := by first | assumption | decide)
    (h_hif : C .hif := by first | assumption | decide) (h_sch : C .sch := by first | assumption | decide) :
    OnlyP C base (s.unloadStart c slot) := by
  unfold State.unloadStart
  simp +contextual (maxDischargeDepth := 99) only [hk, h_regs, h_hostMem, h_outbox, h_hif, h_sch, Only_mk, ite_only, or_true,
    true_or, forall_const, imp_self, implies_true, unloadEnd_only]

theorem loadDone_only (hk : OnlyP C base s) (h_regs : C .regs := by first | assumption | decide)
    (h_hostMem : C .hostMem := by first | assumption | decide) (h_outbox : C .outbox := by first | assumption | decide)
    (h_hif : C .hif := by first | assumption | decide) (h_sch : C .sch := by first | assumption | decide)
        (h_mem : C .mem := by first | assumption | decide) :
    OnlyP C base (s.loadDone) := by
  unfold State.loadDone
  try dsimp only
  repeat' split
  all_goals simp +contextual (maxDischargeDepth := 99) only [hk, h_mem, h_regs, h_hostMem, h_outbox, h_hif, h_sch, Only_mk,
    ite_only, or_true, true_or, forall_const, imp_self, implies_true, ev_only, complete_only, setImg_only, admitImage_only,
    loadRefuse_only, unloadEnd_only]

theorem lateNote_only (hk : OnlyP C base s) (n lam : Nat) (h_regs : C .regs := by first | assumption | decide)
    (h_outbox : C .outbox := by first | assumption | decide) (h_hif : C .hif := by first | assumption | decide)
    (h_fe : C .fe := by first | assumption | decide) :
    OnlyP C base (s.lateNote n lam) := by
  unfold State.lateNote
  simp +contextual (maxDischargeDepth := 99) only [hk, h_regs, h_outbox, h_hif, h_fe, Only_mk, ite_only, or_true, true_or,
    forall_const, imp_self, implies_true, set_only, addSat_only, ev_only, modF_only]

theorem overtopNote_only (hk : OnlyP C base s) (n lam : Nat) (h_regs : C .regs := by first | assumption | decide)
    (h_outbox : C .outbox := by first | assumption | decide) (h_hif : C .hif := by first | assumption | decide)
    (h_fe : C .fe := by first | assumption | decide) (h_flt : C .flt := by first | assumption | decide) :
    OnlyP C base (s.overtopNote n lam) := by
  unfold State.overtopNote
  try dsimp only
  repeat' split
  all_goals simp +contextual (maxDischargeDepth := 99) only [hk, h_regs, h_outbox, h_hif, h_fe, h_flt, Only_mk, ite_only,
    or_true, true_or, forall_const, imp_self, implies_true, addSat_only, ev_only, present_only, modF_only]

theorem mapHeld_only (hk : OnlyP C base s) (g : Frame → Frame) (h_hif : C .hif := by first | assumption | decide)
    (h_spill : C .spill := by first | assumption | decide) :
    OnlyP C base (s.mapHeld g) := by
  unfold State.mapHeld
  simp +contextual (maxDischargeDepth := 99) only [hk, h_hif, h_spill, Only_mk, ite_only, or_true, true_or, forall_const,
      imp_self, implies_true]

theorem frameDone_only (hk : OnlyP C base s) (n : Nat) (h_regs : C .regs := by first | assumption | decide)
    (h_outbox : C .outbox := by first | assumption | decide) (h_hif : C .hif := by first | assumption | decide)
    (h_spill : C .spill := by first | assumption | decide) (h_fe : C .fe := by first | assumption | decide)
    (h_trk : C .trk := by first | assumption | decide) (h_flt : C .flt := by first | assumption | decide) :
    OnlyP C base (s.frameDone n) := by
  unfold State.frameDone
  try dsimp only
  repeat' split
  all_goals simp +contextual (maxDischargeDepth := 99) only [hk, h_regs, h_outbox, h_hif, h_spill, h_fe, h_trk, h_flt,
      Only_mk, ite_only, or_true, true_or, forall_const, imp_self, implies_true, modF_only, evtIdle_only, lateNote_only,
      overtopNote_only, mapHeld_only]

theorem unstage_only (hk : OnlyP C base s) (rest : List Staged) (h_hif : C .hif := by first | assumption | decide) :
    OnlyP C base (s.unstage rest) := by
  unfold State.unstage
  simp +contextual (maxDischargeDepth := 99) only [hk, h_hif, Only_mk, ite_only, or_true, true_or, forall_const, imp_self,
    implies_true]

theorem frameDeliver_only (hk : OnlyP C base s) (stream : Nat) (h_regs : C .regs := by first | assumption | decide)
    (h_hostMem : C .hostMem := by first | assumption | decide) (h_outbox : C .outbox := by first | assumption | decide)
    (h_hif : C .hif := by first | assumption | decide) (h_spill : C .spill := by first | assumption | decide)
    (h_mem : C .mem := by first | assumption | decide) :
    OnlyP C base (s.frameDeliver stream) := by
  unfold State.frameDeliver
  try dsimp only
  repeat' split
  all_goals simp +contextual (maxDischargeDepth := 99) only [hk, h_regs, h_hostMem, h_outbox, h_hif, h_spill, h_mem, Only_mk,
      ite_only, or_true, true_or, forall_const, imp_self, implies_true, deliver_only, divertEnd_only, unstage_only]

theorem divertHead_only (hk : OnlyP C base s) (n : Nat) (h_regs : C .regs := by first | assumption | decide)
    (h_hostMem : C .hostMem := by first | assumption | decide) (h_outbox : C .outbox := by first | assumption | decide)
    (h_hif : C .hif := by first | assumption | decide) (h_spill : C .spill := by first | assumption | decide)
    (h_mem : C .mem := by first | assumption | decide) :
    OnlyP C base (s.divertHead n) := by
  unfold State.divertHead
  try dsimp only
  repeat' split
  all_goals simp +contextual (maxDischargeDepth := 99) only [hk, h_regs, h_hostMem, h_outbox, h_hif, h_spill, h_mem, Only_mk,
      ite_only, or_true, true_or, forall_const, imp_self, implies_true, deliver_only, divertEnd_only, unstage_only]

/-! ### Machine/Commit.lean -/

theorem evs_only (hk : OnlyP C base s) (l : List FRef) (h_regs : C .regs := by first | assumption | decide)
    (h_outbox : C .outbox := by first | assumption | decide) (h_hif : C .hif := by first | assumption | decide) :
    OnlyP C base (s.evs l) := by
  unfold State.evs
  simp +contextual (maxDischargeDepth := 99) only [hk, h_regs, h_outbox, h_hif, Only_mk, ite_only, or_true, true_or,
    forall_const, imp_self, implies_true, ev_only, foldl_only]

theorem refsStaged_only (hk : OnlyP C base s) (g : Group) (h_fe : C .fe := by first | assumption | decide) :
    OnlyP C base (s.refsStaged g) := by
  unfold State.refsStaged
  simp +contextual (maxDischargeDepth := 99) only [hk, h_fe, Only_mk, ite_only, or_true, true_or, forall_const, imp_self,
      implies_true, modF_only, foldl_only]

theorem commitStage_only (hk : OnlyP C base s) (c : Cmd) (p : Option CommitList)
    (h_regs : C .regs := by first | assumption | decide) (h_hostMem : C .hostMem := by first | assumption | decide)
    (h_outbox : C .outbox := by first | assumption | decide) (h_hif : C .hif := by first | assumption | decide)
    (h_fe : C .fe := by first | assumption | decide) (h_sch : C .sch := by first | assumption | decide) :
    OnlyP C base (s.commitStage c p) := by
  unfold State.commitStage
  try dsimp only
  repeat' split
  all_goals simp +contextual (maxDischargeDepth := 99) only [hk, h_regs, h_hostMem, h_outbox, h_hif, h_fe, h_sch, Only_mk,
      ite_only, or_true, true_or, forall_const, imp_self, implies_true, ev_only, complete_only, setGroup_only, evs_only,
      refsStaged_only]

theorem commitCancel_only (hk : OnlyP C base s) (c : Cmd) (id : BitVec 32)
    (h_regs : C .regs := by first | assumption | decide) (h_hostMem : C .hostMem := by first | assumption | decide)
    (h_outbox : C .outbox := by first | assumption | decide) (h_hif : C .hif := by first | assumption | decide)
    (h_sch : C .sch := by first | assumption | decide) :
    OnlyP C base (s.commitCancel c id) := by
  unfold State.commitCancel
  try dsimp only
  repeat' split
  all_goals simp +contextual (maxDischargeDepth := 99) only [hk, h_regs, h_hostMem, h_outbox, h_hif, h_sch, Only_mk,
    ite_only, or_true, true_or, forall_const, imp_self, implies_true, complete_only, groupEnd_only]

theorem commitLock_only (hk : OnlyP C base s) (k : Nat) (h_regs : C .regs := by first | assumption | decide)
    (h_hostMem : C .hostMem := by first | assumption | decide) (h_outbox : C .outbox := by first | assumption | decide)
    (h_hif : C .hif := by first | assumption | decide) (h_sch : C .sch := by first | assumption | decide) :
    OnlyP C base (s.commitLock k) := by
  unfold State.commitLock
  try dsimp only
  repeat' split
  all_goals simp +contextual (maxDischargeDepth := 99) only [hk, h_regs, h_hostMem, h_outbox, h_hif, h_sch, Only_mk,
    ite_only, or_true, true_or, forall_const, imp_self, implies_true, setGroup_only, groupEnd_only, evs_only]

theorem pmcWritten_only (hk : OnlyP C base s) (off : Nat) (v : Word) (h_regs : C .regs := by first | assumption | decide)
    (h_outbox : C .outbox := by first | assumption | decide) (h_hif : C .hif := by first | assumption | decide)
    (h_pmc : C .pmc := by first | assumption | decide) :
    OnlyP C base (s.pmcWritten off v) := by
  unfold State.pmcWritten
  try dsimp only
  repeat' split
  all_goals simp +contextual (maxDischargeDepth := 99) only [hk, h_regs, h_outbox, h_hif, h_pmc, Only_mk, ite_only, or_true,
    true_or, forall_const, imp_self, implies_true, seqStart_only, injTrig_only, seqStop_only]

theorem trkWrite_only (hk : OnlyP C base s) (off : Nat) (v : Word) (h_regs : C .regs := by first | assumption | decide)
    (h_outbox : C .outbox := by first | assumption | decide) (h_hif : C .hif := by first | assumption | decide)
    (h_trk : C .trk := by first | assumption | decide) :
    OnlyP C base (s.trkWrite off v) := by
  unfold State.trkWrite
  try dsimp only
  repeat' split
  all_goals simp +contextual (maxDischargeDepth := 99) only [hk, h_regs, h_outbox, h_hif, h_trk, Only_mk, ite_only, or_true,
    true_or, forall_const, imp_self, implies_true, cmpValue_only, qinLoad_only, trackId_only, trkWritten_only, withRegs_only]

theorem sharedWrite_only (hk : OnlyP C base s) (off : Nat) (v : Word) (h_regs : C .regs := by first | assumption | decide)
    (h_outbox : C .outbox := by first | assumption | decide) (h_hif : C .hif := by first | assumption | decide)
    (h_trk : C .trk := by first | assumption | decide) (h_pmc : C .pmc := by first | assumption | decide) :
    OnlyP C base (s.sharedWrite off v) := by
  unfold State.sharedWrite
  simp +contextual (maxDischargeDepth := 99) only [hk, h_regs, h_outbox, h_hif, h_trk, h_pmc, Only_mk, ite_only, or_true,
      true_or, forall_const, imp_self, implies_true, convRelatch_only, trkHold_only, pmcWritten_only, trkWrite_only,
      withRegs_only]

theorem refsBuilt_only (hk : OnlyP C base s) (n : Nat) (d : DuePart) (h_fe : C .fe := by first | assumption | decide) :
    OnlyP C base (s.refsBuilt n d) := by
  unfold State.refsBuilt
  simp +contextual (maxDischargeDepth := 99) only [hk, h_fe, Only_mk, ite_only, or_true, true_or, forall_const, imp_self,
    implies_true, modF_only]

theorem groupPart_only (hk : OnlyP C base s) (g : Group) (n : Nat) (tb : Int)
    (h_regs : C .regs := by first | assumption | decide) (h_tables : C .tables := by first | assumption | decide)
    (h_outbox : C .outbox := by first | assumption | decide) (h_hif : C .hif := by first | assumption | decide)
    (h_fe : C .fe := by first | assumption | decide) (h_acq : C .acq := by first | assumption | decide)
        (h_trk : C .trk := by first | assumption | decide) :
    OnlyP C base (s.groupPart g n tb) := by
  unfold State.groupPart
  simp +contextual (maxDischargeDepth := 99) only [hk, h_trk, h_acq, h_regs, h_tables, h_outbox, h_hif, h_fe, Only_mk,
      ite_only,
      or_true,
    true_or, forall_const, imp_self, implies_true, applyPart_only, addDue_only, refsBuilt_only]

theorem commitApply_only (hk : OnlyP C base s) (k : Nat) (h_regs : C .regs := by first | assumption | decide)
    (h_tables : C .tables := by first | assumption | decide) (h_hostMem : C .hostMem := by first | assumption | decide)
    (h_outbox : C .outbox := by first | assumption | decide) (h_hif : C .hif := by first | assumption | decide)
    (h_fe : C .fe := by first | assumption | decide) (h_trk : C .trk := by first | assumption | decide)
    (h_sch : C .sch := by first | assumption | decide) (h_pmc : C .pmc := by first | assumption | decide)
        (h_acq : C .acq := by first | assumption | decide) :
    OnlyP C base (s.commitApply k) := by
  unfold State.commitApply
  try dsimp only
  repeat' split
  all_goals simp +contextual (maxDischargeDepth := 99) only [hk, h_acq, h_regs, h_tables, h_hostMem, h_outbox, h_hif, h_fe,
      h_trk,
    h_sch, h_pmc, Only_mk, ite_only, or_true, true_or, forall_const, imp_self, implies_true, addWrap_only, groupEnd_only,
    commitLock_only, sharedWrite_only, groupPart_only, foldl_only]

theorem commitsDue_only (hk : OnlyP C base s) (h_regs : C .regs := by first | assumption | decide)
    (h_tables : C .tables := by first | assumption | decide) (h_hostMem : C .hostMem := by first | assumption | decide)
    (h_outbox : C .outbox := by first | assumption | decide) (h_hif : C .hif := by first | assumption | decide)
    (h_fe : C .fe := by first | assumption | decide) (h_trk : C .trk := by first | assumption | decide)
    (h_sch : C .sch := by first | assumption | decide) (h_pmc : C .pmc := by first | assumption | decide)
        (h_acq : C .acq := by first | assumption | decide) :
    OnlyP C base (s.commitsDue) := by
  unfold State.commitsDue
  try dsimp only
  repeat' split
  all_goals simp +contextual (maxDischargeDepth := 99) only [hk, h_acq, h_regs, h_tables, h_hostMem, h_outbox, h_hif, h_fe,
      h_trk,
    h_sch, h_pmc, Only_mk, ite_only, or_true, true_or, forall_const, imp_self, implies_true, commitApply_only, foldl_only]

theorem markerBound_only (hk : OnlyP C base s) (n shot : Nat) (tb : Int)
    (h_regs : C .regs := by first | assumption | decide) (h_hostMem : C .hostMem := by first | assumption | decide)
    (h_outbox : C .outbox := by first | assumption | decide) (h_hif : C .hif := by first | assumption | decide)
    (h_sch : C .sch := by first | assumption | decide) :
    OnlyP C base (s.markerBound n shot tb) := by
  unfold State.markerBound
  simp +contextual (maxDischargeDepth := 99) only [hk, h_regs, h_hostMem, h_outbox, h_hif, h_sch, Only_mk, ite_only, or_true,
      true_or, forall_const, imp_self, implies_true, setGroup_only, groupEnd_only, foldl_only]

theorem markerParts_only (hk : OnlyP C base s) (n : Nat) (x : NextShot) (h_regs : C .regs := by first | assumption | decide)
    (h_tables : C .tables := by first | assumption | decide) (h_hostMem : C .hostMem := by first | assumption | decide)
    (h_outbox : C .outbox := by first | assumption | decide) (h_hif : C .hif := by first | assumption | decide)
    (h_fe : C .fe := by first | assumption | decide)
    (h_sch : C .sch := by first | assumption | decide)
        (h_acq : C .acq := by first | assumption | decide)
            (h_trk : C .trk := by first | assumption | decide) : OnlyP C base (s.markerParts n x) := by
  unfold State.markerParts
  refine foldl_only hk (fun t y ht => ?_)
  dsimp only
  split
  · exact ite_only (commitLock_only ht _)
      (setGroup_only (applyPart_only (refsBuilt_only (commitLock_only ht _) _ _) _ _ _) _ _)
  · exact commitLock_only ht _

/-! ### Machine/Shots.lean -/

theorem armCmd_only (hk : OnlyP C base s) (n : Nat) (c : Cmd) (h_regs : C .regs := by first | assumption | decide)
    (h_hostMem : C .hostMem := by first | assumption | decide) (h_outbox : C .outbox := by first | assumption | decide)
    (h_hif : C .hif := by first | assumption | decide) (h_fe : C .fe := by first | assumption | decide)
    (h_acq : C .acq := by first | assumption | decide) :
    OnlyP C base (s.armCmd n c) := by
  unfold State.armCmd
  simp +contextual (maxDischargeDepth := 99) only [hk, h_regs, h_hostMem, h_outbox, h_hif, h_fe, h_acq, Only_mk, ite_only,
    or_true, true_or, forall_const, imp_self, implies_true, set_only, ev_only, complete_only, armStart_only, evs_only]

theorem planWins_only (hk : OnlyP C base s) (n k shot : Nat) (raman : Bool) (h_fe : C .fe := by first | assumption | decide) :
    OnlyP C base (s.planWins n k shot raman) := by
  unfold State.planWins
  simp +contextual (maxDischargeDepth := 99) only [hk, h_fe, Only_mk, ite_only, or_true, true_or, forall_const, imp_self,
    implies_true, modF_only]

theorem gateOpen_only (hk : OnlyP C base s) (n g : Nat) (h_regs : C .regs := by first | assumption | decide)
    (h_outbox : C .outbox := by first | assumption | decide) (h_hif : C .hif := by first | assumption | decide)
    (h_fe : C .fe := by first | assumption | decide) (h_flt : C .flt := by first | assumption | decide) :
    OnlyP C base (s.gateOpen n g) := by
  unfold State.gateOpen
  try dsimp only
  repeat' split
  all_goals simp +contextual (maxDischargeDepth := 99) only [hk, h_regs, h_outbox, h_hif, h_fe, h_flt, Only_mk, ite_only,
    or_true, true_or, forall_const, imp_self, implies_true, modF_only, lncSync_only, gatesEval_only]

theorem gateClose_only (hk : OnlyP C base s) (n g : Nat) (h_regs : C .regs := by first | assumption | decide)
    (h_outbox : C .outbox := by first | assumption | decide) (h_hif : C .hif := by first | assumption | decide)
    (h_fe : C .fe := by first | assumption | decide) (h_flt : C .flt := by first | assumption | decide) :
    OnlyP C base (s.gateClose n g) := by
  unfold State.gateClose
  simp +contextual (maxDischargeDepth := 99) only [hk, h_regs, h_outbox, h_hif, h_fe, h_flt, Only_mk, ite_only, or_true,
    true_or, forall_const, imp_self, implies_true, modF_only, lncSync_only, gatesEval_only]

theorem segmentEnd_only (hk : OnlyP C base s) (n : Nat) (h_regs : C .regs := by first | assumption | decide)
    (h_outbox : C .outbox := by first | assumption | decide) (h_hif : C .hif := by first | assumption | decide)
    (h_fe : C .fe := by first | assumption | decide) (h_flt : C .flt := by first | assumption | decide) :
    OnlyP C base (s.segmentEnd n) := by
  unfold State.segmentEnd
  try dsimp only
  repeat' split
  all_goals simp +contextual (maxDischargeDepth := 99) only [hk, h_regs, h_outbox, h_hif, h_fe, h_flt, Only_mk, ite_only,
      or_true, true_or, forall_const, imp_self, implies_true, modF_only, lncSync_only]

theorem fire_only (hk : OnlyP C base s) (n : Nat) (x : NextShot) (k t : Nat)
    (h_regs : C .regs := by first | assumption | decide) (h_outbox : C .outbox := by first | assumption | decide)
    (h_hif : C .hif := by first | assumption | decide) (h_tim : C .tim := by first | assumption | decide)
    (h_fe : C .fe := by first | assumption | decide) (h_acq : C .acq := by first | assumption | decide)
    (h_pmc : C .pmc := by first | assumption | decide) (h_flt : C .flt := by first | assumption | decide) :
    OnlyP C base (s.fire n x k t) := by
  unfold State.fire
  simp +contextual (maxDischargeDepth := 99) only [hk, h_regs, h_outbox, h_hif, h_tim, h_fe, h_acq, h_pmc, h_flt, Only_mk,
      ite_only, or_true, true_or, forall_const, imp_self, implies_true, set_only, set2_only, modF_only, launchOut_only,
      bgFrameStart_only, darkSpan_only, pmcEvent_only, lncSync_only, planWins_only]

theorem launchGrid_only (hk : OnlyP C base s) (n : Nat) (x : NextShot) (h_regs : C .regs := by first | assumption | decide)
    (h_tables : C .tables := by first | assumption | decide) (h_outbox : C .outbox := by first | assumption | decide)
    (h_hif : C .hif := by first | assumption | decide) (h_tim : C .tim := by first | assumption | decide)
    (h_fe : C .fe := by first | assumption | decide) (h_acq : C .acq := by first | assumption | decide)
    (h_pmc : C .pmc := by first | assumption | decide) (h_flt : C .flt := by first | assumption | decide)
        (h_trk : C .trk := by first | assumption | decide) :
    OnlyP C base (s.launchGrid n x) := by
  unfold State.launchGrid
  simp +contextual (maxDischargeDepth := 99) only [hk, h_trk, h_regs, h_tables, h_outbox, h_hif, h_tim, h_fe, h_acq, h_pmc,
      h_flt,
      Only_mk, ite_only, or_true, true_or, forall_const, imp_self, implies_true, modF_only, applyReached_only, fire_only]

theorem launch_only (hk : OnlyP C base s) (n : Nat) (h_regs : C .regs := by first | assumption | decide)
    (h_tables : C .tables := by first | assumption | decide) (h_hostMem : C .hostMem := by first | assumption | decide)
    (h_outbox : C .outbox := by first | assumption | decide) (h_hif : C .hif := by first | assumption | decide)
    (h_tim : C .tim := by first | assumption | decide) (h_fe : C .fe := by first | assumption | decide)
    (h_acq : C .acq := by first | assumption | decide) (h_trk : C .trk := by first | assumption | decide)
    (h_sch : C .sch := by first | assumption | decide) (h_pmc : C .pmc := by first | assumption | decide)
    (h_flt : C .flt := by first | assumption | decide) :
    OnlyP C base (s.launch n) := by
  unfold State.launch
  try dsimp only
  repeat' split
  all_goals simp +contextual (maxDischargeDepth := 99) only [hk, h_regs, h_tables, h_hostMem, h_outbox, h_hif, h_tim, h_fe,
    h_acq, h_trk, h_sch, h_pmc, h_flt, Only_mk, ite_only, or_true, true_or, forall_const, imp_self, implies_true,
    disarmEffect_only, commitsDue_only, fire_only, launchGrid_only]

theorem markerTake_only (hk : OnlyP C base s) (n : Nat) (h_regs : C .regs := by first | assumption | decide)
    (h_tables : C .tables := by first | assumption | decide) (h_hostMem : C .hostMem := by first | assumption | decide)
    (h_outbox : C .outbox := by first | assumption | decide) (h_hif : C .hif := by first | assumption | decide)
    (h_fe : C .fe := by first | assumption | decide)
    (h_sch : C .sch := by first | assumption | decide)
        (h_acq : C .acq := by first | assumption | decide)
            (h_trk : C .trk := by first | assumption | decide) : OnlyP C base (s.markerTake n) := by
  unfold State.markerTake
  extract_lets shot x s1 go
  have h1 : OnlyP C base s1 := markerParts_only (markerBound_only (applyReached_only hk _ _ _) _ _ _) _ _
  clear_value s1
  exact modF_only h1 _ _

theorem marker_only (hk : OnlyP C base s) (n : Nat) (h_regs : C .regs := by first | assumption | decide)
    (h_tables : C .tables := by first | assumption | decide) (h_hostMem : C .hostMem := by first | assumption | decide)
    (h_outbox : C .outbox := by first | assumption | decide) (h_hif : C .hif := by first | assumption | decide)
    (h_fe : C .fe := by first | assumption | decide) (h_sch : C .sch := by first | assumption | decide)
        (h_acq : C .acq := by first | assumption | decide) (h_trk : C .trk := by first | assumption | decide) :
    OnlyP C base (s.marker n) := by
  unfold State.marker
  simp +contextual (maxDischargeDepth := 99) only [hk, h_trk, h_acq, h_regs, h_tables, h_hostMem, h_outbox, h_hif, h_fe,
      h_sch,
      Only_mk,
    ite_only, or_true, true_or, forall_const, imp_self, implies_true, addSat_only, ev_only, markerTake_only]

theorem launchIn_only (hk : OnlyP C base s) (h_regs : C .regs := by first | assumption | decide)
    (h_tables : C .tables := by first | assumption | decide) (h_hostMem : C .hostMem := by first | assumption | decide)
    (h_outbox : C .outbox := by first | assumption | decide) (h_hif : C .hif := by first | assumption | decide)
    (h_fe : C .fe := by first | assumption | decide) (h_sch : C .sch := by first | assumption | decide)
        (h_acq : C .acq := by first | assumption | decide) (h_trk : C .trk := by first | assumption | decide) :
    OnlyP C base (s.launchIn) := by
  unfold State.launchIn
  simp +contextual (maxDischargeDepth := 99) only [hk, h_trk, h_acq, h_regs, h_tables, h_hostMem, h_outbox, h_hif, h_fe,
      h_sch,
      Only_mk,
    ite_only, or_true, true_or, forall_const, imp_self, implies_true, marker_only, foldl_only]

theorem launchLate_only (hk : OnlyP C base s) (n : Nat) (h_regs : C .regs := by first | assumption | decide)
    (h_outbox : C .outbox := by first | assumption | decide) (h_hif : C .hif := by first | assumption | decide)
    (h_fe : C .fe := by first | assumption | decide) :
    OnlyP C base (s.launchLate n) := by
  unfold State.launchLate
  simp +contextual (maxDischargeDepth := 99) only [hk, h_regs, h_outbox, h_hif, h_fe, Only_mk, ite_only, or_true, true_or,
    forall_const, imp_self, implies_true, addSat_only, ev_only, modF_only]

theorem launchOutRise_only (hk : OnlyP C base s) (n : Nat) (h_tim : C .tim := by first | assumption | decide) :
    OnlyP C base (s.launchOutRise n) := by
  unfold State.launchOutRise
  simp +contextual (maxDischargeDepth := 99) only [hk, h_tim, Only_mk, ite_only, or_true, true_or, forall_const, imp_self,
    implies_true, launchOut_only]

/-! ### Machine/RegView.lean -/

theorem capture_only (hk : OnlyP C base s) (m : Master) (off : Nat) (h_snaps : C .snaps := by first | assumption | decide) :
    OnlyP C base (s.capture m off) := by
  unfold State.capture
  simp +contextual (maxDischargeDepth := 99) only [hk, h_snaps, Only_mk, ite_only, or_true, true_or, forall_const, imp_self,
    implies_true, foldl_only]

theorem rcClear_only (hk : OnlyP C base s) (off : Nat) (h_regs : C .regs := by first | assumption | decide) :
    OnlyP C base (s.rcClear off) := by
  unfold State.rcClear
  try dsimp only
  repeat' split
  all_goals simp +contextual (maxDischargeDepth := 99) only [hk, h_regs, Only_mk, ite_only, or_true, true_or, forall_const,
    imp_self, implies_true, setReg_only]

theorem readWord_only (hk : OnlyP C base s) (m : Master) (off : Nat) (h_regs : C .regs := by first | assumption | decide)
    (h_snaps : C .snaps := by first | assumption | decide) (h_trk : C .trk := by first | assumption | decide) :
    OnlyP C base (s.readWord m off) := by
  unfold State.readWord
  try dsimp only
  repeat' split
  all_goals simp +contextual (maxDischargeDepth := 99) only [hk, h_regs, h_snaps, h_trk, Only_mk, ite_only, or_true, true_or,
    forall_const, imp_self, implies_true, setTrk_only, qinPosRead_only, capture_only, rcClear_only]

theorem readSync_only (hk : OnlyP C base s) (off : Nat) (h_regs : C .regs := by first | assumption | decide)
    (h_outbox : C .outbox := by first | assumption | decide) (h_hif : C .hif := by first | assumption | decide)
    (h_fe : C .fe := by first | assumption | decide) (h_flt : C .flt := by first | assumption | decide) :
    OnlyP C base (s.readSync off) := by
  unfold State.readSync
  simp +contextual (maxDischargeDepth := 99) only [hk, h_regs, h_outbox, h_hif, h_fe, h_flt, Only_mk, ite_only, or_true,
    true_or, forall_const, imp_self, implies_true, lncSync_only]

theorem busRead_only (hk : OnlyP C base s) (b : Bus) (off bytes : Nat) (h_now : C .now := by first | assumption | decide)
    (h_gtOff : C .gtOff := by first | assumption | decide) (h_regs : C .regs := by first | assumption | decide)
    (h_outbox : C .outbox := by first | assumption | decide) (h_freeIdx : C .freeIdx := by first | assumption | decide)
    (h_snaps : C .snaps := by first | assumption | decide) (h_hif : C .hif := by first | assumption | decide)
    (h_fe : C .fe := by first | assumption | decide) (h_trk : C .trk := by first | assumption | decide)
    (h_sch : C .sch := by first | assumption | decide) (h_flt : C .flt := by first | assumption | decide)
    (h_mem : C .mem := by first | assumption | decide) (h_pwr : C .pwr := by first | assumption | decide)
        (h_acq : C .acq := by first | assumption | decide) :
    OnlyP C base (s.busRead b off bytes) := by
  unfold State.busRead
  simp +contextual (maxDischargeDepth := 99) only [hk, h_acq, h_now, h_gtOff, h_regs, h_outbox, h_freeIdx, h_snaps, h_hif,
      h_fe,
    h_trk, h_sch, h_flt, h_mem, h_pwr, Only_mk, ite_only, or_true, true_or, forall_const, imp_self, implies_true, at_only,
    accessWake_only, readWord_only, readSync_only, foldl_only]

/-! ### Machine/RegAccess.lean -/

theorem cfgErr_only (hk : OnlyP C base s) (off : Nat) (h_regs : C .regs := by first | assumption | decide)
    (h_outbox : C .outbox := by first | assumption | decide) (h_hif : C .hif := by first | assumption | decide) :
    OnlyP C base (s.cfgErr off) := by
  unfold State.cfgErr
  simp +contextual (maxDischargeDepth := 99) only [hk, h_regs, h_outbox, h_hif, Only_mk, ite_only, or_true, true_or,
    forall_const, imp_self, implies_true, ev_only]

theorem refStale_only (hk : OnlyP C base s) (n : Nat) (js : List Nat) (h_fe : C .fe := by first | assumption | decide) :
    OnlyP C base (s.refStale n js) := by
  unfold State.refStale
  simp +contextual (maxDischargeDepth := 99) only [hk, h_fe, Only_mk, ite_only, or_true, true_or, forall_const, imp_self,
    implies_true, modF_only]

theorem wrotePwr_only (hk : OnlyP C base s) (off : Nat) (w : Word) (h_pwr : C .pwr := by first | assumption | decide) :
    OnlyP C base (s.wrotePwr off w) := by
  unfold State.wrotePwr
  simp +contextual (maxDischargeDepth := 99) only [hk, h_pwr, Only_mk, ite_only, or_true, true_or, forall_const, imp_self,
    implies_true]

theorem wroteTim_only (hk : OnlyP C base s) (off : Nat) (r0 : Tab Word) (v : Word)
    (h_regs : C .regs := by first | assumption | decide) (h_outbox : C .outbox := by first | assumption | decide)
    (h_hif : C .hif := by first | assumption | decide) (h_tim : C .tim := by first | assumption | decide)
    (h_fe : C .fe := by first | assumption | decide) :
    OnlyP C base (s.wroteTim off r0 v) := by
  unfold State.wroteTim
  try dsimp only
  repeat' split
  all_goals simp +contextual (maxDischargeDepth := 99) only [hk, h_regs, h_outbox, h_hif, h_tim, h_fe, Only_mk, ite_only,
      or_true, true_or, forall_const, imp_self, implies_true, set_only, modF_only, alignAbort_only, syncOff_only,
      alignSet_only, setEpoch_only]

theorem wroteLnc_only (hk : OnlyP C base s) (off : Nat) (h_fe : C .fe := by first | assumption | decide) :
    OnlyP C base (s.wroteLnc off) := by
  unfold State.wroteLnc
  try dsimp only
  repeat' split
  all_goals simp +contextual (maxDischargeDepth := 99) only [hk, h_fe, Only_mk, ite_only, or_true, true_or, forall_const,
      imp_self, implies_true, gatePols_only, refStale_only]

theorem wroteAcq_only (hk : OnlyP C base s) (off : Nat) (h_acq : C .acq := by first | assumption | decide)
    (h_regs : C .regs := by first | assumption | decide) :
    OnlyP C base (s.wroteAcq off) := by
  unfold State.wroteAcq
  simp +contextual (maxDischargeDepth := 99) only [hk, h_regs, h_acq, Only_mk, ite_only, or_true, true_or, forall_const,
      imp_self,
      implies_true, setAcq_only, bgSyncAll_only]

theorem wroteDts_only (hk : OnlyP C base s) (off : Nat) (h_fe : C .fe := by first | assumption | decide) :
    OnlyP C base (s.wroteDts off) := by
  unfold State.wroteDts
  try dsimp only
  repeat' split
  all_goals simp +contextual (maxDischargeDepth := 99) only [hk, h_fe, Only_mk, ite_only, or_true, true_or, forall_const,
    imp_self, implies_true, modF_only]

theorem clearIds_only (hk : OnlyP C base s) (k : Nat) (h_hif : C .hif := by first | assumption | decide) :
    OnlyP C base (s.clearIds k) := by
  unfold State.clearIds
  simp +contextual (maxDischargeDepth := 99) only [hk, h_hif, Only_mk, ite_only, or_true, true_or, forall_const, imp_self,
      implies_true, setRing_only]

theorem wroteEvt_only (hk : OnlyP C base s) (off : Nat) (r0 : Tab Word) (h_regs : C .regs := by first | assumption | decide)
    (h_outbox : C .outbox := by first | assumption | decide) (h_hif : C .hif := by first | assumption | decide)
    (h_fe : C .fe := by first | assumption | decide) (h_trk : C .trk := by first | assumption | decide) :
    OnlyP C base (s.wroteEvt off r0) := by
  unfold State.wroteEvt
  simp +contextual (maxDischargeDepth := 99) only [hk, h_regs, h_outbox, h_hif, h_fe, h_trk, Only_mk, ite_only, or_true,
      true_or, forall_const, imp_self, implies_true, modF_only, evtIdle_only]

theorem wroteHif_only (hk : OnlyP C base s) (off : Nat) (v : Word) (h_regs : C .regs := by first | assumption | decide)
    (h_hostMem : C .hostMem := by first | assumption | decide) (h_outbox : C .outbox := by first | assumption | decide)
    (h_hif : C .hif := by first | assumption | decide) :
    OnlyP C base (s.wroteHif off v) := by
  unfold State.wroteHif
  try dsimp only
  repeat' split
  all_goals simp +contextual (maxDischargeDepth := 99) only [hk, h_regs, h_hostMem, h_outbox, h_hif, Only_mk, ite_only,
      or_true, true_or, forall_const, imp_self, implies_true, set_only, ringRun_only, bufFlush_only, clearIds_only]

theorem wrotePmc_only (hk : OnlyP C base s) (off : Nat) (w v : Word) (h_regs : C .regs := by first | assumption | decide)
    (h_hostMem : C .hostMem := by first | assumption | decide) (h_outbox : C .outbox := by first | assumption | decide)
    (h_hif : C .hif := by first | assumption | decide) (h_pmc : C .pmc := by first | assumption | decide) :
    OnlyP C base (s.wrotePmc off w v) := by
  unfold State.wrotePmc
  simp +contextual (maxDischargeDepth := 99) only [hk, h_regs, h_hostMem, h_outbox, h_hif, h_pmc, Only_mk, ite_only, or_true,
      true_or, forall_const, imp_self, implies_true, setPmc_only, convRelatch_only, pmcTrigger_only, pmcStopAll_only,
      pmcCalStart_only, pmcWritten_only]

theorem wroteMem_only (hk : OnlyP C base s) (off : Nat) (v w : Word) (h_regs : C .regs := by first | assumption | decide)
    (h_outbox : C .outbox := by first | assumption | decide) (h_hif : C .hif := by first | assumption | decide)
    (h_mem : C .mem := by first | assumption | decide) :
    OnlyP C base (s.wroteMem off v w) := by
  unfold State.wroteMem
  simp +contextual (maxDischargeDepth := 99) only [hk, h_regs, h_outbox, h_hif, h_mem, Only_mk, ite_only, or_true, true_or,
      forall_const, imp_self, implies_true, set_only, setMem_only, setShare_only, memInitStart_only, histFrom_only,
      dumpStart_only]

theorem w1c_only (hk : OnlyP C base s) (off : Nat) (v : Word) (h_regs : C .regs := by first | assumption | decide) :
    OnlyP C base (s.w1c off v) := by
  unfold State.w1c
  try dsimp only
  repeat' split
  all_goals simp +contextual (maxDischargeDepth := 99) only [hk, h_regs, Only_mk, ite_only, or_true, true_or, forall_const,
      imp_self, implies_true, setReg_only]

theorem wrote_only (hk : OnlyP C base s) (off : Nat) (v : Word) (h_regs : C .regs := by first | assumption | decide)
    (h_hostMem : C .hostMem := by first | assumption | decide) (h_outbox : C .outbox := by first | assumption | decide)
    (h_hif : C .hif := by first | assumption | decide) (h_tim : C .tim := by first | assumption | decide)
    (h_fe : C .fe := by first | assumption | decide) (h_acq : C .acq := by first | assumption | decide)
    (h_trk : C .trk := by first | assumption | decide) (h_pmc : C .pmc := by first | assumption | decide)
    (h_wmn : C .wmn := by first | assumption | decide) (h_mem : C .mem := by first | assumption | decide)
    (h_pwr : C .pwr := by first | assumption | decide) :
    OnlyP C base (s.wrote off v) := by
  unfold State.wrote
  try dsimp only
  repeat' split
  all_goals simp +contextual (maxDischargeDepth := 99) only [hk, h_regs, h_hostMem, h_outbox, h_hif, h_tim, h_fe, h_acq,
      h_trk, h_pmc, h_wmn, h_mem, h_pwr, Only_mk, ite_only, or_true, true_or, forall_const, imp_self, implies_true,
      trkHold_only, latchWrite_only, trkWrite_only, wrotePwr_only, wroteTim_only, wroteLnc_only, wroteAcq_only,
      wroteDts_only, wroteEvt_only, wroteHif_only, wrotePmc_only, wroteMem_only, w1c_only, withRegs_only]

theorem nvRecord_only (hk : OnlyP C base s) (off : Nat) (v : Word) (h_nvs : C .nvs := by first | assumption | decide) :
    OnlyP C base (s.nvRecord off v) := by
  unfold State.nvRecord
  simp +contextual (maxDischargeDepth := 99) only [hk, h_nvs, Only_mk, ite_only, or_true, true_or, forall_const, imp_self,
      implies_true]

theorem polderStore_only (hk : OnlyP C base s) (off : Nat) (v : Word) (h_regs : C .regs := by first | assumption | decide)
    (h_tables : C .tables := by first | assumption | decide) (h_hostMem : C .hostMem := by first | assumption | decide)
    (h_outbox : C .outbox := by first | assumption | decide) (h_hif : C .hif := by first | assumption | decide)
    (h_fe : C .fe := by first | assumption | decide) (h_acq : C .acq := by first | assumption | decide)
    (h_sch : C .sch := by first | assumption | decide) (h_pmc : C .pmc := by first | assumption | decide)
    (h_wmn : C .wmn := by first | assumption | decide) (h_flt : C .flt := by first | assumption | decide)
    (h_nvs : C .nvs := by first | assumption | decide) (h_trk : C .trk := by first | assumption | decide) :
    OnlyP C base (s.polderStore off v) := by
  unfold State.polderStore
  simp +contextual (maxDischargeDepth := 99) only [hk, h_trk, h_regs, h_tables, h_hostMem, h_outbox, h_hif, h_fe, h_acq,
      h_sch,
      h_pmc, h_wmn, h_flt, h_nvs, Only_mk, ite_only, or_true, true_or, forall_const, imp_self, implies_true, weirWrite_only,
      cfgErr_only, nvRecord_only, withRegs_only]

theorem polderWrite_only (hk : OnlyP C base s) (off : Nat) (v : Word) (h_regs : C .regs := by first | assumption | decide)
    (h_tables : C .tables := by first | assumption | decide) (h_hostMem : C .hostMem := by first | assumption | decide)
    (h_outbox : C .outbox := by first | assumption | decide) (h_hif : C .hif := by first | assumption | decide)
    (h_fe : C .fe := by first | assumption | decide) (h_acq : C .acq := by first | assumption | decide)
    (h_sch : C .sch := by first | assumption | decide) (h_pmc : C .pmc := by first | assumption | decide)
    (h_wmn : C .wmn := by first | assumption | decide) (h_flt : C .flt := by first | assumption | decide)
    (h_nvs : C .nvs := by first | assumption | decide) (h_trk : C .trk := by first | assumption | decide) :
    OnlyP C base (s.polderWrite off v) := by
  unfold State.polderWrite
  try dsimp only
  repeat' split
  all_goals simp +contextual (maxDischargeDepth := 99) only [hk, h_trk, h_regs, h_tables, h_hostMem, h_outbox, h_hif, h_fe,
      h_acq,
      h_sch, h_pmc, h_wmn, h_flt, h_nvs, Only_mk, ite_only, or_true, true_or, forall_const, imp_self, implies_true, ev_only,
      polderStore_only, withRegs_only]

theorem waveWrite_only (hk : OnlyP C base s) (n off : Nat) (v : Word) (h_regs : C .regs := by first | assumption | decide)
    (h_tables : C .tables := by first | assumption | decide) (h_outbox : C .outbox := by first | assumption | decide)
    (h_hif : C .hif := by first | assumption | decide) (h_fe : C .fe := by first | assumption | decide) :
    OnlyP C base (s.waveWrite n off v) := by
  unfold State.waveWrite
  simp +contextual (maxDischargeDepth := 99) only [hk, h_regs, h_tables, h_outbox, h_hif, h_fe, Only_mk, ite_only, or_true,
      true_or, forall_const, imp_self, implies_true, setTword_only, ev_only, refStale_only]

theorem refWrite_only (hk : OnlyP C base s) (n j off : Nat) (v : Word) (h_regs : C .regs := by first | assumption | decide)
    (h_tables : C .tables := by first | assumption | decide) (h_outbox : C .outbox := by first | assumption | decide)
    (h_hif : C .hif := by first | assumption | decide) (h_fe : C .fe := by first | assumption | decide) :
    OnlyP C base (s.refWrite n j off v) := by
  unfold State.refWrite
  simp +contextual (maxDischargeDepth := 99) only [hk, h_regs, h_tables, h_outbox, h_hif, h_fe, Only_mk, ite_only, or_true,
    true_or, forall_const, imp_self, implies_true, setTword_only, ev_only, refStale_only]

theorem tableWrite_only (hk : OnlyP C base s) (off : Nat) (v : Word) (h_regs : C .regs := by first | assumption | decide)
    (h_tables : C .tables := by first | assumption | decide) (h_outbox : C .outbox := by first | assumption | decide)
    (h_hif : C .hif := by first | assumption | decide) (h_fe : C .fe := by first | assumption | decide) :
    OnlyP C base (s.tableWrite off v) := by
  unfold State.tableWrite
  try dsimp only
  repeat' split
  all_goals simp +contextual (maxDischargeDepth := 99) only [hk, h_regs, h_tables, h_outbox, h_hif, h_fe, Only_mk, ite_only,
    or_true, true_or, forall_const, imp_self, implies_true, setTword_only, ev_only, waveWrite_only, refWrite_only]

theorem sysReset_only (hk : OnlyP C base s) (v : Word) (h_gtOff : C .gtOff := by first | assumption | decide)
    (h_regs : C .regs := by first | assumption | decide) (h_tables : C .tables := by first | assumption | decide)
    (h_hostMem : C .hostMem := by first | assumption | decide) (h_outbox : C .outbox := by first | assumption | decide)
    (h_freeIdx : C .freeIdx := by first | assumption | decide) (h_safeN : C .safeN := by first | assumption | decide)
    (h_snaps : C .snaps := by first | assumption | decide) (h_hif : C .hif := by first | assumption | decide)
    (h_spill : C .spill := by first | assumption | decide) (h_fe : C .fe := by first | assumption | decide)
    (h_acq : C .acq := by first | assumption | decide) (h_trk : C .trk := by first | assumption | decide)
    (h_sch : C .sch := by first | assumption | decide) (h_pmc : C .pmc := by first | assumption | decide)
    (h_wmn : C .wmn := by first | assumption | decide) (h_flt : C .flt := by first | assumption | decide)
    (h_mem : C .mem := by first | assumption | decide) (h_pwr : C .pwr := by first | assumption | decide)
    (h_nvs : C .nvs := by first | assumption | decide) (h_tim : C .tim := by first | assumption | decide) :
    OnlyP C base (s.sysReset v) := by
  unfold State.sysReset
  simp +contextual (maxDischargeDepth := 99) only [hk, h_tim, h_gtOff, h_regs, h_tables, h_hostMem, h_outbox, h_freeIdx,
      h_safeN,
    h_snaps, h_hif, h_spill, h_fe, h_acq, h_trk, h_sch, h_pmc, h_wmn, h_flt, h_mem, h_pwr, h_nvs, Only_mk, ite_only, or_true,
    true_or, forall_const, imp_self, implies_true, ev_only, warmReset_only]

theorem writeWord_only (hk : OnlyP C base s) (m : Master) (off : Nat) (v : Word)
    (h_gtOff : C .gtOff := by first | assumption | decide) (h_regs : C .regs := by first | assumption | decide)
    (h_tables : C .tables := by first | assumption | decide) (h_hostMem : C .hostMem := by first | assumption | decide)
    (h_outbox : C .outbox := by first | assumption | decide) (h_freeIdx : C .freeIdx := by first | assumption | decide)
    (h_safeN : C .safeN := by first | assumption | decide) (h_snaps : C .snaps := by first | assumption | decide)
    (h_hif : C .hif := by first | assumption | decide) (h_spill : C .spill := by first | assumption | decide)
    (h_tim : C .tim := by first | assumption | decide) (h_fe : C .fe := by first | assumption | decide)
    (h_acq : C .acq := by first | assumption | decide) (h_trk : C .trk := by first | assumption | decide)
    (h_sch : C .sch := by first | assumption | decide) (h_pmc : C .pmc := by first | assumption | decide)
    (h_wmn : C .wmn := by first | assumption | decide) (h_flt : C .flt := by first | assumption | decide)
    (h_mem : C .mem := by first | assumption | decide) (h_pwr : C .pwr := by first | assumption | decide)
    (h_nvs : C .nvs := by first | assumption | decide) :
    OnlyP C base (s.writeWord m off v) := by
  unfold State.writeWord
  try dsimp only
  repeat' split
  all_goals simp +contextual (maxDischargeDepth := 99) only [hk, h_gtOff, h_regs, h_tables, h_hostMem, h_outbox, h_freeIdx,
    h_safeN, h_snaps, h_hif, h_spill, h_tim, h_fe, h_acq, h_trk, h_sch, h_pmc, h_wmn, h_flt, h_mem, h_pwr, h_nvs, Only_mk,
    ite_only, or_true, true_or, forall_const, imp_self, implies_true, cfgErr_only, wrote_only, polderWrite_only,
    tableWrite_only, sysReset_only, withRegs_only]

theorem writeBar2_only (hk : OnlyP C base s) (a : Nat) (v : Word) (h_regs : C .regs := by first | assumption | decide)
    (h_hostMem : C .hostMem := by first | assumption | decide) (h_outbox : C .outbox := by first | assumption | decide)
    (h_hif : C .hif := by first | assumption | decide) :
    OnlyP C base (s.writeBar2 a v) := by
  unfold State.writeBar2
  simp +contextual (maxDischargeDepth := 99) only [hk, h_regs, h_hostMem, h_outbox, h_hif, Only_mk, ite_only, or_true,
      true_or, forall_const, imp_self, implies_true, msixFlush_only, cmdDb_only, cplDb_only, strDb_only]

theorem busWrite_only (hk : OnlyP C base s) (b : Bus) (off bytes : Nat) (v : BitVec 64)
    (h_now : C .now := by first | assumption | decide) (h_gtOff : C .gtOff := by first | assumption | decide)
    (h_regs : C .regs := by first | assumption | decide) (h_tables : C .tables := by first | assumption | decide)
    (h_hostMem : C .hostMem := by first | assumption | decide) (h_outbox : C .outbox := by first | assumption | decide)
    (h_freeIdx : C .freeIdx := by first | assumption | decide) (h_safeN : C .safeN := by first | assumption | decide)
    (h_snaps : C .snaps := by first | assumption | decide) (h_hif : C .hif := by first | assumption | decide)
    (h_spill : C .spill := by first | assumption | decide) (h_tim : C .tim := by first | assumption | decide)
    (h_fe : C .fe := by first | assumption | decide) (h_acq : C .acq := by first | assumption | decide)
    (h_trk : C .trk := by first | assumption | decide) (h_sch : C .sch := by first | assumption | decide)
    (h_pmc : C .pmc := by first | assumption | decide) (h_wmn : C .wmn := by first | assumption | decide)
    (h_flt : C .flt := by first | assumption | decide) (h_mem : C .mem := by first | assumption | decide)
    (h_pwr : C .pwr := by first | assumption | decide) (h_nvs : C .nvs := by first | assumption | decide) :
    OnlyP C base (s.busWrite b off bytes v) := by
  unfold State.busWrite
  simp +contextual (maxDischargeDepth := 99) only [hk, h_now, h_gtOff, h_regs, h_tables, h_hostMem, h_outbox, h_freeIdx,
      h_safeN, h_snaps, h_hif, h_spill, h_tim, h_fe, h_acq, h_trk, h_sch, h_pmc, h_wmn, h_flt, h_mem, h_pwr, h_nvs, Only_mk,
      ite_only, or_true, true_or, forall_const, imp_self, implies_true, at_only, accessWake_only, readSync_only,
      writeWord_only, writeBar2_only]

theorem busWord_only (hk : OnlyP C base s) (b : Bus) (off : Nat) (v : Word)
    (h_now : C .now := by first | assumption | decide) (h_gtOff : C .gtOff := by first | assumption | decide)
    (h_regs : C .regs := by first | assumption | decide) (h_tables : C .tables := by first | assumption | decide)
    (h_hostMem : C .hostMem := by first | assumption | decide) (h_outbox : C .outbox := by first | assumption | decide)
    (h_freeIdx : C .freeIdx := by first | assumption | decide) (h_safeN : C .safeN := by first | assumption | decide)
    (h_snaps : C .snaps := by first | assumption | decide) (h_hif : C .hif := by first | assumption | decide)
    (h_spill : C .spill := by first | assumption | decide) (h_tim : C .tim := by first | assumption | decide)
    (h_fe : C .fe := by first | assumption | decide) (h_acq : C .acq := by first | assumption | decide)
    (h_trk : C .trk := by first | assumption | decide) (h_sch : C .sch := by first | assumption | decide)
    (h_pmc : C .pmc := by first | assumption | decide) (h_wmn : C .wmn := by first | assumption | decide)
    (h_flt : C .flt := by first | assumption | decide) (h_mem : C .mem := by first | assumption | decide)
    (h_pwr : C .pwr := by first | assumption | decide) (h_nvs : C .nvs := by first | assumption | decide) :
    OnlyP C base (s.busWord b off v) := by
  unfold State.busWord
  simp +contextual (maxDischargeDepth := 99) only [hk, h_now, h_gtOff, h_regs, h_tables, h_hostMem, h_outbox, h_freeIdx,
    h_safeN, h_snaps, h_hif, h_spill, h_tim, h_fe, h_acq, h_trk, h_sch, h_pmc, h_wmn, h_flt, h_mem, h_pwr, h_nvs, Only_mk,
    ite_only, or_true, true_or, forall_const, imp_self, implies_true, busWrite_only]

theorem doorbell_only (hk : OnlyP C base s) (b : Bus) (act : State → State) (ha : ∀ x,
    OnlyP C base x → OnlyP C base (act x)) (h_now : C .now := by first | assumption | decide)
    (h_gtOff : C .gtOff := by first | assumption | decide) (h_regs : C .regs := by first | assumption | decide)
    (h_outbox : C .outbox := by first | assumption | decide) (h_freeIdx : C .freeIdx := by first | assumption | decide)
    (h_hif : C .hif := by first | assumption | decide) (h_sch : C .sch := by first | assumption | decide)
    (h_mem : C .mem := by first | assumption | decide) (h_pwr : C .pwr := by first | assumption | decide)
        (h_acq : C .acq := by first | assumption | decide) (h_fe : C .fe := by first | assumption | decide) :
    OnlyP C base (s.doorbell b act) := by
  have h1 := accessWake_only (at_only hk b.t)
  unfold State.doorbell
  exact ite_only (ite_only h1 (ha _ h1)) (at_only hk b.t)

theorem spiReads_only (hk : OnlyP C base s) (addr : Nat) (inc : Bool) (n : Nat)
    (h_regs : C .regs := by first | assumption | decide) (h_snaps : C .snaps := by first | assumption | decide)
    (h_trk : C .trk := by first | assumption | decide) :
    OnlyP C base (s.spiReads addr inc n) := by
  unfold State.spiReads
  simp +contextual (maxDischargeDepth := 99) only [hk, h_regs, h_snaps, h_trk, Only_mk, ite_only, or_true, true_or,
    forall_const, imp_self, implies_true, readWord_only, foldl_only]

theorem spiWrites_only (hk : OnlyP C base s) (addr : Nat) (inc : Bool) (ws : List Word)
    (h_gtOff : C .gtOff := by first | assumption | decide) (h_regs : C .regs := by first | assumption | decide)
    (h_tables : C .tables := by first | assumption | decide) (h_hostMem : C .hostMem := by first | assumption | decide)
    (h_outbox : C .outbox := by first | assumption | decide) (h_freeIdx : C .freeIdx := by first | assumption | decide)
    (h_safeN : C .safeN := by first | assumption | decide) (h_snaps : C .snaps := by first | assumption | decide)
    (h_hif : C .hif := by first | assumption | decide) (h_spill : C .spill := by first | assumption | decide)
    (h_tim : C .tim := by first | assumption | decide) (h_fe : C .fe := by first | assumption | decide)
    (h_acq : C .acq := by first | assumption | decide) (h_trk : C .trk := by first | assumption | decide)
    (h_sch : C .sch := by first | assumption | decide) (h_pmc : C .pmc := by first | assumption | decide)
    (h_wmn : C .wmn := by first | assumption | decide) (h_flt : C .flt := by first | assumption | decide)
    (h_mem : C .mem := by first | assumption | decide) (h_pwr : C .pwr := by first | assumption | decide)
    (h_nvs : C .nvs := by first | assumption | decide) :
    OnlyP C base (s.spiWrites addr inc ws) := by
  unfold State.spiWrites
  simp +contextual (maxDischargeDepth := 99) only [hk, h_gtOff, h_regs, h_tables, h_hostMem, h_outbox, h_freeIdx, h_safeN,
      h_snaps, h_hif, h_spill, h_tim, h_fe, h_acq, h_trk, h_sch, h_pmc, h_wmn, h_flt, h_mem, h_pwr, h_nvs, Only_mk, ite_only,
      or_true, true_or, forall_const, imp_self, implies_true, setPmc_only, writeWord_only, foldl_only]

theorem spiRun_only (hk : OnlyP C base s) (t : Nat) (cmd : BitVec 8) (addr : BitVec 16) (data : List Word) (reads : Nat)
    (h_now : C .now := by first | assumption | decide) (h_gtOff : C .gtOff := by first | assumption | decide)
    (h_regs : C .regs := by first | assumption | decide) (h_tables : C .tables := by first | assumption | decide)
    (h_hostMem : C .hostMem := by first | assumption | decide) (h_outbox : C .outbox := by first | assumption | decide)
    (h_freeIdx : C .freeIdx := by first | assumption | decide) (h_safeN : C .safeN := by first | assumption | decide)
    (h_snaps : C .snaps := by first | assumption | decide) (h_hif : C .hif := by first | assumption | decide)
    (h_spill : C .spill := by first | assumption | decide) (h_tim : C .tim := by first | assumption | decide)
    (h_fe : C .fe := by first | assumption | decide) (h_acq : C .acq := by first | assumption | decide)
    (h_trk : C .trk := by first | assumption | decide) (h_sch : C .sch := by first | assumption | decide)
    (h_pmc : C .pmc := by first | assumption | decide) (h_wmn : C .wmn := by first | assumption | decide)
    (h_flt : C .flt := by first | assumption | decide) (h_mem : C .mem := by first | assumption | decide)
    (h_pwr : C .pwr := by first | assumption | decide) (h_nvs : C .nvs := by first | assumption | decide) :
    OnlyP C base (s.spiRun t cmd addr data reads) := by
  unfold State.spiRun
  simp +contextual (maxDischargeDepth := 99) only [hk, h_now, h_gtOff, h_regs, h_tables, h_hostMem, h_outbox, h_freeIdx,
    h_safeN, h_snaps, h_hif, h_spill, h_tim, h_fe, h_acq, h_trk, h_sch, h_pmc, h_wmn, h_flt, h_mem, h_pwr, h_nvs, Only_mk,
    ite_only, or_true, true_or, forall_const, imp_self, implies_true, at_only, setPmc_only, wake_only, spiReads_only,
    spiWrites_only]

/-! ### Machine/Boot.lean -/

theorem bootTo_only (hk : OnlyP C base s) (k : Nat)
    (h_pwr : C .pwr := by first | assumption | decide) : OnlyP C base (s.bootTo k) := by
  unfold State.bootTo
  exact Only_mk hk

theorem bootNv_only (hk : OnlyP C base s) (i : BootInfo) (h_regs : C .regs := by first | assumption | decide)
    (h_outbox : C .outbox := by first | assumption | decide) (h_hif : C .hif := by first | assumption | decide)
    (h_flt : C .flt := by first | assumption | decide) :
    OnlyP C base (s.bootNv i) := by
  unfold State.bootNv
  simp +contextual (maxDischargeDepth := 99) only [hk, h_regs, h_outbox, h_hif, h_flt, Only_mk, ite_only, or_true, true_or,
      forall_const, imp_self, implies_true, set_only, nvErrs_only]

theorem slotsSeen_only (hk : OnlyP C base s) (k : Nat) (i : BootInfo) (h_pwr : C .pwr := by first | assumption | decide) :
    OnlyP C base (s.slotsSeen k i) := by
  unfold State.slotsSeen
  simp +contextual (maxDischargeDepth := 99) only [hk, h_pwr, Only_mk, ite_only, or_true, true_or, forall_const, imp_self,
      implies_true]

theorem bootFails_only (hk : OnlyP C base s) (code : Nat) (gnowa : Bool)
    (h_regs : C .regs := by first | assumption | decide) (h_outbox : C .outbox := by first | assumption | decide)
    (h_hif : C .hif := by first | assumption | decide) (h_pwr : C .pwr := by first | assumption | decide) :
    OnlyP C base (s.bootFails code gnowa) := by
  unfold State.bootFails
  simp +contextual (maxDischargeDepth := 99) only [hk, h_regs, h_outbox, h_hif, h_pwr, Only_mk, ite_only, or_true, true_or,
      forall_const, imp_self, implies_true, set_only, ev_only]

theorem bootMs_only (hk : OnlyP C base s) (h_regs : C .regs := by first | assumption | decide)
    (h_freeIdx : C .freeIdx := by first | assumption | decide) :
    OnlyP C base (s.bootMs) := by
  unfold State.bootMs
  simp +contextual (maxDischargeDepth := 99) only [hk, h_regs, h_freeIdx, Only_mk, ite_only, or_true, true_or, forall_const,
    imp_self, implies_true, set_only, nextFree_only]

theorem polderRestore_only (hk : OnlyP C base s) (off : Nat) (v : Word) (h_regs : C .regs := by first | assumption | decide)
    (h_tables : C .tables := by first | assumption | decide) (h_hostMem : C .hostMem := by first | assumption | decide)
    (h_outbox : C .outbox := by first | assumption | decide) (h_hif : C .hif := by first | assumption | decide)
    (h_fe : C .fe := by first | assumption | decide) (h_sch : C .sch := by first | assumption | decide)
    (h_wmn : C .wmn := by first | assumption | decide) (h_flt : C .flt := by first | assumption | decide)
        (h_acq : C .acq := by first | assumption | decide) (h_pmc : C .pmc := by first | assumption | decide)
            (h_trk : C .trk := by first | assumption | decide) :
    OnlyP C base (s.polderRestore off v) := by
  unfold State.polderRestore
  simp +contextual (maxDischargeDepth := 99) only [hk, h_trk, h_acq, h_pmc, h_regs, h_tables, h_hostMem, h_outbox, h_hif,
      h_fe,
      h_sch, h_wmn,
    h_flt, Only_mk, ite_only, or_true, true_or, forall_const, imp_self, implies_true, weirWrite_only, cfgErr_only,
    withRegs_only]

theorem nvReg_only (hk : OnlyP C base s) (reg off : Nat) (h_regs : C .regs := by first | assumption | decide) :
    OnlyP C base (s.nvReg reg off) := by
  unfold State.nvReg
  try dsimp only
  repeat' split
  all_goals simp +contextual (maxDischargeDepth := 99) only [hk, h_regs, Only_mk, ite_only, or_true, true_or, forall_const,
      imp_self, implies_true, setReg_only]

theorem calfRestore_only (hk : OnlyP C base s) (h_regs : C .regs := by first | assumption | decide) :
    OnlyP C base (s.calfRestore) := by
  unfold State.calfRestore
  simp +contextual (maxDischargeDepth := 99) only [hk, h_regs, Only_mk, ite_only, or_true, true_or, forall_const, imp_self,
      implies_true, nvReg_only, foldl_only]

theorem delayRestore_only (hk : OnlyP C base s) (h_regs : C .regs := by first | assumption | decide)
    (h_freeIdx : C .freeIdx := by first | assumption | decide) :
    OnlyP C base (s.delayRestore) := by
  unfold State.delayRestore
  simp +contextual (maxDischargeDepth := 99) only [hk, h_regs, h_freeIdx, Only_mk, ite_only, or_true, true_or, forall_const,
      imp_self, implies_true, setReg_only, set_only, nextFree_only, nvReg_only, foldl_only]

theorem appRestore_only (hk : OnlyP C base s) (l : List (Nat × Word)) (h_gtOff : C .gtOff := by first | assumption | decide)
    (h_regs : C .regs := by first | assumption | decide) (h_tables : C .tables := by first | assumption | decide)
    (h_hostMem : C .hostMem := by first | assumption | decide) (h_outbox : C .outbox := by first | assumption | decide)
    (h_freeIdx : C .freeIdx := by first | assumption | decide) (h_safeN : C .safeN := by first | assumption | decide)
    (h_snaps : C .snaps := by first | assumption | decide) (h_hif : C .hif := by first | assumption | decide)
    (h_spill : C .spill := by first | assumption | decide) (h_tim : C .tim := by first | assumption | decide)
    (h_fe : C .fe := by first | assumption | decide) (h_acq : C .acq := by first | assumption | decide)
    (h_trk : C .trk := by first | assumption | decide) (h_sch : C .sch := by first | assumption | decide)
    (h_pmc : C .pmc := by first | assumption | decide) (h_wmn : C .wmn := by first | assumption | decide)
    (h_flt : C .flt := by first | assumption | decide) (h_mem : C .mem := by first | assumption | decide)
    (h_pwr : C .pwr := by first | assumption | decide) (h_nvs : C .nvs := by first | assumption | decide) :
    OnlyP C base (s.appRestore l) := by
  unfold State.appRestore
  simp +contextual (maxDischargeDepth := 99) only [hk, h_gtOff, h_regs, h_tables, h_hostMem, h_outbox, h_freeIdx, h_safeN,
      h_snaps, h_hif, h_spill, h_tim, h_fe, h_acq, h_trk, h_sch, h_pmc, h_wmn, h_flt, h_mem, h_pwr, h_nvs, Only_mk, ite_only,
      or_true, true_or, forall_const, imp_self, implies_true, writeWord_only, calfRestore_only, delayRestore_only, foldl_only]

theorem pmcReady_only (hk : OnlyP C base s) (h_pmc : C .pmc := by first | assumption | decide) :
    OnlyP C base (s.pmcReady) := by
  unfold State.pmcReady
  simp +contextual (maxDischargeDepth := 99) only [hk, h_pmc, Only_mk, ite_only, or_true, true_or, forall_const, imp_self,
      implies_true, setPmc_only]

theorem bootImage_only (hk : OnlyP C base s) (i : ImageRead) (h_regs : C .regs := by first | assumption | decide)
    (h_outbox : C .outbox := by first | assumption | decide) (h_hif : C .hif := by first | assumption | decide)
    (h_sch : C .sch := by first | assumption | decide) (h_mem : C .mem := by first | assumption | decide) :
    OnlyP C base (s.bootImage i) := by
  unfold State.bootImage
  simp +contextual (maxDischargeDepth := 99) only [hk, h_mem, h_regs, h_outbox, h_hif, h_sch, Only_mk, ite_only, or_true,
      true_or,
    forall_const, imp_self, implies_true, set_only, admitImage_only]

theorem snapshotBack_only (hk : OnlyP C base s) (h_gtOff : C .gtOff := by first | assumption | decide)
    (h_regs : C .regs := by first | assumption | decide) (h_tables : C .tables := by first | assumption | decide)
    (h_freeIdx : C .freeIdx := by first | assumption | decide) (h_acq : C .acq := by first | assumption | decide)
    (h_pmc : C .pmc := by first | assumption | decide) (h_wmn : C .wmn := by first | assumption | decide) :
    OnlyP C base (s.snapshotBack) := by
  unfold State.snapshotBack
  simp +contextual (maxDischargeDepth := 99) only [hk, h_gtOff, h_regs, h_tables, h_freeIdx, h_acq, h_pmc, h_wmn, Only_mk,
      ite_only, or_true, true_or, forall_const, imp_self, implies_true]

theorem fastResume_only (hk : OnlyP C base s) (i : BootInfo) (h_gtOff : C .gtOff := by first | assumption | decide)
    (h_regs : C .regs := by first | assumption | decide) (h_tables : C .tables := by first | assumption | decide)
    (h_hostMem : C .hostMem := by first | assumption | decide) (h_outbox : C .outbox := by first | assumption | decide)
    (h_freeIdx : C .freeIdx := by first | assumption | decide) (h_safeN : C .safeN := by first | assumption | decide)
    (h_snaps : C .snaps := by first | assumption | decide) (h_hif : C .hif := by first | assumption | decide)
    (h_spill : C .spill := by first | assumption | decide) (h_tim : C .tim := by first | assumption | decide)
    (h_fe : C .fe := by first | assumption | decide) (h_acq : C .acq := by first | assumption | decide)
    (h_trk : C .trk := by first | assumption | decide) (h_sch : C .sch := by first | assumption | decide)
    (h_pmc : C .pmc := by first | assumption | decide) (h_wmn : C .wmn := by first | assumption | decide)
    (h_flt : C .flt := by first | assumption | decide) (h_mem : C .mem := by first | assumption | decide)
    (h_pwr : C .pwr := by first | assumption | decide) (h_nvs : C .nvs := by first | assumption | decide) :
    OnlyP C base (s.fastResume i) := by
  unfold State.fastResume
  simp +contextual (maxDischargeDepth := 99) only [hk, h_gtOff, h_regs, h_tables, h_hostMem, h_outbox, h_freeIdx, h_safeN,
      h_snaps, h_hif, h_spill, h_tim, h_fe, h_acq, h_trk, h_sch, h_pmc, h_wmn, h_flt, h_mem, h_pwr, h_nvs, Only_mk, ite_only,
      or_true, true_or, forall_const, imp_self, implies_true, set_only, bermInit_only, resAcc_only, safeFollow_only,
      bootMs_only, polderRestore_only, appRestore_only, pmcReady_only, snapshotBack_only, foldl_only]

theorem boot5_only (hk : OnlyP C base s) (i : BootInfo) (h_gtOff : C .gtOff := by first | assumption | decide)
    (h_regs : C .regs := by first | assumption | decide) (h_tables : C .tables := by first | assumption | decide)
    (h_hostMem : C .hostMem := by first | assumption | decide) (h_outbox : C .outbox := by first | assumption | decide)
    (h_freeIdx : C .freeIdx := by first | assumption | decide) (h_safeN : C .safeN := by first | assumption | decide)
    (h_snaps : C .snaps := by first | assumption | decide) (h_hif : C .hif := by first | assumption | decide)
    (h_spill : C .spill := by first | assumption | decide) (h_tim : C .tim := by first | assumption | decide)
    (h_fe : C .fe := by first | assumption | decide) (h_acq : C .acq := by first | assumption | decide)
    (h_trk : C .trk := by first | assumption | decide) (h_sch : C .sch := by first | assumption | decide)
    (h_pmc : C .pmc := by first | assumption | decide) (h_wmn : C .wmn := by first | assumption | decide)
    (h_flt : C .flt := by first | assumption | decide) (h_mem : C .mem := by first | assumption | decide)
    (h_pwr : C .pwr := by first | assumption | decide) (h_nvs : C .nvs := by first | assumption | decide) :
    OnlyP C base (s.boot5 i) := by
  unfold State.boot5
  simp +contextual (maxDischargeDepth := 99) only [hk, h_gtOff, h_regs, h_tables, h_hostMem, h_outbox, h_freeIdx, h_safeN,
      h_snaps, h_hif, h_spill, h_tim, h_fe, h_acq, h_trk, h_sch, h_pmc, h_wmn, h_flt, h_mem, h_pwr, h_nvs, Only_mk, ite_only,
      or_true, true_or, forall_const, imp_self, implies_true, set_only, resAcc_only, safeFollow_only, coldReset_only,
      bootTo_only, fastResume_only]

theorem boot6_only (hk : OnlyP C base s) (i : BootInfo) (h_regs : C .regs := by first | assumption | decide)
    (h_tables : C .tables := by first | assumption | decide) (h_hostMem : C .hostMem := by first | assumption | decide)
    (h_outbox : C .outbox := by first | assumption | decide) (h_hif : C .hif := by first | assumption | decide)
    (h_fe : C .fe := by first | assumption | decide) (h_acq : C .acq := by first | assumption | decide)
    (h_trk : C .trk := by first | assumption | decide) (h_sch : C .sch := by first | assumption | decide)
    (h_flt : C .flt := by first | assumption | decide) (h_pwr : C .pwr := by first | assumption | decide) :
    OnlyP C base (s.boot6 i) := by
  unfold State.boot6
  try dsimp only
  repeat' split
  all_goals simp +contextual (maxDischargeDepth := 99) only [hk, h_regs, h_tables, h_hostMem, h_outbox, h_hif, h_fe, h_acq,
      h_trk, h_sch, h_flt, h_pwr, Only_mk, ite_only, or_true, true_or, forall_const, imp_self, implies_true, set_only,
      setB_only, trip_only, weirRoute_only, modeReg_only, bootTo_only, bootNv_only, slotsSeen_only, bootFails_only,
      foldl_only]

theorem boot7_only (hk : OnlyP C base s) (i : BootInfo) (h_regs : C .regs := by first | assumption | decide)
    (h_tables : C .tables := by first | assumption | decide) (h_hostMem : C .hostMem := by first | assumption | decide)
    (h_outbox : C .outbox := by first | assumption | decide) (h_hif : C .hif := by first | assumption | decide)
    (h_spill : C .spill := by first | assumption | decide) (h_fe : C .fe := by first | assumption | decide)
    (h_acq : C .acq := by first | assumption | decide) (h_trk : C .trk := by first | assumption | decide)
    (h_sch : C .sch := by first | assumption | decide) (h_pmc : C .pmc := by first | assumption | decide)
    (h_wmn : C .wmn := by first | assumption | decide) (h_flt : C .flt := by first | assumption | decide)
    (h_pwr : C .pwr := by first | assumption | decide) :
    OnlyP C base (s.boot7 i) := by
  unfold State.boot7
  simp +contextual (maxDischargeDepth := 99) only [hk, h_regs, h_tables, h_hostMem, h_outbox, h_hif, h_spill, h_fe, h_acq,
      h_trk, h_sch, h_pmc, h_wmn, h_flt, h_pwr, Only_mk, ite_only, or_true, true_or, forall_const, imp_self, implies_true,
      setWp_only, recontain_only, bootTo_only, bootNv_only, polderRestore_only, foldl_only]

theorem boot8_only (hk : OnlyP C base s) (i : BootInfo) (h_regs : C .regs := by first | assumption | decide)
    (h_outbox : C .outbox := by first | assumption | decide) (h_hif : C .hif := by first | assumption | decide)
    (h_flt : C .flt := by first | assumption | decide) (h_pwr : C .pwr := by first | assumption | decide) :
    OnlyP C base (s.boot8 i) := by
  unfold State.boot8
  try dsimp only
  repeat' split
  all_goals simp +contextual (maxDischargeDepth := 99) only [hk, h_regs, h_outbox, h_hif, h_flt, h_pwr, Only_mk, ite_only,
      or_true, true_or, forall_const, imp_self, implies_true, set_only, setB_only, bootNv_only, slotsSeen_only,
      bootFails_only]

theorem boot9_only (hk : OnlyP C base s) (i : BootInfo) (h_gtOff : C .gtOff := by first | assumption | decide)
    (h_regs : C .regs := by first | assumption | decide) (h_tables : C .tables := by first | assumption | decide)
    (h_hostMem : C .hostMem := by first | assumption | decide) (h_outbox : C .outbox := by first | assumption | decide)
    (h_freeIdx : C .freeIdx := by first | assumption | decide) (h_safeN : C .safeN := by first | assumption | decide)
    (h_snaps : C .snaps := by first | assumption | decide) (h_hif : C .hif := by first | assumption | decide)
    (h_spill : C .spill := by first | assumption | decide) (h_tim : C .tim := by first | assumption | decide)
    (h_fe : C .fe := by first | assumption | decide) (h_acq : C .acq := by first | assumption | decide)
    (h_trk : C .trk := by first | assumption | decide) (h_sch : C .sch := by first | assumption | decide)
    (h_pmc : C .pmc := by first | assumption | decide) (h_wmn : C .wmn := by first | assumption | decide)
    (h_flt : C .flt := by first | assumption | decide) (h_mem : C .mem := by first | assumption | decide)
    (h_pwr : C .pwr := by first | assumption | decide) (h_nvs : C .nvs := by first | assumption | decide) :
    OnlyP C base (s.boot9 i) := by
  unfold State.boot9
  simp +contextual (maxDischargeDepth := 99) only [hk, h_gtOff, h_regs, h_tables, h_hostMem, h_outbox, h_freeIdx, h_safeN,
      h_snaps, h_hif, h_spill, h_tim, h_fe, h_acq, h_trk, h_sch, h_pmc, h_wmn, h_flt, h_mem, h_pwr, h_nvs, Only_mk, ite_only,
      or_true, true_or, forall_const, imp_self, implies_true, set_only, bootTo_only, bootNv_only, appRestore_only,
      pmcReady_only]

theorem boot10_only (hk : OnlyP C base s) (i : BootInfo) (h_regs : C .regs := by first | assumption | decide)
    (h_outbox : C .outbox := by first | assumption | decide) (h_hif : C .hif := by first | assumption | decide)
    (h_sch : C .sch := by first | assumption | decide) (h_flt : C .flt := by first | assumption | decide)
    (h_pwr : C .pwr := by first | assumption | decide) (h_mem : C .mem := by first | assumption | decide) :
    OnlyP C base (s.boot10 i) := by
  unfold State.boot10
  simp +contextual (maxDischargeDepth := 99) only [hk, h_mem, h_regs, h_outbox, h_hif, h_sch, h_flt, h_pwr, Only_mk, ite_only,
    or_true, true_or, forall_const, imp_self, implies_true, bootTo_only, bootNv_only, bootImage_only, foldl_only]

theorem boot11_only (hk : OnlyP C base s) (i : BootInfo) (h_regs : C .regs := by first | assumption | decide)
    (h_tables : C .tables := by first | assumption | decide) (h_hostMem : C .hostMem := by first | assumption | decide)
    (h_outbox : C .outbox := by first | assumption | decide) (h_freeIdx : C .freeIdx := by first | assumption | decide)
    (h_hif : C .hif := by first | assumption | decide) (h_fe : C .fe := by first | assumption | decide)
    (h_acq : C .acq := by first | assumption | decide) (h_sch : C .sch := by first | assumption | decide)
    (h_pmc : C .pmc := by first | assumption | decide) (h_flt : C .flt := by first | assumption | decide)
    (h_pwr : C .pwr := by first | assumption | decide) (h_trk : C .trk := by first | assumption | decide)
        (h_nvs : C .nvs := by first | assumption | decide) :
    OnlyP C base (s.boot11 i) := by
  unfold State.boot11
  simp +contextual (maxDischargeDepth := 99) only [hk, h_trk, h_nvs, h_regs, h_tables, h_hostMem, h_outbox, h_freeIdx, h_hif,
      h_fe, h_acq,
      h_sch, h_pmc, h_flt, h_pwr, Only_mk, ite_only, or_true, true_or, forall_const, imp_self, implies_true, set_only,
      enterMode_only, bootTo_only, bootNv_only, bootMs_only, pmcReady_only]

theorem bootStep_only (hk : OnlyP C base s) (i : BootInfo) (h_gtOff : C .gtOff := by first | assumption | decide)
    (h_regs : C .regs := by first | assumption | decide) (h_tables : C .tables := by first | assumption | decide)
    (h_hostMem : C .hostMem := by first | assumption | decide) (h_outbox : C .outbox := by first | assumption | decide)
    (h_freeIdx : C .freeIdx := by first | assumption | decide) (h_safeN : C .safeN := by first | assumption | decide)
    (h_snaps : C .snaps := by first | assumption | decide) (h_hif : C .hif := by first | assumption | decide)
    (h_spill : C .spill := by first | assumption | decide) (h_tim : C .tim := by first | assumption | decide)
    (h_fe : C .fe := by first | assumption | decide) (h_acq : C .acq := by first | assumption | decide)
    (h_trk : C .trk := by first | assumption | decide) (h_sch : C .sch := by first | assumption | decide)
    (h_pmc : C .pmc := by first | assumption | decide) (h_wmn : C .wmn := by first | assumption | decide)
    (h_flt : C .flt := by first | assumption | decide) (h_mem : C .mem := by first | assumption | decide)
    (h_pwr : C .pwr := by first | assumption | decide) (h_nvs : C .nvs := by first | assumption | decide) :
    OnlyP C base (s.bootStep i) := by
  unfold State.bootStep
  try dsimp only
  repeat' split
  all_goals simp +contextual (maxDischargeDepth := 99) only [hk, h_gtOff, h_regs, h_tables, h_hostMem, h_outbox, h_freeIdx,
    h_safeN, h_snaps, h_hif, h_spill, h_tim, h_fe, h_acq, h_trk, h_sch, h_pmc, h_wmn, h_flt, h_mem, h_pwr, h_nvs, Only_mk,
    ite_only, or_true, true_or, forall_const, imp_self, implies_true, boot5_only, boot6_only, boot7_only, boot8_only,
    boot9_only, boot10_only, boot11_only]

/-! ### Machine/RingCmds.lean -/

theorem readLog_only (hk : OnlyP C base s) (c : Cmd) (addr len : Nat) (h_regs : C .regs := by first | assumption | decide)
    (h_hostMem : C .hostMem := by first | assumption | decide) (h_outbox : C .outbox := by first | assumption | decide)
    (h_hif : C .hif := by first | assumption | decide) :
    OnlyP C base (s.readLog c addr len) := by
  unfold State.readLog
  simp +contextual (maxDischargeDepth := 99) only [hk, h_regs, h_hostMem, h_outbox, h_hif, Only_mk, ite_only, or_true,
    true_or, forall_const, imp_self, implies_true, dmaWrite_only, complete_only]

theorem spillDrain_only (hk : OnlyP C base s) (c : Cmd) (h_regs : C .regs := by first | assumption | decide)
    (h_hostMem : C .hostMem := by first | assumption | decide) (h_outbox : C .outbox := by first | assumption | decide)
    (h_hif : C .hif := by first | assumption | decide) :
    OnlyP C base (s.spillDrain c) := by
  unfold State.spillDrain
  simp +contextual (maxDischargeDepth := 99) only [hk, h_regs, h_hostMem, h_outbox, h_hif, Only_mk, ite_only, or_true,
    true_or, forall_const, imp_self, implies_true, set_only, ev_only, complete_only]

theorem streamFlush_only (hk : OnlyP C base s) (mask : Nat) (h_regs : C .regs := by first | assumption | decide)
    (h_hostMem : C .hostMem := by first | assumption | decide) (h_outbox : C .outbox := by first | assumption | decide)
    (h_hif : C .hif := by first | assumption | decide) :
    OnlyP C base (s.streamFlush mask) := by
  unfold State.streamFlush
  simp +contextual (maxDischargeDepth := 99) only [hk, h_regs, h_hostMem, h_outbox, h_hif, Only_mk, ite_only, or_true,
    true_or, forall_const, imp_self, implies_true, bufFlush_only, foldl_only]

/-! ### Machine/RegCmds.lean -/

theorem ringStop_only (hk : OnlyP C base s) (kind : RingKind) (k : Nat) (h_regs : C .regs := by first | assumption | decide) :
    OnlyP C base (s.ringStop kind k) := by
  unfold State.ringStop
  try dsimp only
  repeat' split
  all_goals simp +contextual (maxDischargeDepth := 99) only [hk, h_regs, Only_mk, ite_only, or_true, true_or, forall_const,
    imp_self, implies_true, set_only]

/-! ### Machine/TimeCmds.lean -/

theorem edgeStep_only (hk : OnlyP C base s) (f : State → State) (hf : ∀ x, OnlyP C base x → OnlyP C base (f x))
    (h_pmc : C .pmc := by first | assumption | decide) :
    OnlyP C base (s.edgeStep f) := ite_only (hf _ hk) (pmcRestart_only (hf _ hk))

/-! ### Machine/HostCmds.lean -/

theorem drainRead_only (hk : OnlyP C base s) (errs : List MemErr) (h_regs : C .regs := by first | assumption | decide)
    (h_hostMem : C .hostMem := by first | assumption | decide) (h_outbox : C .outbox := by first | assumption | decide)
    (h_hif : C .hif := by first | assumption | decide) (h_spill : C .spill := by first | assumption | decide)
    (h_flt : C .flt := by first | assumption | decide) (h_mem : C .mem := by first | assumption | decide) :
    OnlyP C base (s.drainRead errs) := by
  unfold State.drainRead
  simp +contextual (maxDischargeDepth := 99) only [hk, h_regs, h_hostMem, h_outbox, h_hif, h_spill, h_flt, h_mem, Only_mk,
      ite_only, or_true, true_or, forall_const, imp_self, implies_true, memUsed_only, drainOne_only, memErr_only, foldl_only]

theorem coalesceEnd_only (hk : OnlyP C base s) (k : Nat) (h_outbox : C .outbox := by first | assumption | decide)
    (h_hif : C .hif := by first | assumption | decide) :
    OnlyP C base (s.coalesceEnd k) := by
  unfold State.coalesceEnd
  try dsimp only
  repeat' split
  all_goals simp +contextual (maxDischargeDepth := 99) only [hk, h_outbox, h_hif, Only_mk, ite_only, or_true, true_or,
    forall_const, imp_self, implies_true, cplSignal_only]

theorem ringFail_only (hk : OnlyP C base s) (kind : RingKind) (k : Nat) (h_regs : C .regs := by first | assumption | decide)
    (h_outbox : C .outbox := by first | assumption | decide) (h_freeIdx : C .freeIdx := by first | assumption | decide)
    (h_hif : C .hif := by first | assumption | decide) (h_flt : C .flt := by first | assumption | decide) :
    OnlyP C base (s.ringFail kind k) := by
  unfold State.ringFail
  simp +contextual (maxDischargeDepth := 99) only [hk, h_regs, h_outbox, h_freeIdx, h_hif, h_flt, Only_mk, ite_only, or_true,
      true_or, forall_const, imp_self, implies_true, set_only, nextFree_only, ev_only, aerUnc_only, present_only]

theorem linkUp_only (hk : OnlyP C base s) (speed width : Nat) (h_regs : C .regs := by first | assumption | decide)
    (h_outbox : C .outbox := by first | assumption | decide) (h_hif : C .hif := by first | assumption | decide) :
    OnlyP C base (s.linkUp speed width) := by
  unfold State.linkUp
  simp +contextual (maxDischargeDepth := 99) only [hk, h_regs, h_outbox, h_hif, Only_mk, ite_only, or_true, true_or,
      forall_const, imp_self, implies_true, set_only, hold_only]

/-! ### Machine/PathCmds.lean -/

theorem shotErrs_only (hk : OnlyP C base s) (n : Nat) (errs : List MemErr)
    (h_regs : C .regs := by first | assumption | decide) (h_outbox : C .outbox := by first | assumption | decide)
    (h_hif : C .hif := by first | assumption | decide) (h_fe : C .fe := by first | assumption | decide)
    (h_flt : C .flt := by first | assumption | decide) (h_mem : C .mem := by first | assumption | decide) :
    OnlyP C base (s.shotErrs n errs) := by
  unfold State.shotErrs
  simp +contextual (maxDischargeDepth := 99) only [hk, h_regs, h_outbox, h_hif, h_fe, h_flt, h_mem, Only_mk, ite_only,
      or_true, true_or, forall_const, imp_self, implies_true, modF_only, memErr_only, accPoison_only, dropLost_only,
      foldl_only]

end Sys2Proof.Machine
end

