-- ==== Sys2Proof/Laws/OnlyCmds.lean ====
section
/-! SUPPORT. The components of the state that each command may change, one lemma for each command: `Only l s t` says that
t and s agree in every component but those of l. -/

namespace Sys2Proof.Machine

set_option Elab.async false

variable {s s' : State}

theorem onlyP_of {C : Comp → Prop} {l : List Comp} {a b : State} (hl : ∀ c, C c ↔ c ∈ l) (h : OnlyP C a b) : Only l a b :=
  fun c hc => h c (fun hC => hc ((hl c).1 hC))

theorem execNop_only (h : Hdr) (opcode : Nat) (h : execNop h opcode s = .next s') :
    Only [.now, .regs, .hostMem, .outbox, .hif, .sch] s s' := by
  cases h
  exact onlyP_of (C := fun c => c ∈ ([.now, .regs, .hostMem, .outbox, .hif, .sch] : List Comp)) (fun _ => Iff.rfl)
    (ringStart_only (OnlyP.refl _ s) _ _ _ _ (fun _ _ hx => complete_only hx _ _ _))

theorem execArm_only (h : Hdr) (fe : Nat) (h : execArm h fe s = .next s') :
    Only [.now, .regs, .hostMem, .outbox, .hif, .fe, .acq, .sch] s s' := by
  cases h
  exact onlyP_of (C := fun c => c ∈ ([.now, .regs, .hostMem, .outbox, .hif, .fe, .acq, .sch] : List Comp)) (fun _ => Iff.rfl)
    (ringStart_only (OnlyP.refl _ s) _ _ _ _ (fun _ _ hx => armCmd_only hx _ _))

theorem execDisarm_only (h : Hdr) (fe : Nat) (h : execDisarm h fe s = .next s') :
    Only [.now, .regs, .tables, .hostMem, .outbox, .hif, .fe, .acq, .trk, .sch, .flt] s s' := by
  cases h
  exact onlyP_of (C := fun c => c ∈ ([.now, .regs, .tables, .hostMem, .outbox, .hif, .fe, .acq, .trk, .sch,
      .flt] : List Comp))
      (fun _ => Iff.rfl)
    (ringStart_only (OnlyP.refl _ s) _ _ _ _ (fun _ _ hx => disarmFe_only hx _ _))

theorem execAcqCalibrate_only (h : Hdr) (mask : Nat) (nv saveOnly : Bool)
    (h : execAcqCalibrate h mask nv saveOnly s = .next s') :
    Only [.now, .regs, .hostMem, .outbox, .hif, .acq, .sch] s s' := by
  cases h
  exact onlyP_of (C := fun c => c ∈ ([.now, .regs, .hostMem, .outbox, .hif, .acq, .sch] : List Comp)) (fun _ => Iff.rfl)
    (ringStart_only (OnlyP.refl _ s) _ _ _ _ (fun _ _ hx => calStart_only hx _ _ _ _))

theorem execPmcCalibrate_only (h : Hdr) (mask : Nat) (nv saveOnly : Bool)
    (h : execPmcCalibrate h mask nv saveOnly s = .next s') :
    Only [.now, .regs, .hostMem, .outbox, .hif, .sch, .pmc] s s' := by
  cases h
  exact onlyP_of (C := fun c => c ∈ ([.now, .regs, .hostMem, .outbox, .hif, .sch, .pmc] : List Comp)) (fun _ => Iff.rfl)
    (ringStart_only (OnlyP.refl _ s) _ _ _ _ (fun _ _ hx => pmcCalStart_only hx _ _ _ _))

theorem execLoadSchedule_only (h : Hdr) (addr len : Nat) (img : Option ImageRead)
    (h : execLoadSchedule h addr len img s = .next s') :
    Only [.now, .regs, .hostMem, .outbox, .hif, .sch] s s' := by
  cases h
  exact onlyP_of (C := fun c => c ∈ ([.now, .regs, .hostMem, .outbox, .hif, .sch] : List Comp)) (fun _ => Iff.rfl)
    (ringStart_only (OnlyP.refl _ s) _ _ _ _ (fun _ _ hx => loadStart_only hx _ _))

theorem execUnloadSchedule_only (h : Hdr) (slot : Nat) (h : execUnloadSchedule h slot s = .next s') :
    Only [.now, .regs, .hostMem, .outbox, .hif, .sch] s s' := by
  cases h
  exact onlyP_of (C := fun c => c ∈ ([.now, .regs, .hostMem, .outbox, .hif, .sch] : List Comp)) (fun _ => Iff.rfl)
    (ringStart_only (OnlyP.refl _ s) _ _ _ _ (fun _ _ hx => unloadStart_only hx _ _))

theorem execCommit_only (h : Hdr) (addr len : Nat) (list : Option (List Byte)) (h : execCommit h addr len list s = .next s') :
    Only [.now, .regs, .hostMem, .outbox, .hif, .fe, .sch] s s' := by
  cases h
  exact onlyP_of (C := fun c => c ∈ ([.now, .regs, .hostMem, .outbox, .hif, .fe, .sch] : List Comp)) (fun _ => Iff.rfl)
    (ringStart_only (OnlyP.refl _ s) _ _ _ _ (fun _ _ hx => commitStage_only hx _ _))

theorem execCommitCancel_only (h : Hdr) (target : BitVec 32) (h : execCommitCancel h target s = .next s') :
    Only [.now, .regs, .hostMem, .outbox, .hif, .sch] s s' := by
  cases h
  exact onlyP_of (C := fun c => c ∈ ([.now, .regs, .hostMem, .outbox, .hif, .sch] : List Comp)) (fun _ => Iff.rfl)
    (ringStart_only (OnlyP.refl _ s) _ _ _ _ (fun _ _ hx => commitCancel_only hx _ _))

theorem execSetMode_only (h : Hdr) (mode : Nat) (tokenAddr : Nat) (token : Option TokenRead)
    (h : execSetMode h mode tokenAddr token s = .next s') :
    Only [.now, .gtOff, .regs, .tables, .hostMem, .outbox, .freeIdx, .safeN, .snaps, .hif, .spill, .tim, .fe, .acq, .trk,
        .sch, .pmc, .wmn, .flt, .mem, .pwr, .nvs] s s' := by
  cases h
  exact onlyP_of (C := fun c => c ∈ ([.now, .gtOff, .regs, .tables, .hostMem, .outbox, .freeIdx, .safeN, .snaps, .hif,
      .spill, .tim, .fe, .acq, .trk, .sch, .pmc, .wmn, .flt, .mem, .pwr, .nvs] : List Comp)) (fun _ => Iff.rfl)
    (ringStart_only (OnlyP.refl _ s) _ _ _ _ (fun _ _ hx => setMode_only hx _ _ _ _))

theorem execSetLatency_only (h : Hdr) (ns : BitVec 64) (h : execSetLatency h ns s = .next s') :
    Only [.now, .regs, .hostMem, .outbox, .hif, .sch] s s' := by
  cases h
  exact onlyP_of (C := fun c => c ∈ ([.now, .regs, .hostMem, .outbox, .hif, .sch] : List Comp)) (fun _ => Iff.rfl)
    (ringStart_only (OnlyP.refl _ s) _ _ _ _ (fun _ _ hx => setLatency_only hx _ _))

theorem execRecover_only (h : Hdr) (mask : Nat) (h : execRecover h mask s = .next s') :
    Only [.now, .regs, .hostMem, .outbox, .hif, .fe, .trk, .sch, .flt] s s' := by
  cases h
  exact onlyP_of (C := fun c => c ∈ ([.now, .regs, .hostMem, .outbox, .hif, .fe, .trk, .sch, .flt] : List Comp))
      (fun _ => Iff.rfl)
    (ringStart_only (OnlyP.refl _ s) _ _ _ _ (fun _ _ hx => recover_only hx _ _))

theorem execFaultInject_only (h : Hdr) (src kind durNs : Nat) (h : execFaultInject h src kind durNs s = .next s') :
    Only [.now, .regs, .hostMem, .outbox, .hif, .sch, .flt] s s' := by
  cases h
  exact onlyP_of (C := fun c => c ∈ ([.now, .regs, .hostMem, .outbox, .hif, .sch, .flt] : List Comp)) (fun _ => Iff.rfl)
    (ringStart_only (OnlyP.refl _ s) _ _ _ _ (fun _ _ hx => inject_only hx _ _ _ _))

theorem execNvWrite_only (h : Hdr) (addr off len : Nat) (data : Option (List Byte))
    (h : execNvWrite h addr off len data s = .next s') :
    Only [.now, .regs, .hostMem, .outbox, .hif, .sch, .nvs] s s' := by
  cases h
  exact onlyP_of (C := fun c => c ∈ ([.now, .regs, .hostMem, .outbox, .hif, .sch, .nvs] : List Comp)) (fun _ => Iff.rfl)
    (ringStart_only (OnlyP.refl _ s) _ _ _ _ (fun _ _ hx => nvWrite_only hx _ _ _ _))

theorem execNvRead_only (h : Hdr) (addr off len : Nat) (dmaOk : Bool) (corrected : Nat) (badWord : Option Nat)
    (h : execNvRead h addr off len dmaOk corrected badWord s = .next s') :
    Only [.now, .regs, .hostMem, .outbox, .hif, .sch, .flt] s s' := by
  cases h
  exact onlyP_of (C := fun c => c ∈ ([.now, .regs, .hostMem, .outbox, .hif, .sch, .flt] : List Comp)) (fun _ => Iff.rfl)
    (ringStart_only (OnlyP.refl _ s) _ _ _ _ (fun _ _ hx => nvRead_only hx _ _ _ _ _ _ _))

theorem execReadReattachLog_only (h : Hdr) (addr len : Nat) (h : execReadReattachLog h addr len s = .next s') :
    Only [.now, .regs, .hostMem, .outbox, .hif, .sch] s s' := by
  cases h
  exact onlyP_of (C := fun c => c ∈ ([.now, .regs, .hostMem, .outbox, .hif, .sch] : List Comp)) (fun _ => Iff.rfl)
    (ringStart_only (OnlyP.refl _ s) _ _ _ _ (fun _ _ hx => readLog_only hx _ _ _))

theorem execSpillDrain_only (h : Hdr) (h : execSpillDrain h s = .next s') :
    Only [.now, .regs, .hostMem, .outbox, .hif, .sch] s s' := by
  cases h
  exact onlyP_of (C := fun c => c ∈ ([.now, .regs, .hostMem, .outbox, .hif, .sch] : List Comp)) (fun _ => Iff.rfl)
    (ringStart_only (OnlyP.refl _ s) _ _ _ _ (fun _ _ hx => spillDrain_only hx _))

theorem execDetach_only (h : Hdr) (h : execDetach h s = .next s') :
    Only [.now, .regs, .hostMem, .outbox, .hif, .spill, .sch, .mem] s s' := by
  cases h
  exact onlyP_of (C := fun c => c ∈ ([.now, .regs, .hostMem, .outbox, .hif, .spill, .sch, .mem] : List Comp))
      (fun _ => Iff.rfl)
    (ringStart_only (OnlyP.refl _ s) _ _ _ _ (fun _ _ hx => detachStart_only hx _))

theorem execStreamFlush_only (h : Hdr) (mask : BitVec 32) (h : execStreamFlush h mask s = .next s') :
    Only [.now, .regs, .hostMem, .outbox, .hif, .sch] s s' := by
  cases h
  exact onlyP_of (C := fun c => c ∈ ([.now, .regs, .hostMem, .outbox, .hif, .sch] : List Comp)) (fun _ => Iff.rfl)
    (ringStart_only (OnlyP.refl _ s) _ _ _ _ (fun _ _ hx => complete_only (streamFlush_only hx _) _ _ _))

theorem execWarmReset_only (b : Bus) (v : Word) (h : execWarmReset b v s = .next s') :
    Only [.now, .gtOff, .regs, .tables, .hostMem, .outbox, .freeIdx, .safeN, .snaps, .hif, .spill, .tim, .fe, .acq, .trk,
        .sch, .pmc, .wmn, .flt, .mem, .pwr, .nvs] s s' := by
  cases h
  exact onlyP_of (C := fun c => c ∈ ([.now, .gtOff, .regs, .tables, .hostMem, .outbox, .freeIdx, .safeN, .snaps, .hif,
      .spill, .tim, .fe, .acq, .trk, .sch, .pmc, .wmn, .flt, .mem, .pwr, .nvs] : List Comp)) (fun _ => Iff.rfl)
    (busWord_only (OnlyP.refl _ s) _ _ _)

theorem execAlignArm_only (b : Bus) (v : Word) (h : execAlignArm b v s = .next s') :
    Only [.now, .gtOff, .regs, .tables, .hostMem, .outbox, .freeIdx, .safeN, .snaps, .hif, .spill, .tim, .fe, .acq, .trk,
        .sch, .pmc, .wmn, .flt, .mem, .pwr, .nvs] s s' := by
  cases h
  exact onlyP_of (C := fun c => c ∈ ([.now, .gtOff, .regs, .tables, .hostMem, .outbox, .freeIdx, .safeN, .snaps, .hif,
      .spill, .tim, .fe, .acq, .trk, .sch, .pmc, .wmn, .flt, .mem, .pwr, .nvs] : List Comp)) (fun _ => Iff.rfl)
    (busWord_only (OnlyP.refl _ s) _ _ _)

theorem execAlignAbort_only (b : Bus) (v : Word) (h : execAlignAbort b v s = .next s') :
    Only [.now, .gtOff, .regs, .tables, .hostMem, .outbox, .freeIdx, .safeN, .snaps, .hif, .spill, .tim, .fe, .acq, .trk,
        .sch, .pmc, .wmn, .flt, .mem, .pwr, .nvs] s s' := by
  cases h
  exact onlyP_of (C := fun c => c ∈ ([.now, .gtOff, .regs, .tables, .hostMem, .outbox, .freeIdx, .safeN, .snaps, .hif,
      .spill, .tim, .fe, .acq, .trk, .sch, .pmc, .wmn, .flt, .mem, .pwr, .nvs] : List Comp)) (fun _ => Iff.rfl)
    (busWord_only (OnlyP.refl _ s) _ _ _)

theorem execQinLoad_only (b : Bus) (i : Fin 2) (v : Word) (h : execQinLoad b i v s = .next s') :
    Only [.now, .gtOff, .regs, .tables, .hostMem, .outbox, .freeIdx, .safeN, .snaps, .hif, .spill, .tim, .fe, .acq, .trk,
        .sch, .pmc, .wmn, .flt, .mem, .pwr, .nvs] s s' := by
  cases h
  exact onlyP_of (C := fun c => c ∈ ([.now, .gtOff, .regs, .tables, .hostMem, .outbox, .freeIdx, .safeN, .snaps, .hif,
      .spill, .tim, .fe, .acq, .trk, .sch, .pmc, .wmn, .flt, .mem, .pwr, .nvs] : List Comp)) (fun _ => Iff.rfl)
    (busWord_only (OnlyP.refl _ s) _ _ _)

theorem execClearIds_only (b : Bus) (k : Fin 16) (v : Word) (h : execClearIds b k v s = .next s') :
    Only [.now, .gtOff, .regs, .tables, .hostMem, .outbox, .freeIdx, .safeN, .snaps, .hif, .spill, .tim, .fe, .acq, .trk,
        .sch, .pmc, .wmn, .flt, .mem, .pwr, .nvs] s s' := by
  cases h
  exact onlyP_of (C := fun c => c ∈ ([.now, .gtOff, .regs, .tables, .hostMem, .outbox, .freeIdx, .safeN, .snaps, .hif,
      .spill, .tim, .fe, .acq, .trk, .sch, .pmc, .wmn, .flt, .mem, .pwr, .nvs] : List Comp)) (fun _ => Iff.rfl)
    (busWord_only (OnlyP.refl _ s) _ _ _)

theorem execPmcSeqStart_only (b : Bus) (v : Word) (h : execPmcSeqStart b v s = .next s') :
    Only [.now, .gtOff, .regs, .tables, .hostMem, .outbox, .freeIdx, .safeN, .snaps, .hif, .spill, .tim, .fe, .acq, .trk,
        .sch, .pmc, .wmn, .flt, .mem, .pwr, .nvs] s s' := by
  cases h
  exact onlyP_of (C := fun c => c ∈ ([.now, .gtOff, .regs, .tables, .hostMem, .outbox, .freeIdx, .safeN, .snaps, .hif,
      .spill, .tim, .fe, .acq, .trk, .sch, .pmc, .wmn, .flt, .mem, .pwr, .nvs] : List Comp)) (fun _ => Iff.rfl)
    (busWord_only (OnlyP.refl _ s) _ _ _)

theorem execPmcSeqStop_only (b : Bus) (v : Word) (h : execPmcSeqStop b v s = .next s') :
    Only [.now, .gtOff, .regs, .tables, .hostMem, .outbox, .freeIdx, .safeN, .snaps, .hif, .spill, .tim, .fe, .acq, .trk,
        .sch, .pmc, .wmn, .flt, .mem, .pwr, .nvs] s s' := by
  cases h
  exact onlyP_of (C := fun c => c ∈ ([.now, .gtOff, .regs, .tables, .hostMem, .outbox, .freeIdx, .safeN, .snaps, .hif,
      .spill, .tim, .fe, .acq, .trk, .sch, .pmc, .wmn, .flt, .mem, .pwr, .nvs] : List Comp)) (fun _ => Iff.rfl)
    (busWord_only (OnlyP.refl _ s) _ _ _)

theorem execPmcInjStart_only (b : Bus) (j : Fin 4) (v : Word) (h : execPmcInjStart b j v s = .next s') :
    Only [.now, .gtOff, .regs, .tables, .hostMem, .outbox, .freeIdx, .safeN, .snaps, .hif, .spill, .tim, .fe, .acq, .trk,
        .sch, .pmc, .wmn, .flt, .mem, .pwr, .nvs] s s' := by
  cases h
  exact onlyP_of (C := fun c => c ∈ ([.now, .gtOff, .regs, .tables, .hostMem, .outbox, .freeIdx, .safeN, .snaps, .hif,
      .spill, .tim, .fe, .acq, .trk, .sch, .pmc, .wmn, .flt, .mem, .pwr, .nvs] : List Comp)) (fun _ => Iff.rfl)
    (busWord_only (OnlyP.refl _ s) _ _ _)

theorem execPmcCalStart_only (b : Bus) (v : Word) (h : execPmcCalStart b v s = .next s') :
    Only [.now, .gtOff, .regs, .tables, .hostMem, .outbox, .freeIdx, .safeN, .snaps, .hif, .spill, .tim, .fe, .acq, .trk,
        .sch, .pmc, .wmn, .flt, .mem, .pwr, .nvs] s s' := by
  cases h
  exact onlyP_of (C := fun c => c ∈ ([.now, .gtOff, .regs, .tables, .hostMem, .outbox, .freeIdx, .safeN, .snaps, .hif,
      .spill, .tim, .fe, .acq, .trk, .sch, .pmc, .wmn, .flt, .mem, .pwr, .nvs] : List Comp)) (fun _ => Iff.rfl)
    (busWord_only (OnlyP.refl _ s) _ _ _)

theorem execWeirLatchClear_only (b : Bus) (v : Word) (h : execWeirLatchClear b v s = .next s') :
    Only [.now, .gtOff, .regs, .tables, .hostMem, .outbox, .freeIdx, .safeN, .snaps, .hif, .spill, .tim, .fe, .acq, .trk,
        .sch, .pmc, .wmn, .flt, .mem, .pwr, .nvs] s s' := by
  cases h
  exact onlyP_of (C := fun c => c ∈ ([.now, .gtOff, .regs, .tables, .hostMem, .outbox, .freeIdx, .safeN, .snaps, .hif,
      .spill, .tim, .fe, .acq, .trk, .sch, .pmc, .wmn, .flt, .mem, .pwr, .nvs] : List Comp)) (fun _ => Iff.rfl)
    (busWord_only (OnlyP.refl _ s) _ _ _)

theorem execMemInit_only (b : Bus) (v : Word) (h : execMemInit b v s = .next s') :
    Only [.now, .gtOff, .regs, .tables, .hostMem, .outbox, .freeIdx, .safeN, .snaps, .hif, .spill, .tim, .fe, .acq, .trk,
        .sch, .pmc, .wmn, .flt, .mem, .pwr, .nvs] s s' := by
  cases h
  exact onlyP_of (C := fun c => c ∈ ([.now, .gtOff, .regs, .tables, .hostMem, .outbox, .freeIdx, .safeN, .snaps, .hif,
      .spill, .tim, .fe, .acq, .trk, .sch, .pmc, .wmn, .flt, .mem, .pwr, .nvs] : List Comp)) (fun _ => Iff.rfl)
    (busWord_only (OnlyP.refl _ s) _ _ _)

theorem execMemTestStart_only (b : Bus) (v : Word) (h : execMemTestStart b v s = .next s') :
    Only [.now, .gtOff, .regs, .tables, .hostMem, .outbox, .freeIdx, .safeN, .snaps, .hif, .spill, .tim, .fe, .acq, .trk,
        .sch, .pmc, .wmn, .flt, .mem, .pwr, .nvs] s s' := by
  cases h
  exact onlyP_of (C := fun c => c ∈ ([.now, .gtOff, .regs, .tables, .hostMem, .outbox, .freeIdx, .safeN, .snaps, .hif,
      .spill, .tim, .fe, .acq, .trk, .sch, .pmc, .wmn, .flt, .mem, .pwr, .nvs] : List Comp)) (fun _ => Iff.rfl)
    (busWord_only (OnlyP.refl _ s) _ _ _)

theorem execHistDump_only (b : Bus) (v : Word) (h : execHistDump b v s = .next s') :
    Only [.now, .gtOff, .regs, .tables, .hostMem, .outbox, .freeIdx, .safeN, .snaps, .hif, .spill, .tim, .fe, .acq, .trk,
        .sch, .pmc, .wmn, .flt, .mem, .pwr, .nvs] s s' := by
  cases h
  exact onlyP_of (C := fun c => c ∈ ([.now, .gtOff, .regs, .tables, .hostMem, .outbox, .freeIdx, .safeN, .snaps, .hif,
      .spill, .tim, .fe, .acq, .trk, .sch, .pmc, .wmn, .flt, .mem, .pwr, .nvs] : List Comp)) (fun _ => Iff.rfl)
    (busWord_only (OnlyP.refl _ s) _ _ _)

theorem execEpochLoWrite_only (b : Bus) (v : Word) (h : execEpochLoWrite b v s = .next s') :
    Only [.now, .gtOff, .regs, .tables, .hostMem, .outbox, .freeIdx, .safeN, .snaps, .hif, .spill, .tim, .fe, .acq, .trk,
        .sch, .pmc, .wmn, .flt, .mem, .pwr, .nvs] s s' := by
  cases h
  exact onlyP_of (C := fun c => c ∈ ([.now, .gtOff, .regs, .tables, .hostMem, .outbox, .freeIdx, .safeN, .snaps, .hif,
      .spill, .tim, .fe, .acq, .trk, .sch, .pmc, .wmn, .flt, .mem, .pwr, .nvs] : List Comp)) (fun _ => Iff.rfl)
    (busWord_only (OnlyP.refl _ s) _ _ _)

theorem execEpochHiWrite_only (b : Bus) (v : Word) (h : execEpochHiWrite b v s = .next s') :
    Only [.now, .gtOff, .regs, .tables, .hostMem, .outbox, .freeIdx, .safeN, .snaps, .hif, .spill, .tim, .fe, .acq, .trk,
        .sch, .pmc, .wmn, .flt, .mem, .pwr, .nvs] s s' := by
  cases h
  exact onlyP_of (C := fun c => c ∈ ([.now, .gtOff, .regs, .tables, .hostMem, .outbox, .freeIdx, .safeN, .snaps, .hif,
      .spill, .tim, .fe, .acq, .trk, .sch, .pmc, .wmn, .flt, .mem, .pwr, .nvs] : List Comp)) (fun _ => Iff.rfl)
    (busWord_only (OnlyP.refl _ s) _ _ _)

theorem execSnapshotRead_only (b : Bus) (off : Nat) (h : execSnapshotRead b off s = .next s') :
    Only [.now, .gtOff, .regs, .outbox, .freeIdx, .snaps, .hif, .fe, .acq, .trk, .sch, .flt, .mem, .pwr] s s' := by
  cases h
  exact onlyP_of (C := fun c => c ∈ ([.now, .gtOff, .regs, .outbox, .freeIdx, .snaps, .hif, .fe, .acq, .trk, .sch, .flt,
      .mem, .pwr] : List Comp)) (fun _ => Iff.rfl)
    (busRead_only (OnlyP.refl _ s) _ _ _)

theorem execReadClear_only (b : Bus) (off bytes : Nat) (h : execReadClear b off bytes s = .next s') :
    Only [.now, .gtOff, .regs, .outbox, .freeIdx, .snaps, .hif, .fe, .acq, .trk, .sch, .flt, .mem, .pwr] s s' := by
  cases h
  exact onlyP_of (C := fun c => c ∈ ([.now, .gtOff, .regs, .outbox, .freeIdx, .snaps, .hif, .fe, .acq, .trk, .sch, .flt,
      .mem, .pwr] : List Comp)) (fun _ => Iff.rfl)
    (busRead_only (OnlyP.refl _ s) _ _ _)

theorem execQinPosRead_only (b : Bus) (i : Fin 2) (h : execQinPosRead b i s = .next s') :
    Only [.now, .gtOff, .regs, .outbox, .freeIdx, .snaps, .hif, .fe, .acq, .trk, .sch, .flt, .mem, .pwr] s s' := by
  cases h
  exact onlyP_of (C := fun c => c ∈ ([.now, .gtOff, .regs, .outbox, .freeIdx, .snaps, .hif, .fe, .acq, .trk, .sch, .flt,
      .mem, .pwr] : List Comp)) (fun _ => Iff.rfl)
    (busRead_only (OnlyP.refl _ s) _ _ _)

theorem execMsFifoRead_only (b : Bus) (h : execMsFifoRead b s = .next s') :
    Only [.now, .gtOff, .regs, .outbox, .freeIdx, .snaps, .hif, .fe, .acq, .trk, .sch, .flt, .mem, .pwr] s s' := by
  cases h
  exact onlyP_of (C := fun c => c ∈ ([.now, .gtOff, .regs, .outbox, .freeIdx, .snaps, .hif, .fe, .acq, .trk, .sch, .flt,
      .mem, .pwr] : List Comp)) (fun _ => Iff.rfl)
    (busRead_only (OnlyP.refl _ s) _ _ _)

theorem execSyncInDisable_only (b : Bus) (v : Word) (h : execSyncInDisable b v s = .next s') :
    Only [.now, .gtOff, .regs, .tables, .hostMem, .outbox, .freeIdx, .safeN, .snaps, .hif, .spill, .tim, .fe, .acq, .trk,
        .sch, .pmc, .wmn, .flt, .mem, .pwr, .nvs] s s' := by
  cases h
  exact onlyP_of (C := fun c => c ∈ ([.now, .gtOff, .regs, .tables, .hostMem, .outbox, .freeIdx, .safeN, .snaps, .hif,
      .spill, .tim, .fe, .acq, .trk, .sch, .pmc, .wmn, .flt, .mem, .pwr, .nvs] : List Comp)) (fun _ => Iff.rfl)
    (busWord_only (OnlyP.refl _ s) _ _ _)

theorem execTrackIdWrite_only (b : Bus) (m : Fin 4) (v : Word) (h : execTrackIdWrite b m v s = .next s') :
    Only [.now, .gtOff, .regs, .tables, .hostMem, .outbox, .freeIdx, .safeN, .snaps, .hif, .spill, .tim, .fe, .acq, .trk,
        .sch, .pmc, .wmn, .flt, .mem, .pwr, .nvs] s s' := by
  cases h
  exact onlyP_of (C := fun c => c ∈ ([.now, .gtOff, .regs, .tables, .hostMem, .outbox, .freeIdx, .safeN, .snaps, .hif,
      .spill, .tim, .fe, .acq, .trk, .sch, .pmc, .wmn, .flt, .mem, .pwr, .nvs] : List Comp)) (fun _ => Iff.rfl)
    (busWord_only (OnlyP.refl _ s) _ _ _)

theorem execCmpValueWrite_only (b : Bus) (c : Fin 8) (v : Word) (h : execCmpValueWrite b c v s = .next s') :
    Only [.now, .gtOff, .regs, .tables, .hostMem, .outbox, .freeIdx, .safeN, .snaps, .hif, .spill, .tim, .fe, .acq, .trk,
        .sch, .pmc, .wmn, .flt, .mem, .pwr, .nvs] s s' := by
  cases h
  exact onlyP_of (C := fun c => c ∈ ([.now, .gtOff, .regs, .tables, .hostMem, .outbox, .freeIdx, .safeN, .snaps, .hif,
      .spill, .tim, .fe, .acq, .trk, .sch, .pmc, .wmn, .flt, .mem, .pwr, .nvs] : List Comp)) (fun _ => Iff.rfl)
    (busWord_only (OnlyP.refl _ s) _ _ _)

theorem execWeirConfigWrite_only (b : Bus) (m : Fin 16) (thr : Bool) (v : Word)
    (h : execWeirConfigWrite b m thr v s = .next s') :
    Only [.now, .gtOff, .regs, .tables, .hostMem, .outbox, .freeIdx, .safeN, .snaps, .hif, .spill, .tim, .fe, .acq, .trk,
        .sch, .pmc, .wmn, .flt, .mem, .pwr, .nvs] s s' := by
  cases h
  exact onlyP_of (C := fun c => c ∈ ([.now, .gtOff, .regs, .tables, .hostMem, .outbox, .freeIdx, .safeN, .snaps, .hif,
      .spill, .tim, .fe, .acq, .trk, .sch, .pmc, .wmn, .flt, .mem, .pwr, .nvs] : List Comp)) (fun _ => Iff.rfl)
    (busWord_only (OnlyP.refl _ s) _ _ _)

theorem execPmcDisable_only (b : Bus) (v : Word) (h : execPmcDisable b v s = .next s') :
    Only [.now, .gtOff, .regs, .tables, .hostMem, .outbox, .freeIdx, .safeN, .snaps, .hif, .spill, .tim, .fe, .acq, .trk,
        .sch, .pmc, .wmn, .flt, .mem, .pwr, .nvs] s s' := by
  cases h
  exact onlyP_of (C := fun c => c ∈ ([.now, .gtOff, .regs, .tables, .hostMem, .outbox, .freeIdx, .safeN, .snaps, .hif,
      .spill, .tim, .fe, .acq, .trk, .sch, .pmc, .wmn, .flt, .mem, .pwr, .nvs] : List Comp)) (fun _ => Iff.rfl)
    (busWord_only (OnlyP.refl _ s) _ _ _)

theorem execRingEnable_only (b : Bus) (kind : RingKind) (k : Nat) (v : Word) (h : execRingEnable b kind k v s = .next s') :
    Only [.now, .gtOff, .regs, .tables, .hostMem, .outbox, .freeIdx, .safeN, .snaps, .hif, .spill, .tim, .fe, .acq, .trk,
        .sch, .pmc, .wmn, .flt, .mem, .pwr, .nvs] s s' := by
  cases h
  exact onlyP_of (C := fun c => c ∈ ([.now, .gtOff, .regs, .tables, .hostMem, .outbox, .freeIdx, .safeN, .snaps, .hif,
      .spill, .tim, .fe, .acq, .trk, .sch, .pmc, .wmn, .flt, .mem, .pwr, .nvs] : List Comp)) (fun _ => Iff.rfl)
    (ite_only (busWord_only (OnlyP.refl _ s) _ _ _) (at_only (OnlyP.refl _ s) _))

theorem execRingDisable_only (b : Bus) (kind : RingKind) (k : Nat) (v : Word) (h : execRingDisable b kind k v s = .next s') :
    Only [.now, .gtOff, .regs, .tables, .hostMem, .outbox, .freeIdx, .safeN, .snaps, .hif, .spill, .tim, .fe, .acq, .trk,
        .sch, .pmc, .wmn, .flt, .mem, .pwr, .nvs] s s' := by
  cases h
  exact onlyP_of (C := fun c => c ∈ ([.now, .gtOff, .regs, .tables, .hostMem, .outbox, .freeIdx, .safeN, .snaps, .hif,
      .spill, .tim, .fe, .acq, .trk, .sch, .pmc, .wmn, .flt, .mem, .pwr, .nvs] : List Comp)) (fun _ => Iff.rfl)
    (ite_only (busWord_only (OnlyP.refl _ s) _ _ _) (at_only (OnlyP.refl _ s) _))

theorem execRingStopped_only (t : Nat) (kind : RingKind) (k : Nat) (h : execRingStopped t kind k s = .next s') :
    Only [.now, .regs, .sch] s s' := by
  cases h
  exact onlyP_of (C := fun c => c ∈ ([.now, .regs, .sch] : List Comp)) (fun _ => Iff.rfl)
    (main_only (OnlyP.refl _ s) _ _ (fun _ hx => ringStop_only hx _ _))

theorem execCmdDoorbell_only (b : Bus) (k : Fin 16) (v : Word) (h : execCmdDoorbell b k v s = .next s') :
    Only [.now, .gtOff, .regs, .outbox, .freeIdx, .hif, .fe, .acq, .sch, .mem, .pwr] s s' := by
  cases h
  exact onlyP_of (C := fun c => c ∈ ([.now, .gtOff, .regs, .outbox, .freeIdx, .hif, .fe, .acq, .sch, .mem, .pwr] : List Comp))
      (fun _ => Iff.rfl)
    (doorbell_only (OnlyP.refl _ s) _ _ (fun _ hx => cmdDb_only hx _ _))

theorem execCplDoorbell_only (b : Bus) (k : Fin 16) (v : Word) (h : execCplDoorbell b k v s = .next s') :
    Only [.now, .gtOff, .regs, .hostMem, .outbox, .freeIdx, .hif, .fe, .acq, .sch, .mem, .pwr] s s' := by
  cases h
  exact onlyP_of (C := fun c => c ∈ ([.now, .gtOff, .regs, .hostMem, .outbox, .freeIdx, .hif, .fe, .acq, .sch, .mem,
      .pwr] : List Comp)) (fun _ => Iff.rfl)
    (doorbell_only (OnlyP.refl _ s) _ _ (fun _ hx => cplDb_only hx _ _))

theorem execStrDoorbell_only (b : Bus) (m : Fin 32) (v : Word) (descs : List BufDesc)
    (h : execStrDoorbell b m v descs s = .next s') :
    Only [.now, .gtOff, .regs, .hostMem, .outbox, .freeIdx, .hif, .fe, .acq, .sch, .mem, .pwr] s s' := by
  cases h
  exact onlyP_of (C := fun c => c ∈ ([.now, .gtOff, .regs, .hostMem, .outbox, .freeIdx, .hif, .fe, .acq, .sch, .mem,
      .pwr] : List Comp)) (fun _ => Iff.rfl)
    (doorbell_only (OnlyP.refl _ s) _ _ (fun _ hx => strDb_only hx _ _ _))

theorem execRegisterWrite_only (b : Bus) (off bytes : Nat) (v : BitVec 64)
    (h : execRegisterWrite b off bytes v s = .next s') :
    Only [.now, .gtOff, .regs, .tables, .hostMem, .outbox, .freeIdx, .safeN, .snaps, .hif, .spill, .tim, .fe, .acq, .trk,
        .sch, .pmc, .wmn, .flt, .mem, .pwr, .nvs] s s' := by
  cases h
  exact onlyP_of (C := fun c => c ∈ ([.now, .gtOff, .regs, .tables, .hostMem, .outbox, .freeIdx, .safeN, .snaps, .hif,
      .spill, .tim, .fe, .acq, .trk, .sch, .pmc, .wmn, .flt, .mem, .pwr, .nvs] : List Comp)) (fun _ => Iff.rfl)
    (busWrite_only (OnlyP.refl _ s) _ _ _ _)

theorem execSpiTransaction_only (t : Nat) (cmd : BitVec 8) (addr : BitVec 16) (data : List Word) (reads : Nat)
    (h : execSpiTransaction t cmd addr data reads s = .next s') :
    Only [.now, .gtOff, .regs, .tables, .hostMem, .outbox, .freeIdx, .safeN, .snaps, .hif, .spill, .tim, .fe, .acq, .trk,
        .sch, .pmc, .wmn, .flt, .mem, .pwr, .nvs] s s' := by
  cases h
  exact onlyP_of (C := fun c => c ∈ ([.now, .gtOff, .regs, .tables, .hostMem, .outbox, .freeIdx, .safeN, .snaps, .hif,
      .spill, .tim, .fe, .acq, .trk, .sch, .pmc, .wmn, .flt, .mem, .pwr, .nvs] : List Comp)) (fun _ => Iff.rfl)
    (spiRun_only (OnlyP.refl _ s) _ _ _ _ _)

theorem execRefclkLoss_only (t : Nat) (h : execRefclkLoss t s = .next s') :
    Only [.now, .regs, .outbox, .hif, .tim, .sch, .flt] s s' := by
  cases h
  exact onlyP_of (C := fun c => c ∈ ([.now, .regs, .outbox, .hif, .tim, .sch, .flt] : List Comp)) (fun _ => Iff.rfl)
    (main_only (OnlyP.refl _ s) _ _ (fun _ hx => refLoss_only hx))

theorem execRefclkReturn_only (t : Nat) (h : execRefclkReturn t s = .next s') :
    Only [.now, .regs, .tim, .sch] s s' := by
  cases h
  exact onlyP_of (C := fun c => c ∈ ([.now, .regs, .tim, .sch] : List Comp)) (fun _ => Iff.rfl)
    (main_only (OnlyP.refl _ s) _ _ (fun _ hx => refReturn_only hx))

theorem execPllLock_only (t : Nat) (h : execPllLock t s = .next s') :
    Only [.now, .regs, .outbox, .hif, .tim, .sch] s s' := by
  cases h
  exact onlyP_of (C := fun c => c ∈ ([.now, .regs, .outbox, .hif, .tim, .sch] : List Comp)) (fun _ => Iff.rfl)
    (main_only (OnlyP.refl _ s) _ _ (fun _ hx => pllLock_only hx))

theorem execTimPllFail_only (t : Nat) (h : execTimPllFail t s = .next s') :
    Only [.now, .regs, .outbox, .hif, .sch, .flt] s s' := by
  cases h
  exact onlyP_of (C := fun c => c ∈ ([.now, .regs, .outbox, .hif, .sch, .flt] : List Comp)) (fun _ => Iff.rfl)
    (main_only (OnlyP.refl _ s) _ _ (fun _ hx => present_only hx _))

theorem execHoldExpired_only (t : Nat) (h : execHoldExpired t s = .next s') :
    Only [.now, .regs, .outbox, .hif, .sch, .flt] s s' := by
  cases h
  exact onlyP_of (C := fun c => c ∈ ([.now, .regs, .outbox, .hif, .sch, .flt] : List Comp)) (fun _ => Iff.rfl)
    (main_only (OnlyP.refl _ s) _ _ (fun _ hx => holdExpire_only hx))

theorem execPpsInEdge_only (t : Nat) (falling : Bool) (h : execPpsInEdge t falling s = .next s') :
    Only [.now, .gtOff, .regs, .outbox, .hif, .tim, .sch, .pmc] s s' := by
  cases h
  exact onlyP_of (C := fun c => c ∈ ([.now, .gtOff, .regs, .outbox, .hif, .tim, .sch, .pmc] : List Comp)) (fun _ => Iff.rfl)
    (main_only (OnlyP.refl _ s) _ _ (fun _ hx => edgeStep_only hx _ (fun _ hy => ppsEdge_only hy _)))

theorem execPpsLoss_only (t : Nat) (h : execPpsLoss t s = .next s') :
    Only [.now, .regs, .outbox, .hif, .tim, .sch, .flt] s s' := by
  cases h
  exact onlyP_of (C := fun c => c ∈ ([.now, .regs, .outbox, .hif, .tim, .sch, .flt] : List Comp)) (fun _ => Iff.rfl)
    (main_only (OnlyP.refl _ s) _ _ (fun _ hx => ppsLost_only hx))

theorem execSyncInEdge_only (t : Nat) (falling : Bool) (h : execSyncInEdge t falling s = .next s') :
    Only [.now, .gtOff, .regs, .outbox, .hif, .tim, .sch, .pmc] s s' := by
  cases h
  exact onlyP_of (C := fun c => c ∈ ([.now, .gtOff, .regs, .outbox, .hif, .tim, .sch, .pmc] : List Comp)) (fun _ => Iff.rfl)
    (main_only (OnlyP.refl _ s) _ _ (fun _ hx => edgeStep_only hx _ (fun _ hy => syncEdge_only hy _)))

theorem execSyncLoss_only (t : Nat) (h : execSyncLoss t s = .next s') :
    Only [.now, .regs, .outbox, .hif, .tim, .sch, .flt] s s' := by
  cases h
  exact onlyP_of (C := fun c => c ∈ ([.now, .regs, .outbox, .hif, .tim, .sch, .flt] : List Comp)) (fun _ => Iff.rfl)
    (main_only (OnlyP.refl _ s) _ _ (fun _ hx => syncLost_only hx))

theorem execSyncOutPulse_only (t : Nat) (h : execSyncOutPulse t s = .next s') :
    Only [.now, .regs, .tim, .sch] s s' := by
  cases h
  exact onlyP_of (C := fun c => c ∈ ([.now, .regs, .tim, .sch] : List Comp)) (fun _ => Iff.rfl)
    (main_only (OnlyP.refl _ s) _ _ (fun _ hx => syncOut_only hx))

theorem execLaunchInEdge_only (t : Nat) (h : execLaunchInEdge t s = .next s') :
    Only [.now, .regs, .tables, .hostMem, .outbox, .hif, .fe, .acq, .trk, .sch] s s' := by
  cases h
  exact onlyP_of (C := fun c => c ∈ ([.now, .regs, .tables, .hostMem, .outbox, .hif, .fe, .acq, .trk, .sch] : List Comp))
      (fun _ => Iff.rfl)
    (fabric_only (OnlyP.refl _ s) _ _ (fun _ hx => launchIn_only hx))

theorem execLaunchLate_only (t : Nat) (n : Fin 4) (h : execLaunchLate t n s = .next s') :
    Only [.now, .regs, .outbox, .hif, .fe, .sch] s s' := by
  cases h
  exact onlyP_of (C := fun c => c ∈ ([.now, .regs, .outbox, .hif, .fe, .sch] : List Comp)) (fun _ => Iff.rfl)
    (fabric_only (OnlyP.refl _ s) _ _ (fun _ hx => launchLate_only hx _))

theorem execLaunch_only (t : Nat) (n : Fin 4) (h : execLaunch t n s = .next s') :
    Only [.now, .regs, .tables, .hostMem, .outbox, .hif, .tim, .fe, .acq, .trk, .sch, .pmc, .flt] s s' := by
  cases h
  exact onlyP_of (C := fun c => c ∈ ([.now, .regs, .tables, .hostMem, .outbox, .hif, .tim, .fe, .acq, .trk, .sch, .pmc,
      .flt] : List Comp)) (fun _ => Iff.rfl)
    (fabric_only (OnlyP.refl _ s) _ _ (fun _ hx => launch_only hx _))

theorem execSegmentEnd_only (t : Nat) (n : Fin 4) (h : execSegmentEnd t n s = .next s') :
    Only [.now, .regs, .outbox, .hif, .fe, .sch, .flt] s s' := by
  cases h
  exact onlyP_of (C := fun c => c ∈ ([.now, .regs, .outbox, .hif, .fe, .sch, .flt] : List Comp)) (fun _ => Iff.rfl)
    (fabric_only (OnlyP.refl _ s) _ _ (fun _ hx => segmentEnd_only hx _))

theorem execGateWindowOpen_only (t : Nat) (n g : Fin 4) (h : execGateWindowOpen t n g s = .next s') :
    Only [.now, .regs, .outbox, .hif, .fe, .sch, .flt] s s' := by
  cases h
  exact onlyP_of (C := fun c => c ∈ ([.now, .regs, .outbox, .hif, .fe, .sch, .flt] : List Comp)) (fun _ => Iff.rfl)
    (fabric_only (OnlyP.refl _ s) _ _ (fun _ hx => gateOpen_only hx _ _))

theorem execGateWindowClose_only (t : Nat) (n g : Fin 4) (h : execGateWindowClose t n g s = .next s') :
    Only [.now, .regs, .outbox, .hif, .fe, .sch, .flt] s s' := by
  cases h
  exact onlyP_of (C := fun c => c ∈ ([.now, .regs, .outbox, .hif, .fe, .sch, .flt] : List Comp)) (fun _ => Iff.rfl)
    (fabric_only (OnlyP.refl _ s) _ _ (fun _ hx => gateClose_only hx _ _))

theorem execEnvExceed_only (t : Nat) (n : Fin 4) (h : execEnvExceed t n s = .next s') :
    Only [.now, .regs, .tables, .hostMem, .outbox, .hif, .fe, .acq, .trk, .sch, .flt] s s' := by
  cases h
  exact onlyP_of (C := fun c => c ∈ ([.now, .regs, .tables, .hostMem, .outbox, .hif, .fe, .acq, .trk, .sch,
      .flt] : List Comp))
      (fun _ => Iff.rfl)
    (fabric_only (OnlyP.refl _ s) _ _ (fun _ hx => envExceed_only hx _))

theorem execDutyWindowEnd_only (t : Nat) (n : Fin 4) (h : execDutyWindowEnd t n s = .next s') :
    Only [.now, .regs, .outbox, .hif, .fe, .sch, .flt] s s' := by
  cases h
  exact onlyP_of (C := fun c => c ∈ ([.now, .regs, .outbox, .hif, .fe, .sch, .flt] : List Comp)) (fun _ => Iff.rfl)
    (fabric_only (OnlyP.refl _ s) _ _ (fun _ hx => lncSync_only hx _))

theorem execArmSelftestDone_only (t : Nat) (n : Fin 4) (pass : Bool) (h : execArmSelftestDone t n pass s = .next s') :
    Only [.now, .regs, .hostMem, .outbox, .hif, .fe, .sch, .flt] s s' := by
  cases h
  exact onlyP_of (C := fun c => c ∈ ([.now, .regs, .hostMem, .outbox, .hif, .fe, .sch, .flt] : List Comp)) (fun _ => Iff.rfl)
    (fabric_only (OnlyP.refl _ s) _ _ (fun _ hx => selfTest_only hx _ _))

theorem execArmedEntry_only (t : Nat) (n : Fin 4) (h : execArmedEntry t n s = .next s') :
    Only [.now, .regs, .hostMem, .outbox, .hif, .fe, .acq, .sch] s s' := by
  cases h
  exact onlyP_of (C := fun c => c ∈ ([.now, .regs, .hostMem, .outbox, .hif, .fe, .acq, .sch] : List Comp)) (fun _ => Iff.rfl)
    (fabric_only (OnlyP.refl _ s) _ _ (fun _ hx => armedEntry_only hx _))

theorem execDisarmTakeEffect_only (t : Nat) (n : Fin 4) (hm : (s.at t).mode ≠ 0)
    (h : execDisarmTakeEffect t n s = .next s') :
    Only [.now, .regs, .tables, .hostMem, .outbox, .hif, .fe, .acq, .trk, .sch, .flt] s s' := by
  rw [execDisarmTakeEffect_up _ _ hm] at h
  cases h
  exact onlyP_of (C := fun c => c ∈ ([.now, .regs, .tables, .hostMem, .outbox, .hif, .fe, .acq, .trk, .sch,
      .flt] : List Comp)) (fun _ => Iff.rfl)
    (fabric_only (OnlyP.refl _ s) _ _ (fun _ hx => disarmEffect_only hx _))

theorem execSafeNFall_only (t : Nat) (h : execSafeNFall t s = .next s') :
    Only [.now, .regs, .tables, .hostMem, .outbox, .safeN, .hif, .fe, .acq, .trk, .sch, .flt] s s' := by
  cases h
  exact onlyP_of (C := fun c => c ∈ ([.now, .regs, .tables, .hostMem, .outbox, .safeN, .hif, .fe, .acq, .trk, .sch,
      .flt] : List Comp)) (fun _ => Iff.rfl)
    (ite_only (safeLow_only (at_only (OnlyP.refl _ s) _)) (Only_mk (at_only (OnlyP.refl _ s) _)))

theorem execSafeNRise_only (t : Nat) (h : execSafeNRise t s = .next s') :
    Only [.now, .regs, .safeN, .sch] s s' := by
  cases h
  exact onlyP_of (C := fun c => c ∈ ([.now, .regs, .safeN, .sch] : List Comp)) (fun _ => Iff.rfl)
    (Only_mk (at_only (OnlyP.refl _ s) _))

theorem execLaunchOutRise_only (t : Nat) (n : Fin 4) (h : execLaunchOutRise t n s = .next s') :
    Only [.now, .regs, .tim, .sch] s s' := by
  cases h
  exact onlyP_of (C := fun c => c ∈ ([.now, .regs, .tim, .sch] : List Comp)) (fun _ => Iff.rfl)
    (fabric_only (OnlyP.refl _ s) _ _ (fun _ hx => launchOutRise_only hx _))

theorem execAcqCalPhaseEnd_only (t : Nat) (coherent : Bool) (h : execAcqCalPhaseEnd t coherent s = .next s') :
    Only [.now, .regs, .acq, .sch] s s' := by
  cases h
  exact onlyP_of (C := fun c => c ∈ ([.now, .regs, .acq, .sch] : List Comp)) (fun _ => Iff.rfl)
    (fabric_only (OnlyP.refl _ s) _ _ (fun _ hx => calPhaseEnd_only hx _))

theorem execAcqCalDone_only (t : Nat) (r : AcqMeas) (h : execAcqCalDone t r s = .next s') :
    Only [.now, .regs, .hostMem, .outbox, .hif, .acq, .sch, .nvs] s s' := by
  cases h
  exact onlyP_of (C := fun c => c ∈ ([.now, .regs, .hostMem, .outbox, .hif, .acq, .sch, .nvs] : List Comp)) (fun _ => Iff.rfl)
    (fabric_only (OnlyP.refl _ s) _ _ (fun _ hx => calDone_only hx _))

theorem execBgCalBlockEnd_only (t : Nat) (c : Fin 16) (raw : List Int) (h : execBgCalBlockEnd t c raw s = .next s') :
    Only [.now, .regs, .outbox, .freeIdx, .hif, .fe, .acq, .sch, .flt] s s' := by
  cases h
  exact onlyP_of (C := fun c => c ∈ ([.now, .regs, .outbox, .freeIdx, .hif, .fe, .acq, .sch, .flt] : List Comp))
      (fun _ => Iff.rfl)
    (fabric_only (OnlyP.refl _ s) _ _ (fun _ hx => bgBlock_only hx _ _))

theorem execIqBlindBlockEnd_only (t : Nat) (p : Fin 8) (i q x : Int)
    (h : execIqBlindBlockEnd t p i q x s = .next s') :
    Only [.now, .regs, .outbox, .freeIdx, .hif, .fe, .acq, .sch] s s' := by
  cases h
  exact onlyP_of (C := fun c => c ∈ ([.now, .regs, .outbox, .freeIdx, .hif, .fe, .acq, .sch] : List Comp)) (fun _ => Iff.rfl)
    (fabric_only (OnlyP.refl _ s) _ _ (fun _ hx => by split; exacts [blindBlock_only hx _, hx]))

theorem execDarkBlockEnd_only (t : Nat) (i : Fin 8) (raw : List Int) (h : execDarkBlockEnd t i raw s = .next s') :
    Only [.now, .regs, .outbox, .freeIdx, .hif, .fe, .acq, .sch, .flt] s s' := by
  cases h
  exact onlyP_of (C := fun c => c ∈ ([.now, .regs, .outbox, .freeIdx, .hif, .fe, .acq, .sch, .flt] : List Comp))
      (fun _ => Iff.rfl)
    (fabric_only (OnlyP.refl _ s) _ _ (fun _ hx => darkBlock_only hx _ _))

theorem execAcqChFail_only (t : Nat) (ch : Fin 24) (since : Nat) (h : execAcqChFail t ch since s = .next s') :
    Only [.now, .regs, .outbox, .hif, .fe, .sch, .flt] s s' := by
  cases h
  exact onlyP_of (C := fun c => c ∈ ([.now, .regs, .outbox, .hif, .fe, .sch, .flt] : List Comp)) (fun _ => Iff.rfl)
    (fabric_only (OnlyP.refl _ s) _ _ (fun _ hx => chanFail_only hx _ _))

theorem execShotProcessed_only (t : Nat) (n : Fin 4) (raw : List Raw4) (errs : List MemErr)
    (h : execShotProcessed t n raw errs s = .next s') :
    Only [.now, .regs, .outbox, .hif, .fe, .acq, .trk, .sch, .flt, .mem] s s' := by
  cases h
  exact onlyP_of (C := fun c => c ∈ ([.now, .regs, .outbox, .hif, .fe, .acq, .trk, .sch, .flt, .mem] : List Comp))
      (fun _ => Iff.rfl)
    (fabric_only (OnlyP.refl _ s) _ _ (fun _ hx => shotProcess_only (shotErrs_only hx _ _) _ _))

theorem execAcfOutput_only (t : Nat) (n : Fin 4) (h : execAcfOutput t n s = .next s') :
    Only [.now, .regs, .outbox, .hif, .fe, .trk, .sch, .flt, .mem] s s' := by
  cases h
  exact onlyP_of (C := fun c => c ∈ ([.now, .regs, .outbox, .hif, .fe, .trk, .sch, .flt, .mem] : List Comp))
      (fun _ => Iff.rfl)
    (fabric_only (OnlyP.refl _ s) _ _ (fun _ hx => acfOutput_only hx _))

theorem execRamanShotAccumulate_only (t : Nat) (n : Fin 4) (stokes anti : List Int)
    (h : execRamanShotAccumulate t n stokes anti s = .next s') :
    Only [.now, .regs, .outbox, .hif, .fe, .acq, .sch, .flt, .mem] s s' := by
  cases h
  exact onlyP_of (C := fun c => c ∈ ([.now, .regs, .outbox, .hif, .fe, .acq, .sch, .flt, .mem] : List Comp))
      (fun _ => Iff.rfl)
    (fabric_only (OnlyP.refl _ s) _ _ (fun _ hx => ramanTake_only hx _ _ _))

theorem execAccumulationEnd_only (t : Nat) (n : Fin 4) (h : execAccumulationEnd t n s = .next s') :
    Only [.now, .regs, .fe, .sch] s s' := by
  cases h
  exact onlyP_of (C := fun c => c ∈ ([.now, .regs, .fe, .sch] : List Comp)) (fun _ => Iff.rfl)
    (fabric_only (OnlyP.refl _ s) _ _ (fun _ hx => dtsSwap_only hx _))

theorem execDtsEndComputation_only (t : Nat) (n : Fin 4) (h : execDtsEndComputation t n s = .next s') :
    Only [.now, .regs, .outbox, .hif, .fe, .sch, .flt] s s' := by
  cases h
  exact onlyP_of (C := fun c => c ∈ ([.now, .regs, .outbox, .hif, .fe, .sch, .flt] : List Comp)) (fun _ => Iff.rfl)
    (fabric_only (OnlyP.refl _ s) _ _ (fun _ hx => dtsEnd_only hx _))

theorem execEnergyIntervalEnd_only (t : Nat) (n : Fin 4) (h : execEnergyIntervalEnd t n s = .next s') :
    Only [.now, .regs, .tables, .hostMem, .outbox, .freeIdx, .hif, .fe, .acq, .trk, .sch, .pmc, .flt, .nvs] s s' := by
  cases h
  exact onlyP_of (C := fun c => c ∈ ([.now, .regs, .tables, .hostMem, .outbox, .freeIdx, .hif, .fe, .acq, .trk, .sch, .pmc,
      .flt, .nvs] : List Comp)) (fun _ => Iff.rfl)
    (fabric_only (OnlyP.refl _ s) _ _ (fun _ hx => energyEnd_only hx _))

theorem execEncoderEdge_only (t : Nat) (i : Fin 2) (qa qb : Bool) (h : execEncoderEdge t i qa qb s = .next s') :
    Only [.now, .regs, .outbox, .hif, .trk, .sch, .pmc, .flt] s s' := by
  cases h
  exact onlyP_of (C := fun c => c ∈ ([.now, .regs, .outbox, .hif, .trk, .sch, .pmc, .flt] : List Comp)) (fun _ => Iff.rfl)
    (main_only (OnlyP.refl _ s) _ _ (fun _ hx => encoderEdge_only hx _ _ _))

theorem execCmpPulseEnd_only (t : Nat) (pin : Fin 12) (h : execCmpPulseEnd t pin s = .next s') :
    Only [.now, .regs, .trk, .sch] s s' := by
  cases h
  exact onlyP_of (C := fun c => c ∈ ([.now, .regs, .trk, .sch] : List Comp)) (fun _ => Iff.rfl)
    (main_only (OnlyP.refl _ s) _ _ (fun _ hx => cmpPulseEnd_only hx _))

theorem execIndexPulse_only (t : Nat) (i : Fin 2) (level : Bool) (h : execIndexPulse t i level s = .next s') :
    Only [.now, .regs, .outbox, .hif, .trk, .sch] s s' := by
  cases h
  exact onlyP_of (C := fun c => c ∈ ([.now, .regs, .outbox, .hif, .trk, .sch] : List Comp)) (fun _ => Iff.rfl)
    (main_only (OnlyP.refl _ s) _ _ (fun _ hx => indexPulse_only hx _ _))

theorem execEncoderStall_only (t : Nat) (i : Fin 2) (h : execEncoderStall t i s = .next s') :
    Only [.now, .regs, .trk, .sch] s s' := by
  cases h
  exact onlyP_of (C := fun c => c ∈ ([.now, .regs, .trk, .sch] : List Comp)) (fun _ => Iff.rfl)
    (main_only (OnlyP.refl _ s) _ _ (fun _ hx => encoderStall_only hx _))

theorem execCountHistoryRecord_only (t : Nat) (i : Fin 2) (h : execCountHistoryRecord t i s = .next s') :
    Only [.now, .regs, .trk, .sch] s s' := by
  cases h
  exact onlyP_of (C := fun c => c ∈ ([.now, .regs, .trk, .sch] : List Comp)) (fun _ => Iff.rfl)
    (main_only (OnlyP.refl _ s) _ _ (fun _ hx => historyRecord_only hx _))

theorem execMsEdge_only (t : Nat) (m : Fin 8) (falling : Bool) (stamp : Nat) (h : execMsEdge t m falling stamp s = .next s') :
    Only [.now, .regs, .outbox, .hif, .fe, .trk, .sch] s s' := by
  cases h
  exact onlyP_of (C := fun c => c ∈ ([.now, .regs, .outbox, .hif, .fe, .trk, .sch] : List Comp)) (fun _ => Iff.rfl)
    (main_only (OnlyP.refl _ s) _ _ (fun _ hx => msEdge_only hx _ _ _))

theorem execSsiFrameStart_only (t : Nat) (p : Fin 2) (datLow : Bool) (h : execSsiFrameStart t p datLow s = .next s') :
    Only [.now, .regs, .outbox, .hif, .trk, .sch] s s' := by
  cases h
  exact onlyP_of (C := fun c => c ∈ ([.now, .regs, .outbox, .hif, .trk, .sch] : List Comp)) (fun _ => Iff.rfl)
    (main_only (OnlyP.refl _ s) _ _ (fun _ hx => ssiStart_only hx _ _))

theorem execSsiFrameEnd_only (t : Nat) (p : Fin 2) (bits : BitVec 32) (e : SsiEnd)
    (h : execSsiFrameEnd t p bits e s = .next s') :
    Only [.now, .regs, .outbox, .hif, .trk, .sch] s s' := by
  cases h
  exact onlyP_of (C := fun c => c ∈ ([.now, .regs, .outbox, .hif, .trk, .sch] : List Comp)) (fun _ => Iff.rfl)
    (main_only (OnlyP.refl _ s) _ _ (fun _ hx => ssiEnd_only hx _ _ _ _))

theorem execEncTargetUpdate_only (t : Nat) (m : Fin 4) (h : execEncTargetUpdate t m s = .next s') :
    Only [.now, .regs, .outbox, .hif, .trk, .sch] s s' := by
  cases h
  exact onlyP_of (C := fun c => c ∈ ([.now, .regs, .outbox, .hif, .trk, .sch] : List Comp)) (fun _ => Iff.rfl)
    (main_only (OnlyP.refl _ s) _ _ (fun _ hx => encUpdate_only hx _))

theorem execEncStep_only (t : Nat) (m : Fin 4) (h : execEncStep t m s = .next s') :
    Only [.now, .regs, .trk, .sch] s s' := by
  cases h
  exact onlyP_of (C := fun c => c ∈ ([.now, .regs, .trk, .sch] : List Comp)) (fun _ => Iff.rfl)
    (main_only (OnlyP.refl _ s) _ _ (fun _ hx => encStep_only hx _))

theorem execFrameWorkDone_only (t : Nat) (n : Fin 4) (h : execFrameWorkDone t n s = .next s') :
    Only [.now, .regs, .outbox, .hif, .spill, .fe, .trk, .sch, .flt] s s' := by
  cases h
  exact onlyP_of (C := fun c => c ∈ ([.now, .regs, .outbox, .hif, .spill, .fe, .trk, .sch, .flt] : List Comp))
      (fun _ => Iff.rfl)
    (fabric_only (OnlyP.refl _ s) _ _ (fun _ hx => frameDone_only hx _))

theorem execDivert_only (t : Nat) (n : Fin 4) (h : execDivert t n s = .next s') :
    Only [.now, .regs, .hostMem, .outbox, .hif, .spill, .sch, .mem] s s' := by
  cases h
  exact onlyP_of (C := fun c => c ∈ ([.now, .regs, .hostMem, .outbox, .hif, .spill, .sch, .mem] : List Comp))
      (fun _ => Iff.rfl)
    (fabric_only (OnlyP.refl _ s) _ _ (fun _ hx => divertHead_only hx _))

theorem execCommitLock_only (t : Nat) (g : Fin 8) (h : execCommitLock t g s = .next s') :
    Only [.now, .regs, .hostMem, .outbox, .hif, .sch] s s' := by
  cases h
  exact onlyP_of (C := fun c => c ∈ ([.now, .regs, .hostMem, .outbox, .hif, .sch] : List Comp)) (fun _ => Iff.rfl)
    (fabric_only (OnlyP.refl _ s) _ _ (fun _ hx => commitLock_only hx _))

theorem execCommitApply_only (t : Nat) (g : Fin 8) (h : execCommitApply t g s = .next s') :
    Only [.now, .regs, .tables, .hostMem, .outbox, .hif, .fe, .acq, .trk, .sch, .pmc] s s' := by
  cases h
  exact onlyP_of (C := fun c => c ∈ ([.now, .regs, .tables, .hostMem, .outbox, .hif, .fe, .acq, .trk, .sch,
      .pmc] : List Comp)) (fun _ => Iff.rfl)
    (fabric_only (OnlyP.refl _ s) _ _ (fun _ hx => commitApply_only hx _))

theorem execFrameDeliver_only (t : Nat) (stream : Fin 18) (h : execFrameDeliver t stream s = .next s') :
    Only [.now, .regs, .hostMem, .outbox, .hif, .spill, .sch, .mem] s s' := by
  cases h
  exact onlyP_of (C := fun c => c ∈ ([.now, .regs, .hostMem, .outbox, .hif, .spill, .sch, .mem] : List Comp))
      (fun _ => Iff.rfl)
    (fabric_only (OnlyP.refl _ s) _ _ (fun _ hx => frameDeliver_only hx _))

theorem execFrameRelease_only (t : Nat) (stream : Fin 18) (h : execFrameRelease t stream s = .next s') :
    Only [.now, .regs, .outbox, .hif, .spill, .sch] s s' := by
  cases h
  exact onlyP_of (C := fun c => c ∈ ([.now, .regs, .outbox, .hif, .spill, .sch] : List Comp)) (fun _ => Iff.rfl)
    (fabric_only (OnlyP.refl _ s) _ _ (fun _ hx => frameReleased_only hx _))

theorem execDrainFrame_only (t : Nat) (errs : List MemErr) (h : execDrainFrame t errs s = .next s') :
    Only [.now, .regs, .hostMem, .outbox, .hif, .spill, .sch, .flt, .mem] s s' := by
  cases h
  exact onlyP_of (C := fun c => c ∈ ([.now, .regs, .hostMem, .outbox, .hif, .spill, .sch, .flt, .mem] : List Comp))
      (fun _ => Iff.rfl)
    (fabric_only (OnlyP.refl _ s) _ _ (fun _ hx => drainRead_only hx _))

theorem execCoalesceTimeout_only (t : Nat) (k : Fin 16) (h : execCoalesceTimeout t k s = .next s') :
    Only [.now, .regs, .outbox, .hif, .sch] s s' := by
  cases h
  exact onlyP_of (C := fun c => c ∈ ([.now, .regs, .outbox, .hif, .sch] : List Comp)) (fun _ => Iff.rfl)
    (fabric_only (OnlyP.refl _ s) _ _ (fun _ hx => coalesceEnd_only hx _))

theorem execFetchError_only (t : Nat) (kind : RingKind) (k : Nat) (h : execFetchError t kind k s = .next s') :
    Only [.now, .regs, .outbox, .freeIdx, .hif, .sch, .flt] s s' := by
  cases h
  exact onlyP_of (C := fun c => c ∈ ([.now, .regs, .outbox, .freeIdx, .hif, .sch, .flt] : List Comp)) (fun _ => Iff.rfl)
    (fabric_only (OnlyP.refl _ s) _ _ (fun _ hx => ringFail_only hx _ _))

theorem execLinkDown_only (t : Nat) (h : execLinkDown t s = .next s') :
    Only [.now, .regs, .outbox, .hif, .spill, .sch, .mem] s s' := by
  cases h
  exact onlyP_of (C := fun c => c ∈ ([.now, .regs, .outbox, .hif, .spill, .sch, .mem] : List Comp)) (fun _ => Iff.rfl)
    (main_only (OnlyP.refl _ s) _ _ (fun _ hx => detached_only (linkLost_only hx) _))

theorem execLinkUp_only (t : Nat) (speed width : Nat) (h : execLinkUp t speed width s = .next s') :
    Only [.now, .regs, .outbox, .hif, .sch] s s' := by
  cases h
  exact onlyP_of (C := fun c => c ∈ ([.now, .regs, .outbox, .hif, .sch] : List Comp)) (fun _ => Iff.rfl)
    (main_only (OnlyP.refl _ s) _ _ (fun _ hx => ite_only hx (linkUp_only hx _ _)))

theorem execPerstNAssert_only (t : Nat) (h : execPerstNAssert t s = .next s') :
    Only [.now, .gtOff, .regs, .tables, .hostMem, .outbox, .freeIdx, .safeN, .snaps, .hif, .spill, .tim, .fe, .acq, .trk,
        .sch, .pmc, .wmn, .flt, .mem, .pwr, .nvs] s s' := by
  cases h
  exact onlyP_of (C := fun c => c ∈ ([.now, .gtOff, .regs, .tables, .hostMem, .outbox, .freeIdx, .safeN, .snaps, .hif,
      .spill, .tim, .fe, .acq, .trk, .sch, .pmc, .wmn, .flt, .mem, .pwr, .nvs] : List Comp)) (fun _ => Iff.rfl)
    (ite_only (perstLow_only (perstPin_only (at_only (OnlyP.refl _ s) _) _)) (perstPin_only (at_only (OnlyP.refl _ s) _) _))

theorem execCompletionConfirmed_only (t : Nat) (k : Fin 16) (h : execCompletionConfirmed t k s = .next s') :
    Only [.now, .gtOff, .regs, .tables, .hostMem, .outbox, .freeIdx, .safeN, .snaps, .hif, .spill, .tim, .fe, .acq, .trk,
        .sch, .pmc, .wmn, .flt, .mem, .pwr, .nvs] s s' := by
  cases h
  exact onlyP_of (C := fun c => c ∈ ([.now, .gtOff, .regs, .tables, .hostMem, .outbox, .freeIdx, .safeN, .snaps, .hif,
      .spill, .tim, .fe, .acq, .trk, .sch, .pmc, .wmn, .flt, .mem, .pwr, .nvs] : List Comp)) (fun _ => Iff.rfl)
    (confirmed_only (at_only (OnlyP.refl _ s) _) _)

theorem execLoadScheduleDone_only (t : Nat) (h : execLoadScheduleDone t s = .next s') :
    Only [.now, .regs, .hostMem, .outbox, .hif, .sch, .mem] s s' := by
  cases h
  exact onlyP_of (C := fun c => c ∈ ([.now, .regs, .hostMem, .outbox, .hif, .sch, .mem] : List Comp)) (fun _ => Iff.rfl)
    (main_only (OnlyP.refl _ s) _ _ (fun _ hx => loadDone_only hx))

theorem execPmcTrigger_only (t : Nat) (trig : PmcTrig) (h : execPmcTrigger t trig s = .next s') :
    Only [.now, .regs, .outbox, .hif, .sch, .pmc] s s' := by
  cases h
  exact onlyP_of (C := fun c => c ∈ ([.now, .regs, .outbox, .hif, .sch, .pmc] : List Comp)) (fun _ => Iff.rfl)
    (main_only (OnlyP.refl _ s) _ _ (fun _ hx => pmcTrigger_only hx _))

theorem execPmcResult_only (t : Nat) (outs : List FiltOut) (h : execPmcResult t outs s = .next s') :
    Only [.now, .regs, .outbox, .hif, .sch, .pmc, .wmn] s s' := by
  cases h
  exact onlyP_of (C := fun c => c ∈ ([.now, .regs, .outbox, .hif, .sch, .pmc, .wmn] : List Comp)) (fun _ => Iff.rfl)
    (main_only (OnlyP.refl _ s) _ _ (fun _ hx => pmcResult_only hx _))

theorem execPmcInjHwTrigger_only (t : Nat) (j : Fin 4) (src : Nat) (h : execPmcInjHwTrigger t j src s = .next s') :
    Only [.now, .regs, .outbox, .hif, .sch, .pmc] s s' := by
  cases h
  exact onlyP_of (C := fun c => c ∈ ([.now, .regs, .outbox, .hif, .sch, .pmc] : List Comp)) (fun _ => Iff.rfl)
    (main_only (OnlyP.refl _ s) _ _ (fun _ hx => injHw_only hx _ _))

theorem execPmcInjResult_only (t : Nat) (outs : List FiltOut) (h : execPmcInjResult t outs s = .next s') :
    Only [.now, .regs, .outbox, .hif, .sch, .pmc, .wmn] s s' := by
  cases h
  exact onlyP_of (C := fun c => c ∈ ([.now, .regs, .outbox, .hif, .sch, .pmc, .wmn] : List Comp)) (fun _ => Iff.rfl)
    (main_only (OnlyP.refl _ s) _ _ (fun _ hx => injResult_only hx _))

theorem execPmcCalDone_only (t : Nat) (r : List PgaMeas) (nvOk : Bool) (h : execPmcCalDone t r nvOk s = .next s') :
    Only [.now, .regs, .hostMem, .outbox, .freeIdx, .hif, .sch, .pmc, .nvs] s s' := by
  cases h
  exact onlyP_of (C := fun c => c ∈ ([.now, .regs, .hostMem, .outbox, .freeIdx, .hif, .sch, .pmc, .nvs] : List Comp))
      (fun _ => Iff.rfl)
    (main_only (OnlyP.refl _ s) _ _ (fun _ hx => pmcCalDone_only hx _ _))

theorem execRefFail_only (t : Nat) (outside : Bool) (h : execRefFail t outside s = .next s') :
    Only [.now, .regs, .outbox, .hif, .sch, .pmc, .flt] s s' := by
  cases h
  exact onlyP_of (C := fun c => c ∈ ([.now, .regs, .outbox, .hif, .sch, .pmc, .flt] : List Comp)) (fun _ => Iff.rfl)
    (main_only (OnlyP.refl _ s) _ _ (fun _ hx => refMove_only hx _))

theorem execDieTempUpdate_only (t : Nat) (temp : Int) (h : execDieTempUpdate t temp s = .next s') :
    Only [.now, .regs, .outbox, .hif, .sch, .flt, .mem] s s' := by
  cases h
  exact onlyP_of (C := fun c => c ∈ ([.now, .regs, .outbox, .hif, .sch, .flt, .mem] : List Comp)) (fun _ => Iff.rfl)
    (main_only (OnlyP.refl _ s) _ _ (fun _ hx => dieTemp_only hx _))

theorem execWeirCrossing_only (t : Nat) (m : Fin 16) (uV : Int) (h : execWeirCrossing t m uV s = .next s') :
    Only [.now, .regs, .tables, .hostMem, .outbox, .hif, .fe, .acq, .trk, .sch, .pmc, .wmn, .flt] s s' := by
  cases h
  exact onlyP_of (C := fun c => c ∈ ([.now, .regs, .tables, .hostMem, .outbox, .hif, .fe, .acq, .trk, .sch, .pmc, .wmn,
      .flt] : List Comp)) (fun _ => Iff.rfl)
    (ite_only (weirCross_only (at_only (OnlyP.refl _ s) _) _ _) (modW_only (at_only (OnlyP.refl _ s) _) _ _))

theorem execWeirAutoClear_only (t : Nat) (m : Fin 16) (h : execWeirAutoClear t m s = .next s') :
    Only [.now, .regs, .outbox, .hif, .sch, .wmn] s s' := by
  cases h
  exact onlyP_of (C := fun c => c ∈ ([.now, .regs, .outbox, .hif, .sch, .wmn] : List Comp)) (fun _ => Iff.rfl)
    (main_only (OnlyP.refl _ s) _ _ (fun _ hx => weirAuto_only hx _ _))

theorem execWeirSettleEnd_only (t : Nat) (_m : Fin 16) (h : execWeirSettleEnd t _m s = .next s') :
    Only [.now, .regs, .sch] s s' := by
  cases h
  exact onlyP_of (C := fun c => c ∈ ([.now, .regs, .sch] : List Comp)) (fun _ => Iff.rfl)
    (main_only (OnlyP.refl _ s) _ _ (fun _ hx => hx))

theorem execResolved_only (t : Nat) (m : Fin 16) (uV : Int) (h : execResolved t m uV s = .next s') :
    Only [.now, .regs, .tables, .hostMem, .outbox, .hif, .fe, .acq, .trk, .sch, .pmc, .wmn, .flt] s s' := by
  cases h
  exact onlyP_of (C := fun c => c ∈ ([.now, .regs, .tables, .hostMem, .outbox, .hif, .fe, .acq, .trk, .sch, .pmc, .wmn,
      .flt] : List Comp)) (fun _ => Iff.rfl)
    (main_only (OnlyP.refl _ s) _ _ (fun _ hx => weirResolved_only hx _ _))

theorem execRbCheck_only (t : Nat) (m : Fin 16) (upper : Bool) (h : execRbCheck t m upper s = .next s') :
    Only [.now, .regs, .outbox, .hif, .sch, .wmn, .flt] s s' := by
  cases h
  exact onlyP_of (C := fun c => c ∈ ([.now, .regs, .outbox, .hif, .sch, .wmn, .flt] : List Comp)) (fun _ => Iff.rfl)
    (main_only (OnlyP.refl _ s) _ _ (fun _ hx => rbCheck_only hx _ _))

theorem execRbStale_only (t : Nat) (m : Fin 16) (upper : Bool) (h : execRbStale t m upper s = .next s') :
    Only [.now, .regs, .outbox, .hif, .sch, .wmn, .flt] s s' := by
  cases h
  exact onlyP_of (C := fun c => c ∈ ([.now, .regs, .outbox, .hif, .sch, .wmn, .flt] : List Comp)) (fun _ => Iff.rfl)
    (main_only (OnlyP.refl _ s) _ _ (fun _ hx => rbStale_only hx _ _))

theorem execVddA18Return_only (t : Nat) (h : execVddA18Return t s = .next s') :
    Only [.now, .regs, .tables, .hostMem, .outbox, .hif, .fe, .acq, .trk, .sch, .wmn, .flt] s s' := by
  cases h
  exact onlyP_of (C := fun c => c ∈ ([.now, .regs, .tables, .hostMem, .outbox, .hif, .fe, .acq, .trk, .sch, .wmn,
      .flt] : List Comp)) (fun _ => Iff.rfl)
    (main_only (OnlyP.refl _ s) _ _ (fun _ hx => vddA18_only hx))

theorem execWeirGateOpen_only (t : Nat) (m : Fin 16) (h : execWeirGateOpen t m s = .next s') :
    Only [.now, .regs, .tables, .hostMem, .outbox, .hif, .fe, .acq, .trk, .sch, .pmc, .wmn, .flt] s s' := by
  cases h
  exact onlyP_of (C := fun c => c ∈ ([.now, .regs, .tables, .hostMem, .outbox, .hif, .fe, .acq, .trk, .sch, .pmc, .wmn,
      .flt] : List Comp)) (fun _ => Iff.rfl)
    (main_only (OnlyP.refl _ s) _ _ (fun _ hx => weirGateOpen_only hx _ _))

theorem execFaultCapture_only (t : Nat) (src : Fin 128) (h : execFaultCapture t src s = .next s') :
    Only [.now, .gtOff, .regs, .tables, .hostMem, .outbox, .freeIdx, .hif, .spill, .fe, .acq, .trk, .sch, .pmc, .flt, .mem,
        .pwr, .nvs] s s' := by
  cases h
  exact onlyP_of (C := fun c => c ∈ ([.now, .gtOff, .regs, .tables, .hostMem, .outbox, .freeIdx, .hif, .spill, .fe, .acq,
      .trk, .sch, .pmc, .flt, .mem, .pwr, .nvs] : List Comp)) (fun _ => Iff.rfl)
    (ite_only (aonLatch_only (at_only (OnlyP.refl _ s) _))
        (main_only (OnlyP.refl _ s) _ _ (fun _ hx => faultCapture_only (ite_only (lncSync_only hx _) hx) _)))

theorem execWireFault_only (t : Nat) (src : Fin 128) (h : execWireFault t src s = .next s') :
    Only [.now, .gtOff, .regs, .tables, .hostMem, .outbox, .freeIdx, .hif, .spill, .fe, .acq, .trk, .sch, .pmc, .flt, .mem,
        .pwr, .nvs] s s' := by
  cases h
  exact onlyP_of (C := fun c => c ∈ ([.now, .gtOff, .regs, .tables, .hostMem, .outbox, .freeIdx, .hif, .spill, .fe, .acq,
      .trk, .sch, .pmc, .flt, .mem, .pwr, .nvs] : List Comp)) (fun _ => Iff.rfl)
    (main_only (OnlyP.refl _ s) _ _ (fun _ hx => wireCapture_only hx _))

theorem execWindowClose_only (t : Nat) (h : execWindowClose t s = .next s') :
    Only [.now, .regs, .tables, .hostMem, .outbox, .hif, .fe, .acq, .trk, .sch, .pmc, .flt, .nvs] s s' := by
  cases h
  exact onlyP_of (C := fun c => c ∈ ([.now, .regs, .tables, .hostMem, .outbox, .hif, .fe, .acq, .trk, .sch, .pmc, .flt,
      .nvs] : List Comp))
      (fun _ => Iff.rfl)
    (main_only (OnlyP.refl _ s) _ _ (fun _ hx => windowClose_only hx))

theorem execInjectionWindowEnd_only (t : Nat) (realError : Bool) (h : execInjectionWindowEnd t realError s = .next s') :
    Only [.now, .regs, .hostMem, .outbox, .hif, .sch, .flt] s s' := by
  cases h
  exact onlyP_of (C := fun c => c ∈ ([.now, .regs, .hostMem, .outbox, .hif, .sch, .flt] : List Comp)) (fun _ => Iff.rfl)
    (main_only (OnlyP.refl _ s) _ _ (fun _ hx => injEnd_only hx _))

theorem execFltSelftest_only (t : Nat) (pass : Bool) (h : execFltSelftest t pass s = .next s') :
    Only [.now, .regs, .outbox, .hif, .sch, .flt] s s' := by
  cases h
  exact onlyP_of (C := fun c => c ∈ ([.now, .regs, .outbox, .hif, .sch, .flt] : List Comp)) (fun _ => Iff.rfl)
    (main_only (OnlyP.refl _ s) _ _ (fun _ hx => ite_only hx (present_only hx _)))

theorem execPolWdt_only (t : Nat) (h : execPolWdt t s = .next s') :
    Only [.now, .regs, .outbox, .hif, .sch, .flt] s s' := by
  cases h
  exact onlyP_of (C := fun c => c ∈ ([.now, .regs, .outbox, .hif, .sch, .flt] : List Comp)) (fun _ => Iff.rfl)
    (main_only (OnlyP.refl _ s) _ _ (fun _ hx => present_only hx _))

theorem execAppWdt_only (t : Nat) (h : execAppWdt t s = .next s') :
    Only [.now, .regs, .outbox, .hif, .sch, .flt] s s' := by
  cases h
  exact onlyP_of (C := fun c => c ∈ ([.now, .regs, .outbox, .hif, .sch, .flt] : List Comp)) (fun _ => Iff.rfl)
    (main_only (OnlyP.refl _ s) _ _ (fun _ hx => present_only hx _))

theorem execSourceCleared_only (t : Nat) (src : Fin 128) (h : execSourceCleared t src s = .next s') :
    Only [.now, .regs, .sch, .flt, .pwr] s s' := by
  cases h
  exact onlyP_of (C := fun c => c ∈ ([.now, .regs, .sch, .flt, .pwr] : List Comp)) (fun _ => Iff.rfl)
    (main_only (OnlyP.refl _ s) _ _ (fun _ hx => srcCleared_only hx _))

theorem execAppCoresReleased_only (t : Nat) (h : execAppCoresReleased t s = .next s') :
    Only [.now, .regs, .hostMem, .outbox, .hif, .sch, .flt, .pwr] s s' := by
  cases h
  exact onlyP_of (C := fun c => c ∈ ([.now, .regs, .hostMem, .outbox, .hif, .sch, .flt, .pwr] : List Comp)) (fun _ => Iff.rfl)
    (main_only (OnlyP.refl _ s) _ _ (fun _ hx => appReleased_only hx))

theorem execRefreshTick_only (t : Nat) (c : Fin 4) (h : execRefreshTick t c s = .next s') :
    Only [.now, .regs, .outbox, .hif, .sch, .flt, .mem] s s' := by
  cases h
  exact onlyP_of (C := fun c => c ∈ ([.now, .regs, .outbox, .hif, .sch, .flt, .mem] : List Comp)) (fun _ => Iff.rfl)
    (main_only (OnlyP.refl _ s) _ _ (fun _ hx => refreshTick_only hx _))

theorem execRefreshWindow_only (t : Nat) (c : Fin 4) (h : execRefreshWindow t c s = .next s') :
    Only [.now, .regs, .outbox, .hif, .sch, .mem] s s' := by
  cases h
  exact onlyP_of (C := fun c => c ∈ ([.now, .regs, .outbox, .hif, .sch, .mem] : List Comp)) (fun _ => Iff.rfl)
    (main_only (OnlyP.refl _ s) _ _ (fun _ hx => refreshWindow_only hx _))

theorem execMr4Poll_only (t : Nat) (c : Fin 4) (field : BitVec 5) (h : execMr4Poll t c field s = .next s') :
    Only [.now, .regs, .outbox, .hif, .sch, .mem] s s' := by
  cases h
  exact onlyP_of (C := fun c => c ∈ ([.now, .regs, .outbox, .hif, .sch, .mem] : List Comp)) (fun _ => Iff.rfl)
    (main_only (OnlyP.refl _ s) _ _ (fun _ hx => mr4Poll_only hx _ _))

theorem execSrEnter_only (t : Nat) (c : Fin 4) (h : execSrEnter t c s = .next s') :
    Only [.now, .regs, .outbox, .hif, .sch] s s' := by
  cases h
  exact onlyP_of (C := fun c => c ∈ ([.now, .regs, .outbox, .hif, .sch] : List Comp)) (fun _ => Iff.rfl)
    (main_only (OnlyP.refl _ s) _ _ (fun _ hx => srEnter_only hx _))

theorem execSrExit_only (t : Nat) (c : Fin 4) (beforeSre : Bool) (issued : Nat)
    (h : execSrExit t c beforeSre issued s = .next s') :
    Only [.now, .regs, .outbox, .hif, .sch, .mem] s s' := by
  cases h
  exact onlyP_of (C := fun c => c ∈ ([.now, .regs, .outbox, .hif, .sch, .mem] : List Comp)) (fun _ => Iff.rfl)
    (main_only (OnlyP.refl _ s) _ _ (fun _ hx => srExit_only hx _ _ _))

theorem execEyeMonitorRound_only (t : Nat) (c : Fin 4) (pass : Bool) (h : execEyeMonitorRound t c pass s = .next s') :
    Only [.now, .regs, .outbox, .hif, .sch, .flt] s s' := by
  cases h
  exact onlyP_of (C := fun c => c ∈ ([.now, .regs, .outbox, .hif, .sch, .flt] : List Comp)) (fun _ => Iff.rfl)
    (main_only (OnlyP.refl _ s) _ _ (fun _ hx => eyeRound_only hx _ _))

theorem execScrubPass_only (t : Nat) (errs : List MemErr) (h : execScrubPass t errs s = .next s') :
    Only [.now, .regs, .outbox, .hif, .fe, .sch, .flt, .mem] s s' := by
  cases h
  exact onlyP_of (C := fun c => c ∈ ([.now, .regs, .outbox, .hif, .fe, .sch, .flt, .mem] : List Comp)) (fun _ => Iff.rfl)
    (main_only (OnlyP.refl _ s) _ _ (fun _ hx => scrubPass_only hx _))

theorem execBermInitDone_only (t : Nat) (h : execBermInitDone t s = .next s') :
    Only [.now, .regs, .sch] s s' := by
  cases h
  exact onlyP_of (C := fun c => c ∈ ([.now, .regs, .sch] : List Comp)) (fun _ => Iff.rfl)
    (main_only (OnlyP.refl _ s) _ _ (fun _ hx => bermInit_only hx))

theorem execMemInitDone_only (t : Nat) (h : execMemInitDone t s = .next s') :
    Only [.now, .regs, .outbox, .hif, .sch, .mem] s s' := by
  cases h
  exact onlyP_of (C := fun c => c ∈ ([.now, .regs, .outbox, .hif, .sch, .mem] : List Comp)) (fun _ => Iff.rfl)
    (main_only (OnlyP.refl _ s) _ _ (fun _ hx => memInitEnd_only hx))

theorem execTestRunDone_only (t : Nat) (fail : BitVec 26) (h : execTestRunDone t fail s = .next s') :
    Only [.now, .regs, .sch, .mem] s s' := by
  cases h
  exact onlyP_of (C := fun c => c ∈ ([.now, .regs, .sch, .mem] : List Comp)) (fun _ => Iff.rfl)
    (main_only (OnlyP.refl _ s) _ _ (fun _ hx => testEnd_only hx _))

theorem execHistDone_only (t : Nat) (h : execHistDone t s = .next s') :
    Only [.now, .regs, .outbox, .hif, .sch, .mem] s s' := by
  cases h
  exact onlyP_of (C := fun c => c ∈ ([.now, .regs, .outbox, .hif, .sch, .mem] : List Comp)) (fun _ => Iff.rfl)
    (main_only (OnlyP.refl _ s) _ _ (fun _ hx => dumpEnd_only hx))

theorem execLadderEntry_only (t : Nat) (hm : (s.at t).mode ≠ 0)
    (h : execLadderEntry t s = .next s') :
    Only [.now, .regs, .outbox, .hif, .tim, .fe, .acq, .sch, .mem, .pwr] s s' := by
  rw [execLadderEntry_up _ hm] at h
  cases h
  exact onlyP_of (C := fun c => c ∈ ([.now, .regs, .outbox, .hif, .tim, .fe, .acq, .sch, .mem, .pwr] : List Comp))
      (fun _ => Iff.rfl)
    (main_only (OnlyP.refl _ s) _ _ (fun _ hx => ladderSink_only hx))

theorem execLadderExit_only (t : Nat) (h : execLadderExit t s = .next s') :
    Only [.now, .gtOff, .regs, .outbox, .freeIdx, .hif, .fe, .acq, .sch, .mem, .pwr] s s' := by
  cases h
  exact onlyP_of (C := fun c => c ∈ ([.now, .gtOff, .regs, .outbox, .freeIdx, .hif, .fe, .acq, .sch, .mem, .pwr] : List Comp))
      (fun _ => Iff.rfl)
    (main_only (OnlyP.refl _ s) _ _ (fun _ hx => ladderLeave_only hx))

theorem execBarAccessWake_only (t : Nat) (h : execBarAccessWake t s = .next s') :
    Only [.now, .gtOff, .regs, .outbox, .freeIdx, .hif, .fe, .acq, .sch, .mem, .pwr] s s' := by
  cases h
  exact onlyP_of (C := fun c => c ∈ ([.now, .gtOff, .regs, .outbox, .freeIdx, .hif, .fe, .acq, .sch, .mem, .pwr] : List Comp))
      (fun _ => Iff.rfl)
    (main_only (OnlyP.refl _ s) _ _ (fun _ hx => accessWake_only hx))

theorem execWakeN_only (t : Nat) (h : execWakeN t s = .next s') :
    Only [.now, .gtOff, .regs, .outbox, .freeIdx, .hif, .fe, .acq, .sch, .mem, .pwr] s s' := by
  cases h
  exact onlyP_of (C := fun c => c ∈ ([.now, .gtOff, .regs, .outbox, .freeIdx, .hif, .fe, .acq, .sch, .mem, .pwr] : List Comp))
      (fun _ => Iff.rfl)
    (wake_only (at_only (OnlyP.refl _ s) _) _ _ _)

theorem execRtcAlarm_only (t : Nat) (h : execRtcAlarm t s = .next s') :
    Only [.now, .gtOff, .regs, .outbox, .freeIdx, .hif, .fe, .acq, .sch, .mem, .pwr] s s' := by
  cases h
  exact onlyP_of (C := fun c => c ∈ ([.now, .gtOff, .regs, .outbox, .freeIdx, .hif, .fe, .acq, .sch, .mem, .pwr] : List Comp))
      (fun _ => Iff.rfl)
    (rtcWake_only (at_only (OnlyP.refl _ s) _))

theorem execPowerSequenceStep_only (t : Nat) (railsGood : Bool) (h : execPowerSequenceStep t railsGood s = .next s') :
    Only [.now, .regs, .tables, .hostMem, .outbox, .safeN, .hif, .fe, .acq, .trk, .sch, .flt, .pwr] s s' := by
  cases h
  exact onlyP_of (C := fun c => c ∈ ([.now, .regs, .tables, .hostMem, .outbox, .safeN, .hif, .fe, .acq, .trk, .sch, .flt,
      .pwr] : List Comp)) (fun _ => Iff.rfl)
    (powerStep_only (at_only (OnlyP.refl _ s) _) _)

theorem execRailFail_only (t : Nat) (h : execRailFail t s = .next s') :
    Only [.now, .gtOff, .regs, .tables, .hostMem, .outbox, .freeIdx, .safeN, .snaps, .hif, .spill, .tim, .fe, .acq, .trk,
        .sch, .pmc, .wmn, .flt, .mem, .pwr, .nvs] s s' := by
  cases h
  exact onlyP_of (C := fun c => c ∈ ([.now, .gtOff, .regs, .tables, .hostMem, .outbox, .freeIdx, .safeN, .snaps, .hif,
      .spill, .tim, .fe, .acq, .trk, .sch, .pmc, .wmn, .flt, .mem, .pwr, .nvs] : List Comp)) (fun _ => Iff.rfl)
    (railFail_only (at_only (OnlyP.refl _ s) _))

theorem execBootStepDone_only (t : Nat) (info : BootInfo) (h : execBootStepDone t info s = .next s') :
    Only [.now, .gtOff, .regs, .tables, .hostMem, .outbox, .freeIdx, .safeN, .snaps, .hif, .spill, .tim, .fe, .acq, .trk,
        .sch, .pmc, .wmn, .flt, .mem, .pwr, .nvs] s s' := by
  cases h
  exact onlyP_of (C := fun c => c ∈ ([.now, .gtOff, .regs, .tables, .hostMem, .outbox, .freeIdx, .safeN, .snaps, .hif,
      .spill, .tim, .fe, .acq, .trk, .sch, .pmc, .wmn, .flt, .mem, .pwr, .nvs] : List Comp)) (fun _ => Iff.rfl)
    (ite_only (bootStep_only (at_only (OnlyP.refl _ s) _) _)
        (main_only (OnlyP.refl _ s) _ _ (fun _ hx => bootStep_only hx _)))

theorem execPorstNAssert_only (t : Nat) (h : execPorstNAssert t s = .next s') :
    Only [.now, .gtOff, .regs, .tables, .hostMem, .outbox, .freeIdx, .safeN, .snaps, .hif, .spill, .tim, .fe, .acq, .trk,
        .sch, .pmc, .wmn, .flt, .mem, .pwr, .nvs] s s' := by
  cases h
  exact onlyP_of (C := fun c => c ∈ ([.now, .gtOff, .regs, .tables, .hostMem, .outbox, .freeIdx, .safeN, .snaps, .hif,
      .spill, .tim, .fe, .acq, .trk, .sch, .pmc, .wmn, .flt, .mem, .pwr, .nvs] : List Comp)) (fun _ => Iff.rfl)
    (porstLow_only (at_only (OnlyP.refl _ s) _))

theorem execPorstNRelease_only (t : Nat) (h : execPorstNRelease t s = .next s') :
    Only [.now, .regs, .tables, .hostMem, .outbox, .safeN, .hif, .fe, .acq, .trk, .sch, .flt, .pwr] s s' := by
  cases h
  exact onlyP_of (C := fun c => c ∈ ([.now, .regs, .tables, .hostMem, .outbox, .safeN, .hif, .fe, .acq, .trk, .sch, .flt,
      .pwr] : List Comp)) (fun _ => Iff.rfl)
    (porstHigh_only (at_only (OnlyP.refl _ s) _))

theorem execVddAonRise_only (t : Nat) (h : execVddAonRise t s = .next s') :
    Only [.now, .regs, .outbox, .hif, .sch, .pwr] s s' := by
  cases h
  exact onlyP_of (C := fun c => c ∈ ([.now, .regs, .outbox, .hif, .sch, .pwr] : List Comp)) (fun _ => Iff.rfl)
    (aonRise_only (at_only (OnlyP.refl _ s) _))

theorem execVddAonFall_only (t : Nat) (h : execVddAonFall t s = .next s') :
    Only [.now, .gtOff, .regs, .tables, .hostMem, .outbox, .freeIdx, .safeN, .snaps, .hif, .spill, .tim, .fe, .acq, .trk,
        .sch, .pmc, .wmn, .flt, .mem, .pwr, .nvs] s s' := by
  cases h
  exact onlyP_of (C := fun c => c ∈ ([.now, .gtOff, .regs, .tables, .hostMem, .outbox, .freeIdx, .safeN, .snaps, .hif,
      .spill, .tim, .fe, .acq, .trk, .sch, .pmc, .wmn, .flt, .mem, .pwr, .nvs] : List Comp)) (fun _ => Iff.rfl)
    (aonFall_only (at_only (OnlyP.refl _ s) _))

theorem execPwrUvRail_only (t : Nat) (rail : RailDip) (h : execPwrUvRail t rail s = .next s') :
    Only [.now, .regs, .outbox, .hif, .sch, .flt, .pwr] s s' := by
  cases h
  exact onlyP_of (C := fun c => c ∈ ([.now, .regs, .outbox, .hif, .sch, .flt, .pwr] : List Comp)) (fun _ => Iff.rfl)
    (railDip_only (at_only (OnlyP.refl _ s) t) _)

theorem execPerstNRelease_only (t : Nat) (h : execPerstNRelease t s = .next s') :
    Only [.now, .gtOff, .regs, .outbox, .freeIdx, .hif, .fe, .acq, .sch, .mem, .pwr] s s' := by
  cases h
  exact onlyP_of (C := fun c => c ∈ ([.now, .gtOff, .regs, .outbox, .freeIdx, .hif, .fe, .acq, .sch, .mem, .pwr] : List Comp))
      (fun _ => Iff.rfl)
    (wake_only (perstPin_only (at_only (OnlyP.refl _ s) _) _) _ _ _)

theorem execPcieReceiverDetected_only (t : Nat) (h : execPcieReceiverDetected t s = .next s') :
    Only [.now, .gtOff, .regs, .outbox, .freeIdx, .hif, .fe, .acq, .sch, .mem, .pwr] s s' := by
  cases h
  exact onlyP_of (C := fun c => c ∈ ([.now, .gtOff, .regs, .outbox, .freeIdx, .hif, .fe, .acq, .sch, .mem, .pwr] : List Comp))
      (fun _ => Iff.rfl)
    (wake_only (at_only (OnlyP.refl _ s) _) _ _ _)

theorem execNvWriteDone_only (t : Nat) (verifyOk : Bool) (h : execNvWriteDone t verifyOk s = .next s') :
    Only [.now, .regs, .hostMem, .outbox, .freeIdx, .hif, .sch, .nvs] s s' := by
  cases h
  exact onlyP_of (C := fun c => c ∈ ([.now, .regs, .hostMem, .outbox, .freeIdx, .hif, .sch, .nvs] : List Comp))
      (fun _ => Iff.rfl)
    (main_only (OnlyP.refl _ s) _ _ (fun _ hx => nvDone_only hx _))

theorem execSafeHoldClear_only (t : Nat) (h : execSafeHoldClear t s = .next s') :
    Only [.now, .regs, .sch, .flt] s s' := by
  cases h
  exact onlyP_of (C := fun c => c ∈ ([.now, .regs, .sch, .flt] : List Comp)) (fun _ => Iff.rfl)
    (safeHoldClear_only (at_only (OnlyP.refl _ s) _))

end Sys2Proof.Machine
end

