-- ==== Sys2Proof/Laws/RegsRest.lean ====
section
/-! SUPPORT. Register blocks written: the schedule, commit groups, shots, register accesses, boot, and the helpers of the
commands. -/

namespace Sys2Proof.Machine

set_option Elab.async false
set_option linter.unusedSimpArgs false
set_option linter.unusedVariables false

variable {base s : State} {B : Nat → Prop}

/-! ### Machine/Sched.lean -/

theorem setImg_blocks (hk : RegsP B base s) (k : Nat) (x : Option Image) :
    RegsP B base (s.setImg k x) := by
  unfold State.setImg
  simp +contextual (maxDischargeDepth := 99) only [hk, Regs_mk, ite_blocks, forall_const, imp_self, implies_true, bit_off,
      setShare_blocks]

theorem admitImage_blocks (hk : RegsP B base s) (i : ImageRead) (b10 : B 10 := by first | assumption | decide) :
    RegsP B base (s.admitImage i) := by
  unfold State.admitImage
  simp +contextual (maxDischargeDepth := 99) only [hk, b10, Regs_mk, ite_blocks, forall_const, imp_self, implies_true,
      bit_off, HIF_STATUS_LINK_UP_blk, SCH_EVENTS_LINK_SHORT_blk, SCH_EVENTS_LOADED_blk, SCH_LOAD_RESULT_CODE_blk,
      SCH_LOAD_RESULT_SLOT_blk, set_blocks, ev_blocks, setImg_blocks, foldl_range_blocks, foldl_blocks]

theorem loadRefuse_blocks (hk : RegsP B base s) (code : Nat) (b10 : B 10 := by first | assumption | decide) :
    RegsP B base (s.loadRefuse code) := by
  unfold State.loadRefuse
  simp +contextual (maxDischargeDepth := 99) only [hk, b10, Regs_mk, ite_blocks, forall_const, imp_self, implies_true,
      bit_off, SCH_EVENTS_LOAD_FAIL_blk, SCH_LOAD_RESULT_CODE_blk, set_blocks, ev_blocks]

theorem loadStart_blocks (hk : RegsP B base s) (c : Cmd) (i : Option ImageRead)
    (b10 : B 10 := by first | assumption | decide) (b11 : B 11 := by first | assumption | decide) :
    RegsP B base (s.loadStart c i) := by
  unfold State.loadStart
  simp +contextual (maxDischargeDepth := 99) only [hk, b10, b11, Regs_mk, ite_blocks, forall_const, imp_self, implies_true,
      bit_off, complete_blocks, loadRefuse_blocks]

theorem unloadEnd_blocks (hk : RegsP B base s) (c : Cmd) (slot code : Nat) (b10 : B 10 := by first | assumption | decide)
    (b11 : B 11 := by first | assumption | decide) :
    RegsP B base (s.unloadEnd c slot code) := by
  unfold State.unloadEnd
  simp +contextual (maxDischargeDepth := 99) only [hk, b10, b11, Regs_mk, ite_blocks, forall_const, imp_self, implies_true,
      bit_off, SCH_LOAD_RESULT_CODE_blk, SCH_LOAD_RESULT_SLOT_blk, set_blocks, complete_blocks]

theorem unloadStart_blocks (hk : RegsP B base s) (c : Cmd) (slot : Nat) (b10 : B 10 := by first | assumption | decide)
    (b11 : B 11 := by first | assumption | decide) :
    RegsP B base (s.unloadStart c slot) := by
  unfold State.unloadStart
  simp +contextual (maxDischargeDepth := 99) only [hk, b10, b11, Regs_mk, ite_blocks, forall_const, imp_self, implies_true,
      bit_off, unloadEnd_blocks]

theorem loadDone_blocks (hk : RegsP B base s) (b10 : B 10 := by first | assumption | decide)
    (b11 : B 11 := by first | assumption | decide) :
    RegsP B base (s.loadDone) := by
  unfold State.loadDone
  try dsimp only
  repeat' split
  all_goals simp +contextual (maxDischargeDepth := 99) only [hk, b10, b11, Regs_mk, ite_blocks, forall_const, imp_self,
      implies_true, bit_off, BRM_STATUS_INIT_DONE_blk, SCH_EVENTS_UNLOADED_blk, ev_blocks, complete_blocks, setImg_blocks,
      admitImage_blocks, loadRefuse_blocks, unloadEnd_blocks]

theorem lateNote_blocks (hk : RegsP B base s) (n lam : Nat) (b10 : B 10 := by first | assumption | decide) :
    RegsP B base (s.lateNote n lam) := by
  unfold State.lateNote
  simp +contextual (maxDischargeDepth := 99) only [hk, b10, Regs_mk, ite_blocks, forall_const, imp_self, implies_true,
      bit_off, SCH_EVENTS_CAUGHT_UP_blk, SCH_EVENTS_LATE_blk, SCH_FE_LATENESS_NS_blk, SCH_FE_LATE_FRAMES_COUNT_blk,
      SCH_FE_LATE_MAX_NS_blk, set_blocks, addSat_blocks, ev_blocks, modF_blocks]

theorem overtopNote_blocks (hk : RegsP B base s) (n lam : Nat) (b10 : B 10 := by first | assumption | decide)
    (b14 : B 14 := by first | assumption | decide) :
    RegsP B base (s.overtopNote n lam) := by
  unfold State.overtopNote
  try dsimp only
  repeat' split
  all_goals simp +contextual (maxDischargeDepth := 99) only [hk, b10, b14, Regs_mk, ite_blocks, forall_const, imp_self,
      implies_true, bit_off, SCH_EVENTS_OVERTOP_blk, SCH_FE_OVERTOP_CNT_COUNT_blk, addSat_blocks, ev_blocks, present_blocks,
      modF_blocks]

theorem mapHeld_blocks (hk : RegsP B base s) (g : Frame → Frame) :
    RegsP B base (s.mapHeld g) := by
  unfold State.mapHeld
  simp +contextual (maxDischargeDepth := 99) only [hk, Regs_mk, ite_blocks, forall_const, imp_self, implies_true, bit_off]

theorem frameDone_blocks (hk : RegsP B base s) (n : Nat) (b8 : B 8 := by first | assumption | decide)
    (b9 : B 9 := by first | assumption | decide) (b10 : B 10 := by first | assumption | decide)
    (b14 : B 14 := by first | assumption | decide) :
    RegsP B base (s.frameDone n) := by
  unfold State.frameDone
  try dsimp only
  repeat' split
  all_goals simp +contextual (maxDischargeDepth := 99) only [hk, b8, b9, b10, b14, Regs_mk, ite_blocks, forall_const,
      imp_self, implies_true, bit_off, modF_blocks, evtIdle_blocks, lateNote_blocks, overtopNote_blocks, mapHeld_blocks]

theorem unstage_blocks (hk : RegsP B base s) (rest : List Staged) :
    RegsP B base (s.unstage rest) := by
  unfold State.unstage
  simp +contextual (maxDischargeDepth := 99) only [hk, Regs_mk, ite_blocks, forall_const, imp_self, implies_true, bit_off]

theorem frameDeliver_blocks (hk : RegsP B base s) (stream : Nat) (b8 : B 8 := by first | assumption | decide)
    (b11 : B 11 := by first | assumption | decide) :
    RegsP B base (s.frameDeliver stream) := by
  unfold State.frameDeliver
  try dsimp only
  repeat' split
  all_goals simp +contextual (maxDischargeDepth := 99) only [hk, b8, b11, Regs_mk, ite_blocks, forall_const, imp_self,
      implies_true, bit_off, deliver_blocks, divertEnd_blocks, unstage_blocks]

theorem divertHead_blocks (hk : RegsP B base s) (n : Nat) (b8 : B 8 := by first | assumption | decide)
    (b11 : B 11 := by first | assumption | decide) :
    RegsP B base (s.divertHead n) := by
  unfold State.divertHead
  try dsimp only
  repeat' split
  all_goals simp +contextual (maxDischargeDepth := 99) only [hk, b8, b11, Regs_mk, ite_blocks, forall_const, imp_self,
      implies_true, bit_off, deliver_blocks, divertEnd_blocks, unstage_blocks]

/-! ### Machine/Commit.lean -/

theorem evs_blocks (hk : RegsP B base s) (l : List FRef) (hl : ∀ f ∈ l, B (f.off / 65536)) : RegsP B base (s.evs l) :=
  foldl_mem_blocks hk (fun _ f hf ht => ev_blocks ht f (hl f hf))

theorem refsStaged_blocks (hk : RegsP B base s) (g : Group) :
    RegsP B base (s.refsStaged g) := by
  unfold State.refsStaged
  simp +contextual (maxDischargeDepth := 99) only [hk, Regs_mk, ite_blocks, forall_const, imp_self, implies_true, bit_off,
      modF_blocks, foldl_range_blocks, foldl_blocks]

theorem refs_of {l : List FRef} (h : ∀ f ∈ l, f.off / 65536 ∈ [2, 3, 4, 5, 6, 7, 8]) (b2 : B 2) (b3 : B 3) (b4 : B 4)
    (b5 : B 5)
    (b6 : B 6) (b7 : B 7) (b8 : B 8) : ∀ f ∈ l, B (f.off / 65536) := by
  intro f hf
  have := h f hf
  simp only [List.mem_cons, List.not_mem_nil, or_false] at this
  rcases this with h | h | h | h | h | h | h <;> rw [h] <;> assumption

theorem groupCode_refs (s : State) (g : Group) : ∀ f ∈ (s.groupCode g).2, f.off / 65536 ∈ [2, 3, 4, 5, 6, 7, 8] := by
  intro f hf
  unfold State.groupCode at hf
  dsimp only at hf
  split at hf
  · simp only [List.mem_flatMap, List.mem_filter] at hf
    obtain ⟨c, ⟨n, _, hm, _⟩, hf⟩ := hf
    simp only [State.feChecks, List.mem_cons, List.not_mem_nil, or_false] at hm
    rcases hm with h | h | h | h | h | h | h | h | h | h | h | h | h <;> rw [h] at hf <;>
      (try dsimp only at hf) <;> (try split at hf) <;>
      simp only [List.mem_cons, List.not_mem_nil, or_false] at hf <;>
      first | (subst hf; simp; done) | (rcases hf with hf | hf <;> subst hf <;> simp)
  · split at hf
    · simp at hf
    · simp only [List.mem_map] at hf
      obtain ⟨n, _, rfl⟩ := hf
      simp

theorem commitStage_blocks (hk : RegsP B base s) (c : Cmd) (p : Option CommitList)
    (b2 : B 2 := by first | assumption | decide) (b3 : B 3 := by first | assumption | decide)
    (b4 : B 4 := by first | assumption | decide) (b5 : B 5 := by first | assumption | decide)
    (b6 : B 6 := by first | assumption | decide) (b7 : B 7 := by first | assumption | decide)
    (b8 : B 8 := by first | assumption | decide) (b10 : B 10 := by first | assumption | decide)
    (b11 : B 11 := by first | assumption | decide) :
    RegsP B base (s.commitStage c p) := by
  unfold State.commitStage
  dsimp only
  split
  · split
    · exact complete_blocks (evs_blocks hk _ (refs_of (groupCode_refs _ _) b2 b3 b4 b5 b6 b7 b8)) _ _ _
    · split
      · exact complete_blocks hk _ _ _
      · exact complete_blocks (ev_blocks (Regs_mk (refsStaged_blocks (setGroup_blocks hk _ _) _)) _) _ _ _
  · exact complete_blocks hk _ _ _
  · exact complete_blocks hk _ _ _

theorem commitCancel_blocks (hk : RegsP B base s) (c : Cmd) (id : BitVec 32) (b10 : B 10 := by first | assumption | decide)
    (b11 : B 11 := by first | assumption | decide) :
    RegsP B base (s.commitCancel c id) := by
  unfold State.commitCancel
  try dsimp only
  repeat' split
  all_goals simp +contextual (maxDischargeDepth := 99) only [hk, b10, b11, Regs_mk, ite_blocks, forall_const, imp_self,
      implies_true, bit_off, complete_blocks, groupEnd_blocks]

theorem commitLock_blocks (hk : RegsP B base s) (k : Nat) (b2 : B 2 := by first | assumption | decide)
    (b3 : B 3 := by first | assumption | decide) (b4 : B 4 := by first | assumption | decide)
    (b5 : B 5 := by first | assumption | decide) (b6 : B 6 := by first | assumption | decide)
    (b7 : B 7 := by first | assumption | decide) (b8 : B 8 := by first | assumption | decide)
    (b10 : B 10 := by first | assumption | decide)
    (b11 : B 11 := by first | assumption | decide) : RegsP B base (s.commitLock k) := by
  unfold State.commitLock
  dsimp only
  split
  · exact hk
  · split
    · exact hk
    · split
      · exact hk
      · split
        · exact groupEnd_blocks (evs_blocks hk _ (refs_of (groupCode_refs _ _) b2 b3 b4 b5 b6 b7 b8)) _ _
        · exact setGroup_blocks hk _ _

theorem pmcWritten_blocks (hk : RegsP B base s) (off : Nat) (v : Word) (b12 : B 12 := by first | assumption | decide) :
    RegsP B base (s.pmcWritten off v) := by
  unfold State.pmcWritten
  try dsimp only
  repeat' split
  all_goals simp +contextual (maxDischargeDepth := 99) only [hk, b12, Regs_mk, ite_blocks, forall_const, imp_self,
      implies_true, bit_off, seqStart_blocks, injTrig_blocks, seqStop_blocks]

theorem trkWrite_blocks (hk : RegsP B base s) (off : Nat) (v : Word) (hb : off / 65536 = 9)
    (b9 : B 9 := by first | assumption | decide) :
    RegsP B base (s.trkWrite off v) := by
  have h1 : RegsP B base { s with regs := rwrite s.regs off v } :=
    withRegs_blocks hk _ (fun o ho => tget_rwrite_ne _ _ _ _ (fun e => ho (e ▸ hb ▸ b9)))
  unfold State.trkWrite
  split
  · exact qinLoad_blocks hk _ _
  · split
    · exact cmpValue_blocks hk _ _
    · split
      · exact trackId_blocks hk _ _
      · exact trkWritten_blocks h1 _ _

theorem sharedWrite_blocks (hk : RegsP B base s) (off : Nat) (v : Word) (b9 : B 9 := by first | assumption | decide)
    (b12 : B 12 := by first | assumption | decide) : RegsP B base (s.sharedWrite off v) := by
  unfold State.sharedWrite
  split
  · exact trkWrite_blocks (trkHold_blocks hk) _ _ ‹_›
  · split
    · rename_i h
      exact pmcWritten_blocks (convRelatch_blocks
        (withRegs_blocks hk _ (fun o ho => tget_rwrite_ne _ _ _ _ (fun e => ho (e ▸ h ▸ b12))))) _ _
    · exact hk

theorem refsBuilt_blocks (hk : RegsP B base s) (n : Nat) (d : DuePart) :
    RegsP B base (s.refsBuilt n d) := by
  unfold State.refsBuilt
  simp +contextual (maxDischargeDepth := 99) only [hk, Regs_mk, ite_blocks, forall_const, imp_self, implies_true, bit_off,
      modF_blocks]

theorem groupPart_blocks (hk : RegsP B base s) (g : Group) (n : Nat) (tb : Int) (b2 : B 2 := by first | assumption | decide)
    (b3 : B 3 := by first | assumption | decide) (b4 : B 4 := by first | assumption | decide)
    (b5 : B 5 := by first | assumption | decide) (b6 : B 6 := by first | assumption | decide)
    (b7 : B 7 := by first | assumption | decide) (b8 : B 8 := by first | assumption | decide)
    (b10 : B 10 := by first | assumption | decide) (b11 : B 11 := by first | assumption | decide)
        (b9 : B 9 := by first | assumption | decide) :
    RegsP B base (s.groupPart g n tb) := by
  unfold State.groupPart
  simp +contextual (maxDischargeDepth := 99) only [hk, b9, b2, b3, b4, b5, b6, b7, b8, b10, b11, Regs_mk, ite_blocks,
      forall_const, imp_self, implies_true, bit_off, applyPart_blocks, addDue_blocks, refsBuilt_blocks]

theorem commitApply_blocks (hk : RegsP B base s) (k : Nat) (b2 : B 2 := by first | assumption | decide)
    (b3 : B 3 := by first | assumption | decide) (b4 : B 4 := by first | assumption | decide)
    (b5 : B 5 := by first | assumption | decide) (b6 : B 6 := by first | assumption | decide)
    (b7 : B 7 := by first | assumption | decide) (b8 : B 8 := by first | assumption | decide)
    (b9 : B 9 := by first | assumption | decide) (b10 : B 10 := by first | assumption | decide)
    (b11 : B 11 := by first | assumption | decide) (b12 : B 12 := by first | assumption | decide) :
    RegsP B base (s.commitApply k) := by
  unfold State.commitApply
  try dsimp only
  repeat' split
  all_goals simp +contextual (maxDischargeDepth := 99) only [hk, b2, b3, b4, b5, b6, b7, b8, b9, b10, b11, b12, Regs_mk,
      ite_blocks, forall_const, imp_self, implies_true, bit_off, SCH_EPOCH_EPOCH_blk, addWrap_blocks, groupEnd_blocks,
      commitLock_blocks, sharedWrite_blocks, groupPart_blocks, foldl_range_blocks, foldl_blocks]

theorem commitsDue_blocks (hk : RegsP B base s) (b2 : B 2 := by first | assumption | decide)
    (b3 : B 3 := by first | assumption | decide) (b4 : B 4 := by first | assumption | decide)
    (b5 : B 5 := by first | assumption | decide) (b6 : B 6 := by first | assumption | decide)
    (b7 : B 7 := by first | assumption | decide) (b8 : B 8 := by first | assumption | decide)
    (b9 : B 9 := by first | assumption | decide) (b10 : B 10 := by first | assumption | decide)
    (b11 : B 11 := by first | assumption | decide) (b12 : B 12 := by first | assumption | decide) :
    RegsP B base (s.commitsDue) := by
  unfold State.commitsDue
  try dsimp only
  repeat' split
  all_goals simp +contextual (maxDischargeDepth := 99) only [hk, b2, b3, b4, b5, b6, b7, b8, b9, b10, b11, b12, Regs_mk,
      ite_blocks, forall_const, imp_self, implies_true, bit_off, commitApply_blocks, foldl_range_blocks, foldl_blocks]

theorem markerBound_blocks (hk : RegsP B base s) (n shot : Nat) (tb : Int) (b10 : B 10 := by first | assumption | decide)
    (b11 : B 11 := by first | assumption | decide) :
    RegsP B base (s.markerBound n shot tb) := by
  unfold State.markerBound
  simp +contextual (maxDischargeDepth := 99) only [hk, b10, b11, Regs_mk, ite_blocks, forall_const, imp_self, implies_true,
      bit_off, setGroup_blocks, groupEnd_blocks, foldl_range_blocks, foldl_blocks]

theorem markerParts_blocks (hk : RegsP B base s) (n : Nat) (x : NextShot) (b2 : B 2 := by first | assumption | decide)
    (b3 : B 3 := by first | assumption | decide) (b4 : B 4 := by first | assumption | decide)
    (b5 : B 5 := by first | assumption | decide) (b6 : B 6 := by first | assumption | decide)
    (b7 : B 7 := by first | assumption | decide) (b8 : B 8 := by first | assumption | decide)
    (b10 : B 10 := by first | assumption | decide)
    (b11 : B 11 := by first | assumption | decide)
        (b9 : B 9 := by first | assumption | decide) : RegsP B base (s.markerParts n x) := by
  unfold State.markerParts
  refine foldl_blocks hk (fun t y ht => ?_)
  dsimp only
  split
  · exact ite_blocks (commitLock_blocks ht _)
      (setGroup_blocks (applyPart_blocks (refsBuilt_blocks (commitLock_blocks ht _) _ _) _ _ _) _ _)
  · exact commitLock_blocks ht _

/-! ### Machine/Shots.lean -/

/-- The blocks whose CFG_ERR a refused ARM may set. -/
theorem armCode_refs (s : State) (n : Nat) : ∀ f ∈ (s.armCode n).2, f.off / 65536 ∈ [2, 3, 6, 7, 8] := by
  have hall : ∀ c ∈ s.armChecks n, ∀ f ∈ c.2.2, f.off / 65536 ∈ [2, 3, 6, 7, 8] := by
    intro c hm f hf
    simp only [State.armChecks, List.mem_cons, List.not_mem_nil, or_false] at hm
    rcases hm with h | h | h | h | h | h | h | h | h | h | h | h | h | h | h | h <;> subst h <;>
      simp only [List.mem_cons, List.not_mem_nil, or_false] at hf <;> subst hf <;> simp
  intro f hf
  unfold State.armCode at hf
  dsimp only at hf
  generalize hb : (s.armChecks n).filter (fun c => !c.2.1) = bad at hf
  cases bad with
  | nil => simp at hf
  | cons c l =>
    simp only [List.mem_flatMap, List.mem_filter] at hf
    obtain ⟨d, ⟨hd, _⟩, hf⟩ := hf
    exact hall d (List.mem_filter.1 (hb ▸ hd)).1 f hf

theorem armCmd_blocks (hk : RegsP B base s) (n : Nat) (c : Cmd)  (b2 : B 2 := by first | assumption | decide)
    (b3 : B 3 := by first | assumption | decide) (b4 : B 4 := by first | assumption | decide)
    (b6 : B 6 := by first | assumption | decide) (b7 : B 7 := by first | assumption | decide)
    (b8 : B 8 := by first | assumption | decide)
    (b11 : B 11 := by first | assumption | decide) : RegsP B base (s.armCmd n c) := by
  have h := armCode_refs s n
  unfold State.armCmd
  dsimp only
  split
  · exact armStart_blocks hk _ _
  · refine complete_blocks (ev_blocks (set_blocks (evs_blocks hk _ (fun f hf => ?_)) _ _) _) _ _ _
    have := h f hf
    simp only [List.mem_cons, List.not_mem_nil, or_false] at this
    rcases this with h | h | h | h | h <;> rw [h] <;> assumption

theorem planWins_blocks (hk : RegsP B base s) (n k shot : Nat) (raman : Bool) :
    RegsP B base (s.planWins n k shot raman) := by
  unfold State.planWins
  simp +contextual (maxDischargeDepth := 99) only [hk, Regs_mk, ite_blocks, forall_const, imp_self, implies_true, bit_off,
      modF_blocks]

theorem gateOpen_blocks (hk : RegsP B base s) (n g : Nat) (b3 : B 3 := by first | assumption | decide)
    (b14 : B 14 := by first | assumption | decide) :
    RegsP B base (s.gateOpen n g) := by
  unfold State.gateOpen
  try dsimp only
  repeat' split
  all_goals simp +contextual (maxDischargeDepth := 99) only [hk, b3, b14, Regs_mk, ite_blocks, forall_const, imp_self,
      implies_true, bit_off, modF_blocks, lncSync_blocks, gatesEval_blocks]

theorem gateClose_blocks (hk : RegsP B base s) (n g : Nat) (b3 : B 3 := by first | assumption | decide)
    (b14 : B 14 := by first | assumption | decide) :
    RegsP B base (s.gateClose n g) := by
  unfold State.gateClose
  simp +contextual (maxDischargeDepth := 99) only [hk, b3, b14, Regs_mk, ite_blocks, forall_const, imp_self, implies_true,
      bit_off, modF_blocks, lncSync_blocks, gatesEval_blocks]

theorem segmentEnd_blocks (hk : RegsP B base s) (n : Nat) (b3 : B 3 := by first | assumption | decide)
    (b14 : B 14 := by first | assumption | decide) :
    RegsP B base (s.segmentEnd n) := by
  unfold State.segmentEnd
  try dsimp only
  repeat' split
  all_goals simp +contextual (maxDischargeDepth := 99) only [hk, b3, b14, Regs_mk, ite_blocks, forall_const, imp_self,
      implies_true, bit_off, modF_blocks, lncSync_blocks]

theorem fire_blocks (hk : RegsP B base s) (n : Nat) (x : NextShot) (k t : Nat) (b2 : B 2 := by first | assumption | decide)
    (b3 : B 3 := by first | assumption | decide) (b4 : B 4 := by first | assumption | decide)
    (b12 : B 12 := by first | assumption | decide) (b14 : B 14 := by first | assumption | decide) :
    RegsP B base (s.fire n x k t) := by
  unfold State.fire
  simp +contextual (maxDischargeDepth := 99) only [hk, b2, b3, b4, b12, b14, Regs_mk, ite_blocks, forall_const, imp_self,
      implies_true, bit_off, TIM_FE_LAST_GT_HI_GT_blk, TIM_FE_LAST_GT_LO_GT_blk, TIM_FE_SHOT_HI_SHOT_blk,
      TIM_FE_SHOT_HI_VALID_blk, TIM_FE_SHOT_LO_SHOT_blk, set_blocks, set2_blocks, modF_blocks, launchOut_blocks,
      bgFrameStart_blocks, darkSpan_blocks, pmcEvent_blocks, lncSync_blocks, planWins_blocks]

theorem launchGrid_blocks (hk : RegsP B base s) (n : Nat) (x : NextShot) (b2 : B 2 := by first | assumption | decide)
    (b3 : B 3 := by first | assumption | decide) (b4 : B 4 := by first | assumption | decide)
    (b5 : B 5 := by first | assumption | decide) (b6 : B 6 := by first | assumption | decide)
    (b7 : B 7 := by first | assumption | decide) (b8 : B 8 := by first | assumption | decide)
    (b10 : B 10 := by first | assumption | decide) (b11 : B 11 := by first | assumption | decide)
    (b12 : B 12 := by first | assumption | decide) (b14 : B 14 := by first | assumption | decide)
        (b9 : B 9 := by first | assumption | decide) :
    RegsP B base (s.launchGrid n x) := by
  unfold State.launchGrid
  simp +contextual (maxDischargeDepth := 99) only [hk, b9, b2, b3, b4, b5, b6, b7, b8, b10, b11, b12, b14, Regs_mk,
      ite_blocks,
      forall_const, imp_self, implies_true, bit_off, modF_blocks, applyReached_blocks, fire_blocks]

theorem launch_blocks (hk : RegsP B base s) (n : Nat) (b2 : B 2 := by first | assumption | decide)
    (b3 : B 3 := by first | assumption | decide) (b4 : B 4 := by first | assumption | decide)
    (b5 : B 5 := by first | assumption | decide) (b6 : B 6 := by first | assumption | decide)
    (b7 : B 7 := by first | assumption | decide) (b8 : B 8 := by first | assumption | decide)
    (b9 : B 9 := by first | assumption | decide) (b10 : B 10 := by first | assumption | decide)
    (b11 : B 11 := by first | assumption | decide) (b12 : B 12 := by first | assumption | decide)
    (b14 : B 14 := by first | assumption | decide) :
    RegsP B base (s.launch n) := by
  unfold State.launch
  try dsimp only
  repeat' split
  all_goals simp +contextual (maxDischargeDepth := 99) only [hk, b2, b3, b4, b5, b6, b7, b8, b9, b10, b11, b12, b14, Regs_mk,
      ite_blocks, forall_const, imp_self, implies_true, bit_off, disarmEffect_blocks, commitsDue_blocks, fire_blocks,
      launchGrid_blocks]

theorem markerTake_blocks (hk : RegsP B base s) (n : Nat) (b2 : B 2 := by first | assumption | decide)
    (b3 : B 3 := by first | assumption | decide) (b4 : B 4 := by first | assumption | decide)
    (b5 : B 5 := by first | assumption | decide) (b6 : B 6 := by first | assumption | decide)
    (b7 : B 7 := by first | assumption | decide) (b8 : B 8 := by first | assumption | decide)
    (b10 : B 10 := by first | assumption | decide)
    (b11 : B 11 := by first | assumption | decide)
        (b9 : B 9 := by first | assumption | decide) : RegsP B base (s.markerTake n) := by
  unfold State.markerTake
  extract_lets shot x s1 go
  have h1 : RegsP B base s1 := markerParts_blocks (markerBound_blocks (applyReached_blocks hk _ _ _) _ _ _) _ _
  clear_value s1
  exact modF_blocks h1 _ _

theorem marker_blocks (hk : RegsP B base s) (n : Nat) (b2 : B 2 := by first | assumption | decide)
    (b3 : B 3 := by first | assumption | decide) (b4 : B 4 := by first | assumption | decide)
    (b5 : B 5 := by first | assumption | decide) (b6 : B 6 := by first | assumption | decide)
    (b7 : B 7 := by first | assumption | decide) (b8 : B 8 := by first | assumption | decide)
    (b10 : B 10 := by first | assumption | decide) (b11 : B 11 := by first | assumption | decide)
        (b9 : B 9 := by first | assumption | decide) :
    RegsP B base (s.marker n) := by
  unfold State.marker
  simp +contextual (maxDischargeDepth := 99) only [hk, b9, b2, b3, b4, b5, b6, b7, b8, b10, b11, Regs_mk, ite_blocks,
      forall_const, imp_self, implies_true, bit_off, TIM_EVENTS_LAUNCH_EARLY_blk, TIM_FE_EARLY_CNT_COUNT_blk, addSat_blocks,
      ev_blocks, markerTake_blocks]

theorem launchIn_blocks (hk : RegsP B base s) (b2 : B 2 := by first | assumption | decide)
    (b3 : B 3 := by first | assumption | decide) (b4 : B 4 := by first | assumption | decide)
    (b5 : B 5 := by first | assumption | decide) (b6 : B 6 := by first | assumption | decide)
    (b7 : B 7 := by first | assumption | decide) (b8 : B 8 := by first | assumption | decide)
    (b10 : B 10 := by first | assumption | decide) (b11 : B 11 := by first | assumption | decide)
        (b9 : B 9 := by first | assumption | decide) :
    RegsP B base (s.launchIn) := by
  unfold State.launchIn
  simp +contextual (maxDischargeDepth := 99) only [hk, b9, b2, b3, b4, b5, b6, b7, b8, b10, b11, Regs_mk, ite_blocks,
      forall_const, imp_self, implies_true, bit_off, marker_blocks, foldl_range_blocks, foldl_blocks]

theorem launchLate_blocks (hk : RegsP B base s) (n : Nat) (b2 : B 2 := by first | assumption | decide) :
    RegsP B base (s.launchLate n) := by
  unfold State.launchLate
  simp +contextual (maxDischargeDepth := 99) only [hk, b2, Regs_mk, ite_blocks, forall_const, imp_self, implies_true,
      bit_off, TIM_EVENTS_LAUNCH_LATE_blk, TIM_FE_LATE_CNT_COUNT_blk, addSat_blocks, ev_blocks, modF_blocks]

theorem launchOutRise_blocks (hk : RegsP B base s) (n : Nat) :
    RegsP B base (s.launchOutRise n) := by
  unfold State.launchOutRise
  simp +contextual (maxDischargeDepth := 99) only [hk, Regs_mk, ite_blocks, forall_const, imp_self, implies_true, bit_off,
      launchOut_blocks]

/-! ### Machine/RegView.lean -/

theorem capture_blocks (hk : RegsP B base s) (m : Master) (off : Nat) :
    RegsP B base (s.capture m off) := by
  unfold State.capture
  simp +contextual (maxDischargeDepth := 99) only [hk, Regs_mk, ite_blocks, forall_const, imp_self, implies_true, bit_off,
      foldl_range_blocks, foldl_blocks]

theorem readSync_blocks (hk : RegsP B base s) (off : Nat) (b3 : B 3 := by first | assumption | decide)
    (b14 : B 14 := by first | assumption | decide) :
    RegsP B base (s.readSync off) := by
  unfold State.readSync
  simp +contextual (maxDischargeDepth := 99) only [hk, b3, b14, Regs_mk, ite_blocks, forall_const, imp_self, implies_true,
      bit_off, lncSync_blocks]

/-! ### Machine/RegAccess.lean -/

theorem refStale_blocks (hk : RegsP B base s) (n : Nat) (js : List Nat) :
    RegsP B base (s.refStale n js) := by
  unfold State.refStale
  simp +contextual (maxDischargeDepth := 99) only [hk, Regs_mk, ite_blocks, forall_const, imp_self, implies_true, bit_off,
      modF_blocks]

theorem wrotePwr_blocks (hk : RegsP B base s) (off : Nat) (w : Word) :
    RegsP B base (s.wrotePwr off w) := by
  unfold State.wrotePwr
  simp +contextual (maxDischargeDepth := 99) only [hk, Regs_mk, ite_blocks, forall_const, imp_self, implies_true, bit_off]

theorem wroteTim_blocks (hk : RegsP B base s) (off : Nat) (r0 : Tab Word) (v : Word)
    (b2 : B 2 := by first | assumption | decide) :
    RegsP B base (s.wroteTim off r0 v) := by
  unfold State.wroteTim
  try dsimp only
  repeat' split
  all_goals simp +contextual (maxDischargeDepth := 99) only [hk, b2, Regs_mk, ite_blocks, forall_const, imp_self,
      implies_true, bit_off, TIM_ALIGN_ARM_blk, TIM_TRIM_TRIM_blk, set_blocks, modF_blocks, alignAbort_blocks,
      syncOff_blocks, alignSet_blocks, setEpoch_blocks]

theorem wroteLnc_blocks (hk : RegsP B base s) (off : Nat) :
    RegsP B base (s.wroteLnc off) := by
  unfold State.wroteLnc
  try dsimp only
  repeat' split
  all_goals simp +contextual (maxDischargeDepth := 99) only [hk, Regs_mk, ite_blocks, forall_const, imp_self, implies_true,
      bit_off, gatePols_blocks, refStale_blocks]

theorem wroteAcq_blocks (hk : RegsP B base s) (off : Nat) :
    RegsP B base (s.wroteAcq off) := by
  unfold State.wroteAcq
  simp +contextual (maxDischargeDepth := 99) only [hk, Regs_mk, ite_blocks, forall_const, imp_self, implies_true, bit_off,
      setAcq_blocks, bgSyncAll_blocks]

theorem wroteDts_blocks (hk : RegsP B base s) (off : Nat) :
    RegsP B base (s.wroteDts off) := by
  unfold State.wroteDts
  try dsimp only
  repeat' split
  all_goals simp +contextual (maxDischargeDepth := 99) only [hk, Regs_mk, ite_blocks, forall_const, imp_self, implies_true,
      bit_off, modF_blocks]

theorem clearIds_blocks (hk : RegsP B base s) (k : Nat) :
    RegsP B base (s.clearIds k) := by
  unfold State.clearIds
  simp +contextual (maxDischargeDepth := 99) only [hk, Regs_mk, ite_blocks, forall_const, imp_self, implies_true, bit_off,
      setRing_blocks]

theorem wroteEvt_blocks (hk : RegsP B base s) (off : Nat) (r0 : Tab Word) (b8 : B 8 := by first | assumption | decide)
    (b9 : B 9 := by first | assumption | decide) :
    RegsP B base (s.wroteEvt off r0) := by
  unfold State.wroteEvt
  simp +contextual (maxDischargeDepth := 99) only [hk, b8, b9, Regs_mk, ite_blocks, forall_const, imp_self, implies_true,
      bit_off, modF_blocks, evtIdle_blocks]

theorem wroteHif_blocks (hk : RegsP B base s) (off : Nat) (v : Word) (b11 : B 11 := by first | assumption | decide) :
    RegsP B base (s.wroteHif off v) := by
  unfold State.wroteHif
  try dsimp only
  repeat' split
  all_goals simp +contextual (maxDischargeDepth := 99) only [hk, b11, Regs_mk, ite_blocks, forall_const, imp_self,
      implies_true, bit_off, ringState_blk, set_blocks, ringRun_blocks, bufFlush_blocks, clearIds_blocks]

theorem wrotePmc_blocks (hk : RegsP B base s) (off : Nat) (w v : Word) (b11 : B 11 := by first | assumption | decide)
    (b12 : B 12 := by first | assumption | decide) :
    RegsP B base (s.wrotePmc off w v) := by
  unfold State.wrotePmc
  simp +contextual (maxDischargeDepth := 99) only [hk, b11, b12, Regs_mk, ite_blocks, forall_const, imp_self, implies_true,
      bit_off, setPmc_blocks, convRelatch_blocks, pmcTrigger_blocks, pmcStopAll_blocks, pmcCalStart_blocks, pmcWritten_blocks]

theorem wroteMem_blocks (hk : RegsP B base s) (off : Nat) (v w : Word) (b15 : B 15 := by first | assumption | decide) :
    RegsP B base (s.wroteMem off v w) := by
  unfold State.wroteMem
  simp +contextual (maxDischargeDepth := 99) only [hk, b15, Regs_mk, ite_blocks, forall_const, imp_self, implies_true,
      bit_off, MEM_STATUS_INIT_DONE_blk, MEM_TEST_CTL_BUSY_blk, set_blocks, setMem_blocks, setShare_blocks,
      memInitStart_blocks, histFrom_blocks, dumpStart_blocks]

theorem nvRecord_blocks (hk : RegsP B base s) (off : Nat) (v : Word) :
    RegsP B base (s.nvRecord off v) := by
  unfold State.nvRecord
  simp +contextual (maxDischargeDepth := 99) only [hk, Regs_mk, ite_blocks, forall_const, imp_self, implies_true, bit_off]

theorem waveWrite_blocks (hk : RegsP B base s) (n off : Nat) (v : Word) (b3 : B 3 := by first | assumption | decide)
    (b5 : B 5 := by first | assumption | decide) :
    RegsP B base (s.waveWrite n off v) := by
  unfold State.waveWrite
  simp +contextual (maxDischargeDepth := 99) only [hk, b3, b5, Regs_mk, ite_blocks, forall_const, imp_self, implies_true,
      bit_off, LNC_EVENTS_CFG_ERR_blk, PHS_EVENTS_CFG_ERR_blk, setTword_blocks, ev_blocks, refStale_blocks]

theorem refWrite_blocks (hk : RegsP B base s) (n j off : Nat) (v : Word) (b3 : B 3 := by first | assumption | decide)
    (b5 : B 5 := by first | assumption | decide) :
    RegsP B base (s.refWrite n j off v) := by
  unfold State.refWrite
  simp +contextual (maxDischargeDepth := 99) only [hk, b3, b5, Regs_mk, ite_blocks, forall_const, imp_self, implies_true,
      bit_off, LNC_EVENTS_CFG_ERR_blk, PHS_EVENTS_CFG_ERR_blk, setTword_blocks, ev_blocks, refStale_blocks]

theorem tableWrite_blocks (hk : RegsP B base s) (off : Nat) (v : Word) (b3 : B 3 := by first | assumption | decide)
    (b5 : B 5 := by first | assumption | decide) (b6 : B 6 := by first | assumption | decide)
    (b7 : B 7 := by first | assumption | decide) (b8 : B 8 := by first | assumption | decide) :
    RegsP B base (s.tableWrite off v) := by
  unfold State.tableWrite
  try dsimp only
  repeat' split
  all_goals simp +contextual (maxDischargeDepth := 99) only [hk, b3, b5, b6, b7, b8, Regs_mk, ite_blocks, forall_const,
      imp_self, implies_true, bit_off, ACF_EVENTS_CFG_ERR_blk, DTS_EVENTS_CFG_ERR_blk, EVT_EVENTS_CFG_ERR_blk,
      setTword_blocks, ev_blocks, waveWrite_blocks, refWrite_blocks]

theorem writeBar2_blocks (hk : RegsP B base s) (a : Nat) (v : Word) (b11 : B 11 := by first | assumption | decide) :
    RegsP B base (s.writeBar2 a v) := by
  unfold State.writeBar2
  simp +contextual (maxDischargeDepth := 99) only [hk, b11, Regs_mk, ite_blocks, forall_const, imp_self, implies_true,
      bit_off, msixFlush_blocks, cmdDb_blocks, cplDb_blocks, strDb_blocks]

theorem doorbell_blocks (hk : RegsP B base s) (b : Bus) (act : State → State) (ha : ∀ x,
    RegsP B base x → RegsP B base (act x)) (b1 : B 1 := by first | assumption | decide)
    (b2 : B 2 := by first | assumption | decide) (b10 : B 10 := by first | assumption | decide)
    (b15 : B 15 := by first | assumption | decide) :
    RegsP B base (s.doorbell b act) := by
  have h1 := accessWake_blocks (at_blocks hk b.t)
  unfold State.doorbell
  exact ite_blocks (ite_blocks h1 (ha _ h1)) (at_blocks hk b.t)

/-! ### Machine/Boot.lean -/

theorem bootTo_blocks (hk : RegsP B base s) (k : Nat) : RegsP B base (s.bootTo k) := by
  unfold State.bootTo
  exact Regs_mk hk

theorem bootNv_blocks (hk : RegsP B base s) (i : BootInfo) (b1 : B 1 := by first | assumption | decide)
    (b14 : B 14 := by first | assumption | decide) (b17 : B 17 := by first | assumption | decide) :
    RegsP B base (s.bootNv i) := by
  unfold State.bootNv
  simp +contextual (maxDischargeDepth := 99) only [hk, b1, b14, b17, Regs_mk, ite_blocks, forall_const, imp_self,
      implies_true, bit_off, PWR_BOOT_STATUS_CODE_blk, set_blocks, nvErrs_blocks]

theorem slotsSeen_blocks (hk : RegsP B base s) (k : Nat) (i : BootInfo) :
    RegsP B base (s.slotsSeen k i) := by
  unfold State.slotsSeen
  simp +contextual (maxDischargeDepth := 99) only [hk, Regs_mk, ite_blocks, forall_const, imp_self, implies_true, bit_off]

theorem bootFails_blocks (hk : RegsP B base s) (code : Nat) (gnowa : Bool) (b1 : B 1 := by first | assumption | decide)
    (b17 : B 17 := by first | assumption | decide) :
    RegsP B base (s.bootFails code gnowa) := by
  unfold State.bootFails
  simp +contextual (maxDischargeDepth := 99) only [hk, b1, b17, Regs_mk, ite_blocks, forall_const, imp_self, implies_true,
      bit_off, NVS_WP_WP_blk, PWR_BOOT_STATUS_CODE_blk, PWR_EVENTS_BOOT_FAIL_blk, set_blocks, ev_blocks]

theorem bootMs_blocks (hk : RegsP B base s) (b1 : B 1 := by first | assumption | decide) :
    RegsP B base (s.bootMs) := by
  unfold State.bootMs
  simp +contextual (maxDischargeDepth := 99) only [hk, b1, Regs_mk, ite_blocks, forall_const, imp_self, implies_true,
      bit_off, PWR_BOOT_STATUS_MS_blk, set_blocks, nextFree_blocks]

theorem nvReg_blocks (hk : RegsP B base s) (reg off : Nat) (h : B (reg / 65536)) : RegsP B base (s.nvReg reg off) := by
  unfold State.nvReg
  split
  · exact setReg_blocks hk _ _ h
  · exact hk

theorem calfRestore_blocks (hk : RegsP B base s) (b4 : B 4 := by first | assumption | decide)
    (b12 : B 12 := by first | assumption | decide) : RegsP B base s.calfRestore := by
  unfold State.calfRestore
  extract_lets s1
  have h1 : RegsP B base s1 := by
    refine ite_blocks (foldl_blocks (foldl_blocks hk (fun t i ht => ?_)) (fun t p ht => ?_)) hk
    · exact nvReg_blocks ht _ _ (by rw [calfOff_blk _ _ (Nat.mod_lt _ (by decide))]; exact b4)
    · exact nvReg_blocks (nvReg_blocks ht _ _ (by rw [ACQ_IQ_A_blk]; exact b4)) _ _ (by rw [ACQ_IQ_B_blk]; exact b4)
  exact ite_blocks (foldl_blocks h1 (fun t g ht =>
    nvReg_blocks (nvReg_blocks ht _ _ (by rw [PMC_CALF_OFS_blk]; exact b12)) _ _ (by rw [PMC_CALF_GAIN_blk]; exact b12))) h1

theorem dlyWords_block (x : Nat × Nat) (hx : x ∈ dlyWords.zipIdx) : x.1 / 65536 = 15 := by
  have h := List.fst_mem_of_mem_zipIdx hx
  simp only [dlyWords, List.mem_flatMap, List.mem_map] at h
  obtain ⟨c, _, b, _, w, _, e⟩ := h
  rw [← e]
  simp only [MEM_CH_DLY]
  omega

theorem delayRestore_blocks (hk : RegsP B base s)
    (b15 : B 15 := by first | assumption | decide) : RegsP B base s.delayRestore := by
  unfold State.delayRestore
  refine ite_blocks hk (ite_blocks ?_ ?_)
  · exact nextFree_blocks (set_blocks (set_blocks (foldl_mem_blocks hk (fun t x hx ht =>
      nvReg_blocks ht _ _ (by rw [dlyWords_block x hx]; exact b15))) _ _) _ _)
  · exact set_blocks (set_blocks (foldl_mem_blocks hk (fun t x hx ht =>
      setReg_blocks ht _ _ (by rw [dlyWords_block x hx]; exact b15))) _ _) _ _

theorem pmcReady_blocks (hk : RegsP B base s) :
    RegsP B base (s.pmcReady) := by
  unfold State.pmcReady
  simp +contextual (maxDischargeDepth := 99) only [hk, Regs_mk, ite_blocks, forall_const, imp_self, implies_true, bit_off,
      setPmc_blocks]

theorem bootImage_blocks (hk : RegsP B base s) (i : ImageRead) (b1 : B 1 := by first | assumption | decide)
    (b10 : B 10 := by first | assumption | decide) :
    RegsP B base (s.bootImage i) := by
  unfold State.bootImage
  simp +contextual (maxDischargeDepth := 99) only [hk, b1, b10, Regs_mk, ite_blocks, forall_const, imp_self, implies_true,
      bit_off, PWR_BOOT_STATUS_SCHED_FAIL_blk, set_blocks, admitImage_blocks]

theorem boot6_blocks (hk : RegsP B base s) (i : BootInfo) (b0 : B 0 := by first | assumption | decide)
    (b1 : B 1 := by first | assumption | decide) (b2 : B 2 := by first | assumption | decide)
    (b3 : B 3 := by first | assumption | decide) (b4 : B 4 := by first | assumption | decide)
    (b5 : B 5 := by first | assumption | decide) (b6 : B 6 := by first | assumption | decide)
    (b7 : B 7 := by first | assumption | decide) (b8 : B 8 := by first | assumption | decide)
    (b9 : B 9 := by first | assumption | decide) (b10 : B 10 := by first | assumption | decide)
    (b11 : B 11 := by first | assumption | decide) (b14 : B 14 := by first | assumption | decide)
    (b17 : B 17 := by first | assumption | decide) :
    RegsP B base (s.boot6 i) := by
  unfold State.boot6
  try dsimp only
  repeat' split
  all_goals simp +contextual (maxDischargeDepth := 99) only [hk, b0, b1, b2, b3, b4, b5, b6, b7, b8, b9, b10, b11, b14, b17,
      Regs_mk, ite_blocks, forall_const, imp_self, implies_true, bit_off, FLT_STATUS_SAFE_HOLD_blk,
      PWR_BOOT_STATUS_GNOWA_SLOT_blk, SYS_FW_VER_GNOWA_blk, set_blocks, setB_blocks, trip_blocks, weirRoute_blocks,
      modeReg_blocks, bootTo_blocks, bootNv_blocks, slotsSeen_blocks, bootFails_blocks, foldl_range_blocks, foldl_blocks]

theorem boot8_blocks (hk : RegsP B base s) (i : BootInfo) (b0 : B 0 := by first | assumption | decide)
    (b1 : B 1 := by first | assumption | decide) (b14 : B 14 := by first | assumption | decide)
    (b17 : B 17 := by first | assumption | decide) :
    RegsP B base (s.boot8 i) := by
  unfold State.boot8
  try dsimp only
  repeat' split
  all_goals simp +contextual (maxDischargeDepth := 99) only [hk, b0, b1, b14, b17, Regs_mk, ite_blocks, forall_const,
      imp_self, implies_true, bit_off, PWR_BOOT_STATUS_APP_SLOT_blk, SYS_FW_VER_APP_blk, set_blocks, setB_blocks,
      bootNv_blocks, slotsSeen_blocks, bootFails_blocks]

theorem boot10_blocks (hk : RegsP B base s) (i : BootInfo) (b1 : B 1 := by first | assumption | decide)
    (b10 : B 10 := by first | assumption | decide) (b14 : B 14 := by first | assumption | decide)
    (b17 : B 17 := by first | assumption | decide) :
    RegsP B base (s.boot10 i) := by
  unfold State.boot10
  simp +contextual (maxDischargeDepth := 99) only [hk, b1, b10, b14, b17, Regs_mk, ite_blocks, forall_const, imp_self,
      implies_true, bit_off, bootTo_blocks, bootNv_blocks, bootImage_blocks, foldl_range_blocks, foldl_blocks]

theorem boot11_blocks (hk : RegsP B base s) (i : BootInfo) (b1 : B 1 := by first | assumption | decide)
    (b2 : B 2 := by first | assumption | decide) (b3 : B 3 := by first | assumption | decide)
    (b4 : B 4 := by first | assumption | decide) (b5 : B 5 := by first | assumption | decide)
    (b6 : B 6 := by first | assumption | decide) (b7 : B 7 := by first | assumption | decide)
    (b8 : B 8 := by first | assumption | decide) (b10 : B 10 := by first | assumption | decide)
    (b11 : B 11 := by first | assumption | decide) (b14 : B 14 := by first | assumption | decide)
    (b17 : B 17 := by first | assumption | decide) (b9 : B 9 := by first | assumption | decide)
        (b12 : B 12 := by first | assumption | decide) :
    RegsP B base (s.boot11 i) := by
  unfold State.boot11
  simp +contextual (maxDischargeDepth := 99) only [hk, b9, b12, b1, b2, b3, b4, b5, b6, b7, b8, b10, b11, b14, b17, Regs_mk,
      ite_blocks, forall_const, imp_self, implies_true, bit_off, PWR_BOOT_STATUS_CODE_blk, set_blocks, enterMode_blocks,
      bootTo_blocks, bootNv_blocks, bootMs_blocks, pmcReady_blocks]

/-! ### Machine/RingCmds.lean -/

theorem readLog_blocks (hk : RegsP B base s) (c : Cmd) (addr len : Nat) (b11 : B 11 := by first | assumption | decide) :
    RegsP B base (s.readLog c addr len) := by
  unfold State.readLog
  simp +contextual (maxDischargeDepth := 99) only [hk, b11, Regs_mk, ite_blocks, forall_const, imp_self, implies_true,
      bit_off, dmaWrite_blocks, complete_blocks]

theorem spillDrain_blocks (hk : RegsP B base s) (c : Cmd) (b11 : B 11 := by first | assumption | decide) :
    RegsP B base (s.spillDrain c) := by
  unfold State.spillDrain
  simp +contextual (maxDischargeDepth := 99) only [hk, b11, Regs_mk, ite_blocks, forall_const, imp_self, implies_true,
      bit_off, HIF_EVENTS_DRAIN_DONE_blk, HIF_STATUS_ATTACH_blk, HIF_STATUS_PERST_GATED_blk, set_blocks, ev_blocks,
      complete_blocks]

theorem streamFlush_blocks (hk : RegsP B base s) (mask : Nat) (b11 : B 11 := by first | assumption | decide) :
    RegsP B base (s.streamFlush mask) := by
  unfold State.streamFlush
  simp +contextual (maxDischargeDepth := 99) only [hk, b11, Regs_mk, ite_blocks, forall_const, imp_self, implies_true,
      bit_off, bufFlush_blocks, foldl_range_blocks, foldl_blocks]

/-! ### Machine/RegCmds.lean -/

theorem ringStop_blocks (hk : RegsP B base s) (kind : RingKind) (k : Nat) (b11 : B 11 := by first | assumption | decide) :
    RegsP B base (s.ringStop kind k) := by
  unfold State.ringStop
  try dsimp only
  repeat' split
  all_goals simp +contextual (maxDischargeDepth := 99) only [hk, b11, Regs_mk, ite_blocks, forall_const, imp_self,
      implies_true, bit_off, ringState_blk, set_blocks]

/-! ### Machine/TimeCmds.lean -/

theorem edgeStep_blocks (hk : RegsP B base s) (f : State → State) (hf : ∀ x, RegsP B base x → RegsP B base (f x)) :
    RegsP B base (s.edgeStep f) := ite_blocks (hf _ hk) (pmcRestart_blocks (hf _ hk))

/-! ### Machine/HostCmds.lean -/

theorem drainRead_blocks (hk : RegsP B base s) (errs : List MemErr) (b11 : B 11 := by first | assumption | decide)
    (b14 : B 14 := by first | assumption | decide) (b15 : B 15 := by first | assumption | decide)
    (b16 : B 16 := by first | assumption | decide) :
    RegsP B base (s.drainRead errs) := by
  unfold State.drainRead
  simp +contextual (maxDischargeDepth := 99) only [hk, b11, b14, b15, b16, Regs_mk, ite_blocks, forall_const, imp_self,
      implies_true, bit_off, memUsed_blocks, drainOne_blocks, memErr_blocks, foldl_range_blocks, foldl_blocks]

theorem coalesceEnd_blocks (hk : RegsP B base s) (k : Nat) :
    RegsP B base (s.coalesceEnd k) := by
  unfold State.coalesceEnd
  try dsimp only
  repeat' split
  all_goals simp +contextual (maxDischargeDepth := 99) only [hk, Regs_mk, ite_blocks, forall_const, imp_self, implies_true,
      bit_off, cplSignal_blocks]

theorem ringFail_blocks (hk : RegsP B base s) (kind : RingKind) (k : Nat) (b11 : B 11 := by first | assumption | decide)
    (b14 : B 14 := by first | assumption | decide) :
    RegsP B base (s.ringFail kind k) := by
  unfold State.ringFail
  simp +contextual (maxDischargeDepth := 99) only [hk, b11, b14, Regs_mk, ite_blocks, forall_const, imp_self, implies_true,
      bit_off, HIF_EVENTS_FETCH_ERR_blk, ringState_blk, set_blocks, nextFree_blocks, ev_blocks, aerUnc_blocks, present_blocks]

theorem linkUp_blocks (hk : RegsP B base s) (speed width : Nat) (b11 : B 11 := by first | assumption | decide) :
    RegsP B base (s.linkUp speed width) := by
  unfold State.linkUp
  simp +contextual (maxDischargeDepth := 99) only [hk, b11, Regs_mk, ite_blocks, forall_const, imp_self, implies_true,
      bit_off, HIF_STATUS_LINK_UP_blk, HIF_STATUS_SPEED_blk, HIF_STATUS_WIDTH_blk, set_blocks, hold_blocks]

/-! ### Machine/PathCmds.lean -/

theorem shotErrs_blocks (hk : RegsP B base s) (n : Nat) (errs : List MemErr) (b7 : B 7 := by first | assumption | decide)
    (b14 : B 14 := by first | assumption | decide) (b15 : B 15 := by first | assumption | decide)
    (b16 : B 16 := by first | assumption | decide) :
    RegsP B base (s.shotErrs n errs) := by
  unfold State.shotErrs
  simp +contextual (maxDischargeDepth := 99) only [hk, b7, b14, b15, b16, Regs_mk, ite_blocks, forall_const, imp_self,
      implies_true, bit_off, modF_blocks, memErr_blocks, accPoison_blocks, dropLost_blocks, foldl_range_blocks, foldl_blocks]

end Sys2Proof.Machine
end

