-- ==== Sys2Proof/Laws/RegsBus.lean ====
section
/-! SUPPORT. Register blocks written by register reads and writes: the block of the register itself, those its write acts on,
and those of the wake from a ladder state (R499). -/

namespace Sys2Proof.Machine

set_option Elab.async false

variable {base s : State} {B : Nat → Prop}

/-- The blocks that a write of a register of block k may change, beside k. -/
def sideBlocks (k : Nat) : List Nat :=
  match k with
  | 3 => [14]
  | 8 => [9]
  | 12 => [11]
  | 13 => [2, 3, 4, 5, 6, 7, 8, 9, 10, 11, 12, 14]
  | _ => []

theorem cfgErr_blocks (hk : RegsP B base s) (off : Nat) (h17 : off / 65536 ≤ 17) (hb : B (off / 65536)) :
    RegsP B base (s.cfgErr off) := by
  refine ev_blocks hk _ ?_
  have h : (cfgErrOf off).off / 65536 = off / 65536 := by
    unfold cfgErrOf
    generalize off / 65536 = k at h17
    interval_cases k <;>
      simp only [SYS_EVENTS_CFG_ERR_blk, PWR_EVENTS_CFG_ERR_blk, TIM_EVENTS_CFG_ERR_blk, LNC_EVENTS_CFG_ERR_blk,
        ACQ_EVENTS_CFG_ERR_blk, PHS_EVENTS_CFG_ERR_blk, ACF_EVENTS_CFG_ERR_blk, DTS_EVENTS_CFG_ERR_blk, EVT_EVENTS_CFG_ERR_blk,
        TRK_EVENTS_CFG_ERR_blk, SCH_EVENTS_CFG_ERR_blk, HIF_EVENTS_CFG_ERR_blk, PMC_EVENTS_CFG_ERR_blk, WMN_EVENTS_CFG_ERR_blk,
        FLT_EVENTS_CFG_ERR_blk, MEM_EVENTS_CFG_ERR_blk, BRM_EVENTS_CFG_ERR_blk, NVS_EVENTS_CFG_ERR_blk]
  rw [h]; exact hb

theorem w1c_blocks (hk : RegsP B base s) (off : Nat) (v : Word) (hb : B (off / 65536)) : RegsP B base (s.w1c off v) := by
  unfold State.w1c
  split
  · exact setReg_blocks hk _ _ hb
  · exact hk

theorem rcClear_blocks (hk : RegsP B base s) (off : Nat) (hb : B (off / 65536)) : RegsP B base (s.rcClear off) := by
  unfold State.rcClear
  split
  · exact setReg_blocks hk _ _ hb
  · exact hk

theorem tget_rwriteP_ne (r : Tab Word) (off o : Nat) (v : Word) (h : o ≠ off) :
    tget (resetOf o) (rwriteP r off v) o = tget (resetOf o) r o := by
  unfold rwriteP
  split
  · rfl
  · exact tget_tput_ne _ _ _ _ _ _ h

theorem rwrite_blocks (hk : RegsP B base s) (off : Nat) (v : Word) (hb : B (off / 65536)) :
    RegsP B base { s with regs := rwrite s.regs off v } :=
  withRegs_blocks hk _ (fun _ ho => tget_rwrite_ne _ _ _ _ (fun e => ho (e ▸ hb)))

theorem rwriteP_blocks (hk : RegsP B base s) (off : Nat) (v : Word) (hb : B (off / 65536)) :
    RegsP B base { s with regs := rwriteP s.regs off v } :=
  withRegs_blocks hk _ (fun _ ho => tget_rwriteP_ne _ _ _ _ (fun e => ho (e ▸ hb)))

theorem weirWrite_blocks (hk : RegsP B base s) (off : Nat) (v : Word) (h : off / 65536 = 13) (b13 : B 13)
    (hs : ∀ b ∈ sideBlocks 13, B b) : RegsP B base (s.weirWrite off v) := by
  have b2 := hs 2 (by decide)
  have b3 := hs 3 (by decide)
  have b4 := hs 4 (by decide)
  have b5 := hs 5 (by decide)
  have b6 := hs 6 (by decide)
  have b7 := hs 7 (by decide)
  have b8 := hs 8 (by decide)
  have b9 := hs 9 (by decide)
  have b10 := hs 10 (by decide)
  have b11 := hs 11 (by decide)
  have b12 := hs 12 (by decide)
  have b14 := hs 14 (by decide)
  have h1 : RegsP B base { s with regs := rwriteP s.regs off v } := rwriteP_blocks hk off v (h ▸ b13)
  unfold State.weirWrite
  extract_lets r
  split
  · split
    · exact ev_blocks hk _
    · rename_i m _ _
      unfold State.weirApply
      extract_lets r0 was changed src s1 wins stamp en s2
      have hw : RegsP B base s1 := withRegs_blocks (weirSync_blocks hk _) _ (fun _ ho => tget_rwriteP_ne _ _ _ _ (fun e => ho (e ▸ h ▸ b13)))
      have h2 : RegsP B base s2 := staleShow_blocks (modW_blocks hw _ _) _
      exact ite_blocks (ite_blocks (weirOff_blocks h2 _) h2) (ite_blocks (weirUnres_blocks h2 _) (weirEval_blocks h2 _))
  · split
    · exact ev_blocks hk _
    · exact ite_blocks (foldl_blocks (Regs_mk h1) (fun t m ht => staleShow_blocks ht _)) (Regs_mk h1)

theorem polderStore_blocks (hk : RegsP B base s) (off : Nat) (v : Word) (h17 : off / 65536 ≤ 17) (hb : B (off / 65536))
    (hs : ∀ b ∈ sideBlocks (off / 65536), B b) : RegsP B base (s.polderStore off v) := by
  unfold State.polderStore
  extract_lets s1
  have h1 : RegsP B base s1 := by
    show RegsP B base (if _ then _ else _)
    split
    · rename_i h
      exact weirWrite_blocks hk off v h (h ▸ hb) (h ▸ hs)
    · exact ite_blocks (cfgErr_blocks hk off h17 hb) (rwriteP_blocks hk off v hb)
  exact ite_blocks (Regs_mk h1) h1

theorem weirOf_block (off m : Nat) (h : weirOf off = some m) : off / 65536 = 13 := by
  unfold weirOf at h
  split at h
  · omega
  · cases h

theorem polderWrite_blocks (hk : RegsP B base s) (off : Nat) (v : Word) (h17 : off / 65536 ≤ 17) (hb : B (off / 65536))
    (hs : ∀ b ∈ sideBlocks (off / 65536), B b) : RegsP B base (s.polderWrite off v) := by
  have h1 : RegsP B base (if (!s.weirOpen || (off / 0x10000 == 3 && s.busyFe (off % 0x10000 / 0x4000))) = true then s
      else s.polderStore off v) := ite_blocks hk (polderStore_blocks hk off v h17 hb hs)
  unfold State.polderWrite
  split
  · rename_i m hm
    refine ite_blocks (ev_blocks hk _ ?_) h1
    rw [WMN_EVENTS_CFG_ERR_blk, ← weirOf_block off m hm]
    exact hb
  · rw [if_neg (by decide)]
    exact h1

theorem wrote_blocks (hk : RegsP B base s) (off : Nat) (v : Word) (hb : B (off / 65536))
    (hs : ∀ b ∈ sideBlocks (off / 65536), B b) : RegsP B base (s.wrote off v) := by
  have h1 := w1c_blocks hk off v hb
  have h2 := rwrite_blocks h1 off v hb
  unfold State.wrote
  split
  · rename_i h
    have b13 : B 13 := by rw [h] at hb; exact hb
    exact latchWrite_blocks hk _
  · split
    · rename_i h
      have b9 : B 9 := h ▸ hb
      exact trkWrite_blocks (w1c_blocks (trkHold_blocks hk) off v hb) _ _ h
    · dsimp only
      split <;> (try rename_i h) <;> (try rw [h] at hb hs)
      · exact wrotePwr_blocks h2 _ _
      · exact wroteTim_blocks h2 _ _ _
      · exact wroteLnc_blocks h2 _
      · exact wroteLnc_blocks h2 _
      · exact wroteAcq_blocks h2 _
      · exact wroteDts_blocks h2 _
      · have b9 := hs 9 (by decide)
        exact wroteEvt_blocks h2 _ _
      · exact wroteHif_blocks h2 _ _
      · have b11 := hs 11 (by decide)
        exact wrotePmc_blocks h2 _ _ _
      · exact wroteMem_blocks h2 _ _ _
      · exact h2

theorem regAt_none (off : Nat) (h : 17 < off / 65536) : regAt off = none := by
  unfold regAt
  have : blockSpec (off / 65536) = [] := by
    unfold blockSpec
    split <;> first | (exfalso; omega) | rfl
  rw [show (0x10000 : Nat) = 65536 from rfl, this]
  rfl

/-- A word write that names no table and no warm reset changes the block of its register and those its write acts on. -/
theorem writeWord_blocks (hk : RegsP B base s) (m : Master) (off : Nat) (v : Word) (ht : off < 0x400000)
    (hr : off ≠ SYS_RESET) (hb : B (off / 65536)) (hs : ∀ b ∈ sideBlocks (off / 65536), B b) :
    RegsP B base (s.writeWord m off v) := by
  unfold State.writeWord
  split
  · exact hk
  · rw [if_neg (show ¬ 0x400000 ≤ off by omega)]
    by_cases h17 : off / 65536 ≤ 17
    · split
      · exact hk
      · split
        · exact ite_blocks (polderWrite_blocks hk off v h17 hb hs) hk
        · split
          · exact cfgErr_blocks hk off h17 hb
          · exact wrote_blocks hk off v hb hs
    · rw [regAt_none off (by omega)]
      exact hk

/-- A 4-byte write of a register by a master. -/
theorem busWord_blocks (hk : RegsP B base s) (b : Bus) (off : Nat) (v : Word) (ht : off < 0x400000)
    (hr : off ≠ SYS_RESET) (hb : B (off / 65536)) (hs : ∀ b ∈ sideBlocks (off / 65536), B b) (b1 : B 1) (b2 : B 2) (b10 : B 10)
    (b15 : B 15) : RegsP B base (s.busWord b off v) := by
  have h1 := at_blocks hk b.t
  have h2 := accessWake_blocks h1
  unfold State.busWord State.busWrite
  extract_lets a a1
  split
  · split
    · exact h2
    · rw [if_neg (show ¬ 0x1000000 ≤ off by omega), if_pos rfl]
      refine writeWord_blocks ?_ _ _ _ ht hr hb hs
      unfold State.readSync
      split
      · rename_i h
        have b3 : B 3 := h ▸ hb
        have b14 : B 14 := (h ▸ hs) 14 (by decide)
        exact lncSync_blocks h2 _
      · exact h2
  · exact h1

theorem readWord_blocks (hk : RegsP B base s) (m : Master) (off : Nat) (hb : B (off / 65536)) :
    RegsP B base (s.readWord m off) := by
  have h1 : RegsP B base (s.capture m off) := hk
  unfold State.readWord
  split
  · exact hk
  · extract_lets s1 s2 s3
    have h2 : RegsP B base s2 := by
      show RegsP B base (match instOf (TRK_QIN_POS 0) 0x40 2 off with | some i => s1.qinPosRead i | none => s1)
      split
      · exact Regs_mk h1
      · exact h1
    have h3 : RegsP B base s3 := rcClear_blocks h2 off hb
    split
    · exact h2
    · exact ite_blocks (Regs_mk h3) h3

/-- A read of one register by a master. -/
theorem busRead_blocks (hk : RegsP B base s) (b : Bus) (off bytes : Nat)
    (hb : ∀ o, off / 4 * 4 ≤ o → o < off + bytes → B (o / 65536)) (b1 : B 1) (b2 : B 2) (b3 : B 3) (b10 : B 10) (b14 : B 14)
    (b15 : B 15) (h0 : 0 < bytes) : RegsP B base (s.busRead b off bytes) := by
  have h1 := at_blocks hk b.t
  have h2 := accessWake_blocks h1
  unfold State.busRead
  extract_lets a a1 first last
  split
  · refine foldl_range_blocks h2 (fun t x hx ht => ?_)
    exact readWord_blocks (readSync_blocks ht _) _ _ (hb _ (by omega) (by omega))
  · exact h1

end Sys2Proof.Machine
end

