-- ==== Sys2Proof/Laws/RegsCmds.lean ====
section
/-! SUPPORT. The register blocks (R543) that a command may write, one lemma for each command whose blocks are known: every
register outside them is the same in both states. -/

namespace Sys2Proof.Machine

set_option Elab.async false

variable {s s' : State}

theorem execNop_blocks (h : Hdr) (opcode : Nat) (h : execNop h opcode s = .next s') :
    RegsP (fun b => b ∈ ([10, 11] : List Nat)) s s' := by
  cases h
  exact ringStart_blocks (RegsP.refl _ s) _ _ _ _ (fun _ _ hx => complete_blocks hx _ _ _)

theorem execArm_blocks (h : Hdr) (fe : Nat) (h : execArm h fe s = .next s') :
    RegsP (fun b => b ∈ ([2, 3, 4, 6, 7, 8, 10, 11] : List Nat)) s s' := by
  cases h
  exact ringStart_blocks (RegsP.refl _ s) _ _ _ _ (fun _ _ hx => armCmd_blocks hx _ _)

theorem execDisarm_blocks (h : Hdr) (fe : Nat) (h : execDisarm h fe s = .next s') :
    RegsP (fun b => b ∈ ([2, 3, 4, 5, 6, 7, 8, 9, 10, 11, 14] : List Nat)) s s' := by
  cases h
  exact ringStart_blocks (RegsP.refl _ s) _ _ _ _ (fun _ _ hx => disarmFe_blocks hx _ _)

theorem execAcqCalibrate_blocks (h : Hdr) (mask : Nat) (nv saveOnly : Bool)
    (h : execAcqCalibrate h mask nv saveOnly s = .next s') :
    RegsP (fun b => b ∈ ([4, 10, 11] : List Nat)) s s' := by
  cases h
  exact ringStart_blocks (RegsP.refl _ s) _ _ _ _ (fun _ _ hx => calStart_blocks hx _ _ _ _)

theorem execPmcCalibrate_blocks (h : Hdr) (mask : Nat) (nv saveOnly : Bool)
    (h : execPmcCalibrate h mask nv saveOnly s = .next s') :
    RegsP (fun b => b ∈ ([10, 11, 12] : List Nat)) s s' := by
  cases h
  exact ringStart_blocks (RegsP.refl _ s) _ _ _ _ (fun _ _ hx => pmcCalStart_blocks hx _ _ _ _)

theorem execLoadSchedule_blocks (h : Hdr) (addr len : Nat) (img : Option ImageRead)
    (h : execLoadSchedule h addr len img s = .next s') :
    RegsP (fun b => b ∈ ([10, 11] : List Nat)) s s' := by
  cases h
  exact ringStart_blocks (RegsP.refl _ s) _ _ _ _ (fun _ _ hx => loadStart_blocks hx _ _)

theorem execUnloadSchedule_blocks (h : Hdr) (slot : Nat) (h : execUnloadSchedule h slot s = .next s') :
    RegsP (fun b => b ∈ ([10, 11] : List Nat)) s s' := by
  cases h
  exact ringStart_blocks (RegsP.refl _ s) _ _ _ _ (fun _ _ hx => unloadStart_blocks hx _ _)

theorem execCommit_blocks (h : Hdr) (addr len : Nat) (list : Option (List Byte))
    (h : execCommit h addr len list s = .next s') :
    RegsP (fun b => b ∈ ([2, 3, 4, 5, 6, 7, 8, 10, 11] : List Nat)) s s' := by
  cases h
  exact ringStart_blocks (RegsP.refl _ s) _ _ _ _ (fun _ _ hx => commitStage_blocks hx _ _)

theorem execCommitCancel_blocks (h : Hdr) (target : BitVec 32) (h : execCommitCancel h target s = .next s') :
    RegsP (fun b => b ∈ ([10, 11] : List Nat)) s s' := by
  cases h
  exact ringStart_blocks (RegsP.refl _ s) _ _ _ _ (fun _ _ hx => commitCancel_blocks hx _ _)

theorem execSetLatency_blocks (h : Hdr) (ns : BitVec 64) (h : execSetLatency h ns s = .next s') :
    RegsP (fun b => b ∈ ([1, 10, 11] : List Nat)) s s' := by
  cases h
  exact ringStart_blocks (RegsP.refl _ s) _ _ _ _ (fun _ _ hx => setLatency_blocks hx _ _)

theorem execRecover_blocks (h : Hdr) (mask : Nat) (h : execRecover h mask s = .next s') :
    RegsP (fun b => b ∈ ([9, 10, 11, 14] : List Nat)) s s' := by
  cases h
  exact ringStart_blocks (RegsP.refl _ s) _ _ _ _ (fun _ _ hx => recover_blocks hx _ _)

theorem execFaultInject_blocks (h : Hdr) (src kind durNs : Nat) (h : execFaultInject h src kind durNs s = .next s') :
    RegsP (fun b => b ∈ ([10, 11, 14] : List Nat)) s s' := by
  cases h
  exact ringStart_blocks (RegsP.refl _ s) _ _ _ _ (fun _ _ hx => inject_blocks hx _ _ _ _)

theorem execNvWrite_blocks (h : Hdr) (addr off len : Nat) (data : Option (List Byte))
    (h : execNvWrite h addr off len data s = .next s') :
    RegsP (fun b => b ∈ ([10, 11, 17] : List Nat)) s s' := by
  cases h
  exact ringStart_blocks (RegsP.refl _ s) _ _ _ _ (fun _ _ hx => nvWrite_blocks hx _ _ _ _)

theorem execNvRead_blocks (h : Hdr) (addr off len : Nat) (dmaOk : Bool) (corrected : Nat) (badWord : Option Nat)
    (h : execNvRead h addr off len dmaOk corrected badWord s = .next s') :
    RegsP (fun b => b ∈ ([10, 11, 14, 17] : List Nat)) s s' := by
  cases h
  exact ringStart_blocks (RegsP.refl _ s) _ _ _ _ (fun _ _ hx => nvRead_blocks hx _ _ _ _ _ _ _)

theorem execReadReattachLog_blocks (h : Hdr) (addr len : Nat) (h : execReadReattachLog h addr len s = .next s') :
    RegsP (fun b => b ∈ ([10, 11] : List Nat)) s s' := by
  cases h
  exact ringStart_blocks (RegsP.refl _ s) _ _ _ _ (fun _ _ hx => readLog_blocks hx _ _ _)

theorem execSpillDrain_blocks (h : Hdr) (h : execSpillDrain h s = .next s') :
    RegsP (fun b => b ∈ ([10, 11] : List Nat)) s s' := by
  cases h
  exact ringStart_blocks (RegsP.refl _ s) _ _ _ _ (fun _ _ hx => spillDrain_blocks hx _)

theorem execDetach_blocks (h : Hdr) (h : execDetach h s = .next s') :
    RegsP (fun b => b ∈ ([8, 10, 11] : List Nat)) s s' := by
  cases h
  exact ringStart_blocks (RegsP.refl _ s) _ _ _ _ (fun _ _ hx => detachStart_blocks hx _)

theorem execStreamFlush_blocks (h : Hdr) (mask : BitVec 32) (h : execStreamFlush h mask s = .next s') :
    RegsP (fun b => b ∈ ([10, 11] : List Nat)) s s' := by
  cases h
  exact ringStart_blocks (RegsP.refl _ s) _ _ _ _ (fun _ _ hx => complete_blocks (streamFlush_blocks hx _) _ _ _)

theorem execRingStopped_blocks (t : Nat) (kind : RingKind) (k : Nat) (h : execRingStopped t kind k s = .next s') :
    RegsP (fun b => b ∈ ([10, 11] : List Nat)) s s' := by
  cases h
  exact main_blocks (RegsP.refl _ s) _ _ (fun _ hx => ringStop_blocks hx _ _)

theorem execCmdDoorbell_blocks (b : Bus) (k : Fin 16) (v : Word) (h : execCmdDoorbell b k v s = .next s') :
    RegsP (fun b => b ∈ ([1, 2, 10, 11, 15] : List Nat)) s s' := by
  cases h
  exact doorbell_blocks (RegsP.refl _ s) _ _ (fun _ hx => cmdDb_blocks hx _ _)

theorem execCplDoorbell_blocks (b : Bus) (k : Fin 16) (v : Word) (h : execCplDoorbell b k v s = .next s') :
    RegsP (fun b => b ∈ ([1, 2, 10, 11, 15] : List Nat)) s s' := by
  cases h
  exact doorbell_blocks (RegsP.refl _ s) _ _ (fun _ hx => cplDb_blocks hx _ _)

theorem execStrDoorbell_blocks (b : Bus) (m : Fin 32) (v : Word) (descs : List BufDesc)
    (h : execStrDoorbell b m v descs s = .next s') :
    RegsP (fun b => b ∈ ([1, 2, 10, 11, 15] : List Nat)) s s' := by
  cases h
  exact doorbell_blocks (RegsP.refl _ s) _ _ (fun _ hx => strDb_blocks hx _ _ _)

theorem execRefclkLoss_blocks (t : Nat) (h : execRefclkLoss t s = .next s') :
    RegsP (fun b => b ∈ ([2, 10, 14] : List Nat)) s s' := by
  cases h
  exact main_blocks (RegsP.refl _ s) _ _ (fun _ hx => refLoss_blocks hx)

theorem execRefclkReturn_blocks (t : Nat) (h : execRefclkReturn t s = .next s') :
    RegsP (fun b => b ∈ ([2, 10] : List Nat)) s s' := by
  cases h
  exact main_blocks (RegsP.refl _ s) _ _ (fun _ hx => refReturn_blocks hx)

theorem execPllLock_blocks (t : Nat) (h : execPllLock t s = .next s') :
    RegsP (fun b => b ∈ ([2, 10] : List Nat)) s s' := by
  cases h
  exact main_blocks (RegsP.refl _ s) _ _ (fun _ hx => pllLock_blocks hx)

theorem execTimPllFail_blocks (t : Nat) (h : execTimPllFail t s = .next s') :
    RegsP (fun b => b ∈ ([10, 14] : List Nat)) s s' := by
  cases h
  exact main_blocks (RegsP.refl _ s) _ _ (fun _ hx => present_blocks hx _)

theorem execHoldExpired_blocks (t : Nat) (h : execHoldExpired t s = .next s') :
    RegsP (fun b => b ∈ ([2, 10, 14] : List Nat)) s s' := by
  cases h
  exact main_blocks (RegsP.refl _ s) _ _ (fun _ hx => holdExpire_blocks hx)

theorem execPpsInEdge_blocks (t : Nat) (falling : Bool) (h : execPpsInEdge t falling s = .next s') :
    RegsP (fun b => b ∈ ([2, 10] : List Nat)) s s' := by
  cases h
  exact main_blocks (RegsP.refl _ s) _ _ (fun _ hx => edgeStep_blocks hx _ (fun _ hy => ppsEdge_blocks hy _))

theorem execPpsLoss_blocks (t : Nat) (h : execPpsLoss t s = .next s') :
    RegsP (fun b => b ∈ ([2, 10, 14] : List Nat)) s s' := by
  cases h
  exact main_blocks (RegsP.refl _ s) _ _ (fun _ hx => ppsLost_blocks hx)

theorem execSyncInEdge_blocks (t : Nat) (falling : Bool) (h : execSyncInEdge t falling s = .next s') :
    RegsP (fun b => b ∈ ([2, 10] : List Nat)) s s' := by
  cases h
  exact main_blocks (RegsP.refl _ s) _ _ (fun _ hx => edgeStep_blocks hx _ (fun _ hy => syncEdge_blocks hy _))

theorem execSyncLoss_blocks (t : Nat) (h : execSyncLoss t s = .next s') :
    RegsP (fun b => b ∈ ([2, 10, 14] : List Nat)) s s' := by
  cases h
  exact main_blocks (RegsP.refl _ s) _ _ (fun _ hx => syncLost_blocks hx)

theorem execSyncOutPulse_blocks (t : Nat) (h : execSyncOutPulse t s = .next s') :
    RegsP (fun b => b ∈ ([10] : List Nat)) s s' := by
  cases h
  exact main_blocks (RegsP.refl _ s) _ _ (fun _ hx => syncOut_blocks hx)

theorem execLaunchInEdge_blocks (t : Nat) (h : execLaunchInEdge t s = .next s') :
    RegsP (fun b => b ∈ ([2, 3, 4, 5, 6, 7, 8, 9, 10, 11] : List Nat)) s s' := by
  cases h
  exact fabric_blocks (RegsP.refl _ s) _ _ (fun _ hx => launchIn_blocks hx)

theorem execLaunchLate_blocks (t : Nat) (n : Fin 4) (h : execLaunchLate t n s = .next s') :
    RegsP (fun b => b ∈ ([2, 10] : List Nat)) s s' := by
  cases h
  exact fabric_blocks (RegsP.refl _ s) _ _ (fun _ hx => launchLate_blocks hx _)

theorem execLaunch_blocks (t : Nat) (n : Fin 4) (h : execLaunch t n s = .next s') :
    RegsP (fun b => b ∈ ([2, 3, 4, 5, 6, 7, 8, 9, 10, 11, 12, 14] : List Nat)) s s' := by
  cases h
  exact fabric_blocks (RegsP.refl _ s) _ _ (fun _ hx => launch_blocks hx _)

theorem execSegmentEnd_blocks (t : Nat) (n : Fin 4) (h : execSegmentEnd t n s = .next s') :
    RegsP (fun b => b ∈ ([3, 10, 14] : List Nat)) s s' := by
  cases h
  exact fabric_blocks (RegsP.refl _ s) _ _ (fun _ hx => segmentEnd_blocks hx _)

theorem execGateWindowOpen_blocks (t : Nat) (n g : Fin 4) (h : execGateWindowOpen t n g s = .next s') :
    RegsP (fun b => b ∈ ([3, 10, 14] : List Nat)) s s' := by
  cases h
  exact fabric_blocks (RegsP.refl _ s) _ _ (fun _ hx => gateOpen_blocks hx _ _)

theorem execGateWindowClose_blocks (t : Nat) (n g : Fin 4) (h : execGateWindowClose t n g s = .next s') :
    RegsP (fun b => b ∈ ([3, 10, 14] : List Nat)) s s' := by
  cases h
  exact fabric_blocks (RegsP.refl _ s) _ _ (fun _ hx => gateClose_blocks hx _ _)

theorem execEnvExceed_blocks (t : Nat) (n : Fin 4) (h : execEnvExceed t n s = .next s') :
    RegsP (fun b => b ∈ ([2, 3, 4, 5, 6, 7, 8, 9, 10, 11, 14] : List Nat)) s s' := by
  cases h
  exact fabric_blocks (RegsP.refl _ s) _ _ (fun _ hx => envExceed_blocks hx _)

theorem execDutyWindowEnd_blocks (t : Nat) (n : Fin 4) (h : execDutyWindowEnd t n s = .next s') :
    RegsP (fun b => b ∈ ([3, 10, 14] : List Nat)) s s' := by
  cases h
  exact fabric_blocks (RegsP.refl _ s) _ _ (fun _ hx => lncSync_blocks hx _)

theorem execArmSelftestDone_blocks (t : Nat) (n : Fin 4) (pass : Bool) (h : execArmSelftestDone t n pass s = .next s') :
    RegsP (fun b => b ∈ ([3, 10, 11, 14] : List Nat)) s s' := by
  cases h
  exact fabric_blocks (RegsP.refl _ s) _ _ (fun _ hx => selfTest_blocks hx _ _)

theorem execArmedEntry_blocks (t : Nat) (n : Fin 4) (h : execArmedEntry t n s = .next s') :
    RegsP (fun b => b ∈ ([3, 5, 6, 7, 10, 11] : List Nat)) s s' := by
  cases h
  exact fabric_blocks (RegsP.refl _ s) _ _ (fun _ hx => armedEntry_blocks hx _)

theorem execDisarmTakeEffect_blocks (t : Nat) (n : Fin 4) (hm : (s.at t).mode ≠ 0)
    (h : execDisarmTakeEffect t n s = .next s') :
    RegsP (fun b => b ∈ ([2, 3, 4, 5, 6, 7, 8, 9, 10, 11, 14] : List Nat)) s s' := by
  rw [execDisarmTakeEffect_up _ _ hm] at h
  cases h
  exact fabric_blocks (RegsP.refl _ s) _ _ (fun _ hx => disarmEffect_blocks hx _)

theorem execSafeNFall_blocks (t : Nat) (h : execSafeNFall t s = .next s') :
    RegsP (fun b => b ∈ ([2, 3, 4, 5, 6, 7, 8, 9, 10, 11, 14] : List Nat)) s s' := by
  cases h
  exact ite_blocks (safeLow_blocks (at_blocks (RegsP.refl _ s) _)) (Regs_mk (at_blocks (RegsP.refl _ s) _))

theorem execSafeNRise_blocks (t : Nat) (h : execSafeNRise t s = .next s') :
    RegsP (fun b => b ∈ ([10] : List Nat)) s s' := by
  cases h
  exact Regs_mk (at_blocks (RegsP.refl _ s) _)

theorem execLaunchOutRise_blocks (t : Nat) (n : Fin 4) (h : execLaunchOutRise t n s = .next s') :
    RegsP (fun b => b ∈ ([10] : List Nat)) s s' := by
  cases h
  exact fabric_blocks (RegsP.refl _ s) _ _ (fun _ hx => launchOutRise_blocks hx _)

theorem execAcqCalPhaseEnd_blocks (t : Nat) (coherent : Bool) (h : execAcqCalPhaseEnd t coherent s = .next s') :
    RegsP (fun b => b ∈ ([4, 10] : List Nat)) s s' := by
  cases h
  exact fabric_blocks (RegsP.refl _ s) _ _ (fun _ hx => calPhaseEnd_blocks hx _)

theorem execAcqCalDone_blocks (t : Nat) (r : AcqMeas) (h : execAcqCalDone t r s = .next s') :
    RegsP (fun b => b ∈ ([4, 10, 11] : List Nat)) s s' := by
  cases h
  exact fabric_blocks (RegsP.refl _ s) _ _ (fun _ hx => calDone_blocks hx _)

theorem execBgCalBlockEnd_blocks (t : Nat) (c : Fin 16) (raw : List Int) (h : execBgCalBlockEnd t c raw s = .next s') :
    RegsP (fun b => b ∈ ([4, 10, 14] : List Nat)) s s' := by
  cases h
  exact fabric_blocks (RegsP.refl _ s) _ _ (fun _ hx => bgBlock_blocks hx _ _)

theorem execIqBlindBlockEnd_blocks (t : Nat) (p : Fin 8) (i q x : Int)
    (h : execIqBlindBlockEnd t p i q x s = .next s') :
    RegsP (fun b => b ∈ ([4, 10] : List Nat)) s s' := by
  cases h
  exact fabric_blocks (RegsP.refl _ s) _ _ (fun _ hx => by split; exacts [blindBlock_blocks hx _, hx])

theorem execDarkBlockEnd_blocks (t : Nat) (i : Fin 8) (raw : List Int) (h : execDarkBlockEnd t i raw s = .next s') :
    RegsP (fun b => b ∈ ([4, 10, 14] : List Nat)) s s' := by
  cases h
  exact fabric_blocks (RegsP.refl _ s) _ _ (fun _ hx => darkBlock_blocks hx _ _)

theorem execAcqChFail_blocks (t : Nat) (ch : Fin 24) (since : Nat) (h : execAcqChFail t ch since s = .next s') :
    RegsP (fun b => b ∈ ([4, 10, 14] : List Nat)) s s' := by
  cases h
  exact fabric_blocks (RegsP.refl _ s) _ _ (fun _ hx => chanFail_blocks hx _ _)

theorem execShotProcessed_blocks (t : Nat) (n : Fin 4) (raw : List Raw4) (errs : List MemErr)
    (h : execShotProcessed t n raw errs s = .next s') :
    RegsP (fun b => b ∈ ([4, 5, 6, 7, 8, 9, 10, 14, 15, 16] : List Nat)) s s' := by
  cases h
  exact fabric_blocks (RegsP.refl _ s) _ _ (fun _ hx => shotProcess_blocks (shotErrs_blocks hx _ _) _ _)

theorem execAcfOutput_blocks (t : Nat) (n : Fin 4) (h : execAcfOutput t n s = .next s') :
    RegsP (fun b => b ∈ ([6, 8, 9, 10, 14, 15] : List Nat)) s s' := by
  cases h
  exact fabric_blocks (RegsP.refl _ s) _ _ (fun _ hx => acfOutput_blocks hx _)

theorem execRamanShotAccumulate_blocks (t : Nat) (n : Fin 4) (stokes anti : List Int)
    (h : execRamanShotAccumulate t n stokes anti s = .next s') :
    RegsP (fun b => b ∈ ([4, 7, 10, 14] : List Nat)) s s' := by
  cases h
  exact fabric_blocks (RegsP.refl _ s) _ _ (fun _ hx => ramanTake_blocks hx _ _ _)

theorem execAccumulationEnd_blocks (t : Nat) (n : Fin 4) (h : execAccumulationEnd t n s = .next s') :
    RegsP (fun b => b ∈ ([10] : List Nat)) s s' := by
  cases h
  exact fabric_blocks (RegsP.refl _ s) _ _ (fun _ hx => dtsSwap_blocks hx _)

theorem execDtsEndComputation_blocks (t : Nat) (n : Fin 4) (h : execDtsEndComputation t n s = .next s') :
    RegsP (fun b => b ∈ ([7, 10, 14] : List Nat)) s s' := by
  cases h
  exact fabric_blocks (RegsP.refl _ s) _ _ (fun _ hx => dtsEnd_blocks hx _)

theorem execEnergyIntervalEnd_blocks (t : Nat) (n : Fin 4) (h : execEnergyIntervalEnd t n s = .next s') :
    RegsP (fun b => b ∈ ([1, 2, 3, 4, 5, 6, 7, 8, 9, 10, 11, 12, 14, 17] : List Nat)) s s' := by
  cases h
  exact fabric_blocks (RegsP.refl _ s) _ _ (fun _ hx => energyEnd_blocks hx _)

theorem execEncoderEdge_blocks (t : Nat) (i : Fin 2) (qa qb : Bool) (h : execEncoderEdge t i qa qb s = .next s') :
    RegsP (fun b => b ∈ ([9, 10, 12, 14] : List Nat)) s s' := by
  cases h
  exact main_blocks (RegsP.refl _ s) _ _ (fun _ hx => encoderEdge_blocks hx _ _ _)

theorem execCmpPulseEnd_blocks (t : Nat) (pin : Fin 12) (h : execCmpPulseEnd t pin s = .next s') :
    RegsP (fun b => b ∈ ([10] : List Nat)) s s' := by
  cases h
  exact main_blocks (RegsP.refl _ s) _ _ (fun _ hx => cmpPulseEnd_blocks hx _)

theorem execIndexPulse_blocks (t : Nat) (i : Fin 2) (level : Bool) (h : execIndexPulse t i level s = .next s') :
    RegsP (fun b => b ∈ ([9, 10] : List Nat)) s s' := by
  cases h
  exact main_blocks (RegsP.refl _ s) _ _ (fun _ hx => indexPulse_blocks hx _ _)

theorem execEncoderStall_blocks (t : Nat) (i : Fin 2) (h : execEncoderStall t i s = .next s') :
    RegsP (fun b => b ∈ ([9, 10] : List Nat)) s s' := by
  cases h
  exact main_blocks (RegsP.refl _ s) _ _ (fun _ hx => encoderStall_blocks hx _)

theorem execCountHistoryRecord_blocks (t : Nat) (i : Fin 2) (h : execCountHistoryRecord t i s = .next s') :
    RegsP (fun b => b ∈ ([10] : List Nat)) s s' := by
  cases h
  exact main_blocks (RegsP.refl _ s) _ _ (fun _ hx => historyRecord_blocks hx _)

theorem execMsEdge_blocks (t : Nat) (m : Fin 8) (falling : Bool) (stamp : Nat)
    (h : execMsEdge t m falling stamp s = .next s') :
    RegsP (fun b => b ∈ ([9, 10] : List Nat)) s s' := by
  cases h
  exact main_blocks (RegsP.refl _ s) _ _ (fun _ hx => msEdge_blocks hx _ _ _)

theorem execSsiFrameStart_blocks (t : Nat) (p : Fin 2) (datLow : Bool) (h : execSsiFrameStart t p datLow s = .next s') :
    RegsP (fun b => b ∈ ([9, 10] : List Nat)) s s' := by
  cases h
  exact main_blocks (RegsP.refl _ s) _ _ (fun _ hx => ssiStart_blocks hx _ _)

theorem execSsiFrameEnd_blocks (t : Nat) (p : Fin 2) (bits : BitVec 32) (e : SsiEnd)
    (h : execSsiFrameEnd t p bits e s = .next s') :
    RegsP (fun b => b ∈ ([9, 10] : List Nat)) s s' := by
  cases h
  exact main_blocks (RegsP.refl _ s) _ _ (fun _ hx => ssiEnd_blocks hx _ _ _ _)

theorem execEncTargetUpdate_blocks (t : Nat) (m : Fin 4) (h : execEncTargetUpdate t m s = .next s') :
    RegsP (fun b => b ∈ ([9, 10] : List Nat)) s s' := by
  cases h
  exact main_blocks (RegsP.refl _ s) _ _ (fun _ hx => encUpdate_blocks hx _)

theorem execEncStep_blocks (t : Nat) (m : Fin 4) (h : execEncStep t m s = .next s') :
    RegsP (fun b => b ∈ ([9, 10] : List Nat)) s s' := by
  cases h
  exact main_blocks (RegsP.refl _ s) _ _ (fun _ hx => encStep_blocks hx _)

theorem execFrameWorkDone_blocks (t : Nat) (n : Fin 4) (h : execFrameWorkDone t n s = .next s') :
    RegsP (fun b => b ∈ ([8, 9, 10, 14] : List Nat)) s s' := by
  cases h
  exact fabric_blocks (RegsP.refl _ s) _ _ (fun _ hx => frameDone_blocks hx _)

theorem execDivert_blocks (t : Nat) (n : Fin 4) (h : execDivert t n s = .next s') :
    RegsP (fun b => b ∈ ([8, 10, 11] : List Nat)) s s' := by
  cases h
  exact fabric_blocks (RegsP.refl _ s) _ _ (fun _ hx => divertHead_blocks hx _)

theorem execCommitLock_blocks (t : Nat) (g : Fin 8) (h : execCommitLock t g s = .next s') :
    RegsP (fun b => b ∈ ([2, 3, 4, 5, 6, 7, 8, 10, 11] : List Nat)) s s' := by
  cases h
  exact fabric_blocks (RegsP.refl _ s) _ _ (fun _ hx => commitLock_blocks hx _)

theorem execCommitApply_blocks (t : Nat) (g : Fin 8) (h : execCommitApply t g s = .next s') :
    RegsP (fun b => b ∈ ([2, 3, 4, 5, 6, 7, 8, 9, 10, 11, 12] : List Nat)) s s' := by
  cases h
  exact fabric_blocks (RegsP.refl _ s) _ _ (fun _ hx => commitApply_blocks hx _)

theorem execFrameDeliver_blocks (t : Nat) (stream : Fin 18) (h : execFrameDeliver t stream s = .next s') :
    RegsP (fun b => b ∈ ([8, 10, 11] : List Nat)) s s' := by
  cases h
  exact fabric_blocks (RegsP.refl _ s) _ _ (fun _ hx => frameDeliver_blocks hx _)

theorem execFrameRelease_blocks (t : Nat) (stream : Fin 18) (h : execFrameRelease t stream s = .next s') :
    RegsP (fun b => b ∈ ([10, 11] : List Nat)) s s' := by
  cases h
  exact fabric_blocks (RegsP.refl _ s) _ _ (fun _ hx => frameReleased_blocks hx _)

theorem execDrainFrame_blocks (t : Nat) (errs : List MemErr) (h : execDrainFrame t errs s = .next s') :
    RegsP (fun b => b ∈ ([10, 11, 14, 15, 16] : List Nat)) s s' := by
  cases h
  exact fabric_blocks (RegsP.refl _ s) _ _ (fun _ hx => drainRead_blocks hx _)

theorem execCoalesceTimeout_blocks (t : Nat) (k : Fin 16) (h : execCoalesceTimeout t k s = .next s') :
    RegsP (fun b => b ∈ ([10] : List Nat)) s s' := by
  cases h
  exact fabric_blocks (RegsP.refl _ s) _ _ (fun _ hx => coalesceEnd_blocks hx _)

theorem execFetchError_blocks (t : Nat) (kind : RingKind) (k : Nat) (h : execFetchError t kind k s = .next s') :
    RegsP (fun b => b ∈ ([10, 11, 14] : List Nat)) s s' := by
  cases h
  exact fabric_blocks (RegsP.refl _ s) _ _ (fun _ hx => ringFail_blocks hx _ _)

theorem execLinkDown_blocks (t : Nat) (h : execLinkDown t s = .next s') :
    RegsP (fun b => b ∈ ([8, 10, 11] : List Nat)) s s' := by
  cases h
  exact main_blocks (RegsP.refl _ s) _ _ (fun _ hx => detached_blocks (linkLost_blocks hx) _)

theorem execLinkUp_blocks (t : Nat) (speed width : Nat) (h : execLinkUp t speed width s = .next s') :
    RegsP (fun b => b ∈ ([10, 11] : List Nat)) s s' := by
  cases h
  exact main_blocks (RegsP.refl _ s) _ _ (fun _ hx => ite_blocks hx (linkUp_blocks hx _ _))

theorem execLoadScheduleDone_blocks (t : Nat) (h : execLoadScheduleDone t s = .next s') :
    RegsP (fun b => b ∈ ([10, 11] : List Nat)) s s' := by
  cases h
  exact main_blocks (RegsP.refl _ s) _ _ (fun _ hx => loadDone_blocks hx)

theorem execPmcTrigger_blocks (t : Nat) (trig : PmcTrig) (h : execPmcTrigger t trig s = .next s') :
    RegsP (fun b => b ∈ ([10, 12] : List Nat)) s s' := by
  cases h
  exact main_blocks (RegsP.refl _ s) _ _ (fun _ hx => pmcTrigger_blocks hx _)

theorem execPmcResult_blocks (t : Nat) (outs : List FiltOut) (h : execPmcResult t outs s = .next s') :
    RegsP (fun b => b ∈ ([10, 12] : List Nat)) s s' := by
  cases h
  exact main_blocks (RegsP.refl _ s) _ _ (fun _ hx => pmcResult_blocks hx _)

theorem execPmcInjHwTrigger_blocks (t : Nat) (j : Fin 4) (src : Nat) (h : execPmcInjHwTrigger t j src s = .next s') :
    RegsP (fun b => b ∈ ([10, 12] : List Nat)) s s' := by
  cases h
  exact main_blocks (RegsP.refl _ s) _ _ (fun _ hx => injHw_blocks hx _ _)

theorem execPmcInjResult_blocks (t : Nat) (outs : List FiltOut) (h : execPmcInjResult t outs s = .next s') :
    RegsP (fun b => b ∈ ([10, 12] : List Nat)) s s' := by
  cases h
  exact main_blocks (RegsP.refl _ s) _ _ (fun _ hx => injResult_blocks hx _)

theorem execPmcCalDone_blocks (t : Nat) (r : List PgaMeas) (nvOk : Bool) (h : execPmcCalDone t r nvOk s = .next s') :
    RegsP (fun b => b ∈ ([10, 11, 12] : List Nat)) s s' := by
  cases h
  exact main_blocks (RegsP.refl _ s) _ _ (fun _ hx => pmcCalDone_blocks hx _ _)

theorem execRefFail_blocks (t : Nat) (outside : Bool) (h : execRefFail t outside s = .next s') :
    RegsP (fun b => b ∈ ([10, 12, 14] : List Nat)) s s' := by
  cases h
  exact main_blocks (RegsP.refl _ s) _ _ (fun _ hx => refMove_blocks hx _)

theorem execDieTempUpdate_blocks (t : Nat) (temp : Int) (h : execDieTempUpdate t temp s = .next s') :
    RegsP (fun b => b ∈ ([10, 12, 14, 15] : List Nat)) s s' := by
  cases h
  exact main_blocks (RegsP.refl _ s) _ _ (fun _ hx => dieTemp_blocks hx _)

theorem execWeirCrossing_blocks (t : Nat) (m : Fin 16) (uV : Int) (h : execWeirCrossing t m uV s = .next s') :
    RegsP (fun b => b ∈ ([2, 3, 4, 5, 6, 7, 8, 9, 10, 11, 12, 13, 14] : List Nat)) s s' := by
  cases h
  exact ite_blocks (weirCross_blocks (at_blocks (RegsP.refl _ s) _) _ _) (modW_blocks (at_blocks (RegsP.refl _ s) _) _ _)

theorem execWeirAutoClear_blocks (t : Nat) (m : Fin 16) (h : execWeirAutoClear t m s = .next s') :
    RegsP (fun b => b ∈ ([10, 13] : List Nat)) s s' := by
  cases h
  exact main_blocks (RegsP.refl _ s) _ _ (fun _ hx => weirAuto_blocks hx _ _)

theorem execWeirSettleEnd_blocks (t : Nat) (_m : Fin 16) (h : execWeirSettleEnd t _m s = .next s') :
    RegsP (fun b => b ∈ ([10] : List Nat)) s s' := by
  cases h
  exact main_blocks (RegsP.refl _ s) _ _ (fun _ hx => hx)

theorem execResolved_blocks (t : Nat) (m : Fin 16) (uV : Int) (h : execResolved t m uV s = .next s') :
    RegsP (fun b => b ∈ ([2, 3, 4, 5, 6, 7, 8, 9, 10, 11, 12, 13, 14] : List Nat)) s s' := by
  cases h
  exact main_blocks (RegsP.refl _ s) _ _ (fun _ hx => weirResolved_blocks hx _ _)

theorem execRbCheck_blocks (t : Nat) (m : Fin 16) (upper : Bool) (h : execRbCheck t m upper s = .next s') :
    RegsP (fun b => b ∈ ([10, 13, 14] : List Nat)) s s' := by
  cases h
  exact main_blocks (RegsP.refl _ s) _ _ (fun _ hx => rbCheck_blocks hx _ _)

theorem execRbStale_blocks (t : Nat) (m : Fin 16) (upper : Bool) (h : execRbStale t m upper s = .next s') :
    RegsP (fun b => b ∈ ([10, 13, 14] : List Nat)) s s' := by
  cases h
  exact main_blocks (RegsP.refl _ s) _ _ (fun _ hx => rbStale_blocks hx _ _)

theorem execVddA18Return_blocks (t : Nat) (h : execVddA18Return t s = .next s') :
    RegsP (fun b => b ∈ ([2, 3, 4, 5, 6, 7, 8, 9, 10, 11, 13, 14] : List Nat)) s s' := by
  cases h
  exact main_blocks (RegsP.refl _ s) _ _ (fun _ hx => vddA18_blocks hx)

theorem execWeirGateOpen_blocks (t : Nat) (m : Fin 16) (h : execWeirGateOpen t m s = .next s') :
    RegsP (fun b => b ∈ ([2, 3, 4, 5, 6, 7, 8, 9, 10, 11, 12, 13, 14] : List Nat)) s s' := by
  cases h
  exact main_blocks (RegsP.refl _ s) _ _ (fun _ hx => weirGateOpen_blocks hx _ _)

theorem execFaultCapture_blocks (t : Nat) (src : Fin 128) (h : execFaultCapture t src s = .next s') :
    RegsP (fun b => b ∈ ([1, 2, 3, 4, 5, 6, 7, 8, 9, 10, 11, 12, 14, 15] : List Nat)) s s' := by
  cases h
  exact ite_blocks (aonLatch_blocks (at_blocks (RegsP.refl _ s) _))
      (main_blocks (RegsP.refl _ s) _ _ (fun _ hx => faultCapture_blocks (ite_blocks (lncSync_blocks hx _) hx) _))

theorem execWireFault_blocks (t : Nat) (src : Fin 128) (h : execWireFault t src s = .next s') :
    RegsP (fun b => b ∈ ([1, 2, 3, 4, 5, 6, 7, 8, 9, 10, 11, 12, 14, 15] : List Nat)) s s' := by
  cases h
  exact main_blocks (RegsP.refl _ s) _ _ (fun _ hx => wireCapture_blocks hx _)

theorem execWindowClose_blocks (t : Nat) (h : execWindowClose t s = .next s') :
    RegsP (fun b => b ∈ ([1, 2, 3, 4, 5, 6, 7, 8, 9, 10, 11, 12, 14, 17] : List Nat)) s s' := by
  cases h
  exact main_blocks (RegsP.refl _ s) _ _ (fun _ hx => windowClose_blocks hx)

theorem execInjectionWindowEnd_blocks (t : Nat) (realError : Bool) (h : execInjectionWindowEnd t realError s = .next s') :
    RegsP (fun b => b ∈ ([10, 11, 14] : List Nat)) s s' := by
  cases h
  exact main_blocks (RegsP.refl _ s) _ _ (fun _ hx => injEnd_blocks hx _)

theorem execFltSelftest_blocks (t : Nat) (pass : Bool) (h : execFltSelftest t pass s = .next s') :
    RegsP (fun b => b ∈ ([10, 14] : List Nat)) s s' := by
  cases h
  exact main_blocks (RegsP.refl _ s) _ _ (fun _ hx => ite_blocks hx (present_blocks hx _))

theorem execPolWdt_blocks (t : Nat) (h : execPolWdt t s = .next s') :
    RegsP (fun b => b ∈ ([10, 14] : List Nat)) s s' := by
  cases h
  exact main_blocks (RegsP.refl _ s) _ _ (fun _ hx => present_blocks hx _)

theorem execAppWdt_blocks (t : Nat) (h : execAppWdt t s = .next s') :
    RegsP (fun b => b ∈ ([10, 14] : List Nat)) s s' := by
  cases h
  exact main_blocks (RegsP.refl _ s) _ _ (fun _ hx => present_blocks hx _)

theorem execSourceCleared_blocks (t : Nat) (src : Fin 128) (h : execSourceCleared t src s = .next s') :
    RegsP (fun b => b ∈ ([10] : List Nat)) s s' := by
  cases h
  exact main_blocks (RegsP.refl _ s) _ _ (fun _ hx => srcCleared_blocks hx _)

theorem execAppCoresReleased_blocks (t : Nat) (h : execAppCoresReleased t s = .next s') :
    RegsP (fun b => b ∈ ([10, 11] : List Nat)) s s' := by
  cases h
  exact main_blocks (RegsP.refl _ s) _ _ (fun _ hx => appReleased_blocks hx)

theorem execRefreshTick_blocks (t : Nat) (c : Fin 4) (h : execRefreshTick t c s = .next s') :
    RegsP (fun b => b ∈ ([10, 14, 15] : List Nat)) s s' := by
  cases h
  exact main_blocks (RegsP.refl _ s) _ _ (fun _ hx => refreshTick_blocks hx _)

theorem execRefreshWindow_blocks (t : Nat) (c : Fin 4) (h : execRefreshWindow t c s = .next s') :
    RegsP (fun b => b ∈ ([10, 15] : List Nat)) s s' := by
  cases h
  exact main_blocks (RegsP.refl _ s) _ _ (fun _ hx => refreshWindow_blocks hx _)

theorem execMr4Poll_blocks (t : Nat) (c : Fin 4) (field : BitVec 5) (h : execMr4Poll t c field s = .next s') :
    RegsP (fun b => b ∈ ([10, 15] : List Nat)) s s' := by
  cases h
  exact main_blocks (RegsP.refl _ s) _ _ (fun _ hx => mr4Poll_blocks hx _ _)

theorem execSrEnter_blocks (t : Nat) (c : Fin 4) (h : execSrEnter t c s = .next s') :
    RegsP (fun b => b ∈ ([10, 15] : List Nat)) s s' := by
  cases h
  exact main_blocks (RegsP.refl _ s) _ _ (fun _ hx => srEnter_blocks hx _)

theorem execSrExit_blocks (t : Nat) (c : Fin 4) (beforeSre : Bool) (issued : Nat)
    (h : execSrExit t c beforeSre issued s = .next s') :
    RegsP (fun b => b ∈ ([10, 15] : List Nat)) s s' := by
  cases h
  exact main_blocks (RegsP.refl _ s) _ _ (fun _ hx => srExit_blocks hx _ _ _)

theorem execEyeMonitorRound_blocks (t : Nat) (c : Fin 4) (pass : Bool) (h : execEyeMonitorRound t c pass s = .next s') :
    RegsP (fun b => b ∈ ([10, 14, 15] : List Nat)) s s' := by
  cases h
  exact main_blocks (RegsP.refl _ s) _ _ (fun _ hx => eyeRound_blocks hx _ _)

theorem execScrubPass_blocks (t : Nat) (errs : List MemErr) (h : execScrubPass t errs s = .next s') :
    RegsP (fun b => b ∈ ([7, 10, 14, 15, 16] : List Nat)) s s' := by
  cases h
  exact main_blocks (RegsP.refl _ s) _ _ (fun _ hx => scrubPass_blocks hx _)

theorem execBermInitDone_blocks (t : Nat) (h : execBermInitDone t s = .next s') :
    RegsP (fun b => b ∈ ([10, 16] : List Nat)) s s' := by
  cases h
  exact main_blocks (RegsP.refl _ s) _ _ (fun _ hx => bermInit_blocks hx)

theorem execMemInitDone_blocks (t : Nat) (h : execMemInitDone t s = .next s') :
    RegsP (fun b => b ∈ ([10, 15] : List Nat)) s s' := by
  cases h
  exact main_blocks (RegsP.refl _ s) _ _ (fun _ hx => memInitEnd_blocks hx)

theorem execTestRunDone_blocks (t : Nat) (fail : BitVec 26) (h : execTestRunDone t fail s = .next s') :
    RegsP (fun b => b ∈ ([10, 15] : List Nat)) s s' := by
  cases h
  exact main_blocks (RegsP.refl _ s) _ _ (fun _ hx => testEnd_blocks hx _)

theorem execHistDone_blocks (t : Nat) (h : execHistDone t s = .next s') :
    RegsP (fun b => b ∈ ([10, 15] : List Nat)) s s' := by
  cases h
  exact main_blocks (RegsP.refl _ s) _ _ (fun _ hx => dumpEnd_blocks hx)

theorem execLadderEntry_blocks (t : Nat) (hm : (s.at t).mode ≠ 0)
    (h : execLadderEntry t s = .next s') :
    RegsP (fun b => b ∈ ([1, 2, 7, 10, 15, 16] : List Nat)) s s' := by
  rw [execLadderEntry_up _ hm] at h
  cases h
  exact main_blocks (RegsP.refl _ s) _ _ (fun _ hx => ladderSink_blocks hx)

theorem execLadderExit_blocks (t : Nat) (h : execLadderExit t s = .next s') :
    RegsP (fun b => b ∈ ([1, 2, 10, 15] : List Nat)) s s' := by
  cases h
  exact main_blocks (RegsP.refl _ s) _ _ (fun _ hx => ladderLeave_blocks hx)

theorem execBarAccessWake_blocks (t : Nat) (h : execBarAccessWake t s = .next s') :
    RegsP (fun b => b ∈ ([1, 2, 10, 15] : List Nat)) s s' := by
  cases h
  exact main_blocks (RegsP.refl _ s) _ _ (fun _ hx => accessWake_blocks hx)

theorem execWakeN_blocks (t : Nat) (h : execWakeN t s = .next s') :
    RegsP (fun b => b ∈ ([0, 1, 2, 10, 15] : List Nat)) s s' := by
  cases h
  exact wake_blocks (at_blocks (RegsP.refl _ s) _) _ _ _

theorem execRtcAlarm_blocks (t : Nat) (h : execRtcAlarm t s = .next s') :
    RegsP (fun b => b ∈ ([0, 1, 2, 10, 15] : List Nat)) s s' := by
  cases h
  exact rtcWake_blocks (at_blocks (RegsP.refl _ s) _)

theorem execPowerSequenceStep_blocks (t : Nat) (railsGood : Bool) (h : execPowerSequenceStep t railsGood s = .next s') :
    RegsP (fun b => b ∈ ([2, 3, 4, 5, 6, 7, 8, 9, 10, 11, 14] : List Nat)) s s' := by
  cases h
  exact powerStep_blocks (at_blocks (RegsP.refl _ s) _) _

theorem execPorstNRelease_blocks (t : Nat) (h : execPorstNRelease t s = .next s') :
    RegsP (fun b => b ∈ ([2, 3, 4, 5, 6, 7, 8, 9, 10, 11, 14] : List Nat)) s s' := by
  cases h
  exact porstHigh_blocks (at_blocks (RegsP.refl _ s) _)

theorem execPwrUvRail_blocks (t : Nat) (rail : RailDip) (h : execPwrUvRail t rail s = .next s') :
    RegsP (fun b => b ∈ ([10, 14] : List Nat)) s s' := by
  cases h
  exact railDip_blocks (at_blocks (RegsP.refl _ s) t) _

theorem execPerstNRelease_blocks (t : Nat) (h : execPerstNRelease t s = .next s') :
    RegsP (fun b => b ∈ ([0, 1, 2, 10, 15] : List Nat)) s s' := by
  cases h
  exact wake_blocks (perstPin_blocks (at_blocks (RegsP.refl _ s) _) _) _ _ _

theorem execPcieReceiverDetected_blocks (t : Nat) (h : execPcieReceiverDetected t s = .next s') :
    RegsP (fun b => b ∈ ([0, 1, 2, 10, 15] : List Nat)) s s' := by
  cases h
  exact wake_blocks (at_blocks (RegsP.refl _ s) _) _ _ _

theorem execNvWriteDone_blocks (t : Nat) (verifyOk : Bool) (h : execNvWriteDone t verifyOk s = .next s') :
    RegsP (fun b => b ∈ ([10, 11, 17] : List Nat)) s s' := by
  cases h
  exact main_blocks (RegsP.refl _ s) _ _ (fun _ hx => nvDone_blocks hx _)

end Sys2Proof.Machine
end

