-- ==== Sys2Proof/Laws/Effect.lean ====
section
/-! SUPPORT. What the shared operations leave readable: an event bit, a fault source, a completion, and a field that none of
them touches. These are the lemmas the statements about single commands are proved with. -/

namespace Sys2Proof.Machine

-- One proof at a time: in parallel the package as one text would need too many threads.
set_option Elab.async false

variable {s t : State}

/-- A field whose block an operation does not write. -/
theorem get_of_regs {B : Nat → Prop} {base : State} (h : RegsP B base t) (f : FRef) (hf : ¬ B (f.off / 65536)) :
    t.get f = base.get f := by
  rw [get_eq, get_eq, h _ hf]

theorem msix_reg (s : State) (v o : Nat) : (s.msix v).reg o = s.reg o := by
  unfold State.msix; split <;> rfl

/-- An event changes one bit of its EVENTS register. -/
theorem ev_reg_ne (s : State) (f : FRef) (o : Nat) (h : o ≠ f.off) : (s.ev f).reg o = s.reg o := by
  unfold State.ev
  dsimp only
  split
  · rfl
  · split
    · rw [msix_reg]; exact reg_setReg_ne _ _ _ _ h
    · exact reg_setReg_ne _ _ _ _ h

theorem ev_get_ne (s : State) (f g : FRef) (h : g.off ≠ f.off) : (s.ev f).get g = s.get g := by
  rw [get_eq, get_eq, ev_reg_ne _ _ _ h]

theorem ev_get_other (s : State) (f g : FRef) (h : f.lo + f.w ≤ 32)
    (d : g.off ≠ f.off ∨ f.lo + f.w ≤ g.lo ∨ g.lo + g.w ≤ f.lo) : (s.ev f).get g = s.get g := by
  unfold State.ev
  dsimp only
  split
  · rfl
  · split
    · rw [get_eq, msix_reg, ← get_eq]; exact get_set_other s f g 1 h d
    · exact get_set_other s f g 1 h d

theorem note_get (s : State) (o m : Nat) (f : FRef) : (s.note o m).get f = s.get f := rfl

/-- The event bit is set. -/
theorem ev_get_same (s : State) (f : FRef) (h : f.lo + f.w ≤ 32) (hw : f.w = 1) : (s.ev f).get f = 1 := by
  have h1 : (s.set1 f).get f = 1 := by
    unfold State.set1
    rw [get_set_same _ f 1 h, hw]; rfl
  unfold State.ev
  dsimp only
  split
  · rename_i h0
    rw [note_get]
    simpa [State.on] using h0
  · split
    · rw [get_eq, msix_reg, ← get_eq]; exact h1
    · exact h1

theorem ev_hif_rest (s : State) (f : FRef) : ∃ p a l, (s.ev f).hif = { s.hif with pba := p, freshAt := a, fresh := l } := by
  unfold State.ev State.msix State.set1
  dsimp only
  repeat' split
  all_goals exact ⟨_, _, _, rfl⟩

theorem ev_rings (s : State) (f : FRef) : (s.ev f).hif.rings = s.hif.rings := by
  obtain ⟨p, a, l, h⟩ := ev_hif_rest s f; rw [h]

/-! ### Components -/

@[simp] theorem ev_tables (f : FRef) : (s.ev f).tables = s.tables :=
  (ev_only (OnlyP.refl _ s) f : OnlyP (fun c => c ∈ ([.regs, .outbox, .hif] : List Comp)) s _) .tables (by decide)
@[simp] theorem ev_freeIdx (f : FRef) : (s.ev f).freeIdx = s.freeIdx :=
  (ev_only (OnlyP.refl _ s) f : OnlyP (fun c => c ∈ ([.regs, .outbox, .hif] : List Comp)) s _) .freeIdx (by decide)
@[simp] theorem ev_safeN (f : FRef) : (s.ev f).safeN = s.safeN :=
  (ev_only (OnlyP.refl _ s) f : OnlyP (fun c => c ∈ ([.regs, .outbox, .hif] : List Comp)) s _) .safeN (by decide)
@[simp] theorem ev_snaps (f : FRef) : (s.ev f).snaps = s.snaps :=
  (ev_only (OnlyP.refl _ s) f : OnlyP (fun c => c ∈ ([.regs, .outbox, .hif] : List Comp)) s _) .snaps (by decide)
@[simp] theorem ev_spill (f : FRef) : (s.ev f).spill = s.spill :=
  (ev_only (OnlyP.refl _ s) f : OnlyP (fun c => c ∈ ([.regs, .outbox, .hif] : List Comp)) s _) .spill (by decide)
@[simp] theorem ev_tim (f : FRef) : (s.ev f).tim = s.tim :=
  (ev_only (OnlyP.refl _ s) f : OnlyP (fun c => c ∈ ([.regs, .outbox, .hif] : List Comp)) s _) .tim (by decide)
@[simp] theorem ev_fe (f : FRef) : (s.ev f).fe = s.fe :=
  (ev_only (OnlyP.refl _ s) f : OnlyP (fun c => c ∈ ([.regs, .outbox, .hif] : List Comp)) s _) .fe (by decide)
@[simp] theorem ev_acq (f : FRef) : (s.ev f).acq = s.acq :=
  (ev_only (OnlyP.refl _ s) f : OnlyP (fun c => c ∈ ([.regs, .outbox, .hif] : List Comp)) s _) .acq (by decide)
@[simp] theorem ev_trk (f : FRef) : (s.ev f).trk = s.trk :=
  (ev_only (OnlyP.refl _ s) f : OnlyP (fun c => c ∈ ([.regs, .outbox, .hif] : List Comp)) s _) .trk (by decide)
@[simp] theorem ev_sch (f : FRef) : (s.ev f).sch = s.sch :=
  (ev_only (OnlyP.refl _ s) f : OnlyP (fun c => c ∈ ([.regs, .outbox, .hif] : List Comp)) s _) .sch (by decide)
@[simp] theorem ev_pmc (f : FRef) : (s.ev f).pmc = s.pmc :=
  (ev_only (OnlyP.refl _ s) f : OnlyP (fun c => c ∈ ([.regs, .outbox, .hif] : List Comp)) s _) .pmc (by decide)
@[simp] theorem ev_wmn (f : FRef) : (s.ev f).wmn = s.wmn :=
  (ev_only (OnlyP.refl _ s) f : OnlyP (fun c => c ∈ ([.regs, .outbox, .hif] : List Comp)) s _) .wmn (by decide)
@[simp] theorem ev_flt (f : FRef) : (s.ev f).flt = s.flt :=
  (ev_only (OnlyP.refl _ s) f : OnlyP (fun c => c ∈ ([.regs, .outbox, .hif] : List Comp)) s _) .flt (by decide)
@[simp] theorem ev_mem (f : FRef) : (s.ev f).mem = s.mem :=
  (ev_only (OnlyP.refl _ s) f : OnlyP (fun c => c ∈ ([.regs, .outbox, .hif] : List Comp)) s _) .mem (by decide)
@[simp] theorem ev_pwr (f : FRef) : (s.ev f).pwr = s.pwr :=
  (ev_only (OnlyP.refl _ s) f : OnlyP (fun c => c ∈ ([.regs, .outbox, .hif] : List Comp)) s _) .pwr (by decide)
@[simp] theorem ev_nvs (f : FRef) : (s.ev f).nvs = s.nvs :=
  (ev_only (OnlyP.refl _ s) f : OnlyP (fun c => c ∈ ([.regs, .outbox, .hif] : List Comp)) s _) .nvs (by decide)
@[simp] theorem ev_gtOff (f : FRef) : (s.ev f).gtOff = s.gtOff :=
  (ev_only (OnlyP.refl _ s) f : OnlyP (fun c => c ∈ ([.regs, .outbox, .hif] : List Comp)) s _) .gtOff (by decide)
@[simp] theorem ev_pending (f : FRef) : (s.ev f).pending = s.pending :=
  (ev_only (OnlyP.refl _ s) f : OnlyP (fun c => c ∈ ([.regs, .outbox, .hif] : List Comp)) s _) .pending (by decide)
@[simp] theorem ev_now (f : FRef) : (s.ev f).now = s.now :=
  (ev_only (OnlyP.refl _ s) f : OnlyP (fun c => c ∈ ([.regs, .outbox, .hif] : List Comp)) s _) .now (by decide)
@[simp] theorem ev_hostMem (f : FRef) : (s.ev f).hostMem = s.hostMem :=
  (ev_only (OnlyP.refl _ s) f : OnlyP (fun c => c ∈ ([.regs, .outbox, .hif] : List Comp)) s _) .hostMem (by decide)

@[simp] theorem present_tables (i : Nat) : (s.present i).tables = s.tables :=
  (present_only (OnlyP.refl _ s) i : OnlyP (fun c => c ∈ ([.regs, .outbox, .hif, .flt] : List Comp)) s _) .tables (by decide)
@[simp] theorem present_freeIdx (i : Nat) : (s.present i).freeIdx = s.freeIdx :=
  (present_only (OnlyP.refl _ s) i : OnlyP (fun c => c ∈ ([.regs, .outbox, .hif, .flt] : List Comp)) s _) .freeIdx (by decide)
@[simp] theorem present_safeN (i : Nat) : (s.present i).safeN = s.safeN :=
  (present_only (OnlyP.refl _ s) i : OnlyP (fun c => c ∈ ([.regs, .outbox, .hif, .flt] : List Comp)) s _) .safeN (by decide)
@[simp] theorem present_snaps (i : Nat) : (s.present i).snaps = s.snaps :=
  (present_only (OnlyP.refl _ s) i : OnlyP (fun c => c ∈ ([.regs, .outbox, .hif, .flt] : List Comp)) s _) .snaps (by decide)
@[simp] theorem present_spill (i : Nat) : (s.present i).spill = s.spill :=
  (present_only (OnlyP.refl _ s) i : OnlyP (fun c => c ∈ ([.regs, .outbox, .hif, .flt] : List Comp)) s _) .spill (by decide)
@[simp] theorem present_tim (i : Nat) : (s.present i).tim = s.tim :=
  (present_only (OnlyP.refl _ s) i : OnlyP (fun c => c ∈ ([.regs, .outbox, .hif, .flt] : List Comp)) s _) .tim (by decide)
@[simp] theorem present_fe (i : Nat) : (s.present i).fe = s.fe :=
  (present_only (OnlyP.refl _ s) i : OnlyP (fun c => c ∈ ([.regs, .outbox, .hif, .flt] : List Comp)) s _) .fe (by decide)
@[simp] theorem present_acq (i : Nat) : (s.present i).acq = s.acq :=
  (present_only (OnlyP.refl _ s) i : OnlyP (fun c => c ∈ ([.regs, .outbox, .hif, .flt] : List Comp)) s _) .acq (by decide)
@[simp] theorem present_trk (i : Nat) : (s.present i).trk = s.trk :=
  (present_only (OnlyP.refl _ s) i : OnlyP (fun c => c ∈ ([.regs, .outbox, .hif, .flt] : List Comp)) s _) .trk (by decide)
@[simp] theorem present_sch (i : Nat) : (s.present i).sch = s.sch :=
  (present_only (OnlyP.refl _ s) i : OnlyP (fun c => c ∈ ([.regs, .outbox, .hif, .flt] : List Comp)) s _) .sch (by decide)
@[simp] theorem present_pmc (i : Nat) : (s.present i).pmc = s.pmc :=
  (present_only (OnlyP.refl _ s) i : OnlyP (fun c => c ∈ ([.regs, .outbox, .hif, .flt] : List Comp)) s _) .pmc (by decide)
@[simp] theorem present_wmn (i : Nat) : (s.present i).wmn = s.wmn :=
  (present_only (OnlyP.refl _ s) i : OnlyP (fun c => c ∈ ([.regs, .outbox, .hif, .flt] : List Comp)) s _) .wmn (by decide)
@[simp] theorem present_mem (i : Nat) : (s.present i).mem = s.mem :=
  (present_only (OnlyP.refl _ s) i : OnlyP (fun c => c ∈ ([.regs, .outbox, .hif, .flt] : List Comp)) s _) .mem (by decide)
@[simp] theorem present_pwr (i : Nat) : (s.present i).pwr = s.pwr :=
  (present_only (OnlyP.refl _ s) i : OnlyP (fun c => c ∈ ([.regs, .outbox, .hif, .flt] : List Comp)) s _) .pwr (by decide)
@[simp] theorem present_nvs (i : Nat) : (s.present i).nvs = s.nvs :=
  (present_only (OnlyP.refl _ s) i : OnlyP (fun c => c ∈ ([.regs, .outbox, .hif, .flt] : List Comp)) s _) .nvs (by decide)
@[simp] theorem present_gtOff (i : Nat) : (s.present i).gtOff = s.gtOff :=
  (present_only (OnlyP.refl _ s) i : OnlyP (fun c => c ∈ ([.regs, .outbox, .hif, .flt] : List Comp)) s _) .gtOff (by decide)
@[simp] theorem present_pending (i : Nat) : (s.present i).pending = s.pending :=
  (present_only (OnlyP.refl _ s) i : OnlyP (fun c => c ∈ ([.regs, .outbox, .hif, .flt] : List Comp)) s _) .pending (by decide)
@[simp] theorem present_now (i : Nat) : (s.present i).now = s.now :=
  (present_only (OnlyP.refl _ s) i : OnlyP (fun c => c ∈ ([.regs, .outbox, .hif, .flt] : List Comp)) s _) .now (by decide)
@[simp] theorem present_hostMem (i : Nat) : (s.present i).hostMem = s.hostMem :=
  (present_only (OnlyP.refl _ s) i : OnlyP (fun c => c ∈ ([.regs, .outbox, .hif, .flt] : List Comp)) s _) .hostMem (by decide)

@[simp] theorem post_tables (c : Cpl) : (s.post c).tables = s.tables :=
  (post_only (OnlyP.refl _ s) c : OnlyP (fun c => c ∈ ([.regs, .hostMem, .outbox, .hif] : List Comp)) s _) .tables (by decide)
@[simp] theorem post_freeIdx (c : Cpl) : (s.post c).freeIdx = s.freeIdx :=
  (post_only (OnlyP.refl _ s) c : OnlyP (fun c => c ∈ ([.regs, .hostMem, .outbox, .hif] : List Comp)) s _) .freeIdx (by decide)
@[simp] theorem post_safeN (c : Cpl) : (s.post c).safeN = s.safeN :=
  (post_only (OnlyP.refl _ s) c : OnlyP (fun c => c ∈ ([.regs, .hostMem, .outbox, .hif] : List Comp)) s _) .safeN (by decide)
@[simp] theorem post_snaps (c : Cpl) : (s.post c).snaps = s.snaps :=
  (post_only (OnlyP.refl _ s) c : OnlyP (fun c => c ∈ ([.regs, .hostMem, .outbox, .hif] : List Comp)) s _) .snaps (by decide)
@[simp] theorem post_spill (c : Cpl) : (s.post c).spill = s.spill :=
  (post_only (OnlyP.refl _ s) c : OnlyP (fun c => c ∈ ([.regs, .hostMem, .outbox, .hif] : List Comp)) s _) .spill (by decide)
@[simp] theorem post_tim (c : Cpl) : (s.post c).tim = s.tim :=
  (post_only (OnlyP.refl _ s) c : OnlyP (fun c => c ∈ ([.regs, .hostMem, .outbox, .hif] : List Comp)) s _) .tim (by decide)
@[simp] theorem post_fe (c : Cpl) : (s.post c).fe = s.fe :=
  (post_only (OnlyP.refl _ s) c : OnlyP (fun c => c ∈ ([.regs, .hostMem, .outbox, .hif] : List Comp)) s _) .fe (by decide)
@[simp] theorem post_acq (c : Cpl) : (s.post c).acq = s.acq :=
  (post_only (OnlyP.refl _ s) c : OnlyP (fun c => c ∈ ([.regs, .hostMem, .outbox, .hif] : List Comp)) s _) .acq (by decide)
@[simp] theorem post_trk (c : Cpl) : (s.post c).trk = s.trk :=
  (post_only (OnlyP.refl _ s) c : OnlyP (fun c => c ∈ ([.regs, .hostMem, .outbox, .hif] : List Comp)) s _) .trk (by decide)
@[simp] theorem post_sch (c : Cpl) : (s.post c).sch = s.sch :=
  (post_only (OnlyP.refl _ s) c : OnlyP (fun c => c ∈ ([.regs, .hostMem, .outbox, .hif] : List Comp)) s _) .sch (by decide)
@[simp] theorem post_pmc (c : Cpl) : (s.post c).pmc = s.pmc :=
  (post_only (OnlyP.refl _ s) c : OnlyP (fun c => c ∈ ([.regs, .hostMem, .outbox, .hif] : List Comp)) s _) .pmc (by decide)
@[simp] theorem post_wmn (c : Cpl) : (s.post c).wmn = s.wmn :=
  (post_only (OnlyP.refl _ s) c : OnlyP (fun c => c ∈ ([.regs, .hostMem, .outbox, .hif] : List Comp)) s _) .wmn (by decide)
@[simp] theorem post_flt (c : Cpl) : (s.post c).flt = s.flt :=
  (post_only (OnlyP.refl _ s) c : OnlyP (fun c => c ∈ ([.regs, .hostMem, .outbox, .hif] : List Comp)) s _) .flt (by decide)
@[simp] theorem post_mem (c : Cpl) : (s.post c).mem = s.mem :=
  (post_only (OnlyP.refl _ s) c : OnlyP (fun c => c ∈ ([.regs, .hostMem, .outbox, .hif] : List Comp)) s _) .mem (by decide)
@[simp] theorem post_pwr (c : Cpl) : (s.post c).pwr = s.pwr :=
  (post_only (OnlyP.refl _ s) c : OnlyP (fun c => c ∈ ([.regs, .hostMem, .outbox, .hif] : List Comp)) s _) .pwr (by decide)
@[simp] theorem post_nvs (c : Cpl) : (s.post c).nvs = s.nvs :=
  (post_only (OnlyP.refl _ s) c : OnlyP (fun c => c ∈ ([.regs, .hostMem, .outbox, .hif] : List Comp)) s _) .nvs (by decide)
@[simp] theorem post_gtOff (c : Cpl) : (s.post c).gtOff = s.gtOff :=
  (post_only (OnlyP.refl _ s) c : OnlyP (fun c => c ∈ ([.regs, .hostMem, .outbox, .hif] : List Comp)) s _) .gtOff (by decide)
@[simp] theorem post_pending (c : Cpl) : (s.post c).pending = s.pending :=
  (post_only (OnlyP.refl _ s) c : OnlyP (fun c => c ∈ ([.regs, .hostMem, .outbox, .hif] : List Comp)) s _) .pending (by decide)
@[simp] theorem post_now (c : Cpl) : (s.post c).now = s.now :=
  (post_only (OnlyP.refl _ s) c : OnlyP (fun c => c ∈ ([.regs, .hostMem, .outbox, .hif] : List Comp)) s _) .now (by decide)

@[simp] theorem complete_tables (c : Cmd) (r v : Nat) : (s.complete c r v).tables = s.tables :=
  (complete_only (OnlyP.refl _ s) c r v : OnlyP (fun c => c ∈ ([.regs, .hostMem, .outbox, .hif] : List Comp)) s _) .tables (by decide)
@[simp] theorem complete_freeIdx (c : Cmd) (r v : Nat) : (s.complete c r v).freeIdx = s.freeIdx :=
  (complete_only (OnlyP.refl _ s) c r v : OnlyP (fun c => c ∈ ([.regs, .hostMem, .outbox, .hif] : List Comp)) s _) .freeIdx (by decide)
@[simp] theorem complete_safeN (c : Cmd) (r v : Nat) : (s.complete c r v).safeN = s.safeN :=
  (complete_only (OnlyP.refl _ s) c r v : OnlyP (fun c => c ∈ ([.regs, .hostMem, .outbox, .hif] : List Comp)) s _) .safeN (by decide)
@[simp] theorem complete_snaps (c : Cmd) (r v : Nat) : (s.complete c r v).snaps = s.snaps :=
  (complete_only (OnlyP.refl _ s) c r v : OnlyP (fun c => c ∈ ([.regs, .hostMem, .outbox, .hif] : List Comp)) s _) .snaps (by decide)
@[simp] theorem complete_spill (c : Cmd) (r v : Nat) : (s.complete c r v).spill = s.spill :=
  (complete_only (OnlyP.refl _ s) c r v : OnlyP (fun c => c ∈ ([.regs, .hostMem, .outbox, .hif] : List Comp)) s _) .spill (by decide)
@[simp] theorem complete_tim (c : Cmd) (r v : Nat) : (s.complete c r v).tim = s.tim :=
  (complete_only (OnlyP.refl _ s) c r v : OnlyP (fun c => c ∈ ([.regs, .hostMem, .outbox, .hif] : List Comp)) s _) .tim (by decide)
@[simp] theorem complete_fe (c : Cmd) (r v : Nat) : (s.complete c r v).fe = s.fe :=
  (complete_only (OnlyP.refl _ s) c r v : OnlyP (fun c => c ∈ ([.regs, .hostMem, .outbox, .hif] : List Comp)) s _) .fe (by decide)
@[simp] theorem complete_acq (c : Cmd) (r v : Nat) : (s.complete c r v).acq = s.acq :=
  (complete_only (OnlyP.refl _ s) c r v : OnlyP (fun c => c ∈ ([.regs, .hostMem, .outbox, .hif] : List Comp)) s _) .acq (by decide)
@[simp] theorem complete_trk (c : Cmd) (r v : Nat) : (s.complete c r v).trk = s.trk :=
  (complete_only (OnlyP.refl _ s) c r v : OnlyP (fun c => c ∈ ([.regs, .hostMem, .outbox, .hif] : List Comp)) s _) .trk (by decide)
@[simp] theorem complete_sch (c : Cmd) (r v : Nat) : (s.complete c r v).sch = s.sch :=
  (complete_only (OnlyP.refl _ s) c r v : OnlyP (fun c => c ∈ ([.regs, .hostMem, .outbox, .hif] : List Comp)) s _) .sch (by decide)
@[simp] theorem complete_pmc (c : Cmd) (r v : Nat) : (s.complete c r v).pmc = s.pmc :=
  (complete_only (OnlyP.refl _ s) c r v : OnlyP (fun c => c ∈ ([.regs, .hostMem, .outbox, .hif] : List Comp)) s _) .pmc (by decide)
@[simp] theorem complete_wmn (c : Cmd) (r v : Nat) : (s.complete c r v).wmn = s.wmn :=
  (complete_only (OnlyP.refl _ s) c r v : OnlyP (fun c => c ∈ ([.regs, .hostMem, .outbox, .hif] : List Comp)) s _) .wmn (by decide)
@[simp] theorem complete_flt (c : Cmd) (r v : Nat) : (s.complete c r v).flt = s.flt :=
  (complete_only (OnlyP.refl _ s) c r v : OnlyP (fun c => c ∈ ([.regs, .hostMem, .outbox, .hif] : List Comp)) s _) .flt (by decide)
@[simp] theorem complete_mem (c : Cmd) (r v : Nat) : (s.complete c r v).mem = s.mem :=
  (complete_only (OnlyP.refl _ s) c r v : OnlyP (fun c => c ∈ ([.regs, .hostMem, .outbox, .hif] : List Comp)) s _) .mem (by decide)
@[simp] theorem complete_pwr (c : Cmd) (r v : Nat) : (s.complete c r v).pwr = s.pwr :=
  (complete_only (OnlyP.refl _ s) c r v : OnlyP (fun c => c ∈ ([.regs, .hostMem, .outbox, .hif] : List Comp)) s _) .pwr (by decide)
@[simp] theorem complete_nvs (c : Cmd) (r v : Nat) : (s.complete c r v).nvs = s.nvs :=
  (complete_only (OnlyP.refl _ s) c r v : OnlyP (fun c => c ∈ ([.regs, .hostMem, .outbox, .hif] : List Comp)) s _) .nvs (by decide)
@[simp] theorem complete_gtOff (c : Cmd) (r v : Nat) : (s.complete c r v).gtOff = s.gtOff :=
  (complete_only (OnlyP.refl _ s) c r v : OnlyP (fun c => c ∈ ([.regs, .hostMem, .outbox, .hif] : List Comp)) s _) .gtOff (by decide)
@[simp] theorem complete_pending (c : Cmd) (r v : Nat) : (s.complete c r v).pending = s.pending :=
  (complete_only (OnlyP.refl _ s) c r v : OnlyP (fun c => c ∈ ([.regs, .hostMem, .outbox, .hif] : List Comp)) s _) .pending (by decide)
@[simp] theorem complete_now (c : Cmd) (r v : Nat) : (s.complete c r v).now = s.now :=
  (complete_only (OnlyP.refl _ s) c r v : OnlyP (fun c => c ∈ ([.regs, .hostMem, .outbox, .hif] : List Comp)) s _) .now (by decide)

@[simp] theorem at_tables (x : Nat) : (s.at x).tables = s.tables :=
  (at_only (OnlyP.refl _ s) x : OnlyP (fun c => c ∈ ([.now, .regs, .sch] : List Comp)) s _) .tables (by decide)
@[simp] theorem at_freeIdx (x : Nat) : (s.at x).freeIdx = s.freeIdx :=
  (at_only (OnlyP.refl _ s) x : OnlyP (fun c => c ∈ ([.now, .regs, .sch] : List Comp)) s _) .freeIdx (by decide)
@[simp] theorem at_safeN (x : Nat) : (s.at x).safeN = s.safeN :=
  (at_only (OnlyP.refl _ s) x : OnlyP (fun c => c ∈ ([.now, .regs, .sch] : List Comp)) s _) .safeN (by decide)
@[simp] theorem at_snaps (x : Nat) : (s.at x).snaps = s.snaps :=
  (at_only (OnlyP.refl _ s) x : OnlyP (fun c => c ∈ ([.now, .regs, .sch] : List Comp)) s _) .snaps (by decide)
@[simp] theorem at_spill (x : Nat) : (s.at x).spill = s.spill :=
  (at_only (OnlyP.refl _ s) x : OnlyP (fun c => c ∈ ([.now, .regs, .sch] : List Comp)) s _) .spill (by decide)
@[simp] theorem at_tim (x : Nat) : (s.at x).tim = s.tim :=
  (at_only (OnlyP.refl _ s) x : OnlyP (fun c => c ∈ ([.now, .regs, .sch] : List Comp)) s _) .tim (by decide)
@[simp] theorem at_fe (x : Nat) : (s.at x).fe = s.fe :=
  (at_only (OnlyP.refl _ s) x : OnlyP (fun c => c ∈ ([.now, .regs, .sch] : List Comp)) s _) .fe (by decide)
@[simp] theorem at_acq (x : Nat) : (s.at x).acq = s.acq :=
  (at_only (OnlyP.refl _ s) x : OnlyP (fun c => c ∈ ([.now, .regs, .sch] : List Comp)) s _) .acq (by decide)
@[simp] theorem at_trk (x : Nat) : (s.at x).trk = s.trk :=
  (at_only (OnlyP.refl _ s) x : OnlyP (fun c => c ∈ ([.now, .regs, .sch] : List Comp)) s _) .trk (by decide)
@[simp] theorem at_pmc (x : Nat) : (s.at x).pmc = s.pmc :=
  (at_only (OnlyP.refl _ s) x : OnlyP (fun c => c ∈ ([.now, .regs, .sch] : List Comp)) s _) .pmc (by decide)
@[simp] theorem at_wmn (x : Nat) : (s.at x).wmn = s.wmn :=
  (at_only (OnlyP.refl _ s) x : OnlyP (fun c => c ∈ ([.now, .regs, .sch] : List Comp)) s _) .wmn (by decide)
@[simp] theorem at_flt (x : Nat) : (s.at x).flt = s.flt :=
  (at_only (OnlyP.refl _ s) x : OnlyP (fun c => c ∈ ([.now, .regs, .sch] : List Comp)) s _) .flt (by decide)
@[simp] theorem at_mem (x : Nat) : (s.at x).mem = s.mem :=
  (at_only (OnlyP.refl _ s) x : OnlyP (fun c => c ∈ ([.now, .regs, .sch] : List Comp)) s _) .mem (by decide)
@[simp] theorem at_pwr (x : Nat) : (s.at x).pwr = s.pwr :=
  (at_only (OnlyP.refl _ s) x : OnlyP (fun c => c ∈ ([.now, .regs, .sch] : List Comp)) s _) .pwr (by decide)
@[simp] theorem at_nvs (x : Nat) : (s.at x).nvs = s.nvs :=
  (at_only (OnlyP.refl _ s) x : OnlyP (fun c => c ∈ ([.now, .regs, .sch] : List Comp)) s _) .nvs (by decide)
@[simp] theorem at_gtOff (x : Nat) : (s.at x).gtOff = s.gtOff :=
  (at_only (OnlyP.refl _ s) x : OnlyP (fun c => c ∈ ([.now, .regs, .sch] : List Comp)) s _) .gtOff (by decide)
@[simp] theorem at_pending (x : Nat) : (s.at x).pending = s.pending :=
  (at_only (OnlyP.refl _ s) x : OnlyP (fun c => c ∈ ([.now, .regs, .sch] : List Comp)) s _) .pending (by decide)
@[simp] theorem at_hostMem (x : Nat) : (s.at x).hostMem = s.hostMem :=
  (at_only (OnlyP.refl _ s) x : OnlyP (fun c => c ∈ ([.now, .regs, .sch] : List Comp)) s _) .hostMem (by decide)
@[simp] theorem at_outbox (x : Nat) : (s.at x).outbox = s.outbox :=
  (at_only (OnlyP.refl _ s) x : OnlyP (fun c => c ∈ ([.now, .regs, .sch] : List Comp)) s _) .outbox (by decide)
@[simp] theorem at_hif (x : Nat) : (s.at x).hif = s.hif :=
  (at_only (OnlyP.refl _ s) x : OnlyP (fun c => c ∈ ([.now, .regs, .sch] : List Comp)) s _) .hif (by decide)

/-- Setting a sticky bit leaves the sources alone. -/
theorem stickySet_flt (s : State) (i : Nat) : (s.stickySet i).flt = s.flt :=
  (stickySet_only (OnlyP.refl _ s) i : OnlyP (fun c => c ∈ ([.regs, .hif] : List Comp)) s _) .flt (by decide)

/-- A source that is presented reads (1,0). -/
theorem present_rails (s : State) (i : Nat) (h : i < 128) : vget .ok (s.present i).flt.rails i = .err := by
  unfold State.present
  dsimp only
  split
  · split
    · rw [ev_flt, set_flt]
      show vget .ok (State.stickySet _ i).flt.rails i = .err
      rw [stickySet_flt]
      exact vget_vset_same _ _ _ _ h
    · exact vget_vset_same _ _ _ _ h
  · exact vget_vset_same _ _ _ _ h

/-- Presenting a source leaves every register outside the fault collector. -/
theorem present_get (s : State) (i : Nat) (f : FRef) (h : f.off / 65536 ≠ 14) : (s.present i).get f = s.get f :=
  get_of_regs (B := fun b => b = 14) (present_blocks (RegsP.refl _ s) i) f h

/-- Completing a command leaves every register outside the host interface. -/
theorem complete_get (s : State) (c : Cmd) (r v : Nat) (f : FRef) (h : f.off / 65536 ≠ 11) :
    (s.complete c r v).get f = s.get f :=
  get_of_regs (B := fun b => b = 11) (complete_blocks (RegsP.refl _ s) c r v) f h

theorem post_get (s : State) (c : Cpl) (f : FRef) (h : f.off / 65536 ≠ 11) : (s.post c).get f = s.get f :=
  get_of_regs (B := fun b => b = 11) (post_blocks (RegsP.refl _ s) c) f h

theorem at_reg (s : State) (x o : Nat) (h : o / 65536 ≠ 10) : (s.at x).reg o = s.reg o :=
  (at_blocks (B := fun b => b = 10) (RegsP.refl _ s) x : RegsP _ s _) o h

theorem at_get (s : State) (x : Nat) (f : FRef) (h : f.off / 65536 ≠ 10) : (s.at x).get f = s.get f :=
  get_of_regs (B := fun b => b = 10) (at_blocks (RegsP.refl _ s) x) f h

/-- Events of the main domain, and of the signal fabric, where they act. -/
theorem main_up {s : State} {x : Nat} (h : s.upAt x = true) (f : State → State) : s.main x f = f (s.at x) := by
  unfold State.upAt at h
  rw [Bool.and_eq_true] at h
  unfold State.main; dsimp only; rw [if_pos h.1]

theorem fabric_awake {s : State} {x : Nat} (h : s.awakeAt x = true) (f : State → State) : s.fabric x f = f (s.at x) := by
  unfold State.awakeAt at h
  rw [Bool.and_eq_true, bne_iff_ne] at h
  unfold State.fabric
  rw [main_up (show s.upAt x = true from h.1), if_neg h.2]

/-! ### Completions -/

theorem logMod_rings (s : State) (f : LogRec → LogRec) : (s.logMod f).hif.rings = s.hif.rings := by
  unfold State.logMod
  repeat' split
  all_goals rfl

theorem msix_rings (s : State) (v : Nat) : (s.msix v).hif.rings = s.hif.rings := by
  unfold State.msix; split <;> rfl

theorem cplHold_rings (s : State) (c : Cpl) : (s.cplHold c).hif.rings = s.hif.rings := by
  unfold State.cplHold
  rw [logMod_rings]

theorem cplCoalesce_rings (s : State) (k : Nat) (irq : Bool) : (s.cplCoalesce k irq).hif.rings = s.hif.rings := by
  unfold State.cplCoalesce State.cplSignal
  dsimp only
  split
  · rw [msix_rings]; rfl
  · rfl

theorem cplCount_rings (s : State) (c : Cpl) : (s.cplCount c).hif.rings = s.hif.rings := by
  unfold State.cplCount
  split
  · rw [ev_rings]; rfl
  · split <;> rfl

theorem cplWrite_rings (s : State) (c : Cpl) : (s.cplWrite c).hif.rings = s.hif.rings := by
  unfold State.cplWrite
  dsimp only
  rw [cplCoalesce_rings, cplCount_rings]
  rfl

/-- Posting a completion leaves the windows and the running commands. -/
theorem post_rings (s : State) (c : Cpl) : (s.post c).hif.rings = s.hif.rings := by
  unfold State.post
  dsimp only
  repeat' split
  · rfl
  · rfl
  · exact cplWrite_rings s c
  · rw [ev_rings, cplHold_rings]
  · exact cplHold_rings s c

theorem posts_rings (l : List Cmd) (r v : Nat) (s : State) :
    (l.foldl (fun s d => s.post (s.mkCpl d 1 r v)) s).hif.rings = s.hif.rings := by
  induction l generalizing s with
  | nil => rfl
  | cons d l ih => exact (ih _).trans (post_rings _ _)

theorem ring_congr {s t : State} (h : t.hif.rings = s.hif.rings) (r : Nat) : t.ring r = s.ring r := by
  unfold State.ring; rw [h]

theorem hif_ring {s t : State} (h : t.hif = s.hif) (r : Nat) : t.ring r = s.ring r := by unfold State.ring; rw [h]

theorem set_ring (s : State) (f : FRef) (x r : Nat) : (s.set f x).ring r = s.ring r := hif_ring (by simp) r

theorem setReg_ring (s : State) (o : Nat) (v : Word) (r : Nat) : (s.setReg o v).ring r = s.ring r := hif_ring (by simp) r

theorem dmaWrite_ring (s : State) (a : Nat) (bs : List Byte) (r : Nat) : (s.dmaWrite a bs).ring r = s.ring r :=
  hif_ring (by simp only [State.dmaWrite]) r

theorem ev_ring (s : State) (f : FRef) (r : Nat) : (s.ev f).ring r = s.ring r := ring_congr (ev_rings s f) r

theorem stickySet_rings (s : State) (i : Nat) : (s.stickySet i).hif.rings = s.hif.rings := by
  unfold State.stickySet
  dsimp only
  split
  · rw [logMod_rings]; rfl
  · rfl

theorem present_ring (s : State) (i r : Nat) : (s.present i).ring r = s.ring r := by
  apply ring_congr
  unfold State.present
  dsimp only
  split
  · split
    · rw [ev_rings, set_hif]
      exact stickySet_rings _ _
    · rfl
  · rfl

/-- The ring of a completed command. -/
theorem complete_ring (s : State) (c : Cmd) (result value : Nat) (h : c.ring < 20) :
    (s.complete c result value).ring c.ring =
      { dup := (s.ring c.ring).dup.map (fun e => if e.id == c.reqId && !e.done then ⟨e.id, result, value, true, []⟩ else e)
        running := (s.ring c.ring).running.filter (fun d => d.reqId != c.reqId), fence := (s.ring c.ring).fence
        cleared := (s.ring c.ring).cleared.filter (fun e => !(e.id == c.reqId && !e.done)) } := by
  unfold State.complete
  dsimp only
  rw [ring_congr ((posts_rings _ _ _ _).trans (post_rings _ _))]
  exact vget_vset_same _ _ _ _ h

theorem enroll_ring (s : State) (c : Cmd) (h : c.ring < 20) :
    (s.enroll c).ring c.ring =
      { dup := dupKeep (⟨c.reqId, 0, 0, false, []⟩ :: (s.ring c.ring).dup), running := (s.ring c.ring).running ++ [c]
        fence := (s.ring c.ring).fence, cleared := (s.ring c.ring).cleared } :=
  vget_vset_same _ _ _ _ h

theorem canStart_ring {s : State} {h : Hdr} {op : Nat} (hc : s.canStart h op = true) : h.ring < 20 := by
  unfold State.canStart at hc
  by_contra hn
  rw [if_neg (show ¬ h.ring < 16 by omega)] at hc
  simp [State.ringReady, show ¬ h.ring < 16 by omega, show ¬ h.ring < 20 by omega] at hc

/-- A descriptor that starts runs its body in the state `begun`. -/
theorem ringStart_starts {s : State} {h : Hdr} {op : Nat} {bad : Option Nat} (hs : s.starts h op bad)
    (body : Cmd → State → State) : s.ringStart h op bad body = body (cmdOf h op) (s.begun h op) := by
  obtain ⟨h1, h2, h3⟩ := hs
  unfold State.entry State.fetchedAt at h2
  unfold State.fetchedAt at h3
  unfold State.ringStart
  dsimp only
  rw [if_pos h1, h2]
  dsimp only
  rw [h3]
  rfl

theorem starts_ring {s : State} {h : Hdr} {op : Nat} {bad : Option Nat} (hs : s.starts h op bad) : h.ring < 20 :=
  canStart_ring hs.1

theorem begun_ring {s : State} {h : Hdr} {op : Nat} (hr : h.ring < 20) :
    (s.begun h op).ring h.ring =
      { dup := dupKeep (⟨h.reqId, 0, 0, false, []⟩ :: ((s.fetchedAt h).ring h.ring).dup)
        running := ((s.fetchedAt h).ring h.ring).running ++ [cmdOf h op], fence := ((s.fetchedAt h).ring h.ring).fence
        cleared := ((s.fetchedAt h).ring h.ring).cleared } := enroll_ring _ _ hr

/-- A command whose ring still has it as its newest entry is answered by its completion. -/
theorem complete_answered (s : State) {u : State} {h : Hdr} {op : Nat} (hr : h.ring < 20)
    (hu : u.ring h.ring = (s.begun h op).ring h.ring) (result value : Nat) :
    (u.complete (cmdOf h op) result value).answered h result value := by
  unfold State.answered
  rw [show h.ring = (cmdOf h op).ring from rfl, complete_ring _ _ _ _ hr,
    show (cmdOf h op).ring = h.ring from rfl, hu, begun_ring hr]
  simp [cmdOf, dupKeep]

theorem begun_runs (s : State) {u : State} {h : Hdr} {op : Nat} (hr : h.ring < 20)
    (hu : u.ring h.ring = (s.begun h op).ring h.ring) : u.runs (cmdOf h op) := by
  unfold State.runs
  rw [show (cmdOf h op).ring = h.ring from rfl, hu, begun_ring hr]
  simp

/-- Posting a completion leaves HIF.STATUS. -/
theorem post_status (s : State) (c : Cpl) : (s.post c).reg HIF_STATUS = s.reg HIF_STATUS := by
  have hl : ∀ (s : State) f, (s.logMod f).reg HIF_STATUS = s.reg HIF_STATUS := by
    intro s f; unfold State.logMod; repeat' split
    all_goals rfl
  have hh : ∀ (s : State) c, (s.cplHold c).reg HIF_STATUS = s.reg HIF_STATUS := by
    intro s c; unfold State.cplHold; rw [hl]; rfl
  have hs : ∀ (s : State) (f : FRef) x, HIF_STATUS ≠ f.off → (s.set f x).reg HIF_STATUS = s.reg HIF_STATUS :=
    fun s f x h => reg_setReg_ne _ _ _ _ h
  have hr : ∀ (s : State) k x, (s.setCplRing k x).reg HIF_STATUS = s.reg HIF_STATUS := fun _ _ _ => rfl
  have hd : ∀ (s : State) a l, (s.dmaWrite a l).reg HIF_STATUS = s.reg HIF_STATUS := fun _ _ _ => rfl
  have hc : ∀ (s : State) k irq, (s.cplCoalesce k irq).reg HIF_STATUS = s.reg HIF_STATUS := by
    intro s k irq; unfold State.cplCoalesce State.cplSignal; dsimp only; split
    · rw [msix_reg]; rfl
    · rfl
  have hn : ∀ (s : State) (c : Cpl), (s.cplCount c).reg HIF_STATUS = s.reg HIF_STATUS := by
    intro s c; unfold State.cplCount State.addSat; split
    · rw [ev_reg_ne _ _ _ (by decide), hs _ _ _ (by simp [HIF_STATUS, HIF_CMD_DUP_CNT_COUNT, HIF_CMD_DUP_CNT]; omega)]
    · split
      · rw [hs _ _ _ (by simp [HIF_STATUS, HIF_CMD_REJ_CNT_COUNT, HIF_CMD_REJ_CNT]; omega)]
      · rfl
  unfold State.post
  dsimp only
  repeat' split
  · rfl
  · rfl
  · unfold State.cplWrite
    dsimp only
    rw [hc, hn, hr, hs _ _ _ (by simp [HIF_STATUS, HIF_CPL_TAIL_INDEX, HIF_CPL_TAIL]; omega), hd]
  · rw [ev_reg_ne _ _ _ (by decide), hh]
  · exact hh _ _

theorem complete_status (s : State) (c : Cmd) (r v : Nat) : (s.complete c r v).reg HIF_STATUS = s.reg HIF_STATUS := by
  have hp : ∀ (l : List Cmd) (s : State), (l.foldl (fun s d => s.post (s.mkCpl d 1 r v)) s).reg HIF_STATUS = s.reg HIF_STATUS := by
    intro l
    induction l with
    | nil => intro s; rfl
    | cons d l ih => intro s; exact (ih _).trans (post_status _ _)
  unfold State.complete
  dsimp only
  rw [hp, post_status]
  rfl

theorem complete_attach (s : State) (c : Cmd) (r v : Nat) : (s.complete c r v).attach = s.attach := by
  unfold State.attach
  rw [get_eq, get_eq, show HIF_STATUS_ATTACH.off = HIF_STATUS from rfl, complete_status]

end Sys2Proof.Machine
end

