-- ==== Sys2Proof/Laws/Access.lean ====
section
/-! SUPPORT. Laws of register accesses: what an access that reaches the registers comes to, the bits and the fields of a
word that is written, and the wake that is none at L0. -/

namespace Sys2Proof.Machine
set_option Elab.async false

/-- An element of a vector that is mapped. -/
theorem vget_map {α β : Type} {n : Nat} (d : α) (e : β) (v : Vector α n) (g : α → β) (i : Nat) (h : i < n) :
    vget e (v.map g) i = g (vget d v i) := by
  simp [vget, List.getD_eq_getElem?_getD, h]

theorem accessWake_zero (s : State) (h : s.ladder = 0) : s.accessWake = s := by unfold State.accessWake; rw [if_neg (by omega)]

/-- Outside LNC an access needs nothing brought up to date. -/
theorem readSync_of_ne (s : State) (off : Nat) (h : off / 65536 ≠ 3) : s.readSync off = s := by
  unfold State.readSync; rw [if_neg h]

/-- Bringing the counts of LNC up to date leaves every field outside LNC and FLT, the mode among them. -/
theorem readSync_get (s : State) (off : Nat) (f : FRef) (h : ¬ (f.off / 65536 = 3 ∨ f.off / 65536 = 14)) :
    (s.readSync off).get f = s.get f :=
  get_of_regs (B := fun b => b = 3 ∨ b = 14) (readSync_blocks (RegsP.refl _ s) off (.inl rfl) (.inr rfl)) f h

theorem readSync_mode (s : State) (off : Nat) : (s.readSync off).mode = s.mode := readSync_get s off _ (by decide)

/-- A 32-bit write that reaches the registers is a write of its word. -/
theorem reaches_busWord {s : State} {b : Bus} (h : s.reaches b) (off : Nat) (v : Word) (ha : off % 4 = 0) (hb : off < 0x1000000) :
    s.busWord b off v = ((s.at b.t).readSync off).writeWord b.m off v := by
  obtain ⟨h1, h2, -, -⟩ := h
  have hu : (s.at b.t).busUp = true := by unfold State.busUp; rw [h1, h2]; rfl
  have hv : (v.setWidth 64).setWidth 32 = v := by
    apply BitVec.eq_of_toNat_eq
    simp only [BitVec.toNat_setWidth]
    have := v.isLt
    rw [Nat.mod_eq_of_lt (a := v.toNat) (by omega), Nat.mod_eq_of_lt this]
  unfold State.busWord State.busWrite
  dsimp only
  rw [if_pos hu, accessWake_zero _ h2, if_neg (by omega), if_neg (by omega), if_pos rfl, hv]

/-- A write that the register takes is stored, and the block acts. -/
theorem takes_wrote {s : State} {b : Bus} {off : Nat} {v : Word} (h : s.takes b off v) (ha : off % 4 = 0) (hb : off < 0x400000)
    (hs : off ≠ SYS_RESET) : s.busWord b off v = (s.seenAt b off).wrote off v := by
  obtain ⟨hr, hw⟩ := h
  rw [reaches_busWord hr off v ha (by omega)]
  obtain ⟨-, -, h7, hm⟩ := hr
  rw [← readSync_mode _ off] at h7
  unfold State.seenAt at hw ⊢
  generalize (s.at b.t).readSync off = u at *
  unfold State.writable at hw
  unfold State.writeWord
  rw [if_neg (by rintro (h | ⟨h, -⟩) <;> contradiction), if_neg (by omega), if_neg hs]
  split at hw
  case h_2 => cases hw
  case h_1 r he =>
    rw [he]
    simp only [Bool.and_eq_true, Bool.not_eq_true'] at hw
    obtain ⟨⟨⟨w1, w2⟩, w3⟩, w4⟩ := hw
    dsimp only
    rw [w1, w2, w3, w4]
    simp

/-- A read that reaches the registers is a read of its word. -/
theorem reaches_busRead {s : State} {b : Bus} (h : s.reaches b) (off : Nat) (ha : off % 4 = 0) :
    s.busRead b off 4 = ((s.at b.t).readSync off).readWord b.m off := by
  obtain ⟨h1, h2, -, -⟩ := h
  have hu : (s.at b.t).busUp = true := by unfold State.busUp; rw [h1, h2]; rfl
  unfold State.busRead
  dsimp only
  have e : (off + 4 - 1) / 4 + 1 - off / 4 = 1 := by omega
  have e2 : 4 * (off / 4) = off := by omega
  rw [if_pos hu, accessWake_zero _ h2, e]
  simp [List.range_succ, e2]

/-! ### Words -/

theorem mergeWord_bit (old v : Word) (m i : Nat) (h : i < 32) :
    (mergeWord old v m).getLsbD i = if m.testBit i then v.getLsbD i else old.getLsbD i := by
  unfold mergeWord
  simp only [BitVec.getLsbD_or, BitVec.getLsbD_and, BitVec.getLsbD_not, BitVec.getLsbD_ofNat, h, decide_true, Bool.true_and]
  cases m.testBit i <;> simp

theorem of_bit (f : FRef) (w : Word) (i : Nat) (h : i < f.w) : (f.of w).testBit i = w.getLsbD (f.lo + i) := by
  unfold FRef.of
  rw [Nat.testBit_mod_two_pow, decide_eq_true h, Bool.true_and, Nat.testBit_div_two_pow, BitVec.getLsbD, Nat.add_comm]

theorem of_lt (f : FRef) (w : Word) : f.of w < 2 ^ f.w := Nat.mod_lt _ (by positivity)

/-- Two words that agree in the bits of a field agree in the field. -/
theorem of_congr (f : FRef) (a b : Word) (h : ∀ i < f.w, a.getLsbD (f.lo + i) = b.getLsbD (f.lo + i)) : f.of a = f.of b := by
  apply Nat.eq_of_testBit_eq
  intro i
  by_cases hi : i < f.w
  · rw [of_bit f a i hi, of_bit f b i hi, h i hi]
  · rw [Nat.testBit_lt_two_pow (lt_of_lt_of_le (of_lt f a) (Nat.pow_le_pow_right (by omega) (by omega))),
      Nat.testBit_lt_two_pow (lt_of_lt_of_le (of_lt f b) (Nat.pow_le_pow_right (by omega) (by omega)))]

/-- A field that stores takes the bits written. -/
theorem of_merge_stored (f : FRef) (old v : Word) (m : Nat) (h : f.lo + f.w ≤ 32) (hm : m / 2 ^ f.lo % 2 ^ f.w = 2 ^ f.w - 1) :
    f.of (mergeWord old v m) = f.of v := by
  apply of_congr
  intro i hi
  rw [mergeWord_bit _ _ _ _ (by omega)]
  have : m.testBit (f.lo + i) = true := by
    have e : (m / 2 ^ f.lo % 2 ^ f.w).testBit i = true := by
      rw [hm, Nat.testBit_two_pow_sub_one, decide_eq_true hi]
    rw [Nat.testBit_mod_two_pow, decide_eq_true hi, Bool.true_and, Nat.testBit_div_two_pow, Nat.add_comm] at e
    exact e
  rw [this]; rfl

/-- A field that does not store keeps its bits. -/
theorem of_merge_kept (f : FRef) (old v : Word) (m : Nat) (h : f.lo + f.w ≤ 32) (hm : m / 2 ^ f.lo % 2 ^ f.w = 0) :
    f.of (mergeWord old v m) = f.of old := by
  apply of_congr
  intro i hi
  rw [mergeWord_bit _ _ _ _ (by omega)]
  have : m.testBit (f.lo + i) = false := by
    have e : (m / 2 ^ f.lo % 2 ^ f.w).testBit i = false := by rw [hm, Nat.zero_testBit]
    rw [Nat.testBit_mod_two_pow, decide_eq_true hi, Bool.true_and, Nat.testBit_div_two_pow, Nat.add_comm] at e
    exact e
  rw [this]; rfl

/-! ### The register file after a write -/

/-- The word of a register that is written. -/
theorem tget_rwrite_same (r : Tab Word) (off : Nat) (v : Word) (spec : RegSpec) (h : regAt off = some spec) :
    tget (resetOf off) (rwrite r off v) off = mergeWord (tget (resetOf off) r off) v (spec.mask accStores) := by
  unfold rwrite
  rw [h]
  exact tget_tput_same _ _ _ _

theorem w1c_reg_ne (s : State) (off o : Nat) (v : Word) (h : o ≠ off) : (s.w1c off v).reg o = s.reg o := by
  unfold State.w1c
  split
  · exact reg_setReg_ne _ _ _ _ h
  · rfl

/-- The word of a register that is written, bit by bit: storing fields, W1C bits, the rest. -/
theorem wrote_bit (s : State) (off : Nat) (v : Word) (i : Nat) (h : i < 32) :
    (tget (resetOf off) (rwrite (s.w1c off v).regs off v) off).getLsbD i =
      if fieldBit off accStores i then v.getLsbD i
      else (s.reg off).getLsbD i && !(fieldBit off (fun a => a == .w1c) i && v.getLsbD i && !(s.freshBits off).testBit i) := by
  unfold fieldBit
  split
  case h_1 r he =>
    rw [tget_rwrite_same _ _ _ _ he, mergeWord_bit _ _ _ _ h]
    have e : tget (resetOf off) (s.w1c off v).regs off
        = s.reg off &&& ~~~ (v &&& BitVec.ofNat 32 (r.mask (fun a => a == .w1c)) &&& ~~~ BitVec.ofNat 32 (s.freshBits off)) := by
      unfold State.w1c
      rw [he]
      exact reg_setReg_same _ _ _
    rw [e]
    split
    · rfl
    · simp only [BitVec.getLsbD_and, BitVec.getLsbD_not, BitVec.getLsbD_ofNat, h, decide_true, Bool.true_and]
      rw [Bool.and_comm (v.getLsbD i)]
  case h_2 he =>
    unfold rwrite State.w1c
    rw [he]
    simp
    rfl

/-- The state after a word is stored, before the block acts. -/
def State.stored (s : State) (off : Nat) (v : Word) : State :=
  { s.w1c off v with regs := rwrite (s.w1c off v).regs off v }

theorem stored_reg_ne (s : State) (off o : Nat) (v : Word) (h : o ≠ off) : (s.stored off v).reg o = s.reg o := by
  show tget _ (rwrite _ _ _) o = _
  rw [tget_rwrite_ne _ _ _ _ h]; exact w1c_reg_ne _ _ _ _ h

theorem stored_get_ne (s : State) (off : Nat) (v : Word) (f : FRef) (h : f.off ≠ off) : (s.stored off v).get f = s.get f := by
  rw [get_eq, get_eq, stored_reg_ne _ _ _ _ h]

theorem stored_bit (s : State) (off : Nat) (v : Word) (i : Nat) (h : i < 32) :
    ((s.stored off v).reg off).getLsbD i = if fieldBit off accStores i then v.getLsbD i
      else (s.reg off).getLsbD i && !(fieldBit off (fun a => a == .w1c) i && v.getLsbD i && !(s.freshBits off).testBit i) := wrote_bit s off v i h

/-- A storing field of the register holds what was written. -/
theorem stored_get (s : State) (f : FRef) (v : Word) (h : f.lo + f.w ≤ 32)
    (hb : ∀ i < f.w, fieldBit f.off accStores (f.lo + i) = true) : (s.stored f.off v).get f = f.of v := by
  rw [get_eq]
  apply of_congr
  intro i hi
  rw [stored_bit _ _ _ _ (by omega), hb i hi, if_pos rfl]

/-- A field of the register that neither stores nor clears keeps its value. -/
theorem stored_get_kept (s : State) (f : FRef) (v : Word) (h : f.lo + f.w ≤ 32)
    (hb : ∀ i < f.w, fieldBit f.off accStores (f.lo + i) = false ∧ fieldBit f.off (fun a => a == .w1c) (f.lo + i) = false) :
    (s.stored f.off v).get f = s.get f := by
  rw [get_eq, get_eq]
  apply of_congr
  intro i hi
  rw [stored_bit _ _ _ _ (by omega), (hb i hi).1, (hb i hi).2]
  simp

theorem stored_only {C : Comp → Prop} {base s : State} (hk : OnlyP C base s) (off : Nat) (v : Word) (hr : C .regs) :
    OnlyP C base (s.stored off v) := by
  intro c hc
  have h := w1c_only hk off v hr c hc
  cases c <;> first | exact h | exact absurd hr hc

/-- What a taken write comes to, block by block. -/
theorem wrote_plain (s : State) (off : Nat) (v : Word) (h : off / 65536 ∈ [0, 10, 14, 16, 17]) : s.wrote off v = s.stored off v := by
  unfold State.wrote
  rw [if_neg (by intro h1; subst h1; revert h; decide), if_neg (by intro h1; rw [h1] at h; revert h; decide)]
  dsimp only
  generalize off / 65536 = k at h
  simp only [List.mem_cons, List.not_mem_nil, or_false] at h
  rcases h with rfl | rfl | rfl | rfl | rfl <;> rfl

theorem wrote_evt (s : State) (off : Nat) (v : Word) (h : off / 65536 = 8) :
    s.wrote off v = (s.stored off v).wroteEvt off (s.w1c off v).regs := by
  unfold State.wrote
  rw [if_neg (by intro h1; subst h1; revert h; decide), if_neg (by omega)]
  dsimp only
  rw [h]; rfl

theorem wrote_tim (s : State) (off : Nat) (v : Word) (h : off / 65536 = 2) :
    s.wrote off v = (s.stored off v).wroteTim off (s.w1c off v).regs v := by
  unfold State.wrote
  rw [if_neg (by intro h1; subst h1; revert h; decide), if_neg (by omega)]
  dsimp only
  rw [h]; rfl

theorem wrote_hif (s : State) (off : Nat) (v : Word) (h : off / 65536 = 11) :
    s.wrote off v = (s.stored off v).wroteHif off v := by
  unfold State.wrote
  rw [if_neg (by intro h1; subst h1; revert h; decide), if_neg (by omega)]
  dsimp only
  rw [h]; rfl

theorem wrote_pmc (s : State) (off : Nat) (v : Word) (h : off / 65536 = 12) :
    s.wrote off v = (s.stored off v).wrotePmc off (s.reg off) v := by
  unfold State.wrote
  rw [if_neg (by intro h1; subst h1; revert h; decide), if_neg (by omega)]
  dsimp only
  rw [h]; rfl

theorem wrote_mem (s : State) (off : Nat) (v : Word) (h : off / 65536 = 15) :
    s.wrote off v = (s.stored off v).wroteMem off v (s.reg off) := by
  unfold State.wrote
  rw [if_neg (by intro h1; subst h1; revert h; decide), if_neg (by omega)]
  dsimp only
  rw [h]; rfl

theorem wrote_trk (s : State) (off : Nat) (v : Word) (h : off / 65536 = 9) :
    s.wrote off v = (s.trkHold.w1c off v).trkWrite off v := by
  unfold State.wrote
  rw [if_neg (by intro h1; subst h1; revert h; decide), if_pos h]

end Sys2Proof.Machine
end

