-- ==== Sys2Proof/Laws/Step.lean ====
section
/-! SUPPORT. One step of any command: it answers a next state, and what every command keeps. -/

namespace Sys2Proof.Machine

set_option Elab.async false

variable {s s' : State}

/-- Every command answers a next state. -/
theorem exec_next (c : Instr) (s : State) : ∃ t, exec c s = .next t := by
  cases c <;> exact ⟨_, rfl⟩

/-- Every command but SAFE_HOLD_CLEAR keeps the queue, the direction of time and of the free values, the Safe-Hold latch and
the canonical form. -/
theorem exec_keeps (c : Instr) (hc : ∀ t, c ≠ .safeHoldClear t) (h : exec c s = .next s') : Keeps s s' := by
  cases c with
  | nop => exact execNop_keeps _ _ h
  | arm => exact execArm_keeps _ _ h
  | disarm => exact execDisarm_keeps _ _ h
  | acqCalibrate => exact execAcqCalibrate_keeps _ _ _ _ h
  | pmcCalibrate => exact execPmcCalibrate_keeps _ _ _ _ h
  | loadSchedule => exact execLoadSchedule_keeps _ _ _ _ h
  | unloadSchedule => exact execUnloadSchedule_keeps _ _ h
  | commit => exact execCommit_keeps _ _ _ _ h
  | commitCancel => exact execCommitCancel_keeps _ _ h
  | setMode => exact execSetMode_keeps _ _ _ _ h
  | setLatency => exact execSetLatency_keeps _ _ h
  | recover => exact execRecover_keeps _ _ h
  | faultInject => exact execFaultInject_keeps _ _ _ _ h
  | nvWrite => exact execNvWrite_keeps _ _ _ _ _ h
  | nvRead => exact execNvRead_keeps _ _ _ _ _ _ _ h
  | readReattachLog => exact execReadReattachLog_keeps _ _ _ h
  | spillDrain => exact execSpillDrain_keeps _ h
  | detach => exact execDetach_keeps _ h
  | streamFlush => exact execStreamFlush_keeps _ _ h
  | warmReset => exact execWarmReset_keeps _ _ h
  | alignArm => exact execAlignArm_keeps _ _ h
  | alignAbort => exact execAlignAbort_keeps _ _ h
  | qinLoad => exact execQinLoad_keeps _ _ _ h
  | clearIds => exact execClearIds_keeps _ _ _ h
  | pmcSeqStart => exact execPmcSeqStart_keeps _ _ h
  | pmcSeqStop => exact execPmcSeqStop_keeps _ _ h
  | pmcInjStart => exact execPmcInjStart_keeps _ _ _ h
  | pmcCalStart => exact execPmcCalStart_keeps _ _ h
  | weirLatchClear => exact execWeirLatchClear_keeps _ _ h
  | memInit => exact execMemInit_keeps _ _ h
  | memTestStart => exact execMemTestStart_keeps _ _ h
  | histDump => exact execHistDump_keeps _ _ h
  | epochLoWrite => exact execEpochLoWrite_keeps _ _ h
  | epochHiWrite => exact execEpochHiWrite_keeps _ _ h
  | snapshotRead => exact execSnapshotRead_keeps _ _ h
  | readClear => exact execReadClear_keeps _ _ _ h
  | qinPosRead => exact execQinPosRead_keeps _ _ h
  | msFifoRead => exact execMsFifoRead_keeps _ h
  | syncInDisable => exact execSyncInDisable_keeps _ _ h
  | trackIdWrite => exact execTrackIdWrite_keeps _ _ _ h
  | cmpValueWrite => exact execCmpValueWrite_keeps _ _ _ h
  | weirConfigWrite => exact execWeirConfigWrite_keeps _ _ _ _ h
  | pmcDisable => exact execPmcDisable_keeps _ _ h
  | ringEnable => exact execRingEnable_keeps _ _ _ _ h
  | ringDisable => exact execRingDisable_keeps _ _ _ _ h
  | ringStopped => exact execRingStopped_keeps _ _ _ h
  | cmdDoorbell => exact execCmdDoorbell_keeps _ _ _ h
  | cplDoorbell => exact execCplDoorbell_keeps _ _ _ h
  | strDoorbell => exact execStrDoorbell_keeps _ _ _ _ h
  | registerWrite => exact execRegisterWrite_keeps _ _ _ _ h
  | spiTransaction => exact execSpiTransaction_keeps _ _ _ _ _ h
  | refclkLoss => exact execRefclkLoss_keeps _ h
  | refclkReturn => exact execRefclkReturn_keeps _ h
  | pllLock => exact execPllLock_keeps _ h
  | timPllFail => exact execTimPllFail_keeps _ h
  | holdExpired => exact execHoldExpired_keeps _ h
  | ppsInEdge => exact execPpsInEdge_keeps _ _ h
  | ppsLoss => exact execPpsLoss_keeps _ h
  | syncInEdge => exact execSyncInEdge_keeps _ _ h
  | syncLoss => exact execSyncLoss_keeps _ h
  | syncOutPulse => exact execSyncOutPulse_keeps _ h
  | launchInEdge => exact execLaunchInEdge_keeps _ h
  | launchLate => exact execLaunchLate_keeps _ _ h
  | launch => exact execLaunch_keeps _ _ h
  | segmentEnd => exact execSegmentEnd_keeps _ _ h
  | gateWindowOpen => exact execGateWindowOpen_keeps _ _ _ h
  | gateWindowClose => exact execGateWindowClose_keeps _ _ _ h
  | envExceed => exact execEnvExceed_keeps _ _ h
  | dutyWindowEnd => exact execDutyWindowEnd_keeps _ _ h
  | armSelftestDone => exact execArmSelftestDone_keeps _ _ _ h
  | armedEntry => exact execArmedEntry_keeps _ _ h
  | disarmTakeEffect => exact execDisarmTakeEffect_keeps _ _ h
  | safeNFall => exact execSafeNFall_keeps _ h
  | safeNRise => exact execSafeNRise_keeps _ h
  | acqCalPhaseEnd => exact execAcqCalPhaseEnd_keeps _ _ h
  | acqCalDone => exact execAcqCalDone_keeps _ _ h
  | bgCalBlockEnd => exact execBgCalBlockEnd_keeps _ _ _ h
  | iqBlindBlockEnd => exact execIqBlindBlockEnd_keeps _ _ _ _ _ h
  | darkBlockEnd => exact execDarkBlockEnd_keeps _ _ _ h
  | acqChFail => exact execAcqChFail_keeps _ _ _ h
  | shotProcessed => exact execShotProcessed_keeps _ _ _ _ h
  | acfOutput => exact execAcfOutput_keeps _ _ h
  | ramanShotAccumulate => exact execRamanShotAccumulate_keeps _ _ _ _ h
  | accumulationEnd => exact execAccumulationEnd_keeps _ _ h
  | dtsEndComputation => exact execDtsEndComputation_keeps _ _ h
  | energyIntervalEnd => exact execEnergyIntervalEnd_keeps _ _ h
  | encoderEdge => exact execEncoderEdge_keeps _ _ _ _ h
  | cmpPulseEnd => exact execCmpPulseEnd_keeps _ _ h
  | indexPulse => exact execIndexPulse_keeps _ _ _ h
  | encoderStall => exact execEncoderStall_keeps _ _ h
  | countHistoryRecord => exact execCountHistoryRecord_keeps _ _ h
  | msEdge => exact execMsEdge_keeps _ _ _ _ h
  | ssiFrameStart => exact execSsiFrameStart_keeps _ _ _ h
  | ssiFrameEnd => exact execSsiFrameEnd_keeps _ _ _ _ h
  | encTargetUpdate => exact execEncTargetUpdate_keeps _ _ h
  | encStep => exact execEncStep_keeps _ _ h
  | frameWorkDone => exact execFrameWorkDone_keeps _ _ h
  | divert => exact execDivert_keeps _ _ h
  | commitLock => exact execCommitLock_keeps _ _ h
  | commitApply => exact execCommitApply_keeps _ _ h
  | frameDeliver => exact execFrameDeliver_keeps _ _ h
  | frameRelease => exact execFrameRelease_keeps _ _ h
  | drainFrame => exact execDrainFrame_keeps _ _ h
  | coalesceTimeout => exact execCoalesceTimeout_keeps _ _ h
  | fetchError => exact execFetchError_keeps _ _ _ h
  | linkDown => exact execLinkDown_keeps _ h
  | linkUp => exact execLinkUp_keeps _ _ _ h
  | perstNAssert => exact execPerstNAssert_keeps _ h
  | pmcTrigger => exact execPmcTrigger_keeps _ _ h
  | pmcResult => exact execPmcResult_keeps _ _ h
  | pmcInjHwTrigger => exact execPmcInjHwTrigger_keeps _ _ _ h
  | pmcInjResult => exact execPmcInjResult_keeps _ _ h
  | pmcCalDone => exact execPmcCalDone_keeps _ _ _ h
  | refFail => exact execRefFail_keeps _ _ h
  | dieTempUpdate => exact execDieTempUpdate_keeps _ _ h
  | weirCrossing => exact execWeirCrossing_keeps _ _ _ h
  | weirAutoClear => exact execWeirAutoClear_keeps _ _ h
  | weirSettleEnd _ m => exact execWeirSettleEnd_keeps _ m h
  | resolved => exact execResolved_keeps _ _ _ h
  | rbCheck => exact execRbCheck_keeps _ _ _ h
  | rbStale => exact execRbStale_keeps _ _ _ h
  | vddA18Return => exact execVddA18Return_keeps _ h
  | faultCapture => exact execFaultCapture_keeps _ _ h
  | wireFault => exact execWireFault_keeps _ _ h
  | windowClose => exact execWindowClose_keeps _ h
  | injectionWindowEnd => exact execInjectionWindowEnd_keeps _ _ h
  | fltSelftest => exact execFltSelftest_keeps _ _ h
  | polWdt => exact execPolWdt_keeps _ h
  | appWdt => exact execAppWdt_keeps _ h
  | refreshTick => exact execRefreshTick_keeps _ _ h
  | refreshWindow => exact execRefreshWindow_keeps _ _ h
  | mr4Poll => exact execMr4Poll_keeps _ _ _ h
  | srEnter => exact execSrEnter_keeps _ _ h
  | srExit => exact execSrExit_keeps _ _ _ _ h
  | eyeMonitorRound => exact execEyeMonitorRound_keeps _ _ _ h
  | scrubPass => exact execScrubPass_keeps _ _ h
  | bermInitDone => exact execBermInitDone_keeps _ h
  | memInitDone => exact execMemInitDone_keeps _ h
  | testRunDone => exact execTestRunDone_keeps _ _ h
  | histDone => exact execHistDone_keeps _ h
  | ladderEntry => exact execLadderEntry_keeps _ h
  | ladderExit => exact execLadderExit_keeps _ h
  | barAccessWake => exact execBarAccessWake_keeps _ h
  | wakeN => exact execWakeN_keeps _ h
  | rtcAlarm => exact execRtcAlarm_keeps _ h
  | powerSequenceStep => exact execPowerSequenceStep_keeps _ _ h
  | railFail => exact execRailFail_keeps _ h
  | bootStepDone => exact execBootStepDone_keeps _ _ h
  | porstNAssert => exact execPorstNAssert_keeps _ h
  | porstNRelease => exact execPorstNRelease_keeps _ h
  | vddAonRise => exact execVddAonRise_keeps _ h
  | vddAonFall => exact execVddAonFall_keeps _ h
  | safeHoldClear t => exact absurd rfl (hc t)
  | pwrUvRail => exact execPwrUvRail_keeps _ _ h
  | weirGateOpen => exact execWeirGateOpen_keeps _ _ h
  | sourceCleared => exact execSourceCleared_keeps _ _ h
  | perstNRelease => exact execPerstNRelease_keeps _ h
  | pcieReceiverDetected => exact execPcieReceiverDetected_keeps _ h
  | nvWriteDone => exact execNvWriteDone_keeps _ _ h
  | loadScheduleDone => exact execLoadScheduleDone_keeps _ h
  | completionConfirmed => exact execCompletionConfirmed_keeps _ _ h
  | appCoresReleased => exact execAppCoresReleased_keeps _ h
  | launchOutRise => exact execLaunchOutRise_keeps _ _ h

end Sys2Proof.Machine
end

