-- ==== Sys2Proof/Tests/Slice0.lean ====
section
/-! SUPPORT. The model's own tests: ill-formed commands are refused by WellFormed; and for every statement of the
obligations a state and operands that meet its hypotheses, clause by clause, with what the clause says at that point.
Expected values are worked out by hand from the rules named. -/

namespace Sys2Proof.Tests

open Sys2Proof Sys2Proof.Machine

-- One theorem at a time: their evaluations in parallel would need too many threads at once.
set_option Elab.async false

/-- The state a command leads to. -/
def after (c : Instr) (s : State) : State :=
  match exec c s with
  | .next t => t
  | .fault _ => s
  | .refused _ => s

/-- Reset with the boot ended, in a mode at L0, and some fields set. -/
def up (m : Nat) (l : List (FRef × Nat)) : State :=
  { (((PWR_MODE_MODE, m) :: (PWR_MODE_LADDER, 0) :: l).foldl (fun s p => s.set p.1 p.2) State.reset) with
    pwr := { PwrSt.init with step := 0, appUp := true } }

/-- Fields of an attached host with command ring 0 (one descriptor waiting) and completion ring 0 running, 16 entries each. -/
def ringsOn : List (FRef × Nat) :=
  [(HIF_STATUS_ATTACH, 0), (HIF_STATUS_LINK_UP, 1), (HIF_CMD_CTL_STATE 0, 1), (HIF_CMD_TAIL_INDEX 0, 1),
    (HIF_CMD_CTL_SIZE_LOG2 0, 4), (HIF_CPL_CTL_STATE 0, 1), (HIF_CPL_CTL_SIZE_LOG2 0, 4), (HIF_CPL_BASE_LO_BASE 0, 0x1000)]

def ready (m : Nat) (l : List (FRef × Nat)) : State := up m (ringsOn ++ l)

def hdr : Hdr := ⟨5, 0, 7, 0xABCD, false, false, false⟩
def host : Bus := ⟨5, .host⟩

/-- Is the newest entry of a request's window its completion with this result and value? -/
def answered (s : State) (result value : Nat) : Bool :=
  decide ((s.ring hdr.ring).dup.head? = some ⟨hdr.reqId, result, value, true, []⟩)

/-- Does a descriptor start, with no code that rejects it? -/
def startsAt (h : Hdr) (s : State) (op : Nat) (bad : Option Nat) : Bool :=
  (s.at h.t).canStart h op && ((s.fetchedAt h).entry h).isNone && ((s.fetchedAt h).rejectCode h op bad).isNone

def starts (s : State) (op : Nat) (bad : Option Nat) : Bool := startsAt hdr s op bad

def runs (s : State) (op : Nat) : Bool := decide (cmdOf hdr op ∈ (s.ring 0).running)

/-! ### Ill-formed commands -/

/-- One ill-formed descriptor or register action for each check of WellFormed. -/
theorem test_wf_refuses_descriptors :
    ([.nop { hdr with ring := 20 } 0, .nop hdr 0x0101, .nop hdr 65536, .arm hdr 256, .disarm hdr 256, .acqCalibrate hdr (2 ^ 32) true false,
      .pmcCalibrate hdr 256 true false, .loadSchedule hdr (2 ^ 64) 0 none, .loadSchedule hdr 0 (2 ^ 32) none,
      .loadSchedule hdr 0 64 (some ⟨true, [], [], [], [], [], [], true⟩),
      .loadSchedule hdr 0 64 (some ⟨true, List.replicate 64 0, [[0]], [(0, 0)], [], [], [], true⟩),
      .loadSchedule hdr 0 64 (some ⟨true, List.replicate 64 0, [], [(0, 0)], [], [], [], true⟩),
      .loadSchedule hdr 0 64 (some ⟨true, List.replicate 64 0, [], [], [(0, 4)], [], [], true⟩),
      .loadSchedule hdr 0 64 (some ⟨true, List.replicate 64 0, [], [], [], [⟨true, 4, .phase, 0, 64⟩], [], true⟩),
      .unloadSchedule hdr 256, .commit hdr (2 ^ 64) 0 none, .commit hdr 0 2 (some [0]), .commitCancel { hdr with ring := 20 } 0,
      .setMode hdr 256 0 none, .setMode hdr 0 (2 ^ 64) none, .setMode hdr 0 64 (some ⟨[0], true⟩),
      .setLatency { hdr with ring := 20 } 0, .recover hdr (2 ^ 32), .faultInject hdr 256 0 0, .faultInject hdr 0 256 0,
      .faultInject hdr 0 0 (2 ^ 32), .nvWrite hdr 0 (2 ^ 32) 0 none, .nvWrite hdr (2 ^ 64) 0 0 none, .nvWrite hdr 0 0 8 (some [0]),
      .nvRead hdr (2 ^ 64) 0 0 true 0 none, .nvRead hdr 0 (2 ^ 32) 0 true 0 none, .nvRead hdr 0 0 8 true 0 (some 1),
      .readReattachLog hdr (2 ^ 64) 0, .spillDrain { hdr with ring := 20 }, .detach { hdr with ring := 20 },
      .streamFlush { hdr with ring := 20 } 0] : List Instr).all (fun c => !c.wf) = true := by decide +kernel

/-- One ill-formed access or event for each check of WellFormed. -/
theorem test_wf_refuses_accesses_and_events :
    ([.warmReset host 0, .alignArm host 0, .alignAbort host 0, .clearIds host 0 0, .pmcSeqStart host 0, .pmcSeqStop host 0,
      .pmcInjStart host 0 0, .pmcCalStart host 0, .weirLatchClear host 0, .weirLatchClear host 65536, .memInit host 0,
      .memTestStart host 0, .histDump host 0, .snapshotRead host 0, .readClear host 0 0, .readClear host 0 9,
      .readClear host 0x2000025 4, .syncInDisable host 0xFFFFFFFF, .pmcDisable host 0xFFFFFFFF, .ringEnable host .cmd 0 0,
      .ringEnable host .cmd 16 1, .ringDisable host .cpl 0 1, .ringDisable host .str 32 0, .ringStopped 0 .cpl 16,
      .strDoorbell host 0 0 (List.replicate 65536 ⟨0, 0⟩), .registerWrite host 0 0 0, .registerWrite host 0 9 0,
      .registerWrite host 0x2000025 4 0, .spiTransaction 0 0x80 0 [0] 1, .spiTransaction 0 0 0 [0] 1,
      .acqCalDone 0 ⟨[(24, ⟨List.replicate 16 0, 0, 0⟩)], [], true⟩, .acqCalDone 0 ⟨[(0, ⟨[], 0, 0⟩)], [], true⟩,
      .acqCalDone 0 ⟨[], [(8, 0, 0)], true⟩, .bgCalBlockEnd 0 0 [8192], .darkBlockEnd 0 0 [-32769], .acqChFail 5 0 6,
      .shotProcessed 0 0 [] [.bermSingle 64 0], .shotProcessed 0 0 [] [.bermDouble 0 16384], .shotProcessed 0 0 [] [.dramSingle 4],
      .drainFrame 0 [.dramDouble 4], .drainFrame 0 [.linkEcc 4], .ramanShotAccumulate 0 0 [1] [], .msEdge 5 0 true 6,
      .fetchError 0 .str 32, .linkUp 0 8 0, .linkUp 0 0 8, .pmcCalDone 0 [⟨8, 0, 0⟩] true, .srExit 0 0 true 9,
      .scrubPass 0 [.bermSingle 0 16384], .bootStepDone 0 ⟨true, true, true, 0, 0, false, 0, true, [], [], [], 8⟩,
      .bootStepDone 0 ⟨true, true, true, 0, 0, false, 0, true, [], [],
        [⟨true, [], [], [], [], [], [], true⟩], 3⟩] : List Instr).all (fun c => !c.wf) = true := by decide +kernel

/-- Well-formed neighbours of some of them are accepted. -/
theorem test_wf_accepts :
    ([.nop { hdr with ring := 19 } 0, .nop hdr 0x0700, .arm hdr 255, .setMode hdr 3 64 (some ⟨List.replicate 32 0, true⟩),
      .nvRead hdr 0 0 16 true 0 (some 1), .alignArm host 1, .weirLatchClear host 1, .readClear host 0x28 1, .srExit 0 3 true 8,
      .ringEnable host .str 31 1, .spiTransaction 0 0x80 0 [] 1, .linkUp 0 7 7] : List Instr).all (fun c => c.wf) = true := by
  decide +kernel

/-! ### The queue and the whole machine -/

/-- A queue of two, and an empty one (StepRunsFrontCommand); a canonical state whose step answers (StepKeepsCanonicalForm). -/
theorem witness_step :
    (up 3 []).wf = true ∧ ({ up 3 [] with pending := [.refclkLoss 5, .pllLock 6] } : State).pending = .refclkLoss 5 :: [.pllLock 6] ∧
      (match step { up 3 [] with pending := [.refclkLoss 5, .pllLock 6] } with
        | .next t => t.wf && t.pending == [.pllLock 6] && t.now == 5
        | _ => false) = true := by decide +kernel

/-- A latched machine and a command that is not SAFE_HOLD_CLEAR (LatchLeftOnlyByClear); the latch falls without VDD_AON
only. -/
theorem witness_latch :
    (let s : State := { up 7 [] with flt := { FltSt.init with faultN := true } }
     s.latched = true ∧ (after (.porstNAssert 5) s).latched = true ∧ (after (.safeHoldClear 5) s).latched = true ∧
      (s.at 9).pwr.aon = true ∧
      (after (.safeHoldClear 9) { s with pwr := { s.pwr with aon := false } }).latched = false) := by decide +kernel

/-- SAFE_HOLD at L0 (SafeHoldIgnoresWrites): a legal write stores nothing. -/
theorem witness_safe_hold :
    ((up 7 []).at 5).mode = 7 ∧ ((up 7 []).at 5).ladder = 0 ∧
      (after (.epochLoWrite host 9) (up 7 [])).get TIM_EPOCH_LO_EPOCH = 0 ∧
      (after (.epochLoWrite host 9) (up 2 [])).get TIM_EPOCH_LO_EPOCH = 9 := by decide +kernel

/-! ### Descriptor rings -/

/-- FENCE behind a running command (UnstartableDescriptorWaits). -/
theorem witness_unstartable :
    descOf (.nop { hdr with fence := true } 0) = some ({ hdr with fence := true }, 0, none) ∧
      ((after (.faultInject hdr 20 0 5000) (ready 5 [(HIF_CMD_TAIL_INDEX 0, 2)])).at 5).canStart { hdr with fence := true } 0 = false ∧
      ((after (.faultInject hdr 20 0 5000) (ready 5 [(HIF_CMD_TAIL_INDEX 0, 2)])).at 5).canStart hdr 0 = true := by decide +kernel

/-- A request already answered, and one still running (DuplicateIsAnsweredFromTheWindow). -/
theorem witness_duplicate :
    (let s := after (.setLatency hdr 0) (ready 3 [(HIF_CMD_TAIL_INDEX 0, 2)])
     let r := after (.faultInject hdr 20 0 5000) (ready 5 [(HIF_CMD_TAIL_INDEX 0, 2)])
     descOf (.nop hdr 0) = some (hdr, 0, none) ∧ (s.at 5).canStart hdr 0 = true ∧
      ((s.fetchedAt hdr).entry hdr).any (fun e => e.done) = true ∧ (r.at 5).canStart hdr 0 = true ∧
      ((r.fetchedAt hdr).entry hdr).any (fun e => !e.done) = true) := by decide +kernel

/-- An unknown opcode is rejected with code 1, FE 4 with code 3 (MalformedDescriptorIsRejected). -/
theorem witness_malformed :
    descOf (.nop hdr 0x0700) = some (hdr, 0x0700, some 1) ∧ ((ready 3 []).at 5).canStart hdr 0x0700 = true ∧
      ((ready 3 []).fetchedAt hdr).entry hdr = none ∧ ((ready 3 []).fetchedAt hdr).rejectCode hdr 0x0700 (some 1) = some 1 ∧
      ((ready 3 []).fetchedAt hdr).rejectCode hdr 0x0101 (some 3) = some 3 := by decide +kernel

/-- What starts and completes at once; the two lengths of READ_REATTACH_LOG, and SPILL_DRAIN in HOLD and out of it
(ImmediateCommandsComplete). -/
theorem witness_immediate :
    starts (ready 3 []) 0 none = true ∧ answered (after (.nop hdr 0) (ready 3 [])) 0 0 = true ∧
      starts (ready 3 []) 0x0402 none = true ∧ starts (ready 3 []) 0x0601 (badAddr 0x1000 false) = true ∧
      answered (after (.readReattachLog hdr 0x1000 9280) (ready 3 [])) 0 9280 = true ∧
      answered (after (.readReattachLog hdr 0x1000 9279) (ready 3 [])) 1 0 = true ∧
      starts (ready 3 []) 0x0603 none = true ∧ starts (ready 3 []) 0x0604 none = true ∧
      starts (ready 3 [(HIF_STATUS_ATTACH, 2)]) 0x0602 none = true ∧
      ((ready 3 [(HIF_STATUS_ATTACH, 2)]).begun hdr 0x0602).attach = 2 ∧
      (after (.spillDrain hdr) (ready 3 [(HIF_STATUS_ATTACH, 2)])).attach = 0 ∧
      starts (ready 3 []) 0x0602 none = true ∧ answered (after (.spillDrain hdr) (ready 3 [])) 1 0 = true := by decide +kernel

/-- ARM with no envelope stored (code 4) and of an arming engine (code 2) (ArmAndDisarmActOrComplete). -/
theorem witness_arm :
    starts (ready 3 []) 0x0101 none = true ∧ (((ready 3 []).begun hdr 0x0101).armCode 0).1 = 4 ∧
      (after (.arm hdr 0) (ready 3 [])).get (LNC_ARM_RESULT_CODE 0) = 4 ∧
      (((ready 3 [(LNC_STATUS_STATE 3, 1)]).begun hdr 0x0101).armCode 3).1 = 2 := by decide +kernel

/-- Settings with which fibre engine 0 passes every check of R78 in grid mode, its admitted image, and the machine with
both. -/
def armable : List (FRef × Nat) :=
  [(LNC_ENV_CTL_VALID 0, 1), (TIM_STATUS_GT_VALID, 1), (TIM_STATUS_CLK_STATE, 2), (LNC_ENV_DUTY_MAX_SAMPLES 0, 256),
    (PHS_NBINS_NBINS 0, 100), (LNC_SEG_LEN_LEN 0 0, 128), (ACQ_CCH_CFG_EN 0, 1), (ACQ_CCH_CFG_EN 1, 1), (ACQ_CCH_CFG_EN 2, 1), (ACQ_CCH_CFG_EN 3, 1)]

def part0 : FePart := ⟨0, 0, 65536, 16384, 4096, 4, 8, 1, 3, 256, 0, 0, 0, 0, 0, 0, 0, 0, 0, 1000000, 0, 0, 0, 0, 0⟩

def imaged (s : State) : State :=
  let i : Image := ⟨1, 0, 0, 0, 0, 0, 0, 0, [part0], [], [], [], ⟨true, [], [], [], [], [], [], true⟩⟩
  { s with sch := { s.sch with img := s.sch.img.set 0 (some i) } }

def arming : State := after (.arm hdr 0) (imaged (ready 3 armable))

/-- ARM of an engine that passes every check: it is ARMING and the command runs. -/
theorem witness_arm_accepted :
    starts (imaged (ready 3 armable)) 0x0101 none = true ∧ (((imaged (ready 3 armable)).begun hdr 0x0101).armCode 0).1 = 0 ∧
      arming.lstate 0 = 1 ∧ runs arming 0x0101 = true ∧ ((arming.f 0).arm.map (·.p)) = some 5 := by decide +kernel

/-- DISARM of an engine that is SAFE, TRIPPED, ARMED with and without a disarm pending, and ARMING. -/
theorem witness_disarm :
    (let p : State := (ready 3 [(LNC_STATUS_STATE 0, 2)]).modF 0 (fun f => { f with disarm := some ⟨[], 9⟩ })
     starts (ready 3 []) 0x0102 none = true ∧ answered (after (.disarm hdr 0) (ready 3 [])) 0 0 = true ∧
      starts (ready 3 [(LNC_STATUS_STATE 3, 3)]) 0x0102 none = true ∧
      (after (.disarm hdr 3) (ready 3 [(LNC_STATUS_STATE 3, 3)])).lstate 3 = 0 ∧
      starts p 0x0102 none = true ∧ (p.begun hdr 0x0102).lstate 0 = 2 ∧ ((p.begun hdr 0x0102).f 0).disarm = some ⟨[], 9⟩ ∧
      ((after (.disarm hdr 0) p).f 0).disarm = some ⟨[cmdOf hdr 0x0102], 9⟩ ∧
      starts (ready 3 [(LNC_STATUS_STATE 0, 2)]) 0x0102 none = true ∧
      ((after (.disarm hdr 0) (ready 3 [(LNC_STATUS_STATE 0, 2)])).f 0).disarm = some ⟨[cmdOf hdr 0x0102], 1005⟩ ∧
      starts (ready 3 [(LNC_STATUS_STATE 0, 1)]) 0x0102 none = true ∧
      (after (.disarm hdr 0) (ready 3 [(LNC_STATUS_STATE 0, 1)])).lstate 0 = 0) := by decide +kernel

/-- Calibrations that start, and that find one running or the converter off (CalibrationsStartOrAreRefused). -/
theorem witness_calibrate :
    (let on : List (FRef × Nat) := [(PMC_CTL_EN, 1)]
     let busy := after (.acqCalibrate hdr 1 false true) (ready 2 [(HIF_CMD_TAIL_INDEX 0, 2)])
     let pbusy := after (.pmcCalibrate hdr 1 false true) (ready 2 ((HIF_CMD_TAIL_INDEX 0, 2) :: on))
     let h2 := { hdr with reqId := 8 }
     starts (ready 2 []) 0x0201 none = true ∧ ((ready 2 []).begun hdr 0x0201).acq.cal = none ∧
      ((ready 2 []).begun hdr 0x0201).busyFe 3 = false ∧ (busy.at 5).canStart h2 0x0201 = true ∧ (busy.begun h2 0x0201).acq.cal.isSome = true ∧
      (after (.acqCalibrate h2 1 false false) busy).get ACQ_CAL_RESULT_CODE = 3 ∧
      starts (ready 2 []) 0x0202 none = true ∧ ((ready 2 []).begun hdr 0x0202).pmcOn = false ∧
      (after (.pmcCalibrate hdr 0 false true) (ready 2 [])).get PMC_CAL_RESULT_CODE = 2 ∧
      starts (ready 2 on) 0x0202 none = true ∧ ((ready 2 on).begun hdr 0x0202).pmcOn = true ∧
      (after (.pmcCalibrate hdr 255 true false) (ready 2 on)).pmc.cal.isSome = true ∧
      (pbusy.at 5).canStart h2 0x0202 = true ∧ (pbusy.begun h2 0x0202).pmc.cal.isSome = true ∧
      (after (.pmcCalibrate h2 1 false true) pbusy).get PMC_CAL_RESULT_CODE = 3) := by decide +kernel

/-- Loads and unloads, the first alone and the second while it runs (ScheduleCommandsStart). -/
theorem witness_schedule :
    (let busy := after (.loadSchedule hdr 64 0 none) (ready 3 [(HIF_CMD_TAIL_INDEX 0, 2)])
     starts (ready 3 []) 0x0301 none = true ∧ ((ready 3 []).begun hdr 0x0301).sch.loading = none ∧
      starts (ready 3 []) 0x0302 none = true ∧ (after (.unloadSchedule hdr 3) (ready 3 [])).sch.loading.isSome = true ∧
      busy.sch.loading.isSome = true ∧ (busy.at 5).canStart { hdr with reqId := 8 } 0x0301 = true ∧
      (after (.loadSchedule { hdr with reqId := 8 } 64 0 none) busy).get SCH_LOAD_RESULT_CODE = 2) := by decide +kernel

/-- A commit list: one entry, BOUNDARY at grid time 10^6, a write of PMC.GRID_PERIOD (R392). -/
def commitBytes : List Byte :=
  leBytes 2 1 ++ leBytes 1 1 ++ leBytes 1 0 ++ leBytes 4 0 ++ leBytes 8 1000000 ++
    leBytes 4 0 ++ leBytes 4 PMC_GRID_PERIOD ++ leBytes 4 5000 ++ leBytes 4 0

/-- The machine with that group staged, and a second descriptor waiting. -/
def staged : State := after (.commit hdr 64 32 (some commitBytes)) (ready 3 [(HIF_CMD_TAIL_INDEX 0, 2)])

/-- A list that passes every check, none, and a cancel that finds the group and one that finds none
(CommitStagesAndCancelWithdraws). -/
theorem witness_commit :
    (let b := (ready 3 []).begun hdr 0x0303
     let a := b.ahead b.sch.staged
     let h2 := { hdr with reqId := 8 }
     starts (ready 3 []) 0x0303 none = true ∧ b.commitPre a none = 3 ∧ b.commitPre a (commitParse 32 commitBytes) = 0 ∧
      b.freeGroup = some 0 ∧ (commitParse 32 commitBytes).any (fun l => (b.groupCode (b.groupOf a (cmdOf hdr 0x0303) l)).1 == 0 &&
        b.lateOk a l (b.groupOf a (cmdOf hdr 0x0303) l).tb) = true ∧
      answered staged 0 0 = true ∧ staged.get SCH_EVENTS_CMT_STAGED = 1 ∧ (staged.at 5).canStart h2 0x0304 = true ∧
      (after (.commitCancel h2 7) staged).group 0 = none ∧ (after (.commitCancel h2 7) staged).get SCH_CMT_LAST_CODE = 10 ∧
      starts (ready 3 []) 0x0304 none = true ∧ answered (after (.commitCancel hdr 1) (ready 3 [])) 14 0 = true) := by decide +kernel

/-- RECOVER with nothing contained, and of a contained fibre engine; FAULT_INJECT in each of its cases
(RecoverAndFaultInjectAct). -/
theorem witness_recover_inject :
    (let c := ready 6 [(FLT_STATUS_CONTAINED, 1)]
     let i := after (.faultInject hdr 20 0 5000) (ready 5 [(HIF_CMD_TAIL_INDEX 0, 2)])
     starts (ready 3 []) 0x0403 none = true ∧ ((ready 3 []).begun hdr 0x0403).recoverCode 255 ≠ 0 ∧
      starts c 0x0403 none = true ∧ (c.begun hdr 0x0403).recoverCode 1 = 0 ∧ (after (.recover hdr 1) c).contained 0 = false ∧
      injectParams 20 0 5000 = true ∧ injectParams 127 2 12 = true ∧ starts (ready 3 []) 0x0404 none = true ∧
      answered (after (.faultInject hdr 20 0 5000) (ready 3 [])) 1 0 = true ∧ srcInjectable 5 = false ∧
      answered (after (.faultInject hdr 5 0 5000) (ready 5 [])) 2 0 = true ∧ srcInjectable 20 = true ∧ runs i 0x0404 = true ∧
      i.get FLT_INJ_SOURCE = 20 ∧ i.flt.inj.isSome = true ∧ (i.at 5).canStart { hdr with reqId := 8 } 0x0404 = true) := by decide +kernel

/-- The NV store: no region, a protected one, a writable one; the end of a write before its time, at it, and failed; reads
(NvCommandsAnswer). -/
theorem witness_nv :
    (let ok := ready 2 [(NVS_WP_WP, 127)]
     let w := after (.nvWrite hdr 64 0x4000 8 (some [1, 2, 3, 4, 5, 6, 7, 8])) ok
     starts ok 0x0501 none = true ∧ nvRegion 0x3FF8 16 = none ∧ nvRegion 0x3FF8 8 = some 0 ∧ nvRegion 0x4000 8 = some 1 ∧
      answered (after (.nvWrite hdr 64 0x3FF8 16 none) ok) 1 0 = true ∧
      answered (after (.nvWrite hdr 64 0x4000 8 none) (ready 2 [(NVS_WP_WP, 0)])) 2 0 = true ∧
      w.nvs.wr = some ⟨cmdOf hdr 0x0501, 0x4000, [1, 2, 3, 4, 5, 6, 7, 8], 5⟩ ∧ runs w 0x0501 = true ∧ w.upAt 15629 = true ∧
      (after (.nvWriteDone 15629 true) w).nvs.wr.isSome = true ∧
      (after (.nvWriteDone 15630 true) w).nvBytes 0x4000 8 = [1, 2, 3, 4, 5, 6, 7, 8] ∧
      (after (.nvWriteDone 15630 false) w).get NVS_LAST_CODE = 4 ∧
      starts ok 0x0502 none = true ∧ answered (after (.nvRead hdr 64 0x4000 16 true 0 none) ok) 0 16 = true ∧
      answered (after (.nvRead hdr 64 0x4000 16 true 0 (some 1)) ok) 6 8 = true ∧
      answered (after (.nvRead hdr 64 0x4000 16 false 0 none) ok) 3 0 = true) := by decide +kernel

/-- SET_MODE: to the present mode, a forbidden transition, an allowed one, and one that needs a token and has none
(SetModeEntersTheMode). -/
theorem witness_set_mode :
    starts (ready 2 []) 0x0401 none = true ∧ answered (after (.setMode hdr 2 0 none) (ready 2 [])) 0 2 = true ∧
      modeLegal 2 1 = false ∧ ((ready 2 []).begun hdr 0x0401).changing = false ∧
      answered (after (.setMode hdr 1 0 none) (ready 2 [])) 1 2 = true ∧ modeLegal 2 3 = true ∧
      ((ready 2 []).begun hdr 0x0401).needsToken 3 = false ∧ (after (.setMode hdr 3 0 none) (ready 2 [])).mode = 3 ∧
      modeLegal 3 2 = true ∧ ((ready 3 []).begun hdr 0x0401).needsToken 2 = true ∧
      answered (after (.setMode hdr 2 0 none) (ready 3 [])) 2 3 = true := by decide +kernel

/-! ### Register accesses -/

/-- The access reaches the registers, and the register takes the word (`State.reaches`, `State.takes`). -/
def reach (s : State) (b : Bus) : Bool :=
  (s.at b.t).mainUp && (s.at b.t).ladder == 0 && (s.at b.t).mode != 7 && b.m != .spi

def take (s : State) (b : Bus) (off : Nat) (v : Word) : Bool := reach s b && (s.seenAt b off).writable off v

/-- A write of a storing register, and one of a W1C register with one of two set bits (LegalWriteStores). -/
theorem witness_legal_write :
    (let s := up 3 [(NVS_EVENTS_WR_DONE, 1), (NVS_EVENTS_PROT, 1)]
     take s host SYS_INT_EN 1 = true ∧ SYS_INT_EN % 4 = 0 ∧ SYS_INT_EN / 65536 ∈ [0, 8, 10, 14, 16, 17] ∧
      (after (.registerWrite host SYS_INT_EN 4 1) s).reg SYS_INT_EN = 1 ∧
      take s host NVS_EVENTS 1 = true ∧ (after (.registerWrite host NVS_EVENTS 4 1) s).get NVS_EVENTS_WR_DONE = 0 ∧
      (after (.registerWrite host NVS_EVENTS 4 1) s).get NVS_EVENTS_PROT = 1 ∧
      [SYS_INT_EN, EVT_CFG 0, SCH_INT_EN, FLT_INT_EN, BRM_INT_EN, NVS_INT_EN].all (fun o => take s host o (s.reg o)) = true) := by
  decide +kernel

/-- A value outside its range, the largest in it, two bad sizes, and a Weir register written by the host
(IllegalWriteIsRefused). -/
theorem witness_illegal_write :
    (let s := up 3 []
     let bad := BitVec.ofNat 32 10000001
     reach s host = true ∧ (s.at 5).writable (TIM_FE_PRI 0) bad = false ∧ (s.at 5).writable (TIM_FE_PRI 0) 10000000 = true ∧
      hasAcc (TIM_FE_PRI 0) (fun a => a == .rwp) = false ∧ (regAt (TIM_FE_PRI 0)).isSome = true ∧
      (after (.registerWrite host (TIM_FE_PRI 0) 4 (bad.setWidth 64)) s).get TIM_EVENTS_CFG_ERR = 1 ∧
      (after (.registerWrite host (TIM_FE_PRI 0) 4 (bad.setWidth 64)) s).get (TIM_FE_PRI_PRI 0) = 1000000 ∧
      (after (.registerWrite host SYS_INT_EN 2 1) s).get SYS_INT_EN_EN = 0 ∧
      (after (.registerWrite host (SYS_INT_EN + 2) 4 1) s).get SYS_INT_EN_EN = 0 ∧
      hasAcc (WMN_WM_THR 0) (fun a => a == .rwp) = true) := by decide +kernel

/-- A counter that clears on reading, a captured pair, a live bit of an encoder input, and a switch record taken, but not by
JTAG under boundary scan (ReadsClearAndCapture). -/
theorem witness_reads :
    (let s := up 3 [(TIM_FE_LATE_CNT_COUNT 2, 77), (TRK_QIN_POS_POS 1, 9)]
     let q := s.modQin 1 (fun q => { q with up := true })
     let w : State := { s with trk := { s.trk with fifo := [(3, true, 2 ^ 40 + 5), (1, false, 7)] } }
     reach s host = true ∧ TIM_FE_LATE_CNT 2 / 65536 ∉ [3, 9] ∧ (after (.readClear host (TIM_FE_LATE_CNT 2) 4) s).get (TIM_FE_LATE_CNT_COUNT 2) = 0 ∧
      captures TIM_GT_LO = [TIM_GT_HI] ∧ (after (.snapshotRead host TIM_GT_LO) s).regView .host TIM_GT_HI = (s.at 5).live TIM_GT_HI ∧
      (after (.qinPosRead host 1) q).regView .host (TRK_QIN_POS_SNAP 1) = 1 ∧ ((after (.qinPosRead host 1) q).qin 1).up = false ∧
      (after (.msFifoRead host) w).trk.fifo = [(1, false, 7)] ∧ (after (.msFifoRead host) w).regView .host TRK_MS_GT_LO = 5 ∧
      (after (.msFifoRead ⟨5, .jtag true⟩) w).trk.fifo = w.trk.fifo ∧ reach w ⟨5, .jtag true⟩ = true) := by decide +kernel

/-- Each write of TIM, and the ones refused while an engine is arming (TimeWritesAct). -/
theorem witness_time_writes :
    (let s := up 3 [(TIM_EPOCH_LO_EPOCH, 6)]
     let b := up 3 [(LNC_STATUS_STATE 2, 1)]
     let a := after (.alignArm host 3) s
     take s host TIM_ALIGN 3 = true ∧ (s.at 5).anyBusy = false ∧ a.get TIM_ALIGN_ARM = 1 ∧ a.get TIM_ALIGN_SRC = 1 ∧
      (b.at 5).anyBusy = true ∧ take b host TIM_ALIGN 3 = true ∧ (after (.alignArm host 3) b).get TIM_ALIGN_ARM = 0 ∧
      take a host TIM_ALIGN 4 = true ∧ (a.at 5).get TIM_ALIGN_ARM = 1 ∧ (after (.alignAbort host 4) a).get TIM_EVENTS_ALIGN_ABORT = 1 ∧
      take s host TIM_EPOCH_LO 8 = true ∧ (after (.epochLoWrite host 8) s).tim.epoch = 0 ∧ take s host TIM_EPOCH_HI 1 = true ∧
      (after (.epochHiWrite host 1) s).tim.epoch = 2 ^ 32 + 6 ∧ ((after (.epochHiWrite host 1) s).f 3).anchorT = 2 ^ 32 + 6 ∧
      take s host TIM_SYNC_CFG 0x3E80 = true ∧
      (after (.syncInDisable host 0x3E80) (s.set TIM_STATUS_SYNC_PRESENT 1)).get TIM_STATUS_SYNC_PRESENT = 0 ∧
      reach b host = true ∧ (after (.epochLoWrite host 8) b).get TIM_EVENTS_CFG_ERR = 1 ∧
      (after (.epochHiWrite host 8) b).tim.epoch = 0) := by decide +kernel

/-- The position loaded; a compare value behind a moving input in each direction, one at it and one ahead; a track, and an
MEM unit of each kind started (TrackAndMemoryWritesAct). -/
theorem witness_track_memory_writes :
    (let mv : Nat → State := fun d => up 3 [(TRK_QIN_POS_POS 0, 100), (TRK_QIN_STATUS_MOVING 0, 1), (TRK_QIN_STATUS_DIR 0, d)]
     let s := up 3 []
     take s host (TRK_QIN_LOAD 1) 0xFFFFFFFF = true ∧ ((after (.qinLoad host 1 0xFFFFFFFF) s).qin 1).net = -1 ∧
      take (mv 1) host (TRK_CMP_VALUE 2) 100 = true ∧
      (after (.cmpValueWrite host 2 107) (mv 1)).get (TRK_CMP_DIST_DIST 2) = 7 ∧
      (after (.cmpValueWrite host 2 100) (mv 1)).get TRK_EVENTS_CMP_BEHIND = 1 ∧
      (after (.cmpValueWrite host 2 99) (mv 1)).get TRK_EVENTS_CMP_BEHIND = 0 ∧
      (after (.cmpValueWrite host 2 99) (mv 0)).get (TRK_CMP_DIST_DIST 2) = 1 ∧
      take s host (TRK_ENC_TRACK_ID 1) 4 = true ∧ (s.at 5).get (TRK_ENC_CFG_MODE 1) = 0 ∧
      (after (.trackIdWrite host 1 4) (s.set (TRK_ENC_STATUS_SRC_LOST 1) 1)).get (TRK_ENC_STATUS_SRC_LOST 1) = 0 ∧
      take (s.set MEM_BAND_STAT_VALID 7) host MEM_CTL (MEM_CTL_INIT.put 0 1) = true ∧
      take (up 5 []) host MEM_TEST_CTL (MEM_TEST_CTL_START.put (s.reg MEM_TEST_CTL) 1) = true ∧
      take s host MEM_HIST_CTL (MEM_HIST_CTL_DUMP.put (s.reg MEM_HIST_CTL) 1) = true) := by decide +kernel
/-! ### The converter, the Weirs, rings and the warm reset, by writes -/

/-- The converter on, a sequence of two slots and one injected channel enabled. -/
def pmcSet : List (FRef × Nat) :=
  [(PMC_CTL_EN, 1), (PMC_SEQ_LEN, 2), (PMC_SLOT_CFG_EN 0, 1), (PMC_SLOT_CFG_EN 1, 1), (PMC_INJ_CFG_EN 3, 1)]

/-- Triggers while a pass runs, one and two; a stop; an injected start; a calibration on, off and while one runs; disabling
(PmcWritesAct). -/
theorem witness_pmc_writes :
    (let s := up 3 pmcSet
     let w := PMC_SEQ_START.put (s.reg PMC_SEQ) 1
     let p := after (.pmcSeqStart host w) s
     let q := after (.pmcSeqStart host w) p
     let stop := PMC_SEQ_STOP.put (s.reg PMC_SEQ) 1
     let cw := PMC_CAL_CTL_MASK.put (PMC_CAL_CTL_START.put 0 1) 3
     let k := after (.pmcCalStart host cw) s
     take p host PMC_SEQ w = true ∧ p.pmc.pass = true ∧ p.pmc.trig = 0 ∧ (p.at 5).pmcOn = true ∧ p.pmc.pend = false ∧ q.pmc.pend = true ∧
      (after (.pmcSeqStart host w) q).get PMC_EVENTS_TRIG_OVR = 1 ∧ take q host PMC_SEQ stop = true ∧
      (after (.pmcSeqStop host stop) q).pmc.pass = false ∧ (after (.pmcSeqStop host stop) q).pmc.conv = none ∧
      take s host (PMC_INJ_TRIG 3) ((PMC_INJ_TRIG_START 3).put 0 1) = true ∧ cfgEn ((s.at 5).reg (PMC_INJ_CFG 3)) = true ∧
      ((after (.pmcInjStart host 3 ((PMC_INJ_TRIG_START 3).put 0 1)) s).pmc.conv.map (fun c => (c.slot, c.x))) = some (67, (s.at 5).pmcNow) ∧
      take s host PMC_CAL_CTL cw = true ∧ k.pmc.cal.map (·.mask) = some 3 ∧
      take k host PMC_CAL_CTL cw = true ∧ (after (.pmcCalStart host cw) k).get PMC_CAL_RESULT_CODE = 3 ∧
      take (up 3 []) host PMC_CAL_CTL cw = true ∧ (after (.pmcCalStart host cw) (up 3 [])).get PMC_CAL_RESULT_CODE = 2 ∧
      take q host PMC_CTL 0 = true ∧ (after (.pmcDisable host 0) q).pmc.pass = false) := by decide +kernel

/-- A bad command byte, a bad address, an ignored write with WR_EN 0 and to its own control register, a permitted one, and a
read (SpiWritesOnlyThePmc). -/
theorem witness_spi :
    (let s := up 3 []
     let w := up 3 [(PMC_SPI_CFG_WR_EN, 1)]
     let e := after (.spiTransaction 5 1 0 [7] 0) s
     (s.at 5).mainUp = true ∧ e.pmc.spiErr = true ∧ (after (.spiTransaction 5 0 2 [7] 0) s).pmc.spiErr = true ∧
      (s.at 5).spiMay 0x0C0004 = false ∧ (after (.spiTransaction 5 0 4 [1] 0) s).pmc.spiErr = true ∧
      (w.at 5).spiMay PMC_SPI_CFG = false ∧ (w.at 5).spiMay PMC_INT_EN = true ∧
      (after (.spiTransaction 5 0 (BitVec.ofNat 16 (PMC_INT_EN - 0x0C0000)) [1] 0) w).reg PMC_INT_EN = 1 ∧
      (after (.spiTransaction 5 0x80 0 [] 1) e).pmc.spiErr = false) := by decide +kernel

/-- Weir 2 enabled over 1 V, not gated. -/
def weir2 : List (FRef × Nat) :=
  [(WMN_WM_CFG_EN 2, 1), (WMN_WM_CFG_MODE 2, 1), (WMN_WM_THR_HI 2, 1012), (WMN_WM_CFG_ROUTE 2, 2)]

/-- A latch that clears, one whose output is 1, one not named; a threshold written by the host, by the Polder outside
COMMISSION, by the Polder in BOOT, and while an engine of its route is armed (WeirWritesAct). -/
theorem witness_weir_writes :
    (let s := up 3 (weir2 ++ [(latchBit 2, 1), (latchBit 4, 1)])
     let h := s.modW 2 (fun w => { w with u := true })
     let pol : Bus := ⟨5, .polder⟩
     let b := up 1 weir2
     let v := (WMN_WM_THR_HI 2).put (b.reg (WMN_WM_THR 2)) 900
     let a := after (.weirConfigWrite pol 2 true v) b
     take s host WMN_LATCH 4 = true ∧ (s.at 5).weirOut 2 = false ∧ (s.weir 2).unres = none ∧ (s.weir 2).actAt ≠ some (s.at 5).now ∧
      (after (.weirLatchClear host 4) s).get (latchBit 2) = 0 ∧ (after (.weirLatchClear host 4) s).get (latchBit 4) = 1 ∧
      (h.at 5).weirOut 2 = true ∧ (after (.weirLatchClear host 4) h).get (latchBit 2) = 1 ∧
      (after (.weirLatchClear host 4) h).get WMN_EVENTS_CLR_DENIED = 1 ∧ reach b host = true ∧ (s.at 5).weirOpen = false ∧
      (b.at 5).weirOpen = true ∧ a.get (WMN_WM_THR_HI 2) = 900 ∧ a.get (WMN_STATUS_UNRESOLVED.bit 2) = 1 ∧ a.get (latchBit 2) = 1 ∧
      (after (.weirConfigWrite pol 2 true v) (b.set (LNC_STATUS_STATE 1) 2)).get WMN_EVENTS_CFG_ERR = 1 ∧
      (after (.weirConfigWrite host 2 true v) b).get (WMN_WM_THR_HI 2) = 1012) := by decide +kernel

/-- A ring of each kind enabled from DISABLED, disabled while running and while failed, the stop of an empty command ring,
and a window cleared (RingsStartAndStop). -/
theorem witness_rings :
    (let s := up 3 []
     let f := up 3 [(HIF_STR_CTL_STATE 31, 4)]
     let d := (up 3 [(HIF_CMD_CTL_STATE 3, 2)])
     let c := up 3 []
     let cl := (HIF_CMD_CTL_CLEAR_IDS 3).put (c.reg (HIF_CMD_CTL 3)) 1
     [(RingKind.cmd, 15), (.cpl, 0), (.str, 31)].all (fun p => take s host (ringCtl p.1 p.2) ((ringEn p.1 p.2).put (s.reg (ringCtl p.1 p.2)) 1) &&
        (after (.ringEnable host p.1 p.2 ((ringEn p.1 p.2).put (s.reg (ringCtl p.1 p.2)) 1)) s).get (ringState p.1 p.2) == 1) = true ∧
      take (ready 3 []) host (HIF_CMD_CTL 0) 0x40 = true ∧ (after (.ringDisable host .cmd 0 0x40) (ready 3 [])).get (HIF_CMD_CTL_STATE 0) = 2 ∧
      (after (.ringDisable host .str 31 0x40) f).get (HIF_STR_CTL_STATE 31) = 0 ∧
      d.upAt 9 = true ∧ (d.at 9).get (ringState .cmd 3) = 2 ∧ (d.ring 3).running = [] ∧
      (after (.ringStopped 9 .cmd 3) d).get (HIF_CMD_CTL_STATE 3) = 0 ∧ take c host (HIF_CMD_CTL 3) cl = true ∧
      (HIF_CMD_CTL_EN 3).of cl = 0 ∧ (HIF_CMD_CTL_CLEAR_IDS 3).of cl = 1) := by decide +kernel

/-- Doorbells at the boundary of what their ring allows, of each kind, and one beyond it (DoorbellsMoveIndices). -/
theorem witness_doorbells :
    (let s := ready 3 [(HIF_CPL_TAIL_INDEX 0, 5), (HIF_STR_CTL_STATE 0, 1), (HIF_STR_CTL_SIZE_LOG2 0, 4)]
     let d : List BufDesc := [⟨0x1000, 4096⟩]
     reach s host = true ∧ (after (.cmdDoorbell host 0 16) s).get (HIF_CMD_TAIL_INDEX 0) = 16 ∧
      (after (.cmdDoorbell host 0 17) s).get (HIF_CMD_TAIL_INDEX 0) = 1 ∧ (after (.cmdDoorbell host 0 17) s).get HIF_EVENTS_DB_ERR = 1 ∧
      (after (.cmdDoorbell host 1 0) s).get HIF_EVENTS_DB_ERR = 1 ∧
      (after (.cplDoorbell host 0 5) s).get (HIF_CPL_HEAD_INDEX 0) = 5 ∧ (after (.cplDoorbell host 0 6) s).get HIF_EVENTS_DB_ERR = 1 ∧
      (after (.strDoorbell host 0 1 d) s).get (HIF_STR_TAIL_INDEX 0) = 1 ∧ ((after (.strDoorbell host 0 1 d) s).strRing 0).descs = d ∧
      (after (.strDoorbell host 0 17 d) s).get HIF_EVENTS_DB_ERR = 1) := by decide +kernel

/-- A warm reset with its code, and without each half of it (WarmResetRestartsTheBoot). -/
theorem witness_warm_reset :
    (let s := ready 3 [(LNC_STATUS_STATE 0, 2)]
     let v : Word := 0x52450001
     let t := after (.warmReset host v) s
     reach s host = true ∧ SYS_RESET_WARM.of v = 1 ∧ SYS_RESET_CODE.of v = 0x5245 ∧ (s.at 5).pwr.step = 0 ∧ t.mode = 1 ∧ t.pwr.step = 7 ∧
      t.get PWR_MODE_PREV = 3 ∧ t.lstate 0 = 0 ∧ s.flt.aonCopy = 0 ∧ s.safeN = false ∧
      (after (.warmReset host 0x52450000) s).get SYS_EVENTS_CFG_ERR = 1 ∧ (after (.warmReset host 1) s).mode = 3) := by decide +kernel
/-! ### The time base -/

/-- Loss from lock, from ACQUIRING with and without an earlier lock; return in FREE and LOCKED; lock; the holdover limit
just reached; a failed PLL (ClockStatesFollowTheReference). -/
theorem witness_clock :
    (let clk : Nat → State := fun c => up 3 [(TIM_STATUS_CLK_STATE, c), (TIM_STATUS_GT_VALID, 1), (TIM_STATUS_REF_PRESENT, 1), (TIM_ALIGN_ARM, 1)]
     let was : State := { clk 1 with tim := { (clk 1).tim with locked := true } }
     let h : State := { clk 3 with tim := { (clk 3).tim with holdStart := some 4 } }
     (clk 2).upAt 9 = true ∧ (after (.refclkLoss 9) (clk 2)).get TIM_STATUS_CLK_STATE = 3 ∧
      (after (.refclkLoss 9) (clk 2)).tim.holdStart = some 9 ∧ (after (.refclkLoss 9) (clk 2)).get TIM_ALIGN_ARM = 0 ∧
      (after (.refclkLoss 9) was).get TIM_STATUS_CLK_STATE = 3 ∧ (clk 1).tim.locked = false ∧
      (after (.refclkLoss 9) (clk 1)).get TIM_STATUS_CLK_STATE = 0 ∧ (after (.refclkLoss 9) (clk 1)).get TIM_STATUS_GT_VALID = 0 ∧
      (after (.refclkReturn 9) (clk 0)).get TIM_STATUS_CLK_STATE = 1 ∧ (after (.refclkReturn 9) (clk 2)).get TIM_STATUS_CLK_STATE = 2 ∧
      (after (.pllLock 9) (clk 1)).get TIM_EVENTS_LOCK = 1 ∧ ((h.at 60000000004).get TIM_STATUS_CLK_STATE, (h.at 60000000004).tim.holdStart) = (3, some 4) ∧
      (after (.holdExpired 60000000004) h).get TIM_EVENTS_HOLD_EXPIRED = 1 ∧
      (after (.holdExpired 60000000004) h).get TIM_STATUS_GT_VALID = 1 ∧
      vget .ok (after (.timPllFail 9) (clk 2)).flt.rails 8 = .err) := by decide +kernel

/-- PPS and SYNC edges that align and that are measured, their losses at their time, and the output at a multiple
(ReferenceInputsSteerAndAlign). -/
theorem witness_references :
    (let s := up 3 [(TIM_STATUS_CLK_STATE, 2), (TIM_ALIGN_ARM, 1), (TIM_GT_NEXT_LO_GT_NEXT, 500), (TIM_REF_CFG_DISC, 1)]
     let m := up 3 [(TIM_STATUS_CLK_STATE, 2), (TIM_REF_CFG_DISC, 1)]
     let y := up 3 [(TIM_STATUS_CLK_STATE, 2), (TIM_SYNC_CFG_IN_EN, 1), (TIM_REF_CFG_DISC, 2)]
     let a := y.set TIM_ALIGN_ARM 1 |>.set TIM_ALIGN_SRC 1
     let o := up 3 [(TIM_SYNC_CFG_OUT_EN, 1), (TIM_STATUS_GT_VALID, 1)]
     let p := after (.ppsInEdge 70 false) m
     let q := after (.syncInEdge 1000070 false) y
     s.upAt 70 = true ∧ (s.at 70).alignReady 0 = true ∧ (after (.ppsInEdge 70 false) s).gridOf 70 = 500 ∧
      (after (.ppsInEdge 70 false) s).get TIM_STATUS_GT_VALID = 1 ∧ (m.at 70).alignReady 0 = false ∧ m.tim.pps.last = none ∧
      p.getI TIM_PPS_ERR_ERR = 70 ∧ p.getI TIM_TRIM_TRIM = -7 ∧ (y.at 1000070).alignReady 1 = false ∧ y.tim.sync.last = none ∧
      q.getI TIM_SYNC_ERR_ERR = 70 ∧ q.get TIM_STATUS_SYNC_PRESENT = 1 ∧ (a.at 1000070).alignReady 1 = true ∧
      (after (.syncInEdge 1000070 false) a).gtOff = -70 ∧ p.tim.pps.seen = some 70 ∧ (p.at 1100000070).on TIM_STATUS_PPS_PRESENT = true ∧
      (after (.ppsLoss 1100000070) p).get TIM_STATUS_PPS_PRESENT = 0 ∧ (after (.ppsLoss 1100000069) p).get TIM_STATUS_PPS_PRESENT = 1 ∧
      (after (.syncLoss 3000070) q).get TIM_STATUS_SYNC_PRESENT = 0 ∧
      (after (.syncOutPulse 2000000) o).tim.syncOutEnd = 2000100 ∧ (m.at 7).on TIM_STATUS_GT_VALID = false) := by decide +kernel

/-! ### Launches -/

/-- Fibre engine n ARMED, in external launch mode or not. -/
def armedFe (n ext : Nat) (l : List (FRef × Nat)) : State :=
  up 3 ([(LNC_STATUS_STATE n, 2), (TIM_FE_LAUNCH_CTL_SRC n, ext), (TIM_STATUS_GT_VALID, 1), (TIM_STATUS_CLK_STATE, 2)] ++ l)

/-- A marker before the guard and at its end, one that is missing, and the rise of LAUNCH_OUT (MarkersTakeShotNumbers). -/
theorem witness_markers :
    (let s := (armedFe 3 1 [(TIM_FE_LAUNCH_CTL_LATE_TO 3, 2)]).modF 3 (fun f => { f with lateFrom := 100 })
     let g := (armedFe 1 0 [(TIM_LAUNCH_OUT_CFG_FE_MASK, 2), (TIM_LAUNCH_OUT_CFG_ADV, 40)]).modF 1 (fun f => { f with next := some ⟨3, 1000⟩ })
     s.awakeAt 99 = true ∧ (s.at 99).lstate 3 = 2 ∧ extOf (s.at 99).regs 3 = true ∧ (s.f 3).disarm = none ∧ (s.f 3).sent = none ∧
      (after (.launchInEdge 99) s).get (TIM_EVENTS_LAUNCH_EARLY.bit 3) = 1 ∧
      ((after (.launchInEdge 100) s).f 3).marker.map (fun m => (m.m, m.shot)) = some (100, 0) ∧
      (after (.launchLate 2100 3) s).get (TIM_EVENTS_LAUNCH_LATE.bit 3) = 1 ∧ ((after (.launchLate 2100 3) s).f 3).lateFrom = 2100 ∧
      g.awakeAt 960 = true ∧ extOf ((g.at 960).aheadTo 1 1000).regs 1 = false ∧ ((g.at 960).aheadTo 1 1000).launchAt 1 1000 = true ∧
      (after (.launchOutRise 960 1) g).tim.launchOutEnd = 1060) := by decide +kernel

/-- A grid launch and an external one, the end of a segment, a gate window that opens and closes, a duty window
(LaunchesPlayAndGatesFollow). -/
theorem witness_launches :
    (let g := (armedFe 1 0 []).modF 1 (fun f => { f with next := some ⟨3, 1000⟩ })
     let e := (armedFe 1 1 []).modF 1 (fun f => { f with marker := some ⟨952, 8⟩ })
     let a := after (.launch 1000 1) g
     let w := (armedFe 1 0 []).modF 1 (fun f => { f with wins := [⟨2, 3, 1000, 1500⟩] })
     g.awakeAt 1000 = true ∧ ((g.at 1000).commitsDue).lstate 1 = 2 ∧ (((g.at 1000).commitsDue).f 1).next.map (·.gt) = some 1000 ∧
      ((g.at 1000).commitsDue).disarmDue 1 = false ∧ (a.f 1).lastNum = some 3 ∧ (a.f 1).seg.isSome = true ∧
      a.get (TIM_FE_SHOT_LO_SHOT 1) = 3 ∧ ((a.f 1).recs.map (fun r => (r.shot, r.launch))) = [(3, 1000)] ∧
      (((after (.launch 1000 1) e).f 1).marker, ((after (.launch 1000 1) e).f 1).lastNum) = (none, some 8) ∧
      (a.f 1).seg.map (fun g => (g.launch, g.len)) = some (1000, 20) ∧ ((after (.segmentEnd 1010 1) a).f 1).seg = none ∧
      ((after (.segmentEnd 1009 1) a).f 1).seg.isSome = true ∧ ((after (.gateWindowOpen 1000 1 2) w).f 1).gateActive 2 = true ∧
      ((after (.gateWindowClose 1500 1 2) (after (.gateWindowOpen 1000 1 2) w)).f 1).gateActive 2 = false ∧
      ((after (.dutyWindowEnd 1048576 1) w).f 1).dutyWin = 1) := by decide +kernel

/-- The self-test of an arming passed and failed, its end LEAD later, and a disarm whose instant has come
(ArmingEndsArmedOrSafe). -/
theorem witness_arming :
    (let p := after (.armSelftestDone 2005 0 true) arming
     let lead := 2005 + 1000 * arming.get (LNC_ARM_CFG_LEAD 0)
     let t := after (.armedEntry lead 0) p
     let d := (armedFe 2 1 []).modF 2 (fun f => { f with disarm := some ⟨[], 900⟩ })
     arming.awakeAt 2005 = true ∧ (arming.f 0).arm.map (fun a => (a.p, a.static)) = some (5, false) ∧ p.lstate 0 = 1 ∧
      (p.f 0).arm.map (·.static) = some true ∧ (after (.armSelftestDone 2005 0 false) arming).get (LNC_ARM_RESULT_CODE 0) = 12 ∧
      p.awakeAt lead = true ∧ (p.f 0).arm.any (fun a => decide (a.cmd.ring < 20)) = true ∧ t.lstate 0 = 2 ∧ runs p 0x0101 = true ∧
      runs t 0x0101 = false ∧ (d.at 900).disarmDue 2 = true ∧ (d.at 900).lstate 2 = 2 ∧ (after (.disarmTakeEffect 900 2) d).lstate 2 = 0) := by
  decide +kernel

/-- SAFE_N low and high, and a duty limit exceeded (TripsGoSafeAtOnce). -/
theorem witness_trips :
    (let s := armedFe 2 0 [(LNC_ENV_DUTY_MAX_SAMPLES 2, 7)]
     let t := after (.safeNFall 9) s
     let o := s.modF 2 (fun f => { f with dacCnt := 8 })
     s.upAt 9 = true ∧ (s.f 2).disarm = none ∧ t.lstate 2 = 3 ∧ t.safeN = true ∧ (t.reg (LNC_TRIP_CAUSE 2)).getLsbD 1 = true ∧
      (after (.safeNRise 10) t).safeN = false ∧ (after (.safeNRise 10) t).lstate 2 = 3 ∧ o.awakeAt 9 = true ∧
      (((o.at 9).lncSync 2).envOver 2).1 ≠ 0 ∧ (after (.envExceed 9 2) o).lstate 2 = 3 ∧
      vget .ok (after (.envExceed 9 2) o).flt.rails 30 = .err) := by decide +kernel
/-! ### Acquisition and the signal paths -/

/-- A calibration's phase at its time and before it, and its end: of SAVE_ONLY with a failed NV copy, and after both kinds
are done (AcqCalibrationRunsItsPhases). -/
theorem witness_acq_phases :
    (let s := after (.acqCalibrate hdr 1 false false) (ready 2 [])
     let t := after (.acqCalPhaseEnd 10000005 true) s
     let v := after (.acqCalibrate hdr 1 false true) (ready 2 [])
     let d : State := { s with acq := { s.acq with cal := s.acq.cal.map (fun c => { c with phC := 8, phI := 8 }) } }
     s.awakeAt 10000005 = true ∧ s.acq.cal.map (fun c => (c.start, c.phC, c.saveOnly)) = some (5, 1, false) ∧
      t.acq.cal.map (fun c => c.phC) = some 2 ∧ t.get ACQ_STATUS_CAL_BUSY = 1 ∧
      (after (.acqCalPhaseEnd 10000004 true) s).acq.cal.map (fun c => c.phC) = some 1 ∧
      v.acq.cal.map (fun c => c.saveOnly && decide (c.cmd.ring < 20)) = some true ∧ runs v 0x0201 = true ∧
      (after (.acqCalDone 9 ⟨[], [], false⟩) v).get ACQ_CAL_RESULT_CODE = 6 ∧ runs (after (.acqCalDone 9 ⟨[], [], false⟩) v) 0x0201 = false ∧
      d.awakeAt 9 = true ∧ (after (.acqCalDone 9 ⟨[], [], true⟩) d).acq.cal = none ∧
      (after (.acqCalDone 9 ⟨[], [], true⟩) d).get ACQ_STATUS_CAL_BUSY = 0) := by decide +kernel

/-- Background blocks of each kind in an ARMED engine, and a channel that fails in use (BackgroundBlocksQueueUpdates). -/
theorem witness_background :
    (let s := armedFe 0 0 [(ACQ_CAL_CTL_BG_CC_EN, 1), (ACQ_CAL_CTL_BG_IC_EN, 1), (ACQ_CAL_CTL_IQ_BLIND, 1), (ACQ_CCH_CFG_EN 1, 1),
      (ACQ_CCH_CFG_SRC 1, 1), (ACQ_ICH_CFG_EN 1, 1), (ACQ_FE_DARK_LEN_LEN 0, 64)]
     let p := fun (c : Instr) => ((after c s).f 0).calPend
     let b : State := { s with acq := { s.acq with blind := s.acq.blind.set 1 ⟨7, 0, 0, 0, [(1000, 900, 500)]⟩ } }
     let q := fun (c : Instr) => ((after c b).f 0).calPend
     s.awakeAt 5 = true ∧ (s.at 5).bgCoh 1 = true ∧ ((s.at 5).blkAt 1).length = 0 ∧
      (p (.bgCalBlockEnd 5 1 [])).length = 0 ∧ (b.at 5).blindOn 1 = true ∧ ((b.at 5).blind 1).full = [(1000, 900, 500)] ∧
      (q (.iqBlindBlockEnd 5 1 1000 900 500)).map (fun u => u.fld) = [.iqA 1, .iqB 1] ∧ (s.at 5).bgInt 1 = true ∧ (s.at 5).on (chEn 1) = true ∧ srcIsPin 1 ((s.at 5).get (chSrc 1)) = true ∧
      (after (.acqChFail 5 1 3) s).get ACQ_EVENTS_CH_FAIL = 1 ∧ vget .ok (after (.acqChFail 5 1 3) s).flt.rails 32 = .err) := by
  decide +kernel

/-- A shot of fibre engine 1 that was launched at 1000, with a window of 200 ns, two bins, and every shot an output. -/
def launched : State :=
  after (.launch 1000 1) ((armedFe 1 0 [(TIM_FE_WIN_LEN_WIN_LEN 1, 200), (PHS_NBINS_NBINS 1, 2), (ACF_CFG_RATIO 1, 1),
    (DTS_CFG_ACC_LOG2 1, 0), (DTS_NBINS_NBINS 1, 2)]).modF 1 (fun f => { f with next := some ⟨3, 1000⟩ }))

/-- The shot at its window's end (its phases rest on free values), and unprocessed before it; an output; an interval of the
detector (ShotsBecomeOutputs). -/
theorem witness_signal_path :
    (let r := launched.regs
     let a := launched.modF 1 (fun f => { f with acf := { f.acf with
        q := [⟨3, 3, 1000, r, 0, none, 0, false, false, false, false, [], [], []⟩] } })
     let e := launched.modF 1 (fun f => { f with evt := { f.evt with q := [.out ⟨3, 3, 1000, 0, 0, 3, 255, [], false, none, r, []⟩] } })
     launched.awakeAt 1200 = true ∧ (launched.f 1).recs.map (fun r => (r.phsDone, r.launch + winEndOf r.regs 1, r.launch + cdiv r.len 2)) =
        [(false, 1200, 1010)] ∧ ((after (.shotProcessed 1199 1 [] []) launched).f 1).recs.map (·.phsDone) = [false] ∧
      (a.f 1).acf.q.any (fun i => i.isOut 1) = true ∧ ((after (.acfOutput 1300 1) a).f 1).acf.q.length = 0 ∧
      (e.f 1).evt.q.length = 1 ∧ ((after (.energyIntervalEnd 1300 1) e).f 1).evt.q.length = 0) := by decide +kernel

/-- A Raman shot that joins, a full accumulation that makes way, and its computation (RamanShotsAccumulate). -/
theorem witness_raman :
    (let s := launched.modF 1 (fun f => { f with recs := f.recs.map (fun r => { r with raman := true, dtsDone := false }) })
     let a := after (.ramanShotAccumulate 1200 1 [] []) s
     let d := after (.accumulationEnd 1300 1) a
     let c := after (.dtsEndComputation 1400 1) d
     s.awakeAt 1200 = true ∧ (s.f 1).ramanWait.map (·.shot) = [3] ∧ (a.f 1).dts.cur.map (fun a => (a.count, a.last.shot)) = some (1, 3) ∧
      (a.f 1).dts.cur.map (fun a => dtsShots a.last.regs 1) = some 1 ∧ ((d.f 1).dts.cur.isNone, (d.f 1).dts.done.length, (d.f 1).dts.set) =
        (true, 1, true) ∧ (c.f 1).dts.done.length = 0 ∧ c.get (DTS_EVENTS_DONE 1) = 1) := by decide +kernel

/-! ### Encoders, switches, SSI, emulators -/

/-- Every change of two lines from 0, an index, a stall at its time, a history record (EncoderInputsCount). -/
theorem witness_encoder :
    (let s := up 3 [(TRK_QIN_CFG_EN 1, 1), (TRK_QIN_POS_POS 1, 9)]
     let e := fun (a b : Bool) => after (.encoderEdge 50 1 a b) s
     let st := 50 + 1000 * s.get (TRK_QIN_TIMING_STALL 1)
     s.upAt 50 = true ∧ (s.at 50).get (TRK_QIN_STATUS_LINES 1) = 0 ∧ (e true true).get (TRK_QIN_STATUS_ILLEGAL 1) = 1 ∧
      (e true true).get (TRK_QIN_POS_POS 1) = 9 ∧ (e true false).get (TRK_QIN_STATUS_MOVING 1) = 1 ∧
      ((e true false).qin 1).net + ((e false true).qin 1).net = 0 ∧ (e true false).get (TRK_QIN_POS_POS 1) ≠ 9 ∧
      (e false false).get (TRK_QIN_POS_POS 1) = 9 ∧ ((e true false).qin 1).lastCnt.isSome = true ∧
      (after (.encoderStall (st + 4) 1) (e true false)).get (TRK_QIN_STATUS_MOVING 1) = 0 ∧
      (after (.encoderStall (st - 4) 1) (e true false)).get (TRK_QIN_STATUS_MOVING 1) = 1 ∧
      (s.at 50).on (TRK_QIN_CFG_IDX_GATE 1) = false ∧ (s.at 50).on (TRK_QIN_CFG_IDX_POL 1) = false ∧
      (after (.indexPulse 50 1 true) s).get (TRK_QIN_IDX_CAP_CAP 1) = 9 ∧ (s.at 65536).gridOf (s.at 65536).now % 65536 = 0 ∧
      ((after (.countHistoryRecord 65536 1) s).qin 1).hist.head? = some (65536, 9, 0)) := by decide +kernel

/-- A switch edge into an empty and a full FIFO; an SSI start that is early, one on a low line, a good one and its ends
(SwitchesAndSsiPorts). -/
theorem witness_switches_ssi :
    (let s := up 3 [(TRK_MS_CFG_EN, 8), (TRK_SSI_CFG_EN 1, 1), (TRK_SSI_CFG_BITS 1, 12), (TRK_SSI_TIMING_PERIOD 1, 100)]
     let d := 40 + 1000 * s.get TRK_MS_CFG_DEBOUNCE
     let full : State := { s with trk := { s.trk with fifo := List.replicate 32 (0, false, 0) } }
     let o := after (.ssiFrameStart 100000 1 false) s
     (s.upAt d && (s.at d).get TRK_MS_CFG_EN == 8) = true ∧ ((after (.msEdge d 3 true 40) s).trk.fifo.map (fun e => (e.1, e.2.2))) = [(3, 40)] ∧
      (after (.msEdge d 3 true 40) full).get TRK_EVENTS_MS_OVF = 1 ∧ (s.at 100000).gridOf (s.at 100000).now % 100000 = 0 ∧
      (o.ssi 1).open_ = true ∧ (o.ssi 1).gt = 100000 ∧ (after (.ssiFrameStart 100000 1 true) s).get (TRK_SSI_STATUS_START_ERR 1) = 1 ∧
      (after (.ssiFrameStart 200000 1 false) o).get (TRK_SSI_STATUS_OVR 1) = 1 ∧
      (after (.ssiFrameEnd 110000 1 0xFABC ⟨true, 0⟩) o).get (TRK_SSI_DATA_DATA 1) = 0xABC ∧
      (after (.ssiFrameEnd 110000 1 0xFABC ⟨false, 0⟩) o).get (TRK_SSI_STATUS_END_ERR 1) = 1 ∧ (o.at 5).on (TRK_SSI_CFG_GRAY 1) = false) := by
  decide +kernel

/-- A target of an encoder and one of a lost track, a step up, and a compare pulse that ends (EmulatorsFollowTheirSource). -/
theorem witness_emulators :
    (let q := up 3 [(TRK_ENC_CFG_MODE 2, 2), (TRK_ENC_CFG_QIN 2, 1), (TRK_QIN_POS_POS 1, 9)]
     let t := up 3 [(TRK_ENC_CFG_MODE 2, 1), (TRK_ENC_TRACK_ID_ID 2, 4)]
     let r := (up 3 [(TRK_ENC_STATUS_RUN 2, 1), (TRK_ENC_CFG_MODE 2, 2)]).modEnc 2 (fun e => { e with target := 5 })
     q.upAt 2000 = true ∧ (q.at 2000).gridOf (q.at 2000).now % 1000 = 0 ∧ ((q.at 2000).enc 2).lost = false ∧
      (after (.encTargetUpdate 2000 2) q).get (TRK_ENC_STATUS_RUN 2) = 1 ∧
      (after (.encTargetUpdate 2000 2) t).get (TRK_ENC_STATUS_SRC_LOST 2) = 1 ∧ (r.at 2000000).contained 6 = false ∧
      (after (.encStep 2000000 2) r).get (TRK_ENC_COUNT_COUNT 2) = 1 ∧ vget 0 r.trk.pulse 11 ≤ (r.at 9).now) := by decide +kernel
/-! ### Frames, groups, the link -/

def frameA : Frame := ⟨1, 0, 1, 0, 0, false, false, false, false, false, 3, 1000, 0, 0, 0, 0, [], none⟩

/-- A finished frame on time and late, a staged frame delivered and diverted, one released, one drained
(FramesLeaveTheirStages). -/
theorem witness_frames :
    (let done := launched.modF 1 (fun f => { f with recs := f.recs.map (fun r => { r with phsDone := true }) })
     let i : Image := ⟨2, 0, 0, 0, 0, 0, 0, 0, [{ part0 with fe := 1 }], [], [], [], ⟨true, [], [], [], [], [], [], true⟩⟩
     let cov : State := { done with sch := { done.sch with img := done.sch.img.set 1 (some i) } }
     let crest := 1000 + 199 + 1000000
     let g : State := ready 3 []
     let sg : State := { g with hif := { g.hif with staged := [⟨frameA, some 5⟩] } }
     let fl : State := { g with hif := { g.hif with inFlight := [frameA] } }
     let st : StrSt := ⟨[], some ⟨0x2000, 65536, 0, 0, none, none, false⟩, false⟩
     let mr : State := ready 3 [(HIF_SMAP_RING 1, 0), (HIF_STR_CTL_STATE 0, 1), (HIF_CFG_AUTO_DRAIN, 1)]
     let m : State := { mr with mem := { mr.mem with share := (1, 1, 1) }, spill := ⟨[], [⟨frameA, false⟩]⟩, hif := { mr.hif with strs := mr.hif.strs.set 0 st } }
     done.awakeAt crest = true ∧ ((done.at crest).finishedFrame 1).map (·.shot) = some 3 ∧
      ((after (.frameWorkDone crest 1) done).f 1).recs.length = 0 ∧ ((after (.frameWorkDone (crest + 9) 1) done).f 1).late = 9 ∧
      (cov.at 9).covering 1 ≠ none ∧ ((after (.frameWorkDone (crest + 1000001) 1) cov).f 1).overtop = true ∧
      ((after (.frameWorkDone (crest + 1000000) 1) cov).f 1).overtop = false ∧ sg.awakeAt 9 = true ∧
      (takeFirst (fun (y : Staged) => y.frame.stream == 1) sg.hif.staged).1.isSome = true ∧
      (after (.frameDeliver 9 1) sg).hif.staged = [] ∧
      (after (.divert (5 + sg.get (SCH_FE_DIVERT_NS 1)) 1) sg).hif.staged = [] ∧
      (takeFirst (fun (y : Frame) => y.stream == 1) fl.hif.inFlight).1 = some frameA ∧ (after (.frameRelease 9 1) fl).hif.inFlight = [] ∧
      m.attach = 0 ∧ (drainPick (m.at 9) m.spill.reserved).1 = some frameA ∧
      (after (.drainFrame 9 []) m).spill.reserved.map (·.sent) = [true]) := by decide +kernel

/-- A staged group before its lock and at it, locked and applied at its boundary; loads that fail and that are admitted, and
an unload of an empty slot (GroupsLockAndApply). -/
theorem witness_groups :
    (let l := after (.commitLock 990000 0) staged
     let a := after (.commitApply 1000000 0) l
     let im : ImageRead := ⟨true, leBytes 4 0x53485401 ++ leBytes 4 0x01000001 ++ List.replicate 56 0, [], [], [], [], [], true⟩
     let ld := fun (i : Option ImageRead) => after (.loadSchedule hdr 64 64 i) (ready 3 [(BRM_STATUS_INIT_DONE, 1)])
     let un := after (.unloadSchedule hdr 3) (ready 3 [])
     staged.awakeAt 990000 = true ∧ (staged.group 0).map (fun g => (g.tb, g.locked)) = some (some (1000000 : Int), false) ∧
      (staged.group 0).map (fun g => ((staged.at 990000).groupCode g).1) = some 0 ∧ (l.group 0).map (·.locked) = some true ∧
      ((after (.commitLock 989999 0) staged).group 0).map (·.locked) = some false ∧ a.group 0 = none ∧ a.get SCH_CMT_LAST_CODE = 1 ∧
      (ld none).sch.loading.map (fun l => l.load && decide (l.slot < 4)) = some true ∧ ((ld none).at 9).loadCode none ≠ 0 ∧
      (after (.loadScheduleDone 9) (ld none)).get SCH_EVENTS_LOAD_FAIL = 1 ∧ ((ld (some im)).at 9).loadCode (some im) = 0 ∧
      (after (.loadScheduleDone 9) (ld (some im))).get SCH_EVENTS_LOADED = 1 ∧ (vget none un.sch.img 3).isNone = true ∧
      (after (.loadScheduleDone 9) un).get SCH_LOAD_RESULT_CODE = 13 ∧ runs un 0x0302 = true ∧
      runs (after (.loadScheduleDone 9) un) 0x0302 = false) := by decide +kernel

/-- The link lost and back, PERST_N low in HOLD and attached, a confirmed completion, a failed read of each kind, a
coalescing time (LinkLossDetaches). -/
theorem witness_link :
    (let s := ready 3 []
     let d := after (.linkDown 9) s
     let n := after (.nop hdr 0) s
     let c : State := { s with hif := { s.hif with cpls := s.hif.cpls.set 0 ⟨1, some 5, []⟩ } }
     s.upAt 9 = true ∧ s.attach = 0 ∧ d.attach = 1 ∧ d.get HIF_EVENTS_LINK_DOWN = 1 ∧ (after (.linkUp 9 3 3) d).attach = 2 ∧
      (after (.linkUp 9 3 3) d).get (HIF_CMD_CTL_STATE 0) = 0 ∧ (after (.perstNAssert 9) (ready 3 [(HIF_STATUS_ATTACH, 2)])).attach = 1 ∧
      (s.at 9).pwr.step = 0 ∧ (after (.perstNAssert 9) s).mode = 1 ∧ (after (.perstNAssert 9) s).get SYS_RESET_CAUSE_LAST = 3 ∧
      (n.cplRing 0).unconf.length = 1 ∧ n.hif.detachCmd = [] ∧ ((after (.completionConfirmed 9 0) n).cplRing 0).unconf.length = 0 ∧
      (s.at 9).get (ringState .cpl 0) = 1 ∧ (after (.fetchError 9 .cpl 0) s).get (HIF_CPL_CTL_STATE 0) = 4 ∧
      (after (.fetchError 9 .cmd 0) s).get HIF_EVENTS_FETCH_ERR = 1 ∧
      ((after (.coalesceTimeout (5 + 1000 * c.get (HIF_CPL_COAL_US_US 0)) 0) c).cplRing 0).firstAt = none) := by decide +kernel

/-! ### The converter and the Weirs -/

/-- A hardware, a grid and a continuous trigger of an idle converter; one behind a pass, one behind that; an injected one
(PmcTriggersStartConversions). -/
theorem witness_pmc_triggers :
    (let s := fun (l : List (FRef × Nat)) => up 3 (pmcSet ++ l)
     let h := s [(PMC_SEQ_TRIG, 3), (PMC_SEQ_HW_SRC, 30)]
     let p := after (.pmcTrigger 9 (.hw 30)) h
     let q := after (.pmcTrigger 9 (.hw 30)) p
     let g := s [(PMC_SEQ_TRIG, 2), (PMC_GRID_PERIOD_US, 100), (TIM_STATUS_GT_VALID, 1)]
     let c : State := { s [(PMC_SEQ_TRIG, 1)] with pmc := { PmcSt.init with cont := true } }
     let j := s [(PMC_INJ_TRIG_MODE 3, 1), (PMC_INJ_TRIG_HW_SRC 3, 29)]
     h.upAt 9 = true ∧ (h.at 9).pmcOn = true ∧ (h.at 9).pmcTrigMode = 3 ∧ (h.at 9).pmcHwSrc = 30 ∧ (h.at 9).hwLive 30 = true ∧
      h.pmc.conv = none ∧ h.pmc.pass = false ∧ h.pmc.cal = none ∧
      ((List.range ((h.at 9).get PMC_SEQ_LEN)).filter (fun k => cfgEn ((h.at 9).reg (PMC_SLOT_CFG k)))) = [0, 1] ∧
      p.pmc.conv.map (fun c => (c.slot, c.x)) = some (0, 15625) ∧ q.pmc.pend = true ∧
      (after (.pmcTrigger 9 (.hw 30)) q).get PMC_EVENTS_TRIG_OVR = 1 ∧
      ((g.at 200000).gridOf 200000 - 1000 * (g.at 200000).get PMC_GRID_OFS_US) % 100000 = 0 ∧
      (after (.pmcTrigger 200000 .grid) g).pmc.pass = true ∧ (after (.pmcTrigger 9 .continuous) c).pmc.pass = true ∧
      (j.at 9).hwLive 29 = true ∧ (after (.pmcInjHwTrigger 9 3 29) j).pmc.conv.map (·.slot) = some 67) := by decide +kernel

/-- A result of a slot and of an injected channel, a calibration that ends with and without its NV copy, the reference, and
the die temperature at its limits (PmcResultsAreWritten). -/
theorem witness_pmc_results :
    (let s := up 3 pmcSet
     let p := after (.pmcSeqStart host (PMC_SEQ_START.put (s.reg PMC_SEQ) 1)) s
     let i := after (.pmcInjStart host 3 ((PMC_INJ_TRIG_START 3).put 0 1)) s
     let done : State → Nat := fun x => (match x.pmc.conv with | some c => c.done.toNat | none => 0 : Nat)
     let cal := fun (save : Bool) => after (.pmcCalibrate hdr 1 false save) (ready 2 [(PMC_CTL_EN, 1)])
     let e := after (.pmcCalDone 9 [] false) (cal true)
     p.pmc.conv.map (·.slot) = some 0 ∧ i.pmc.conv.map (·.slot) = some 67 ∧
      p.pmc.conv.any (fun c => (p.at (done p + 1)).convReady c [⟨0, false⟩]) = true ∧
      i.pmc.conv.any (fun c => (i.at (done i + 1)).convReady c [⟨0, false⟩]) = true ∧
      p.pmc.conv.any (fun c => (p.at (done p - 1)).convReady c [⟨0, false⟩]) = false ∧
      (after (.pmcResult (done p + 1) [⟨0, false⟩]) p).pmc.conv.map (·.slot) = some 1 ∧
      (after (.pmcInjResult (done i + 1) [⟨0, false⟩]) i).get PMC_EVENTS_INJ_DONE = 1 ∧
      (cal true).pmc.cal.map (·.saveOnly) = some true ∧ e.get PMC_CAL_RESULT_CODE = 4 ∧ e.pmc.cal.isNone = true ∧
      ((cal false).at 9).pmcMeasuring = true ∧ (after (.pmcCalDone 9 [] true) (cal false)).pmc.cal.isNone = true ∧
      (after (.refFail 9 true) s).get PMC_EVENTS_REF_FAIL = 1 ∧ vget .ok (after (.refFail 9 true) s).flt.rails 84 = .err ∧
      (s.get FLT_CFG_THERM_LIMIT) ≤ 12500 ∧ vget .ok (after (.dieTempUpdate 9 12500) s).flt.rails 11 = .err ∧
      vget .ok (after (.dieTempUpdate 9 12500) s).flt.rails 12 = .err ∧ vget .ok (after (.dieTempUpdate 9 12499) s).flt.rails 11 = .ok) := by
  decide +kernel

/-- A crossing above and at the threshold, a gate window, an automatic clear at a frame start, the return of VDD_A18, and a
Weir that resolves (WeirsLatchAndResolve). -/
theorem witness_weirs :
    (let s := up 3 weir2
     let g := up 3 (weir2 ++ [(WMN_WM_CFG_GATE_EN 2, 1), (WMN_WM_GATE_DUR_DUR 2, 70), (LNC_STATUS_STATE 0, 2)])
     let gl := g.modF 0 (fun f => { f with next := some ⟨3, 1000⟩ })
     let a := up 3 (weir2 ++ [(WMN_WM_CFG_AUTO_CLR 2, 1), (TIM_STATUS_GT_VALID, 1), (latchBit 2, 1)])
     let u := after (.vddA18Return 100) s
     s.upAt 9 = true ∧ (s.at 9).weirEn 2 = true ∧ (s.weir 2).unres = none ∧ upperUsed (s.at 9).regs 2 = true ∧
      weirHi (s.at 9).regs 2 = 1000000 ∧ (s.at 9).weirGate 2 = true ∧ (s.weir 2).act = false ∧
      (after (.weirCrossing 9 2 1000001) s).get (latchBit 2) = 1 ∧ (after (.weirCrossing 9 2 1000000) s).get (latchBit 2) = 0 ∧
      (gl.at 1000).on (WMN_WM_CFG_GATE_EN 2) = true ∧
      (((gl.at 1000).aheadTo 0 ((gl.at 1000).weirLaunch 2)).launchAt 0 ((gl.at 1000).weirLaunch 2)) = true ∧
      ((after (.weirGateOpen 1000 2) gl).weir 2).gEnd = 1070 ∧ (a.at 1000000).weirOut 2 = false ∧
      extOf (a.at 1000000).regs ((a.at 1000000).get (WMN_WM_CFG_FE 2)) = false ∧
      ((a.at 1000000).gridOf (a.at 1000000).now - (a.f 0).anchorT) % priOf (a.at 1000000).regs 0 = 0 ∧
      (after (.weirAutoClear 1000000 2) a).get (latchBit 2) = 0 ∧ (u.weir 2).unres = some 100 ∧ u.get (latchBit 2) = 1 ∧
      (u.at 10200).weirSafe 2 (u.weir 2).level = true ∧ (u.at 10200).resolvedAt 2 100 ≤ 10200 ∧
      (after (.resolved 10200 2 (u.weir 2).level) u).get (WMN_STATUS_UNRESOLVED.bit 2) = 0 ∧
      (after (.resolved 10200 2 (u.weir 2).level) u).get (latchBit 2) = 1) := by decide +kernel

/-- A threshold read back well and badly, and one not checked in time (ThresholdsAreReadBack). -/
theorem witness_readback :
    (let s := up 3 (weir2 ++ [(WMN_RB_CFG_EN, 1)])
     let r := fun (u : Int) => after (.rbCheck 9 2 true) (s.modW 2 (fun w => { w with hi := ⟨0, 0, false, [(u, 5)]⟩ }))
     let e := uExp 1012
     let late := 1000000 * s.get WMN_RB_CFG_PERIOD_MS
     s.upAt 9 = true ∧ (s.at 9).thrUsed 2 true = true ∧ (s.at 9).on WMN_RB_CFG_EN = true ∧ (r e).get (WMN_RB_STATUS_BAD.bit 2) = 0 ∧
      (r (e + 5000000)).get (WMN_RB_STATUS_BAD.bit 2) = 1 ∧ vget .ok (r (e + 5000000)).flt.rails 92 = .err ∧
      ((s.weir 2).thr true).stale = false ∧ ((s.weir 2).thr true).chk = 0 ∧
      (after (.rbStale late 2 true) s).get WMN_EVENTS_RB_STALE = 1 ∧ (after (.rbStale (late - 1) 2 true) s).get WMN_EVENTS_RB_STALE = 0) := by
  decide +kernel
/-! ### Faults -/

/-- A capture of class C, of class U and of class F, one of a source that has not left (1,0), and a wire fault
(CapturesReactByClass). -/
theorem witness_captures :
    (let s := up 3 []
     let t := after (.faultCapture 9 28) s
     s.upAt 9 = true ∧ srcClass 28 = 1 ∧ vget true s.flt.armed 28 = true ∧ (t.reg (FLT_STICKY 0)).getLsbD 28 = true ∧
      t.flt.window.isSome = true ∧ (s.at 9).srcScopes 28 = 1 ∧ t.contained 0 = true ∧ vget true t.flt.armed 28 = false ∧
      (after (.faultCapture 10 28) t).flt.window = t.flt.window ∧ srcClass 8 = 2 ∧ (after (.faultCapture 9 8) s).mode = 7 ∧
      (after (.faultCapture 9 8) s).get FLT_SH_CAUSE_SOURCE = 8 ∧ (after (.faultCapture 9 8) s).latched = true ∧ srcClass 115 ≠ 2 ∧
      (after (.wireFault 9 115) s).get FLT_EVENTS_WIRE = 1 ∧ ((after (.wireFault 9 115) s).reg (FLT_WIRE 3)).getLsbD 19 = true) := by
  decide +kernel

/-- A window of class C at its time and before it, one of class U with APP contained, an injection over, a source cleared,
RECOVER completed by the release of the cores (WindowsAndInjectionsEnd). -/
theorem witness_windows :
    (let s := up 3 []
     let c := after (.faultCapture 9 16) s
     let u := after (.faultCapture 9 23) s
     let w := after (.windowClose 20 ) u
     let i := after (.faultInject hdr 20 0 5000) (ready 5 [(HIF_CMD_TAIL_INDEX 0, 2)])
     let e := after (.injectionWindowEnd 6005 false) i
     let r : State := { ready 6 [] with flt := { (ready 6 []).flt with recover := some (cmdOf hdr 0x0403, 16) } }
     srcClass 16 = 0 ∧ c.flt.window.map (fun w => (w.cls, w.opened)) = some (0, 9) ∧ (after (.windowClose 1008) c).flt.window.isSome = true ∧
      (after (.windowClose 1009) c).get FLT_EVENTS_C_RAISED = 1 ∧ srcClass 23 = 1 ∧
      u.flt.window.map (fun w => w.cls == 1 && w.scopes.testBit 4) = some true ∧ w.mode = 6 ∧ w.get FLT_EVENTS_U_RAISED = 1 ∧
      i.flt.inj.map (fun j => (j.start, j.dur)) = some (5, 5000) ∧ e.get FLT_EVENTS_INJ_DONE = 1 ∧ runs e 0x0404 = false ∧
      ((u.at 9).srcHolds 23 || (u.at 9).injHolds 23) = false ∧ vget .ok (after (.sourceCleared 30 23) u).flt.rails 23 = .ok ∧
      r.upAt 9 = true ∧ (after (.appCoresReleased 9) r).flt.recover = none ∧ (after (.appCoresReleased 9) r).pwr.appUp = true) := by
  decide +kernel

/-- Each monitor (MonitorsRaiseTheirSources). -/
theorem witness_monitors :
    (let s := up 3 []
     let r := fun (c : Instr) (i : Nat) => vget .ok (after c s).flt.rails i
     s.upAt 9 = true ∧ r (.fltSelftest 9 false) 5 = .err ∧ r (.fltSelftest 9 true) 5 = .ok ∧ r (.polWdt 9) 4 = .err ∧ r (.appWdt 9) 23 = .err ∧
      r (.pwrUvRail 9 ⟨0, true⟩) 9 = .err ∧ r (.pwrUvRail 9 ⟨2, false⟩) 10 = .err) := by decide +kernel

/-! ### Memory -/

/-- Ticks below and at eight owed, windows at the ends of the range, an MR4 field at the boundary, self-refresh entered,
left and abandoned (RefreshKeepsItsCount). -/
theorem witness_refresh :
    (let s := fun (o : Nat) => up 3 [(MEM_STATUS_INIT_DONE, 1), (MEM_CH_STATUS_OWED 3, o), (MEM_CTL_SR_EN, 1)]
     let sr := after (.srEnter 1000000 3) (s 0)
     ((s 0).at 9).refreshing 3 = true ∧ (after (.refreshTick 9 3) (s 7)).get (MEM_CH_STATUS_OWED 3) = 8 ∧
      (after (.refreshTick 9 3) (s 8)).get MEM_EVENTS_REF_MISS = 1 ∧ (after (.refreshTick 9 3) (s 8)).getI (MEM_CH_STATUS_OWED 3) = 8 ∧
      (after (.refreshWindow 9 3) (s 8)).get (MEM_CH_REF_CNT_COUNT 3) = 9 ∧ (after (.refreshWindow 9 3) (s 8)).getI (MEM_CH_STATUS_OWED 3) = -1 ∧
      (after (.refreshWindow 9 3) (s 63)).get (MEM_CH_REF_CNT_COUNT 3) = 0 ∧ (after (.mr4Poll 9 3 0x0B) (s 0)).get (MEM_CH_STATUS_DOUBLED 3) = 1 ∧
      (after (.mr4Poll 9 3 0x0A) (s 0)).get (MEM_CH_STATUS_DOUBLED 3) = 0 ∧ ((s 0).at 9).srInhibit 3 = false ∧ ((s 0).at 9).srIdle 3 = false ∧ ((s 0).at 1000000).srIdle 3 = true ∧ (sr.at 9).inSr 3 = true ∧
      (after (.srExit 9 3 true 1) (s 0)).get MEM_EVENTS_SR_ABANDON = 1 ∧ (after (.srExit 12 3 false 1) sr).get (MEM_CH_STATUS_SR 3) = 0) := by
  decide +kernel

/-- A failed eye case, a scrub pass, both initialisations, a test run and a dump with no ring (MemoryUnitsFinish). -/
theorem witness_memory_units :
    (let s := up 3 [(MEM_CTL_EYE_EN, 1), (MEM_STATUS_INIT_DONE, 1), (BRM_SCRUB_CFG_EN, 1), (MEM_TEST_CTL_BUSY, 1)]
     let i : State := { s with mem := { s.mem with initRun := true, dump := some ⟨4, [], false⟩ } }
     s.upAt 9 = true ∧ (s.at 9).refreshing 0 = true ∧ vget .ok (after (.eyeMonitorRound 9 0 false) s).flt.rails 81 = .err ∧
      (s.at 9).ladder = 0 ∧ (after (.scrubPass 9 []) s).get BRM_PASS_CNT_COUNT = 1 ∧ (after (.bermInitDone 9) s).get BRM_STATUS_INIT_DONE = 1 ∧
      (after (.memInitDone 9) i).get MEM_EVENTS_INITED = 1 ∧ (after (.testRunDone 9 0x3FFFFFF) s).reg MEM_TEST_FAIL = 0x3FFFFFF ∧
      (i.at 9).get (HIF_STR_CTL_STATE 4) = 0 ∧ (after (.histDone 9) i).mem.dump = none ∧
      (after (.histDone 9) i).get MEM_EVENTS_HIST_DONE = 1) := by decide +kernel

/-! ### Power, boot, reset -/

/-- The ladder down and up, and each wake from each state that it leaves (LadderAndWakes). -/
theorem witness_ladder :
    (let s := up 2 [(PWR_LAT_TOL_HI_NS, 0xFFFFFFFF)]
     let on := fun (m l : Nat) => up m [(PWR_MODE_LADDER, l)]
     let al := fun (m l : Nat) => up m [(PWR_MODE_LADDER, l), (PWR_WAKE_CFG_RTC_EN, 1), (PWR_ALARM_LO_TICKS, 0), (PWR_ALARM_HI_TICKS, 0)]
     let w := fun (c : Instr) (x : State) => ((after c x).ladder, (after c x).pwr.step, (after c x).get PWR_WAKE_CAUSE_SOURCE)
     (s.at 9).mainUp = true ∧ (s.at 9).ladder = 0 ∧ 1 ≤ (s.at 9).ladderPick ∧ (s.at 9).ladderPick ≤ 5 ∧
      (after (.ladderEntry 9) s).ladder = (s.at 9).ladderPick ∧ ((on 3 2).at 9).ladderTarget true = 0 ∧
      (after (.ladderExit 9) (on 3 2)).ladder = 0 ∧ (after (.barAccessWake 9) (on 3 3)).ladder = 0 ∧ (on 2 4).pwr.aon = true ∧
      w (.wakeN 9) (on 2 4) = (0, 0, 1) ∧ w (.rtcAlarm 9) (al 2 4) = (0, 0, 2) ∧ w (.pcieReceiverDetected 9) (on 2 4) = (0, 0, 4) ∧
      w (.perstNRelease 9) (on 2 4) = (0, 0, 5) ∧ w (.wakeN 9) (on 2 5) = (5, 1, 1) ∧ w (.perstNRelease 9) (on 2 5) = (5, 1, 5) ∧
      w (.pcieReceiverDetected 9) (on 2 5) = (5, 0, 0) ∧ w (.wakeN 9) (on 0 6) = (0, 1, 1) ∧ w (.rtcAlarm 9) (al 0 6) = (0, 1, 2) ∧
      w (.perstNRelease 9) (on 0 6) = (6, 0, 0)) := by decide +kernel

/-- The latch check in L5, and step 5 after L5 with a digest that holds and one that fails (LadderAndWakes). -/
theorem witness_resume :
    (let s := up 3 [(PWR_MODE_LADDER, 5)]
     let r : State := { s with pwr := { s.pwr with step := 5 } }
     let t := after (.bootStepDone 9 ⟨false, true, true, 3, 4, false, 0, true, [], [], [], 3⟩) r
     (s.at 9).pwr.aon = true ∧ (s.at 9).ladder = 5 ∧ (after (.faultCapture 9 6) s).latched = true ∧
      (after (.faultCapture 9 6) s).get FLT_SH_CAUSE_SOURCE = 6 ∧ (r.at 9).resuming = true ∧ (r.at 9).pwr.porst = false ∧
      (r.at 9).latched = false ∧ (t.ladder, t.mode, t.pwr.step) = (0, 1, 6)) := by decide +kernel

/-- Every step of the rails and of the boot, the rail failure at its time, and each end of step 6 (RailsAndBootSteps; at
step 11 the boot time shown is a free value). -/
theorem witness_boot :
    (let b := fun (k : Nat) => { up 1 [(BRM_STATUS_INIT_DONE, 1)] with pwr := { PwrSt.init with step := k } }
     let i : BootInfo := ⟨true, true, true, 3, 4, false, 0, true, [], [], [], 3⟩
     let bad : BootInfo := ⟨true, false, false, 3, 4, false, 0, true, [], [], [], 3⟩
     let st := fun (c : Instr) (k : Nat) => ((after c (b k)).pwr.step, (after c (b k)).mode)
     let sh : State := { b 6 with flt := { FltSt.init with faultN := true } }
     (b 1).pwr.aon = true ∧ (b 1).pwr.wakeAt = 0 ∧ (b 1).stepNs = 2000000 ∧ st (.powerSequenceStep 1999999 true) 1 = (1, 1) ∧
      st (.powerSequenceStep 2000000 true) 1 = (2, 1) ∧ st (.powerSequenceStep 8000000 true) 4 = (5, 1) ∧ st (.railFail 10000000) 1 = (0, 0) ∧
      st (.railFail 9999999) 1 = (1, 1) ∧ st (.railFail 16000000) 4 = (0, 0) ∧ ((b 5).at 9).mainUp = true ∧ st (.bootStepDone 9 i) 5 = (6, 1) ∧
      slotPick 0 i = some true ∧ slotPick 0 bad = none ∧ st (.bootStepDone 9 i) 6 = (7, 1) ∧ (after (.bootStepDone 9 bad) (b 6)).pwr.bootFail = true ∧
      (sh.at 9).latched = true ∧ (after (.bootStepDone 9 i) sh).mode = 7 ∧ st (.bootStepDone 9 i) 7 = (8, 1) ∧
      st (.bootStepDone 9 i) 8 = (9, 1) ∧ (after (.bootStepDone 9 i) (b 9)).pwr.step = 10 ∧ st (.bootStepDone 9 i) 10 = (11, 1) ∧
      ((b 11).at 9).mainUp = true ∧ ((b 11).at 9).contained 4 = false) := by decide +kernel

/-- PORST_N low on a running and on a latched machine and high again; VDD_AON off and on (PowerOnResets). -/
theorem witness_power_on :
    (let s := up 3 []
     let l : State := { s with flt := { FltSt.init with faultN := true } }
     let p := after (.porstNAssert 9) s
     let f := after (.vddAonFall 9) s
     let r := after (.vddAonRise 12) f
     (s.at 9).mainUp = true ∧ p.mode = 1 ∧ p.pwr.step = 5 ∧ p.mainUp = false ∧ p.get SYS_RESET_CAUSE_LAST = 2 ∧
      (l.at 9).latched = true ∧ (after (.porstNAssert 9) l).mode = 7 ∧ (after (.porstNRelease 10) p).mainUp = true ∧ (s.at 9).pwr.aon = true ∧
      f.pwr.aon = false ∧ f.mode = 0 ∧ (f.at 12).pwr.aon = false ∧ r.pwr.aon = true ∧ r.mode = 1 ∧ r.pwr.step = 1) := by decide +kernel

/-! ### Frames -/

/-- Commands with a frame, one with a list of registers, a write that is taken and one that is refused, and a NOP whose
completion is written and one whose ring is not open (CommandsKeepTheRest, SmallCommandsKeepOtherRegisters,
RegisterWritesKeepTheRest, CompletionsFillOneSlot). -/
theorem witness_keeps :
    (let s := ready 3 []
     let n := after (.nop hdr 0) s
     let shut := ready 3 [(HIF_CPL_CTL_STATE 0, 0)]
     (frameOf (.nop hdr 0)).isSome = true ∧ (regFrameOf (.pllLock 9)).isSome = true ∧ reach s host = true ∧ SYS_INT_EN < 0x400000 ∧
      SYS_INT_EN ≠ SYS_RESET ∧ starts s 0 none = true ∧ starts shut 0 none = true ∧
      (s.begun hdr 0).cplOpen 0 = true ∧ (s.begun hdr 0).cplRoom 0 = true ∧ (s.begun hdr 0).hif.heldCpl = [] ∧
      n.get (HIF_CPL_TAIL_INDEX 0) = 1 ∧ (List.range 8).map (fun k => (tget 0 n.hostMem (0x1000 + k)).toNat) = [7, 0, 0, 0, 0, 0, 0, 1] ∧
      (shut.begun hdr 0).cplOpen 0 = false ∧ (after (.nop hdr 0) shut).hostMem = [] ∧
      (after (.nop hdr 0) shut).hif.heldCpl.length = 1) := by decide +kernel
/-! ### Further clauses of the statements above, by group -/

/-- A FENCE that waits for a running command marks its ring, and a later descriptor then waits (UnstartableDescriptorWaits);
DETACH of an internal ring (ImmediateCommandsComplete). -/
theorem witness_fence_and_internal :
    (let r := after (.faultInject hdr 20 0 5000) (ready 5 [(HIF_CMD_TAIL_INDEX 0, 3)])
     let f := { hdr with reqId := 9, fence := true }
     let m := after (.nop f 0) r
     let i := { hdr with ring := 16 }
     let u : State := { ready 3 [] with pwr := { (ready 3 []).pwr with appUp := true } }
     (r.at 5).ringReady f = true ∧ (r.ring 0).fence = none ∧ (r.ring 0).running ≠ [] ∧ (m.ring 0).fence = some 9 ∧
      (m.at 5).canStart { hdr with reqId := 10 } 0 = false ∧ startsAt i u 0x0603 none = true ∧
      (after (.detach i) u).attach = 1) := by decide +kernel

/-- Calibration of a channel whose engine is armed; an unload while a load runs (CalibrationsStartOrAreRefused,
ScheduleCommandsStart). -/
theorem witness_refused_starts :
    (let a := ready 2 [(LNC_STATUS_STATE 0, 2)]
     let busy := after (.loadSchedule hdr 64 0 none) (ready 3 [(HIF_CMD_TAIL_INDEX 0, 2)])
     let h2 := { hdr with reqId := 8 }
     starts a 0x0201 none = true ∧ a.acq.cal = none ∧ chansOf 1 = [0] ∧ a.busyFe (chanFe 0) = true ∧
      (after (.acqCalibrate hdr 1 false false) a).get ACQ_CAL_RESULT_CODE = 4 ∧ startsAt h2 busy 0x0302 none = true ∧
      (after (.unloadSchedule h2 3) busy).get SCH_LOAD_RESULT_CODE = 2) := by decide +kernel

/-- A list whose engine has no image, and one too near its boundary (CommitStagesAndCancelWithdraws). -/
theorem witness_commit_refused :
    (let b := (ready 3 []).begun hdr 0x0303
     let a := b.ahead b.sch.staged
     let list := fun (tb off v : Nat) => leBytes 2 1 ++ leBytes 1 1 ++ leBytes 1 0 ++ leBytes 4 0 ++ leBytes 8 tb ++
       leBytes 4 0 ++ leBytes 4 off ++ leBytes 4 v ++ leBytes 4 0
     let no := list 1000000 (TIM_FE_PRI 0) 2000000
     let late := list 10004 PMC_GRID_PERIOD 5000
     b.commitPre a (commitParse 32 no) = 0 ∧
      (commitParse 32 no).any (fun l => (b.groupCode (b.groupOf a (cmdOf hdr 0x0303) l)).1 != 0) = true ∧
      b.commitPre a (commitParse 32 late) = 0 ∧ (commitParse 32 late).any (fun l =>
        (b.groupCode (b.groupOf a (cmdOf hdr 0x0303) l)).1 == 0 && !b.lateOk a l (b.groupOf a (cmdOf hdr 0x0303) l).tb) = true ∧
      answered (after (.commit hdr 64 32 (some late)) (ready 3 [])) 2 0 = true) := by decide +kernel

/-- RECOVER of APP, which waits for the cores; a second NV write (RecoverAndFaultInjectAct, NvCommandsAnswer). -/
theorem witness_recover_app_and_nv_busy :
    (let c := ready 6 [(FLT_STATUS_CONTAINED, 16)]
     let w := after (.nvWrite hdr 64 0x4000 8 (some [1, 2, 3, 4, 5, 6, 7, 8])) (ready 2 [(NVS_WP_WP, 127), (HIF_CMD_TAIL_INDEX 0, 2)])
     let h2 := { hdr with reqId := 8 }
     starts c 0x0403 none = true ∧ (c.begun hdr 0x0403).recoverCode 16 = 0 ∧ (after (.recover hdr 16) c).contained 4 = false ∧
      runs (after (.recover hdr 16) c) 0x0403 = true ∧ startsAt h2 w 0x0501 none = true ∧ (w.begun h2 0x0501).nvs.wr.isSome = true ∧
      (after (.nvWrite h2 64 0x4000 8 (some [0])) w).get NVS_LAST_CODE = 5) := by decide +kernel

/-- SET_MODE while the SENTINEL exit group waits, with a token that cannot be read, and with a false one
(SetModeEntersTheMode). -/
theorem witness_set_mode_refused :
    (let s := ready 4 []
     let p : State := s.modF 1 (fun f => { f with due := [⟨9, none, true, [], [], some none, 8⟩] })
     let k : TokenRead := ⟨List.replicate 32 0, false⟩
     starts p 0x0401 none = true ∧ (p.begun hdr 0x0401).changing = true ∧ answered (after (.setMode hdr 3 0 none) p) 3 4 = true ∧
      starts (ready 3 []) 0x0401 none = true ∧ ((ready 3 []).begun hdr 0x0401).needsToken 2 = true ∧
      ((ready 3 []).begun hdr 0x0401).tokenOk k = false ∧ answered (after (.setMode hdr 2 64 (some k)) (ready 3 [])) 2 3 = true ∧
      (after (.setMode hdr 2 64 (some k)) (ready 3 [])).get PWR_EVENTS_KEY_FAIL = 1 ∧
      answered (after (.setMode hdr 2 64 none) (ready 3 [])) 4 3 = true) := by decide +kernel

/-- A token with the device's challenge and serial number and a good signature is valid (SetModeEntersTheMode). -/
theorem witness_token (s : State) : ∃ k : TokenRead, s.tokenOk k = true := by
  refine ⟨⟨s.challengeBytes ++ serialBytes, true⟩, ?_⟩
  have h : (s.challengeBytes ++ serialBytes).length ≤ 32 := by
    simp [State.challengeBytes, serialBytes, List.range, List.range.loop, leBytes]
  simp [State.tokenOk, List.take_of_length_le h]

/-- A storing register of each other block that holds one; an RWP register that the Polder writes in BOOT; the bytes of a
narrow read (LegalWriteStores, ReadsClearAndCapture). -/
theorem witness_blocks_and_bytes :
    (let s := up 3 []
     let b := up 1 []
     let pol : Bus := ⟨5, .polder⟩
     let off := LNC_ENV_PEAK 1
     [PWR_INT_EN, ACQ_CAL_CTL, PHS_NBINS 1, ACF_CFG 2, DTS_CFG 3, LNC_SEG_LEN 0 0].all
        (fun o => [0, 1, 3, 4, 5, 6, 7, 8, 10, 14, 16, 17].contains (o / 65536) && take s host o (s.reg o)) = true ∧
      reach b pol = true ∧ hasAcc off (fun a => a == .rwp) = true ∧ off / 65536 = 3 ∧ (b.seenAt pol off).weirOpen = true ∧
      (b.seenAt pol off).busyFe 1 = false ∧ wordOkP (b.seenAt pol off).regs off 9 = true ∧
      (after (.registerWrite pol off 4 9) b).reg off = 9 ∧ TIM_FE_PRI 0 % 4 = 0 ∧
      s.busData host (TIM_FE_PRI 0 + 1) 2 = some [0x42, 0x0F]) := by decide +kernel

/-- TRACK_ID in TRACK mode, of a track that exists and of one that does not (TrackAndMemoryWritesAct). -/
theorem witness_track_id :
    (let s := (up 3 [(TRK_ENC_CFG_MODE 1, 1), (TRK_ENC_STATUS_SRC_LOST 1, 1)]).modF 0
      (fun f => { f with evt := { f.evt with tracks := [some ⟨4, 1, 0, 0, 0, 0, 0, 0, 0, 0⟩] } })
     take s host (TRK_ENC_TRACK_ID 1) 4 = true ∧ (s.at 5).get (TRK_ENC_CFG_MODE 1) = 1 ∧ (s.at 5).get (TRK_ENC_CFG_FE 1) = 0 ∧
      (after (.trackIdWrite host 1 4) s).get (TRK_ENC_STATUS_SRC_LOST 1) = 0 ∧ take s host (TRK_ENC_TRACK_ID 1) 5 = true ∧
      (after (.trackIdWrite host 1 5) s).get (TRK_ENC_STATUS_HOLD 1) = 1) := by decide +kernel

/-- The start of a sequence on an idle converter; SPI writes that are taken, and one of an offset with no register
(PmcWritesAct, SpiWritesOnlyThePmc). -/
theorem witness_pmc_start_and_spi :
    (let s := up 3 pmcSet
     let w := PMC_SEQ_START.put (s.reg PMC_SEQ) 1
     let i := up 3 [(PMC_SPI_CFG_WR_EN, 1)]
     take s host PMC_SEQ w = true ∧ PMC_SEQ_TRIG.of w = 0 ∧ s.pmc.conv = none ∧
      (List.range (PMC_SEQ_LEN.of w)).filter (fun k => cfgEn ((s.at 5).reg (PMC_SLOT_CFG k))) = [0, 1] ∧
      (after (.pmcSeqStart host w) s).pmc.conv.map (fun c => (c.slot, c.x)) = some (0, 15625) ∧
      (i.at 5).spiTakes PMC_INT_EN 1 = true ∧ i.pmc.spiErr = false ∧ (i.at 5).spiTakes 0x0CFFFC 1 = false ∧
      hasAcc 0x0CFFFC (fun a => a == .rwp) = false ∧ (after (.spiTransaction 5 0 0xFFFC [1] 0) i).pmc.spiErr = true ∧
      (up 7 [(PMC_SPI_CFG_WR_EN, 1)]).mainUp = true ∧
      (after (.spiTransaction 5 0 (BitVec.ofNat 16 (PMC_INT_EN - 0x0C0000)) [1] 0) (up 7 [(PMC_SPI_CFG_WR_EN, 1)])).pmc.spiErr = true) := by
  decide +kernel

/-- The Polder's writes of a Weir: out of COMMISSION, of thresholds that cross, and one that turns it off (WeirWritesAct). -/
theorem witness_weir_configs :
    (let b := up 1 weir2
     let pol : Bus := ⟨5, .polder⟩
     let off := WMN_WM_CFG 2
     let both := (WMN_WM_CFG_MODE 2).put (b.reg off) 0
     let low := up 1 (weir2 ++ [(WMN_WM_THR_LO 2, 1012)])
     let none_ := (WMN_WM_CFG_EN 2).put (b.reg off) 0
     reach (up 3 weir2) pol = true ∧ ((up 3 weir2).at 5).weirOpen = false ∧
      (after (.weirConfigWrite pol 2 false none_) (up 3 weir2)).get (WMN_WM_CFG_EN 2) = 1 ∧ reach low pol = true ∧
      (low.at 5).weirBusy (rwriteP (low.at 5).regs off both) 2 = false ∧ wordOkP (low.at 5).regs off both = true ∧
      weirCfgOk (rwriteP (low.at 5).regs off both) 2 off = false ∧
      (after (.weirConfigWrite pol 2 false both) low).get WMN_EVENTS_CFG_ERR = 1 ∧
      weirCfgOk (rwriteP (b.at 5).regs off none_) 2 off = true ∧ wordOkP (b.at 5).regs off none_ = true ∧ (b.at 5).weirEn 2 = true ∧
      (after (.weirConfigWrite pol 2 false none_) (b.set (latchBit 2) 1)).get (latchBit 2) = 0) := by decide +kernel

/-- A stream doorbell with a bad descriptor first, and behind an open buffer; a warm reset at boot step 5
(DoorbellsMoveIndices, WarmResetRestartsTheBoot). -/
theorem witness_bad_buffer_and_early_reset :
    (let s := ready 3 [(HIF_STR_CTL_STATE 0, 1), (HIF_STR_CTL_SIZE_LOG2 0, 4)]
     let d : List BufDesc := [⟨0x1001, 4096⟩, ⟨0x2000, 4096⟩]
     let st : StrSt := ⟨[], some ⟨0x2000, 65536, 0, 0, none, none, false⟩, false⟩
     let o : State := { s with hif := { s.hif with strs := s.hif.strs.set 0 st } }
     let b : State := { up 1 [] with pwr := { PwrSt.init with step := 5 } }
     d.map bufDescOk = [false, true] ∧ idxSub 2 ((s.at 5).get (HIF_STR_TAIL_INDEX 0)) = 2 ∧
      ((after (.strDoorbell host 0 2 d) s).strRing 0).descs = [⟨0x2000, 4096⟩] ∧
      ((after (.strDoorbell host 0 2 d) o).strRing 0).descs = d ∧ reach b host = true ∧ (b.at 5).pwr.step = 5 ∧
      (after (.warmReset host 0x52450001) b).pwr.step = 5) := by decide +kernel

/-- A STATIC gate after a passed self-test; SAFE_N low while PORST_N holds the main domain, and its level met at the release
(ArmingEndsArmedOrSafe, TripsGoSafeAtOnce, PowerOnResets). -/
theorem witness_static_and_safe_n :
    (let a := arming.set (LNC_GATE_CFG_MODE 0 1) 1
     let p := after (.porstNAssert 9) (up 3 [])
     let f := after (.safeNFall 10) p
     let t := after (.porstNRelease 11) f
     a.awakeAt 2005 = true ∧ gateMode (a.at 2005).regs 0 1 = 1 ∧ ((after (.armSelftestDone 2005 0 true) a).f 0).gateActive 1 = true ∧
      (p.at 10).mainUp = false ∧ f.safeN = true ∧ f.lstate 3 = 0 ∧ t.mainUp = true ∧ t.lstate 3 = 3) := by decide +kernel

/-- The NV copy alone, asked for and made (AcqCalibrationRunsItsPhases). -/
theorem witness_cal_save_only :
    (let v := after (.acqCalibrate hdr 1 false true) (ready 2 [])
     v.awakeAt 9 = true ∧ v.acq.cal.map (fun c => c.saveOnly && decide (c.cmd.ring < 20)) = some true ∧
      (after (.acqCalDone 9 ⟨[], [], true⟩) v).get ACQ_CAL_RESULT_CODE = 0) := by decide +kernel

/-- A block whose one span holds n instants is a block of n samples of a coherent channel; n is bgLen for a full one
(BackgroundBlocksQueueUpdates). -/
theorem witness_full_block (s : State) (c : Fin 16) (n : Nat) (b : BgBlk) (h : s.blk c = { b with spans := [(0, n)], run := none }) :
    ((s.blkAt c).take n).length = n := by
  simp [State.blkAt, State.convAt, h, c.isLt]

/-- The multiples of 4 below 4n are n. -/
theorem fours_length (n : Nat) : ((List.range (4 * n)).filter (fun t => t % 4 == 0)).length = n := by
  induction n with
  | zero => rfl
  | succ k ih =>
    have h : 4 * (k + 1) = 4 * k + 1 + 1 + 1 + 1 := by omega
    rw [h]
    simp only [List.range_succ, List.filter_append, List.length_append, ih]
    have e : (4 * k) % 4 = 0 := by omega
    have e1 : (4 * k + 1) % 4 = 1 := by omega
    have e2 : (4 * k + 1 + 1) % 4 = 2 := by omega
    have e3 : (4 * k + 1 + 1 + 1) % 4 = 3 := by omega
    simp [e, e1, e2, e3]

/-- An engine whose intensity channel 1 has a block of one span over 4n ns, from grid time 0. -/
def darkState (n : Nat) : State :=
  (armedFe 0 0 [(ACQ_CAL_CTL_BG_IC_EN, 1), (ACQ_ICH_CFG_EN 1, 1), (ACQ_FE_DARK_LEN_LEN 0, 64)]).setBlk 17
    { BgBlk.init with spans := [(0, 4 * n)] }

/-- Its instants are the multiples of 4 (BackgroundBlocksQueueUpdates). -/
theorem dark_instants (n x : Nat) : ((darkState n).at x).blkAt 17 = (List.range (4 * n)).filter (fun t => t % 4 == 0) := by
  have hb : ((darkState n).at x).blk 17 = { BgBlk.init with spans := [(0, 4 * n)] } := rfl
  have hg : ((darkState n).at x).gtOff = 0 := rfl
  have hf : ∀ t : Nat, (decide ((17 : Nat) < 16) || ((darkState n).at x).gridOf t % 4 == 0) = (t % 4 == 0) := by
    intro t
    simp only [State.gridOf, hg, Int.add_zero, beq_eq_decide]
    simp only [show decide ((17 : Nat) < 16) = false from rfl, Bool.false_or]
    exact decide_eq_decide.mpr (by omega)
  simp only [State.blkAt, State.convAt, hb, BgBlk.init, Option.map_none, Option.toList_none, List.append_nil, List.flatMap_cons,
    List.flatMap_nil, Nat.sub_zero, hf]
  simp

/-- A full block of n samples, all in the past at 4n; with n = darkLen it is one of R126. -/
theorem witness_dark_block (n : Nat) :
    ((((darkState n).at (4 * n)).blkAt 17).take n).length = n ∧
      ((((darkState n).at (4 * n)).blkAt 17).take n).getLastD 0 ≤ 4 * n := by
  constructor
  · rw [dark_instants, List.length_take, fours_length, Nat.min_self]
  · have hm : ∀ t ∈ (((darkState n).at (4 * n)).blkAt 17).take n, t ≤ 4 * n := by
      intro t ht
      have := List.mem_of_mem_take ht
      rw [dark_instants] at this
      have := List.mem_range.mp (List.mem_of_mem_filter this)
      omega
    rw [List.getLastD_eq_getLast?]
    cases h : ((((darkState n).at (4 * n)).blkAt 17).take n).getLast? with
    | none => simp
    | some y => exact hm y (List.mem_of_getLast? h)

/-- Its channel calibrates, and a first sample of code 0 is not overrange (BackgroundBlocksQueueUpdates). -/
theorem witness_dark_sample :
    ((darkState 7).at 28).bgInt 1 = true ∧ (((darkState 7).at 28).bgSamples 17 [0] [0, 4]).map (·.ovr) = [false] := by
  decide +kernel

/-- Staging full of two other frames, for each kind of work; a shot behind a waiting input, and one at its phase of RATIO
(ShotsBecomeOutputs, RamanShotsAccumulate). -/
theorem witness_staging_full :
    (let fr := fun (w : Nat) => { frameA with work := some w }
     let l2 : State := { launched with hif := { launched.hif with staged := [⟨fr 7, none⟩, ⟨fr 8, none⟩] } }
     (l2.at 1300).stagingFull 1 3 = true ∧ (l2.at 1300).stagingFull 1 8 = false ∧ (launched.at 1300).stagingFull 1 3 = false ∧
      (launched.f 1).recs.map (fun r => ((if r.sent.isSome then r.idx else r.shot) % ratioOf r.regs 1, acfPhaseOf r.regs 1)) = [(0, 0)]) := by
  decide +kernel

/-- Lines of an input that is disabled; an index gated and open (EncoderInputsCount). -/
theorem witness_encoder_more :
    (let d := up 3 [(TRK_QIN_POS_POS 1, 9)]
     let g := up 3 [(TRK_QIN_CFG_EN 1, 1), (TRK_QIN_CFG_IDX_GATE 1, 1), (TRK_QIN_STATUS_LINES 1, 3), (TRK_QIN_POS_POS 1, 9)]
     (d.at 50).on (TRK_QIN_CFG_EN 1) = false ∧ (after (.encoderEdge 50 1 true false) d).get (TRK_QIN_POS_POS 1) = 9 ∧
      (after (.encoderEdge 50 1 true false) d).get (TRK_QIN_STATUS_LINES 1) = 1 ∧ (g.at 50).get (TRK_QIN_STATUS_LINES 1) % 4 = 3 ∧
      (after (.indexPulse 50 1 true) g).get (TRK_QIN_IDX_CAP_CAP 1) = 9) := by decide +kernel

/-- An SSI port that is busy after its transfer; a high time at MONO and one beyond it (SwitchesAndSsiPorts). -/
theorem witness_ssi_more :
    (let s := up 3 [(TRK_SSI_CFG_EN 1, 1), (TRK_SSI_CFG_BITS 1, 12), (TRK_SSI_TIMING_PERIOD 1, 100)]
     let o := after (.ssiFrameStart 100000 1 false) s
     let m := 1000 * o.get (TRK_SSI_TIMING_MONO 1)
     let b : State := s.setSsi 1 ⟨200001, false, 0, 0⟩
     (after (.ssiFrameEnd 110000 1 0x123 ⟨true, m⟩) o).get (TRK_SSI_DATA_DATA 1) = 0x123 ∧
      (after (.ssiFrameEnd 110000 1 0x123 ⟨true, m + 1⟩) o).get (TRK_SSI_STATUS_END_ERR 1) = 1 ∧
      (after (.ssiFrameStart 200000 1 false) b).get (TRK_SSI_STATUS_OVR 1) = 1) := by decide +kernel

/-- The sources of the emulators: QIN, a track while its engine is not armed, a lost one; an emulator of MODE 3
(EmulatorsFollowTheirSource). -/
theorem witness_emulator_sources :
    (let q := up 3 [(TRK_ENC_CFG_MODE 2, 2), (TRK_ENC_CFG_QIN 2, 1)]
     let t := up 3 [(TRK_ENC_CFG_MODE 2, 1), (TRK_ENC_TRACK_ID_ID 2, 4)]
     let h := t.modF 0 (fun f => { f with evt := { f.evt with tracks := [some ⟨4, 1, 0, 0, 0, 0, 0, 0, 0, 0⟩] } })
     let e := up 3 [(TRK_ENC_CFG_MODE 2, 3), (TRK_ENC_STATUS_RUN 2, 1)]
     (match (q.at 2000).encSrc 2 with | .at_ ch => ch == 0 | _ => false) = true ∧
      (match (t.at 2000).encSrc 2 with | .lost => true | _ => false) = true ∧ ((t.at 2000).enc 2).gone = false ∧
      (match (h.at 2000).encSrc 2 with | .held => true | _ => false) = true ∧
      (after (.encTargetUpdate 2000 2) h).get (TRK_ENC_STATUS_HOLD 2) = 1 ∧
      (after (.encTargetUpdate 2000 2) h).get (TRK_ENC_STATUS_SRC_LOST 2) = 0 ∧
      (after (.encTargetUpdate 2000 2) e).get (TRK_ENC_STATUS_RUN 2) = 0) := by decide +kernel

/-- A finished frame whose shots were not cut, and a frame of the general part of the spillway drained
(FramesLeaveTheirStages). -/
theorem witness_frames_more :
    (let done := launched.modF 1 (fun f => { f with recs := f.recs.map (fun r => { r with phsDone := true }) })
     let st : StrSt := ⟨[], some ⟨0x2000, 65536, 0, 0, none, none, false⟩, false⟩
     let mr : State := ready 3 [(HIF_SMAP_RING 1, 0), (HIF_STR_CTL_STATE 0, 1), (HIF_CFG_AUTO_DRAIN, 1)]
     let m : State := { mr with mem := { mr.mem with share := (1, 1, 1) }, spill := ⟨[⟨frameA, false⟩], []⟩, hif := { mr.hif with strs := mr.hif.strs.set 0 st } }
     ((done.at 1001299).finishedFrame 1).map (·.lost) = some false ∧ (drainPick (m.at 9) m.spill.reserved).1 = none ∧
      (drainPick (m.at 9) m.spill.general).1 = some frameA ∧
      (after (.drainFrame 9 []) m).spill.general.map (·.sent) = [true]) := by decide +kernel

/-- An unload of an image whose engine is armed, and one that goes (GroupsLockAndApply). -/
theorem witness_unload :
    (let un := fun (l : List (FRef × Nat)) => after (.unloadSchedule hdr 0) (imaged (ready 3 l))
     let b := un [(LNC_STATUS_STATE 0, 2)]
     let f := un []
     (b.at 9).sch.loading.map (fun l => !l.load && decide (l.cmd.ring < 20) && l.slot == 0) = some true ∧
      (vget none b.sch.img 0).map (fun i => (feList i.feMask).any (fun n => (b.at 9).busyFe n)) = some true ∧
      (after (.loadScheduleDone 9) b).get SCH_LOAD_RESULT_CODE = 7 ∧
      (vget none f.sch.img 0).map (fun i => (feList i.feMask).any (fun n => (f.at 9).busyFe n)) = some false ∧
      (after (.loadScheduleDone 9) f).get SCH_LOAD_RESULT_CODE = 0 ∧
      (vget none (after (.loadScheduleDone 9) f).sch.img 0).isNone = true) := by decide +kernel

/-- PERST_N low keeps the link down; a confirmed DETACH detaches, a confirmed SET_MODE DORMANT powers down
(LinkLossDetaches). -/
theorem witness_link_more :
    (let p := after (.perstNAssert 9) (ready 3 [(HIF_STATUS_ATTACH, 2)])
     let d := after (.detach hdr) (ready 3 [])
     let z := after (.setMode hdr 0 0 none) (ready 3 [])
     p.pwr.perst = true ∧ (after (.linkUp 10 3 3) p).attach = 1 ∧
      (d.cplRing 0).unconf.map (fun c => (c.status, decide (c.cmd ∈ d.hif.detachCmd ∧ d.hif.dormCmd ≠ some c.cmd))) = [(0, true)] ∧
      (after (.completionConfirmed 9 0) d).attach = 1 ∧
      (z.cplRing 0).unconf.map (fun c => (c.status, decide (z.hif.dormCmd = some c.cmd))) = [(0, true)]) := by
  decide +kernel

/-- A pass of CONTINUOUS mode that is due, with nothing waiting (PmcTriggersStartConversions); a crossing of a lower threshold
(WeirsLatchAndResolve); a result older than its threshold (ThresholdsAreReadBack). -/
theorem witness_converter_and_weirs_more :
    (let c : State := { up 3 (pmcSet ++ [(PMC_SEQ_TRIG, 1)]) with pmc := { PmcSt.init with cont := true } }
     let w := up 3 [(WMN_WM_CFG_EN 2, 1), (WMN_WM_CFG_MODE 2, 2), (WMN_WM_THR_LO 2, 1012), (WMN_WM_THR_HI 2, 1023)]
     let r := (up 3 (weir2 ++ [(WMN_RB_CFG_EN, 1)])).modW 2 (fun w => { w with hi := ⟨6, 0, false, [(7, 5)]⟩ })
     (c.at 9).contDue = true ∧ (List.range 4).all (fun i => vget 0 c.pmc.wait i == 0) = true ∧
      lowerUsed (w.at 9).regs 2 = true ∧ weirLo (w.at 9).regs 2 = 1000000 ∧
      (after (.weirCrossing 9 2 999999) w).get (latchBit 2) = 1 ∧ (after (.weirCrossing 9 2 1000000) w).get (latchBit 2) = 0 ∧
      ((after (.rbCheck 9 2 true) r).weir 2).hi = ⟨6, 0, false, []⟩) := by decide +kernel

/-- A capture of class C, one of a clamp source, and a wire fault of class F (CapturesReactByClass); a fatal window stays,
and a source whose state lasts is not cleared (WindowsAndInjectionsEnd). -/
theorem witness_faults_more :
    (let s := up 3 []
     let c := after (.faultCapture 9 16) s
     let f := after (.faultCapture 9 8) s
     srcClass 16 = 0 ∧ c.flt.window.isSome = true ∧ c.mode = 3 ∧ srcClass 24 = 0 ∧ vget true ((s.at 9).lncSync 0).flt.armed 24 = true ∧
      ((after (.faultCapture 9 24) s).reg (FLT_STICKY 0)).getLsbD 24 = true ∧ vget true s.flt.wireArmed 8 = true ∧
      (after (.wireFault 9 8) s).mode = 7 ∧ f.upAt 20 = true ∧ f.flt.window.map (·.cls) = some 2 ∧
      (after (.windowClose 2000) f).flt.window.isSome = true ∧ ((s.at 9).srcHolds 16 || (s.at 9).injHolds 16) = true) := by
  decide +kernel

/-- A dump into a running ring with room (MemoryUnitsFinish); a wake from DORMANT before the end of the hold of the enables,
whose first step ends with it (RailsAndBootSteps). -/
theorem witness_dump_and_hold :
    (let st : StrSt := ⟨[], some ⟨0x2000, 65536, 0, 0, none, none, false⟩, false⟩
     let m0 := ready 3 [(HIF_STR_CTL_STATE 4, 1)]
     let m : State := { m0 with mem := { m0.mem with hist := [{ frameA with gt := 5 }], dump := some ⟨4, [{ frameA with gt := 5 }], false⟩ }, hif := { m0.hif with strs := m0.hif.strs.set 4 st } }
     let b : State := { up 0 [(PWR_MODE_LADDER, 6)] with pwr := { PwrSt.init with step := 0, good := 0, enableAt := 1000 } }
     let w := after (.wakeN 10) b
     (after (.histDone 9) m).mem.dump = m.mem.dump ∧ (w.pwr.step, w.pwr.stepAt) = (1, 1000) ∧
      (after (.powerSequenceStep 2000999 true) w).pwr.step = 1 ∧ (after (.powerSequenceStep 2001000 true) w).pwr.step = 2) := by decide +kernel

/-- A digest that holds, with nothing to restore (LadderAndWakes). -/
theorem witness_resume_good :
    (let r : State := { up 3 [(PWR_MODE_LADDER, 5)] with pwr := { PwrSt.init with step := 5 } }
     let i : BootInfo := ⟨true, true, true, 3, 4, false, 0, true, [], [], [], 3⟩
     (r.at 9).pwr.aon = true ∧ (r.at 9).ladder = 5 ∧ (r.at 9).pwr.step = 5 ∧ (r.at 9).pwr.porst = false ∧ i.digestOk = true ∧
      (r.at 9).latched = false ∧ (r.at 9).nvs.records = []) := by decide +kernel

/-- DETACH of a host's ring is kept for its confirmation (ImmediateCommandsComplete); two SPI words to rising addresses and
one refused behind them (SpiWritesOnlyThePmc); a Weir that the Polder turns on (WeirWritesAct). -/
theorem witness_detach_spi_weir :
    (let d := after (.detach hdr) (ready 3 [])
     let w := up 3 [(PMC_SPI_CFG_WR_EN, 1)]
     let a := BitVec.ofNat 16 (PMC_SLOT_CFG 0 - 0x0C0000)
     let u := after (.spiTransaction 5 64 a [1] 0) w
     let t := after (.spiTransaction 5 64 a [1, 9] 0) w
     let off := 0x0C0000 + (a.toNat + 4) % 0x10000
     let b := up 1 [(WMN_WM_CFG_MODE 2, 1), (WMN_WM_THR_HI 2, 1012)]
     let v := (WMN_WM_CFG_EN 2).put (b.reg (WMN_WM_CFG 2)) 1
     let r := rwriteP (b.at 5).regs (WMN_WM_CFG 2) v
     let e := after (.weirConfigWrite ⟨5, .polder⟩ 2 false v) b
     hdr.ring < 16 ∧ d.hif.detachCmd = [cmdOf hdr 0x0603] ∧ u.spiTakes off 9 = true ∧ t.reg off = 9 ∧ t.reg (PMC_SLOT_CFG 0) = 1 ∧
      u.spiTakes PMC_SPI_CFG 1 = false ∧ (b.at 5).weirBusy r 2 = false ∧ (b.at 5).weirOpen = true ∧
      wordOkP (b.at 5).regs (WMN_WM_CFG 2) v = true ∧ weirCfgOk r 2 (WMN_WM_CFG 2) = true ∧ (b.at 5).weirEn 2 = false ∧
      e.get (WMN_STATUS_UNRESOLVED.bit 2) = 1 ∧ e.get (latchBit 2) = 1 ∧ (e.weir 2).unres = some 5) := by decide +kernel

/-- A warm reset at boot step 9 that ends an alignment, a load and a staged group (WarmResetRestartsTheBoot); an edge of
PPS_IN that is not selected (ReferenceInputsSteerAndAlign). -/
theorem witness_reset_at_nine_and_other_edge :
    (let b : State := { up 1 [(TIM_ALIGN_ARM, 1), (TIM_STATUS_ALIGN_PENDING, 1)] with
        pwr := { PwrSt.init with step := 9 }, sch := staged.sch }
     let t := after (.warmReset host 0x52450001) b
     let p := after (.ppsInEdge 70 true) (up 3 [(TIM_STATUS_CLK_STATE, 2), (TIM_PPS_ERR_ERR, 6)])
     reach b host = true ∧ (b.at 5).pwr.step = 9 ∧ (b.pwr.bootFail && b.pwr.gnowaBad) = false ∧ (b.group 0).isSome = true ∧
      t.pwr.step = 7 ∧ t.get SYS_RESET_CAUSE_LAST = 4 ∧ (t.group 0).isNone = true ∧ t.get TIM_ALIGN_ARM = 0 ∧
      (up 3 []).on TIM_REF_CFG_PPS_EDGE = false ∧ p.get TIM_STATUS_PPS_PRESENT = 1 ∧ p.tim.pps.seen = some 70 ∧
      p.get TIM_PPS_ERR_ERR = 6) := by decide +kernel

/-- The end of a calibration of two channels of which one passes and the other's offset is beyond its bound
(AcqCalibrationRunsItsPhases). -/
theorem witness_cal_factors :
    (let s := after (.acqCalibrate hdr 3 false false) (ready 2 [])
     let d : State := { s with acq := { s.acq with cal := s.acq.cal.map (fun c => { c with phC := 8, phI := 8 }) } }
     let good : ChanMeas := ⟨0x00010002 :: List.replicate 15 0, 0, -8000⟩
     let bad : ChanMeas := ⟨0x00007FFF :: List.replicate 15 0, 0, -8000⟩
     let t := after (.acqCalDone 9 ⟨[(0, good), (1, bad)], [], true⟩) d
     d.acq.cal.map (fun c => chansOf c.live) = some [0, 1] ∧ (calPass 0 good, calPass 1 bad) = (true, false) ∧
      (List.range 14).all (fun i => (regAt (calfOff 0 i)).isSome) = true ∧ (t.reg (calfOff 0 0)).toNat = 0x00010002 ∧
      t.get ACQ_EVENTS_CAL_DONE = 1 ∧ t.reg (calfOff 1 0) = d.reg (calfOff 1 0) ∧ t.get (chFail 1) = 1 ∧
      t.get ⟨ACQ_CAL_FAIL, 1, 1⟩ = 1 ∧ t.get ⟨ACQ_CAL_FAIL, 0, 1⟩ = 0) := by decide +kernel

/-- A Raman accumulation that is computed counts and stages its output (RamanShotsAccumulate). -/
theorem witness_raman_output :
    (let s := launched.modF 1 (fun f => { f with recs := f.recs.map (fun r => { r with raman := true, dtsDone := false }) })
     let d := after (.accumulationEnd 1300 1) (after (.ramanShotAccumulate 1200 1 [] []) (s.set (HIF_SMAP_EN 5) 1))
     let c := after (.dtsEndComputation 1400 1) d
     (d.at 1400).on (HIF_SMAP_EN 5) = true ∧ c.get (DTS_DONE_CNT_COUNT 1) = 1 ∧
      c.hif.staged.map (fun y => (y.frame.stream, y.frame.fe, y.frame.kind, y.frame.shot)) = [(5, 1, 1, 3)]) := by decide +kernel

/-- A machine with a running stream ring 0 and its buffer, a spillway of 8 MiB, slots of every kind, and a frame in staging.
-/
def streaming : State :=
  let st : StrSt := ⟨[], some ⟨0x2000, 65536, 0, 0, none, none, false⟩, false⟩
  let m := ready 3 [(HIF_SMAP_RING 1, 0), (HIF_STR_CTL_STATE 0, 1), (HIF_CFG_AUTO_DRAIN, 1), (HIF_SPILL_SIZE_SIZE_MIB, 8),
    (HIF_SPILL_SIZE_RESERVE_MIB, 4)]
  { m with mem := { m.mem with share := (1, 1, 1) },
           hif := { m.hif with strs := m.hif.strs.set 0 st, staged := [⟨frameA, some 5⟩] } }

/-- A staged frame to its ring, to the spillway where the ring does not run, nowhere where its stream discards; one that
diverts; one that stays while no slot writes the spillway (FramesLeaveTheirStages). -/
theorem witness_frames_whereabouts :
    (let s := streaming
     let off := s.set (HIF_STR_CTL_STATE 0) 0
     let gone := (s.set HIF_STATUS_ATTACH 1).set (HIF_SMAP_UNATT_DISCARD 1) 1
     let none_ : State := { off with mem := { off.mem with share := (1, 0, 1) } }
     let e := after (.frameDeliver 9 1) off
     let d := after (.divert (5 + s.get (SCH_FE_DIVERT_NS 1)) 1) s
     s.awakeAt 9 = true ∧ ((s.at 9).stays frameA, (s.at 9).mustSpill frameA) = (false, false) ∧
      (after (.frameDeliver 9 1) s).hif.inFlight = [frameA] ∧ (after (.frameDeliver 9 1) s).spill.general = [] ∧
      (off.at 9).mustSpill frameA = true ∧ e.spill.general = [⟨{ frameA with spilled := true }, false⟩] ∧ e.hif.inFlight = [] ∧
      ((after (.frameDeliver 9 1) gone).spill.general, (after (.frameDeliver 9 1) gone).hif.staged) = ([], []) ∧
      (none_.at 9).stays frameA = true ∧ (after (.frameDeliver 9 1) none_).hif.staged = none_.hif.staged ∧
      (s.at 9).spillWaits frameA = false ∧ d.spill.general.length = 1 ∧ vget false d.hif.diverted 1 = true ∧
      (s.at 9).mem.dump.isNone = true ∧ [MemErr.dramSingle 0].any MemErr.poisons = false) := by decide +kernel

/-- The link lost: an unconfirmed completion is held, and a staged frame is in the spillway (LinkLossDetaches). -/
theorem witness_link_loss :
    (let n := after (.nop hdr 0) streaming
     let d := after (.linkDown 9) n
     (n.at 9).attach ≠ 1 ∧ d.hif.heldCpl = (n.cplRing 0).unconf ∧ d.hif.heldCpl.length = 1 ∧ d.hif.staged = [] ∧
      (n.at 9).contained 7 = false ∧ (frameA.kind ≠ 2 ∧ frameA.kind ≠ 3) ∧
      d.spill.general = [⟨{ frameA with spilled := true }, false⟩]) := by decide +kernel

/-- The confirmation of SET_MODE DORMANT, with no engine at work and with one (LinkLossDetaches). -/
theorem witness_dormant_confirmed :
    (let s := after (.setMode hdr 0 0 none) (ready 3 [])
     let b := s.set (LNC_STATUS_STATE 1) 2
     (s.at 9).mode = 0 ∧ ((s.at 9).cplRing 0).unconf.map (fun c => (c.status, decide (s.hif.dormCmd = some c.cmd))) = [(0, true)] ∧
      (s.at 9).anyBusy = false ∧ (after (.completionConfirmed 9 0) s).ladder = 6 ∧ (b.at 9).anyBusy = true ∧
      (after (.completionConfirmed 9 0) b).ladder = 0 ∧ ((after (.completionConfirmed 9 0) b).cplRing 0).unconf = []) := by
  decide +kernel

/-- A coalescing time that has passed, with MSI-X open and masked (LinkLossDetaches). -/
theorem witness_coalesce :
    (let s := ready 3 [(HIF_CPL_CTL_VEC 0, 2)]
     let h := { s.hif with cpls := s.hif.cpls.set 0 ⟨1, some 5, []⟩, msixTable := [(8, 0x100), (9, 1), (10, 77), (11, 0)] }
     let c : State := { s with hif := { h with msixEn := true, msixMask := false } }
     let k : State := { c with hif := { c.hif with msixMask := true } }
     let x := 5 + 1000 * c.get (HIF_CPL_COAL_US_US 0)
     ((c.at x).msixOpen 2, (k.at x).msixOpen 2) = (true, false) ∧
      (after (.coalesceTimeout x 0) c).outbox = [.msix 2 (2 ^ 32 + 0x100) 77] ∧
      (after (.coalesceTimeout x 0) k).outbox = [] ∧ (after (.coalesceTimeout x 0) k).hif.pba = 4) := by decide +kernel

/-- A group at its boundary: EPOCH, the period of an engine that is not ARMED, and what waits for one that is; and the launch
of the boundary shot, with which the period is in force (GroupsLockAndApply). -/
theorem witness_group_in_force :
    (let g : Group := ⟨cmdOf hdr 0x0303, true, 0, 0, some 1000000, [.write (TIM_FE_PRI 1) 2000000, .write (TIM_FE_PRI 0) 2000000], [],
       true, 0, 0, 5⟩
     let f := (armedFe 0 0 []).modF 0 (fun f => { f with next := some ⟨3, 1000000⟩ })
     let s : State := { f with sch := { f.sch with groups := f.sch.groups.set 0 (some g) } }
     let a := after (.commitApply 1000000 0) s
     let l := after (.launch 1000000 0) a
     s.awakeAt 1000000 = true ∧ (g.taken.testBit 0, g.taken.testBit 1) = (false, false) ∧ ((s.at 1000000).lstate 0, (s.at 1000000).lstate 1) = (2, 0) ∧
      a.get SCH_EPOCH_EPOCH = 1 ∧ a.get SCH_CMT_LAST_ID_ID = 7 ∧ (a.get (TIM_FE_PRI_PRI 1), a.get (TIM_FE_PRI_PRI 0)) = (2000000, 1000000) ∧
      (a.f 0).due.map (fun d => (d.tb, d.writes)) = [((1000000 : Int), [(TIM_FE_PRI 0, 2000000)])] ∧
      (((a.at 1000000).commitsDue).f 0).due.length = 1 ∧ ((a.at 1000000).commitsDue).disarmDue 0 = false ∧
      ((l.f 0).due.length, l.get (TIM_FE_PRI_PRI 0), (l.f 0).lastNum) = (0, 2000000, some 3)) := by decide +kernel

/-- Two captures of class F in one cycle, in either order of their numbers, and one a cycle later (CapturesReactByClass). -/
theorem witness_fatal_again :
    (let s := up 3 []
     let f := after (.faultCapture 8 8) s
     let g := after (.faultCapture 8 6) s
     f.flt.fatal.isSome = true ∧ vget true f.flt.armed 6 = true ∧ srcClass 6 = 2 ∧ f.on FLT_STATUS_SAFE_HOLD = true ∧
      (after (.faultCapture 11 6) f).get FLT_SH_CAUSE_SOURCE = 6 ∧ (after (.faultCapture 11 8) g).get FLT_SH_CAUSE_SOURCE = 6 ∧
      (after (.faultCapture 12 6) f).get FLT_SH_CAUSE_SOURCE = 8) := by decide +kernel

/-- A source that an injection drives over a real failure and over none, and one that its state holds
(WindowsAndInjectionsEnd); a dip of a group that is not good (MonitorsRaiseTheirSources). -/
theorem witness_cleared_and_unarmed :
    (let i := after (.faultInject hdr 20 0 5000) (ready 5 [(HIF_CMD_TAIL_INDEX 0, 2)])
     let r : State := { i with flt := { i.flt with inj := i.flt.inj.map (fun j => { j with real := true }) } }
     let h := after (.refclkLoss 9) (up 3 [(TIM_STATUS_CLK_STATE, 2), (TIM_STATUS_REF_PRESENT, 1)])
     let g : State := { up 3 [] with pwr := { (up 3 []).pwr with good := 1 } }
     ((i.at 30).srcHolds 20, (i.at 30).injHolds 20, i.flt.inj.map (·.real)) = (false, true, some false) ∧
      (after (.sourceCleared 30 20) i).flt.rails = i.flt.rails ∧ (r.at 30).injHolds 20 = true ∧
      vget .ok (after (.sourceCleared 30 20) r).flt.rails 20 = .err ∧
      (after (.sourceCleared 30 20) r).flt.inj.map (·.real) = some false ∧ (h.at 30).srcHolds 16 = true ∧
      vget .ok (after (.sourceCleared 30 16) h).flt.rails 16 = .err ∧ ((g.at 9).railGroup 0, (g.at 9).railGroup 2) = (true, false) ∧
      vget .ok (after (.pwrUvRail 9 ⟨2, true⟩) g).flt.rails 9 = .err ∧ vget .ok (after (.pwrUvRail 9 ⟨2, false⟩) g).flt.rails 10 = .ok) := by
  decide +kernel

/-- MCS_N low in L4, L5 and DORMANT, and a capture in L4 (LadderAndWakes). -/
theorem witness_spi_and_fault_wakes :
    (let on := fun (m l : Nat) => up m [(PWR_MODE_LADDER, l), (PWR_WAKE_CFG_SPI_EN, 1)]
     let w := fun (c : Instr) (x : State) => ((after c x).ladder, (after c x).pwr.step, (after c x).get PWR_WAKE_CAUSE_SOURCE)
     let c : Instr := .spiTransaction 9 0x80 0 [] 1
     ((on 0 6).at 9).mainUp = false ∧ w c (on 2 4) = (0, 0, 3) ∧ w c (on 2 5) = (5, 1, 3) ∧ w c (on 0 6) = (0, 1, 3) ∧
      (on 2 4).upAt 9 = true ∧ vget true ((on 2 4).at 9).flt.armed 16 = true ∧ w (.faultCapture 9 16) (on 2 4) = (0, 0, 6)) := by
  decide +kernel

/-- The application's step of the boot: no good slot, one too old, and a word that cannot be read, there and in step 6
(RailsAndBootSteps). -/
theorem witness_boot_failures :
    (let b := fun (k : Nat) (v : Nat) => { up 1 [(BRM_STATUS_INIT_DONE, 1)] with
        pwr := { PwrSt.init with step := k }, nvs := { State.reset.nvs with minVer := State.reset.nvs.minVer.set 1 v } }
     let i : BootInfo := ⟨true, true, true, 3, 4, false, 0, true, [], [], [], 3⟩
     let bad : BootInfo := ⟨true, false, false, 3, 4, false, 0, true, [], [], [], 3⟩
     let ue : BootInfo := ⟨true, true, true, 3, 4, true, 0, true, [], [], [], 3⟩
     let st := fun (s : State) (j : BootInfo) => (let t := after (.bootStepDone 9 j) s
       (t.pwr.step, t.pwr.bootFail, t.get PWR_BOOT_STATUS_CODE))
     st (b 8 0) bad = (0, true, 3) ∧ st (b 8 5) i = (0, true, 3) ∧ (slotPick 4 i, slotPick 5 i) = (some true, none) ∧
      st (b 8 0) ue = (0, true, 4) ∧ st (b 6 0) ue = (0, true, 4) ∧ (b 1 0).pwr.aon = true ∧
      (after (.railFail 9999999) (b 1 0)).pwr.step = 1) := by decide +kernel

/-- Addresses outside every completion ring, every stream ring and every buffer, and one in each (CompletionsFillOneSlot). -/
theorem witness_footprints :
    (let s := streaming
     (List.range 16).all (fun k => !(s.at 9).inRing .cpl k 0x5000) = true ∧
      (List.range 32).all (fun m => !(s.at 9).inRing .str m 0x100000 && !(s.at 9).inBuffers m 0x100000) = true ∧
      (s.at 9).inRing .cpl 0 0x1000 = true ∧ (s.at 9).inBuffers 0 0x2000 = true ∧ (0x5000 < 0x10000 ∨ 0x10000 + 9280 ≤ 0x5000)) := by
  decide +kernel

/-- A gate window that opens 10 ns before its launch, and a frame start that a later anchor puts off (WeirsLatchAndResolve).
-/
theorem witness_gate_ahead :
    (let g := up 3 (weir2 ++ [(WMN_WM_CFG_GATE_EN 2, 1), (WMN_WM_GATE_DUR_DUR 2, 70), (LNC_STATUS_STATE 0, 2)])
     let n := (g.setI (WMN_WM_GATE_START_START 2) (-10)).modF 0 (fun f => { f with next := some ⟨3, 1000⟩ })
     let a := up 3 (weir2 ++ [(WMN_WM_CFG_AUTO_CLR 2, 1), (TIM_STATUS_GT_VALID, 1), (latchBit 2, 1)])
     (n.at 990).weirLaunch 2 = 1000 ∧ ((n.at 990).aheadTo 0 1000).launchAt 0 1000 = true ∧
      ((after (.weirGateOpen 990 2) n).weir 2).gNext = [(1000, 1060)] ∧
      ((a.at 1000001).aheadTo 0 ((a.at 1000001).gridOf (a.at 1000001).now)).frameNow 0 = false ∧
      (after (.weirAutoClear 1000001 2) a).get (latchBit 2) = 1) := by decide +kernel

/-- The direction of the count, both ways round and with INV (EncoderInputsCount). -/
theorem witness_encoder_direction :
    (let p := fun (l : List (FRef × Nat)) (a b : Bool) =>
       (let t := after (.encoderEdge 50 1 a b) (up 3 ([(TRK_QIN_CFG_EN 1, 1), (TRK_QIN_POS_POS 1, 9)] ++ l))
        (t.get (TRK_QIN_POS_POS 1), (t.qin 1).net, t.get (TRK_QIN_STATUS_DIR 1)))
     p [] true false = (10, 1, 0) ∧ p [] false true = (8, -1, 1) ∧ p [(TRK_QIN_CFG_INV 1, 1)] true false = (8, -1, 1)) := by
  decide +kernel

end Sys2Proof.Tests
end

section
/-! SUPPORT. The time base (R20 to R50): what each of its operations leaves readable, and the statements about its
register writes, its clock states and its reference inputs. -/

namespace Sys2Proof.Machine

-- One proof at a time: in parallel the package as one text would need too many threads.
set_option Elab.async false

/-! ### Fields after the updates that the time base is written with -/

/-- A value that fits its field reads back as it was written. -/
theorem get_set_fits (s : State) (f : FRef) (x : Nat) (h : f.lo + f.w ≤ 32) (hx : x < 2 ^ f.w) : (s.set f x).get f = x := by
  rw [get_set_same s f x h, Nat.mod_eq_of_lt hx]

theorem uenc_lt (x : Int) (w : Nat) : uenc x w < 2 ^ w := by
  have hp : (0 : Int) < 2 ^ w := by positivity
  have h0 := Int.emod_nonneg x hp.ne'
  have h1 := Int.emod_lt_of_pos x hp
  unfold uenc
  zify
  rwa [Int.toNat_of_nonneg h0]

theorem setI_get_same (s : State) (f : FRef) (x : Int) (h : f.lo + f.w ≤ 32) : (s.setI f x).get f = uenc x f.w :=
  get_set_fits s f _ h (uenc_lt x f.w)

theorem setI_get_other (s : State) (f g : FRef) (x : Int) (h : f.lo + f.w ≤ 32)
    (d : g.off ≠ f.off ∨ f.lo + f.w ≤ g.lo ∨ g.lo + g.w ≤ f.lo) : (s.setI f x).get g = s.get g :=
  get_set_other s f g _ h d

theorem setTim_get (s : State) (x : TimSt) (f : FRef) : (s.setTim x).get f = s.get f := rfl

/-- A one-bit field that is not 1 is 0. -/
theorem get_zero_of_off (s : State) (f : FRef) (hw : f.w = 1) (h : ¬ s.on f = true) : s.get f = 0 := by
  have hl : s.get f < 2 := get_lt s f 2 (by rw [hw, pow_one])
  have h1 : s.get f ≠ 1 := by simpa [State.on] using h
  omega

theorem present_raised (s : State) (i : Nat) (h : i < 128) : (s.present i).raised i := present_rails s i h

/-- What counts as a busy fibre engine is read from LNC alone. -/
theorem anyBusy_congr {s t : State} (h : ∀ f : FRef, f.off / 65536 = 3 → t.get f = s.get f) : t.anyBusy = s.anyBusy := by
  have hb : ∀ n, t.busyFe n = s.busyFe n := fun n => by
    unfold State.busyFe State.lstate
    rw [h _ (LNC_STATUS_STATE_blk n)]
  unfold State.anyBusy
  rw [hb, hb, hb, hb]

/-! ### The clock states (R20 to R25) -/

/-- The part of REFCLK_LOSS that the clock state decides: HOLDOVER after a lock, FREE without one (R22). -/
def State.lossClock (s : State) : State :=
  match s.get TIM_STATUS_CLK_STATE with
  | 2 => (s.set TIM_STATUS_REF_PRESENT 0).clockHold
  | 1 => if s.tim.locked then (s.set TIM_STATUS_REF_PRESENT 0).clockHold else (s.set TIM_STATUS_REF_PRESENT 0).clockFree
  | _ => s.set TIM_STATUS_REF_PRESENT 0

theorem refLoss_eq (s : State) : s.refLoss = ((s.lossClock.ev TIM_EVENTS_REF_LOSS).present 16).alignAbort := rfl

theorem clockHold_get_other (s : State) (f : FRef) (d : f.off ≠ TIM_STATUS ∨ 2 ≤ f.lo) : s.clockHold.get f = s.get f :=
  get_set_other s TIM_STATUS_CLK_STATE f 3 (by decide) (d.imp_right .inl)

theorem clockFree_get_other (s : State) (f : FRef) (d : f.off ≠ TIM_STATUS ∨ 3 ≤ f.lo) : s.clockFree.get f = s.get f := by
  show ((s.set TIM_STATUS_CLK_STATE 0).set TIM_STATUS_GT_VALID 0).get f = s.get f
  rw [get_set_other _ TIM_STATUS_GT_VALID f 0 (by decide) (d.imp_right .inl),
    get_set_other _ TIM_STATUS_CLK_STATE f 0 (by decide) (d.imp_right fun h => .inl (le_trans (by decide) h))]

theorem lossClock_hold (s : State)
    (h : s.get TIM_STATUS_CLK_STATE = 2 ∨ (s.get TIM_STATUS_CLK_STATE = 1 ∧ s.tim.locked = true)) :
    s.lossClock = (s.set TIM_STATUS_REF_PRESENT 0).clockHold := by
  unfold State.lossClock
  rcases h with h | ⟨h, hl⟩
  · simp only [h]
  · simp only [h, hl, if_true]

theorem lossClock_free (s : State) (h : s.get TIM_STATUS_CLK_STATE = 1) (hl : s.tim.locked = false) :
    s.lossClock = (s.set TIM_STATUS_REF_PRESENT 0).clockFree := by
  unfold State.lossClock
  simp only [h, hl, Bool.false_eq_true, if_false]

theorem lossClock_stays (s : State) (h : s.get TIM_STATUS_CLK_STATE = 0 ∨ s.get TIM_STATUS_CLK_STATE = 3) :
    s.lossClock = s.set TIM_STATUS_REF_PRESENT 0 := by
  unfold State.lossClock
  rcases h with h | h <;> simp only [h]

theorem clkState_cases (s : State) : s.get TIM_STATUS_CLK_STATE = 0 ∨ s.get TIM_STATUS_CLK_STATE = 1 ∨
    s.get TIM_STATUS_CLK_STATE = 2 ∨ s.get TIM_STATUS_CLK_STATE = 3 := by
  have h := get_lt s TIM_STATUS_CLK_STATE 4 (by decide)
  omega

theorem lossClock_refPresent (s : State) : s.lossClock.get TIM_STATUS_REF_PRESENT = 0 := by
  have h0 : (s.set TIM_STATUS_REF_PRESENT 0).get TIM_STATUS_REF_PRESENT = 0 := get_set_fits _ _ _ (by decide) (by decide)
  have hh := (clockHold_get_other (s.set TIM_STATUS_REF_PRESENT 0) TIM_STATUS_REF_PRESENT (by decide)).trans h0
  have hf := (clockFree_get_other (s.set TIM_STATUS_REF_PRESENT 0) TIM_STATUS_REF_PRESENT (by decide)).trans h0
  rcases clkState_cases s with hc | hc | hc | hc
  · rwa [lossClock_stays s (.inl hc)]
  · by_cases hl : s.tim.locked = true
    · rwa [lossClock_hold s (.inr ⟨hc, hl⟩)]
    · rwa [lossClock_free s hc (by simpa using hl)]
  · rwa [lossClock_hold s (.inl hc)]
  · rwa [lossClock_stays s (.inr hc)]

/-- After an abort no alignment is armed (R34). -/
theorem alignAbort_arm (s : State) : s.alignAbort.get TIM_ALIGN_ARM = 0 := by
  unfold State.alignAbort
  split
  case isTrue => simp (disch := decide) only [ev_get_other, get_set_other, get_set_fits]
  case isFalse h => exact get_zero_of_off s _ rfl h

/-- An abort leaves every field but ARM, ALIGN_PENDING and ALIGN_ABORT. -/
theorem alignAbort_get_other (s : State) (f : FRef)
    (ha : f.off ≠ TIM_ALIGN ∨ 1 ≤ f.lo) (hs : f.off ≠ TIM_STATUS ∨ 7 ≤ f.lo ∨ f.lo + f.w ≤ 6)
    (he : f.off ≠ TIM_EVENTS ∨ 8 ≤ f.lo ∨ f.lo + f.w ≤ 7) : s.alignAbort.get f = s.get f := by
  unfold State.alignAbort
  split
  · rw [ev_get_other _ TIM_EVENTS_ALIGN_ABORT f (by decide) he,
      get_set_other _ TIM_STATUS_ALIGN_PENDING f 0 (by decide) hs,
      get_set_other _ TIM_ALIGN_ARM f 0 (by decide) (ha.imp_right .inl)]
  · rfl

theorem alignAbort_armed (s : State) (h : s.get TIM_ALIGN_ARM = 1) :
    s.alignAbort = ((s.set TIM_ALIGN_ARM 0).set TIM_STATUS_ALIGN_PENDING 0).ev TIM_EVENTS_ALIGN_ABORT := by
  unfold State.alignAbort State.on
  rw [h]; rfl

@[simp] theorem alignAbort_tim (s : State) : s.alignAbort.tim = s.tim := by unfold State.alignAbort; split <;> simp
@[simp] theorem alignAbort_flt (s : State) : s.alignAbort.flt = s.flt := by unfold State.alignAbort; split <;> simp
@[simp] theorem alignAbort_now (s : State) : s.alignAbort.now = s.now := by unfold State.alignAbort; split <;> simp
@[simp] theorem alignAbort_gtOff (s : State) : s.alignAbort.gtOff = s.gtOff := by unfold State.alignAbort; split <;> simp

/-- Of STATUS, REFCLK_LOSS changes ALIGN_PENDING and what the clock state decides. -/
theorem refLoss_status (s : State) (f : FRef) (ho : f.off = TIM_STATUS) (hf : f.lo + f.w ≤ 6) :
    s.refLoss.get f = s.lossClock.get f := by
  rw [refLoss_eq, alignAbort_get_other _ f (.inl (by rw [ho]; decide)) (.inr (.inr hf)) (.inl (by rw [ho]; decide)),
    present_get _ _ f (by rw [ho]; decide), ev_get_ne _ _ f (by rw [ho]; decide)]

/-- The events, the source and the alignment at a loss of REFCLK (R22, R34). -/
theorem refLoss_signals (s : State) : s.refLoss.get TIM_STATUS_REF_PRESENT = 0 ∧ s.refLoss.get TIM_EVENTS_REF_LOSS = 1 ∧
    s.refLoss.raised 16 ∧ s.refLoss.get TIM_ALIGN_ARM = 0 := by
  refine ⟨?_, ?_, ?_, ?_⟩
  · rw [refLoss_status s _ rfl (by decide), lossClock_refPresent]
  · rw [refLoss_eq, alignAbort_get_other _ _ (by decide) (by decide) (by decide), present_get _ _ _ (by decide),
      ev_get_same _ _ (by decide) rfl]
  · rw [refLoss_eq]
    unfold State.raised
    rw [alignAbort_flt]
    exact present_raised _ 16 (by decide)
  · rw [refLoss_eq, alignAbort_arm]

/-- From a lock, loss of REFCLK enters HOLDOVER, which begins now. -/
theorem refLoss_hold (s : State)
    (h : s.get TIM_STATUS_CLK_STATE = 2 ∨ (s.get TIM_STATUS_CLK_STATE = 1 ∧ s.tim.locked = true)) :
    s.refLoss.get TIM_STATUS_CLK_STATE = 3 ∧ s.refLoss.tim.holdStart = some s.refLoss.now := by
  constructor
  · rw [refLoss_status s _ rfl (by decide), lossClock_hold s h]
    exact get_set_fits _ TIM_STATUS_CLK_STATE 3 (by decide) (by decide)
  · simp [refLoss_eq, lossClock_hold s h, State.clockHold]

/-- Without a lock, loss of REFCLK enters FREE, and grid time is no longer valid. -/
theorem refLoss_free (s : State) (h : s.get TIM_STATUS_CLK_STATE = 1) (hl : s.tim.locked = false) :
    s.refLoss.get TIM_STATUS_CLK_STATE = 0 ∧ s.refLoss.get TIM_STATUS_GT_VALID = 0 := by
  rw [refLoss_status s _ rfl (by decide), refLoss_status s _ rfl (by decide), lossClock_free s h hl]
  unfold State.clockFree
  simp (disch := decide) only [setTim_get, get_set_other, get_set_fits, and_self]

/-- In FREE and in HOLDOVER, loss of REFCLK leaves the clock state. -/
theorem refLoss_stays (s : State) (h : s.get TIM_STATUS_CLK_STATE = 0 ∨ s.get TIM_STATUS_CLK_STATE = 3) :
    s.refLoss.get TIM_STATUS_CLK_STATE = s.get TIM_STATUS_CLK_STATE := by
  rw [refLoss_status s _ rfl (by decide), lossClock_stays s h, get_set_other _ _ _ _ (by decide) (by decide)]

/-- REFCLK is back: FREE and HOLDOVER enter ACQUIRING (R20). -/
theorem refReturn_get (s : State) : s.refReturn.get TIM_STATUS_REF_PRESENT = 1 ∧ s.refReturn.get TIM_STATUS_CLK_STATE =
    if s.get TIM_STATUS_CLK_STATE = 0 ∨ s.get TIM_STATUS_CLK_STATE = 3 then 1 else s.get TIM_STATUS_CLK_STATE := by
  unfold State.refReturn
  split <;> simp (disch := decide) only [setTim_get, get_set_other, get_set_fits, and_self]

/-- Phase lock in ACQUIRING (R20). -/
theorem pllLock_get (s : State) (h : s.get TIM_STATUS_CLK_STATE = 1) :
    s.pllLock.get TIM_STATUS_CLK_STATE = 2 ∧ s.pllLock.get TIM_EVENTS_LOCK = 1 := by
  unfold State.pllLock
  rw [if_pos h, ev_get_same _ _ (by decide) rfl]
  simp (disch := decide) only [ev_get_other, setTim_get, get_set_fits, and_self]

/-- The holdover limit, once its seconds have passed in HOLDOVER: the event and source 17, of class C; the clock stays as it
is (R23). -/
theorem holdExpire_signals (s : State) (h : Nat) (hc : s.get TIM_STATUS_CLK_STATE = 3) (hs : s.tim.holdStart = some h)
    (hl : h + 1000000000 * s.get TIM_REF_CFG_HOLD_LIMIT ≤ s.now) :
    s.holdExpire.get TIM_EVENTS_HOLD_EXPIRED = 1 ∧ s.holdExpire.raised 17 ∧ srcClass 17 = 0 ∧
      s.holdExpire.get TIM_STATUS_CLK_STATE = 3 ∧
      s.holdExpire.get TIM_STATUS_GT_VALID = s.get TIM_STATUS_GT_VALID ∧ s.holdExpire.fe = s.fe := by
  have hx : s.holdExpire = (s.ev TIM_EVENTS_HOLD_EXPIRED).present 17 := by
    unfold State.holdExpire
    rw [hs]
    exact if_pos ⟨hc, hl⟩
  have hget (f : FRef) (hf : f.off = TIM_STATUS) : s.holdExpire.get f = s.get f := by
    rw [hx, present_get _ _ f (by rw [hf]; decide), ev_get_ne _ _ f (by rw [hf]; decide)]
  refine ⟨?_, hx ▸ present_raised _ 17 (by decide), by decide, (hget _ rfl).trans hc, hget _ rfl, by simp [hx]⟩
  rw [hx, present_get _ _ _ (by decide), ev_get_same _ _ (by decide) rfl]

/-- Settles O29: an event of the time base acts where the main domain is up, and each outcome is that of its operation. -/
theorem clockStatesFollowTheReference : Obligations.ClockStatesFollowTheReference := by
  intro s x hup
  have hact (f : State → State) : s.main x f = f (s.at x) := main_up hup f
  have hloss : exec (.refclkLoss x) s = .next (s.at x).refLoss := congrArg Host.Outcome.next (hact State.refLoss)
  refine ⟨⟨_, hloss, refLoss_signals _⟩, fun h => ⟨_, hloss, refLoss_hold _ h⟩, fun h hl => ⟨_, hloss, refLoss_free _ h hl⟩,
    fun h => ⟨_, hloss, refLoss_stays _ h⟩, ⟨_, congrArg Host.Outcome.next (hact State.refReturn), refReturn_get _⟩,
    fun h => ⟨_, congrArg Host.Outcome.next (hact State.pllLock), pllLock_get _ h⟩, fun h hc hs hl =>
      ⟨_, congrArg Host.Outcome.next (hact State.holdExpire), holdExpire_signals _ h hc hs hl⟩,
    ⟨_, congrArg Host.Outcome.next (hact (·.present 8)), present_raised _ 8 (by decide), by decide⟩⟩

/-! ### The register writes of TIM (R33 to R35, R50) -/

/-- A write that TIM takes is stored, and the block acts on it. -/
theorem takes_tim {s : State} {b : Bus} {off : Nat} {v : Word} (h : s.takes b off v) (ha : off % 4 = 0)
    (hb : off / 65536 = 2) :
    s.busWord b off v = ((s.at b.t).stored off v).wroteTim off ((s.at b.t).w1c off v).regs v := by
  have hs : s.seenAt b off = s.at b.t := readSync_of_ne _ off (by omega)
  rw [takes_wrote h ha (by omega) (by rintro rfl; revert hb; decide), hs, wrote_tim _ _ _ hb]

@[simp] theorem stored_tim (s : State) (off : Nat) (v : Word) : (s.stored off v).tim = s.tim :=
  (stored_only (C := (· = .regs)) (OnlyP.refl _ s) off v rfl) .tim (by decide)
@[simp] theorem stored_fe (s : State) (off : Nat) (v : Word) : (s.stored off v).fe = s.fe :=
  (stored_only (C := (· = .regs)) (OnlyP.refl _ s) off v rfl) .fe (by decide)
@[simp] theorem stored_gtOff (s : State) (off : Nat) (v : Word) : (s.stored off v).gtOff = s.gtOff :=
  (stored_only (C := (· = .regs)) (OnlyP.refl _ s) off v rfl) .gtOff (by decide)

/-- A write of TIM leaves the engines as busy as they were. -/
theorem stored_anyBusy (s : State) (off : Nat) (v : Word) (h : off / 65536 = 2) : (s.stored off v).anyBusy = s.anyBusy :=
  anyBusy_congr fun f hf => stored_get_ne s off v f (by rintro rfl; omega)

/-- The bits of ALIGN: SRC stores what is written, ARM keeps its bit until the block acts. -/
theorem stored_align (s : State) (v : Word) : (s.stored TIM_ALIGN v).get TIM_ALIGN_SRC = TIM_ALIGN_SRC.of v ∧
    (s.stored TIM_ALIGN v).get TIM_ALIGN_ARM = s.get TIM_ALIGN_ARM :=
  ⟨stored_get s TIM_ALIGN_SRC v (by decide) (by decide), stored_get_kept s TIM_ALIGN_ARM v (by decide) (by decide)⟩

theorem wroteTim_arm (s : State) (r : Tab Word) (v : Word) (ha : TIM_ALIGN_ARM.of v = 1) (hb : TIM_ALIGN_ABORT.of v = 0) :
    s.wroteTim TIM_ALIGN r v = s.alignSet := by
  unfold State.wroteTim
  simp [TIM_ALIGN, TIM_REF_CFG, ha, hb]

theorem wroteTim_abort (s : State) (r : Tab Word) (v : Word) (ha : TIM_ALIGN_ARM.of v = 0) (hb : TIM_ALIGN_ABORT.of v = 1) :
    s.wroteTim TIM_ALIGN r v = s.alignAbort := by
  unfold State.wroteTim
  simp [TIM_ALIGN, TIM_REF_CFG, ha, hb]

theorem wroteTim_epochLo (s : State) (r : Tab Word) (v : Word) : s.wroteTim TIM_EPOCH_LO r v = s := rfl

theorem wroteTim_epochHi (s : State) (r : Tab Word) (v : Word) : s.wroteTim TIM_EPOCH_HI r v = s.setEpoch v := rfl

theorem wroteTim_syncCfg (s : State) (r : Tab Word) (v : Word) :
    s.wroteTim TIM_SYNC_CFG r v = if s.on TIM_SYNC_CFG_IN_EN then s else s.syncOff := rfl

theorem alignSet_idle (s : State) (h : s.anyBusy = false) :
    s.alignSet = (s.set TIM_ALIGN_ARM 1).set TIM_STATUS_ALIGN_PENDING 1 := by
  unfold State.alignSet; rw [h]; rfl

theorem alignSet_busy (s : State) (h : s.anyBusy = true) : s.alignSet = s.ev TIM_EVENTS_CFG_ERR := if_pos h

/-- The end of SYNC_IN by IN_EN = 0 ends SYNC_PRESENT (R50). -/
theorem syncOff_present (s : State) : s.syncOff.get TIM_STATUS_SYNC_PRESENT = 0 := by
  unfold State.syncOff
  split
  case isTrue => exact get_set_fits _ TIM_STATUS_SYNC_PRESENT 0 (by decide) (by decide)
  case isFalse h => exact get_zero_of_off s _ rfl h

theorem syncOff_inEn (s : State) : s.syncOff.get TIM_SYNC_CFG_IN_EN = s.get TIM_SYNC_CFG_IN_EN := by
  unfold State.syncOff
  split
  · exact get_set_ne _ TIM_STATUS_SYNC_PRESENT TIM_SYNC_CFG_IN_EN 0 (by decide)
  · rfl

/-- The whole word of a register that is one field. -/
theorem of_full (off : Nat) (v : Word) : FRef.of ⟨off, 0, 32⟩ v = v.toNat := by
  unfold FRef.of
  rw [pow_zero, Nat.div_one, Nat.mod_eq_of_lt v.isLt]

/-- A new epoch takes its low half from EPOCH_LO and its high half from the word written. -/
theorem setEpoch_epoch (s : State) (v : Word) :
    (s.setEpoch v).tim.epoch = s.get TIM_EPOCH_LO_EPOCH + 2 ^ 32 * v.toNat := by
  show (s.set TIM_EPOCH_HI_EPOCH v.toNat).get2 TIM_EPOCH_LO_EPOCH TIM_EPOCH_HI_EPOCH = _
  unfold State.get2
  rw [get_set_other _ _ _ _ (by decide) (by decide), get_set_fits _ _ _ (by decide) v.isLt]

theorem setEpoch_hi (s : State) (v : Word) : (s.setEpoch v).get TIM_EPOCH_HI_EPOCH = v.toNat :=
  get_set_fits s TIM_EPOCH_HI_EPOCH v.toNat (by decide) v.isLt

/-- Every anchor becomes (0, epoch) (R35). -/
theorem setEpoch_anchor (s : State) (v : Word) (n : Nat) (hn : n < 4) :
    ((s.setEpoch v).f n).anchorS = 0 ∧ ((s.setEpoch v).f n).anchorT = (s.setEpoch v).tim.epoch := by
  unfold State.f State.setEpoch
  dsimp only
  rw [vget_map FeSt.init _ _ _ n hn]
  exact ⟨rfl, rfl⟩

/-- A write that a lock of TIM refuses sets CFG_ERR and changes nothing else (R18). -/
theorem locked_busWord {s : State} {b : Bus} {off : Nat} (v : Word) (hr : s.reaches b) (ha : off % 4 = 0)
    (hb : off / 65536 = 2) (hp : hasAcc off (fun a => a == .rwp) = false) (hs : (regAt off).isSome = true)
    (hl : (s.at b.t).lockTim off v = true) :
    s.busWord b off v = (s.at b.t).ev TIM_EVENTS_CFG_ERR := by
  have hlock : (s.at b.t).locked off v = true := by
    unfold State.locked
    rw [show off / 0x10000 = 2 from hb]
    exact Bool.or_eq_true_iff.2 (.inr hl)
  have herr : cfgErrOf off = TIM_EVENTS_CFG_ERR := by
    simp only [cfgErrOf, hb]
  rw [reaches_busWord hr off v ha (by omega), readSync_of_ne _ off (by omega)]
  obtain ⟨-, -, hm, hspi⟩ := hr
  obtain ⟨spec, hspec⟩ := Option.isSome_iff_exists.1 hs
  unfold State.writeWord
  rw [if_neg (by rintro (h | ⟨h, -⟩) <;> contradiction), if_neg (by omega), if_neg (by rintro rfl; revert hb; decide), hspec]
  dsimp only
  rw [hp, hlock, Bool.or_true]
  exact congrArg (State.ev _) herr

/-- While an engine is arming or armed, both halves of the epoch are locked (R35). -/
theorem lockTim_epoch (s : State) (off : Nat) (v : Word) (h : off = TIM_EPOCH_LO ∨ off = TIM_EPOCH_HI)
    (hb : s.anyBusy = true) :
    s.lockTim off v = true := by
  rcases h with rfl | rfl <;> simp [State.lockTim, hb, TIM_EPOCH_LO, TIM_EPOCH_HI, TIM_REF_CFG]

/-- A refused write of the epoch changes neither half, no anchor, and no epoch. -/
theorem epoch_refused {s : State} {b : Bus} (off : Nat) (v : Word) (hr : s.reaches b) (hb : (s.at b.t).anyBusy = true)
    (h : off = TIM_EPOCH_LO ∨ off = TIM_EPOCH_HI) :
    (s.busWord b off v).get TIM_EVENTS_CFG_ERR = 1 ∧ (s.busWord b off v).tim = s.tim ∧ (s.busWord b off v).fe = s.fe ∧
      (s.busWord b off v).get TIM_EPOCH_LO_EPOCH = (s.at b.t).get TIM_EPOCH_LO_EPOCH ∧
      (s.busWord b off v).get TIM_EPOCH_HI_EPOCH = (s.at b.t).get TIM_EPOCH_HI_EPOCH := by
  have hl := lockTim_epoch (s.at b.t) off v h hb
  have he : s.busWord b off v = (s.at b.t).ev TIM_EVENTS_CFG_ERR := by
    rcases h with rfl | rfl <;> exact locked_busWord v hr (by decide) (by decide) (by decide) (by decide) hl
  rw [he, ev_get_same _ _ (by decide) rfl, ev_get_ne _ _ _ (by decide), ev_get_ne _ _ _ (by decide)]
  simp

/-- Settles O21: each write of TIM is stored and acts as its operation says, or is refused by its lock. -/
theorem timeWritesAct : Obligations.TimeWritesAct := by
  intro s b v
  refine ⟨fun ht ha hn hb => ⟨_, rfl, ?arm⟩, fun ht ha hn hb => ⟨_, rfl, ?armRefused⟩, fun ht ha hn hon => ⟨_, rfl, ?abort⟩,
    fun ht => ⟨_, rfl, ?epochLo⟩, fun ht => ⟨_, rfl, ?epochHi⟩, fun ht hv => ⟨_, rfl, ?inDisabled⟩, fun hr hb =>
    ⟨⟨_, rfl, epoch_refused _ v hr hb (.inl rfl)⟩, ⟨_, rfl, epoch_refused _ v hr hb (.inr rfl)⟩⟩⟩
  case arm =>
    obtain ⟨hsrc, -⟩ := stored_align (s.at b.t) v
    rw [takes_tim ht (by decide) (by decide), wroteTim_arm _ _ _ ha hn,
      alignSet_idle _ ((stored_anyBusy _ _ _ (by decide)).trans hb)]
    simp (disch := decide) only [get_set_other, get_set_fits, hsrc, and_self]
  case armRefused =>
    obtain ⟨-, harm⟩ := stored_align (s.at b.t) v
    rw [takes_tim ht (by decide) (by decide), wroteTim_arm _ _ _ ha hn,
      alignSet_busy _ ((stored_anyBusy _ _ _ (by decide)).trans hb), ev_get_ne _ _ TIM_ALIGN_ARM (by decide), harm]
    exact ⟨ev_get_same _ _ (by decide) rfl, rfl⟩
  case abort =>
    obtain ⟨-, harm⟩ := stored_align (s.at b.t) v
    rw [takes_tim ht (by decide) (by decide), wroteTim_abort _ _ _ ha hn, alignAbort_armed _ (harm.trans hon),
      ev_get_same _ _ (by decide) rfl]
    simp (disch := decide) [ev_get_other, get_set_other, get_set_fits]
  case epochLo =>
    rw [takes_tim ht (by decide) (by decide), wroteTim_epochLo]
    exact ⟨(stored_get _ TIM_EPOCH_LO_EPOCH v (by decide) (by decide)).trans (of_full _ v), by simp, by simp⟩
  case epochHi =>
    rw [takes_tim ht (by decide) (by decide), wroteTim_epochHi]
    refine ⟨?_, setEpoch_hi _ v, fun n hn => setEpoch_anchor _ v n hn⟩
    rw [setEpoch_epoch, stored_get_ne _ _ _ _ (by decide)]
  case inDisabled =>
    have hin : ((s.at b.t).stored TIM_SYNC_CFG v).get TIM_SYNC_CFG_IN_EN = 0 :=
      (stored_get _ TIM_SYNC_CFG_IN_EN v (by decide) (by decide)).trans hv
    rw [takes_tim ht (by decide) (by decide), wroteTim_syncCfg, if_neg (by simp [State.on, hin])]
    exact ⟨(syncOff_inEn _).trans hin, syncOff_present _⟩

/-! ### Edges of the reference inputs (R27 to R33, R49, R50) -/

/-- A step of the grid restarts a conversion, and does nothing else: the registers are those that the edge leaves. -/
theorem edgeStep_get (s : State) (g : State → State) (f : FRef) : (s.edgeStep g).get f = (g s).get f := by
  unfold State.edgeStep
  split
  · rfl
  · exact get_of_regs (B := fun _ => False) (pmcRestart_blocks (RegsP.refl _ _)) f id

theorem edgeStep_comp (s : State) (g : State → State) (c : Comp) (h : c ≠ .pmc) : c.same (g s) (s.edgeStep g) := by
  unfold State.edgeStep
  split
  · exact OnlyP.refl (· = .pmc) _ c h
  · exact pmcRestart_only (C := (· = .pmc)) (OnlyP.refl _ _) rfl c h

theorem edgeStep_gtOff (s : State) (g : State → State) : (s.edgeStep g).gtOff = (g s).gtOff :=
  edgeStep_comp s g .gtOff (by decide)

theorem edgeStep_now (s : State) (g : State → State) : (s.edgeStep g).now = (g s).now := edgeStep_comp s g .now (by decide)

theorem edgeStep_tim (s : State) (g : State → State) : (s.edgeStep g).tim = (g s).tim := edgeStep_comp s g .tim (by decide)

theorem edgeStep_gridOf (s : State) (g : State → State) : (s.edgeStep g).gridOf (s.edgeStep g).now =
    (g s).gridOf (g s).now := by
  unfold State.gridOf
  rw [edgeStep_now, edgeStep_gtOff]

/-- Completion steps grid time by d. -/
@[simp] theorem alignDone_gtOff (s : State) (d : Int) : (s.alignDone d).gtOff = s.gtOff + d := by simp [State.alignDone]
@[simp] theorem alignDone_now (s : State) (d : Int) : (s.alignDone d).now = s.now := by simp [State.alignDone]

/-- Completion disarms the alignment, makes grid time valid, sets ALIGN_DONE and starts the trim at 0 (R33). -/
theorem alignDone_fields (s : State) (d : Int) : (s.alignDone d).get TIM_ALIGN_ARM = 0 ∧
    (s.alignDone d).get TIM_STATUS_GT_VALID = 1 ∧ (s.alignDone d).get TIM_EVENTS_ALIGN_DONE = 1 ∧
    (s.alignDone d).get TIM_TRIM_TRIM = 0 := by
  unfold State.alignDone
  simp (disch := decide) only [setTim_get, get_set_other, get_set_fits, ev_get_other, ev_get_same, and_self]

/-- Completion leaves the other bits of STATUS. -/
theorem alignDone_status (s : State) (d : Int) (f : FRef) (ho : f.off = TIM_STATUS) (h2 : 3 ≤ f.lo) (h6 : f.lo + f.w ≤ 6) :
    (s.alignDone d).get f = s.get f := by
  unfold State.alignDone
  dsimp only
  rw [setTim_get, get_set_ne _ _ _ _ (by rw [ho]; decide), ev_get_ne _ _ _ (by rw [ho]; decide),
    get_set_disj _ TIM_STATUS_GT_VALID f _ (by decide) (.inl h2),
    get_set_disj _ TIM_STATUS_ALIGN_PENDING f _ (by decide) (.inr h6), get_set_ne _ _ _ _ (by rw [ho]; decide)]
  rfl

/-- What follows the judgement of an edge (R29, R30): an outlier sets its event, and an accepted edge steers where its input
disciplines the clock. -/
def State.steered (s : State) (accepted outlier : Bool) (dev : FRef) (disc : Nat) (trim : State → Int) : State :=
  let s1 := if outlier then s.ev dev else s
  if accepted ∧ s1.get TIM_REF_CFG_DISC = disc then s1.setI TIM_TRIM_TRIM (trim s1) else s1

/-- It leaves every register but EVENTS and TRIM. -/
theorem steered_get_other (s : State) (a o : Bool) (dev : FRef) (disc : Nat) (trim : State → Int) (f : FRef)
    (he : f.off ≠ dev.off) (ht : f.off ≠ TIM_TRIM) : (s.steered a o dev disc trim).get f = s.get f := by
  have h1 : (if o then s.ev dev else s).get f = s.get f := by
    split
    · exact ev_get_ne s dev f he
    · rfl
  unfold State.steered
  dsimp only
  generalize (if o then s.ev dev else s) = s1 at h1 ⊢
  split
  · exact (setI_get_other s1 TIM_TRIM_TRIM f _ (by decide) (.inl ht)).trans h1
  · exact h1

theorem steered_gtOff (s : State) (a o : Bool) (dev : FRef) (disc : Nat) (trim : State → Int) :
    (s.steered a o dev disc trim).gtOff = s.gtOff := by
  unfold State.steered
  dsimp only
  split <;> split <;> simp

/-- An edge that is accepted at once, of the input that disciplines the clock, sets the trim. -/
theorem steered_trim (s : State) (dev : FRef) (disc : Nat) (trim : State → Int) (h : s.get TIM_REF_CFG_DISC = disc) :
    (s.steered true false dev disc trim).get TIM_TRIM_TRIM = uenc (trim s) 16 := by
  have hs : s.steered true false dev disc trim = s.setI TIM_TRIM_TRIM (trim s) := if_pos ⟨rfl, h⟩
  rw [hs]
  exact setI_get_same s TIM_TRIM_TRIM _ (by decide)

/-- An edge with no accepted edge before it is accepted (R30). -/
theorem judgeEdge_first (h : RefHist) (trim tol e g : Int) (hl : h.last = none) :
    judgeEdge h trim tol e g = (true, false, { h with last := some (e, g), run := [] }) := by
  unfold judgeEdge; rw [hl]

/-! ### PPS_IN -/

/-- An edge of PPS_IN shows that the input is there (R31). -/
def State.ppsSeen (s : State) : State :=
  (s.set TIM_STATUS_PPS_PRESENT 1).setTim { s.tim with pps := { s.tim.pps with seen := some s.now } }

theorem ppsSeen_present (s : State) : s.ppsSeen.get TIM_STATUS_PPS_PRESENT = 1 :=
  get_set_fits s TIM_STATUS_PPS_PRESENT 1 (by decide) (by decide)

theorem ppsSeen_get_other (s : State) (f : FRef) (d : f.off ≠ TIM_STATUS ∨ 5 ≤ f.lo ∨ f.lo + f.w ≤ 4) :
    s.ppsSeen.get f = s.get f := get_set_other s TIM_STATUS_PPS_PRESENT f 1 (by decide) d

@[simp] theorem ppsSeen_now (s : State) : s.ppsSeen.now = s.now := rfl
@[simp] theorem ppsSeen_gtOff (s : State) : s.ppsSeen.gtOff = s.gtOff := rfl

theorem ppsSeen_alignReady (s : State) (src : Nat) : s.ppsSeen.alignReady src = s.alignReady src := by
  unfold State.alignReady State.on
  rw [ppsSeen_get_other s _ (by decide), ppsSeen_get_other s _ (by decide), ppsSeen_get_other s _ (by decide)]

/-- An edge of the other direction counts for presence only. -/
theorem ppsEdge_unselected (s : State) (f : Bool) (h : f ≠ s.on TIM_REF_CFG_PPS_EDGE) : s.ppsEdge f = s.ppsSeen := if_pos h

/-- The selected edge that completes an alignment sets grid time to GT_NEXT (R33). -/
theorem ppsEdge_aligns (s : State) (f : Bool) (h : f = s.on TIM_REF_CFG_PPS_EDGE) (hr : s.alignReady 0 = true) :
    s.ppsEdge f =
      (let g : Int := s.ppsSeen.get2 TIM_GT_NEXT_LO_GT_NEXT TIM_GT_NEXT_HI_GT_NEXT
       let a := s.ppsSeen.alignDone (g - s.gridOf s.now)
       (a.setI TIM_PPS_ERR_ERR (errHalfUp g 1000000000)).setTim
         { a.tim with pps := { a.tim.pps with last := some (errHalfUp g 1000000000, g) } }) := by
  rw [← ppsSeen_alignReady] at hr
  exact (if_neg (not_not.2 h)).trans (if_pos hr)

/-- Where no alignment is ready the selected edge is measured, judged, and may steer (R27, R30). -/
theorem ppsEdge_measures (s : State) (f : Bool) (h : f = s.on TIM_REF_CFG_PPS_EDGE) (hr : s.alignReady 0 = false) :
    s.ppsEdge f =
      (let g := s.gridOf s.now
       let e := errHalfUp g 1000000000
       let m := s.ppsSeen.setI TIM_PPS_ERR_ERR e
       let j := judgeEdge s.ppsSeen.tim.pps (m.getI TIM_TRIM_TRIM) (m.get TIM_TOL_PPS_TOL) e g
       (m.setTim { m.tim with pps := j.2.2 }).steered j.1 j.2.1 TIM_EVENTS_PPS_DEV 1
         (fun x => steerTrim e (x.get TIM_REF_CFG_SLEW) 1000000)) := by
  rw [← ppsSeen_alignReady] at hr
  exact (if_neg (not_not.2 h)).trans (if_neg (Bool.eq_false_iff.1 hr))

/-- Where an edge of PPS_IN completes an alignment, the grid time of the edge is GT_NEXT (R33). -/
theorem ppsEdge_aligned (s : State) (f : Bool) (h : f = s.on TIM_REF_CFG_PPS_EDGE) (hr : s.alignReady 0 = true) :
    (s.ppsEdge f).get TIM_STATUS_PPS_PRESENT = 1 ∧
      (s.ppsEdge f).gridOf (s.ppsEdge f).now = s.get2 TIM_GT_NEXT_LO_GT_NEXT TIM_GT_NEXT_HI_GT_NEXT ∧
      (s.ppsEdge f).get TIM_ALIGN_ARM = 0 ∧ (s.ppsEdge f).get TIM_STATUS_GT_VALID = 1 ∧
      (s.ppsEdge f).get TIM_EVENTS_ALIGN_DONE = 1 ∧ (s.ppsEdge f).get TIM_TRIM_TRIM = 0 := by
  have hnext : s.ppsSeen.get2 TIM_GT_NEXT_LO_GT_NEXT TIM_GT_NEXT_HI_GT_NEXT =
      s.get2 TIM_GT_NEXT_LO_GT_NEXT TIM_GT_NEXT_HI_GT_NEXT := by
    unfold State.get2
    rw [ppsSeen_get_other s _ (by decide), ppsSeen_get_other s _ (by decide)]
  obtain ⟨harm, hvalid, hdone, htrim⟩ := alignDone_fields s.ppsSeen
    (s.get2 TIM_GT_NEXT_LO_GT_NEXT TIM_GT_NEXT_HI_GT_NEXT - s.gridOf s.now)
  rw [ppsEdge_aligns s f h hr, hnext]
  refine ⟨?_, ?_, ?_⟩
  · rw [setTim_get, setI_get_other _ _ _ _ (by decide) (by decide), alignDone_status _ _ _ rfl (by decide) (by decide),
      ppsSeen_present]
  · unfold State.gridOf
    rw [setTim_now, setTim_gtOff, setI_now, setI_gtOff, alignDone_now, alignDone_gtOff, ppsSeen_now, ppsSeen_gtOff]
    omega
  · simp (disch := decide) only [setTim_get, setI_get_other, harm, hvalid, hdone, htrim, and_self]

/-- Where an edge of PPS_IN is measured, grid time stays. -/
theorem ppsEdge_measured (s : State) (f : Bool) (h : f = s.on TIM_REF_CFG_PPS_EDGE) (hr : s.alignReady 0 = false) :
    (s.ppsEdge f).get TIM_STATUS_PPS_PRESENT = 1 ∧ (s.ppsEdge f).gtOff = s.gtOff ∧
      (s.ppsEdge f).get TIM_PPS_ERR_ERR = uenc (errHalfUp (s.gridOf s.now) 1000000000) 32 := by
  rw [ppsEdge_measures s f h hr]
  dsimp only
  refine ⟨?_, steered_gtOff _ _ _ _ _ _, ?_⟩
  · rw [steered_get_other _ _ _ _ _ _ _ (by decide) (by decide), setTim_get, setI_get_other _ _ _ _ (by decide) (by decide),
      ppsSeen_present]
  · rw [steered_get_other _ _ _ _ _ _ _ (by decide) (by decide), setTim_get, setI_get_same _ _ _ (by decide)]
    rfl

/-- The first edge of PPS_IN steers by R29 where PPS disciplines the clock. -/
theorem ppsEdge_steers (s : State) (f : Bool) (h : f = s.on TIM_REF_CFG_PPS_EDGE) (hr : s.alignReady 0 = false)
    (hl : s.tim.pps.last = none) (hd : s.get TIM_REF_CFG_DISC = 1) : (s.ppsEdge f).get TIM_TRIM_TRIM =
      uenc (steerTrim (errHalfUp (s.gridOf s.now) 1000000000) (s.get TIM_REF_CFG_SLEW) 1000000) 16 := by
  have hcfg (p : RefHist) (g : FRef) (e : Int) (ho : g.off = TIM_REF_CFG) :
      ((s.ppsSeen.setI TIM_PPS_ERR_ERR e).setTim { (s.ppsSeen.setI TIM_PPS_ERR_ERR e).tim with pps := p }).get g =
        s.get g := by
    rw [setTim_get, setI_get_other _ _ _ _ (by decide) (.inl (by rw [ho]; decide)),
      ppsSeen_get_other _ _ (.inl (by rw [ho]; decide))]
  rw [ppsEdge_measures s f h hr]
  dsimp only
  rw [judgeEdge_first _ _ _ _ _ (by exact hl), steered_trim _ _ _ _ ((hcfg _ _ _ rfl).trans hd), hcfg _ _ _ rfl]

/-! ### SYNC_IN -/

/-- An edge of SYNC_IN that is taken shows that the input is there (R50). -/
def State.syncSeen (s : State) : State :=
  (s.set TIM_STATUS_SYNC_PRESENT 1).setTim { s.tim with sync := { s.tim.sync with seen := some s.now } }

/-- The grid time of the instant that an edge of SYNC_IN marks, its delay taken off (R50). -/
def State.syncInstant (s : State) : Int := s.gridOf s.now - s.get TIM_SYNC_DELAY_DELAY

theorem syncSeen_present (s : State) : s.syncSeen.get TIM_STATUS_SYNC_PRESENT = 1 :=
  get_set_fits s TIM_STATUS_SYNC_PRESENT 1 (by decide) (by decide)

theorem syncSeen_get_other (s : State) (f : FRef) (d : f.off ≠ TIM_STATUS ∨ 6 ≤ f.lo ∨ f.lo + f.w ≤ 5) :
    s.syncSeen.get f = s.get f := get_set_other s TIM_STATUS_SYNC_PRESENT f 1 (by decide) d

theorem syncSeen_alignReady (s : State) (src : Nat) : s.syncSeen.alignReady src = s.alignReady src := by
  unfold State.alignReady State.on
  rw [syncSeen_get_other s _ (by decide), syncSeen_get_other s _ (by decide), syncSeen_get_other s _ (by decide)]

theorem syncSeen_instant (s : State) : s.syncSeen.syncInstant = s.syncInstant := by
  unfold State.syncInstant
  rw [syncSeen_get_other s _ (by decide)]
  rfl

theorem syncSeen_period (s : State) : s.syncSeen.syncPeriod = s.syncPeriod := by
  unfold State.syncPeriod
  rw [syncSeen_get_other s _ (by decide)]

/-- IN_EN and the direction let an edge of SYNC_IN through. -/
theorem syncEdge_taken {s : State} {f : Bool} (hi : s.on TIM_SYNC_CFG_IN_EN = true) (h : f = s.on TIM_SYNC_CFG_IN_EDGE) :
    ¬ ((!s.on TIM_SYNC_CFG_IN_EN) = true ∨ f ≠ s.on TIM_SYNC_CFG_IN_EDGE) := by
  rw [hi, ← h]; simp

/-- The edge that completes an alignment steps grid time to the nearest multiple of the period (R33, R50). -/
theorem syncEdge_aligns (s : State) (f : Bool) (hi : s.on TIM_SYNC_CFG_IN_EN = true) (h : f = s.on TIM_SYNC_CFG_IN_EDGE)
    (hr : s.alignReady 1 = true) : s.syncEdge f =
      (let d := nearestMul s.syncInstant s.syncPeriod - s.syncInstant
       let a := s.syncSeen.alignDone d
       (a.setI TIM_SYNC_ERR_ERR 0).setTim
         { a.tim with sync := { a.tim.sync with last := some (0, s.gridOf s.now + d) } }) := by
  rw [← syncSeen_alignReady] at hr
  rw [← syncSeen_instant, ← syncSeen_period]
  exact (if_neg (syncEdge_taken hi h)).trans (if_pos hr)

/-- Where no alignment is ready the edge is measured, judged, and may steer (R30, R50). -/
theorem syncEdge_measures (s : State) (f : Bool) (hi : s.on TIM_SYNC_CFG_IN_EN = true) (h : f = s.on TIM_SYNC_CFG_IN_EDGE)
    (hr : s.alignReady 1 = false) : s.syncEdge f =
      (let e := s.syncInstant - nearestMul s.syncInstant s.syncPeriod
       let m := s.syncSeen.setI TIM_SYNC_ERR_ERR e
       let j := judgeEdge s.syncSeen.tim.sync (m.getI TIM_TRIM_TRIM) (m.get TIM_TOL_SYNC_TOL) e (s.gridOf s.now)
       (m.setTim { m.tim with sync := j.2.2 }).steered j.1 j.2.1 TIM_EVENTS_SYNC_DEV 2
         (fun x => steerTrim e (x.get TIM_REF_CFG_SLEW) (x.get TIM_SYNC_CFG_PERIOD))) := by
  rw [← syncSeen_alignReady] at hr
  rw [← syncSeen_instant, ← syncSeen_period]
  exact (if_neg (syncEdge_taken hi h)).trans (if_neg (Bool.eq_false_iff.1 hr))

/-- Where an edge of SYNC_IN completes an alignment, its error is 0. -/
theorem syncEdge_aligned (s : State) (f : Bool) (hi : s.on TIM_SYNC_CFG_IN_EN = true) (h : f = s.on TIM_SYNC_CFG_IN_EDGE)
    (hr : s.alignReady 1 = true) : (s.syncEdge f).get TIM_STATUS_SYNC_PRESENT = 1 ∧
      (s.syncEdge f).gtOff = s.gtOff + (nearestMul s.syncInstant s.syncPeriod - s.syncInstant) ∧
      (s.syncEdge f).get TIM_ALIGN_ARM = 0 ∧ (s.syncEdge f).get TIM_SYNC_ERR_ERR = 0 := by
  rw [syncEdge_aligns s f hi h hr]
  dsimp only
  obtain ⟨harm, -, -, -⟩ := alignDone_fields s.syncSeen (nearestMul s.syncInstant s.syncPeriod - s.syncInstant)
  refine ⟨?_, alignDone_gtOff _ _, ?_, ?_⟩
  · rw [setTim_get, setI_get_other _ _ _ _ (by decide) (by decide), alignDone_status _ _ _ rfl (by decide) (by decide),
      syncSeen_present]
  · rw [setTim_get, setI_get_other _ _ _ _ (by decide) (by decide), harm]
  · rw [setTim_get, setI_get_same _ _ _ (by decide)]
    rfl

/-- Where an edge of SYNC_IN is measured, grid time stays. -/
theorem syncEdge_measured (s : State) (f : Bool) (hi : s.on TIM_SYNC_CFG_IN_EN = true) (h : f = s.on TIM_SYNC_CFG_IN_EDGE)
    (hr : s.alignReady 1 = false) : (s.syncEdge f).get TIM_STATUS_SYNC_PRESENT = 1 ∧ (s.syncEdge f).gtOff = s.gtOff ∧
      (s.syncEdge f).get TIM_SYNC_ERR_ERR = uenc (s.syncInstant - nearestMul s.syncInstant s.syncPeriod) 32 := by
  rw [syncEdge_measures s f hi h hr]
  dsimp only
  refine ⟨?_, steered_gtOff _ _ _ _ _ _, ?_⟩
  · rw [steered_get_other _ _ _ _ _ _ _ (by decide) (by decide), setTim_get, setI_get_other _ _ _ _ (by decide) (by decide),
      syncSeen_present]
  · rw [steered_get_other _ _ _ _ _ _ _ (by decide) (by decide), setTim_get, setI_get_same _ _ _ (by decide)]
    rfl

/-- The first edge of SYNC_IN steers by R29 where SYNC disciplines the clock. -/
theorem syncEdge_steers (s : State) (f : Bool) (hi : s.on TIM_SYNC_CFG_IN_EN = true) (h : f = s.on TIM_SYNC_CFG_IN_EDGE)
    (hr : s.alignReady 1 = false) (hl : s.tim.sync.last = none) (hd : s.get TIM_REF_CFG_DISC = 2) :
    (s.syncEdge f).get TIM_TRIM_TRIM = uenc (steerTrim (s.syncInstant - nearestMul s.syncInstant s.syncPeriod)
      (s.get TIM_REF_CFG_SLEW) (s.get TIM_SYNC_CFG_PERIOD)) 16 := by
  have hcfg (p : RefHist) (g : FRef) (e : Int) (ho : g.off = TIM_REF_CFG ∨ g.off = TIM_SYNC_CFG) :
      ((s.syncSeen.setI TIM_SYNC_ERR_ERR e).setTim { (s.syncSeen.setI TIM_SYNC_ERR_ERR e).tim with sync := p }).get g =
        s.get g := by
    rw [setTim_get, setI_get_other _ _ _ _ (by decide) (.inl (by rcases ho with ho | ho <;> rw [ho] <;> decide)),
      syncSeen_get_other _ _ (.inl (by rcases ho with ho | ho <;> rw [ho] <;> decide))]
  rw [syncEdge_measures s f hi h hr]
  dsimp only
  rw [judgeEdge_first _ _ _ _ _ (by exact hl), steered_trim _ _ _ _ ((hcfg _ _ _ (.inl rfl)).trans hd),
    hcfg _ _ _ (.inl rfl), hcfg _ _ _ (.inr rfl)]

/-! ### Absence of the references, and SYNC_OUT -/

/-- PPS_IN is declared absent once 1.1 s have passed (R31). -/
theorem ppsLost_absent (s : State) (hp : s.on TIM_STATUS_PPS_PRESENT = true)
    (ht : s.tim.pps.seen.getD 0 + 1100000000 ≤ s.now) :
    s.ppsLost.get TIM_STATUS_PPS_PRESENT = 0 ∧ s.ppsLost.get TIM_EVENTS_PPS_LOSS = 1 ∧ s.ppsLost.raised 18 := by
  unfold State.ppsLost
  rw [if_pos ⟨hp, ht⟩]
  refine ⟨?_, ?_, present_raised _ 18 (by decide)⟩
  · rw [present_get _ _ _ (by decide), ev_get_ne _ _ _ (by decide), get_set_fits _ _ _ (by decide) (by decide)]
  · rw [present_get _ _ _ (by decide), ev_get_same _ _ (by decide) rfl]

theorem syncGone_present (s : State) : s.syncGone.get TIM_STATUS_SYNC_PRESENT = 0 :=
  get_set_fits _ TIM_STATUS_SYNC_PRESENT 0 (by decide) (by decide)

/-- SYNC_IN is declared absent once two periods have passed (R50). -/
theorem syncLost_absent (s : State) (hp : s.on TIM_STATUS_SYNC_PRESENT = true)
    (ht : s.tim.sync.seen.getD 0 + 2 * s.syncPeriod ≤ s.now) :
    s.syncLost.get TIM_STATUS_SYNC_PRESENT = 0 ∧ s.syncLost.get TIM_EVENTS_SYNC_LOSS = 1 ∧ s.syncLost.raised 19 := by
  unfold State.syncLost
  rw [if_pos ⟨hp, ht⟩]
  refine ⟨?_, ?_, present_raised _ 19 (by decide)⟩
  · rw [present_get _ _ _ (by decide), ev_get_ne _ _ _ (by decide), syncGone_present]
  · rw [present_get _ _ _ (by decide), ev_get_same _ _ (by decide) rfl]

/-- SYNC_OUT rises at a multiple of its period (R49). -/
theorem syncOut_rises (s : State) (ho : s.on TIM_SYNC_CFG_OUT_EN = true) (hv : s.on TIM_STATUS_GT_VALID = true)
    (hg : s.gridOf s.now % s.syncPeriod = 0) : s.syncOut = s.setTim { s.tim with syncOutEnd := s.now + 100 } :=
  if_pos ⟨ho, hv, hg⟩

theorem syncOut_invalid (s : State) (hv : s.on TIM_STATUS_GT_VALID = false) : s.syncOut = s :=
  if_neg (by rw [hv]; simp)

/-- Settles O30: every edge is noted, and aligns or is measured; the losses and SYNC_OUT act at their instants. -/
theorem referenceInputsSteerAndAlign : Obligations.ReferenceInputsSteerAndAlign := by
  intro s x hup
  have hact (g : State → State) : s.main x g = g (s.at x) := main_up hup g
  have hpps (f : Bool) : exec (.ppsInEdge x f) s = .next ((s.at x).edgeStep (·.ppsEdge f)) :=
    congrArg Host.Outcome.next (hact _)
  have hsync (f : Bool) : exec (.syncInEdge x f) s = .next ((s.at x).edgeStep (·.syncEdge f)) :=
    congrArg Host.Outcome.next (hact _)
  have hout : exec (.syncOutPulse x) s = .next (s.at x).syncOut := congrArg Host.Outcome.next (hact State.syncOut)
  refine ⟨fun f h hr => ⟨_, hpps f, ?ppsAligns⟩, fun f h hr => ⟨_, hpps f, ?ppsMeasures⟩,
    fun f h hr hl hd => ⟨_, hpps f, ?ppsSteers⟩, fun f h => ⟨_, hpps f, ?ppsUnselected⟩,
    fun f hi h hr => ⟨_, hsync f, ?syncAligns⟩, fun f hi h hr => ⟨_, hsync f, ?syncMeasures⟩,
    fun f hi h hr hl hd => ⟨_, hsync f, ?syncSteers⟩,
    fun hp ht => ⟨_, congrArg Host.Outcome.next (hact State.ppsLost), ppsLost_absent _ hp ht⟩,
    fun hp ht => ⟨_, congrArg Host.Outcome.next (hact State.syncLost), syncLost_absent _ hp ht⟩,
    fun ho hv hg => ⟨_, hout, ?outRises⟩, fun hv => hout.trans (congrArg Host.Outcome.next (syncOut_invalid _ hv))⟩
  case ppsAligns =>
    simp only [edgeStep_get, edgeStep_gridOf]
    exact ppsEdge_aligned _ f h hr
  case ppsMeasures =>
    simp only [edgeStep_get, edgeStep_gtOff]
    exact ppsEdge_measured _ f h hr
  case ppsSteers => exact (edgeStep_get _ _ _).trans (ppsEdge_steers _ f h hr hl hd)
  case ppsUnselected =>
    simp only [edgeStep_get, edgeStep_gtOff, edgeStep_tim, ppsEdge_unselected _ f h]
    exact ⟨ppsSeen_present _, rfl, rfl, ppsSeen_get_other _ _ (by decide)⟩
  case syncAligns =>
    simp only [edgeStep_get, edgeStep_gtOff]
    exact syncEdge_aligned _ f hi h hr
  case syncMeasures =>
    simp only [edgeStep_get, edgeStep_gtOff]
    exact syncEdge_measured _ f hi h hr
  case syncSteers => exact (edgeStep_get _ _ _).trans (syncEdge_steers _ f hi h hr hl hd)
  case outRises =>
    rw [syncOut_rises _ ho hv hg]
    rfl

end Sys2Proof.Machine
end

section
/-! SUPPORT. Arming and disarming (R78 to R83): what the operations around a launch leave of the launch engine, and the
statement about the ends of an arming and of a disarm. -/

namespace Sys2Proof.Machine

-- One proof at a time: in parallel the package as one text would need too many threads.
set_option Elab.async false

variable {base s t : State}

/-! ### What the operations around a launch leave -/

/-- What arming and disarming turn on: the arming in progress, the pending disarm and the next launch. -/
def FeSt.launching (f : FeSt) : Option Arming × Option Disarming × Option NextShot := (f.arm, f.disarm, f.next)

theorem launching_eq_iff (f g : FeSt) : f.launching = g.launching ↔ f.arm = g.arm ∧ f.disarm = g.disarm ∧ f.next = g.next := by
  simp [FeSt.launching]

/-- A field of LNC that the device alone writes: no write of a part stores it (R304), and it is no duty measure. -/
structure FRef.OwnLnc (f : FRef) : Prop where
  block : f.off / 65536 = 3
  fits : f.lo + f.w ≤ 32
  unstored : ∀ i < f.w, fieldBit f.off accStores (f.lo + i) = false
  notDuty : ∀ n, f.off ≠ LNC_DUTY_MEAS n

/-- Two states agree in the arming, the pending disarm and the next launch of every fibre engine, and in the fields of LNC
that the device alone writes. -/
structure LaunchKept (s t : State) : Prop where
  launching : ∀ n, (t.f n).launching = (s.f n).launching
  field : ∀ f : FRef, f.OwnLnc → t.get f = s.get f

theorem LaunchKept.refl (s : State) : LaunchKept s s := ⟨fun _ => rfl, fun _ _ => rfl⟩

theorem LaunchKept.arm (h : LaunchKept s t) (n : Nat) : (t.f n).arm = (s.f n).arm :=
  ((launching_eq_iff _ _).1 (h.launching n)).1

theorem LaunchKept.disarm (h : LaunchKept s t) (n : Nat) : (t.f n).disarm = (s.f n).disarm :=
  ((launching_eq_iff _ _).1 (h.launching n)).2.1

theorem LaunchKept.next (h : LaunchKept s t) (n : Nat) : (t.f n).next = (s.f n).next :=
  ((launching_eq_iff _ _).1 (h.launching n)).2.2

theorem LaunchKept.ite {c : Prop} [Decidable c] (hs : LaunchKept base s) (ht : LaunchKept base t) :
    LaunchKept base (if c then s else t) := by
  split <;> assumption

theorem LaunchKept.foldl {α : Type} {f : State → α → State} {l : List α} (hs : LaunchKept base s)
    (hf : ∀ t x, LaunchKept base t → LaunchKept base (f t x)) : LaunchKept base (l.foldl f s) := by
  induction l generalizing s with
  | nil => exact hs
  | cons x l ih => exact ih (hf s x hs)

theorem f_of_fe (h : t.fe = s.fe) (n : Nat) : t.f n = s.f n := congrArg (vget FeSt.init · n) h

/-- An operation that changes neither LNC nor a fibre engine. -/
theorem LaunchKept.frame (hk : LaunchKept base s) (hr : RegsP (· ≠ 3) s t) (hf : OnlyP (· ≠ .fe) s t) : LaunchKept base t := by
  refine ⟨fun n => ?_, fun f h => (get_of_regs hr f (not_not.2 h.block)).trans (hk.field f h)⟩
  rw [f_of_fe (hf .fe (by decide)), hk.launching]

/-- A fibre engine after one is changed. -/
theorem modF_f (s : State) (m n : Nat) (g : FeSt → FeSt) :
    (s.modF m g).f n = if n = m ∧ n < 4 then g (s.f n) else s.f n := by
  unfold State.f
  rw [modF_fe]
  split
  case isTrue h =>
    obtain ⟨rfl, h4⟩ := h
    exact vget_vset_same _ _ _ _ h4
  case isFalse h =>
    by_cases hm : n = m
    · have h4 : ¬ n < 4 := fun h4 => h ⟨hm, h4⟩
      simp [vget, h4]
    · exact vget_vset_ne _ _ _ _ _ hm

theorem modF_f_same (s : State) (n : Fin 4) (g : FeSt → FeSt) : (s.modF n g).f n = g (s.f n) := by
  rw [modF_f, if_pos ⟨rfl, n.isLt⟩]

theorem modF_get (s : State) (m : Nat) (g : FeSt → FeSt) (f : FRef) : (s.modF m g).get f = s.get f := rfl

theorem modF_launching (s : State) (m n : Nat) (g : FeSt → FeSt) (hg : ∀ f, (g f).launching = f.launching) :
    ((s.modF m g).f n).launching = (s.f n).launching := by
  rw [modF_f]
  split
  · exact hg _
  · rfl

theorem LaunchKept.modF (hk : LaunchKept base s) (m : Nat) (g : FeSt → FeSt) (hg : ∀ f, (g f).launching = f.launching) :
    LaunchKept base (s.modF m g) :=
  ⟨fun n => (modF_launching s m n g hg).trans (hk.launching n), hk.field⟩

theorem LaunchKept.ev (hk : LaunchKept base s) (f : FRef) (h : f.off / 65536 ≠ 3) : LaunchKept base (s.ev f) :=
  hk.frame (ev_blocks (.refl _ s) f h) (ev_only (.refl _ s) f)

theorem LaunchKept.addSat (hk : LaunchKept base s) (f : FRef) (k : Nat) (h : f.off / 65536 ≠ 3) :
    LaunchKept base (s.addSat f k) :=
  hk.frame (addSat_blocks (.refl _ s) f k h) (addSat_only (.refl _ s) f k)

theorem LaunchKept.encCheck (hk : LaunchKept base s) (n : Nat) : LaunchKept base (s.encCheck n) :=
  hk.frame (encCheck_blocks (.refl _ s) n) (encCheck_only (.refl _ s) n)

theorem LaunchKept.bgSyncFe (hk : LaunchKept base s) (n : Nat) : LaunchKept base (s.bgSyncFe n) :=
  hk.frame (bgSyncFe_blocks (.refl _ s) n) (bgSyncFe_only (.refl _ s) n)

theorem LaunchKept.dcbSet (hk : LaunchKept base s) (n : Nat) : LaunchKept base (s.dcbSet n) :=
  hk.frame (dcbSet_blocks (.refl _ s) n) (dcbSet_only (.refl _ s) n)

theorem LaunchKept.restartNote (hk : LaunchKept base s) (n : Nat) : LaunchKept base (s.restartNote n) :=
  hk.frame (restartNote_blocks (.refl _ s) n) (restartNote_only (.refl _ s) n)

theorem LaunchKept.complete (hk : LaunchKept base s) (c : Cmd) (r v : Nat) : LaunchKept base (s.complete c r v) :=
  hk.frame (complete_blocks (.refl _ s) c r v) (complete_only (.refl _ s) c r v)

theorem LaunchKept.groupsEnd (hk : LaunchKept base s) (p : Group → Bool) (code : Nat) : LaunchKept base (s.groupsEnd p code) :=
  hk.frame (groupsEnd_blocks (.refl _ s) p code) (groupsEnd_only (.refl _ s) p code)

theorem LaunchKept.ramanMark (hk : LaunchKept base s) (n : Nat) (l : List Nat) : LaunchKept base (s.ramanMark n l) :=
  hk.modF n _ fun _ => rfl

theorem LaunchKept.modDts (hk : LaunchKept base s) (n : Nat) (g : DtsSt → DtsSt) : LaunchKept base (s.modDts n g) :=
  hk.modF n _ fun _ => rfl

theorem LaunchKept.dtsDrop (hk : LaunchKept base s) (n : Nat) (first : Option Nat) :
    LaunchKept base (s.dtsDrop n first).1 :=
  .ite ((hk.ramanMark n _).modDts n _) (hk.ramanMark n _)

theorem LaunchKept.dtsRestart (hk : LaunchKept base s) (n : Nat) : LaunchKept base (s.dtsRestart n) :=
  (hk.dtsDrop n none).ev _ (by rw [DTS_EVENTS_RESTART_blk]; decide)

theorem LaunchKept.evtReset (hk : LaunchKept base s) (n : Nat) : LaunchKept base (s.evtReset n) := by
  have hm : LaunchKept base (s.modF n fun f => { f with evt := f.evt.reset }) := hk.modF n _ fun _ => rfl
  exact (hm.frame (evtShow_blocks (.refl _ _) n) (evtShow_only (.refl _ _) n)).encCheck n

theorem LaunchKept.evtIdle (hk : LaunchKept base s) (n : Nat) : LaunchKept base (s.evtIdle n) := by
  unfold State.evtIdle
  refine .ite (.evtReset (hk.modF n _ ?_) n) hk
  exact fun _ => rfl

theorem LaunchKept.gatesEval (hk : LaunchKept base s) (n : Nat) : LaunchKept base (s.gatesEval n) := hk.modF n _ fun _ => rfl

theorem LaunchKept.staticSet (hk : LaunchKept base s) (n : Nat) : LaunchKept base (s.staticSet n) := by
  unfold State.staticSet
  refine .gatesEval (hk.modF n _ ?_) n
  exact fun _ => rfl

/-! ### The accountings of the duty windows -/

/-- Of the registers the duty accounting writes DUTY_MEAS alone (R76). -/
theorem dutySync_get (s : State) (n : Nat) (f : FRef) (h : f.off ≠ LNC_DUTY_MEAS n) : (s.dutySync n).get f = s.get f := by
  unfold State.dutySync
  dsimp only
  split
  · rfl
  · exact get_set_ne s (LNC_DUTY_MEAS_SAMPLES n) f _ h

theorem dutySync_launching (s : State) (m n : Nat) : ((s.dutySync m).f n).launching = (s.f n).launching := by
  unfold State.dutySync
  dsimp only
  split
  · exact modF_launching _ _ _ _ fun _ => rfl
  · refine (modF_launching _ _ _ _ ?_).trans (congrArg FeSt.launching (f_of_fe (set_fe _ _ _) n))
    exact fun _ => rfl

theorem LaunchKept.dutySync (hk : LaunchKept base s) (n : Nat) : LaunchKept base (s.dutySync n) :=
  ⟨fun m => (dutySync_launching s n m).trans (hk.launching m),
    fun f h => (dutySync_get s n f (h.notDuty n)).trans (hk.field f h)⟩

/-- Clamped samples are marked in the fibre engine and raised in the fault collector (R74). -/
theorem clampMark_get (s : State) (n : Nat) (w : Int) (f : FRef) (h : f.off / 65536 ≠ 14) :
    (s.clampMark n w).get f = s.get f := by
  unfold State.clampMark
  split
  · rfl
  · exact present_get _ _ f h

theorem clampMark_launching (s : State) (m : Nat) (w : Int) (n : Nat) :
    ((s.clampMark m w).f n).launching = (s.f n).launching := by
  unfold State.clampMark
  split
  · rfl
  · rw [f_of_fe (present_fe _)]
    exact modF_launching _ _ _ _ fun _ => rfl

/-- Of the registers outside FLT the count of clamped samples writes CLAMP_CNT and EVENTS (R74). -/
theorem clampSync_get (s : State) (n : Nat) (f : FRef) (h : f.off / 65536 ≠ 14) (hc : f.off ≠ LNC_CLAMP_CNT n)
    (he : f.off ≠ LNC_EVENTS n) : (s.clampSync n).get f = s.get f := by
  have hmarks (l : List Int) (t : State) : (l.foldl (fun s w => s.clampMark n w) t).get f = t.get f := by
    induction l generalizing t with
    | nil => rfl
    | cons w l ih => exact (ih _).trans (clampMark_get t n w f h)
  unfold State.clampSync
  dsimp only
  split
  · rfl
  · split
    · rfl
    · rw [hmarks, ev_get_ne _ _ f he]
      exact get_set_ne _ (LNC_CLAMP_CNT_COUNT n) f _ hc

theorem clampSync_launching (s : State) (m n : Nat) : ((s.clampSync m).f n).launching = (s.f n).launching := by
  have hmarks (l : List Int) (t : State) : ((l.foldl (fun s w => s.clampMark m w) t).f n).launching = (t.f n).launching := by
    induction l generalizing t with
    | nil => rfl
    | cons w l ih => exact (ih _).trans (clampMark_launching t m w n)
  unfold State.clampSync
  dsimp only
  split
  · rfl
  · split
    · exact modF_launching _ _ _ _ fun _ => rfl
    · rw [hmarks, f_of_fe (ev_fe _), f_of_fe (addSat_fe _ _ _)]
      exact modF_launching _ _ _ _ fun _ => rfl

theorem lncSync_get (s : State) (n : Nat) (f : FRef) (h : f.off / 65536 ≠ 14) (hc : f.off ≠ LNC_CLAMP_CNT n)
    (he : f.off ≠ LNC_EVENTS n) (hd : f.off ≠ LNC_DUTY_MEAS n) : (s.lncSync n).get f = s.get f :=
  (dutySync_get _ n f hd).trans (clampSync_get s n f h hc he)

theorem lncSync_launching (s : State) (m n : Nat) : ((s.lncSync m).f n).launching = (s.f n).launching :=
  (dutySync_launching _ m n).trans (clampSync_launching s m n)

/-! ### The end of launching (R304, R306) -/

/-- Writes of a part store in the fields that software writes alone. -/
theorem rget_rwrites_own (r : Tab Word) (ws : List (Nat × Word)) (f : FRef) (h : f.OwnLnc) :
    rget (rwrites r ws) f = rget r f := by
  have hone (r : Tab Word) (off : Nat) (v : Word) : rget (rwrite r off v) f = rget r f := by
    unfold rget
    by_cases ho : f.off = off
    · subst ho
      cases hs : regAt f.off with
      | none => unfold rwrite; rw [hs]
      | some spec =>
        rw [tget_rwrite_same _ _ _ _ hs]
        refine of_congr _ _ _ fun i hi => ?_
        have hbit : (spec.mask accStores).testBit (f.lo + i) = false := by simpa [fieldBit, hs] using h.unstored i hi
        have hfits := h.fits
        rw [mergeWord_bit _ _ _ _ (by omega), hbit]
        rfl
    · rw [tget_rwrite_ne _ _ _ _ ho]
  induction ws generalizing r with
  | nil => rfl
  | cons w ws ih => exact (ih _).trans (hone _ _ _)

theorem changed_launching (f : FeSt) (r : Tab Word) (n : Nat) (g : Int) (start : Option NextShot) (e : Effects) (d : DuePart) :
    (f.changed r n g start e d).launching = f.launching := by
  unfold FeSt.changed
  dsimp only
  cases start <;> dsimp only <;> split <;> rfl

/-- A part of a commit group changes settings, never the arming, the disarm or the launch that waits (R304). -/
theorem LaunchKept.applyPart (hk : LaunchKept base s) (n : Nat) (d : DuePart) (start : Option NextShot) :
    LaunchKept base (s.applyPart n d start) := by
  unfold State.applyPart
  extract_lets r0 r1 e g moved sd sg s1 s2 s3 s4
  have hd : LaunchKept base sd := .ite (hk.dutySync n) hk
  have hw : LaunchKept base { sd with regs := rwrites sd.regs (d.own n) } :=
    ⟨hd.launching, fun f hf => (rget_rwrites_own _ _ f hf).trans (hd.field f hf)⟩
  have hg : LaunchKept base sg :=
    .modF (hw.frame (tabLoads_blocks (.refl _ _) _) (tabLoads_only (.refl _ _) _)) n _ fun f => changed_launching f _ _ _ _ _ _
  have hp : LaunchKept base ((if moved then sg.staticSet n else sg).gatePols n ((d.own n).map (·.1))) :=
    .modF (.ite (hg.staticSet n) hg) n _ fun _ => rfl
  have h1 : LaunchKept base s1 :=
    .bgSyncFe (hp.frame (bgSwitch_blocks (.refl _ _) _ _ _) (bgSwitch_only (.refl _ _) _ _ _)) n
  have h2 : LaunchKept base s2 := .ite (h1.dcbSet n) h1
  have h3 : LaunchKept base s3 := .ite (h2.restartNote n) h2
  have h4 : LaunchKept base s4 := .ite (h3.dtsRestart n) h3
  exact .encCheck (.ite (h4.evtIdle n) h4) n

theorem LaunchKept.dtsDiscard (hk : LaunchKept base s) (n : Nat) (first : Option Nat) :
    LaunchKept base (s.dtsDiscard n first) := by
  unfold State.dtsDiscard
  refine .ite (.ev (.addSat (hk.dtsDrop n first) _ 1 ?_) _ ?_) hk
  · rw [DTS_DISCARD_CNT_COUNT_blk]; decide
  · rw [DTS_EVENTS_DISCARD_blk]; decide

/-- A fibre engine that stops launching keeps what the disarm or the trip has set (R304, R306). -/
theorem LaunchKept.stopped (hk : LaunchKept base s) (n : Nat) (tripped : Bool) : LaunchKept base (s.stopped n tripped) := by
  unfold State.stopped
  extract_lets due s1 s2
  have h1 : LaunchKept base s1 := by
    refine .foldl (hk.modF n _ ?_) fun _ d ht => ht.applyPart n d none
    exact fun _ => rfl
  have h2 : LaunchKept base s2 := by
    refine .bgSyncFe (.groupsEnd (h1.modF n _ ?_) _ _) n
    exact fun _ => rfl
  exact .encCheck (.ite (h2.dtsDiscard n none) h2) n

/-! ### The fields of LNC that tell of an arming -/

theorem lncState_own (n : Fin 4) : (LNC_STATUS_STATE n).OwnLnc := by
  have hst : ∀ n : Fin 4, ∀ i < 2, fieldBit (LNC_STATUS n) accStores (0 + i) = false := by decide
  refine ⟨LNC_STATUS_STATE_blk n, show 0 + 2 ≤ 32 by decide, hst n, fun m => ?_⟩
  simp only [LNC_STATUS_STATE, LNC_STATUS, LNC_DUTY_MEAS]
  omega

/-- Event bits of LNC are cleared by a 1, never stored (R16). -/
theorem lncEvent_own (n : Fin 4) (i : Nat) (h : i < 32) : FRef.OwnLnc ⟨LNC_EVENTS n, i, 1⟩ := by
  have hst : ∀ n : Fin 4, ∀ i < 32, fieldBit (LNC_EVENTS n) accStores i = false := by decide
  refine ⟨LNC_EVENTS_ARMED_blk n, h, fun j hj => ?_, fun m => ?_⟩
  · rw [Nat.lt_one_iff.1 hj]
    exact hst n i h
  · simp only [LNC_EVENTS, LNC_DUTY_MEAS]
    omega

theorem lstate_set (s : State) (n x : Nat) (h : x < 4) : (s.set (LNC_STATUS_STATE n) x).lstate n = x :=
  get_set_fits s (LNC_STATUS_STATE n) x (show 0 + 2 ≤ 32 by decide) h

/-- An event of the launch engine leaves its state. -/
theorem lstate_ev (s : State) (n i : Nat) : (s.ev ⟨LNC_EVENTS n, i, 1⟩).lstate n = s.lstate n :=
  ev_get_ne s _ (LNC_STATUS_STATE n) (by simp only [LNC_STATUS_STATE, LNC_STATUS, LNC_EVENTS]; omega)

theorem lncSync_lstate (s : State) (n : Nat) : (s.lncSync n).lstate n = s.lstate n := by
  refine lncSync_get s n (LNC_STATUS_STATE n) ?_ ?_ ?_ ?_ <;>
    simp only [LNC_STATUS_STATE, LNC_STATUS, LNC_CLAMP_CNT, LNC_EVENTS, LNC_DUTY_MEAS] <;> omega

theorem lncSync_gateMode (s : State) (n g : Nat) : gateMode (s.lncSync n).regs n g = gateMode s.regs n g := by
  refine lncSync_get s n (LNC_GATE_CFG_MODE n g) ?_ ?_ ?_ ?_ <;>
    simp only [LNC_GATE_CFG_MODE, LNC_GATE_CFG, LNC_CLAMP_CNT, LNC_EVENTS, LNC_DUTY_MEAS] <;> omega

/-! ### The self-test (R79, R80) -/

/-- A gate in STATIC mode is active once the STATIC gates are set (R69). -/
theorem staticSet_gateActive (s : State) (n : Fin 4) (g : Nat) (hg : g < 4) (h : gateMode s.regs n g = 1) :
    ((s.staticSet n).f n).gateActive g = true := by
  unfold State.staticSet State.gatesEval
  rw [modF_f_same, modF_f_same]
  simp [FeSt.gateActive, FeSt.gateEval, vget, hg, h]

/-- A self-test that passes leaves the engine in ARMING, with its STATIC gates active (R79). -/
theorem selfTest_passed (s : State) (n : Fin 4) (a : Arming) (ha : (s.f n).arm = some a) (ht : a.p + 2000 ≤ s.now)
    (hs : a.static = false) :
    ((s.selfTest n true).f n).arm = some { a with static := true } ∧ (s.selfTest n true).lstate n = s.lstate n ∧
      ∀ g < 4, gateMode s.regs n g = 1 → ((s.selfTest n true).f n).gateActive g = true := by
  have he : s.selfTest n true = (s.modF n fun f => { f with arm := some { a with static := true } }).staticUp n := by
    unfold State.selfTest
    rw [ha]
    exact if_pos ⟨ht, by rw [hs]; rfl⟩
  rw [he]
  unfold State.staticUp
  set u := s.modF n fun f => { f with arm := some { a with static := true } } with hu
  refine ⟨?_, lncSync_lstate u n, fun g hg hm => staticSet_gateActive _ n g hg ((lncSync_gateMode u n g).trans hm)⟩
  have hkept : ((u.lncSync n).f n).arm = (u.f n).arm := ((launching_eq_iff _ _).1 (lncSync_launching u n n)).1
  rw [((LaunchKept.refl _).staticSet n).arm, hkept, hu, modF_f_same]

/-- The end of an arming that fails: its code is shown, and the arming is over (R78). -/
theorem armEnd_fields (s : State) (n : Fin 4) (code : Nat) (hc : code < 16) (a : Arming) (ha : (s.f n).arm = some a) :
    ((s.armEnd n code).f n).arm = none ∧ (s.armEnd n code).get (LNC_ARM_RESULT_CODE n) = code ∧
      (s.armEnd n code).lstate n = s.lstate n := by
  unfold State.armEnd State.lstate
  rw [ha]
  dsimp only
  refine ⟨?_, ?_, ?_⟩
  · rw [f_of_fe (complete_fe _ _ _), modF_f_same]
  · rw [complete_get _ _ _ _ _ (by rw [LNC_ARM_RESULT_CODE_blk]; decide), modF_get, ev_get_ne _ _ _ ?_]
    · exact get_set_fits _ (LNC_ARM_RESULT_CODE n) code (show 0 + 4 ≤ 32 by decide) hc
    · simp only [LNC_ARM_RESULT_CODE, LNC_ARM_RESULT, LNC_EVENTS_ARM_FAIL, LNC_EVENTS]
      omega
  · rw [complete_get _ _ _ _ _ (by rw [LNC_STATUS_STATE_blk]; decide), modF_get, ev_get_ne _ _ _ ?_, get_set_ne _ _ _ _ ?_]
    all_goals
      simp only [LNC_STATUS_STATE, LNC_STATUS, LNC_ARM_RESULT_CODE, LNC_ARM_RESULT, LNC_EVENTS_ARM_FAIL, LNC_EVENTS]
      omega

/-- A self-test that fails makes the engine SAFE and raises LNC_TRIP_PATH (R80; that it is SAFE is log 93). -/
theorem selfTest_failed (s : State) (n : Fin 4) (a : Arming) (ha : (s.f n).arm = some a) (ht : a.p + 2000 ≤ s.now)
    (hs : a.static = false) :
    ((s.selfTest n false).f n).arm = none ∧ (s.selfTest n false).lstate n = 0 ∧
      (s.selfTest n false).get (LNC_ARM_RESULT_CODE n) = 12 ∧ (s.selfTest n false).raised 13 := by
  have he : s.selfTest n false = ((s.set (LNC_STATUS_STATE n) 0).armEnd n 12).present 13 := by
    unfold State.selfTest
    rw [ha]
    exact if_pos ⟨ht, by rw [hs]; rfl⟩
  obtain ⟨harm, hcode, hstate⟩ := armEnd_fields (s.set (LNC_STATUS_STATE n) 0) n 12 (by decide) a ha
  rw [he]
  refine ⟨?_, ?_, ?_, present_raised _ 13 (by decide)⟩
  · rw [f_of_fe (present_fe _), harm]
  · exact (present_get _ _ _ (by rw [LNC_STATUS_STATE_blk]; decide)).trans (hstate.trans (lstate_set s n 0 (by decide)))
  · rw [present_get _ _ _ (by rw [LNC_ARM_RESULT_CODE_blk]; decide), hcode]

/-! ### Entry to ARMED (R79) -/

theorem gridStart_get (s : State) (n : Nat) (a : Int) (f : FRef) : (s.gridStart n a).get f = s.get f :=
  get_of_regs (B := fun _ => False) (gridStart_blocks (.refl _ s) n a) f id

/-- The first launch of an arming is fixed; the arming itself is not touched (R40). -/
theorem gridStart_arm (s : State) (n : Fin 4) (a : Int) : ((s.gridStart n a).f n).arm = (s.f n).arm := by
  unfold State.gridStart
  dsimp only
  split <;> rw [modF_f_same] <;> dsimp only <;> split <;> rfl

/-- In external launch mode and in grid mode alike, what fixes the first launch leaves the registers (R40, R54). -/
theorem firstLaunch_get {c : Prop} [Decidable c] (s : State) (n : Nat) (g : FeSt → FeSt) (a : Int) (f : FRef) :
    (if c then s.modF n g else s.gridStart n a).get f = s.get f := by
  split
  · rfl
  · exact gridStart_get s n a f

theorem firstLaunch_arm {c : Prop} [Decidable c] (s : State) (n : Fin 4) (g : FeSt → FeSt) (a : Int)
    (hg : ∀ f, (g f).arm = f.arm) : ((if c then s.modF n g else s.gridStart n a).f n).arm = (s.f n).arm := by
  split
  · rw [modF_f_same, hg]
  · exact gridStart_arm s n a

/-- A command that completes runs no longer. -/
theorem complete_not_runs (s : State) (c : Cmd) (r v : Nat) (h : c.ring < 20) : ¬ (s.complete c r v).runs c := by
  unfold State.runs
  rw [complete_ring s c r v h]
  simp

/-- Entry to ARMED: the engine is ARMED with nothing in progress, then the signal path restarts and ARM completes (R79). -/
theorem armedEntry_eq (s : State) (n : Fin 4) (a : Arming) (ha : (s.f n).arm = some a) (hs : a.static = true)
    (ht : a.p + 2000 + 1000 * s.get (LNC_ARM_CFG_LEAD n) ≤ s.now) :
    ∃ u : State, s.armedEntry n = ((((u.dcbSet n).restartNote n).bgSyncFe n).dtsRestart n).complete a.cmd 0 0 ∧
      (u.f n).arm = none ∧ u.lstate n = 2 ∧ u.get (LNC_EVENTS_ARMED n) = 1 := by
  have hstate : ((s.set (LNC_STATUS_STATE n) 2).ev (LNC_EVENTS_ARMED n)).lstate n = 2 :=
    (lstate_ev _ n 0).trans (lstate_set s n 2 (by decide))
  have hev : ((s.set (LNC_STATUS_STATE n) 2).ev (LNC_EVENTS_ARMED n)).get (LNC_EVENTS_ARMED n) = 1 :=
    ev_get_same _ (LNC_EVENTS_ARMED n) (show 0 + 1 ≤ 32 by decide) rfl
  unfold State.armedEntry
  rw [ha]
  refine ⟨_, if_pos ⟨hs, ht⟩, ?_, (firstLaunch_get _ _ _ _ _).trans hstate, (firstLaunch_get _ _ _ _ _).trans hev⟩
  rw [firstLaunch_arm, modF_f_same]
  exact fun _ => rfl

/-- LEAD after the self-test the engine is ARMED, and ARM completes (R79). -/
theorem armedEntry_armed (s : State) (n : Fin 4) (a : Arming) (ha : (s.f n).arm = some a) (hs : a.static = true)
    (ht : a.p + 2000 + 1000 * s.get (LNC_ARM_CFG_LEAD n) ≤ s.now) (hr : a.cmd.ring < 20) :
    (s.armedEntry n).lstate n = 2 ∧ ((s.armedEntry n).f n).arm = none ∧ (s.armedEntry n).get (LNC_EVENTS_ARMED n) = 1 ∧
      ¬ (s.armedEntry n).runs a.cmd := by
  obtain ⟨u, he, harm, hstate, hev⟩ := armedEntry_eq s n a ha hs ht
  have hk : LaunchKept u (s.armedEntry n) := by
    rw [he]
    exact .complete (.dtsRestart (.bgSyncFe (.restartNote (.dcbSet (.refl u) n) n) n) n) _ _ _
  refine ⟨(hk.field _ (lncState_own n)).trans hstate, (hk.arm n).trans harm,
    (hk.field _ (lncEvent_own n 0 (by decide))).trans hev, ?_⟩
  rw [he]
  exact complete_not_runs _ _ _ _ hr

/-! ### A disarm that takes effect (R82) -/

/-- A disarm whose instant has come is pending. -/
theorem disarmDue_pending (s : State) (n : Nat) (h : s.disarmDue n = true) : ∃ d, (s.f n).disarm = some d := by
  unfold State.disarmDue at h
  cases hd : (s.f n).disarm with
  | none => simp [hd] at h
  | some d => exact ⟨d, rfl⟩

theorem staticDown_launching (s : State) (m n : Nat) : ((s.staticDown m).f n).launching = (s.f n).launching := by
  unfold State.staticDown
  refine (((LaunchKept.refl _).gatesEval m).launching n).trans ((modF_launching _ _ _ _ ?_).trans (lncSync_launching s m n))
  exact fun _ => rfl

/-- A pending disarm completes: it waits no longer, its event is set, and the state and the next launch stay (R82). -/
theorem disarmDone_fields (s : State) (n : Fin 4) (d : Disarming) (hd : (s.f n).disarm = some d) :
    (s.disarmDone n).lstate n = s.lstate n ∧ ((s.disarmDone n).f n).next = (s.f n).next ∧
      ((s.disarmDone n).f n).disarm = none ∧ (s.disarmDone n).get (LNC_EVENTS_DISARMED n) = 1 := by
  unfold State.disarmDone
  rw [hd]
  extract_lets s1
  have hk : LaunchKept s1 (d.cmds.foldl (fun s c => s.complete c 0 0) s1) := .foldl (.refl s1) fun _ c ht => ht.complete c 0 0
  have hf : s1.f n = { s.f n with disarm := none } := (f_of_fe (ev_fe _) n).trans (modF_f_same s n _)
  have hev : s1.get (LNC_EVENTS_DISARMED n) = 1 :=
    ev_get_same _ (LNC_EVENTS_DISARMED n) (show 1 + 1 ≤ 32 by decide) rfl
  exact ⟨(hk.field _ (lncState_own n)).trans (lstate_ev _ n 1), (hk.next n).trans (by rw [hf]),
    (hk.disarm n).trans (by rw [hf]), (hk.field _ (lncEvent_own n 1 (by decide))).trans hev⟩

/-- A due disarm: the STATIC gates go inactive, the engine is SAFE with no next launch, the disarm completes, and launching
stops (R82). -/
theorem disarmEffect_eq (s : State) (n : Fin 4) (ha : s.lstate n = 2) (hd : s.disarmDue n = true) :
    ∃ u : State, s.disarmEffect n = (u.disarmDone n).stopped n false ∧ u.lstate n = 0 ∧ (u.f n).next = none ∧
      (u.f n).disarm = (s.f n).disarm := by
  refine ⟨_, if_pos ⟨ha, hd⟩, lstate_set _ n 0 (by decide), congrArg FeSt.next (modF_f_same _ n _), ?_⟩
  rw [modF_f_same, f_of_fe (set_fe _ _ _)]
  exact ((launching_eq_iff _ _).1 (staticDown_launching s n n)).2.1

/-- An ARMED engine whose disarm is due is SAFE, and nothing waits for it (R82). -/
theorem disarmEffect_safe (s : State) (n : Fin 4) (ha : s.lstate n = 2) (hd : s.disarmDue n = true) :
    (s.disarmEffect n).lstate n = 0 ∧ ((s.disarmEffect n).f n).next = none ∧ ((s.disarmEffect n).f n).disarm = none ∧
      (s.disarmEffect n).get (LNC_EVENTS_DISARMED n) = 1 := by
  obtain ⟨d, hp⟩ := disarmDue_pending s n hd
  obtain ⟨u, he, hsafe, hnone, hsame⟩ := disarmEffect_eq s n ha hd
  obtain ⟨hstate, hnext, hdis, hev⟩ := disarmDone_fields u n d (hsame.trans hp)
  have hk : LaunchKept (u.disarmDone n) (s.disarmEffect n) := by
    rw [he]
    exact .stopped (.refl _) n false
  exact ⟨(hk.field _ (lncState_own n)).trans (hstate.trans hsafe), (hk.next n).trans (hnext.trans hnone),
    (hk.disarm n).trans hdis, (hk.field _ (lncEvent_own n 1 (by decide))).trans hev⟩

/-- Settles O33: each event acts where the signal fabric is awake, and its outcome is that of its operation. -/
theorem armingEndsArmedOrSafe : Obligations.ArmingEndsArmedOrSafe := by
  intro s x n hup
  have hact (g : State → State) : s.fabric x g = g (s.at x) := fabric_awake hup g
  have hmode : (s.at x).mode ≠ 0 := by
    intro h
    simp [State.awakeAt, h] at hup
  have htest (p : Bool) : exec (.armSelftestDone x n p) s = .next ((s.at x).selfTest n p) :=
    congrArg Host.Outcome.next (hact _)
  refine ⟨fun a ha ht hs => ⟨⟨_, htest true, selfTest_passed _ n a ha ht hs⟩, ?failed⟩,
    fun a ha hs ht hr => ⟨_, congrArg Host.Outcome.next (hact (·.armedEntry n)), armedEntry_armed _ n a ha hs ht hr⟩,
    fun ha hd => ⟨_, (execDisarmTakeEffect_up x n hmode).trans (congrArg Host.Outcome.next (hact _)),
      disarmEffect_safe _ n ha hd⟩⟩
  case failed =>
    obtain ⟨harm, hstate, hcode, hraised⟩ := selfTest_failed _ n a ha ht hs
    exact ⟨_, htest false, harm, hstate, hcode, hraised, by decide⟩

end Sys2Proof.Machine
end
